-- ==== Sys2Proof/Word.lean ====
section
/-! DEFINITION. The word types of the Ronaund machine (R4, R5, R478) and the sparse table that
every keyed collection of the state is held in. Only types and their plainest arithmetic stand here. -/

namespace Sys2Proof

/-- One byte of memory or stash. -/
abbrev Byte := BitVec 8
/-- One 32-bit instruction word or control word (R478). -/
abbrev Word32 := BitVec 32
/-- One scalar register, or one lane of a vector register (R275, R527). -/
abbrev Word := BitVec 64
/-- One mask over the at most 1,024 lanes of a team (R270, R272). -/
abbrev Mask := BitVec 1024
/-- One 64-byte line (R312). -/
abbrev Line := BitVec 512

/-- A sparse table: key and value pairs in strictly rising key order. -/
abbrev Tbl (α : Type) := List (Nat × α)

end Sys2Proof
end

