-- ==== Sys2Proof/Syntax.lean ====
section
/-! DEFINITION. The abstract syntax: one constructor of `Instr` per row of the opcode table. Rows that carry an
encoding have their operand fields as bit vectors; rows without bits are the device's events and the host's
commands, and carry what the requirement that governs them names. -/

namespace Sys2Proof

/-- Where an uncorrectable error is found (R19, R81, R88, R224, R431). -/
inductive ErrSite
  /-- A line of memory, by physical address. -/
  | memLine (pa : Nat)
  /-- A home-slice entry that may hold committed dirty data. -/
  | homeEntry (pa : Nat)
  /-- A shadow entry or shadow-pool line of a launch. -/
  | shadowEntry (launch : Nat)
  /-- A shadow entry that a W9L holds for another die's launch, by origin die, partition and version. -/
  | foreignEntry (die : Nat) (part : Nat) (ver : Nat)
  /-- Corrupt data of a partition found after it left the die without poison. -/
  | lostPoison (part : Nat)
  /-- State that belongs to no partition. -/
  | systemState
  /-- A register file row of a team. -/
  | regFile (team : Nat)
  /-- A stash bank, at an offset of a quarter, met by a team. -/
  | stashBank (team : Nat) (off : Nat)
  /-- An image fetch of a team. -/
  | imageFetch (team : Nat)
  /-- A save area, met at the restore of a context. -/
  | saveArea (ctx : Nat)
  /-- A cell of an engine's feeder or stash bank, met by a card, corrected or not (R363): cluster, card. -/
  | engineCell (cluster : Nat) (card : Nat) (corrected : Bool)
  /-- An accumulator word of a tile: cluster, tile, row, column. -/
  | accWord (cluster : Nat) (tile : Nat) (row : Nat) (col : Nat)
deriving DecidableEq, Repr

/-- A master of R96, as `m_kill` and `m_rel` name it. -/
inductive Master
  | team (t : Nat)
  | engine (cluster : Nat) (card : Nat)
  | peer (pbr : Nat) (part : Nat)
  | vf (n : Nat)
deriving DecidableEq, Repr

/-- The TDISP state of a VF's TDI (R141). -/
inductive Tdi | unlocked | locked | run | error
deriving DecidableEq, Repr

/-- SPDM traffic over the PF's DOE mailbox (R54, R140, R142, R143). -/
inductive SpdmMsg
  | getMeasurements
  | getCertificate
  | establish (sess : Nat) (bound : Bool)
  | tenantKeys (sess : Nat) (part : Nat) (material : BitVec 256)
deriving DecidableEq, Repr

/-- What the host answers to an ATS translation request (R175, R176, R431). -/
inductive AtsRes
  | present (hpa : Nat) (lg : Nat) (r : Bool) (w : Bool) (shared : Bool)
  | notPresent
  | error
deriving DecidableEq, Repr

/-- PRG response codes (R178). -/
inductive PrgCode | success | invalid | failure
deriving DecidableEq, Repr

/-- A request on memory from outside the die (R58, R60, R54): the bytes of one line. -/
inductive MemOp
  | read
  | readExcl
  /-- A write of the bytes that a mask selects; with poison (R80). -/
  | write (mask : BitVec 64) (data : BitVec 512) (pois : Bool := false)
  /-- An atomic of major 0x18: function, type code, byte offset in the line, operand, comparand. -/
  | atomic (fn : Nat) (ty : Nat) (off : Nat) (x : BitVec 64) (e : BitVec 64)
  /-- A shadow write of another die's launch (R190, R308). -/
  | shadowWrite (spart : Nat) (sver : Nat) (mask : BitVec 64) (data : BitVec 512) (pois : Bool := false)
  /-- A read in the view of another die's launch, with the versions of its chain, nearest first (R192). -/
  | viewRead (spart : Nat) (sver : Nat) (chain : List Nat := [])
  /-- The shadow entry and deltas of another die's launch on a line, which leave this home with a moving page (R183). -/
  | takeEntry (spart : Nat) (sver : Nat)
  /-- A combined atomic of another die's launch in its view (R191, R332): the lanes' operands and comparands, `fmt` its FMT
  word; `delta` adds to its delta (R205). -/
  | viewAtomic (spart : Nat) (sver : Nat) (fn : Nat) (ty : Nat) (off : Nat) (ops : List (BitVec 64 × BitVec 64)) (fmt : BitVec 32) (delta : Bool)
    (chain : List Nat := [])
  /-- Arm a monitor of a team of another die's launch on a word (R349): in whose view, its number, comparison, value and chain. -/
  | arm (spart : Nat) (sver : Nat) (id : Nat) (cmp : Nat) (v : BitVec 64) (chain : List Nat := [])
  /-- A monitor is given up by its number (R352). -/
  | disarm (id : Nat)
  /-- `signal.m` of a team of another die's partition (R433). -/
  | signal (spart : Nat)
  /-- A prepare message of another die's pool commit (R217). -/
  | prepare (spart : Nat) (sver : Nat)
  /-- The commit message of another die's pool commit, while hosts that hold its lines are back-invalidated (R60, R217). -/
  | commit (spart : Nat) (sver : Nat)
deriving DecidableEq, Repr

/-- One entry of a footprint table (R121): class, virtual base, length in bytes. -/
structure Foot where
  cls : Nat
  base : Nat
  len : Nat
deriving DecidableEq, Repr

/-- The operands of an event or command, as they stand at the device's ports while it is performed. -/
structure Arg where
  n0 : Nat := 0
  n1 : Nat := 0
  n2 : Nat := 0
  n3 : Nat := 0
  n4 : Nat := 0
  n5 : Nat := 0
  n6 : Nat := 0
  flag : Bool := false
  v : BitVec 64 := 0
  wide : BitVec 2048 := 0
  bytes : List Byte := []
  op : MemOp := .read
  site : ErrSite := .systemState
  m : Master := .team 0
  tdi : Tdi := .unlocked
  spdm : SpdmMsg := .getMeasurements
  ats : AtsRes := .error
  prg : PrgCode := .success
  foot : List Foot := []
  ns : List Nat := []
  opt : Option Nat := none
  optv : Option Word := none
deriving DecidableEq, Repr

/-- One constructor per row of the opcode table: the instruction words, with their operand fields (`z` is S, R478),
then the events and commands that the table lists without bits. What an event carries stands in the state as an
`Arg` while the event is performed; its docstring names the fields. -/
inductive Instr
  /-- `NOP` (R640). -/
  | nop (z : BitVec 1)
  /-- `EXIT` (R641). -/
  | exit (z : BitVec 1)
  /-- `TRAP` (R643). -/
  | trap (z : BitVec 1) (n : BitVec 3)
  /-- `TRET` (R430). -/
  | tret (z : BitVec 1)
  /-- `TABORT` (R645). -/
  | tabort (z : BitVec 1)
  /-- `BRK` (R644). -/
  | brk (z : BitVec 1)
  /-- `GETC` (R648). -/
  | getc (z : BitVec 1) (d : BitVec 6) (c : BitVec 6)
  /-- `GETC_F` (R649). -/
  | getcF (z : BitVec 1) (d : BitVec 6) (a : BitVec 6)
  /-- `SETC` (R648). -/
  | setc (z : BitVec 1) (c : BitVec 6) (b : BitVec 6)
  /-- `SETC_F` (R649). -/
  | setcF (z : BitVec 1) (a : BitVec 6) (b : BitVec 6)
  /-- `SETFMT` (R650). -/
  | setfmt (z : BitVec 1) (b : BitVec 6)
  /-- `SETFMT_M` (R650). -/
  | setfmtM (z : BitVec 1) (a : BitVec 6) (b : BitVec 6)
  /-- `SETFMT_I` (R650). -/
  | setfmtI (z : BitVec 1)
  /-- `WIDF` (R651). -/
  | widf (z : BitVec 1) (d : BitVec 6) (f : BitVec 3)
  /-- `WIDF_ALL` (R651). -/
  | widfAll (z : BitVec 1) (d : BitVec 6)
  /-- `CAPQ` (R652). -/
  | capq (z : BitVec 1) (d : BitVec 6) (a : BitVec 6)
  /-- `NOW` (R653). -/
  | now (z : BitVec 1) (d : BitVec 6)
  /-- `B` (R514). -/
  | b (z : BitVec 1) (o : BitVec 18)
  /-- `BAL` (R514). -/
  | bal (z : BitVec 1) (o : BitVec 18)
  /-- `BC_ANY` (R514). -/
  | bcAny (z : BitVec 1) (k : BitVec 3) (o : BitVec 18)
  /-- `BC_NONE` (R514). -/
  | bcNone (z : BitVec 1) (k : BitVec 3) (o : BitVec 18)
  /-- `BC_ALL` (R514). -/
  | bcAll (z : BitVec 1) (k : BitVec 3) (o : BitVec 18)
  /-- `BC_NALL` (R514). -/
  | bcNall (z : BitVec 1) (k : BitVec 3) (o : BitVec 18)
  /-- `BC_EQ` (R514). -/
  | bcEq (z : BitVec 1) (r : BitVec 6) (o : BitVec 12)
  /-- `BC_NE` (R514). -/
  | bcNe (z : BitVec 1) (r : BitVec 6) (o : BitVec 12)
  /-- `BC_LT` (R514). -/
  | bcLt (z : BitVec 1) (r : BitVec 6) (o : BitVec 12)
  /-- `BC_GE` (R514). -/
  | bcGe (z : BitVec 1) (r : BitVec 6) (o : BitVec 12)
  /-- `BC_GT` (R514). -/
  | bcGt (z : BitVec 1) (r : BitVec 6) (o : BitVec 12)
  /-- `BC_LE` (R514). -/
  | bcLe (z : BitVec 1) (r : BitVec 6) (o : BitVec 12)
  /-- `JR` (R514). -/
  | jr (z : BitVec 1) (r : BitVec 6)
  /-- `JALR` (R514). -/
  | jalr (z : BitVec 1) (r : BitVec 6)
  /-- `VIF` (R518). -/
  | vif (z : BitVec 1) (k : BitVec 3) (o : BitVec 18)
  /-- `VELSE` (R519). -/
  | velse (z : BitVec 1) (o : BitVec 18)
  /-- `VENDIF` (R520). -/
  | vendif (z : BitVec 1)
  /-- `VDO` (R521). -/
  | vdo (z : BitVec 1) (k : BitVec 3) (o : BitVec 18)
  /-- `VWHILE` (R522). -/
  | vwhile (z : BitVec 1) (k : BitVec 3)
  /-- `VBRK` (R523). -/
  | vbrk (z : BitVec 1) (k : BitVec 3)
  /-- `VANY` (R524). -/
  | vany (z : BitVec 1) (k : BitVec 3) (d : BitVec 6)
  /-- `VALL` (R524). -/
  | vall (z : BitVec 1) (k : BitVec 3) (d : BitVec 6)
  /-- `SADD` (R528). -/
  | sadd (z : BitVec 1) (d : BitVec 6) (a : BitVec 6) (b : BitVec 6) (i : BitVec 1)
  /-- `SSUB` (R528). -/
  | ssub (z : BitVec 1) (d : BitVec 6) (a : BitVec 6) (b : BitVec 6) (i : BitVec 1)
  /-- `SAND` (R528). -/
  | sand (z : BitVec 1) (d : BitVec 6) (a : BitVec 6) (b : BitVec 6) (i : BitVec 1)
  /-- `SOR` (R528). -/
  | sor (z : BitVec 1) (d : BitVec 6) (a : BitVec 6) (b : BitVec 6) (i : BitVec 1)
  /-- `SXOR` (R528). -/
  | sxor (z : BitVec 1) (d : BitVec 6) (a : BitVec 6) (b : BitVec 6) (i : BitVec 1)
  /-- `SANDN` (R528). -/
  | sandn (z : BitVec 1) (d : BitVec 6) (a : BitVec 6) (b : BitVec 6) (i : BitVec 1)
  /-- `SSHL` (R528). -/
  | sshl (z : BitVec 1) (d : BitVec 6) (a : BitVec 6) (b : BitVec 6) (i : BitVec 1)
  /-- `SSHR` (R528). -/
  | sshr (z : BitVec 1) (d : BitVec 6) (a : BitVec 6) (b : BitVec 6) (i : BitVec 1)
  /-- `SSRA` (R528). -/
  | ssra (z : BitVec 1) (d : BitVec 6) (a : BitVec 6) (b : BitVec 6) (i : BitVec 1)
  /-- `SSEQ` (R528). -/
  | sseq (z : BitVec 1) (d : BitVec 6) (a : BitVec 6) (b : BitVec 6) (i : BitVec 1)
  /-- `SSNE` (R528). -/
  | ssne (z : BitVec 1) (d : BitVec 6) (a : BitVec 6) (b : BitVec 6) (i : BitVec 1)
  /-- `SSLT` (R528). -/
  | sslt (z : BitVec 1) (d : BitVec 6) (a : BitVec 6) (b : BitVec 6) (i : BitVec 1)
  /-- `SSLTU` (R528). -/
  | ssltu (z : BitVec 1) (d : BitVec 6) (a : BitVec 6) (b : BitVec 6) (i : BitVec 1)
  /-- `SSLE` (R528). -/
  | ssle (z : BitVec 1) (d : BitVec 6) (a : BitVec 6) (b : BitVec 6) (i : BitVec 1)
  /-- `SSLEU` (R528). -/
  | ssleu (z : BitVec 1) (d : BitVec 6) (a : BitVec 6) (b : BitVec 6) (i : BitVec 1)
  /-- `SMIN` (R528). -/
  | smin (z : BitVec 1) (d : BitVec 6) (a : BitVec 6) (b : BitVec 6) (i : BitVec 1)
  /-- `SMAX` (R528). -/
  | smax (z : BitVec 1) (d : BitVec 6) (a : BitVec 6) (b : BitVec 6) (i : BitVec 1)
  /-- `SADDI` (R529). -/
  | saddi (z : BitVec 1) (d : BitVec 6) (a : BitVec 6) (i : BitVec 13)
  /-- `SMUL` (R530). -/
  | smul (z : BitVec 1) (d : BitVec 6) (a : BitVec 6) (b : BitVec 6) (i : BitVec 1)
  /-- `SMULH` (R530). -/
  | smulh (z : BitVec 1) (d : BitVec 6) (a : BitVec 6) (b : BitVec 6) (i : BitVec 1)
  /-- `SMULHU` (R530). -/
  | smulhu (z : BitVec 1) (d : BitVec 6) (a : BitVec 6) (b : BitVec 6) (i : BitVec 1)
  /-- `SDIV` (R530). -/
  | sdiv (z : BitVec 1) (d : BitVec 6) (a : BitVec 6) (b : BitVec 6) (i : BitVec 1)
  /-- `SDIVU` (R530). -/
  | sdivu (z : BitVec 1) (d : BitVec 6) (a : BitVec 6) (b : BitVec 6) (i : BitVec 1)
  /-- `SREM` (R530). -/
  | srem (z : BitVec 1) (d : BitVec 6) (a : BitVec 6) (b : BitVec 6) (i : BitVec 1)
  /-- `SREMU` (R530). -/
  | sremu (z : BitVec 1) (d : BitVec 6) (a : BitVec 6) (b : BitVec 6) (i : BitVec 1)
  /-- `SCLZ` (R532). -/
  | sclz (z : BitVec 1) (d : BitVec 6) (a : BitVec 6)
  /-- `SCTZ` (R532). -/
  | sctz (z : BitVec 1) (d : BitVec 6) (a : BitVec 6)
  /-- `SPOPC` (R532). -/
  | spopc (z : BitVec 1) (d : BitVec 6) (a : BitVec 6)
  /-- `SBREV` (R532). -/
  | sbrev (z : BitVec 1) (d : BitVec 6) (a : BitVec 6)
  /-- `SBSWAP` (R532). -/
  | sbswap (z : BitVec 1) (d : BitVec 6) (a : BitVec 6)
  /-- `SROTL` (R532). -/
  | srotl (z : BitVec 1) (d : BitVec 6) (a : BitVec 6) (b : BitVec 6) (i : BitVec 1)
  /-- `SROTR` (R532). -/
  | srotr (z : BitVec 1) (d : BitVec 6) (a : BitVec 6) (b : BitVec 6) (i : BitVec 1)
  /-- `VADD` (R546). -/
  | vadd (z : BitVec 1) (d : BitVec 6) (a : BitVec 6) (b : BitVec 6) (t : BitVec 3)
  /-- `VSUB` (R546). -/
  | vsub (z : BitVec 1) (d : BitVec 6) (a : BitVec 6) (b : BitVec 6) (t : BitVec 3)
  /-- `VADDS` (R546). -/
  | vadds (z : BitVec 1) (d : BitVec 6) (a : BitVec 6) (b : BitVec 6) (t : BitVec 3)
  /-- `VSUBS` (R546). -/
  | vsubs (z : BitVec 1) (d : BitVec 6) (a : BitVec 6) (b : BitVec 6) (t : BitVec 3)
  /-- `VMIN` (R546). -/
  | vmin (z : BitVec 1) (d : BitVec 6) (a : BitVec 6) (b : BitVec 6) (t : BitVec 3)
  /-- `VMAX` (R546). -/
  | vmax (z : BitVec 1) (d : BitVec 6) (a : BitVec 6) (b : BitVec 6) (t : BitVec 3)
  /-- `VABS` (R546). -/
  | vabs (z : BitVec 1) (d : BitVec 6) (a : BitVec 6) (t : BitVec 3)
  /-- `VNEG` (R546). -/
  | vneg (z : BitVec 1) (d : BitVec 6) (a : BitVec 6) (t : BitVec 3)
  /-- `VSLL` (R546). -/
  | vsll (z : BitVec 1) (d : BitVec 6) (a : BitVec 6) (b : BitVec 6) (t : BitVec 3)
  /-- `VSRL` (R546). -/
  | vsrl (z : BitVec 1) (d : BitVec 6) (a : BitVec 6) (b : BitVec 6) (t : BitVec 3)
  /-- `VSRA` (R546). -/
  | vsra (z : BitVec 1) (d : BitVec 6) (a : BitVec 6) (b : BitVec 6) (t : BitVec 3)
  /-- `VCMPEQ` (R546). -/
  | vcmpeq (z : BitVec 1) (d : BitVec 6) (a : BitVec 6) (b : BitVec 6) (t : BitVec 3)
  /-- `VCMPLT` (R546). -/
  | vcmplt (z : BitVec 1) (d : BitVec 6) (a : BitVec 6) (b : BitVec 6) (t : BitVec 3)
  /-- `VCMPLE` (R546). -/
  | vcmple (z : BitVec 1) (d : BitVec 6) (a : BitVec 6) (b : BitVec 6) (t : BitVec 3)
  /-- `VADDI` (R547). -/
  | vaddi (z : BitVec 1) (d : BitVec 6) (a : BitVec 6) (i : BitVec 10) (t : BitVec 3)
  /-- `VMUL` (R548). -/
  | vmul (z : BitVec 1) (d : BitVec 6) (a : BitVec 6) (b : BitVec 6) (t : BitVec 3)
  /-- `VMULH` (R548). -/
  | vmulh (z : BitVec 1) (d : BitVec 6) (a : BitVec 6) (b : BitVec 6) (t : BitVec 3)
  /-- `VMADD` (R548). -/
  | vmadd (z : BitVec 1) (d : BitVec 6) (a : BitVec 6) (b : BitVec 6) (t : BitVec 3)
  /-- `VDOT4` (R548). -/
  | vdot4 (z : BitVec 1) (d : BitVec 6) (a : BitVec 6) (b : BitVec 6) (t : BitVec 3)
  /-- `VWMUL` (R548). -/
  | vwmul (z : BitVec 1) (d : BitVec 6) (a : BitVec 6) (b : BitVec 6) (t : BitVec 3)
  /-- `VAND` (R549). -/
  | vand (z : BitVec 1) (d : BitVec 6) (a : BitVec 6) (b : BitVec 6) (t : BitVec 3)
  /-- `VOR` (R549). -/
  | vor (z : BitVec 1) (d : BitVec 6) (a : BitVec 6) (b : BitVec 6) (t : BitVec 3)
  /-- `VXOR` (R549). -/
  | vxor (z : BitVec 1) (d : BitVec 6) (a : BitVec 6) (b : BitVec 6) (t : BitVec 3)
  /-- `VNOT` (R549). -/
  | vnot (z : BitVec 1) (d : BitVec 6) (a : BitVec 6) (t : BitVec 3)
  /-- `VPOPC` (R549). -/
  | vpopc (z : BitVec 1) (d : BitVec 6) (a : BitVec 6) (t : BitVec 3)
  /-- `VFADD` (R551). -/
  | vfadd (z : BitVec 1) (d : BitVec 6) (a : BitVec 6) (b : BitVec 6) (t : BitVec 3)
  /-- `VFSUB` (R551). -/
  | vfsub (z : BitVec 1) (d : BitVec 6) (a : BitVec 6) (b : BitVec 6) (t : BitVec 3)
  /-- `VFMIN` (R552). -/
  | vfmin (z : BitVec 1) (d : BitVec 6) (a : BitVec 6) (b : BitVec 6) (t : BitVec 3)
  /-- `VFMAX` (R552). -/
  | vfmax (z : BitVec 1) (d : BitVec 6) (a : BitVec 6) (b : BitVec 6) (t : BitVec 3)
  /-- `VFABS` (R552). -/
  | vfabs (z : BitVec 1) (d : BitVec 6) (a : BitVec 6) (t : BitVec 3)
  /-- `VFNEG` (R552). -/
  | vfneg (z : BitVec 1) (d : BitVec 6) (a : BitVec 6) (t : BitVec 3)
  /-- `VFSGN` (R552). -/
  | vfsgn (z : BitVec 1) (d : BitVec 6) (a : BitVec 6) (b : BitVec 6) (t : BitVec 3)
  /-- `VFMUL` (R551). -/
  | vfmul (z : BitVec 1) (d : BitVec 6) (a : BitVec 6) (b : BitVec 6) (t : BitVec 3)
  /-- `VFMA` (R551). -/
  | vfma (z : BitVec 1) (d : BitVec 6) (a : BitVec 6) (b : BitVec 6) (t : BitVec 3)
  /-- `VFMS` (R551). -/
  | vfms (z : BitVec 1) (d : BitVec 6) (a : BitVec 6) (b : BitVec 6) (t : BitVec 3)
  /-- `VFNMA` (R551). -/
  | vfnma (z : BitVec 1) (d : BitVec 6) (a : BitVec 6) (b : BitVec 6) (t : BitVec 3)
  /-- `VFDIV` (R551). -/
  | vfdiv (z : BitVec 1) (d : BitVec 6) (a : BitVec 6) (b : BitVec 6) (t : BitVec 3)
  /-- `VFSQRT` (R551). -/
  | vfsqrt (z : BitVec 1) (d : BitVec 6) (a : BitVec 6) (t : BitVec 3)
  /-- `VFCMP_EQ` (R553). -/
  | vfcmpEq (z : BitVec 1) (d : BitVec 6) (a : BitVec 6) (b : BitVec 6) (t : BitVec 3)
  /-- `VFCMP_NE` (R553). -/
  | vfcmpNe (z : BitVec 1) (d : BitVec 6) (a : BitVec 6) (b : BitVec 6) (t : BitVec 3)
  /-- `VFCMP_LT` (R553). -/
  | vfcmpLt (z : BitVec 1) (d : BitVec 6) (a : BitVec 6) (b : BitVec 6) (t : BitVec 3)
  /-- `VFCMP_LE` (R553). -/
  | vfcmpLe (z : BitVec 1) (d : BitVec 6) (a : BitVec 6) (b : BitVec 6) (t : BitVec 3)
  /-- `VFCMP_GT` (R553). -/
  | vfcmpGt (z : BitVec 1) (d : BitVec 6) (a : BitVec 6) (b : BitVec 6) (t : BitVec 3)
  /-- `VFCMP_GE` (R553). -/
  | vfcmpGe (z : BitVec 1) (d : BitVec 6) (a : BitVec 6) (b : BitVec 6) (t : BitVec 3)
  /-- `VFCMP_ORD` (R553). -/
  | vfcmpOrd (z : BitVec 1) (d : BitVec 6) (a : BitVec 6) (b : BitVec 6) (t : BitVec 3)
  /-- `VFCMP_UNO` (R553). -/
  | vfcmpUno (z : BitVec 1) (d : BitVec 6) (a : BitVec 6) (b : BitVec 6) (t : BitVec 3)
  /-- `VFCLASS` (R554). -/
  | vfclass (z : BitVec 1) (d : BitVec 6) (a : BitVec 6) (t : BitVec 3)
  /-- `VCVT` (R556). -/
  | vcvt (z : BitVec 1) (d : BitVec 6) (a : BitVec 6) (p : BitVec 2) (c : BitVec 3) (t : BitVec 3)
  /-- `VCVTI` (R557). -/
  | vcvti (z : BitVec 1) (d : BitVec 6) (a : BitVec 6) (r : BitVec 1) (p : BitVec 2) (c : BitVec 3) (t : BitVec 3)
  /-- `VPACK` (R558). -/
  | vpack (z : BitVec 1) (d : BitVec 6) (a : BitVec 6) (b : BitVec 6) (t : BitVec 3)
  /-- `VUNPACK` (R559). -/
  | vunpack (z : BitVec 1) (d : BitVec 6) (a : BitVec 6) (h : BitVec 1) (t : BitVec 3)
  /-- `VSCALE` (R560). -/
  | vscale (z : BitVec 1) (d : BitVec 6) (a : BitVec 6) (b : BitVec 6) (t : BitVec 3)
  /-- `VRCP` (R561). -/
  | vrcp (z : BitVec 1) (d : BitVec 6) (a : BitVec 6) (t : BitVec 3)
  /-- `VRSQRT` (R561). -/
  | vrsqrt (z : BitVec 1) (d : BitVec 6) (a : BitVec 6) (t : BitVec 3)
  /-- `VEXP2` (R561). -/
  | vexp2 (z : BitVec 1) (d : BitVec 6) (a : BitVec 6) (t : BitVec 3)
  /-- `VLOG2` (R561). -/
  | vlog2 (z : BitVec 1) (d : BitVec 6) (a : BitVec 6) (t : BitVec 3)
  /-- `VSIN` (R561). -/
  | vsin (z : BitVec 1) (d : BitVec 6) (a : BitVec 6) (t : BitVec 3)
  /-- `VCOS` (R561). -/
  | vcos (z : BitVec 1) (d : BitVec 6) (a : BitVec 6) (t : BitVec 3)
  /-- `VTANH` (R561). -/
  | vtanh (z : BitVec 1) (d : BitVec 6) (a : BitVec 6) (t : BitVec 3)
  /-- `VSHFL` (R564). -/
  | vshfl (z : BitVec 1) (d : BitVec 6) (a : BitVec 6) (b : BitVec 6) (t : BitVec 3)
  /-- `VBCAST` (R564). -/
  | vbcast (z : BitVec 1) (d : BitVec 6) (a : BitVec 6) (b : BitVec 6) (t : BitVec 3)
  /-- `VSCAN` (R565). -/
  | vscan (z : BitVec 1) (d : BitVec 6) (a : BitVec 6) (o : BitVec 4) (e : BitVec 1) (t : BitVec 3)
  /-- `VRED` (R565). -/
  | vred (z : BitVec 1) (d : BitVec 6) (a : BitVec 6) (o : BitVec 4) (t : BitVec 3)
  /-- `VCOMPRESS` (R566). -/
  | vcompress (z : BitVec 1) (d : BitVec 6) (a : BitVec 6)
  /-- `VEXPAND` (R567). -/
  | vexpand (z : BitVec 1) (d : BitVec 6) (a : BitVec 6)
  /-- `KAND` (R534). -/
  | kand (z : BitVec 1) (d : BitVec 3) (a : BitVec 3) (b : BitVec 3)
  /-- `KOR` (R534). -/
  | kor (z : BitVec 1) (d : BitVec 3) (a : BitVec 3) (b : BitVec 3)
  /-- `KXOR` (R534). -/
  | kxor (z : BitVec 1) (d : BitVec 3) (a : BitVec 3) (b : BitVec 3)
  /-- `KNOT` (R534). -/
  | knot (z : BitVec 1) (d : BitVec 3) (a : BitVec 3)
  /-- `KANDN` (R534). -/
  | kandn (z : BitVec 1) (d : BitVec 3) (a : BitVec 3) (b : BitVec 3)
  /-- `KMOV` (R534). -/
  | kmov (z : BitVec 1) (d : BitVec 3) (a : BitVec 3)
  /-- `KPOP` (R534). -/
  | kpop (z : BitVec 1) (d : BitVec 6) (a : BitVec 3)
  /-- `KFFS` (R534). -/
  | kffs (z : BitVec 1) (d : BitVec 6) (a : BitVec 3)
  /-- `VMOV` (R536). -/
  | vmov (z : BitVec 1) (d : BitVec 6) (a : BitVec 6)
  /-- `VSPLAT` (R536). -/
  | vsplat (z : BitVec 1) (d : BitVec 6) (a : BitVec 6) (t : BitVec 3)
  /-- `VEXT` (R536). -/
  | vext (z : BitVec 1) (d : BitVec 6) (a : BitVec 6) (b : BitVec 6) (t : BitVec 3)
  /-- `VINS` (R536). -/
  | vins (z : BitVec 1) (d : BitVec 6) (a : BitVec 6) (b : BitVec 6) (t : BitVec 3)
  /-- `VSEL` (R536). -/
  | vsel (z : BitVec 1) (d : BitVec 6) (a : BitVec 6) (b : BitVec 6) (k : BitVec 3)
  /-- `KVEC` (R536). -/
  | kvec (z : BitVec 1) (d : BitVec 6) (a : BitVec 3)
  /-- `VECK` (R536). -/
  | veck (z : BitVec 1) (d : BitVec 3) (a : BitVec 6)
  /-- `LD` (R576). -/
  | ld (z : BitVec 1) (d : BitVec 6) (b : BitVec 6) (p : BitVec 6) (m : BitVec 3) (t : BitVec 3)
  /-- `PF` (R579). -/
  | pf (z : BitVec 1) (b : BitVec 6) (p : BitVec 6) (m : BitVec 3) (t : BitVec 3)
  /-- `ST` (R577). -/
  | st (z : BitVec 1) (d : BitVec 6) (b : BitVec 6) (p : BitVec 6) (m : BitVec 3) (t : BitVec 3)
  /-- `SLD` (R585). -/
  | sld (z : BitVec 1) (d : BitVec 6) (b : BitVec 6) (p : BitVec 6) (m : BitVec 2) (t : BitVec 3)
  /-- `SLD_FE_PEEK` (R585). -/
  | sldFePeek (z : BitVec 1) (d : BitVec 6) (b : BitVec 6) (p : BitVec 6) (m : BitVec 2) (t : BitVec 3)
  /-- `SLD_FE_CONSUME` (R585). -/
  | sldFeConsume (z : BitVec 1) (d : BitVec 6) (b : BitVec 6) (p : BitVec 6) (m : BitVec 2) (t : BitVec 3)
  /-- `SST` (R586). -/
  | sst (z : BitVec 1) (d : BitVec 6) (b : BitVec 6) (p : BitVec 6) (m : BitVec 2) (t : BitVec 3)
  /-- `SST_FULL` (R586). -/
  | sstFull (z : BitVec 1) (d : BitVec 6) (b : BitVec 6) (p : BitVec 6) (m : BitVec 2) (t : BitVec 3)
  /-- `AADD` (R580). -/
  | aadd (z : BitVec 1) (d : BitVec 6) (b : BitVec 6) (p : BitVec 6) (t : BitVec 3)
  /-- `AFADD` (R581). -/
  | afadd (z : BitVec 1) (d : BitVec 6) (b : BitVec 6) (p : BitVec 6) (t : BitVec 3)
  /-- `AMIN` (R580). -/
  | amin (z : BitVec 1) (d : BitVec 6) (b : BitVec 6) (p : BitVec 6) (t : BitVec 3)
  /-- `AMAX` (R580). -/
  | amax (z : BitVec 1) (d : BitVec 6) (b : BitVec 6) (p : BitVec 6) (t : BitVec 3)
  /-- `AAND` (R580). -/
  | aand (z : BitVec 1) (d : BitVec 6) (b : BitVec 6) (p : BitVec 6) (t : BitVec 3)
  /-- `AOR` (R580). -/
  | aor (z : BitVec 1) (d : BitVec 6) (b : BitVec 6) (p : BitVec 6) (t : BitVec 3)
  /-- `AXOR` (R580). -/
  | axor (z : BitVec 1) (d : BitVec 6) (b : BitVec 6) (p : BitVec 6) (t : BitVec 3)
  /-- `AXCH` (R580). -/
  | axch (z : BitVec 1) (d : BitVec 6) (b : BitVec 6) (p : BitVec 6) (t : BitVec 3)
  /-- `ACAS` (R580). -/
  | acas (z : BitVec 1) (d : BitVec 6) (b : BitVec 6) (p : BitVec 6) (t : BitVec 3)
  /-- `AINC` (R580). -/
  | ainc (z : BitVec 1) (d : BitVec 6) (b : BitVec 6) (p : BitVec 6) (t : BitVec 3)
  /-- `SAADD` (R588). -/
  | saadd (z : BitVec 1) (d : BitVec 6) (b : BitVec 6) (p : BitVec 6) (w : BitVec 1) (m : BitVec 2)
  /-- `SAMIN` (R588). -/
  | samin (z : BitVec 1) (d : BitVec 6) (b : BitVec 6) (p : BitVec 6) (w : BitVec 1) (m : BitVec 2)
  /-- `SAMAX` (R588). -/
  | samax (z : BitVec 1) (d : BitVec 6) (b : BitVec 6) (p : BitVec 6) (w : BitVec 1) (m : BitVec 2)
  /-- `SAXCH` (R588). -/
  | saxch (z : BitVec 1) (d : BitVec 6) (b : BitVec 6) (p : BitVec 6) (w : BitVec 1) (m : BitVec 2)
  /-- `FENCE_REL` (R589). -/
  | fenceRel (z : BitVec 1) (x : BitVec 3)
  /-- `FENCE_ACQ` (R589). -/
  | fenceAcq (z : BitVec 1) (x : BitVec 3)
  /-- `FENCE_AR` (R589). -/
  | fenceAr (z : BitVec 1) (x : BitVec 3)
  /-- `BINIT` (R592). -/
  | binit (z : BitVec 1) (a : BitVec 6) (b : BitVec 6)
  /-- `BARR` (R592). -/
  | barr (z : BitVec 1) (d : BitVec 6) (a : BitVec 6) (b : BitVec 6)
  /-- `BEXP` (R592). -/
  | bexp (z : BitVec 1) (a : BitVec 6) (b : BitVec 6)
  /-- `BWAIT` (R593). -/
  | bwait (z : BitVec 1) (a : BitVec 6) (b : BitVec 6) (v : BitVec 1)
  /-- `BTRY` (R592). -/
  | btry (z : BitVec 1) (d : BitVec 6) (a : BitVec 6) (b : BitVec 6) (v : BitVec 1)
  /-- `WAITC` (R595). -/
  | waitc (z : BitVec 1) (d : BitVec 6) (b : BitVec 6) (p : BitVec 6) (c : BitVec 3)
  /-- `WMON` (R595). -/
  | wmon (z : BitVec 1) (d : BitVec 6) (b : BitVec 6) (p : BitVec 6) (c : BitVec 3)
  /-- `WTEST` (R595). -/
  | wtest (z : BitVec 1) (d : BitVec 6)
  /-- `TMBEGIN` (R596). -/
  | tmbegin (z : BitVec 1) (a : BitVec 6) (b : BitVec 6)
  /-- `TMEND` (R596). -/
  | tmend (z : BitVec 1)
  /-- `TMABORT` (R596). -/
  | tmabort (z : BitVec 1)
  /-- `TMSTAT` (R599). -/
  | tmstat (z : BitVec 1) (d : BitVec 6)
  /-- `SALLOC` (R600). -/
  | salloc (z : BitVec 1) (d : BitVec 6) (a : BitVec 6) (b : BitVec 6) (w : BitVec 1) (k : BitVec 2)
  /-- `SFREE` (R602). -/
  | sfree (z : BitVec 1) (a : BitVec 6)
  /-- `SMAP` (R600). -/
  | smap (z : BitVec 1) (a : BitVec 6) (b : BitVec 6) (w : BitVec 1) (k : BitVec 2)
  /-- `SUNMAP` (R600). -/
  | sunmap (z : BitVec 1) (a : BitVec 6)
  /-- `SFLUSH` (R600). -/
  | sflush (z : BitVec 1) (a : BitVec 6)
  /-- `LDS` (R578). -/
  | lds (z : BitVec 1) (d : BitVec 6) (b : BitVec 6) (p : BitVec 6) (t : BitVec 3)
  /-- `STS` (R578). -/
  | sts (z : BitVec 1) (d : BitVec 6) (b : BitVec 6) (p : BitVec 6) (t : BitVec 3)
  /-- `ENQ_COPY` (R608). -/
  | enqCopy (z : BitVec 1) (d : BitVec 6) (a : BitVec 6)
  /-- `ENQ_MATW` (R611). -/
  | enqMatw (z : BitVec 1) (d : BitVec 6) (a : BitVec 6)
  /-- `ENQ_MATA` (R612). -/
  | enqMata (z : BitVec 1) (d : BitVec 6) (a : BitVec 6)
  /-- `ENQ_MDRAIN` (R613). -/
  | enqMdrain (z : BitVec 1) (d : BitVec 6) (a : BitVec 6)
  /-- `ENQ_GATHER` (R615). -/
  | enqGather (z : BitVec 1) (d : BitVec 6) (a : BitVec 6)
  /-- `ENQ_SCAT` (R615). -/
  | enqScat (z : BitVec 1) (d : BitVec 6) (a : BitVec 6)
  /-- `ENQ_MERGE` (R616). -/
  | enqMerge (z : BitVec 1) (d : BitVec 6) (a : BitVec 6)
  /-- `ENQ_KSCAN` (R617). -/
  | enqKscan (z : BitVec 1) (d : BitVec 6) (a : BitVec 6)
  /-- `CHAIN` (R619). -/
  | chain (z : BitVec 1) (a : BitVec 6)
  /-- `CSTAT` (R620). -/
  | cstat (z : BitVec 1) (d : BitVec 6) (a : BitVec 6) (n : BitVec 1) (c : BitVec 1)
  /-- `KVOPEN` (R623). -/
  | kvopen (z : BitVec 1) (d : BitVec 6) (a : BitVec 6)
  /-- `KVOPEN_DS` (R624). -/
  | kvopenDs (z : BitVec 1) (d : BitVec 6) (a : BitVec 6)
  /-- `KVCLOSE` (R625). -/
  | kvclose (z : BitVec 1) (a : BitVec 6)
  /-- `KVAPP` (R626). -/
  | kvapp (z : BitVec 1) (d : BitVec 6) (a : BitVec 6) (b : BitVec 6)
  /-- `KVTRUNC` (R627). -/
  | kvtrunc (z : BitVec 1) (d : BitVec 6) (a : BitVec 6) (b : BitVec 6)
  /-- `KVFORK` (R629). -/
  | kvfork (z : BitVec 1) (d : BitVec 6) (a : BitVec 6) (b : BitVec 6)
  /-- `KVLOOK` (R630). -/
  | kvlook (z : BitVec 1) (d : BitVec 6) (a : BitVec 6) (b : BitVec 6)
  /-- `KVLOOK_INS` (R630). -/
  | kvlookIns (z : BitVec 1) (d : BitVec 6) (a : BitVec 6) (b : BitVec 6)
  /-- `KVALLOC_GROW` (R631). -/
  | kvallocGrow (z : BitVec 1) (d : BitVec 6) (a : BitVec 6) (b : BitVec 6)
  /-- `KVALLOC_GRANT` (R631). -/
  | kvallocGrant (z : BitVec 1) (d : BitVec 6) (a : BitVec 6) (b : BitVec 6)
  /-- `KVALLOC_RSV` (R631). -/
  | kvallocRsv (z : BitVec 1) (d : BitVec 6) (a : BitVec 6) (b : BitVec 6)
  /-- `KVALLOC_DEM` (R631). -/
  | kvallocDem (z : BitVec 1) (d : BitVec 6) (a : BitVec 6) (b : BitVec 6)
  /-- `DSIN` (R633). -/
  | dsin (z : BitVec 1) (d : BitVec 6) (a : BitVec 6) (b : BitVec 6)
  /-- `DSGEN` (R634). -/
  | dsgen (z : BitVec 1) (d : BitVec 6) (a : BitVec 6) (b : BitVec 6)
  /-- `DSTRUNC` (R635). -/
  | dstrunc (z : BitVec 1) (d : BitVec 6) (a : BitVec 6) (b : BitVec 6)
  /-- `DSSNAP` (R636). -/
  | dssnap (z : BitVec 1) (a : BitVec 6) (b : BitVec 6)
  /-- `DSPLAY` (R637). -/
  | dsplay (z : BitVec 1) (a : BitVec 6) (b : BitVec 6)
  /-- `LAUNCH` (R655). -/
  | launch (z : BitVec 1) (d : BitVec 6) (a : BitVec 6) (b : BitVec 6)
  /-- `LAUNCH_WAIT` (R658). -/
  | launchWait (z : BitVec 1) (d : BitVec 6) (a : BitVec 6)
  /-- `ROLE` (R660). -/
  | role (z : BitVec 1) (d : BitVec 6) (a : BitVec 6) (b : BitVec 6)
  /-- `ROLE_ASK` (R661). -/
  | roleAsk (z : BitVec 1) (d : BitVec 6) (a : BitVec 6)
  /-- `QPUSH` (R662). -/
  | qpush (z : BitVec 1) (a : BitVec 6) (b : BitVec 6)
  /-- `QPOP` (R663). -/
  | qpop (z : BitVec 1) (d : BitVec 6) (a : BitVec 6) (b : BitVec 6)
  /-- `QTRY` (R663). -/
  | qtry (z : BitVec 1) (d : BitVec 6) (a : BitVec 6) (b : BitVec 6)
  /-- `MIG` (R666). -/
  | mig (z : BitVec 1) (a : BitVec 6)
  /-- `MIG_TRAP` (R666). -/
  | migTrap (z : BitVec 1) (a : BitVec 6)
  /-- `MRET` (R667). -/
  | mret (z : BitVec 1)
  /-- `MJOIN` (R668). -/
  | mjoin (z : BitVec 1)
  /-- `MSTAT` (R669). -/
  | mstat (z : BitVec 1) (d : BitVec 6)
  /-- `SIGNAL_Q` (R433). -/
  | signalQ (z : BitVec 1) (a : BitVec 6)
  /-- `SIGNAL_M` (R433). -/
  | signalM (z : BitVec 1) (a : BitVec 6)
  /-- `MSIG` (R434). -/
  | msig (z : BitVec 1) (a : BitVec 6)
  /-- `PCMARK` (R673). -/
  | pcmark (z : BitVec 1) (a : BitVec 6)
  /-- `PCSAMPLE` (R673). -/
  | pcsample (z : BitVec 1)
  /-- `PCREAD` (R674). -/
  | pcread (z : BitVec 1) (d : BitVec 6) (a : BitVec 6)
  /-- `IMM_WORD` (R489). -/
  | immWord (i : BitVec 25)
  /-- `MOD_WORD` (R490). -/
  | modWord (m : BitVec 3) (z : BitVec 1) (r : BitVec 1) (n : BitVec 3) (v : BitVec 1) (f : BitVec 6)
  /-- `MODX_WORD` (R543). -/
  | modxWord (m : BitVec 3) (z : BitVec 1) (k : BitVec 1) (o : BitVec 2) (f : BitVec 2) (p : BitVec 14)
  /-- `HINT_STREAM` (R675). -/
  | hintStream (n : BitVec 8)
  /-- `HINT_YIELD` (R675). -/
  | hintYield
  /-- `DEVICE_RESET` (R136). -/
  | deviceReset
  /-- `BOOT_STAGE_COMPLETE` (R39, R142); operands: stage = n0, the stage's image = bytes, its signature, the public key and its security
  version = ns. -/
  | bootStageComplete
  /-- `FLIT_TAG_FAILURE` (R23); operands: stack = n0, the flit is a retransmission = flag. -/
  | flitTagFailure
  /-- `FREEZE_N_PIN` (R39); operands: low = flag. -/
  | freezeNPin
  /-- `FRZ_CTL_WRITE` (R40); operands: v = v. -/
  | frzCtlWrite
  /-- `FREEZE` (R41). -/
  | freeze
  /-- `FRZ_DUMP` (R45). -/
  | frzDump
  /-- `Q_GATE` (R30); operands: q = n0, gate = flag. -/
  | qGate
  /-- `QUARTER_UNGATE_DONE` (R31); operands: q = n0. -/
  | quarterUngateDone
  /-- `PSTATE` (R36); operands: p = n0. -/
  | pstate
  /-- `VDD_CORE_RAMP_DONE` (R36). -/
  | vddCoreRampDone
  /-- `THERMAL_THROTTLE` (R37); operands: count = n0, cause = n1. -/
  | thermalThrottle
  /-- `FRAME_BOUNDARY` (R34). -/
  | frameBoundary
  /-- `LINK_TRAINING` (R50); operands: port = n0, sub = n1, gts = n2, protocol = n3 (0 PCIe 6.0, 1 CXL 3.1 with 256-byte flits),
  another flit mode = flag, a switch that routes by hierarchy stands behind it = opt. -/
  | linkTraining
  /-- `LINK_DOWN` (R89); operands: port = n0, sub = n1. -/
  | linkDown
  /-- `SURPRISE_REMOVAL` (R89); operands: pbr = n0. -/
  | surpriseRemoval
  /-- `IDE_INTEGRITY_FAILURE` (R56); operands: port = n0, sub = n1. -/
  | ideIntegrityFailure
  /-- `UIO_REQUEST_TIMEOUT` (R89); operands: pbr = n0, id = n1. -/
  | uioRequestTimeout
  /-- `DIE_UNREACHABLE_TIMEOUT` (R714); operands: pbr = n0 (a host is 4,096 + BI-ID), a completion that the port could not deliver = flag. -/
  | dieUnreachableTimeout
  /-- `SHADOW_DISCARD_TIMEOUT` (R221); operands: pbr = n0. -/
  | shadowDiscardTimeout
  /-- `VIRAL_INDICATION_RECEIVED` (R81); operands: port = n0, sub = n1. -/
  | viralIndicationReceived
  /-- `UNCORRECTABLE_ERROR` (R19); operands: site = site. -/
  | uncorrectableError
  /-- `VIRAL_TAKES_EFFECT` (R83); operands: part = n0. -/
  | viralTakesEffect
  /-- `HOME_SLICE_TAG_PARITY` (R435); operands: slice = n0, set = n1, way = n2. -/
  | homeSliceTagParity
  /-- `SHADOW_ENTRY_LOST` (R224); operands: launch = n0. -/
  | shadowEntryLost
  /-- `PART_CFG` (R101); operands: part = n0, record address = n1. -/
  | partCfg
  /-- `CTX_ASSIGN` (R100); operands: vf = n0, part = n1. -/
  | ctxAssign
  /-- `CTX_UNASG` (R108); operands: vf = n0. -/
  | ctxUnasg
  /-- `PART_RESET` (R136); operands: part = n0. -/
  | partReset
  /-- `VIRAL_SET` (R81); operands: part = n0. -/
  | viralSet
  /-- `VIRAL_CLR` (R86); operands: part = n0. -/
  | viralClr
  /-- `KEY_GEN` (R139); operands: part = n0. -/
  | keyGen
  /-- `KEY_LOAD` (R140); operands: part = n0, sess = n1. -/
  | keyLoad
  /-- `IMG_REG` (R144); operands: part = n0, idx = n1, image address = n2, length = n3. -/
  | imgReg
  /-- `IMG_INST` (R145); operands: part = n0, idx = n1, addr = n2, len = n3, sig = n4, key = n5. -/
  | imgInst
  /-- `IMG_RM` (R146); operands: part = n0, idx = n1. -/
  | imgRm
  /-- `TKEY_REG` (R145); operands: part = n0, num = n1, key address = n2. -/
  | tkeyReg
  /-- `VEC_ASG` (R127); operands: vf = n0, count = n1. -/
  | vecAsg
  /-- `BIFURC` (R51); operands: port = n0, two = flag. -/
  | bifurc
  /-- `POOL_MAP` (R67); operands: entry = n0, base = n1, len = n2, link = n3, pbr = n4, dpa = n5, bulk = flag, part = n6. -/
  | poolMap
  /-- `M_KILL` (R96); operands: m = m. -/
  | mKill
  /-- `M_REL` (R96); operands: m = m. -/
  | mRel
  /-- `WAYS_SHR` (R104); operands: mask = v. -/
  | waysShr
  /-- `PART_FREE` (R105); operands: part = n0. -/
  | partFree
  /-- `VF_RESET` (R136); operands: vf = n0. -/
  | vfReset
  /-- `SPDM_MESSAGE` (R140); operands: m = spdm. -/
  | spdmMessage
  /-- `TDI_STATE_CHANGE` (R141); operands: vf = n0, t = tdi. -/
  | tdiStateChange
  /-- `LREG_WRITE` (R113); operands: vf = n0, stream = n1, v = v, bytes = n2. -/
  | lregWrite
  /-- `CBASE_WRITE` (R124); operands: vf = n0, v = v. -/
  | cbaseWrite
  /-- `REGISTER_WRITE` (R109); operands: fn = opt, off = n0, v = v. -/
  | registerWrite
  /-- `APERTURE_READ` (R130); operands: vf = n0, off = n1, bytes = n2. -/
  | apertureRead
  /-- `APERTURE_WRITE` (R130); operands: vf = n0, off = n1, data = bytes. -/
  | apertureWrite
  /-- `GOWN_WRITE` (R154); operands: v = v. -/
  | gownWrite
  /-- `GRANULE_SCRUB_DONE` (R156). -/
  | granuleScrubDone
  /-- `TMVD_WRITE` (R180); operands: v = v. -/
  | tmvdWrite
  /-- `TIER_MOVE_TA` (R183); operands: id = n0. -/
  | tierMoveTa
  /-- `TIER_MOVE_COPY_START` (R183); operands: id = n0. -/
  | tierMoveCopyStart
  /-- `TIER_MOVE_COPY_DONE` (R183); operands: id = n0. -/
  | tierMoveCopyDone
  /-- `TIER_MOVE_END` (R183); operands: id = n0. -/
  | tierMoveEnd
  /-- `TICTL_WRITE` (R173); operands: v = v. -/
  | tictlWrite
  /-- `INVALIDATION_TA` (R173); operands: id = n0. -/
  | invalidationTa
  /-- `INVALIDATION_DRAINED` (R173); operands: id = n0. -/
  | invalidationDrained
  /-- `ATS_INVALIDATION_REQUEST` (R179); operands: pasid = n0, va = n1, lg = n2. -/
  | atsInvalidationRequest
  /-- `ATS_INVALIDATION_COMPLETION` (R179); operands: id = n0. -/
  | atsInvalidationCompletion
  /-- `ATS_TRANSLATION_COMPLETION` (R175); operands: id = n0, res = ats. -/
  | atsTranslationCompletion
  /-- `PRG_RESPONSE` (R178); operands: group = n0, code = prg. -/
  | prgResponse
  /-- `WALK_COMPLETE` (R170); operands: id = n0. -/
  | walkComplete
  /-- `ADD_CAPACITY` (R64); operands: slot = n0, tag = wide. -/
  | addCapacity
  /-- `ADD_CAPACITY_COMPLETE` (R65); operands: slot = n0. -/
  | addCapacityComplete
  /-- `RELEASE_CAPACITY` (R66); operands: slot = n0. -/
  | releaseCapacity
  /-- `RELEASE_CAPACITY_COMPLETE` (R66); operands: slot = n0. -/
  | releaseCapacityComplete
  /-- `HOST_MEM_REQUEST` (R58); operands: bi = n0, dpa = n1, op = op. -/
  | hostMemRequest
  /-- `BIRSP` (R60); operands: bi = n0, line = n1. -/
  | birsp
  /-- `H2D_SNOOP` (R54); operands: addr = n0. -/
  | h2dSnoop
  /-- `PEER_REQUEST` (R713); operands: pbr = n0, port = n1, dpa = n2, sub = n3, op = op. -/
  | peerRequest
  /-- `POOL_WRITE_LEAVE` (R72); operands: id = n0. -/
  | poolWriteLeave
  /-- `POOL_WRITE_COMPLETION` (R71); operands: id = n0, status = n1. -/
  | poolWriteCompletion
  /-- `EPOCH_DRAIN_REPORT` (R72); operands: src = n0. -/
  | epochDrainReport
  /-- `CXL_COMPLETION` (R80); operands: id = n0, status = n1, poison = flag, the line = wide, the old values
  of a combined atomic = bytes, 8 bytes each; of a monitor (R349, R350) one value there: 0 no entry, 1 armed, 2 satisfied, 3 signalled. -/
  | cxlCompletion
  /-- `LAUNCH_ADMISSION` (R234); operands: part = n0. -/
  | launchAdmission
  /-- `LAUNCH_START` (R237); operands: launch = n0. -/
  | launchStart
  /-- `PLACEMENT_GROUP_PLACED` (R238); operands: launch = n0. -/
  | placementGroupPlaced
  /-- `COMMIT_SCHEDULE` (R210); operands: launch = n0. -/
  | commitSchedule
  /-- `COMMIT_NOTICE` (R211); operands: launch = n0, slice = n1. -/
  | commitNotice
  /-- `COMMIT_REPORTS_IN` (R211); operands: launch = n0. -/
  | commitReportsIn
  /-- `COMMIT_FLIP` (R211); operands: launch = n0. -/
  | commitFlip
  /-- `POOL_PREPARE` (R217); operands: die = n0, part = n1, ver = n2, link = n3. -/
  | poolPrepare
  /-- `PREPARE_ACKNOWLEDGED` (R217); operands: launch = n0, pbr = n1, ok = flag. -/
  | prepareAcknowledged
  /-- `PREPARE_TIMEOUT` (R218); operands: launch = n0. -/
  | prepareTimeout
  /-- `POOL_COMMIT_MESSAGE` (R217); operands: die = n0, part = n1, ver = n2, link = n3. -/
  | poolCommitMessage
  /-- `POOL_ABORT_MESSAGE` (R218); operands: die = n0, part = n1, ver = n2, link = n3. -/
  | poolAbortMessage
  /-- `OUTCOME_QUERY` (R221); operands: die = n0, part = n1, ver = n2, link = n3. -/
  | outcomeQuery
  /-- `HELD_HOST_WRITES_SEND` (R209); operands: launch = n0. -/
  | heldHostWritesSend
  /-- `COMPLETION_RECORD_WRITE` (R125); operands: ctx = n0. -/
  | completionRecordWrite
  /-- `BALANCER_INSPECTION` (R242); operands: cluster = n0. -/
  | balancerInspection
  /-- `POSTING_LAPSE` (R243); operands: cluster = n0, launch = n1. -/
  | postingLapse
  /-- `THROTTLE_INTERVAL` (R255). -/
  | throttleInterval
  /-- `AGING_PROMOTION` (R253); operands: team = n0. -/
  | agingPromotion
  /-- `TURN_END` (R258); operands: part = n0. -/
  | turnEnd
  /-- `QUIESCENCE_SAVE` (R260); operands: part = n0. -/
  | quiescenceSave
  /-- `TEAM_EVICTION` (R264); operands: team = n0. -/
  | teamEviction
  /-- `WAKE_CONDITION_MET` (R265); operands: team = n0. -/
  | wakeConditionMet
  /-- `TEAM_RESTORE` (R263); operands: team = n0. -/
  | teamRestore
  /-- `LONG_RESULT_WRITE` (R480); operands: team = n0, entry = n1. -/
  | longResultWrite
  /-- `TRAP_FRAME_FORM` (R420); operands: team = n0. -/
  | trapFrameForm
  /-- `LANE_PACK` (R291); operands: team = n0. -/
  | lanePack
  /-- `CONTINUATION_ARRIVAL` (R296); operands: cont = wide, cluster = n0, dpa = n1; of one from another die, link = n2. -/
  | continuationArrival
  /-- `CONTINUATION_REFUSED` (R297); operands: team = n0, lane = n1, cause = n2. -/
  | continuationRefused
  /-- `LANDING_TIMEOUT` (R297); operands: team = n0, lane = n1. -/
  | landingTimeout
  /-- `LANDED_TEAM_CREATION` (R298); operands: cluster = n0, group = n1. -/
  | landedTeamCreation
  /-- `RETURN_ARRIVAL` (R304); operands: cont = wide; of one from another die, link = n0. -/
  | returnArrival
  /-- `RETIRE_NOTICE` (R303); operands: team = n0, lane = n1, version of the launch = opt. -/
  | retireNotice
  /-- `CARD_COMPLETE` (R357); operands: cluster = n0, card = n1. -/
  | cardComplete
  /-- `CARD_START` (R358); operands: cluster = n0, card = n1. -/
  | cardStart
  /-- `CARD_LINE_TRANSFER` (R367); operands: cluster = n0, card = n1. -/
  | cardLineTransfer
  /-- `MATRIX_ROW_ISSUE` (R374); operands: cluster = n0, card = n1. -/
  | matrixRowIssue
  /-- `MONITOR_WAKE` (R350); operands: team = n0; of an entry that a W9L holds for another die (flag): die = n0, number = n1. -/
  | monitorWake
  /-- `WAITC_POLL` (R351); operands: team = n0. -/
  | waitcPoll
  /-- `TM_COMMIT_RESULT` (R346); operands: team = n0. -/
  | tmCommitResult
  /-- `STREAM_FRAME_TAKE` (R411); operands: part = n0, idx = n1. -/
  | streamFrameTake
  /-- `SNAPSHOT_RESTORE_DONE` (R413); operands: part = n0, idx = n1. -/
  | snapshotRestoreDone
  /-- `PC_SAMPLE_TIMER` (R448); operands: ctx = n0. -/
  | pcSampleTimer
  /-- `COUNTER_DELTA_TIMER` (R448); operands: ctx = n0. -/
  | counterDeltaTimer
  /-- `DBGCTL_HALT` (R438); operands: ctx = n0. -/
  | dbgctlHalt
  /-- `DEBUG_HALT_DONE` (R438); operands: ctx = n0. -/
  | debugHaltDone
  /-- `DBGCTL_RES` (R437); operands: ctx = n0, skip = flag. -/
  | dbgctlRes
  /-- `DBGCTL_STEP` (R439); operands: ctx = n0, skip = flag. -/
  | dbgctlStep
  /-- `STEP_COMPLETE` (R439); operands: team = n0. -/
  | stepComplete
  /-- `DBGDATA_ACCESS` (R436); operands: ctx = n0, wr = optv. -/
  | dbgdataAccess
  /-- `TEAM_RETIREMENT` (R642); operands: team = n0. -/
  | teamRetirement
  /-- `THROTTLE_RELEASE` (R37). -/
  | throttleRelease
  /-- `IDE_KM_KEY_PROGRAMMING` (R56); operands: port = n0, sub = n1. -/
  | ideKmKeyProgramming
  /-- `DC_REGION_CONFIGURATION` (R57); operands: region = n0, first = n1, count = n2, bulk = flag. -/
  | dcRegionConfiguration
  /-- `TENANT_TAG_MAPPING` (R64); operands: tag = wide, part = opt. -/
  | tenantTagMapping
  /-- `FOOTPRINT_TABLE_ARRIVAL` (R309); operands: die = n0, part = n1, ver = n2, link = n3, foot = foot, chain = ns. -/
  | footprintTableArrival
  /-- `WRITE_COMPLETION_RETURN` (R322); operands: team = n0, id = n1. -/
  | writeCompletionReturn
  /-- `RELEASE_WAIT_END` (R327); operands: team = n0. -/
  | releaseWaitEnd
deriving DecidableEq, Repr

end Sys2Proof
end

