-- ==== Sys2Proof/Machine/State.lean ====
section
/-! DEFINITION. The state of one Wyodo die in its package: every register, table, queue and store that the spec
gives the machine, as plain data, and the state right after reset. -/

namespace Sys2Proof.Machine

/-- Why the machine stops with a fault. -/
inductive Fault
  /-- Raised by `step` alone, when every clock but the debug port's has stopped by a freeze (R41, R44) and no event
  is at the ports: the machine takes no further step. Safe: the device does nothing either. -/
  | clockStopped
deriving DecidableEq, Repr

/-- Why the model refuses an instruction. -/
inductive Refusal
  /-- The instruction has no meaning in this model. Safe: nothing can be proved of it. -/
  | notModelled (mnemonic : String)
deriving DecidableEq, Repr

/-! ## Registers and lanes of a team -/

/-- A register write, as a result carries it (R480 to R484). -/
inductive RegWrite
  /-- A scalar register. -/
  | s (r : Nat) (v : Word)
  /-- One lane of a vector register. -/
  | v (r : Nat) (lane : Nat) (x : Word)
  /-- One lane bit of a mask register. -/
  | k (r : Nat) (lane : Nat) (b : Bool)
deriving DecidableEq, Repr

/-- An entry of the reconvergence stack (R279, R281): kind 0 `vif`, 1 after `velse`, 2 loop. -/
structure StackEnt where
  mask : Mask
  pc : Word
  fmt : Word32
  kind : Nat
deriving DecidableEq, Repr

/-- What an access does once it is performed (R192, R330, R336, R345, R349). -/
inductive AccKind
  /-- A load of a vector lane, of a scalar, or a prefetch. -/
  | load | loadS | pf
  | store
  /-- An atomic of major 0x18, by its function. -/
  | atomic (fn : Nat)
  /-- A stash atomic on a mapped range, by its operation. -/
  | satomic (op : Nat)
  /-- `sld.fe`, and whether it consumes (R585). -/
  | fe (consume : Bool)
  /-- A pool-scope release fence, which does not stall its team (R73, R589). -/
  | fence
  /-- `signal.m`: it wakes the monitors of its address (R433). -/
  | sig
  /-- The read that arms the team's monitor. -/
  | arm
deriving DecidableEq, Repr

/-- What an access of a lane is waiting for. -/
inductive AccWait
  /-- Nothing: it is on its way to its home. -/
  | ready
  /-- Its translation step. -/
  | xlat
  /-- A page walk, by its number (R170). -/
  | walk (id : Nat)
  /-- An ATS translation (R175). -/
  | ats (id : Nat)
  /-- A PRI page-request group (R176). -/
  | pri (group : Nat)
  /-- A completion from host or pool, by its tag. -/
  | cxl (tag : Nat)
  /-- The replay queue of a moving page (R183), by move. -/
  | move (id : Nat)
  /-- Room in the shadow pool under WAIT (R223). -/
  | shadow
  /-- One of these older launches to commit or abort: a W9L had no room in its shadow pool under WAIT (R223). -/
  | older (ls : List Nat)
  /-- The answers to a back-invalidation of its line (R60). -/
  | snoop
deriving DecidableEq, Repr

/-- A run of an access's bytes inside one line: length and physical or host address; of a host address, whether the host
marks the range shared (R175). -/
structure Seg where
  len : Nat
  pa : Nat
  host : Bool := false
  shared : Bool := false
deriving DecidableEq, Repr

/-- One lane's access of an issued memory instruction that has not been performed. -/
structure Acc where
  kind : AccKind
  lane : Nat := 0
  va : Nat
  /-- Bytes of one element and number of elements. -/
  esz : Nat
  cnt : Nat := 1
  /-- Type code, policy word, operand, comparand and destination register; FMT with the rounding of an `afadd`. -/
  ty : Nat := 0
  pol : Word32 := 0
  x : Word := 0
  e : Word := 0
  d : Nat := 0
  fmt : Word32 := 0
  /-- The handle of a handle-positional access (R390), whose `va` is its offset word. -/
  hnd : Option Word := none
  /-- A stash instruction on a mapped range (R584). -/
  bank : Bool := false
  /-- The address is a stash address (R583), and the store sets the full/empty bits (R586). -/
  stash : Bool := false
  setf : Bool := false
  /-- Performed where it is, its migration refused or not asked for (R286, R307). -/
  stay : Bool := false
  /-- The release has made its write-backs (R328). -/
  wb : Bool := false
  /-- Watchpoints are skipped (R437). -/
  nowatch : Bool := false
  wait : AccWait := .xlat
  /-- What is not yet performed of it, after translation, and its number in the order of sending. -/
  segs : List Seg := []
  seq : Nat := 0
  /-- Released from the replay queue of a moved page (R183). -/
  moved : Bool := false
  /-- The atomic of a mapped-scoped range that its home executes has left its mapping (R330). -/
  through : Bool := false
  /-- The atomic adds to the launch's delta (R205). -/
  delta : Bool := false
  /-- Bytes read so far, poison among them, and the physical address that delivered it. -/
  got : List Byte := []
  pz : Option Nat := none
deriving DecidableEq, Repr

/-- A captured source operand of a replay entry (R421). -/
structure Operand where
  vec : Bool
  vals : Tbl Word
deriving DecidableEq, Repr

/-- A cause raised by a pass, with its information words (R420, R430). -/
structure Raised where
  cause : Nat
  lane : Nat := 0
  info : List Word := []
deriving DecidableEq, Repr

/-- One entry of the replay queue (R419, R421, R423): hint words as given, and what of the instruction is unfinished. -/
structure Entry where
  id : Nat := 0
  word : Word32 := 0
  modw : Word32 := 0
  immw : Word32 := 0
  pc : Word := 0
  done : Bool := false
  faulting : Bool := false
  drop : Bool := false
  gov : Mask := 0
  passes : Word32 := 0
  ops : List Operand := []
  /-- Accesses not performed, and long results not written. -/
  accs : List Acc := []
  res : List RegWrite := []
  /-- The result's registers are known to be outstanding though no value has arrived. -/
  dest : List (Nat × Nat) := []
  /-- Of those registers, the ones that later instructions write too (R484). -/
  clob : List (Nat × Nat) := []
  raised : Option Raised := none
  /-- The tick in which its result is written, where the spec fixes it (R530); 0 where it does not. -/
  due : Nat := 0
  /-- The instruction's own progress, for a re-injection that repeats only a part (R638). -/
  stage : Nat := 0
deriving DecidableEq, Repr

/-- The trap frame (R421, R423). -/
structure Frame where
  valid : Bool := false
  tpc : Word := 0
  cause : Nat := 0
  cls : Nat := 0
  noPc : Bool := false
  info : List Word := []
  dent : Mask := 0
  tfmt : Word32 := 0
  tdepth : Nat := 0
  rq : List Entry := []
deriving DecidableEq, Repr

/-- A stash allocation of a team (R334, R600): kind 0 plain, 1 mapped-coherent, 2 mapped-scoped. -/
structure Alloc where
  base : Nat
  len : Nat
  kind : Nat
  /-- Global base, write permission and mapping number of a mapped kind. -/
  va : Nat := 0
  w : Bool := false
  map : Nat := 0
  /-- The team joined another team's mapping and holds no stash of its own for it (R335). -/
  joined : Bool := false
  /-- `sfree` is deferred until every joined team has unmapped or retired (R335). -/
  freeing : Bool := false
deriving DecidableEq, Repr

/-- The team's single monitor (R349, R594, R595): status 1 pending, 2 satisfied, 3 signalled. -/
structure Monitor where
  va : Nat
  pa : Nat
  host : Bool := false
  cmp : Nat
  v : Word
  status : Nat := 1
  word : Word := 0
  /-- An entry of the home slice, or polling: next poll time and interval (R351). -/
  slice : Option Nat := none
  pollAt : Nat := 0
  pollInt : Nat := 64
  /-- The number under which the W9L home of a pool word holds its entry (R349). -/
  far : Option Nat := none
  /-- It acquires at pool scope or wider when it is satisfied (R62, R352). -/
  acq : Bool := false
deriving DecidableEq, Repr

/-- A transaction of the team (R345 to R348, R596 to R599). -/
structure Tm where
  active : Bool := false
  /-- Its log is at the commit units; pool words whose values the validation still waits for, and whether one differed. -/
  committing : Bool := false
  asked : List Nat := []
  bad : Bool := false
  base : Nat := 0
  size : Nat := 0
  pc : Word := 0
  target : Word := 0
  D : Mask := 0
  fmt : Word32 := 0
  depth : Nat := 0
  /-- The number of its first entry: earlier ones are outside the transaction. -/
  ent : Nat := 0
  reads : List (Nat × Word) := []
  /-- Distinct lines written: byte mask and data. -/
  writes : Tbl (BitVec 64 × Line) := []
  acnt : Nat := 0
  st : Nat := 15
  ser : Bool := false
  /-- The abort count has reached the threshold: the next attempt is serial; the team holds the token. -/
  token : Bool := false
deriving DecidableEq, Repr

/-- Why a team is not ready (R251), with what lets it go on. -/
inductive Park
  | run
  /-- After a word with S set (R483). -/
  | switch
  /-- Barrier wait (R593): barrier address and token. -/
  | barrier (a : Nat) (tok : Nat)
  /-- `bwait.dev` stalls until device time passes the value. -/
  | bdev (g : Nat)
  | qpop
  | qpush
  | waitc
  | join
  | exitJoin
  /-- The team has exited and waits by R642. -/
  | retire
  | dsin
  | enqRoom
  /-- The instruction's own translations and reads. -/
  | fetch
  | fe
  | sfree (a : Nat)
  /-- Until the launch of a queueing number less one is admitted or refused; 0 asks again (R658). -/
  | launchWait (pid : Nat)
  /-- The release stall of `launch` and of release fences (R589, R655). -/
  | rel
  /-- An acquire fence waits for the team's earlier loads (R327). -/
  | acq
  | snap (card : Nat)
  | tmEnd
  | tmToken
  | tretWait
  | pcmark
  /-- A replay queue of 24 entries (R419). -/
  | rqFull
  /-- A pool-counter or epoch stall (R72, R74). -/
  | port
  /-- Room for write-backs in the launch's shadow (R223). -/
  | room
  /-- The team's earlier stash accesses have not all been performed (R323, R607). -/
  | bank
  /-- A late frame is consumed when its trap forms: the team's earlier passes are not over (R420, R633). -/
  | late
deriving DecidableEq, Repr

/-- Where a team is (R237, R260, R264). -/
inductive Where | resident | saved | evicted | savedEvicted
deriving DecidableEq, Repr
/-- The team is saved (R260). -/
def Where.isSaved : Where → Bool | .saved => true | .savedEvicted => true | _ => false

/-- What identifies a team and where it stands (R237, R277, R278, R290, R299). -/
structure TeamId where
  part : Nat := 0
  index : Nat := 0
  ctx : Nat := 0
  launch : Nat := 0
  stage : Nat := 0
  gang : Nat := 0
  f1 : Nat := 0
  img : Nat := 0
  cluster : Nat := 0
  /-- Team slot 16 × core + slot, while resident. -/
  slot : Nat := 0
  loc : Where := .resident
  ready : Bool := false
  landed : Bool := false
  /-- Of a landed team: origin die and team index, version and partition of the origin launch. -/
  oteam : Nat := 0
  lver : Nat := 0
  opart : Nat := 0
  /-- Landed from another die's launch. -/
  foreign : Bool := false
  created : Nat := 0
  prio : Nat := 0
deriving DecidableEq, Repr

/-- The registers of a team (R275, R283, R494). -/
structure TeamRegs where
  /-- Scalar registers, unlisted zero. -/
  s : Tbl Word := []
  /-- Vector registers: key 1024 × register + lane, unlisted zero. -/
  v : Tbl Word := []
  /-- Mask registers `k1` to `k7`, unlisted zero. -/
  k : Tbl Mask := []
  lanes : Nat := 32
  allot : Nat := 8
  fmt : Word32 := 0x00705280
  gwct : Nat := 0
  srseed : Word32 := 0x6D2B79F5
  hazchk : Bool := false
deriving DecidableEq, Repr

/-- Control flow of a team (R271, R272, R279). -/
structure TeamFlow where
  pc : Word := 0
  D : Mask := 0
  pres : Mask := 0
  away : Mask := 0
  ret : Mask := 0
  exited : Mask := 0
  /-- Reconvergence stack, top first; the entry at depth j from the bottom is spilled once 16 stand above it (R281). -/
  stack : List StackEnt := []
  /-- Hint words of the group being issued, as fetched (R491). -/
  hints : List Word32 := []
  /-- The address of the group's first word. -/
  gpc : Word := 0
  wid : Tbl Word := []
  /-- Hop count by lane, and at 1024 + lane the origin lane of a landed lane. -/
  hop : Tbl Nat := []
deriving DecidableEq, Repr

/-- A lane being migrated (R287, R291, R297): where to, and since when it has been refused room. -/
structure Leaving where
  lane : Nat
  entry : Nat
  cluster : Nat
  pbr : Option Nat
  dpa : Nat
  refusedAt : Option Nat := none
  sent : Bool := false
  /-- Registers captured at the migrating access, and whether the live set is valid (R288). -/
  cont : BitVec 1024 := 0
  ok : Bool := true
  /-- The entry with the lane's access alone, to be taken up again when the migration is refused (R307). -/
  orig : Entry := {}
deriving DecidableEq, Repr

/-- A write whose completion time has not returned to its team (R320, R322). -/
structure Compl where
  id : Nat
  /-- The completion time, once known; a pool or host write waits for its completion. -/
  time : Option Nat
  va : Nat := 0
  lane : Nat := 0
  entry : Nat := 0
  /-- A write-back that the release of the entry makes (R328). -/
  wb : Bool := false
deriving DecidableEq, Repr

/-- What made a line unreadable for a unit other than a team or an engine: a cause with the level and entry its information words
show, if a walk or a completion gave any; or, of a violation, the right broken, 0 for none. -/
structure Bad where
  cause : Nat := 0
  right : Nat := 0
  at_ : Option (Nat × Nat) := none
deriving DecidableEq, Repr

/-- What a unit other than a team or an engine has read through translation so far, by virtual line, with poison or what
made the line unreadable; and what its next access waits for. -/
structure Fetch where
  wait : AccWait := .ready
  got : Tbl (List Byte × Bool) := []
  bad : Option Bad := none
deriving DecidableEq, Repr

/-- Stash content that a save holds: bytes, full/empty bits and poison by stash address (R260). -/
structure Saved where
  stash : Tbl Byte := []
  full : Tbl Bool := []
  spois : Tbl Bool := []
deriving DecidableEq, Repr

/-- Everything else of a team. -/
structure TeamSync where
  park : Park := .run
  rq : List Entry := []
  nextEntry : Nat := 0
  reinj : List Entry := []
  frame : Frame := {}
  inHandler : Bool := false
  compls : List Compl := []
  /-- Pool-scope releases whose value g (R73) later pool writes wait for: epoch, replay entry, and g once fixed. -/
  prels : List (Nat × Nat × Option Nat) := []
  allocs : List Alloc := []
  stashBase : Nat := 0
  stashLen : Nat := 0
  /-- First guard touch and count of touches (R339): bank, offset, count. -/
  guard : Option (Nat × Nat × Nat) := none
  mon : Option Monitor := none
  tm : Tm := {}
  /-- Pending predecessor of `chain` (R619). -/
  chain : Option Nat := none
  lset : Nat := 0
  migTrap : Bool := false
  lastRefusal : Nat := 0
  leaving : List Leaving := []
  /-- What the instruction the team stands at has read so far (R624, R631, R637). -/
  fetch : Fetch := {}
  /-- A slot the team held before, whose pool writes must end before its new epoch opens (R76). -/
  oldSlot : Option Nat := none
  /-- Lost ranges whose trap the team has not taken (R91): base, length, source word. -/
  lost : List (Nat × Nat × Word) := []
  /-- What a saved team's allotment holds, and the wait that goes on once its replay entries have returned (R260, R263). -/
  saved : Saved := {}
  parkAfter : Park := .run
deriving DecidableEq, Repr

/-- Scheduling and debug state of a team (R251 to R255, R437 to R439, R496). -/
structure TeamSched where
  lastIssue : Nat := 0
  /-- The team issues nothing before this time (R281, R515, R516). -/
  notBefore : Nat := 0
  readySince : Nat := 0
  /-- Ticks it had been ready without issuing when quiescence last stopped it (R253, R260). -/
  waited : Nat := 0
  aged : Bool := false
  score : Nat := 0
  permitted : Bool := true
  stream : Nat := 0
  yield : Nat := 0
  halted : Bool := false
  stepping : Bool := false
  /-- The stepped instruction has issued (R439). -/
  stepped : Bool := false
  /-- Halted by a debug cause: it goes on from its frame (R425). -/
  trapHalt : Bool := false
  skipBp : Bool := false
  /-- The next instruction was issued before and waited. -/
  retry : Bool := false
  frozen : Option Raised := none
  /-- A cause taken without a faulting pass, once every issued pass is over (R422, R439). -/
  pendCause : Option Raised := none
  /-- A release fence has begun its release (R327). -/
  relActive : Bool := false
deriving DecidableEq, Repr

/-- One team. -/
structure Team where
  id : TeamId := {}
  regs : TeamRegs := {}
  flow : TeamFlow := {}
  sync : TeamSync := {}
  sched : TeamSched := {}
deriving DecidableEq, Repr

/-! ## Launches -/

/-- One stage of a launch (R118, R119). -/
structure Stage where
  lanes : Nat := 32
  entry : Nat := 0
  prio : Nat := 0
  depth : Nat := 0
  elsz : Nat := 0
  outq : Nat := 15
  hiwm : Nat := 0
  lowm : Nat := 0
  vregs : Nat := 8
  stash : Nat := 0
deriving DecidableEq, Repr

/-- A shadow entry of a line (R190): bytes written, their data, poison, and whether it has spilled (R222). -/
structure Shadow where
  mask : BitVec 64 := 0
  data : Line := 0
  poison : Bool := false
  spilled : Bool := false
  /-- The way it holds while it has not spilled (R314). -/
  way : Nat := 0
  /-- One store covered the whole line (R77); what the store of this number has covered so far. -/
  clean : Bool := false
  tok : Nat := 0
  cover : BitVec 64 := 0
deriving DecidableEq, Repr

/-- A delta record (R205): integer of a width in bytes, or floating of a type code; its value as bits. -/
structure Delta where
  flt : Bool
  esz : Nat
  ty : Nat
  val : Word
deriving DecidableEq, Repr

/-- A held host write (R209): one host line of one release group. -/
structure Held where
  va : Nat
  group : Nat
  mask : BitVec 64
  data : Line
  pois : Bool := false
  sent : Bool := false
  tag : Nat := 0
  /-- Its translation after T. -/
  fetch : Fetch := {}
deriving DecidableEq, Repr

/-- A centroid set (R403): sums (index centroid × row elements + element), counts, and cluster number per position. -/
structure CSet where
  sums : Tbl Word := []
  cnt : Tbl Nat := []
  num : Tbl Nat := []
deriving DecidableEq, Repr

/-- A launch's view of a KV or stream entry (R397, R412, R626, R627, R634 to R636). -/
structure KvView where
  len : Option Nat := none
  cut : Option Nat := none
  /-- The launch appended or truncated and holds the claim. -/
  claim : Bool := false
  g : Option Nat := none
  gcut : Option Nat := none
  cset : Option CSet := none
  /-- Whether the centroids are stale in the view, once the view has changed that (R405). -/
  stale : Option Bool := none
deriving DecidableEq, Repr

/-- A launch's course (R196, R210, R211, R217, R230). -/
inductive LState
  | waiting
  | started
  /-- Commit scheduled at ts, notices going out; the homes that have answered, each with its e_h. -/
  | notified (ts : Nat) (homes : Tbl Nat)
  /-- The flip time t is fixed. -/
  | timed (ts : Nat) (t : Nat) (homes : Tbl Nat)
  /-- Prepares sent to these dies at this time, those acknowledged. -/
  | preparing (since : Nat) (dies : List Nat) (acked : List Nat)
  | prepared
  /-- Flipped at T: host writes and pool commits still finishing. -/
  | flipped (t : Nat)
  | done
deriving DecidableEq, Repr

/-- The header of an admitted launch (R118, R121, R187). -/
structure LHead where
  /-- The number of its queueing. -/
  pid : Nat := 0
  part : Nat := 0
  ctx : Nat := 0
  ver : Nat := 0
  lid : Nat := 0
  stream : Nat := 0
  prio : Nat := 0
  vpol : Nat := 0
  abortOvf : Bool := false
  args : Nat := 0
  img : Nat := 0
  ds : Option (Nat × Nat) := none
  stages : List Stage := []
  foot : List Foot := []
  wwid : List Nat := []
  wcnt : List Nat := []
  feat : BitVec 7 := 0
  chain : Option Nat := none
  /-- The capability list in force at admission: its quadwords by entry (R135, R652). -/
  caps : List (Nat × List Nat) := []
deriving DecidableEq, Repr

/-- A stage queue instance on a cluster (R240, R433). -/
structure QInst where
  cluster : Nat
  stage : Nat
  quarter : Nat
  base : Nat
  head : Nat := 0
  cnt : Nat := 0
  wake : Bool := false
  /-- What the instance holds while it is saved (R260). -/
  saved : Option Saved := none
deriving DecidableEq, Repr

/-- A role posting (R242, R243): cluster, from stage b to stage a, and when. -/
structure Posting where
  cluster : Nat
  b : Nat
  a : Nat
  at_ : Nat
deriving DecidableEq, Repr

/-- One admitted launch. -/
structure Launch where
  head : LHead := {}
  st : LState := .waiting
  /-- Older conflicting launches whose edge is not satisfied (R202, R236). -/
  edges : List Nat := []
  shadow : Tbl Shadow := []
  deltas : Tbl Delta := []
  held : List Held := []
  hgroup : Nat := 0
  gwctMax : Nat := 0
  /-- Placement groups not placed: the next gang index. -/
  nextGang : Nat := 0
  gangs : Nat := 0
  live : Nat := 0
  qs : List QInst := []
  posts : List Posting := []
  kv : Tbl KvView := []
  /-- W9Ls to which the launch sent a write or a continuation (R309). -/
  dies : List Nat := []
  /-- Pool lines, by physical line, for which the launch has sent a write, an atomic or a delta (R184, R210). -/
  plines : List Nat := []
  /-- W9Ls at which its teams have armed monitors (R352). -/
  mdies : List Nat := []
  /-- W9Ls that have been sent the footprint table. -/
  footTo : List Nat := []
  /-- Commit messages that have not been answered (R128). -/
  poolWait : List Nat := []
  /-- Continuations in flight or landed (R196). -/
  conts : Nat := 0
deriving DecidableEq, Repr

/-- A completion record not yet written (R125, R126). -/
structure CRec where
  pid : Nat
  time : Nat
  ver : Nat
  lid : Nat
  cause : Nat
  status : Nat
  stream : Nat
  /-- Abort messages that have not been answered (R230). -/
  waits : List Nat := []
deriving DecidableEq, Repr

/-- The outcome of a retired launch (R123, R658): the number of its queueing, `lid`, final state, version and cause, and
whether it was refused at admission. -/
structure Retired where
  pid : Nat
  lid : Nat
  committed : Bool
  ver : Nat
  cause : Nat
  refused : Bool
deriving DecidableEq, Repr

/-- A launch address pending on a stream (R113, R114, R117, R656), in the order of queueing. -/
structure Pend where
  id : Nat
  addr : Word
  at_ : Nat
  issuer : Option Nat
  /-- The `lid` the structures of a device launch held when it was queued (R657). -/
  lid : Nat := 0xFFFFFF
  /-- The issuing launch has aborted: the `lid` the record will name. -/
  dead : Option Nat := none
deriving DecidableEq, Repr

/-- One stream of a context (R109, R110, R127). -/
structure Stream where
  pend : List Pend := []
  adm : Nat := 0
  done : Nat := 0
  ovf : Bool := false
  werr : Bool := false
  sirq : BitVec 64 := 0
  /-- The first header line of the launch of this queueing number, read when it reached the queue's head, with poison (R234). -/
  line : Option (Nat × List Byte × Bool) := none
  /-- The sequencer's reading of the structures at the queue's head (R234, R711). -/
  fetch : Fetch := {}
deriving DecidableEq, Repr

/-! ## Contexts, partitions -/

/-- The debug window of a context (R436 to R442). -/
structure Dbg where
  att : Bool := false
  halting : Bool := false
  halted : Bool := false
  stepped : Bool := false
  fatal : Bool := false
  fcause : Nat := 0
  sel : BitVec 64 := 0
  addr : BitVec 64 := 0
  tvec : BitVec 64 := 0
  evprod : Nat := 0
  evcons : Nat := 0
  evovf : Bool := false
  evirq : BitVec 64 := 0
  ring : Tbl (BitVec 128) := []
  trctl : BitVec 64 := 0
  bpt : Tbl (BitVec 64) := []
  wpta : Tbl (BitVec 64) := []
  wptc : Tbl (BitVec 64) := []
  wptAt : Tbl Nat := []
deriving DecidableEq, Repr

/-- An access through BAR index 2 (R130): virtual address, bytes read so far or to write, and its course. -/
structure ApAcc where
  id : Nat
  va : Nat
  len : Nat
  write : Option (List Byte) := none
  done : List Byte := []
  fetch : Fetch := {}
deriving DecidableEq, Repr

/-- The counters of a context (R443, R444). -/
structure Perf where
  sel : Tbl (BitVec 64) := []
  val : Tbl (BitVec 48) := []
  /-- Values at the last counter-delta record. -/
  last : Tbl (BitVec 48) := []
  /-- Counts of the last 256 ticks, which a read may miss (R443): time and number, by counter. -/
  recent : Tbl (List (Nat × Nat)) := []
deriving DecidableEq, Repr

/-- A context: one VF and its register window (R100, R109 to R112, R124 to R129, R141, R153, R178). -/
structure Ctx where
  part : Option Nat := none
  fresh : Bool := true
  streams : Tbl Stream := []
  cbase : BitVec 64 := 0
  cprod : Nat := 0
  ccons : Nat := 0
  crecs : List CRec := []
  /-- Records that found the buffer full, kept in their sequencer entries. -/
  clate : List CRec := []
  vlost : Bool := false
  viral : Bool := false
  vcause : Nat := 0
  vtime : Nat := 0
  aperr : Bool := false
  cerr : Bool := false
  vfFrozen : Bool := false
  tdi : Tdi := .unlocked
  vecs : List Nat := []
  apt : Tbl (BitVec 64) := []
  /-- Aperture accesses not performed, in order, and the reading of the completion-record writer (R130, R138). -/
  aps : List ApAcc := []
  cfetch : Fetch := {}
  dbg : Dbg := {}
  perf : Perf := {}
  /-- Copy of the context-table entry, once read (R153). -/
  ctab : Option (BitVec 128) := none
  /-- A page response failed: no further page request (R178). -/
  priDead : Bool := false
  /-- The last 256 retired launches (R123, R658). -/
  retired : List Retired := []
  /-- A lost-range trap owed to the next team that starts (R91). -/
  lost : List (Nat × Nat × Word) := []
  /-- A reset that has taken hold and is not complete (R137, R138): 0 a VF reset, 1 `ctx_unasg`. -/
  resetting : Option Nat := none
  /-- Save area in MiB reserved at `ctx_assign` (R261). -/
  saveArea : Nat := 0
deriving DecidableEq, Repr

/-- The partition record as applied (R101). -/
structure PartCfg where
  quart : BitVec 384 := 0
  cal : BitVec 256 := 0
  mclus : BitVec 96 := 0
  quota : Nat := 0
  shpool : Nat := 0
  ways : BitVec 16 := 0
  pvir : Bool := false
  mdist : Nat := 0
  slice : Nat := 21000
  feat : BitVec 7 := 0
  trstall : Bool := false
  trsize : Nat := 0
  trbase : Nat := 0
  lrights : List (BitVec 16) := []
deriving DecidableEq, Repr

/-- A kernel image of a partition (R144, R508): the bytes the device reads and what it keeps of the header. -/
structure Image where
  bytes : Tbl Byte := []
  len : Nat := 0
  toff : Nat := 64
  tlen : Nat := 0
  loff : Nat := 0
  lcnt : Nat := 0
  digest : BitVec 256 := 0
deriving DecidableEq, Repr

/-- A KV page of the pool (R394): physical base, tier, share count. -/
structure KvPage where
  remote : Bool
  share : Nat
  /-- In use by an entry; a free page has share 0. -/
  priv : Bool := false
  moving : Bool := false
deriving DecidableEq, Repr

/-- A handle-table entry (R392), with its page directory. -/
structure KvEnt where
  kind : Nat := 0
  gen : Nat := 0
  ctx : Nat := 0
  len : Nat := 0
  cap : Nat := 0
  ref : Nat := 0
  rowg : Nat := 0
  ptok : Nat := 0
  ncent : Nat := 0
  kfmt : Nat := 0
  cstale : Bool := false
  cow : Bool := false
  pidx : Option (Nat × Nat) := none
  /-- Physical page addresses, page 0 first. -/
  pages : List Nat := []
  /-- The centroid set. -/
  cset : CSet := {}
  /-- The launch that holds the append claim (R397), and a deferred close (R625). -/
  claim : Option Nat := none
  closing : Bool := false
deriving DecidableEq, Repr

/-- A taken input frame in the delivery queue (R411, R415). -/
structure FrameIn where
  data : Line
  cut : Nat
  nosnap : Bool
  late : Bool
deriving DecidableEq, Repr

/-- A duplex stream descriptor (R408) and the state of its sequencer (R413). -/
structure Stm where
  kvh : List Word := []
  frbase : Nat := 0
  cwin : Nat := 0
  stbase : Nat := 0
  snbase : Nat := 0
  stlen : Nat := 0
  fseq : Nat := 0
  dseq : Nat := 0
  pcur : Nat := 0
  gcur : Nat := 0
  hcur : Nat := 0
  glid : Nat := 0xFFFFFF
  snn : Nat := 0
  frlg : Nat := 4
  nkv : Nat := 0
  latep : Nat := 0
  gen : Nat := 0
  ctx : Nat := 0
  queue : List FrameIn := []
  /-- A barge-in frame between steps 4 and 6, with its snapshot slot and the next line to restore. -/
  restoring : Option (FrameIn × Nat × Nat) := none
  /-- The sequencer's reading, and its next poll of a ring it cannot monitor (R351, R411). -/
  fetch : Fetch := {}
  pollAt : Nat := 0
  pollInt : Nat := 64
  /-- A commit of this launch was accepted: no frame is handled before its flip (R414). -/
  accepted : Option Nat := none
deriving DecidableEq, Repr

/-- A way of the prefix index (R400). -/
structure Prefix where
  hash : Word
  idx : Nat
  gen : Nat
  len : Nat
  ids : List (BitVec 32)
deriving DecidableEq, Repr

/-- Viral mode (R81 to R86). -/
structure Viral where
  td : Nat
  tv : Nat
  cause : Nat
  active : Bool := false
deriving DecidableEq, Repr

/-- Trace state of the Conformateur (R446 to R449). -/
structure Conf where
  trprod : Nat := 0
  trcons : Nat := 0
  seq : Nat := 0
  lost : Nat := 0
  hold : List (BitVec 256) := []
deriving DecidableEq, Repr

/-- A partition (R101, R187, R233, R256, R348). -/
structure Part where
  cfg : PartCfg := {}
  /-- `cal` and `slice` to take effect at the next frame boundary (R103). -/
  next : Option (BitVec 256 × Nat) := none
  verNext : Nat := 0
  lastAdmit : Nat := 0
  viral : Option Viral := none
  vblock : Bool := false
  /-- The running context and the end of its turn (R256, R257). -/
  running : Option Nat := none
  turnEnd : Nat := 0
  quiescing : Bool := false
  /-- Pool requests numbered below this were sent before the last pool-scope acquire (R75). -/
  acqStamp : Nat := 0
  /-- A partition reset that has taken hold and is not complete (R137). -/
  resetting : Bool := false
  images : Tbl Image := []
  tkeys : Tbl Nat := []
  kv : Tbl KvEnt := []
  stms : Tbl Stm := []
  kvBlocks : Nat := 0
  /-- The physical addresses of the handle table's blocks in system-slot memory (R391). -/
  kvAt : List Nat := []
  pages : Tbl KvPage := []
  resL : Nat := 0
  resR : Nat := 0
  pfx : Tbl Prefix := []
  conf : Conf := {}
  /-- The commit token (R348): the team that holds it, and those that wait, in first-come order. -/
  tmTok : Option Nat := none
  tmQ : List Nat := []
  /-- Ready order of saved teams (R258, R267). -/
  saved : List Nat := []
deriving DecidableEq, Repr

/-! ## Clusters -/

/-- A filled line of a mapping (R336, R337): dirty, its physical line, the time before which no store into it is performed,
and host or pool line as its access found it. -/
structure MLine where
  dirty : Bool
  ln : Nat
  holdTill : Nat := 0
  host : Bool := false
deriving DecidableEq, Repr

/-- A mapping of global memory into stash (R335, R336). -/
structure Mapping where
  launch : Nat
  va : Nat
  len : Nat
  kind : Nat
  w : Bool
  base : Nat
  quarter : Nat
  owner : Nat
  teams : List Nat := []
  /-- Lines filled, by index. -/
  lines : Tbl MLine := []
deriving DecidableEq, Repr

/-- A card's course. -/
inductive CardSt | queued | running | transferring | stopped | complete
deriving DecidableEq, Repr

/-- An accepted job card (R353 to R364, R605). -/
structure Card where
  tag : Nat
  kind : Nat
  bits : BitVec 512
  team : Nat
  launch : Nat
  part : Nat
  ctx : Nat
  fmt : Word32
  pred2 : Option Nat := none
  st : CardSt := .queued
  /-- Progress: the next unit of the card, and of a resumed card where it was cut. -/
  pos : Nat := 0
  /-- Global write completion time gathered (R343). -/
  gw : Nat := 0
  credit : Nat := 0
  fcause : Nat := 0
  frozen : Option Raised := none
  pois : Bool := false
  apar : Bool := false
  /-- Uncorrectable and corrected errors of the engine's cells it has met (R363). -/
  uecc : Bool := false
  cecc : Nat := 0
  skip : Nat := 0
  /-- Work fixed at the start: row addresses or selected members. -/
  work : List Nat := []
  entry : Nat := 0
  /-- Plane of a matrix card (R370), and its tile on the cluster. -/
  plane : Nat := 0
  tile : Nat := 0
  /-- Stash ranges read and written (R353): base and length. -/
  rd : List (Nat × Nat) := []
  wr : List (Nat × Nat) := []
  /-- What the present transfer waits for, and the lines that arrived for it, by virtual line, with poison. -/
  wait : AccWait := .ready
  got : Tbl (List Byte × Bool) := []
deriving DecidableEq, Repr

/-- One weight plane of a tile (R370, R371): element bits by k × N + n. -/
structure Plane where
  fmt : Option Nat := none
  k : Nat := 0
  w : Tbl Word := []
  scl : Tbl Byte := []
deriving DecidableEq, Repr

/-- A bound tile (R369, R370). -/
structure Tile where
  launch : Nat
  m : Nat
  n : Nat
  quads : List Nat
  act : Nat := 0
  p0 : Plane := {}
  p1 : Plane := {}
  acc : Tbl Word32 := []
  accf : Nat := 0
  bad : List Nat := []
  /-- The tile stands as an accumulator image, bound to no quadrant, with the header it was saved with (R377). -/
  saved : Bool := false
  hdr : BitVec 512 := 0
deriving DecidableEq, Repr

/-- A group of landed continuations (R298). -/
structure Group where
  id : Nat
  part : Nat
  since : Nat
  conts : List (BitVec 1024)
  /-- The physical addresses the continuations came for (R92). -/
  pas : List Nat
  /-- The greatest carried time. -/
  wct : Nat
deriving DecidableEq, Repr

/-- A line held by a home slice (R314, R315): partition, class, use, latest expiry by core, and the overflow expiry it
took when it entered. -/
structure HLine where
  part : Nat
  /-- The way it holds (R314). -/
  way : Nat := 0
  cls : Nat
  used : Nat
  lease : Tbl Nat := []
  any : Nat := 0
deriving DecidableEq, Repr

/-- A translation held in a TLB (R161, R168, R175): page base, the logarithm of its size, physical base, rights, and of a
page-table leaf its level and value; host translations too. A page above 2 MiB is held by regions of 2 MiB. -/
structure TlbEnt where
  ctx : Nat
  va : Nat
  lg : Nat
  pa : Nat
  r : Bool
  w : Bool
  acc : Bool := false
  stb : Bool := false
  lv : Nat := 0
  pte : Nat := 0
  host : Bool := false
  shared : Bool := false
deriving DecidableEq, Repr

/-- A cluster: stash, mappings, engines, queues and its home slice. -/
structure Cluster where
  stash : Tbl Byte := []
  full : Tbl Bool := []
  spois : Tbl Bool := []
  /-- Of a poisoned granule: the store that writes it and the bytes that store has covered (R77, R364). -/
  scov : Tbl (Nat × BitVec 16) := []
  maps : Tbl Mapping := []
  cards : List Card := []
  nextTag : Nat := 0
  /-- Issued tags of the last 4,096 that have not completed (R356). -/
  open_ : List Nat := []
  tiles : Tbl Tile := []
  groups : List Group := []
  lines : Tbl HLine := []
  ovf : Tbl Nat := []
  /-- Cluster TLB (R168). -/
  tlb : List TlbEnt := []
deriving DecidableEq, Repr

/-- A line of a lease cache (R316, R317): data with the poison of its bytes as the home read them (R319), expiry, context, and the
launch whose view it is, if any: of this die, or origin die, partition and version of another die's (R194). -/
structure LLine where
  data : Line
  pois : BitVec 64 := 0
  exp : Nat
  ctx : Nat
  launch : Option Nat
  far : Option (Nat × Nat × Nat) := none
  part : Nat
  cls : Nat
  used : Nat
deriving DecidableEq, Repr

/-- A SIMT core (R168, R255). -/
structure Core where
  lc : Tbl LLine := []
  vta : List Nat := []
  tlb : List TlbEnt := []
deriving DecidableEq, Repr

/-! ## Translation, ports and the pool -/

/-- Whom an outstanding host or pool request serves. -/
inductive Serves
  | acc (team : Nat) (entry : Nat) (lane : Nat)
  | held (launch : Nat) (va : Nat)
  | compl (team : Nat) (id : Nat)
  | crec (ctx : Nat)
  | card (cluster : Nat) (tag : Nat)
  | walk (id : Nat)
  /-- The sequencer at a stream's head, and an aperture access. -/
  | seq (ctx : Nat) (stream : Nat)
  | aperture (ctx : Nat) (id : Nat)
  /-- A team's scalar instruction that reads memory where it stands, and a stream sequencer. -/
  | unit (team : Nat)
  | stream (part : Nat) (idx : Nat)
  /-- A page's move (R183). -/
  | move (id : Nat)
  /-- A poll of a team's monitor (R351). -/
  | mon (team : Nat)
  /-- A team's monitor that a W9L holds or is asked to hold (R349). -/
  | far (team : Nat)
  /-- A pool word read again by the validation of a team's transaction (R346). -/
  | txn (team : Nat) (pa : Nat)
  /-- An ATS translation request of a context. -/
  | ats (ctx : Nat)
  /-- A commit or abort message of a pool commit, to a die. -/
  | die (pbr : Nat)
  /-- Nobody: the requester has gone. -/
  | nobody
deriving DecidableEq, Repr

/-- A page walk in flight or queued (R169, R170): context and 4 KiB page, and whose access caused it. -/
structure Walk where
  id : Nat
  ctx : Nat
  page : Nat
  /-- The access that caused it, to which a violation is charged (R166); words of tables in the pool that have been read. -/
  core : Nat
  by_ : Serves := .nobody
  fetched : Tbl Nat := []
deriving DecidableEq, Repr

/-- What the device sends out of its package. -/
inductive Msg
  | hostRead (tag : Nat) (addr : Nat) (pasid : Nat) (shared : Bool)
  /-- `shared`: the host marks the range shared, and the write goes as a CXL.cache request (R175). -/
  | hostWrite (tag : Nat) (addr : Nat) (mask : BitVec 64) (data : Line) (pois : Bool := false) (shared : Bool := false)
  | atsReq (id : Nat) (pasid : Nat) (va : Nat)
  | atsInvDone (id : Nat)
  | pri (group : Nat) (pasid : Nat) (va : Nat) (write : Bool)
  | msix (vec : Nat)
  | poolReq (link : Nat) (tag : Nat) (dpa : Nat) (op : MemOp)
  | cont (link : Nat) (c : BitVec 1024)
  | poolCommit (tag : Nat) (pbr : Nat) (part : Nat) (ver : Nat)
  | poolAbort (tag : Nat) (pbr : Nat) (part : Nat) (ver : Nat)
  | outcome (pbr : Nat) (part : Nat) (ver : Nat) (commit : Bool)
  | query (pbr : Nat) (part : Nat) (ver : Nat)
  | biSnp (bi : Nat) (line : Nat)
  /-- A monitor that this W9L holds for another die is satisfied (2) or signalled (3): its number and line (R350, R433). -/
  | monWake (pbr : Nat) (id : Nat) (status : Nat) (data : Line)
  | hostReply (bi : Nat) (ok : Bool) (poison : Bool) (data : Line)
  | peerReply (pbr : Nat) (status : Nat) (poison : Bool) (data : Line) (vals : List Nat)
  | snoopReply (addr : Nat)
  | aperture (vf : Nat) (data : List Byte) (pois : Bool := false)
  | cxlViral (link : Nat)
  | dump (w : Word32)
  /-- Registers 0 to 4 and their signature under the identity key; the certificate chain, the device's certificate first (R143). -/
  | measurements (m : List (BitVec 256)) (sig : BitVec 3072)
  | certificates (chain : List (BitVec 8))
  /-- The standard IDE error of a link (R56). -/
  | ideError (link : Nat)
  | spdm (status : Nat)
  | fmReply (code : Nat)
  | linkIdle (link : Nat)
  /-- An unsupported-request completion at a link (R55). -/
  | unsupported (link : Nat)
  | retire (pbr : Nat) (team : Nat) (lane : Nat) (ver : Nat)
  /-- A cause raised in a landed team, for the die of its origin launch (R301). -/
  | landedCause (pbr : Nat) (part : Nat) (ver : Nat) (cause : Nat)
  /-- A continuation refused back to its sender with a cause, 0 for lack of room (R296, R297, R300). -/
  | contBack (pbr : Nat) (c : BitVec 1024) (cause : Nat)
  /-- A launch's footprint table (R309), with the versions of its chain, nearest first (R192). -/
  | footprint (pbr : Nat) (part : Nat) (ver : Nat) (foot : List Foot) (chain : List Nat)
deriving DecidableEq, Repr

/-- An outstanding request on the host or the pool. -/
structure Req where
  tag : Nat
  for_ : Serves
  addr : Nat
  write : Bool
  /-- The W9L a pool request goes to. -/
  pbr : Option Nat := none
  /-- When it was made; the way it leaves (links 0 to 7 as unordered I/O, 8 a CXL.cache request and 9 another request of port 0); and
  the message that has not left yet (R54, R56). -/
  since : Nat := 0
  via : Option Nat := none
  msg : Option Msg := none
  /-- Its completion has timed out (R89). -/
  timed : Bool := false
deriving DecidableEq, Repr

/-- A PRI page-request group (R176, R177). -/
structure Pri where
  id : Nat
  ctx : Nat
  page : Nat
  write : Bool
  sent : Bool
deriving DecidableEq, Repr

/-- An access in the replay queue of a moving page (R183, R185): whose, and its virtual range. -/
structure Queued where
  who : Serves
  va : Nat
  len : Nat
deriving DecidableEq, Repr

/-- A tier move (R180 to R186, R399): phase 0 requested with tables in the pool still to be read, 1 accepted, 2 dropped, 3
copying, 4 releasing. -/
structure Move where
  id : Nat
  pf : Bool
  ctx : Nat
  va : Nat
  lg : Nat
  old : Nat
  new : Nat
  phase : Nat := 1
  ta : Nat := 0
  /-- The leaf and its replicas, and of a demotion the handle-table index and page number. -/
  leaves : List Nat := []
  kv : Option (Nat × Nat × Nat) := none
  /-- Queued accesses in arrival order. While the queue is released, the translation that they use. -/
  queue : List Queued := []
  ent : Option TlbEnt := none
  /-- The launches whose uncommitted data at a W9L moves with the lines of a pool page (R183 step 4). -/
  vers : List Nat := []
  /-- Words of tables in the pool that have been read, and the next line to copy. -/
  fetched : Tbl Nat := []
  pos : Nat := 0
  /-- Accesses numbered below this used the old translation; the launch for which a shared page is copied (R398). -/
  stamp : Nat := 0
  launch : Option Nat := none
deriving DecidableEq, Repr

/-- An invalidation (R173, R179): phase 1 before ta, 2 draining; of the host or of `tictl`. -/
structure Inval where
  id : Nat
  ats : Bool
  ctx : Nat
  va : Nat
  lg : Nat
  ta : Nat
  phase : Nat := 1
  /-- The context-table entry is read again at ta. -/
  ctab : Bool := false
  /-- Accesses numbered below this used translations of before ta. -/
  stamp : Nat := 0
deriving DecidableEq, Repr

/-- What a link trains as (R49): PCIe 6.0, or CXL 3.1 with 256-byte flits. -/
inductive Proto | pcie | cxl
deriving DecidableEq, Repr

/-- A link of an edge port (R49 to R56): none of the rates while down. -/
structure Link where
  up : Bool := false
  proto : Option Proto := none
  /-- Refused at enumeration: a switch behind it routes by hierarchy (R55). -/
  hbr : Bool := false
  gts : Nat := 0
  ide : Bool := false
  insecure : Bool := false
deriving DecidableEq, Repr

/-- A pool write, continuation or prepare at its edge port (R70 to R73). -/
structure PoolW where
  id : Nat
  src : Nat
  link : Nat
  epoch : Nat
  pbr : Nat
  dpa : Nat
  op : MemOp
  part : Nat
  /-- The launch that made it; none of a write outside every launch. -/
  launch : Option Nat
  /-- Refused for want of room under WAIT: older launches of which one must end before it leaves again (R223). -/
  stall : List Nat := []
  /-- Whom its completion serves. -/
  serves : Serves := .nobody
  /-- A continuation or return instead of a write. -/
  cont : Option (BitVec 1024) := none
  /-- Device time that must pass first (R73, R293). -/
  after : Nat := 0
  /-- It has left its port, and when; its completion has timed out (R89). -/
  left : Bool := false
  since : Nat := 0
  timed : Bool := false
  commitUnit : Bool := false
deriving DecidableEq, Repr

/-- A pool decoder entry (R67). -/
structure PoolEnt where
  base : Nat
  len : Nat
  link : Nat
  pbr : Nat
  dpa : Nat
  bulk : Bool
  part : Nat
  lost : Bool := false
deriving DecidableEq, Repr

/-- A dynamic-capacity region (R57). -/
structure Region where
  first : Nat
  count : Nat
  bulk : Bool
deriving DecidableEq, Repr

/-- An entry of the snoop filter (R59), with its allocation order. -/
structure Snoop where
  ex : Bool
  bi : BitVec 16
  order : Nat
deriving DecidableEq, Repr

/-- A request that waits for back-invalidation answers (R60, R61): line, holders not yet heard from, and the request. -/
structure SnoopWait where
  line : Nat
  bi : BitVec 16
  /-- The requester: host BI-ID, peer PBR ID or own access, its DPA and operation. -/
  host : Option Nat
  pbr : Option Nat
  dpa : Nat
  op : MemOp
  /-- When the BISnp was sent (R714). -/
  since : Nat := 0
deriving DecidableEq, Repr

/-- What a W9L home holds for another die's launch (R217, R221, R308, R309). -/
structure Foreign where
  die : Nat
  part : Nat
  ver : Nat
  shadow : Tbl Shadow := []
  deltas : Tbl Delta := []
  locked : Bool := false
  foot : List Foot := []
  /-- The partition of this die that owns the lines, and the versions of the launch's chain, nearest first (R192). -/
  own : Nat := 0
  chain : List Nat := []
  /-- When the die was asked for the outcome (R714). -/
  asked : Option Nat := none
deriving DecidableEq, Repr

/-- An entry of the Milliner's log (R50, R95, R711, R713). -/
inductive Log
  | trainFail (link : Nat)
  | violation (master : Nat) (inst : Nat) (addr : Nat) (right : Nat) (time : Nat)
  | peerRefused (pbr : Nat) (dpa : Nat) (time : Nat)
  | bootFail (stage : Nat)
  | headerCheck (ctx : Nat) (addr : Nat) (time : Nat)
deriving DecidableEq, Repr

/-! ## The die -/

inductive Fitting | w9h | w9l
deriving DecidableEq, Repr

/-- Freeze (R39 to R45). -/
structure Freeze where
  pin : Bool := false
  /-- A standing request: cause (0 pin, 1 `frz_ctl`) and its time. -/
  req : Option (Nat × Nat) := none
  /-- Of a request by the pin that stands: when `frz_ctl` requested a freeze as well. -/
  ctl : Option Nat := none
  /-- After freeze: tf and cause, and the words already shifted out. -/
  at_ : Option (Nat × Nat) := none
  shifted : Nat := 0
deriving DecidableEq, Repr

/-- Power, performance states and throttling (R30 to R38): states 2 P-high, 1 P-mid, 0 P-idle; throttle 4 is none. -/
structure Power where
  pstate : Nat := 2
  /-- State waiting for a frame boundary, and one whose voltage still ramps. -/
  nextP : Option Nat := none
  ramp : Option (Nat × Nat) := none
  throttle : Nat := 4
  tcause : Nat := 1
  nextT : Option (Nat × Nat) := none
  enable : Nat := 4
  /-- Quarters gated, and quarters being ungated with their due time. -/
  gated : List Nat := []
  ungating : Tbl Nat := []
deriving DecidableEq, Repr

/-- The mailbox and the Milliner (R106, R107, R142, R143). -/
structure Milliner where
  req : BitVec 512 := 0
  resp : BitVec 512 := 0
  busy : Bool := false
  op : Nat := 0
  status : Nat := 0
  seq : Nat := 0
  /-- What the running command still waits for: quarters to ungate or reclaim, or a partition to drain. -/
  waitQ : List Nat := []
  waitPart : Option Nat := none
  booted : Bool := false
  bootFail : Bool := false
  stages : Nat := 0
  meas : List (BitVec 256) := []
  sess : Tbl Bool := []
  tkeys : Tbl (BitVec 256) := []
  log : List Log := []
  keyGens : Nat := 0
  /-- Key slots 0 to 64: the generation of the key material each holds (R16, R20). -/
  slots : Tbl (BitVec 256) := []
  /-- The version counters of partitions that have been freed (R187). -/
  vers : Tbl Nat := []
  /-- Die-to-base-die session keys, by stack, and stacks offline (R22 to R24). -/
  sessKeys : Tbl (BitVec 256) := []
  offline : List Nat := []
  /-- A flit tag failed once and was retransmitted, by stack (R23). -/
  flitFail : List Nat := []
  bifNow : List Nat := []
  bifNext : List Nat := []
  timeouts : Tbl Nat := []
deriving DecidableEq, Repr

/-- PF registers and translation machinery (R104, R151 to R156, R172, R180). -/
structure Xlat where
  ctab : BitVec 64 := 0
  own : Tbl Nat := []
  gstat : Nat := 0
  gbusy : List (Nat × Nat) := []
  tmva : BitVec 64 := 0
  tmdone : Nat := 0
  tmcause : Nat := 0
  tiva : BitVec 64 := 0
  tidone : Nat := 0
  shways : BitVec 16 := 0
  walks : List Walk := []
  pris : List Pri := []
  reqs : List Req := []
  moves : List Move := []
  invs : List Inval := []
deriving DecidableEq, Repr

/-- A monitor entry that a W9L holds for a team of another die's launch (R349, R350): the view, the partition whose share it takes, its number
there, and the word, comparison and value. -/
structure PoolMon where
  die : Nat
  part : Nat
  ver : Nat
  own : Nat
  id : Nat
  pa : Nat
  cmp : Nat
  v : Word
deriving DecidableEq, Repr

/-- Edge ports and the pool (R49 to R98). -/
structure Ports where
  links : Tbl Link := []
  pool : Tbl PoolEnt := []
  /-- Fence counters by source and link, and pool epochs by source (R71, R72). -/
  fence : Tbl Nat := []
  epoch : Tbl Nat := []
  q : List PoolW := []
  /-- Epoch-drain reports that have reached the other ports: oldest outstanding epoch known, by source. -/
  drained : Tbl Nat := []
  emap : Tbl Nat := []
  eown : Tbl Nat := []
  scrub : List Nat := []
  /-- Extents released and not scrubbed again yet (R66). -/
  rescrub : List Nat := []
  releasing : List Nat := []
  tags : List (BitVec 128 × Nat) := []
  regions : Tbl Region := []
  snoop : Tbl Snoop := []
  swait : List SnoopWait := []
  foreign : List Foreign := []
  /-- Versions of other dies that an abort message has ended: origin die, partition, version (R227). -/
  ended : List (Nat × Nat × Nat) := []
  blocked : List (Nat × Nat) := []
  unreach : Tbl Nat := []
  /-- Monitor entries that the slices of a W9L hold for other dies (R349, R350). -/
  mons : List PoolMon := []
  /-- The link by which a peer's messages last arrived (R714). -/
  peers : Tbl Nat := []
deriving DecidableEq, Repr

/-- Which team's instruction is being performed, and whether it is re-injected. -/
structure Cur where
  team : Nat
  entry : Entry
  inj : Bool := false
  /-- Source registers whose value at issue is not the register's present content: captured operands of a
  re-injected entry (R421), or unreturned long results (R482). Class (0 scalar, 1 vector, 2 mask) and number; a
  scalar's value is lane 0, a mask's value has one word per lane. -/
  ovr : List (Nat × Nat × Tbl Word) := []
deriving DecidableEq, Repr

/-- The whole machine. -/
structure State where
  fitting : Fitting := .w9h
  now : Nat := 0
  mem : List Host.Cell := []
  poison : Tbl Bool := []
  freeze : Freeze := {}
  power : Power := {}
  mil : Milliner := {}
  xlat : Xlat := {}
  ports : Ports := {}
  parts : Tbl Part := []
  ctxs : Tbl Ctx := []
  launches : Tbl Launch := []
  teams : Tbl Team := []
  clusters : Tbl Cluster := []
  cores : Tbl Core := []
  outbox : List Msg := []
  /-- Events at the ports, oldest first, and the operands of the one being performed. -/
  inputs : List (Instr × Arg) := []
  /-- Messages between units of the die that have not arrived: continuations, returns and retire notices (R294, R303). -/
  net : List (Instr × Arg) := []
  arg : Arg := {}
  cur : Option Cur := none
  /-- The model's own fields: how many free values have been drawn, the next number of a request, walk, move or
  completion, and for each core the enabled ticks that its issue slot is still taken (R252, R254). -/
  draws : Nat := 0
  fresh : Nat := 1
  issued : Tbl Nat := []
  /-- Periodic events already performed in this tick. -/
  ticked : List Nat := []
deriving DecidableEq, Repr

/-- The machine right after reset of a W9H: device time zero, no boot stage complete, no partition configured, every
link down, every table empty and memory with nothing listed. -/
def State.reset : State := {}

end Sys2Proof.Machine
end

