-- ==== Sys2Proof/Machine/Tbl.lean ====
section
/-! DEFINITION. The sparse table: read, write, removal. Keys stay strictly rising. -/

namespace Sys2Proof.Tbl

variable {α : Type}

/-- The entry at a key, if listed. -/
def get? : Tbl α → Nat → Option α
  | [], _ => none
  | (j, a) :: r, k => if j = k then some a else get? r k

/-- The entry at a key, or a default. -/
def getD (t : Tbl α) (k : Nat) (d : α) : α := (get? t k).getD d

/-- Write an entry in key order. -/
def put : Tbl α → Nat → α → Tbl α
  | [], k, a => [(k, a)]
  | (j, b) :: r, k, a => if k < j then (k, a) :: (j, b) :: r else if j = k then (k, a) :: r else (j, b) :: put r k a

/-- Remove the entry at a key. -/
def del : Tbl α → Nat → Tbl α
  | [], _ => []
  | (j, b) :: r, k => if j = k then del r k else (j, b) :: del r k

/-- Write an entry, or remove it when it equals what an unlisted key reads as. -/
def putD [DecidableEq α] (t : Tbl α) (k : Nat) (a d : α) : Tbl α := if a = d then del t k else put t k a

/-- Change the entry at a key, if listed. -/
def modify (t : Tbl α) (k : Nat) (f : α → α) : Tbl α :=
  match get? t k with | some a => put t k (f a) | none => t

/-- Change the entry at a key, from a default when it is not listed. -/
def upd (t : Tbl α) (k : Nat) (d : α) (f : α → α) : Tbl α := put t k (f (getD t k d))

/-- Strictly rising keys. -/
def sorted : Tbl α → Bool
  | [] => true
  | [_] => true
  | (i, _) :: (j, b) :: r => decide (i < j) && sorted ((j, b) :: r)

/-- Change every entry. -/
def mapV {β : Type} (t : Tbl α) (f : Nat → α → β) : Tbl β := t.map fun p => (p.1, f p.1 p.2)

/-- The keys. -/
def keys (t : Tbl α) : List Nat := t.map Prod.fst
/-- The values. -/
def vals (t : Tbl α) : List α := t.map Prod.snd

end Sys2Proof.Tbl
end

