-- ==== Sys2Proof/Machine/KvPart.lean ====
section
/-! DEFINITION. The partition's side of KV entries: page release, truncation, freeing and generations (R391 to R393, R402,
R406, R407, R625). -/

namespace Sys2Proof.Machine

/-- Lower a page's share count; at 0 it is free (R406). -/
def Part.dropPage (P : Part) (pa : Nat) : Part :=
  { P with pages := Tbl.modify P.pages pa fun k => { k with share := k.share - 1, priv := k.priv && decide (1 < k.share) } }
def Part.dropPages (P : Part) (l : List Nat) : Part := l.foldl Part.dropPage P

/-- R402: remove the prefix ways of an entry that a test selects, and the entry's link to one of them (R392). -/
def Part.dropWays (P : Part) (idx : Nat) (p : Prefix → Bool) : Part :=
  let gone := P.pfx.filter fun w => w.2.idx = idx && p w.2
  { P with pfx := P.pfx.filter fun w => !(w.2.idx = idx && p w.2)
           kv := Tbl.modify P.kv idx fun e => { e with pidx := e.pidx.filter fun l => !(gone.any fun w => w.1 = 4 * l.1 + l.2) } }

/-- R393: the generation rises, or the entry retires with its pages released. -/
def Part.bumpGen (P : Part) (idx : Nat) : Part :=
  match Tbl.get? P.kv idx with
  | none => P
  | some e =>
    if e.gen < 0xFFF then { P with kv := Tbl.put P.kv idx { e with gen := e.gen + 1 } }
    else { P.dropPages e.pages with kv := Tbl.put P.kv idx { e with kind := 3, pages := [], len := 0, cap := 0, claim := none, closing := false } }

/-- R406, R407: truncate an entry to cut c; `top` is the length that the entry keeps beyond the cut. -/
def Part.truncTo (P : Part) (idx c top : Nat) : Part :=
  match Tbl.get? P.kv idx with
  | none => P
  | some e =>
    let n := max (c / 2 ^ e.ptok + 1) ((top + 2 ^ e.ptok - 1) / 2 ^ e.ptok)
    let e' := { e with len := max (min e.len c) top, cap := min e.cap (n * 2 ^ e.ptok), pages := e.pages.take n, cstale := true }
    ((({ P with kv := Tbl.put P.kv idx e' } : Part).dropPages (e.pages.drop n)).dropWays idx fun w => decide (c < w.len)).bumpGen idx

/-- R625: free an entry whose references are gone; a stream descriptor frees its four entries. -/
def Part.kvFree (P : Part) (idx : Nat) : Part :=
  match Tbl.get? P.kv idx with
  | none => P
  | some e =>
    let P := (P.dropPages e.pages).dropWays idx fun _ => true
    let own := if e.kind = 2 then [0, 1, 2, 3].map (idx + ·) else [idx]
    let P := { P with kv := own.foldl (fun k j => Tbl.modify k j fun x => { kind := 0, gen := x.gen }) P.kv
                      stms := Tbl.del P.stms idx }
    own.foldl Part.bumpGen P

/-- R412: uncommitted generating launches of a stream. -/
def State.generating (s : State) (p idx gen : Nat) : List (Nat × Launch) :=
  s.launches.filter fun l => l.2.head.part = p && l.2.head.ds = some (idx, gen) && (match l.2.st with | .flipped _ => false | .done => false | _ => true)
/-- R625: complete the deferred frees that nothing holds any more. -/
def State.kvSettle (s : State) (p : Nat) : State :=
  match Tbl.get? s.parts p with
  | none => s
  | some P =>
    let go := P.kv.filter fun x => x.2.closing && x.2.claim.isNone && (x.2.kind ≠ 2 || (s.generating p x.1 x.2.gen).isEmpty)
    { s with parts := Tbl.put s.parts p (go.foldl (fun P x => P.kvFree x.1) P) }

end Sys2Proof.Machine
end

