-- ==== Sys2Proof/WellFormed.lean ====
section
/-! DEFINITION. Which operand fields of an instruction word the encoding admits (R487, R488, R498 steps 5 and 6):
the decoder answers only well-formed instructions, and the encoder is meant for them. -/

namespace Sys2Proof

/-- Sub-elements per lane of floating type codes 0 to 4 (R550). -/
def fltCount (t : Nat) : Nat := match t with | 0 => 1 | 1 => 2 | 2 => 4 | 3 => 4 | _ => 8

/-- Sub-elements per lane of integer type codes (R275, R488). -/
def intCount (t : Nat) : Nat := match t % 4 with | 0 => 1 | 1 => 2 | 2 => 4 | _ => 8

/-- R555: whether `part` is allowed between formats of `ns` and `nd` sub-elements; a count ratio of 8 never is. -/
def partOk (ns nd p : Nat) : Bool :=
  if ns = nd then p == 0
  else if ns < nd then nd / ns ≠ 8 && p < nd / ns
  else ns / nd ≠ 8 && p < ns / nd

/-- R490: the `parm` bits of a MODX word that must be zero for its form. -/
def modxParmOk (form parm : Nat) : Bool :=
  match form with
  | 0 => parm < 2048
  | 1 => parm < 8192
  | 2 => parm < 1024
  | _ => decide (1 ≤ parm ∧ parm ≤ 10)

/-- R488, R498 step 5: the type code is one the form accepts. -/
def typeOk : Instr → Bool
  | .vdot4 _ _ _ _ t => t == 1 || t == 5
  | .vwmul _ _ _ _ t => t ≠ 0 && t ≠ 4
  | .vfadd _ _ _ _ t | .vfsub _ _ _ _ t | .vfmin _ _ _ _ t | .vfmax _ _ _ _ t | .vfsgn _ _ _ _ t
  | .vfmul _ _ _ _ t | .vfma _ _ _ _ t | .vfms _ _ _ _ t | .vfnma _ _ _ _ t | .vfdiv _ _ _ _ t
  | .vfcmpEq _ _ _ _ t | .vfcmpNe _ _ _ _ t | .vfcmpLt _ _ _ _ t | .vfcmpLe _ _ _ _ t | .vfcmpGt _ _ _ _ t
  | .vfcmpGe _ _ _ _ t | .vfcmpOrd _ _ _ _ t | .vfcmpUno _ _ _ _ t | .vscale _ _ _ _ t => t.toNat < 5
  | .vfabs _ _ _ t | .vfneg _ _ _ t | .vfsqrt _ _ _ t | .vfclass _ _ _ t => t.toNat < 5
  | .vcvt _ _ _ _ c t => t.toNat < 5 && c.toNat < 5
  | .vcvti _ _ _ _ _ _ t => t.toNat < 5
  | .vpack _ _ _ _ t => decide (1 ≤ t.toNat ∧ t.toNat < 5)
  | .vunpack _ _ _ _ t => decide (1 ≤ t.toNat ∧ t.toNat < 5)
  | .vrcp _ _ _ t | .vrsqrt _ _ _ t | .vexp2 _ _ _ t | .vlog2 _ _ _ t | .vsin _ _ _ t | .vcos _ _ _ t
  | .vtanh _ _ _ t => decide (1 ≤ t.toNat ∧ t.toNat < 4)
  | .vscan _ _ _ o _ t => decide (o.toNat < 6 ∨ 8 < o.toNat ∨ t.toNat < 5)
  | .vred _ _ _ o t => decide (o.toNat < 6 ∨ 8 < o.toNat ∨ t.toNat < 5)
  | .afadd _ _ _ _ t => t.toNat < 4
  | .aadd _ _ _ _ t | .amin _ _ _ _ t | .amax _ _ _ _ t | .aand _ _ _ _ t | .aor _ _ _ _ t | .axor _ _ _ _ t
  | .axch _ _ _ _ t | .acas _ _ _ _ t | .ainc _ _ _ _ t => t.toNat % 4 < 2
  | _ => true

/-- R604: the first card register is `s1` to `s56`. -/
def enqRegOk (a : BitVec 6) : Bool := decide (1 ≤ a.toNat ∧ a.toNat ≤ 56)

/-- R621: the destination of a pair is `s1` to `s62`. -/
def pairOk (d : BitVec 6) : Bool := decide (1 ≤ d.toNat ∧ d.toNat ≤ 62)

/-- R486, R487, R498 steps 3 and 6: modes and field encodings that the word alone decides. -/
def fieldsOk : Instr → Bool
  | .widf _ _ f => f.toNat < 6
  | .vcvt _ _ _ p c t => partOk (fltCount t.toNat) (fltCount c.toNat) p.toNat
  | .vcvti _ _ _ r p c t =>
    if r = 0 then partOk (fltCount t.toNat) (intCount c.toNat) p.toNat
    else partOk (intCount c.toNat) (fltCount t.toNat) p.toNat
  | .vscan _ _ _ o _ _ => o.toNat < 9
  | .vred _ _ _ o _ => o.toNat < 9
  | .ld _ _ _ _ m _ | .st _ _ _ _ m _ => m.toNat < 3
  | .pf _ _ _ m _ => m.toNat < 3
  | .sld _ _ _ _ m _ | .sldFePeek _ _ _ _ m _ | .sldFeConsume _ _ _ _ m _ | .sst _ _ _ _ m _
  | .sstFull _ _ _ _ m _ => m.toNat < 3
  | .saadd _ _ _ _ _ m | .samin _ _ _ _ _ m | .samax _ _ _ _ _ m | .saxch _ _ _ _ _ m => m.toNat < 3
  | .acas _ d _ _ _ => d.toNat < 63
  | .salloc _ _ _ _ w k => decide (k.toNat ≠ 3 ∧ ¬ (w = 1 ∧ k = 0))
  | .smap _ _ _ _ k => decide (k.toNat = 1 ∨ k.toNat = 2)
  | .enqCopy _ _ a | .enqMatw _ _ a | .enqMata _ _ a | .enqMdrain _ _ a | .enqGather _ _ a | .enqScat _ _ a
  | .enqMerge _ _ a | .enqKscan _ _ a => enqRegOk a
  | .kvopen _ d _ | .kvopenDs _ d _ => pairOk d
  | .kvapp _ d _ _ | .kvtrunc _ d _ _ | .kvfork _ d _ _ | .kvlook _ d _ _ | .kvlookIns _ d _ _ => pairOk d
  | .modxWord _ _ _ o f p => o.toNat < 2 && modxParmOk f.toNat p.toNat
  | _ => true

/-- A well-formed instruction: what a word of the spec's encoding can say. -/
def wellFormed (i : Instr) : Bool := typeOk i && fieldsOk i

end Sys2Proof
end

