-- ==== Sys2Proof/Decode.lean ====
section
/-! DEFINITION. The decoder, total on any bytes, and the encoder, both from the encoding tables of the spec
(R478 to R501). A word that is no instruction is rejected by the name of the check it fails (R498). -/

namespace Sys2Proof

/-- The decoding checks of R498 that the word alone decides. -/
inductive DecodeErr
  /-- Fewer than four bytes were given. -/
  | short
  /-- Step 1: cause 0x00. -/
  | major
  /-- Step 3: cause 0x01. -/
  | minor
  /-- Step 5: cause 0x08. -/
  | type
  /-- Step 6: cause 0x02. -/
  | mustBeZero
deriving DecidableEq, Repr

/-- Field of `w` bits from bit `lo` of a word. -/
def fld (n lo w : Nat) : BitVec w := BitVec.ofNat w (n / 2 ^ lo)

/-- The rows of major 0x00 (R501), by their fixed fields. -/
def rowsOf00 (n : Nat) : Option Instr :=
  if n % 33554432 = 0 then some (.nop (fld n 31 1))
  else if n % 33554432 = 8 then some (.exit (fld n 31 1))
  else if n / 8 % 4194304 = 2 then some (.trap (fld n 31 1) (fld n 0 3))
  else if n % 33554432 = 24 then some (.tret (fld n 31 1))
  else if n % 33554432 = 32 then some (.tabort (fld n 31 1))
  else if n % 33554432 = 40 then some (.brk (fld n 31 1))
  else none

/-- The rows of major 0x01 (R501), by their fixed fields. -/
def rowsOf01 (n : Nat) : Option Instr :=
  if n % 33554432 = 18 then some (.setfmtI (fld n 31 1))
  else if n % 128 = 16 ∧ n / 8192 % 4096 = 0 then some (.setfmt (fld n 31 1) (fld n 7 6))
  else if n % 524288 = 30 then some (.widfAll (fld n 31 1) (fld n 19 6))
  else if n % 524288 = 40 then some (.now (fld n 31 1) (fld n 19 6))
  else if n / 8 % 65536 = 3 then some (.widf (fld n 31 1) (fld n 19 6) (fld n 0 3))
  else if n % 8192 = 0 then some (.getc (fld n 31 1) (fld n 19 6) (fld n 13 6))
  else if n % 8192 = 1 then some (.getcF (fld n 31 1) (fld n 19 6) (fld n 13 6))
  else if n % 128 = 8 ∧ n / 524288 % 64 = 0 then some (.setc (fld n 31 1) (fld n 13 6) (fld n 7 6))
  else if n % 128 = 9 ∧ n / 524288 % 64 = 0 then some (.setcF (fld n 31 1) (fld n 13 6) (fld n 7 6))
  else if n % 128 = 17 ∧ n / 524288 % 64 = 0 then some (.setfmtM (fld n 31 1) (fld n 13 6) (fld n 7 6))
  else if n % 8192 = 32 then some (.capq (fld n 31 1) (fld n 19 6) (fld n 13 6))
  else none

/-- The rows of major 0x02 (R501), by their fixed fields. -/
def rowsOf02 (n : Nat) : Option Instr :=
  if n / 262144 % 128 = 0 then some (.b (fld n 31 1) (fld n 0 18))
  else if n / 262144 % 128 = 8 then some (.bal (fld n 31 1) (fld n 0 18))
  else if n / 2097152 % 16 = 2 then some (.bcAny (fld n 31 1) (fld n 18 3) (fld n 0 18))
  else if n / 2097152 % 16 = 3 then some (.bcNone (fld n 31 1) (fld n 18 3) (fld n 0 18))
  else if n / 2097152 % 16 = 4 then some (.bcAll (fld n 31 1) (fld n 18 3) (fld n 0 18))
  else if n / 2097152 % 16 = 5 then some (.bcNall (fld n 31 1) (fld n 18 3) (fld n 0 18))
  else if n / 262144 % 128 = 48 then some (.bcEq (fld n 31 1) (fld n 12 6) (fld n 0 12))
  else if n / 262144 % 128 = 56 then some (.bcNe (fld n 31 1) (fld n 12 6) (fld n 0 12))
  else if n / 262144 % 128 = 64 then some (.bcLt (fld n 31 1) (fld n 12 6) (fld n 0 12))
  else if n / 262144 % 128 = 72 then some (.bcGe (fld n 31 1) (fld n 12 6) (fld n 0 12))
  else if n / 262144 % 128 = 80 then some (.bcGt (fld n 31 1) (fld n 12 6) (fld n 0 12))
  else if n / 262144 % 128 = 88 then some (.bcLe (fld n 31 1) (fld n 12 6) (fld n 0 12))
  else if n % 4096 = 0 ∧ n / 262144 % 128 = 112 then some (.jr (fld n 31 1) (fld n 12 6))
  else if n % 4096 = 0 ∧ n / 262144 % 128 = 120 then some (.jalr (fld n 31 1) (fld n 12 6))
  else none

/-- The rows of major 0x03 (R501), by their fixed fields. -/
def rowsOf03 (n : Nat) : Option Instr :=
  if n / 2097152 % 16 = 0 then some (.vif (fld n 31 1) (fld n 18 3) (fld n 0 18))
  else if n / 262144 % 128 = 8 then some (.velse (fld n 31 1) (fld n 0 18))
  else if n % 33554432 = 4194304 then some (.vendif (fld n 31 1))
  else if n / 2097152 % 16 = 3 then some (.vdo (fld n 31 1) (fld n 18 3) (fld n 0 18))
  else if n % 262144 = 0 ∧ n / 2097152 % 16 = 4 then some (.vwhile (fld n 31 1) (fld n 18 3))
  else if n % 262144 = 0 ∧ n / 2097152 % 16 = 5 then some (.vbrk (fld n 31 1) (fld n 18 3))
  else if n % 4096 = 0 ∧ n / 2097152 % 16 = 6 then some (.vany (fld n 31 1) (fld n 18 3) (fld n 12 6))
  else if n % 4096 = 0 ∧ n / 2097152 % 16 = 7 then some (.vall (fld n 31 1) (fld n 18 3) (fld n 12 6))
  else none

/-- The rows of major 0x04 (R501), by their fixed fields. -/
def rowsOf04 (n : Nat) : Option Instr :=
  if n % 64 = 0 then some (.sadd (fld n 31 1) (fld n 19 6) (fld n 13 6) (fld n 7 6) (fld n 6 1))
  else if n % 64 = 1 then some (.ssub (fld n 31 1) (fld n 19 6) (fld n 13 6) (fld n 7 6) (fld n 6 1))
  else if n % 64 = 2 then some (.sand (fld n 31 1) (fld n 19 6) (fld n 13 6) (fld n 7 6) (fld n 6 1))
  else if n % 64 = 3 then some (.sor (fld n 31 1) (fld n 19 6) (fld n 13 6) (fld n 7 6) (fld n 6 1))
  else if n % 64 = 4 then some (.sxor (fld n 31 1) (fld n 19 6) (fld n 13 6) (fld n 7 6) (fld n 6 1))
  else if n % 64 = 5 then some (.sandn (fld n 31 1) (fld n 19 6) (fld n 13 6) (fld n 7 6) (fld n 6 1))
  else if n % 64 = 6 then some (.sshl (fld n 31 1) (fld n 19 6) (fld n 13 6) (fld n 7 6) (fld n 6 1))
  else if n % 64 = 7 then some (.sshr (fld n 31 1) (fld n 19 6) (fld n 13 6) (fld n 7 6) (fld n 6 1))
  else if n % 64 = 8 then some (.ssra (fld n 31 1) (fld n 19 6) (fld n 13 6) (fld n 7 6) (fld n 6 1))
  else if n % 64 = 9 then some (.sseq (fld n 31 1) (fld n 19 6) (fld n 13 6) (fld n 7 6) (fld n 6 1))
  else if n % 64 = 10 then some (.ssne (fld n 31 1) (fld n 19 6) (fld n 13 6) (fld n 7 6) (fld n 6 1))
  else if n % 64 = 11 then some (.sslt (fld n 31 1) (fld n 19 6) (fld n 13 6) (fld n 7 6) (fld n 6 1))
  else if n % 64 = 12 then some (.ssltu (fld n 31 1) (fld n 19 6) (fld n 13 6) (fld n 7 6) (fld n 6 1))
  else if n % 64 = 13 then some (.ssle (fld n 31 1) (fld n 19 6) (fld n 13 6) (fld n 7 6) (fld n 6 1))
  else if n % 64 = 14 then some (.ssleu (fld n 31 1) (fld n 19 6) (fld n 13 6) (fld n 7 6) (fld n 6 1))
  else if n % 64 = 15 then some (.smin (fld n 31 1) (fld n 19 6) (fld n 13 6) (fld n 7 6) (fld n 6 1))
  else if n % 64 = 16 then some (.smax (fld n 31 1) (fld n 19 6) (fld n 13 6) (fld n 7 6) (fld n 6 1))
  else none

/-- The rows of major 0x05 (R501), by their fixed fields. -/
def rowsOf05 (n : Nat) : Option Instr :=
  some (.saddi (fld n 31 1) (fld n 19 6) (fld n 13 6) (fld n 0 13))

/-- The rows of major 0x06 (R501), by their fixed fields. -/
def rowsOf06 (n : Nat) : Option Instr :=
  if n % 64 = 0 then some (.smul (fld n 31 1) (fld n 19 6) (fld n 13 6) (fld n 7 6) (fld n 6 1))
  else if n % 64 = 1 then some (.smulh (fld n 31 1) (fld n 19 6) (fld n 13 6) (fld n 7 6) (fld n 6 1))
  else if n % 64 = 2 then some (.smulhu (fld n 31 1) (fld n 19 6) (fld n 13 6) (fld n 7 6) (fld n 6 1))
  else if n % 64 = 3 then some (.sdiv (fld n 31 1) (fld n 19 6) (fld n 13 6) (fld n 7 6) (fld n 6 1))
  else if n % 64 = 4 then some (.sdivu (fld n 31 1) (fld n 19 6) (fld n 13 6) (fld n 7 6) (fld n 6 1))
  else if n % 64 = 5 then some (.srem (fld n 31 1) (fld n 19 6) (fld n 13 6) (fld n 7 6) (fld n 6 1))
  else if n % 64 = 6 then some (.sremu (fld n 31 1) (fld n 19 6) (fld n 13 6) (fld n 7 6) (fld n 6 1))
  else none

/-- The rows of major 0x07 (R501), by their fixed fields. -/
def rowsOf07 (n : Nat) : Option Instr :=
  if n % 8192 = 0 then some (.sclz (fld n 31 1) (fld n 19 6) (fld n 13 6))
  else if n % 8192 = 1 then some (.sctz (fld n 31 1) (fld n 19 6) (fld n 13 6))
  else if n % 8192 = 2 then some (.spopc (fld n 31 1) (fld n 19 6) (fld n 13 6))
  else if n % 8192 = 3 then some (.sbrev (fld n 31 1) (fld n 19 6) (fld n 13 6))
  else if n % 8192 = 4 then some (.sbswap (fld n 31 1) (fld n 19 6) (fld n 13 6))
  else if n % 64 = 5 then some (.srotl (fld n 31 1) (fld n 19 6) (fld n 13 6) (fld n 7 6) (fld n 6 1))
  else if n % 64 = 6 then some (.srotr (fld n 31 1) (fld n 19 6) (fld n 13 6) (fld n 7 6) (fld n 6 1))
  else none

/-- The rows of major 0x08 (R501), by their fixed fields. -/
def rowsOf08 (n : Nat) : Option Instr :=
  if n / 8 % 16 = 0 then some (.vadd (fld n 31 1) (fld n 19 6) (fld n 13 6) (fld n 7 6) (fld n 0 3))
  else if n / 8 % 16 = 1 then some (.vsub (fld n 31 1) (fld n 19 6) (fld n 13 6) (fld n 7 6) (fld n 0 3))
  else if n / 8 % 16 = 2 then some (.vadds (fld n 31 1) (fld n 19 6) (fld n 13 6) (fld n 7 6) (fld n 0 3))
  else if n / 8 % 16 = 3 then some (.vsubs (fld n 31 1) (fld n 19 6) (fld n 13 6) (fld n 7 6) (fld n 0 3))
  else if n / 8 % 16 = 4 then some (.vmin (fld n 31 1) (fld n 19 6) (fld n 13 6) (fld n 7 6) (fld n 0 3))
  else if n / 8 % 16 = 5 then some (.vmax (fld n 31 1) (fld n 19 6) (fld n 13 6) (fld n 7 6) (fld n 0 3))
  else if n / 8 % 1024 = 6 then some (.vabs (fld n 31 1) (fld n 19 6) (fld n 13 6) (fld n 0 3))
  else if n / 8 % 1024 = 7 then some (.vneg (fld n 31 1) (fld n 19 6) (fld n 13 6) (fld n 0 3))
  else if n / 8 % 16 = 8 then some (.vsll (fld n 31 1) (fld n 19 6) (fld n 13 6) (fld n 7 6) (fld n 0 3))
  else if n / 8 % 16 = 9 then some (.vsrl (fld n 31 1) (fld n 19 6) (fld n 13 6) (fld n 7 6) (fld n 0 3))
  else if n / 8 % 16 = 10 then some (.vsra (fld n 31 1) (fld n 19 6) (fld n 13 6) (fld n 7 6) (fld n 0 3))
  else if n / 8 % 16 = 11 then some (.vcmpeq (fld n 31 1) (fld n 19 6) (fld n 13 6) (fld n 7 6) (fld n 0 3))
  else if n / 8 % 16 = 12 then some (.vcmplt (fld n 31 1) (fld n 19 6) (fld n 13 6) (fld n 7 6) (fld n 0 3))
  else if n / 8 % 16 = 13 then some (.vcmple (fld n 31 1) (fld n 19 6) (fld n 13 6) (fld n 7 6) (fld n 0 3))
  else none

/-- The rows of major 0x09 (R501), by their fixed fields. -/
def rowsOf09 (n : Nat) : Option Instr :=
  some (.vaddi (fld n 31 1) (fld n 19 6) (fld n 13 6) (fld n 3 10) (fld n 0 3))

/-- The rows of major 0x0A (R501), by their fixed fields. -/
def rowsOf0A (n : Nat) : Option Instr :=
  if n / 8 % 16 = 0 then some (.vmul (fld n 31 1) (fld n 19 6) (fld n 13 6) (fld n 7 6) (fld n 0 3))
  else if n / 8 % 16 = 1 then some (.vmulh (fld n 31 1) (fld n 19 6) (fld n 13 6) (fld n 7 6) (fld n 0 3))
  else if n / 8 % 16 = 2 then some (.vmadd (fld n 31 1) (fld n 19 6) (fld n 13 6) (fld n 7 6) (fld n 0 3))
  else if n / 8 % 16 = 3 then some (.vdot4 (fld n 31 1) (fld n 19 6) (fld n 13 6) (fld n 7 6) (fld n 0 3))
  else if n / 8 % 16 = 4 then some (.vwmul (fld n 31 1) (fld n 19 6) (fld n 13 6) (fld n 7 6) (fld n 0 3))
  else none

/-- The rows of major 0x0B (R501), by their fixed fields. -/
def rowsOf0B (n : Nat) : Option Instr :=
  if n / 8 % 16 = 0 then some (.vand (fld n 31 1) (fld n 19 6) (fld n 13 6) (fld n 7 6) (fld n 0 3))
  else if n / 8 % 16 = 1 then some (.vor (fld n 31 1) (fld n 19 6) (fld n 13 6) (fld n 7 6) (fld n 0 3))
  else if n / 8 % 16 = 2 then some (.vxor (fld n 31 1) (fld n 19 6) (fld n 13 6) (fld n 7 6) (fld n 0 3))
  else if n / 8 % 1024 = 3 then some (.vnot (fld n 31 1) (fld n 19 6) (fld n 13 6) (fld n 0 3))
  else if n / 8 % 1024 = 4 then some (.vpopc (fld n 31 1) (fld n 19 6) (fld n 13 6) (fld n 0 3))
  else none

/-- The rows of major 0x0C (R501), by their fixed fields. -/
def rowsOf0C (n : Nat) : Option Instr :=
  if n / 8 % 16 = 0 then some (.vfadd (fld n 31 1) (fld n 19 6) (fld n 13 6) (fld n 7 6) (fld n 0 3))
  else if n / 8 % 16 = 1 then some (.vfsub (fld n 31 1) (fld n 19 6) (fld n 13 6) (fld n 7 6) (fld n 0 3))
  else if n / 8 % 16 = 2 then some (.vfmin (fld n 31 1) (fld n 19 6) (fld n 13 6) (fld n 7 6) (fld n 0 3))
  else if n / 8 % 16 = 3 then some (.vfmax (fld n 31 1) (fld n 19 6) (fld n 13 6) (fld n 7 6) (fld n 0 3))
  else if n / 8 % 1024 = 4 then some (.vfabs (fld n 31 1) (fld n 19 6) (fld n 13 6) (fld n 0 3))
  else if n / 8 % 1024 = 5 then some (.vfneg (fld n 31 1) (fld n 19 6) (fld n 13 6) (fld n 0 3))
  else if n / 8 % 16 = 6 then some (.vfsgn (fld n 31 1) (fld n 19 6) (fld n 13 6) (fld n 7 6) (fld n 0 3))
  else none

/-- The rows of major 0x0D (R501), by their fixed fields. -/
def rowsOf0D (n : Nat) : Option Instr :=
  if n / 8 % 16 = 0 then some (.vfmul (fld n 31 1) (fld n 19 6) (fld n 13 6) (fld n 7 6) (fld n 0 3))
  else if n / 8 % 16 = 1 then some (.vfma (fld n 31 1) (fld n 19 6) (fld n 13 6) (fld n 7 6) (fld n 0 3))
  else if n / 8 % 16 = 2 then some (.vfms (fld n 31 1) (fld n 19 6) (fld n 13 6) (fld n 7 6) (fld n 0 3))
  else if n / 8 % 16 = 3 then some (.vfnma (fld n 31 1) (fld n 19 6) (fld n 13 6) (fld n 7 6) (fld n 0 3))
  else if n / 8 % 16 = 4 then some (.vfdiv (fld n 31 1) (fld n 19 6) (fld n 13 6) (fld n 7 6) (fld n 0 3))
  else if n / 8 % 1024 = 5 then some (.vfsqrt (fld n 31 1) (fld n 19 6) (fld n 13 6) (fld n 0 3))
  else none

/-- The rows of major 0x0E (R501), by their fixed fields. -/
def rowsOf0E (n : Nat) : Option Instr :=
  if n / 8 % 16 = 0 then some (.vfcmpEq (fld n 31 1) (fld n 19 6) (fld n 13 6) (fld n 7 6) (fld n 0 3))
  else if n / 8 % 16 = 1 then some (.vfcmpNe (fld n 31 1) (fld n 19 6) (fld n 13 6) (fld n 7 6) (fld n 0 3))
  else if n / 8 % 16 = 2 then some (.vfcmpLt (fld n 31 1) (fld n 19 6) (fld n 13 6) (fld n 7 6) (fld n 0 3))
  else if n / 8 % 16 = 3 then some (.vfcmpLe (fld n 31 1) (fld n 19 6) (fld n 13 6) (fld n 7 6) (fld n 0 3))
  else if n / 8 % 16 = 4 then some (.vfcmpGt (fld n 31 1) (fld n 19 6) (fld n 13 6) (fld n 7 6) (fld n 0 3))
  else if n / 8 % 16 = 5 then some (.vfcmpGe (fld n 31 1) (fld n 19 6) (fld n 13 6) (fld n 7 6) (fld n 0 3))
  else if n / 8 % 16 = 6 then some (.vfcmpOrd (fld n 31 1) (fld n 19 6) (fld n 13 6) (fld n 7 6) (fld n 0 3))
  else if n / 8 % 16 = 7 then some (.vfcmpUno (fld n 31 1) (fld n 19 6) (fld n 13 6) (fld n 7 6) (fld n 0 3))
  else if n / 8 % 1024 = 8 then some (.vfclass (fld n 31 1) (fld n 19 6) (fld n 13 6) (fld n 0 3))
  else none

/-- The rows of major 0x0F (R501), by their fixed fields. -/
def rowsOf0F (n : Nat) : Option Instr :=
  if n / 8 % 16 = 0 ∧ n / 4096 % 2 = 0 then some (.vcvt (fld n 31 1) (fld n 19 6) (fld n 13 6) (fld n 10 2) (fld n 7 3) (fld n 0 3))
  else if n / 8 % 16 = 1 then some (.vcvti (fld n 31 1) (fld n 19 6) (fld n 13 6) (fld n 12 1) (fld n 10 2) (fld n 7 3) (fld n 0 3))
  else if n / 8 % 16 = 2 then some (.vpack (fld n 31 1) (fld n 19 6) (fld n 13 6) (fld n 7 6) (fld n 0 3))
  else if n / 8 % 16 = 3 ∧ n / 256 % 32 = 0 then some (.vunpack (fld n 31 1) (fld n 19 6) (fld n 13 6) (fld n 7 1) (fld n 0 3))
  else if n / 8 % 16 = 4 then some (.vscale (fld n 31 1) (fld n 19 6) (fld n 13 6) (fld n 7 6) (fld n 0 3))
  else none

/-- The rows of major 0x10 (R501), by their fixed fields. -/
def rowsOf10 (n : Nat) : Option Instr :=
  if n / 8 % 1024 = 0 then some (.vrcp (fld n 31 1) (fld n 19 6) (fld n 13 6) (fld n 0 3))
  else if n / 8 % 1024 = 1 then some (.vrsqrt (fld n 31 1) (fld n 19 6) (fld n 13 6) (fld n 0 3))
  else if n / 8 % 1024 = 2 then some (.vexp2 (fld n 31 1) (fld n 19 6) (fld n 13 6) (fld n 0 3))
  else if n / 8 % 1024 = 3 then some (.vlog2 (fld n 31 1) (fld n 19 6) (fld n 13 6) (fld n 0 3))
  else if n / 8 % 1024 = 4 then some (.vsin (fld n 31 1) (fld n 19 6) (fld n 13 6) (fld n 0 3))
  else if n / 8 % 1024 = 5 then some (.vcos (fld n 31 1) (fld n 19 6) (fld n 13 6) (fld n 0 3))
  else if n / 8 % 1024 = 6 then some (.vtanh (fld n 31 1) (fld n 19 6) (fld n 13 6) (fld n 0 3))
  else none

/-- The rows of major 0x11 (R501), by their fixed fields. -/
def rowsOf11 (n : Nat) : Option Instr :=
  if n / 8 % 16 = 0 then some (.vshfl (fld n 31 1) (fld n 19 6) (fld n 13 6) (fld n 7 6) (fld n 0 3))
  else if n / 8 % 16 = 1 then some (.vbcast (fld n 31 1) (fld n 19 6) (fld n 13 6) (fld n 7 6) (fld n 0 3))
  else if n / 8 % 32 = 2 then some (.vscan (fld n 31 1) (fld n 19 6) (fld n 13 6) (fld n 9 4) (fld n 8 1) (fld n 0 3))
  else if n / 8 % 64 = 3 then some (.vred (fld n 31 1) (fld n 19 6) (fld n 13 6) (fld n 9 4) (fld n 0 3))
  else if n % 8192 = 32 then some (.vcompress (fld n 31 1) (fld n 19 6) (fld n 13 6))
  else if n % 8192 = 40 then some (.vexpand (fld n 31 1) (fld n 19 6) (fld n 13 6))
  else none

/-- The rows of major 0x12 (R501), by their fixed fields. -/
def rowsOf12 (n : Nat) : Option Instr :=
  if n % 128 = 0 ∧ n / 1024 % 8 = 0 ∧ n / 65536 % 8 = 0 ∧ n / 4194304 % 8 = 0 then some (.kand (fld n 31 1) (fld n 19 3) (fld n 13 3) (fld n 7 3))
  else if n % 128 = 1 ∧ n / 1024 % 8 = 0 ∧ n / 65536 % 8 = 0 ∧ n / 4194304 % 8 = 0 then some (.kor (fld n 31 1) (fld n 19 3) (fld n 13 3) (fld n 7 3))
  else if n % 128 = 2 ∧ n / 1024 % 8 = 0 ∧ n / 65536 % 8 = 0 ∧ n / 4194304 % 8 = 0 then some (.kxor (fld n 31 1) (fld n 19 3) (fld n 13 3) (fld n 7 3))
  else if n % 8192 = 3 ∧ n / 65536 % 8 = 0 ∧ n / 4194304 % 8 = 0 then some (.knot (fld n 31 1) (fld n 19 3) (fld n 13 3))
  else if n % 128 = 4 ∧ n / 1024 % 8 = 0 ∧ n / 65536 % 8 = 0 ∧ n / 4194304 % 8 = 0 then some (.kandn (fld n 31 1) (fld n 19 3) (fld n 13 3) (fld n 7 3))
  else if n % 8192 = 5 ∧ n / 65536 % 8 = 0 ∧ n / 4194304 % 8 = 0 then some (.kmov (fld n 31 1) (fld n 19 3) (fld n 13 3))
  else if n % 8192 = 6 ∧ n / 65536 % 8 = 0 then some (.kpop (fld n 31 1) (fld n 19 6) (fld n 13 3))
  else if n % 8192 = 7 ∧ n / 65536 % 8 = 0 then some (.kffs (fld n 31 1) (fld n 19 6) (fld n 13 3))
  else none

/-- The rows of major 0x13 (R501), by their fixed fields. -/
def rowsOf13 (n : Nat) : Option Instr :=
  if n % 8192 = 0 then some (.vmov (fld n 31 1) (fld n 19 6) (fld n 13 6))
  else if n / 8 % 1024 = 1 then some (.vsplat (fld n 31 1) (fld n 19 6) (fld n 13 6) (fld n 0 3))
  else if n / 8 % 16 = 2 then some (.vext (fld n 31 1) (fld n 19 6) (fld n 13 6) (fld n 7 6) (fld n 0 3))
  else if n / 8 % 16 = 3 then some (.vins (fld n 31 1) (fld n 19 6) (fld n 13 6) (fld n 7 6) (fld n 0 3))
  else if n / 8 % 16 = 4 then some (.vsel (fld n 31 1) (fld n 19 6) (fld n 13 6) (fld n 7 6) (fld n 0 3))
  else if n % 8192 = 40 ∧ n / 65536 % 8 = 0 then some (.kvec (fld n 31 1) (fld n 19 6) (fld n 13 3))
  else if n % 8192 = 48 ∧ n / 4194304 % 8 = 0 then some (.veck (fld n 31 1) (fld n 19 3) (fld n 13 6))
  else none

/-- The rows of major 0x14 (R501), by their fixed fields. -/
def rowsOf14 (n : Nat) : Option Instr :=
  if n / 8 % 2 = 0 then some (.ld (fld n 31 1) (fld n 19 6) (fld n 13 6) (fld n 7 6) (fld n 4 3) (fld n 0 3))
  else if n / 8 % 2 = 1 ∧ n / 524288 % 64 = 0 then some (.pf (fld n 31 1) (fld n 13 6) (fld n 7 6) (fld n 4 3) (fld n 0 3))
  else none

/-- The rows of major 0x15 (R501), by their fixed fields. -/
def rowsOf15 (n : Nat) : Option Instr :=
  if n / 8 % 2 = 0 then some (.st (fld n 31 1) (fld n 19 6) (fld n 13 6) (fld n 7 6) (fld n 4 3) (fld n 0 3))
  else none

/-- The rows of major 0x16 (R501), by their fixed fields. -/
def rowsOf16 (n : Nat) : Option Instr :=
  if n / 8 % 2 = 0 ∧ n / 64 % 2 = 0 then some (.sld (fld n 31 1) (fld n 19 6) (fld n 13 6) (fld n 7 6) (fld n 4 2) (fld n 0 3))
  else if n / 8 % 2 = 1 ∧ n / 64 % 2 = 0 then some (.sldFePeek (fld n 31 1) (fld n 19 6) (fld n 13 6) (fld n 7 6) (fld n 4 2) (fld n 0 3))
  else if n / 8 % 2 = 1 ∧ n / 64 % 2 = 1 then some (.sldFeConsume (fld n 31 1) (fld n 19 6) (fld n 13 6) (fld n 7 6) (fld n 4 2) (fld n 0 3))
  else none

/-- The rows of major 0x17 (R501), by their fixed fields. -/
def rowsOf17 (n : Nat) : Option Instr :=
  if n / 8 % 2 = 0 ∧ n / 64 % 2 = 0 then some (.sst (fld n 31 1) (fld n 19 6) (fld n 13 6) (fld n 7 6) (fld n 4 2) (fld n 0 3))
  else if n / 8 % 2 = 1 ∧ n / 64 % 2 = 0 then some (.sstFull (fld n 31 1) (fld n 19 6) (fld n 13 6) (fld n 7 6) (fld n 4 2) (fld n 0 3))
  else none

/-- The rows of major 0x18 (R501), by their fixed fields. -/
def rowsOf18 (n : Nat) : Option Instr :=
  if n % 16 = 0 then some (.aadd (fld n 31 1) (fld n 19 6) (fld n 13 6) (fld n 7 6) (fld n 4 3))
  else if n % 16 = 1 then some (.afadd (fld n 31 1) (fld n 19 6) (fld n 13 6) (fld n 7 6) (fld n 4 3))
  else if n % 16 = 2 then some (.amin (fld n 31 1) (fld n 19 6) (fld n 13 6) (fld n 7 6) (fld n 4 3))
  else if n % 16 = 3 then some (.amax (fld n 31 1) (fld n 19 6) (fld n 13 6) (fld n 7 6) (fld n 4 3))
  else if n % 16 = 4 then some (.aand (fld n 31 1) (fld n 19 6) (fld n 13 6) (fld n 7 6) (fld n 4 3))
  else if n % 16 = 5 then some (.aor (fld n 31 1) (fld n 19 6) (fld n 13 6) (fld n 7 6) (fld n 4 3))
  else if n % 16 = 6 then some (.axor (fld n 31 1) (fld n 19 6) (fld n 13 6) (fld n 7 6) (fld n 4 3))
  else if n % 16 = 7 then some (.axch (fld n 31 1) (fld n 19 6) (fld n 13 6) (fld n 7 6) (fld n 4 3))
  else if n % 16 = 8 then some (.acas (fld n 31 1) (fld n 19 6) (fld n 13 6) (fld n 7 6) (fld n 4 3))
  else if n % 16 = 9 then some (.ainc (fld n 31 1) (fld n 19 6) (fld n 13 6) (fld n 7 6) (fld n 4 3))
  else none

/-- The rows of major 0x19 (R501), by their fixed fields. -/
def rowsOf19 (n : Nat) : Option Instr :=
  if n % 16 = 0 then some (.saadd (fld n 31 1) (fld n 19 6) (fld n 13 6) (fld n 7 6) (fld n 6 1) (fld n 4 2))
  else if n % 16 = 4 then some (.samin (fld n 31 1) (fld n 19 6) (fld n 13 6) (fld n 7 6) (fld n 6 1) (fld n 4 2))
  else if n % 16 = 8 then some (.samax (fld n 31 1) (fld n 19 6) (fld n 13 6) (fld n 7 6) (fld n 6 1) (fld n 4 2))
  else if n % 16 = 12 then some (.saxch (fld n 31 1) (fld n 19 6) (fld n 13 6) (fld n 7 6) (fld n 6 1) (fld n 4 2))
  else none

/-- The rows of major 0x1A (R501), by their fixed fields. -/
def rowsOf1A (n : Nat) : Option Instr :=
  if n / 8 % 4194304 = 0 then some (.fenceRel (fld n 31 1) (fld n 0 3))
  else if n / 8 % 4194304 = 1 then some (.fenceAcq (fld n 31 1) (fld n 0 3))
  else if n / 8 % 4194304 = 2 then some (.fenceAr (fld n 31 1) (fld n 0 3))
  else none

/-- The rows of major 0x1B (R501), by their fixed fields. -/
def rowsOf1B (n : Nat) : Option Instr :=
  if n % 128 = 0 ∧ n / 524288 % 64 = 0 then some (.binit (fld n 31 1) (fld n 13 6) (fld n 7 6))
  else if n % 128 = 8 then some (.barr (fld n 31 1) (fld n 19 6) (fld n 13 6) (fld n 7 6))
  else if n % 128 = 16 ∧ n / 524288 % 64 = 0 then some (.bexp (fld n 31 1) (fld n 13 6) (fld n 7 6))
  else if n / 2 % 64 = 12 ∧ n / 524288 % 64 = 0 then some (.bwait (fld n 31 1) (fld n 13 6) (fld n 7 6) (fld n 0 1))
  else if n / 2 % 64 = 16 then some (.btry (fld n 31 1) (fld n 19 6) (fld n 13 6) (fld n 7 6) (fld n 0 1))
  else none

/-- The rows of major 0x1C (R501), by their fixed fields. -/
def rowsOf1C (n : Nat) : Option Instr :=
  if n % 16 = 0 then some (.waitc (fld n 31 1) (fld n 19 6) (fld n 13 6) (fld n 7 6) (fld n 4 3))
  else if n % 16 = 1 then some (.wmon (fld n 31 1) (fld n 19 6) (fld n 13 6) (fld n 7 6) (fld n 4 3))
  else if n % 524288 = 2 then some (.wtest (fld n 31 1) (fld n 19 6))
  else none

/-- The rows of major 0x1D (R501), by their fixed fields. -/
def rowsOf1D (n : Nat) : Option Instr :=
  if n % 128 = 0 ∧ n / 524288 % 64 = 0 then some (.tmbegin (fld n 31 1) (fld n 13 6) (fld n 7 6))
  else if n % 33554432 = 8 then some (.tmend (fld n 31 1))
  else if n % 33554432 = 16 then some (.tmabort (fld n 31 1))
  else if n % 524288 = 24 then some (.tmstat (fld n 31 1) (fld n 19 6))
  else none

/-- The rows of major 0x1E (R501), by their fixed fields. -/
def rowsOf1E (n : Nat) : Option Instr :=
  if n / 8 % 16 = 0 then some (.salloc (fld n 31 1) (fld n 19 6) (fld n 13 6) (fld n 7 6) (fld n 2 1) (fld n 0 2))
  else if n % 8192 = 8 ∧ n / 524288 % 64 = 0 then some (.sfree (fld n 31 1) (fld n 13 6))
  else if n / 8 % 16 = 2 ∧ n / 524288 % 64 = 0 then some (.smap (fld n 31 1) (fld n 13 6) (fld n 7 6) (fld n 2 1) (fld n 0 2))
  else if n % 8192 = 24 ∧ n / 524288 % 64 = 0 then some (.sunmap (fld n 31 1) (fld n 13 6))
  else if n % 8192 = 32 ∧ n / 524288 % 64 = 0 then some (.sflush (fld n 31 1) (fld n 13 6))
  else none

/-- The rows of major 0x1F (R501), by their fixed fields. -/
def rowsOf1F (n : Nat) : Option Instr :=
  if n / 8 % 16 = 0 then some (.lds (fld n 31 1) (fld n 19 6) (fld n 13 6) (fld n 7 6) (fld n 0 3))
  else if n / 8 % 16 = 1 then some (.sts (fld n 31 1) (fld n 19 6) (fld n 13 6) (fld n 7 6) (fld n 0 3))
  else none

/-- The rows of major 0x20 (R501), by their fixed fields. -/
def rowsOf20 (n : Nat) : Option Instr :=
  if n % 8192 = 0 then some (.enqCopy (fld n 31 1) (fld n 19 6) (fld n 13 6))
  else if n % 8192 = 8 then some (.enqMatw (fld n 31 1) (fld n 19 6) (fld n 13 6))
  else if n % 8192 = 16 then some (.enqMata (fld n 31 1) (fld n 19 6) (fld n 13 6))
  else if n % 8192 = 24 then some (.enqMdrain (fld n 31 1) (fld n 19 6) (fld n 13 6))
  else if n % 8192 = 32 then some (.enqGather (fld n 31 1) (fld n 19 6) (fld n 13 6))
  else if n % 8192 = 40 then some (.enqScat (fld n 31 1) (fld n 19 6) (fld n 13 6))
  else if n % 8192 = 48 then some (.enqMerge (fld n 31 1) (fld n 19 6) (fld n 13 6))
  else if n % 8192 = 56 then some (.enqKscan (fld n 31 1) (fld n 19 6) (fld n 13 6))
  else none

/-- The rows of major 0x21 (R501), by their fixed fields. -/
def rowsOf21 (n : Nat) : Option Instr :=
  if n % 8192 = 0 ∧ n / 524288 % 64 = 0 then some (.chain (fld n 31 1) (fld n 13 6))
  else if n / 4 % 2048 = 2 then some (.cstat (fld n 31 1) (fld n 19 6) (fld n 13 6) (fld n 1 1) (fld n 0 1))
  else none

/-- The rows of major 0x22 (R501), by their fixed fields. -/
def rowsOf22 (n : Nat) : Option Instr :=
  if n % 8192 = 0 then some (.kvopen (fld n 31 1) (fld n 19 6) (fld n 13 6))
  else if n % 8192 = 1 then some (.kvopenDs (fld n 31 1) (fld n 19 6) (fld n 13 6))
  else if n % 8192 = 8 ∧ n / 524288 % 64 = 0 then some (.kvclose (fld n 31 1) (fld n 13 6))
  else if n % 128 = 16 then some (.kvapp (fld n 31 1) (fld n 19 6) (fld n 13 6) (fld n 7 6))
  else if n % 128 = 24 then some (.kvtrunc (fld n 31 1) (fld n 19 6) (fld n 13 6) (fld n 7 6))
  else if n % 128 = 32 then some (.kvfork (fld n 31 1) (fld n 19 6) (fld n 13 6) (fld n 7 6))
  else if n % 128 = 40 then some (.kvlook (fld n 31 1) (fld n 19 6) (fld n 13 6) (fld n 7 6))
  else if n % 128 = 41 then some (.kvlookIns (fld n 31 1) (fld n 19 6) (fld n 13 6) (fld n 7 6))
  else if n % 128 = 48 then some (.kvallocGrow (fld n 31 1) (fld n 19 6) (fld n 13 6) (fld n 7 6))
  else if n % 128 = 49 then some (.kvallocGrant (fld n 31 1) (fld n 19 6) (fld n 13 6) (fld n 7 6))
  else if n % 128 = 50 then some (.kvallocRsv (fld n 31 1) (fld n 19 6) (fld n 13 6) (fld n 7 6))
  else if n % 128 = 51 then some (.kvallocDem (fld n 31 1) (fld n 19 6) (fld n 13 6) (fld n 7 6))
  else none

/-- The rows of major 0x23 (R501), by their fixed fields. -/
def rowsOf23 (n : Nat) : Option Instr :=
  if n % 128 = 0 then some (.dsin (fld n 31 1) (fld n 19 6) (fld n 13 6) (fld n 7 6))
  else if n % 128 = 8 then some (.dsgen (fld n 31 1) (fld n 19 6) (fld n 13 6) (fld n 7 6))
  else if n % 128 = 16 then some (.dstrunc (fld n 31 1) (fld n 19 6) (fld n 13 6) (fld n 7 6))
  else if n % 128 = 24 ∧ n / 524288 % 64 = 0 then some (.dssnap (fld n 31 1) (fld n 13 6) (fld n 7 6))
  else if n % 128 = 32 ∧ n / 524288 % 64 = 0 then some (.dsplay (fld n 31 1) (fld n 13 6) (fld n 7 6))
  else none

/-- The rows of major 0x24 (R501), by their fixed fields. -/
def rowsOf24 (n : Nat) : Option Instr :=
  if n % 128 = 0 then some (.launch (fld n 31 1) (fld n 19 6) (fld n 13 6) (fld n 7 6))
  else if n % 8192 = 8 then some (.launchWait (fld n 31 1) (fld n 19 6) (fld n 13 6))
  else none

/-- The rows of major 0x25 (R501), by their fixed fields. -/
def rowsOf25 (n : Nat) : Option Instr :=
  if n % 128 = 0 then some (.role (fld n 31 1) (fld n 19 6) (fld n 13 6) (fld n 7 6))
  else if n % 8192 = 8 then some (.roleAsk (fld n 31 1) (fld n 19 6) (fld n 13 6))
  else if n % 128 = 16 ∧ n / 524288 % 64 = 0 then some (.qpush (fld n 31 1) (fld n 13 6) (fld n 7 6))
  else if n % 128 = 24 then some (.qpop (fld n 31 1) (fld n 19 6) (fld n 13 6) (fld n 7 6))
  else if n % 128 = 32 then some (.qtry (fld n 31 1) (fld n 19 6) (fld n 13 6) (fld n 7 6))
  else none

/-- The rows of major 0x26 (R501), by their fixed fields. -/
def rowsOf26 (n : Nat) : Option Instr :=
  if n % 8192 = 0 ∧ n / 524288 % 64 = 0 then some (.mig (fld n 31 1) (fld n 13 6))
  else if n % 8192 = 1 ∧ n / 524288 % 64 = 0 then some (.migTrap (fld n 31 1) (fld n 13 6))
  else if n % 33554432 = 8 then some (.mret (fld n 31 1))
  else if n % 33554432 = 16 then some (.mjoin (fld n 31 1))
  else if n % 524288 = 24 then some (.mstat (fld n 31 1) (fld n 19 6))
  else none

/-- The rows of major 0x27 (R501), by their fixed fields. -/
def rowsOf27 (n : Nat) : Option Instr :=
  if n % 8192 = 0 ∧ n / 524288 % 64 = 0 then some (.signalQ (fld n 31 1) (fld n 13 6))
  else if n % 8192 = 1 ∧ n / 524288 % 64 = 0 then some (.signalM (fld n 31 1) (fld n 13 6))
  else if n % 8192 = 8 ∧ n / 524288 % 64 = 0 then some (.msig (fld n 31 1) (fld n 13 6))
  else none

/-- The rows of major 0x28 (R501), by their fixed fields. -/
def rowsOf28 (n : Nat) : Option Instr :=
  if n % 8192 = 0 ∧ n / 524288 % 64 = 0 then some (.pcmark (fld n 31 1) (fld n 13 6))
  else if n % 33554432 = 8 then some (.pcsample (fld n 31 1))
  else if n % 8192 = 16 then some (.pcread (fld n 31 1) (fld n 19 6) (fld n 13 6))
  else none

/-- The rows of major 0x3E (R501), by their fixed fields. -/
def rowsOf3E (n : Nat) : Option Instr :=
  if n / 2 ^ 31 % 2 = 0 then some (.immWord (fld n 0 25))
  else none

/-- The rows of major 0x3F (R501), by their fixed fields. -/
def rowsOf3F (n : Nat) : Option Instr :=
  if n % 256 = 0 ∧ n / 2 ^ 31 % 2 = 0 ∧ n / 8388608 % 4 = 0 then some (.modWord (fld n 20 3) (fld n 19 1) (fld n 18 1) (fld n 15 3) (fld n 14 1) (fld n 8 6))
  else if n / 2 ^ 31 % 2 = 0 ∧ n / 8388608 % 4 = 1 then some (.modxWord (fld n 20 3) (fld n 19 1) (fld n 18 1) (fld n 16 2) (fld n 14 2) (fld n 0 14))
  else if n / 2 ^ 31 % 2 = 0 ∧ n / 256 % 131072 = 81920 then some (.hintStream (fld n 0 8))
  else if n / 2 ^ 31 % 2 = 0 ∧ n % 33554432 = 16777216 then some (.hintYield)
  else none

/-- The row of the opcode table whose bits `n` carries, if any (R501). -/
def rowOf (n : Nat) : Option Instr :=
  match n / 33554432 % 64 with
  | 0 => rowsOf00 n
  | 1 => rowsOf01 n
  | 2 => rowsOf02 n
  | 3 => rowsOf03 n
  | 4 => rowsOf04 n
  | 5 => rowsOf05 n
  | 6 => rowsOf06 n
  | 7 => rowsOf07 n
  | 8 => rowsOf08 n
  | 9 => rowsOf09 n
  | 10 => rowsOf0A n
  | 11 => rowsOf0B n
  | 12 => rowsOf0C n
  | 13 => rowsOf0D n
  | 14 => rowsOf0E n
  | 15 => rowsOf0F n
  | 16 => rowsOf10 n
  | 17 => rowsOf11 n
  | 18 => rowsOf12 n
  | 19 => rowsOf13 n
  | 20 => rowsOf14 n
  | 21 => rowsOf15 n
  | 22 => rowsOf16 n
  | 23 => rowsOf17 n
  | 24 => rowsOf18 n
  | 25 => rowsOf19 n
  | 26 => rowsOf1A n
  | 27 => rowsOf1B n
  | 28 => rowsOf1C n
  | 29 => rowsOf1D n
  | 30 => rowsOf1E n
  | 31 => rowsOf1F n
  | 32 => rowsOf20 n
  | 33 => rowsOf21 n
  | 34 => rowsOf22 n
  | 35 => rowsOf23 n
  | 36 => rowsOf24 n
  | 37 => rowsOf25 n
  | 38 => rowsOf26 n
  | 39 => rowsOf27 n
  | 40 => rowsOf28 n
  | 62 => rowsOf3E n
  | 63 => rowsOf3F n
  | _ => none

/-- The word of an instruction as a number, written from the encoding tables of the spec; an event has none. -/
def encodeNat : Instr → Nat
  | .nop z => 0 + z.toNat * 2147483648
  | .exit z => 8 + z.toNat * 2147483648
  | .trap z n => 16 + z.toNat * 2147483648 + n.toNat
  | .tret z => 24 + z.toNat * 2147483648
  | .tabort z => 32 + z.toNat * 2147483648
  | .brk z => 40 + z.toNat * 2147483648
  | .getc z d c => 33554432 + z.toNat * 2147483648 + d.toNat * 524288 + c.toNat * 8192
  | .getcF z d a => 33554433 + z.toNat * 2147483648 + d.toNat * 524288 + a.toNat * 8192
  | .setc z c b => 33554440 + z.toNat * 2147483648 + c.toNat * 8192 + b.toNat * 128
  | .setcF z a b => 33554441 + z.toNat * 2147483648 + a.toNat * 8192 + b.toNat * 128
  | .setfmt z b => 33554448 + z.toNat * 2147483648 + b.toNat * 128
  | .setfmtM z a b => 33554449 + z.toNat * 2147483648 + a.toNat * 8192 + b.toNat * 128
  | .setfmtI z => 33554450 + z.toNat * 2147483648
  | .widf z d f => 33554456 + z.toNat * 2147483648 + d.toNat * 524288 + f.toNat
  | .widfAll z d => 33554462 + z.toNat * 2147483648 + d.toNat * 524288
  | .capq z d a => 33554464 + z.toNat * 2147483648 + d.toNat * 524288 + a.toNat * 8192
  | .now z d => 33554472 + z.toNat * 2147483648 + d.toNat * 524288
  | .b z o => 67108864 + z.toNat * 2147483648 + o.toNat
  | .bal z o => 69206016 + z.toNat * 2147483648 + o.toNat
  | .bcAny z k o => 71303168 + z.toNat * 2147483648 + k.toNat * 262144 + o.toNat
  | .bcNone z k o => 73400320 + z.toNat * 2147483648 + k.toNat * 262144 + o.toNat
  | .bcAll z k o => 75497472 + z.toNat * 2147483648 + k.toNat * 262144 + o.toNat
  | .bcNall z k o => 77594624 + z.toNat * 2147483648 + k.toNat * 262144 + o.toNat
  | .bcEq z r o => 79691776 + z.toNat * 2147483648 + r.toNat * 4096 + o.toNat
  | .bcNe z r o => 81788928 + z.toNat * 2147483648 + r.toNat * 4096 + o.toNat
  | .bcLt z r o => 83886080 + z.toNat * 2147483648 + r.toNat * 4096 + o.toNat
  | .bcGe z r o => 85983232 + z.toNat * 2147483648 + r.toNat * 4096 + o.toNat
  | .bcGt z r o => 88080384 + z.toNat * 2147483648 + r.toNat * 4096 + o.toNat
  | .bcLe z r o => 90177536 + z.toNat * 2147483648 + r.toNat * 4096 + o.toNat
  | .jr z r => 96468992 + z.toNat * 2147483648 + r.toNat * 4096
  | .jalr z r => 98566144 + z.toNat * 2147483648 + r.toNat * 4096
  | .vif z k o => 100663296 + z.toNat * 2147483648 + k.toNat * 262144 + o.toNat
  | .velse z o => 102760448 + z.toNat * 2147483648 + o.toNat
  | .vendif z => 104857600 + z.toNat * 2147483648
  | .vdo z k o => 106954752 + z.toNat * 2147483648 + k.toNat * 262144 + o.toNat
  | .vwhile z k => 109051904 + z.toNat * 2147483648 + k.toNat * 262144
  | .vbrk z k => 111149056 + z.toNat * 2147483648 + k.toNat * 262144
  | .vany z k d => 113246208 + z.toNat * 2147483648 + k.toNat * 262144 + d.toNat * 4096
  | .vall z k d => 115343360 + z.toNat * 2147483648 + k.toNat * 262144 + d.toNat * 4096
  | .sadd z d a b i => 134217728 + z.toNat * 2147483648 + d.toNat * 524288 + a.toNat * 8192 + b.toNat * 128 + i.toNat * 64
  | .ssub z d a b i => 134217729 + z.toNat * 2147483648 + d.toNat * 524288 + a.toNat * 8192 + b.toNat * 128 + i.toNat * 64
  | .sand z d a b i => 134217730 + z.toNat * 2147483648 + d.toNat * 524288 + a.toNat * 8192 + b.toNat * 128 + i.toNat * 64
  | .sor z d a b i => 134217731 + z.toNat * 2147483648 + d.toNat * 524288 + a.toNat * 8192 + b.toNat * 128 + i.toNat * 64
  | .sxor z d a b i => 134217732 + z.toNat * 2147483648 + d.toNat * 524288 + a.toNat * 8192 + b.toNat * 128 + i.toNat * 64
  | .sandn z d a b i => 134217733 + z.toNat * 2147483648 + d.toNat * 524288 + a.toNat * 8192 + b.toNat * 128 + i.toNat * 64
  | .sshl z d a b i => 134217734 + z.toNat * 2147483648 + d.toNat * 524288 + a.toNat * 8192 + b.toNat * 128 + i.toNat * 64
  | .sshr z d a b i => 134217735 + z.toNat * 2147483648 + d.toNat * 524288 + a.toNat * 8192 + b.toNat * 128 + i.toNat * 64
  | .ssra z d a b i => 134217736 + z.toNat * 2147483648 + d.toNat * 524288 + a.toNat * 8192 + b.toNat * 128 + i.toNat * 64
  | .sseq z d a b i => 134217737 + z.toNat * 2147483648 + d.toNat * 524288 + a.toNat * 8192 + b.toNat * 128 + i.toNat * 64
  | .ssne z d a b i => 134217738 + z.toNat * 2147483648 + d.toNat * 524288 + a.toNat * 8192 + b.toNat * 128 + i.toNat * 64
  | .sslt z d a b i => 134217739 + z.toNat * 2147483648 + d.toNat * 524288 + a.toNat * 8192 + b.toNat * 128 + i.toNat * 64
  | .ssltu z d a b i => 134217740 + z.toNat * 2147483648 + d.toNat * 524288 + a.toNat * 8192 + b.toNat * 128 + i.toNat * 64
  | .ssle z d a b i => 134217741 + z.toNat * 2147483648 + d.toNat * 524288 + a.toNat * 8192 + b.toNat * 128 + i.toNat * 64
  | .ssleu z d a b i => 134217742 + z.toNat * 2147483648 + d.toNat * 524288 + a.toNat * 8192 + b.toNat * 128 + i.toNat * 64
  | .smin z d a b i => 134217743 + z.toNat * 2147483648 + d.toNat * 524288 + a.toNat * 8192 + b.toNat * 128 + i.toNat * 64
  | .smax z d a b i => 134217744 + z.toNat * 2147483648 + d.toNat * 524288 + a.toNat * 8192 + b.toNat * 128 + i.toNat * 64
  | .saddi z d a i => 167772160 + z.toNat * 2147483648 + d.toNat * 524288 + a.toNat * 8192 + i.toNat
  | .smul z d a b i => 201326592 + z.toNat * 2147483648 + d.toNat * 524288 + a.toNat * 8192 + b.toNat * 128 + i.toNat * 64
  | .smulh z d a b i => 201326593 + z.toNat * 2147483648 + d.toNat * 524288 + a.toNat * 8192 + b.toNat * 128 + i.toNat * 64
  | .smulhu z d a b i => 201326594 + z.toNat * 2147483648 + d.toNat * 524288 + a.toNat * 8192 + b.toNat * 128 + i.toNat * 64
  | .sdiv z d a b i => 201326595 + z.toNat * 2147483648 + d.toNat * 524288 + a.toNat * 8192 + b.toNat * 128 + i.toNat * 64
  | .sdivu z d a b i => 201326596 + z.toNat * 2147483648 + d.toNat * 524288 + a.toNat * 8192 + b.toNat * 128 + i.toNat * 64
  | .srem z d a b i => 201326597 + z.toNat * 2147483648 + d.toNat * 524288 + a.toNat * 8192 + b.toNat * 128 + i.toNat * 64
  | .sremu z d a b i => 201326598 + z.toNat * 2147483648 + d.toNat * 524288 + a.toNat * 8192 + b.toNat * 128 + i.toNat * 64
  | .sclz z d a => 234881024 + z.toNat * 2147483648 + d.toNat * 524288 + a.toNat * 8192
  | .sctz z d a => 234881025 + z.toNat * 2147483648 + d.toNat * 524288 + a.toNat * 8192
  | .spopc z d a => 234881026 + z.toNat * 2147483648 + d.toNat * 524288 + a.toNat * 8192
  | .sbrev z d a => 234881027 + z.toNat * 2147483648 + d.toNat * 524288 + a.toNat * 8192
  | .sbswap z d a => 234881028 + z.toNat * 2147483648 + d.toNat * 524288 + a.toNat * 8192
  | .srotl z d a b i => 234881029 + z.toNat * 2147483648 + d.toNat * 524288 + a.toNat * 8192 + b.toNat * 128 + i.toNat * 64
  | .srotr z d a b i => 234881030 + z.toNat * 2147483648 + d.toNat * 524288 + a.toNat * 8192 + b.toNat * 128 + i.toNat * 64
  | .vadd z d a b t => 268435456 + z.toNat * 2147483648 + d.toNat * 524288 + a.toNat * 8192 + b.toNat * 128 + t.toNat
  | .vsub z d a b t => 268435464 + z.toNat * 2147483648 + d.toNat * 524288 + a.toNat * 8192 + b.toNat * 128 + t.toNat
  | .vadds z d a b t => 268435472 + z.toNat * 2147483648 + d.toNat * 524288 + a.toNat * 8192 + b.toNat * 128 + t.toNat
  | .vsubs z d a b t => 268435480 + z.toNat * 2147483648 + d.toNat * 524288 + a.toNat * 8192 + b.toNat * 128 + t.toNat
  | .vmin z d a b t => 268435488 + z.toNat * 2147483648 + d.toNat * 524288 + a.toNat * 8192 + b.toNat * 128 + t.toNat
  | .vmax z d a b t => 268435496 + z.toNat * 2147483648 + d.toNat * 524288 + a.toNat * 8192 + b.toNat * 128 + t.toNat
  | .vabs z d a t => 268435504 + z.toNat * 2147483648 + d.toNat * 524288 + a.toNat * 8192 + t.toNat
  | .vneg z d a t => 268435512 + z.toNat * 2147483648 + d.toNat * 524288 + a.toNat * 8192 + t.toNat
  | .vsll z d a b t => 268435520 + z.toNat * 2147483648 + d.toNat * 524288 + a.toNat * 8192 + b.toNat * 128 + t.toNat
  | .vsrl z d a b t => 268435528 + z.toNat * 2147483648 + d.toNat * 524288 + a.toNat * 8192 + b.toNat * 128 + t.toNat
  | .vsra z d a b t => 268435536 + z.toNat * 2147483648 + d.toNat * 524288 + a.toNat * 8192 + b.toNat * 128 + t.toNat
  | .vcmpeq z d a b t => 268435544 + z.toNat * 2147483648 + d.toNat * 524288 + a.toNat * 8192 + b.toNat * 128 + t.toNat
  | .vcmplt z d a b t => 268435552 + z.toNat * 2147483648 + d.toNat * 524288 + a.toNat * 8192 + b.toNat * 128 + t.toNat
  | .vcmple z d a b t => 268435560 + z.toNat * 2147483648 + d.toNat * 524288 + a.toNat * 8192 + b.toNat * 128 + t.toNat
  | .vaddi z d a i t => 301989888 + z.toNat * 2147483648 + d.toNat * 524288 + a.toNat * 8192 + i.toNat * 8 + t.toNat
  | .vmul z d a b t => 335544320 + z.toNat * 2147483648 + d.toNat * 524288 + a.toNat * 8192 + b.toNat * 128 + t.toNat
  | .vmulh z d a b t => 335544328 + z.toNat * 2147483648 + d.toNat * 524288 + a.toNat * 8192 + b.toNat * 128 + t.toNat
  | .vmadd z d a b t => 335544336 + z.toNat * 2147483648 + d.toNat * 524288 + a.toNat * 8192 + b.toNat * 128 + t.toNat
  | .vdot4 z d a b t => 335544344 + z.toNat * 2147483648 + d.toNat * 524288 + a.toNat * 8192 + b.toNat * 128 + t.toNat
  | .vwmul z d a b t => 335544352 + z.toNat * 2147483648 + d.toNat * 524288 + a.toNat * 8192 + b.toNat * 128 + t.toNat
  | .vand z d a b t => 369098752 + z.toNat * 2147483648 + d.toNat * 524288 + a.toNat * 8192 + b.toNat * 128 + t.toNat
  | .vor z d a b t => 369098760 + z.toNat * 2147483648 + d.toNat * 524288 + a.toNat * 8192 + b.toNat * 128 + t.toNat
  | .vxor z d a b t => 369098768 + z.toNat * 2147483648 + d.toNat * 524288 + a.toNat * 8192 + b.toNat * 128 + t.toNat
  | .vnot z d a t => 369098776 + z.toNat * 2147483648 + d.toNat * 524288 + a.toNat * 8192 + t.toNat
  | .vpopc z d a t => 369098784 + z.toNat * 2147483648 + d.toNat * 524288 + a.toNat * 8192 + t.toNat
  | .vfadd z d a b t => 402653184 + z.toNat * 2147483648 + d.toNat * 524288 + a.toNat * 8192 + b.toNat * 128 + t.toNat
  | .vfsub z d a b t => 402653192 + z.toNat * 2147483648 + d.toNat * 524288 + a.toNat * 8192 + b.toNat * 128 + t.toNat
  | .vfmin z d a b t => 402653200 + z.toNat * 2147483648 + d.toNat * 524288 + a.toNat * 8192 + b.toNat * 128 + t.toNat
  | .vfmax z d a b t => 402653208 + z.toNat * 2147483648 + d.toNat * 524288 + a.toNat * 8192 + b.toNat * 128 + t.toNat
  | .vfabs z d a t => 402653216 + z.toNat * 2147483648 + d.toNat * 524288 + a.toNat * 8192 + t.toNat
  | .vfneg z d a t => 402653224 + z.toNat * 2147483648 + d.toNat * 524288 + a.toNat * 8192 + t.toNat
  | .vfsgn z d a b t => 402653232 + z.toNat * 2147483648 + d.toNat * 524288 + a.toNat * 8192 + b.toNat * 128 + t.toNat
  | .vfmul z d a b t => 436207616 + z.toNat * 2147483648 + d.toNat * 524288 + a.toNat * 8192 + b.toNat * 128 + t.toNat
  | .vfma z d a b t => 436207624 + z.toNat * 2147483648 + d.toNat * 524288 + a.toNat * 8192 + b.toNat * 128 + t.toNat
  | .vfms z d a b t => 436207632 + z.toNat * 2147483648 + d.toNat * 524288 + a.toNat * 8192 + b.toNat * 128 + t.toNat
  | .vfnma z d a b t => 436207640 + z.toNat * 2147483648 + d.toNat * 524288 + a.toNat * 8192 + b.toNat * 128 + t.toNat
  | .vfdiv z d a b t => 436207648 + z.toNat * 2147483648 + d.toNat * 524288 + a.toNat * 8192 + b.toNat * 128 + t.toNat
  | .vfsqrt z d a t => 436207656 + z.toNat * 2147483648 + d.toNat * 524288 + a.toNat * 8192 + t.toNat
  | .vfcmpEq z d a b t => 469762048 + z.toNat * 2147483648 + d.toNat * 524288 + a.toNat * 8192 + b.toNat * 128 + t.toNat
  | .vfcmpNe z d a b t => 469762056 + z.toNat * 2147483648 + d.toNat * 524288 + a.toNat * 8192 + b.toNat * 128 + t.toNat
  | .vfcmpLt z d a b t => 469762064 + z.toNat * 2147483648 + d.toNat * 524288 + a.toNat * 8192 + b.toNat * 128 + t.toNat
  | .vfcmpLe z d a b t => 469762072 + z.toNat * 2147483648 + d.toNat * 524288 + a.toNat * 8192 + b.toNat * 128 + t.toNat
  | .vfcmpGt z d a b t => 469762080 + z.toNat * 2147483648 + d.toNat * 524288 + a.toNat * 8192 + b.toNat * 128 + t.toNat
  | .vfcmpGe z d a b t => 469762088 + z.toNat * 2147483648 + d.toNat * 524288 + a.toNat * 8192 + b.toNat * 128 + t.toNat
  | .vfcmpOrd z d a b t => 469762096 + z.toNat * 2147483648 + d.toNat * 524288 + a.toNat * 8192 + b.toNat * 128 + t.toNat
  | .vfcmpUno z d a b t => 469762104 + z.toNat * 2147483648 + d.toNat * 524288 + a.toNat * 8192 + b.toNat * 128 + t.toNat
  | .vfclass z d a t => 469762112 + z.toNat * 2147483648 + d.toNat * 524288 + a.toNat * 8192 + t.toNat
  | .vcvt z d a p c t => 503316480 + z.toNat * 2147483648 + d.toNat * 524288 + a.toNat * 8192 + p.toNat * 1024 + c.toNat * 128 + t.toNat
  | .vcvti z d a r p c t => 503316488 + z.toNat * 2147483648 + d.toNat * 524288 + a.toNat * 8192 + r.toNat * 4096 + p.toNat * 1024 + c.toNat * 128 + t.toNat
  | .vpack z d a b t => 503316496 + z.toNat * 2147483648 + d.toNat * 524288 + a.toNat * 8192 + b.toNat * 128 + t.toNat
  | .vunpack z d a h t => 503316504 + z.toNat * 2147483648 + d.toNat * 524288 + a.toNat * 8192 + h.toNat * 128 + t.toNat
  | .vscale z d a b t => 503316512 + z.toNat * 2147483648 + d.toNat * 524288 + a.toNat * 8192 + b.toNat * 128 + t.toNat
  | .vrcp z d a t => 536870912 + z.toNat * 2147483648 + d.toNat * 524288 + a.toNat * 8192 + t.toNat
  | .vrsqrt z d a t => 536870920 + z.toNat * 2147483648 + d.toNat * 524288 + a.toNat * 8192 + t.toNat
  | .vexp2 z d a t => 536870928 + z.toNat * 2147483648 + d.toNat * 524288 + a.toNat * 8192 + t.toNat
  | .vlog2 z d a t => 536870936 + z.toNat * 2147483648 + d.toNat * 524288 + a.toNat * 8192 + t.toNat
  | .vsin z d a t => 536870944 + z.toNat * 2147483648 + d.toNat * 524288 + a.toNat * 8192 + t.toNat
  | .vcos z d a t => 536870952 + z.toNat * 2147483648 + d.toNat * 524288 + a.toNat * 8192 + t.toNat
  | .vtanh z d a t => 536870960 + z.toNat * 2147483648 + d.toNat * 524288 + a.toNat * 8192 + t.toNat
  | .vshfl z d a b t => 570425344 + z.toNat * 2147483648 + d.toNat * 524288 + a.toNat * 8192 + b.toNat * 128 + t.toNat
  | .vbcast z d a b t => 570425352 + z.toNat * 2147483648 + d.toNat * 524288 + a.toNat * 8192 + b.toNat * 128 + t.toNat
  | .vscan z d a o e t => 570425360 + z.toNat * 2147483648 + d.toNat * 524288 + a.toNat * 8192 + o.toNat * 512 + e.toNat * 256 + t.toNat
  | .vred z d a o t => 570425368 + z.toNat * 2147483648 + d.toNat * 524288 + a.toNat * 8192 + o.toNat * 512 + t.toNat
  | .vcompress z d a => 570425376 + z.toNat * 2147483648 + d.toNat * 524288 + a.toNat * 8192
  | .vexpand z d a => 570425384 + z.toNat * 2147483648 + d.toNat * 524288 + a.toNat * 8192
  | .kand z d a b => 603979776 + z.toNat * 2147483648 + d.toNat * 524288 + a.toNat * 8192 + b.toNat * 128
  | .kor z d a b => 603979777 + z.toNat * 2147483648 + d.toNat * 524288 + a.toNat * 8192 + b.toNat * 128
  | .kxor z d a b => 603979778 + z.toNat * 2147483648 + d.toNat * 524288 + a.toNat * 8192 + b.toNat * 128
  | .knot z d a => 603979779 + z.toNat * 2147483648 + d.toNat * 524288 + a.toNat * 8192
  | .kandn z d a b => 603979780 + z.toNat * 2147483648 + d.toNat * 524288 + a.toNat * 8192 + b.toNat * 128
  | .kmov z d a => 603979781 + z.toNat * 2147483648 + d.toNat * 524288 + a.toNat * 8192
  | .kpop z d a => 603979782 + z.toNat * 2147483648 + d.toNat * 524288 + a.toNat * 8192
  | .kffs z d a => 603979783 + z.toNat * 2147483648 + d.toNat * 524288 + a.toNat * 8192
  | .vmov z d a => 637534208 + z.toNat * 2147483648 + d.toNat * 524288 + a.toNat * 8192
  | .vsplat z d a t => 637534216 + z.toNat * 2147483648 + d.toNat * 524288 + a.toNat * 8192 + t.toNat
  | .vext z d a b t => 637534224 + z.toNat * 2147483648 + d.toNat * 524288 + a.toNat * 8192 + b.toNat * 128 + t.toNat
  | .vins z d a b t => 637534232 + z.toNat * 2147483648 + d.toNat * 524288 + a.toNat * 8192 + b.toNat * 128 + t.toNat
  | .vsel z d a b k => 637534240 + z.toNat * 2147483648 + d.toNat * 524288 + a.toNat * 8192 + b.toNat * 128 + k.toNat
  | .kvec z d a => 637534248 + z.toNat * 2147483648 + d.toNat * 524288 + a.toNat * 8192
  | .veck z d a => 637534256 + z.toNat * 2147483648 + d.toNat * 524288 + a.toNat * 8192
  | .ld z d b p m t => 671088640 + z.toNat * 2147483648 + d.toNat * 524288 + b.toNat * 8192 + p.toNat * 128 + m.toNat * 16 + t.toNat
  | .pf z b p m t => 671088648 + z.toNat * 2147483648 + b.toNat * 8192 + p.toNat * 128 + m.toNat * 16 + t.toNat
  | .st z d b p m t => 704643072 + z.toNat * 2147483648 + d.toNat * 524288 + b.toNat * 8192 + p.toNat * 128 + m.toNat * 16 + t.toNat
  | .sld z d b p m t => 738197504 + z.toNat * 2147483648 + d.toNat * 524288 + b.toNat * 8192 + p.toNat * 128 + m.toNat * 16 + t.toNat
  | .sldFePeek z d b p m t => 738197512 + z.toNat * 2147483648 + d.toNat * 524288 + b.toNat * 8192 + p.toNat * 128 + m.toNat * 16 + t.toNat
  | .sldFeConsume z d b p m t => 738197576 + z.toNat * 2147483648 + d.toNat * 524288 + b.toNat * 8192 + p.toNat * 128 + m.toNat * 16 + t.toNat
  | .sst z d b p m t => 771751936 + z.toNat * 2147483648 + d.toNat * 524288 + b.toNat * 8192 + p.toNat * 128 + m.toNat * 16 + t.toNat
  | .sstFull z d b p m t => 771751944 + z.toNat * 2147483648 + d.toNat * 524288 + b.toNat * 8192 + p.toNat * 128 + m.toNat * 16 + t.toNat
  | .aadd z d b p t => 805306368 + z.toNat * 2147483648 + d.toNat * 524288 + b.toNat * 8192 + p.toNat * 128 + t.toNat * 16
  | .afadd z d b p t => 805306369 + z.toNat * 2147483648 + d.toNat * 524288 + b.toNat * 8192 + p.toNat * 128 + t.toNat * 16
  | .amin z d b p t => 805306370 + z.toNat * 2147483648 + d.toNat * 524288 + b.toNat * 8192 + p.toNat * 128 + t.toNat * 16
  | .amax z d b p t => 805306371 + z.toNat * 2147483648 + d.toNat * 524288 + b.toNat * 8192 + p.toNat * 128 + t.toNat * 16
  | .aand z d b p t => 805306372 + z.toNat * 2147483648 + d.toNat * 524288 + b.toNat * 8192 + p.toNat * 128 + t.toNat * 16
  | .aor z d b p t => 805306373 + z.toNat * 2147483648 + d.toNat * 524288 + b.toNat * 8192 + p.toNat * 128 + t.toNat * 16
  | .axor z d b p t => 805306374 + z.toNat * 2147483648 + d.toNat * 524288 + b.toNat * 8192 + p.toNat * 128 + t.toNat * 16
  | .axch z d b p t => 805306375 + z.toNat * 2147483648 + d.toNat * 524288 + b.toNat * 8192 + p.toNat * 128 + t.toNat * 16
  | .acas z d b p t => 805306376 + z.toNat * 2147483648 + d.toNat * 524288 + b.toNat * 8192 + p.toNat * 128 + t.toNat * 16
  | .ainc z d b p t => 805306377 + z.toNat * 2147483648 + d.toNat * 524288 + b.toNat * 8192 + p.toNat * 128 + t.toNat * 16
  | .saadd z d b p w m => 838860800 + z.toNat * 2147483648 + d.toNat * 524288 + b.toNat * 8192 + p.toNat * 128 + w.toNat * 64 + m.toNat * 16
  | .samin z d b p w m => 838860804 + z.toNat * 2147483648 + d.toNat * 524288 + b.toNat * 8192 + p.toNat * 128 + w.toNat * 64 + m.toNat * 16
  | .samax z d b p w m => 838860808 + z.toNat * 2147483648 + d.toNat * 524288 + b.toNat * 8192 + p.toNat * 128 + w.toNat * 64 + m.toNat * 16
  | .saxch z d b p w m => 838860812 + z.toNat * 2147483648 + d.toNat * 524288 + b.toNat * 8192 + p.toNat * 128 + w.toNat * 64 + m.toNat * 16
  | .fenceRel z x => 872415232 + z.toNat * 2147483648 + x.toNat
  | .fenceAcq z x => 872415240 + z.toNat * 2147483648 + x.toNat
  | .fenceAr z x => 872415248 + z.toNat * 2147483648 + x.toNat
  | .binit z a b => 905969664 + z.toNat * 2147483648 + a.toNat * 8192 + b.toNat * 128
  | .barr z d a b => 905969672 + z.toNat * 2147483648 + d.toNat * 524288 + a.toNat * 8192 + b.toNat * 128
  | .bexp z a b => 905969680 + z.toNat * 2147483648 + a.toNat * 8192 + b.toNat * 128
  | .bwait z a b v => 905969688 + z.toNat * 2147483648 + a.toNat * 8192 + b.toNat * 128 + v.toNat
  | .btry z d a b v => 905969696 + z.toNat * 2147483648 + d.toNat * 524288 + a.toNat * 8192 + b.toNat * 128 + v.toNat
  | .waitc z d b p c => 939524096 + z.toNat * 2147483648 + d.toNat * 524288 + b.toNat * 8192 + p.toNat * 128 + c.toNat * 16
  | .wmon z d b p c => 939524097 + z.toNat * 2147483648 + d.toNat * 524288 + b.toNat * 8192 + p.toNat * 128 + c.toNat * 16
  | .wtest z d => 939524098 + z.toNat * 2147483648 + d.toNat * 524288
  | .tmbegin z a b => 973078528 + z.toNat * 2147483648 + a.toNat * 8192 + b.toNat * 128
  | .tmend z => 973078536 + z.toNat * 2147483648
  | .tmabort z => 973078544 + z.toNat * 2147483648
  | .tmstat z d => 973078552 + z.toNat * 2147483648 + d.toNat * 524288
  | .salloc z d a b w k => 1006632960 + z.toNat * 2147483648 + d.toNat * 524288 + a.toNat * 8192 + b.toNat * 128 + w.toNat * 4 + k.toNat
  | .sfree z a => 1006632968 + z.toNat * 2147483648 + a.toNat * 8192
  | .smap z a b w k => 1006632976 + z.toNat * 2147483648 + a.toNat * 8192 + b.toNat * 128 + w.toNat * 4 + k.toNat
  | .sunmap z a => 1006632984 + z.toNat * 2147483648 + a.toNat * 8192
  | .sflush z a => 1006632992 + z.toNat * 2147483648 + a.toNat * 8192
  | .lds z d b p t => 1040187392 + z.toNat * 2147483648 + d.toNat * 524288 + b.toNat * 8192 + p.toNat * 128 + t.toNat
  | .sts z d b p t => 1040187400 + z.toNat * 2147483648 + d.toNat * 524288 + b.toNat * 8192 + p.toNat * 128 + t.toNat
  | .enqCopy z d a => 1073741824 + z.toNat * 2147483648 + d.toNat * 524288 + a.toNat * 8192
  | .enqMatw z d a => 1073741832 + z.toNat * 2147483648 + d.toNat * 524288 + a.toNat * 8192
  | .enqMata z d a => 1073741840 + z.toNat * 2147483648 + d.toNat * 524288 + a.toNat * 8192
  | .enqMdrain z d a => 1073741848 + z.toNat * 2147483648 + d.toNat * 524288 + a.toNat * 8192
  | .enqGather z d a => 1073741856 + z.toNat * 2147483648 + d.toNat * 524288 + a.toNat * 8192
  | .enqScat z d a => 1073741864 + z.toNat * 2147483648 + d.toNat * 524288 + a.toNat * 8192
  | .enqMerge z d a => 1073741872 + z.toNat * 2147483648 + d.toNat * 524288 + a.toNat * 8192
  | .enqKscan z d a => 1073741880 + z.toNat * 2147483648 + d.toNat * 524288 + a.toNat * 8192
  | .chain z a => 1107296256 + z.toNat * 2147483648 + a.toNat * 8192
  | .cstat z d a n c => 1107296264 + z.toNat * 2147483648 + d.toNat * 524288 + a.toNat * 8192 + n.toNat * 2 + c.toNat
  | .kvopen z d a => 1140850688 + z.toNat * 2147483648 + d.toNat * 524288 + a.toNat * 8192
  | .kvopenDs z d a => 1140850689 + z.toNat * 2147483648 + d.toNat * 524288 + a.toNat * 8192
  | .kvclose z a => 1140850696 + z.toNat * 2147483648 + a.toNat * 8192
  | .kvapp z d a b => 1140850704 + z.toNat * 2147483648 + d.toNat * 524288 + a.toNat * 8192 + b.toNat * 128
  | .kvtrunc z d a b => 1140850712 + z.toNat * 2147483648 + d.toNat * 524288 + a.toNat * 8192 + b.toNat * 128
  | .kvfork z d a b => 1140850720 + z.toNat * 2147483648 + d.toNat * 524288 + a.toNat * 8192 + b.toNat * 128
  | .kvlook z d a b => 1140850728 + z.toNat * 2147483648 + d.toNat * 524288 + a.toNat * 8192 + b.toNat * 128
  | .kvlookIns z d a b => 1140850729 + z.toNat * 2147483648 + d.toNat * 524288 + a.toNat * 8192 + b.toNat * 128
  | .kvallocGrow z d a b => 1140850736 + z.toNat * 2147483648 + d.toNat * 524288 + a.toNat * 8192 + b.toNat * 128
  | .kvallocGrant z d a b => 1140850737 + z.toNat * 2147483648 + d.toNat * 524288 + a.toNat * 8192 + b.toNat * 128
  | .kvallocRsv z d a b => 1140850738 + z.toNat * 2147483648 + d.toNat * 524288 + a.toNat * 8192 + b.toNat * 128
  | .kvallocDem z d a b => 1140850739 + z.toNat * 2147483648 + d.toNat * 524288 + a.toNat * 8192 + b.toNat * 128
  | .dsin z d a b => 1174405120 + z.toNat * 2147483648 + d.toNat * 524288 + a.toNat * 8192 + b.toNat * 128
  | .dsgen z d a b => 1174405128 + z.toNat * 2147483648 + d.toNat * 524288 + a.toNat * 8192 + b.toNat * 128
  | .dstrunc z d a b => 1174405136 + z.toNat * 2147483648 + d.toNat * 524288 + a.toNat * 8192 + b.toNat * 128
  | .dssnap z a b => 1174405144 + z.toNat * 2147483648 + a.toNat * 8192 + b.toNat * 128
  | .dsplay z a b => 1174405152 + z.toNat * 2147483648 + a.toNat * 8192 + b.toNat * 128
  | .launch z d a b => 1207959552 + z.toNat * 2147483648 + d.toNat * 524288 + a.toNat * 8192 + b.toNat * 128
  | .launchWait z d a => 1207959560 + z.toNat * 2147483648 + d.toNat * 524288 + a.toNat * 8192
  | .role z d a b => 1241513984 + z.toNat * 2147483648 + d.toNat * 524288 + a.toNat * 8192 + b.toNat * 128
  | .roleAsk z d a => 1241513992 + z.toNat * 2147483648 + d.toNat * 524288 + a.toNat * 8192
  | .qpush z a b => 1241514000 + z.toNat * 2147483648 + a.toNat * 8192 + b.toNat * 128
  | .qpop z d a b => 1241514008 + z.toNat * 2147483648 + d.toNat * 524288 + a.toNat * 8192 + b.toNat * 128
  | .qtry z d a b => 1241514016 + z.toNat * 2147483648 + d.toNat * 524288 + a.toNat * 8192 + b.toNat * 128
  | .mig z a => 1275068416 + z.toNat * 2147483648 + a.toNat * 8192
  | .migTrap z a => 1275068417 + z.toNat * 2147483648 + a.toNat * 8192
  | .mret z => 1275068424 + z.toNat * 2147483648
  | .mjoin z => 1275068432 + z.toNat * 2147483648
  | .mstat z d => 1275068440 + z.toNat * 2147483648 + d.toNat * 524288
  | .signalQ z a => 1308622848 + z.toNat * 2147483648 + a.toNat * 8192
  | .signalM z a => 1308622849 + z.toNat * 2147483648 + a.toNat * 8192
  | .msig z a => 1308622856 + z.toNat * 2147483648 + a.toNat * 8192
  | .pcmark z a => 1342177280 + z.toNat * 2147483648 + a.toNat * 8192
  | .pcsample z => 1342177288 + z.toNat * 2147483648
  | .pcread z d a => 1342177296 + z.toNat * 2147483648 + d.toNat * 524288 + a.toNat * 8192
  | .immWord i => 2080374784 + i.toNat
  | .modWord m z r n v f => 2113929216 + m.toNat * 1048576 + z.toNat * 524288 + r.toNat * 262144 + n.toNat * 32768 + v.toNat * 16384 + f.toNat * 256
  | .modxWord m z k o f p => 2122317824 + m.toNat * 1048576 + z.toNat * 524288 + k.toNat * 262144 + o.toNat * 65536 + f.toNat * 16384 + p.toNat
  | .hintStream n => 2134900736 + n.toNat
  | .hintYield => 2130706432
  | .deviceReset => 0
  | .bootStageComplete => 0
  | .flitTagFailure => 0
  | .freezeNPin => 0
  | .frzCtlWrite => 0
  | .freeze => 0
  | .frzDump => 0
  | .qGate => 0
  | .quarterUngateDone => 0
  | .pstate => 0
  | .vddCoreRampDone => 0
  | .thermalThrottle => 0
  | .frameBoundary => 0
  | .linkTraining => 0
  | .linkDown => 0
  | .surpriseRemoval => 0
  | .ideIntegrityFailure => 0
  | .uioRequestTimeout => 0
  | .dieUnreachableTimeout => 0
  | .shadowDiscardTimeout => 0
  | .viralIndicationReceived => 0
  | .uncorrectableError => 0
  | .viralTakesEffect => 0
  | .homeSliceTagParity => 0
  | .shadowEntryLost => 0
  | .partCfg => 0
  | .ctxAssign => 0
  | .ctxUnasg => 0
  | .partReset => 0
  | .viralSet => 0
  | .viralClr => 0
  | .keyGen => 0
  | .keyLoad => 0
  | .imgReg => 0
  | .imgInst => 0
  | .imgRm => 0
  | .tkeyReg => 0
  | .vecAsg => 0
  | .bifurc => 0
  | .poolMap => 0
  | .mKill => 0
  | .mRel => 0
  | .waysShr => 0
  | .partFree => 0
  | .vfReset => 0
  | .spdmMessage => 0
  | .tdiStateChange => 0
  | .lregWrite => 0
  | .cbaseWrite => 0
  | .registerWrite => 0
  | .apertureRead => 0
  | .apertureWrite => 0
  | .gownWrite => 0
  | .granuleScrubDone => 0
  | .tmvdWrite => 0
  | .tierMoveTa => 0
  | .tierMoveCopyStart => 0
  | .tierMoveCopyDone => 0
  | .tierMoveEnd => 0
  | .tictlWrite => 0
  | .invalidationTa => 0
  | .invalidationDrained => 0
  | .atsInvalidationRequest => 0
  | .atsInvalidationCompletion => 0
  | .atsTranslationCompletion => 0
  | .prgResponse => 0
  | .walkComplete => 0
  | .addCapacity => 0
  | .addCapacityComplete => 0
  | .releaseCapacity => 0
  | .releaseCapacityComplete => 0
  | .hostMemRequest => 0
  | .birsp => 0
  | .h2dSnoop => 0
  | .peerRequest => 0
  | .poolWriteLeave => 0
  | .poolWriteCompletion => 0
  | .epochDrainReport => 0
  | .cxlCompletion => 0
  | .launchAdmission => 0
  | .launchStart => 0
  | .placementGroupPlaced => 0
  | .commitSchedule => 0
  | .commitNotice => 0
  | .commitReportsIn => 0
  | .commitFlip => 0
  | .poolPrepare => 0
  | .prepareAcknowledged => 0
  | .prepareTimeout => 0
  | .poolCommitMessage => 0
  | .poolAbortMessage => 0
  | .outcomeQuery => 0
  | .heldHostWritesSend => 0
  | .completionRecordWrite => 0
  | .balancerInspection => 0
  | .postingLapse => 0
  | .throttleInterval => 0
  | .agingPromotion => 0
  | .turnEnd => 0
  | .quiescenceSave => 0
  | .teamEviction => 0
  | .wakeConditionMet => 0
  | .teamRestore => 0
  | .longResultWrite => 0
  | .trapFrameForm => 0
  | .lanePack => 0
  | .continuationArrival => 0
  | .continuationRefused => 0
  | .landingTimeout => 0
  | .landedTeamCreation => 0
  | .returnArrival => 0
  | .retireNotice => 0
  | .cardComplete => 0
  | .cardStart => 0
  | .cardLineTransfer => 0
  | .matrixRowIssue => 0
  | .monitorWake => 0
  | .waitcPoll => 0
  | .tmCommitResult => 0
  | .streamFrameTake => 0
  | .snapshotRestoreDone => 0
  | .pcSampleTimer => 0
  | .counterDeltaTimer => 0
  | .dbgctlHalt => 0
  | .debugHaltDone => 0
  | .dbgctlRes => 0
  | .dbgctlStep => 0
  | .stepComplete => 0
  | .dbgdataAccess => 0
  | .teamRetirement => 0
  | .throttleRelease => 0
  | .ideKmKeyProgramming => 0
  | .dcRegionConfiguration => 0
  | .tenantTagMapping => 0
  | .footprintTableArrival => 0
  | .writeCompletionReturn => 0
  | .releaseWaitEnd => 0

/-- Whether the instruction has a word: the event rows of the table have none. -/
def hasWord : Instr → Bool
  | .nop _ => true
  | .exit _ => true
  | .trap _ _ => true
  | .tret _ => true
  | .tabort _ => true
  | .brk _ => true
  | .getc _ _ _ => true
  | .getcF _ _ _ => true
  | .setc _ _ _ => true
  | .setcF _ _ _ => true
  | .setfmt _ _ => true
  | .setfmtM _ _ _ => true
  | .setfmtI _ => true
  | .widf _ _ _ => true
  | .widfAll _ _ => true
  | .capq _ _ _ => true
  | .now _ _ => true
  | .b _ _ => true
  | .bal _ _ => true
  | .bcAny _ _ _ => true
  | .bcNone _ _ _ => true
  | .bcAll _ _ _ => true
  | .bcNall _ _ _ => true
  | .bcEq _ _ _ => true
  | .bcNe _ _ _ => true
  | .bcLt _ _ _ => true
  | .bcGe _ _ _ => true
  | .bcGt _ _ _ => true
  | .bcLe _ _ _ => true
  | .jr _ _ => true
  | .jalr _ _ => true
  | .vif _ _ _ => true
  | .velse _ _ => true
  | .vendif _ => true
  | .vdo _ _ _ => true
  | .vwhile _ _ => true
  | .vbrk _ _ => true
  | .vany _ _ _ => true
  | .vall _ _ _ => true
  | .sadd _ _ _ _ _ => true
  | .ssub _ _ _ _ _ => true
  | .sand _ _ _ _ _ => true
  | .sor _ _ _ _ _ => true
  | .sxor _ _ _ _ _ => true
  | .sandn _ _ _ _ _ => true
  | .sshl _ _ _ _ _ => true
  | .sshr _ _ _ _ _ => true
  | .ssra _ _ _ _ _ => true
  | .sseq _ _ _ _ _ => true
  | .ssne _ _ _ _ _ => true
  | .sslt _ _ _ _ _ => true
  | .ssltu _ _ _ _ _ => true
  | .ssle _ _ _ _ _ => true
  | .ssleu _ _ _ _ _ => true
  | .smin _ _ _ _ _ => true
  | .smax _ _ _ _ _ => true
  | .saddi _ _ _ _ => true
  | .smul _ _ _ _ _ => true
  | .smulh _ _ _ _ _ => true
  | .smulhu _ _ _ _ _ => true
  | .sdiv _ _ _ _ _ => true
  | .sdivu _ _ _ _ _ => true
  | .srem _ _ _ _ _ => true
  | .sremu _ _ _ _ _ => true
  | .sclz _ _ _ => true
  | .sctz _ _ _ => true
  | .spopc _ _ _ => true
  | .sbrev _ _ _ => true
  | .sbswap _ _ _ => true
  | .srotl _ _ _ _ _ => true
  | .srotr _ _ _ _ _ => true
  | .vadd _ _ _ _ _ => true
  | .vsub _ _ _ _ _ => true
  | .vadds _ _ _ _ _ => true
  | .vsubs _ _ _ _ _ => true
  | .vmin _ _ _ _ _ => true
  | .vmax _ _ _ _ _ => true
  | .vabs _ _ _ _ => true
  | .vneg _ _ _ _ => true
  | .vsll _ _ _ _ _ => true
  | .vsrl _ _ _ _ _ => true
  | .vsra _ _ _ _ _ => true
  | .vcmpeq _ _ _ _ _ => true
  | .vcmplt _ _ _ _ _ => true
  | .vcmple _ _ _ _ _ => true
  | .vaddi _ _ _ _ _ => true
  | .vmul _ _ _ _ _ => true
  | .vmulh _ _ _ _ _ => true
  | .vmadd _ _ _ _ _ => true
  | .vdot4 _ _ _ _ _ => true
  | .vwmul _ _ _ _ _ => true
  | .vand _ _ _ _ _ => true
  | .vor _ _ _ _ _ => true
  | .vxor _ _ _ _ _ => true
  | .vnot _ _ _ _ => true
  | .vpopc _ _ _ _ => true
  | .vfadd _ _ _ _ _ => true
  | .vfsub _ _ _ _ _ => true
  | .vfmin _ _ _ _ _ => true
  | .vfmax _ _ _ _ _ => true
  | .vfabs _ _ _ _ => true
  | .vfneg _ _ _ _ => true
  | .vfsgn _ _ _ _ _ => true
  | .vfmul _ _ _ _ _ => true
  | .vfma _ _ _ _ _ => true
  | .vfms _ _ _ _ _ => true
  | .vfnma _ _ _ _ _ => true
  | .vfdiv _ _ _ _ _ => true
  | .vfsqrt _ _ _ _ => true
  | .vfcmpEq _ _ _ _ _ => true
  | .vfcmpNe _ _ _ _ _ => true
  | .vfcmpLt _ _ _ _ _ => true
  | .vfcmpLe _ _ _ _ _ => true
  | .vfcmpGt _ _ _ _ _ => true
  | .vfcmpGe _ _ _ _ _ => true
  | .vfcmpOrd _ _ _ _ _ => true
  | .vfcmpUno _ _ _ _ _ => true
  | .vfclass _ _ _ _ => true
  | .vcvt _ _ _ _ _ _ => true
  | .vcvti _ _ _ _ _ _ _ => true
  | .vpack _ _ _ _ _ => true
  | .vunpack _ _ _ _ _ => true
  | .vscale _ _ _ _ _ => true
  | .vrcp _ _ _ _ => true
  | .vrsqrt _ _ _ _ => true
  | .vexp2 _ _ _ _ => true
  | .vlog2 _ _ _ _ => true
  | .vsin _ _ _ _ => true
  | .vcos _ _ _ _ => true
  | .vtanh _ _ _ _ => true
  | .vshfl _ _ _ _ _ => true
  | .vbcast _ _ _ _ _ => true
  | .vscan _ _ _ _ _ _ => true
  | .vred _ _ _ _ _ => true
  | .vcompress _ _ _ => true
  | .vexpand _ _ _ => true
  | .kand _ _ _ _ => true
  | .kor _ _ _ _ => true
  | .kxor _ _ _ _ => true
  | .knot _ _ _ => true
  | .kandn _ _ _ _ => true
  | .kmov _ _ _ => true
  | .kpop _ _ _ => true
  | .kffs _ _ _ => true
  | .vmov _ _ _ => true
  | .vsplat _ _ _ _ => true
  | .vext _ _ _ _ _ => true
  | .vins _ _ _ _ _ => true
  | .vsel _ _ _ _ _ => true
  | .kvec _ _ _ => true
  | .veck _ _ _ => true
  | .ld _ _ _ _ _ _ => true
  | .pf _ _ _ _ _ => true
  | .st _ _ _ _ _ _ => true
  | .sld _ _ _ _ _ _ => true
  | .sldFePeek _ _ _ _ _ _ => true
  | .sldFeConsume _ _ _ _ _ _ => true
  | .sst _ _ _ _ _ _ => true
  | .sstFull _ _ _ _ _ _ => true
  | .aadd _ _ _ _ _ => true
  | .afadd _ _ _ _ _ => true
  | .amin _ _ _ _ _ => true
  | .amax _ _ _ _ _ => true
  | .aand _ _ _ _ _ => true
  | .aor _ _ _ _ _ => true
  | .axor _ _ _ _ _ => true
  | .axch _ _ _ _ _ => true
  | .acas _ _ _ _ _ => true
  | .ainc _ _ _ _ _ => true
  | .saadd _ _ _ _ _ _ => true
  | .samin _ _ _ _ _ _ => true
  | .samax _ _ _ _ _ _ => true
  | .saxch _ _ _ _ _ _ => true
  | .fenceRel _ _ => true
  | .fenceAcq _ _ => true
  | .fenceAr _ _ => true
  | .binit _ _ _ => true
  | .barr _ _ _ _ => true
  | .bexp _ _ _ => true
  | .bwait _ _ _ _ => true
  | .btry _ _ _ _ _ => true
  | .waitc _ _ _ _ _ => true
  | .wmon _ _ _ _ _ => true
  | .wtest _ _ => true
  | .tmbegin _ _ _ => true
  | .tmend _ => true
  | .tmabort _ => true
  | .tmstat _ _ => true
  | .salloc _ _ _ _ _ _ => true
  | .sfree _ _ => true
  | .smap _ _ _ _ _ => true
  | .sunmap _ _ => true
  | .sflush _ _ => true
  | .lds _ _ _ _ _ => true
  | .sts _ _ _ _ _ => true
  | .enqCopy _ _ _ => true
  | .enqMatw _ _ _ => true
  | .enqMata _ _ _ => true
  | .enqMdrain _ _ _ => true
  | .enqGather _ _ _ => true
  | .enqScat _ _ _ => true
  | .enqMerge _ _ _ => true
  | .enqKscan _ _ _ => true
  | .chain _ _ => true
  | .cstat _ _ _ _ _ => true
  | .kvopen _ _ _ => true
  | .kvopenDs _ _ _ => true
  | .kvclose _ _ => true
  | .kvapp _ _ _ _ => true
  | .kvtrunc _ _ _ _ => true
  | .kvfork _ _ _ _ => true
  | .kvlook _ _ _ _ => true
  | .kvlookIns _ _ _ _ => true
  | .kvallocGrow _ _ _ _ => true
  | .kvallocGrant _ _ _ _ => true
  | .kvallocRsv _ _ _ _ => true
  | .kvallocDem _ _ _ _ => true
  | .dsin _ _ _ _ => true
  | .dsgen _ _ _ _ => true
  | .dstrunc _ _ _ _ => true
  | .dssnap _ _ _ => true
  | .dsplay _ _ _ => true
  | .launch _ _ _ _ => true
  | .launchWait _ _ _ => true
  | .role _ _ _ _ => true
  | .roleAsk _ _ _ => true
  | .qpush _ _ _ => true
  | .qpop _ _ _ _ => true
  | .qtry _ _ _ _ => true
  | .mig _ _ => true
  | .migTrap _ _ => true
  | .mret _ => true
  | .mjoin _ => true
  | .mstat _ _ => true
  | .signalQ _ _ => true
  | .signalM _ _ => true
  | .msig _ _ => true
  | .pcmark _ _ => true
  | .pcsample _ => true
  | .pcread _ _ _ => true
  | .immWord _ => true
  | .modWord _ _ _ _ _ _ => true
  | .modxWord _ _ _ _ _ _ => true
  | .hintStream _ => true
  | .hintYield => true
  | .deviceReset => false
  | .bootStageComplete => false
  | .flitTagFailure => false
  | .freezeNPin => false
  | .frzCtlWrite => false
  | .freeze => false
  | .frzDump => false
  | .qGate => false
  | .quarterUngateDone => false
  | .pstate => false
  | .vddCoreRampDone => false
  | .thermalThrottle => false
  | .frameBoundary => false
  | .linkTraining => false
  | .linkDown => false
  | .surpriseRemoval => false
  | .ideIntegrityFailure => false
  | .uioRequestTimeout => false
  | .dieUnreachableTimeout => false
  | .shadowDiscardTimeout => false
  | .viralIndicationReceived => false
  | .uncorrectableError => false
  | .viralTakesEffect => false
  | .homeSliceTagParity => false
  | .shadowEntryLost => false
  | .partCfg => false
  | .ctxAssign => false
  | .ctxUnasg => false
  | .partReset => false
  | .viralSet => false
  | .viralClr => false
  | .keyGen => false
  | .keyLoad => false
  | .imgReg => false
  | .imgInst => false
  | .imgRm => false
  | .tkeyReg => false
  | .vecAsg => false
  | .bifurc => false
  | .poolMap => false
  | .mKill => false
  | .mRel => false
  | .waysShr => false
  | .partFree => false
  | .vfReset => false
  | .spdmMessage => false
  | .tdiStateChange => false
  | .lregWrite => false
  | .cbaseWrite => false
  | .registerWrite => false
  | .apertureRead => false
  | .apertureWrite => false
  | .gownWrite => false
  | .granuleScrubDone => false
  | .tmvdWrite => false
  | .tierMoveTa => false
  | .tierMoveCopyStart => false
  | .tierMoveCopyDone => false
  | .tierMoveEnd => false
  | .tictlWrite => false
  | .invalidationTa => false
  | .invalidationDrained => false
  | .atsInvalidationRequest => false
  | .atsInvalidationCompletion => false
  | .atsTranslationCompletion => false
  | .prgResponse => false
  | .walkComplete => false
  | .addCapacity => false
  | .addCapacityComplete => false
  | .releaseCapacity => false
  | .releaseCapacityComplete => false
  | .hostMemRequest => false
  | .birsp => false
  | .h2dSnoop => false
  | .peerRequest => false
  | .poolWriteLeave => false
  | .poolWriteCompletion => false
  | .epochDrainReport => false
  | .cxlCompletion => false
  | .launchAdmission => false
  | .launchStart => false
  | .placementGroupPlaced => false
  | .commitSchedule => false
  | .commitNotice => false
  | .commitReportsIn => false
  | .commitFlip => false
  | .poolPrepare => false
  | .prepareAcknowledged => false
  | .prepareTimeout => false
  | .poolCommitMessage => false
  | .poolAbortMessage => false
  | .outcomeQuery => false
  | .heldHostWritesSend => false
  | .completionRecordWrite => false
  | .balancerInspection => false
  | .postingLapse => false
  | .throttleInterval => false
  | .agingPromotion => false
  | .turnEnd => false
  | .quiescenceSave => false
  | .teamEviction => false
  | .wakeConditionMet => false
  | .teamRestore => false
  | .longResultWrite => false
  | .trapFrameForm => false
  | .lanePack => false
  | .continuationArrival => false
  | .continuationRefused => false
  | .landingTimeout => false
  | .landedTeamCreation => false
  | .returnArrival => false
  | .retireNotice => false
  | .cardComplete => false
  | .cardStart => false
  | .cardLineTransfer => false
  | .matrixRowIssue => false
  | .monitorWake => false
  | .waitcPoll => false
  | .tmCommitResult => false
  | .streamFrameTake => false
  | .snapshotRestoreDone => false
  | .pcSampleTimer => false
  | .counterDeltaTimer => false
  | .dbgctlHalt => false
  | .debugHaltDone => false
  | .dbgctlRes => false
  | .dbgctlStep => false
  | .stepComplete => false
  | .dbgdataAccess => false
  | .teamRetirement => false
  | .throttleRelease => false
  | .ideKmKeyProgramming => false
  | .dcRegionConfiguration => false
  | .tenantTagMapping => false
  | .footprintTableArrival => false
  | .writeCompletionReturn => false
  | .releaseWaitEnd => false

/-- R500: majors 0x29 to 0x3D are unassigned. -/
def majorOk (n : Nat) : Bool :=
  let m := n / 33554432 % 64
  m < 0x29 || 0x3D < m

/-- R498 step 3: the minor of an assigned major is assigned (R501); the address modes that raise 0x01 count here. -/
def minorOk (n : Nat) : Bool :=
  let fn4 := n / 8 % 16
  let fn6 := n % 64
  let cond := n / 2097152 % 16
  match n / 33554432 % 64 with
  | 0x00 | 0x01 => fn4 < 6
  | 0x02 => cond ≠ 12 && cond ≠ 13
  | 0x03 => cond < 8
  | 0x04 => fn6 < 17
  | 0x06 | 0x07 => fn6 < 7
  | 0x08 => fn4 < 14
  | 0x0A | 0x0B | 0x0F => fn4 < 5
  | 0x0C => fn4 < 7
  | 0x0D | 0x11 => fn4 < 6
  | 0x0E => fn4 < 9
  | 0x10 | 0x13 => fn4 < 7
  | 0x12 => fn6 < 8
  | 0x14 => n / 16 % 8 < 3
  | 0x15 => n / 8 % 2 = 0 && n / 16 % 8 < 3
  | 0x16 | 0x17 | 0x19 => n / 16 % 4 < 3
  | 0x18 => n % 16 < 10
  | 0x1A => fn4 < 3
  | 0x1B => fn4 < 5
  | 0x1C => n % 16 < 3
  | 0x1D => fn4 < 4
  | 0x1E => fn4 < 5
  | 0x1F => n / 16 % 8 = 0
  | 0x20 => fn4 < 8
  | 0x21 => fn4 < 2
  | 0x22 => fn4 < 7
  | 0x23 => fn4 < 5
  | 0x24 => fn4 < 2
  | 0x25 => fn4 < 5
  | 0x26 => fn4 < 4
  | 0x27 => fn4 < 2
  | 0x28 => fn4 < 3
  | 0x3F => n / 8388608 % 4 ≠ 3
  | _ => true

/-- R488, R498 step 5, for a word that no row of the table takes: its type field is still checked before its
must-be-zero fields. -/
def typeOkWord (n : Nat) : Bool :=
  let t := n % 8
  let fn4 := n / 8 % 16
  match n / 33554432 % 64 with
  | 0x0C | 0x0D | 0x0E => t < 5
  | 0x0F => if fn4 = 0 then t < 5 && n / 128 % 8 < 5 else if fn4 = 2 || fn4 = 3 then decide (1 ≤ t ∧ t < 5) else t < 5
  | 0x10 => decide (1 ≤ t ∧ t < 4)
  | 0x11 =>
    if fn4 = 2 || fn4 = 3 then decide (n / 512 % 16 < 6 ∨ 8 < n / 512 % 16 ∨ t < 5) else true
  | 0x13 => if fn4 = 0 || fn4 = 5 || fn4 = 6 then t = 0 else true
  | _ => true

/-- R498: the instruction whose word is `n`, or the first check of the word alone that fails. -/
def decodeWord (n : Nat) : Except DecodeErr Instr :=
  if !majorOk n then .error .major
  else if !minorOk n then .error .minor
  else match rowOf n with
    | some i =>
      if !typeOk i then .error .type
      else if !fieldsOk i then .error .mustBeZero
      else .ok i
    | none => if !typeOkWord n then .error .type else .error .mustBeZero

/-- The word that four bytes make, the byte at the lowest address least significant (R4, R478). -/
def wordOfBytes (b0 b1 b2 b3 : Byte) : Nat :=
  b0.toNat + b1.toNat * 256 + b2.toNat * 65536 + b3.toNat * 16777216

/-- Decode the instruction at the head of a byte string; the rest of the string follows it. -/
def decode : List Byte → Except DecodeErr (Instr × List Byte)
  | b0 :: b1 :: b2 :: b3 :: rest =>
    match decodeWord (wordOfBytes b0 b1 b2 b3) with
    | .ok i => .ok (i, rest)
    | .error e => .error e
  | _ => .error .short

/-- The four bytes of a word, lowest address first (R4). -/
def bytesOfWord (n : Nat) : List Byte :=
  [BitVec.ofNat 8 n, BitVec.ofNat 8 (n / 256), BitVec.ofNat 8 (n / 65536), BitVec.ofNat 8 (n / 16777216)]

/-- The bytes of a well-formed instruction: one word, or none for an event. -/
def encode (i : Instr) : List Byte := if hasWord i then bytesOfWord (encodeNat i) else []

/-- The instruction the decoder reads from an instruction whose bits are `w`, as the opcode table numbers them:
every Ronaund instruction is one word of 32 bits. -/
def decodeTableWord (nbits w : Nat) : Option Instr :=
  if nbits = 0 then none
  else match decode (bytesOfWord (w % 2 ^ 32)) with
    | .ok (i, _) => some i
    | .error _ => none

end Sys2Proof
end

