-- ==== Sys2Proof/Machine/Bits.lean ====
section
/-! DEFINITION. Bit fields, extension, lines and byte order (R4, R5). -/

namespace Sys2Proof.Machine

/-- Bits [hi:lo] of a number. -/
def bits (n hi lo : Nat) : Nat := n / 2 ^ lo % 2 ^ (hi + 1 - lo)
/-- Bit i of a number. -/
def bit (n i : Nat) : Bool := n / 2 ^ i % 2 = 1
/-- 0 or 1. -/
def b2n (b : Bool) : Nat := if b then 1 else 0
/-- A number read as `w`-bit two's complement. -/
def sext (w n : Nat) : Int := if n % 2 ^ w < 2 ^ (w - 1) then (n % 2 ^ w : Nat) else ((n % 2 ^ w : Nat) : Int) - (2 ^ w : Nat)
/-- An integer modulo 2^w. -/
def wrap (w : Nat) (i : Int) : Nat := (i % (2 ^ w : Nat)).toNat
/-- A 64-bit word of an integer. -/
def wordOf (i : Int) : Word := BitVec.ofInt 64 i
/-- Ceiling of a quotient. -/
def cdiv (a b : Nat) : Nat := (a + b - 1) / b
/-- Numbers 0 to n − 1. -/
def upto (n : Nat) : List Nat := List.range n

/-- Lanes of a mask below `n`, ascending. -/
def lanesOf (m : Mask) (n : Nat) : List Nat := (List.range n).filter fun i => m.getLsbD i
/-- The first `n` bits set. -/
def ones (n : Nat) : Mask := BitVec.ofNat 1024 (2 ^ n - 1)
/-- One bit of a mask. -/
def bitM (i : Nat) : Mask := BitVec.ofNat 1024 (2 ^ i)
/-- A mask with bit i set or cleared. -/
def setBitM (m : Mask) (i : Nat) (b : Bool) : Mask := if b then m ||| bitM i else m &&& ~~~ bitM i
/-- Set bits. -/
def popc (n : Nat) (w : Nat) : Nat := ((List.range w).filter fun i => n.testBit i).length
/-- A mask of the listed lanes. -/
def maskOf (l : List Nat) : Mask := l.foldl (fun m i => m ||| bitM i) 0
/-- Word i of a mask (R270). -/
def maskWord (m : Mask) (i : Nat) : Nat := m.toNat / 2 ^ (32 * i) % 2 ^ 32
/-- R272: bit i is set when word i is non-zero. -/
def summary (m : Mask) : Word32 := BitVec.ofNat 32 ((List.range 32).foldl (fun a i => a + b2n (maskWord m i ≠ 0) * 2 ^ i) 0)
/-- Non-empty words of a mask: the passes of R273. -/
def passCount (m : Mask) (w : Nat) : Nat := ((List.range w).filter fun i => maskWord m i ≠ 0).length

/-- Little-endian number of a list of bytes (R4). -/
def leNat : List Byte → Nat
  | [] => 0
  | b :: r => b.toNat + 256 * leNat r
/-- Little-endian bytes of a number. -/
def leBytes : Nat → Nat → List Byte
  | 0, _ => []
  | k + 1, n => BitVec.ofNat 8 n :: leBytes k (n / 256)

/-- Sub-element j of width `b` bits of a lane (R275). -/
def sub (x : Word) (b j : Nat) : Nat := x.toNat / 2 ^ (b * j) % 2 ^ b
/-- A lane with sub-element j replaced. -/
def setSub (x : Word) (b j v : Nat) : Word :=
  BitVec.ofNat 64 (x.toNat - sub x b j * 2 ^ (b * j) + v % 2 ^ b * 2 ^ (b * j))
/-- A lane from its sub-elements, element 0 lowest. -/
def packSubs (b : Nat) : List Nat → Nat
  | [] => 0
  | v :: r => v % 2 ^ b + 2 ^ b * packSubs b r
/-- A lane computed sub-element by sub-element. -/
def mapSubs (b : Nat) (f : Nat → Nat) : Word := BitVec.ofNat 64 (packSubs b ((List.range (64 / b)).map f))

/-- Width in bits of integer type codes (R488). -/
def intW (t : Nat) : Nat := match t % 4 with | 0 => 64 | 1 => 32 | 2 => 16 | _ => 8
/-- Width in bits of floating type codes (R550). -/
def fltW (t : Nat) : Nat := match t with | 0 => 64 | 1 => 32 | 2 => 16 | 3 => 16 | _ => 8
/-- Whether an integer type code is signed. -/
def isSigned (t : Nat) : Bool := t < 4
/-- A sub-element as the integer its type gives it (R453). -/
def intVal (t v : Nat) : Int := if isSigned t then sext (intW t) v else (v : Int)
/-- An element extended to 64 bits, by sign for codes 0 to 3 and by zeros for 4 to 7 (R453). -/
def extend (t v : Nat) : Word := wordOf (intVal t (v % 2 ^ intW t))

/-- Byte i of a line. -/
def lineByte (l : Line) (i : Nat) : Byte := BitVec.ofNat 8 (l.toNat / 2 ^ (8 * i))
/-- A line with byte i replaced. -/
def setLineByte (l : Line) (i : Nat) (b : Byte) : Line :=
  BitVec.ofNat 512 (l.toNat - (lineByte l i).toNat * 2 ^ (8 * i) + b.toNat * 2 ^ (8 * i))
/-- The line number of an address. -/
def lineNo (a : Nat) : Nat := a / 64
/-- The base address of an address's line. -/
def lineBase (a : Nat) : Nat := a / 64 * 64

/-- R312: the home slice of a line of local memory. -/
def homeSlice (pa : Nat) : Nat :=
  let a := pa / 64
  (bits a 15 0 ^^^ bits a 31 16 ^^^ bits a 45 32) % 96

/-- R496: the hash of a line that fixes its class, and the class under the thresholds (R314): 0 keep, 1 normal, 2 stream. -/
def hash8 (pa : Nat) : Nat :=
  (List.range 6).foldl (fun h i => h ^^^ bits (pa / 64) (8 * i + 7) (8 * i)) 0
/-- R314. -/
def lineClass (pa hlo hhi : Nat) : Nat := if hash8 pa < hlo then 0 else if hash8 pa < hhi then 1 else 2

end Sys2Proof.Machine
end

