-- ==== Sys2Proof/Machine/Flags.lean ====
section
/-! DEFINITION. Conditions: the machine has no condition flags (R452); what compares, branches, monitors and masks
decide is computed here. -/

namespace Sys2Proof.Machine

/-- R514: the scalar condition of `bc` minors 6 to 11. -/
def scalarCond (c : Nat) (a : Word) : Bool :=
  let x := a.toInt
  match c with
  | 6 => x = 0 | 7 => x ≠ 0 | 8 => x < 0 | 9 => x ≥ 0 | 10 => x > 0 | _ => x ≤ 0

/-- R514: the mask condition of `bc` minors 2 to 5, of mask m over active mask a. -/
def maskCond (c : Nat) (m a : Mask) : Bool :=
  match c with
  | 2 => m &&& a ≠ 0 | 3 => m &&& a = 0 | 4 => a &&& ~~~m = 0 | _ => a &&& ~~~m ≠ 0

/-- R594: the comparison of a monitor. -/
def monHolds (c : Nat) (w v : Word) : Bool :=
  match c with
  | 0 => w = v | 1 => w ≠ v | 2 => w.toInt < v.toInt | 3 => w.toInt ≥ v.toInt
  | 4 => w.toNat < v.toNat | 5 => w.toNat ≥ v.toNat | 6 => w &&& v ≠ 0 | _ => w &&& v = 0

/-- A comparison's scalar result (R527). -/
def boolW (b : Bool) : Word := if b then 1 else 0
/-- A comparison's sub-element of `w` bits (R545, R553). -/
def boolSub (w : Nat) (b : Bool) : Nat := if b then 2 ^ w - 1 else 0

/-- Saturation of an integer result to its type (R546). -/
def satInt (t : Nat) (v : Int) : Nat :=
  let w := intW t
  let lo : Int := if isSigned t then -(2 ^ (w - 1) : Nat) else 0
  let hi : Int := if isSigned t then (2 ^ (w - 1) : Nat) - 1 else (2 ^ w : Nat) - 1
  wrap w (if v < lo then lo else if v > hi then hi else v)

/-- Leading zeros of a `w`-bit number, counted from bit w − 1. -/
def clz : Nat → Nat → Nat
  | 0, _ => 0
  | w + 1, n => if n.testBit w then 0 else 1 + clz w n
/-- Trailing zeros among the low bits, from bit i up, of w bits. -/
def ctzFrom (n i : Nat) : Nat → Nat
  | 0 => 0
  | w + 1 => if n.testBit i then 0 else 1 + ctzFrom n (i + 1) w

end Sys2Proof.Machine
end

