-- ==== Sys2Proof/Config.lean ====
section
/-! DEFINITION. What the spec leaves free: constants without a body. No proof can see a value of one,
so a statement that holds of the model holds whatever they are. -/

namespace Sys2Proof.Config

/-- Which of several enabled things happens next, at the n-th choice of the run: the spec fixes no order
between them (R69, R324, R480, R613). The step reduces it below the number of choices. -/
opaque pick : Nat → Nat

/-- R482, R484: whether a lane that reads a register with an unreturned long result, with no switch between,
obtains the new value; by choice number and lane. -/
opaque hazardNew : Nat → Nat → Bool

/-- R482: the value a hazard read may obtain when the result is not known at that moment; by choice number and lane. -/
opaque hazardValue : Nat → Nat → BitVec 64

/-- R314, R315, R222: the set of a home slice that a line number falls in; the spec gives 1,024 sets and no index. -/
opaque sliceSet : Nat → Nat

/-- R391: where in system-slot memory a block of a handle table lies, which the spec leaves to the Milliner; by choice number. -/
opaque tableBlock : Nat → Nat

/-- R314, R222: which of the free ways that a partition may fill a line or shadow entry takes; by line number. -/
opaque freeWay : Nat → Nat

/-- R317: the set of a core's lease cache that a line number falls in; the spec gives 8 ways of 256 sets and no index. -/
opaque leaseSet : Nat → Nat

/-- R62: whether a W9H keeps the copy of a bulk-tensor line that a leased load has read, which the spec permits; by choice number. -/
opaque bulkKeep : Nat → Bool

/-- R430: the access kind of information kind T, whose codes the spec does not give, by kind of access. -/
opaque accessKind : Nat → BitVec 4
/-- R430: the walk level and entry that information kind T shows for a cause raised before any walk. -/
opaque noLevel : Nat → BitVec 3
opaque noEntry : Nat → BitVec 64

/-- R430: information words whose content the spec does not state, by place. -/
opaque noWhere : Nat → BitVec 64

/-- R400: the bytes of system-slot memory that a partition's prefix index takes of its quota; the spec gives no size for a way. -/
opaque prefixBytes : Nat

/-- R398: the failing-check word of a handle-length cause for want of a free page, which the spec does not number. -/
opaque noPageCheck : BitVec 64

/-- R561, R562: the FP32 value special function `fn` delivers before its last rounding, of a source code of a type, with
or without `ftz`, where the spec gives only an error bound. A fixed function; the model keeps it inside the bound. -/
opaque sfu : Nat → Nat → Bool → Nat → BitVec 32

/-- R142, R144: the SHA-256 digest of a list of bytes, given as its little-endian number and length. -/
opaque sha256 : Nat → Nat → BitVec 256

/-- R145: whether a signature (number) verifies for a digest under a public key (number). -/
opaque sigOk : Nat → BitVec 256 → Nat → Bool

/-- R139: fresh key material at the n-th key generation. -/
opaque freshKey : Nat → BitVec 256

/-- R46, R47: the words of a freeze image's sections, whose layouts the spec leaves to the freeze reader: by freeze, section
identifier, instance and word number. -/
opaque freezeWord : Nat → Nat → Nat → Nat → BitVec 32
/-- R47: the length in bytes of a section of the freeze image, by freeze, section identifier and instance. -/
opaque freezeLen : Nat → Nat → Nat → Nat
/-- R47: the layout version of a section, by its identifier. -/
opaque freezeVer : Nat → BitVec 16

/-- R24: whether a stack's key establishment succeeds at a boot; by choice number and stack. -/
opaque stackKeyed : Nat → Nat → Bool

/-- R435: whether the dirty vector of a set can be read, and the bit it shows. -/
opaque dirtyVec : Nat → Bool

/-- R443: how many of the events of the last 256 ticks a counter read misses, by choice number. -/
opaque lag : Nat → Nat

/-- R276: the width of a work-identifier field of another die's launch, by version tag and field: the spec does not say how
a landed team on a W9L learns it. -/
opaque fieldWidth : Nat → Nat → Nat

/-- R49, R289: the PBR ID that the fabric gives this die. -/
opaque pbrId : Nat

/-- R46: the die serial number, from the identity fuses. -/
opaque serial : BitVec 64

/-- R142: the digest that stands for the boot ROM's identity and the fuse security state (stage 0), and for the Milliner's policy settings
(stage 4). -/
opaque bootDigest : Nat → BitVec 256
/-- R142: the fuses: the hash of the key that signs the stages, and the least security version of a stage. -/
opaque keyFuse : BitVec 256
opaque minVersion : Nat → Nat
/-- R143: the signature of a digest under the fused identity key, and the certificate chain that its certificate heads. -/
opaque identitySign : BitVec 256 → BitVec 3072
opaque certChain : List (BitVec 8)

/-- R92: whether a launch has left entries at a W9L where its landed lanes have ended, which no message tells its die; by choice number. -/
opaque leftBehind : Nat → Bool

/-- R288: the vector allotment of the origin team of a landed lane of another die's launch, which no message tells a W9L; by version tag. -/
opaque originAllot : Nat → Nat

/-- R465: on a tie between two neighbours of a binary8 format of precision 1 both significands are the one bit 1, so
`rne` names neither; whether the greater is taken, by the lower code. -/
opaque tieP1 : Nat → Bool

/-- R713: whether a peer, by PBR ID, may reach the extents of a partition of a W9L; the spec names no register that says so. -/
opaque peerReach : Nat → Nat → Bool

/-- R108: where the arguments of a mailbox command stand in the 64 bytes of a request, which the spec does not state: the n-th
argument. -/
opaque mbxArg : Nat → BitVec 512 → Nat

/-- R96, R436: the words of a card's and an engine's state in the debug window, whose layout the spec does not give. -/
opaque engineWord : Nat → Nat → BitVec 64

/-- R425, R442: the `arg` of a tag-parity event, for which kind V names no master; by slice. -/
opaque parityArg : Nat → BitVec 32

end Sys2Proof.Config
end

