-- ==== Sys2Proof/Machine/FpNum.lean ====
section
/-! DEFINITION. Binary floating-point formats, rounding and exact element-wise arithmetic (R450 to R476).
A finite value is a sign, a natural significand and an exponent; every operation forms its exact result and rounds
it once. -/

namespace Sys2Proof.Machine

/-- A floating-point value. -/
inductive Fp
  | nan
  | inf (neg : Bool)
  | fin (neg : Bool) (sig : Nat) (e : Int)
deriving DecidableEq, Repr

/-- A format (R450, R454): significand bits, exponent field bits, bias; and of binary8 its variant. -/
structure FFmt where
  p : Nat
  ebits : Nat
  bias : Int
  b8 : Bool := false
  uns : Bool := false
  ext : Bool := true
deriving DecidableEq, Repr

def fp64 : FFmt := { p := 53, ebits := 11, bias := 1023 }
def fp32 : FFmt := { p := 24, ebits := 8, bias := 127 }
def fp16 : FFmt := { p := 11, ebits := 5, bias := 15 }
def bf16 : FFmt := { p := 8, ebits := 8, bias := 127 }
/-- R454: a binary8 variant. -/
def b8fmt (p : Nat) (uns ext : Bool) : FFmt :=
  if uns then { p := p, ebits := 9 - p, bias := (2 ^ (8 - p) : Nat), b8 := true, uns := true, ext := ext }
  else { p := p, ebits := 8 - p, bias := (2 ^ (7 - p) : Nat), b8 := true, uns := false, ext := ext }

/-- R462: fields of `fmt`. -/
def fmtRnd (f : Word32) : Nat := bits f.toNat 2 0
def fmtFtz (f : Word32) : Bool := bit f.toNat 3
def fmtSat (f : Word32) : Bool := bit f.toNat 4
def fmtScm (f : Word32) : Nat := bits f.toNat 16 15
def fmtAccf (f : Word32) : Nat := bits f.toNat 19 17
def fmtSrk (f : Word32) : Nat := bits f.toNat 23 20 + 1
/-- R463: the A and the B binary8 formats. -/
def fmtA (f : Word32) : FFmt := b8fmt (bits f.toNat 7 5) (bit f.toNat 8) (bit f.toNat 9)
def fmtB (f : Word32) : FFmt := b8fmt (bits f.toNat 12 10) (bit f.toNat 13) (bit f.toNat 14)
/-- R463: the cause a new `fmt` value raises, if any. -/
def fmtCause (v : Nat) : Option Nat :=
  if bits v 2 0 ≥ 6 then some 0x10
  else if bits v 7 5 = 0 ∨ bits v 12 10 = 0 ∨ bits v 19 17 ≥ 4 ∨ bits v 31 24 ≠ 0 then some 0x11
  else none
/-- R488, R550: the format of a floating type code under `fmt`. -/
def fltFmt (t : Nat) (f : Word32) : FFmt :=
  match t with | 0 => fp64 | 1 => fp32 | 2 => fp16 | 3 => bf16 | _ => fmtA f

/-- Trailing significand bits, all bits but the sign, and total width. -/
def FFmt.tb (f : FFmt) : Nat := f.p - 1
def FFmt.width (f : FFmt) : Nat := f.ebits + f.tb + (if f.uns then 0 else 1)
/-- The exponent of the last place of a subnormal. -/
def FFmt.qmin (f : FFmt) : Int := 1 - f.bias - (f.tb : Int)
/-- The greatest magnitude code of a finite value (R450, R456). -/
def FFmt.maxCode (f : FFmt) : Nat :=
  if f.b8 then (if f.uns then (if f.ext then 0xFD else 0xFE) else (if f.ext then 0x7E else 0x7F))
  else (2 ^ f.ebits - 1) * 2 ^ f.tb - 1
/-- R451, R456: the NaN of a format. -/
def FFmt.nanBits (f : FFmt) : Nat :=
  if f.b8 then (if f.uns then 0xFF else 0x80) else (2 ^ f.ebits - 1) * 2 ^ f.tb + 2 ^ (f.tb - 1)
/-- A magnitude code with a sign. -/
def FFmt.signed (f : FFmt) (neg : Bool) (code : Nat) : Nat :=
  if f.b8 ∧ code = 0 then 0 else if neg ∧ ¬ f.uns then code + 2 ^ (f.width - 1) else code
/-- The infinity of a format that has one. -/
def FFmt.infBits (f : FFmt) (neg : Bool) : Nat :=
  if f.b8 then (if f.uns then 0xFE else if neg then 0xFF else 0x7F)
  else f.signed neg ((2 ^ f.ebits - 1) * 2 ^ f.tb)

/-- R450, R455, R456: the value of a code. -/
def FFmt.decode (f : FFmt) (x : Nat) : Fp :=
  let neg := !f.uns && bit x (f.width - 1)
  let c := if f.uns then x % 256 else x % 2 ^ (f.width - 1)
  if f.b8 ∧ x % 256 = f.nanBits then .nan
  else if f.b8 ∧ c > f.maxCode then .inf neg
  else
    let e := c / 2 ^ f.tb
    let t := c % 2 ^ f.tb
    if ¬ f.b8 ∧ e = 2 ^ f.ebits - 1 then (if t = 0 then .inf neg else .nan)
    else if e = 0 then .fin neg t f.qmin
    else .fin neg (t + 2 ^ f.tb) (f.qmin + (e : Int) - 1)

/-- A subnormal of the format: non-zero, below the smallest normal (R469, R470). -/
def FFmt.isSub (f : FFmt) (x : Nat) : Bool :=
  let c := if f.uns then x % 256 else x % 2 ^ (f.width - 1)
  c / 2 ^ f.tb = 0 && c % 2 ^ f.tb ≠ 0 && !(f.b8 && x % 256 = f.nanBits)

/-- R469: a source under `ftz`. -/
def FFmt.flush (f : FFmt) (ftz : Bool) (x : Nat) : Nat :=
  if ftz && f.isSub x then (if f.b8 then 0 else if bit x (f.width - 1) then 2 ^ (f.width - 1) else 0) else x

/-- How one rounding is made (R464 to R466, R472): mode, saturation, flush, and for `rsr` the bits and their count. -/
structure Rnd where
  mode : Nat := 0
  sat : Bool := false
  ftz : Bool := false
  rho : Nat := 0
  k : Nat := 0
deriving DecidableEq, Repr

/-- Whether a truncated magnitude goes to its greater neighbour (R465, R472): remainder `r` of `2^s`, sticky beyond; `c` is the code
of the truncated magnitude in a format of one significand bit. -/
def roundsUp (rd : Rnd) (f : FFmt) (neg : Bool) (m c r s : Nat) (sticky : Bool) : Bool :=
  let h := 2 ^ s
  let inexact := r ≠ 0 || sticky
  match rd.mode with
  | 0 => if 2 * r > h || (2 * r = h && sticky) then true
         else if 2 * r = h then (if f.b8 && f.p = 1 && m ≠ 0 then Config.tieP1 c else m % 2 = 1) else false
  | 1 => false
  | 2 => neg && inexact
  | 3 => !neg && inexact
  | 4 => decide (2 * r ≥ h) && s ≠ 0
  | _ => inexact && decide (r * 2 ^ rd.k / h + rd.rho ≥ 2 ^ rd.k)

/-- R465, R466, R469: the bits of `±sig × 2^e` (and a little more when `sticky`) rounded once into a format. -/
def FFmt.round (f : FFmt) (rd : Rnd) (neg : Bool) (sig : Nat) (e : Int) (sticky : Bool) : Nat :=
  if sig = 0 ∧ ¬ sticky then f.signed neg 0
  else
    let n : Int := if sig = 0 then 0 else (Nat.log2 sig : Int) + 1
    let q := max (e + n - (f.p : Int)) f.qmin
    let s := (q - e).toNat
    let m0 := if q ≤ e then sig * 2 ^ (e - q).toNat else sig / 2 ^ s
    let r := if q ≤ e then 0 else sig % 2 ^ s
    let up := roundsUp rd f neg m0 ((q - f.qmin).toNat + 1) r s sticky
    let m1 := if up then m0 + 1 else m0
    let m := if m1 = 2 ^ f.p then 2 ^ (f.p - 1) else m1
    let q' := if m1 = 2 ^ f.p then q + 1 else q
    let code := if m < 2 ^ f.tb then m else ((q' - f.qmin).toNat + 1) * 2 ^ f.tb + (m - 2 ^ f.tb)
    if code = 0 then f.signed neg 0
    else if f.uns ∧ neg then (if rd.sat then 0 else f.nanBits)
    else if code > f.maxCode then
      if rd.sat then f.signed neg f.maxCode
      else if f.b8 ∧ ¬ f.ext then f.nanBits
      else
        let toInf := match rd.mode with
          | 0 => true | 4 => true | 1 => false | 2 => neg | 3 => !neg | _ => up
        if toInf then f.infBits neg else f.signed neg f.maxCode
    else if rd.ftz ∧ m < 2 ^ f.tb then f.signed neg 0
    else f.signed neg code

/-- R466: an exact infinity in a format. -/
def FFmt.ofInf (f : FFmt) (rd : Rnd) (neg : Bool) : Nat :=
  if f.uns ∧ neg then (if rd.sat then 0 else f.nanBits)
  else if f.b8 ∧ ¬ f.ext then (if rd.sat then f.signed neg f.maxCode else f.nanBits)
  else f.infBits neg

/-- A value rounded into a format. -/
def FFmt.ofFp (f : FFmt) (rd : Rnd) : Fp → Nat
  | .nan => f.nanBits
  | .inf neg => f.ofInf rd neg
  | .fin neg sig e => f.round rd neg sig e false

/-- The integer a finite value is, at a common exponent not above its own. -/
def atExp (neg : Bool) (sig : Nat) (e q : Int) : Int :=
  let m : Int := (sig * 2 ^ (e - q).toNat : Nat)
  if neg then -m else m

/-- A signed integer scaled by 2^q as a value; an exact zero takes the given sign. -/
def fromExp (zneg : Bool) (m q : Int) : Fp :=
  if m = 0 then .fin zneg 0 0 else .fin (decide (m < 0)) m.natAbs q

/-- Exact sum, IEEE 754-2019 specials; `rdn` tells the sign of an exact zero sum of unlike signs (R551). -/
def Fp.add (rdn : Bool) : Fp → Fp → Fp
  | .nan, _ => .nan
  | _, .nan => .nan
  | .inf a, .inf b => if a = b then .inf a else .nan
  | .inf a, _ => .inf a
  | _, .inf b => .inf b
  | .fin a s e, .fin b t g =>
    let q := min e g
    fromExp (if a = b then a else rdn) (atExp a s e q + atExp b t g q) q

/-- Sign inverted. -/
def Fp.neg : Fp → Fp
  | .nan => .nan
  | .inf a => .inf !a
  | .fin a s e => .fin (!a) s e

/-- Exact product. -/
def Fp.mul : Fp → Fp → Fp
  | .nan, _ => .nan
  | _, .nan => .nan
  | .inf a, .inf b => .inf (a != b)
  | .inf a, .fin b t _ => if t = 0 then .nan else .inf (a != b)
  | .fin a s _, .inf b => if s = 0 then .nan else .inf (a != b)
  | .fin a s e, .fin b t g => .fin (a != b) (s * t) (e + g)

/-- Quotient rounded once (R551). -/
def FFmt.div (f : FFmt) (rd : Rnd) : Fp → Fp → Nat
  | .nan, _ => f.nanBits
  | _, .nan => f.nanBits
  | .inf _, .inf _ => f.nanBits
  | .inf a, .fin b _ _ => f.ofInf rd (a != b)
  | .fin a _ _, .inf b => f.signed (a != b) 0
  | .fin a s e, .fin b t g =>
    if t = 0 then (if s = 0 then f.nanBits else f.ofInf rd (a != b))
    else
      let k := 70 + Nat.log2 t
      let n := s * 2 ^ k
      f.round rd (a != b) (n / t) (e - g - (k : Int)) (decide (n % t ≠ 0))

/-- Integer square root of a number below 4^k, bit by bit. -/
def isqrt : Nat → Nat → Nat → Nat
  | 0, _, r => r
  | k + 1, n, r => let c := r + 2 ^ k; if c * c ≤ n then isqrt k n c else isqrt k n r

/-- Square root rounded once (R551). -/
def FFmt.sqrt (f : FFmt) (rd : Rnd) : Fp → Nat
  | .nan => f.nanBits
  | .inf a => if a then f.nanBits else f.ofInf rd false
  | .fin a s e =>
    if s = 0 then f.signed a 0
    else if a then f.nanBits
    else
      let s1 := if e % 2 = 0 then s else 2 * s
      let e1 := if e % 2 = 0 then e else e - 1
      let n := s1 * 2 ^ 140
      let r := isqrt ((Nat.log2 n) / 2 + 1) n 0
      f.round rd false r (e1 / 2 - 70) (decide (r * r ≠ n))

/-- Comparison of two values that are not NaN: −1, 0 or 1, with +0 equal to −0 (R553). -/
def Fp.cmp : Fp → Fp → Int
  | .inf a, .inf b => if a = b then 0 else if a then -1 else 1
  | .inf a, _ => if a then -1 else 1
  | _, .inf b => if b then 1 else -1
  | .fin a s e, .fin b t g =>
    let q := min e g
    let x := atExp a s e q
    let y := atExp b t g q
    if x < y then -1 else if x = y then 0 else 1
  | .nan, _ => 0
  | .fin _ _ _, .nan => 0

def Fp.isNan : Fp → Bool | .nan => true | _ => false
/-- Sign of a value that is not NaN. -/
def Fp.isNeg : Fp → Bool | .nan => false | .inf a => a | .fin a _ _ => a

/-- R553: comparison `cc` of minors 0 to 7. -/
def fpCompare (cc : Nat) (x y : Fp) : Bool :=
  let u := x.isNan || y.isNan
  let c := Fp.cmp x y
  match cc with
  | 0 => !u && c = 0
  | 1 => u || c ≠ 0
  | 2 => !u && c < 0
  | 3 => !u && c ≤ 0
  | 4 => !u && c > 0
  | 5 => !u && c ≥ 0
  | 6 => !u
  | _ => u

/-- R552: minimumNumber or maximumNumber of two codes; −0 is below +0. -/
def fpMinMax (f : FFmt) (isMax : Bool) (x y : Nat) : Nat :=
  let a := f.decode x
  let b := f.decode y
  if a.isNan ∧ b.isNan then f.nanBits
  else if a.isNan then y
  else if b.isNan then x
  else
    let c := Fp.cmp a b
    let aLess := if c = 0 then a.isNeg && !b.isNeg else decide (c < 0)
    let bLess := if c = 0 then b.isNeg && !a.isNeg else decide (c > 0)
    if isMax then (if aLess then y else x) else (if bLess then y else x)

/-- R554: the class of a code. -/
def fpClass (f : FFmt) (x : Nat) : Nat :=
  match f.decode x with
  | .nan => if f.b8 then 8 else if bit x (f.tb - 1) then 8 else 9
  | .inf n => if n then 0 else 7
  | .fin n s _ =>
    if s = 0 then (if n ∧ ¬ f.b8 then 3 else 4)
    else if f.isSub x then (if n then 2 else 5) else (if n then 1 else 6)

/-- R467: a value rounded to an integer of `w` bits, saturating; NaN gives 0. `rsr` acts as `rne`. -/
def fpToInt (mode : Nat) (w : Nat) (sgn : Bool) (x : Fp) : Nat :=
  let lo : Int := if sgn then -(2 ^ (w - 1) : Nat) else 0
  let hi : Int := if sgn then (2 ^ (w - 1) : Nat) - 1 else (2 ^ w : Nat) - 1
  match x with
  | .nan => 0
  | .inf n => wrap w (if n then lo else hi)
  | .fin n s e =>
    let m := if mode = 5 then 0 else mode
    let mag : Nat :=
      if e ≥ 0 then s * 2 ^ e.toNat
      else
        let sh := (-e).toNat
        let q := s / 2 ^ sh
        if roundsUp { mode := m } fp64 n q 0 (s % 2 ^ sh) sh false then q + 1 else q
    let v : Int := if n then -(mag : Int) else mag
    wrap w (if v < lo then lo else if v > hi then hi else v)

/-- An integer as a value. -/
def fpOfInt (v : Int) : Fp := .fin (decide (v < 0)) v.natAbs 0

/-- R459: a scale byte. -/
def fpOfE8m0 (e : Nat) : Fp := if e = 255 then .nan else .fin false 1 ((e : Int) - 127)

/-! ## Sums of fused operations -/

/-- a × b + c before rounding (R551). -/
def Fp.fma (rdn : Bool) (a b c : Fp) : Fp := Fp.add rdn (Fp.mul a b) c

/-! ## Stochastic rounding (R471, R472) -/

/-- R471: one draw of the xorshift32 generator. -/
def xorshift (x : Word32) : Word32 :=
  let a := x ^^^ (x <<< 13)
  let b := a ^^^ (a >>> 17)
  b ^^^ (b <<< 5)

/-- R472: the random bits of lane l, sub-element j. -/
def rsrBits (w : Word32) (l j k : Nat) : Nat := (w.rotateLeft ((7 * l + 13 * j) % 32)).toNat % 2 ^ k

/-- R471: what a write stores into `srseed`. -/
def seedOf (v : Word) : Word32 := let x := v.setWidth 32; if x = 0 then 0x6D2B79F5 else x

/-! ## The correctly rounded exponential (R384) -/

/-- Σ x^i / i! with 300 fraction bits, `n` terms. -/
def expTerms (x : Nat) : Nat → Nat → Nat → Nat → Nat
  | 0, _, _, acc => acc
  | n + 1, i, term, acc => expTerms x n (i + 1) (term * x / 2 ^ 300 / i) (acc + term)

/-- `b^n` with 300 fraction bits. -/
def fixPow (b : Nat) : Nat → Nat
  | 0 => 2 ^ 300
  | n + 1 => fixPow b n * b / 2 ^ 300

/-- R384: exp of FP32 bits, rounded to nearest even. The series is carried to 300 fraction bits; the exponential of a
non-zero binary fraction is never a tie. -/
def expRN (x : Nat) : Nat :=
  match fp32.decode x with
  | .nan => fp32.nanBits
  | .inf n => if n then 0 else fp32.infBits false
  | .fin n s e =>
    let one := 0x3F800000
    if s = 0 then one
    else
      let top := e + (Nat.log2 s : Int)
      if top < -40 then one
      else if top ≥ 8 then (if n then 0 else fp32.infBits false)
      else
        let f := s * 2 ^ (e + 300).toNat
        let i := f / 2 ^ 300
        let p := fixPow (expTerms (2 ^ 300) 80 1 (2 ^ 300) 0) i * expTerms (f % 2 ^ 300) 80 1 (2 ^ 300) 0 / 2 ^ 300
        fp32.round {} false (if n then 2 ^ 600 / p else p) (-300) true

end Sys2Proof.Machine
end

