-- ==== Sys2Proof/Machine/Operands.lean ====
section
/-! DEFINITION. Operand forms: registers and masks of a team, hint words, immediates, cross-lane sources, the
policy word, and the sources and destinations of every instruction (R270 to R275, R486 to R497, R543). -/

namespace Sys2Proof.Machine

/-! ## Registers -/

/-- R272: the active mask. -/
def TeamFlow.active (f : TeamFlow) : Mask := f.D &&& f.pres
/-- A scalar register; `s0` reads zero (R487). -/
def TeamRegs.getS (r : TeamRegs) (n : Nat) : Word := if n = 0 then 0 else Tbl.getD r.s n 0
/-- Write a scalar register; writes to `s0` are discarded (R487). -/
def TeamRegs.setS (r : TeamRegs) (n : Nat) (v : Word) : TeamRegs :=
  if n = 0 then r else { r with s := Tbl.putD r.s n v 0 }
/-- One lane of a vector register. -/
def TeamRegs.getV (r : TeamRegs) (n l : Nat) : Word := Tbl.getD r.v (1024 * n + l) 0
/-- Write one lane of a vector register. -/
def TeamRegs.setV (r : TeamRegs) (n l : Nat) (v : Word) : TeamRegs := { r with v := Tbl.putD r.v (1024 * n + l) v 0 }
/-- A mask register `k1` to `k7`. -/
def TeamRegs.getK (r : TeamRegs) (n : Nat) : Mask := Tbl.getD r.k n 0
/-- Write a mask register; a written `k0` is discarded (R487), and bits outside the valid lanes are zero (R534). -/
def TeamRegs.setK (r : TeamRegs) (n : Nat) (m : Mask) : TeamRegs :=
  if n = 0 then r else { r with k := Tbl.putD r.k n (m &&& ones r.lanes) 0 }

/-- Perform a register write. -/
def TeamRegs.write (r : TeamRegs) : RegWrite → TeamRegs
  | .s n v => r.setS n v
  | .v n l x => r.setV n l x
  | .k n l b => r.setK n (setBitM (r.getK n) l b)
/-- Perform register writes in order. -/
def TeamRegs.writes (r : TeamRegs) (ws : List RegWrite) : TeamRegs := ws.foldl TeamRegs.write r

/-- The value at issue of a source register, where it is not the present content. -/
def Cur.look (c : Cur) (cls n : Nat) : Option (Tbl Word) :=
  (c.ovr.find? fun p => p.1 = cls && p.2.1 = n).map fun p => p.2.2

/-- Read scalar register n as the instruction being performed reads it. -/
def rdS (t : Team) (c : Cur) (n : Nat) : Word :=
  match c.look 0 n with | some v => Tbl.getD v 0 0 | none => t.regs.getS n
/-- Read a lane of vector register n as the instruction being performed reads it. -/
def rdV (t : Team) (c : Cur) (n l : Nat) : Word :=
  match c.look 1 n with | some v => Tbl.getD v l 0 | none => t.regs.getV n l
/-- Read mask register n; `k0` is the active mask. -/
def rdK (t : Team) (c : Cur) (n : Nat) : Mask :=
  match c.look 2 n with
  | some v => maskOf ((List.range t.regs.lanes).filter fun l => Tbl.getD v l 0 ≠ 0)
  | none => if n = 0 then t.flow.active else t.regs.getK n

/-! ## Hint words (R489 to R491) -/

/-- Whether a word is a hint word: IMM, MOD or MODX. -/
def isImm (w : Word32) : Bool := bits w.toNat 30 25 = 0x3E
def isMod (w : Word32) : Bool := bits w.toNat 30 23 = 0x3F * 4
def isModx (w : Word32) : Bool := bits w.toNat 30 23 = 0x3F * 4 + 1
def isHint (w : Word32) : Bool := isImm w || isMod w || isModx w

/-- The hints of the instruction being performed. -/
def Cur.immw (c : Cur) : Option Nat := if c.entry.immw = 0 then none else some (bits c.entry.immw.toNat 24 0)
def Cur.hasMod (c : Cur) : Bool := c.entry.modw ≠ 0 && isMod c.entry.modw
def Cur.hasModx (c : Cur) : Bool := c.entry.modw ≠ 0 && isModx c.entry.modw
def Cur.msk (c : Cur) : Nat := if c.entry.modw = 0 then 0 else bits c.entry.modw.toNat 22 20
def Cur.zero (c : Cur) : Bool := c.entry.modw ≠ 0 && bit c.entry.modw.toNat 19
def Cur.rov (c : Cur) : Option Nat :=
  if c.hasMod && bit c.entry.modw.toNat 18 then some (bits c.entry.modw.toNat 17 15) else none
def Cur.freg (c : Cur) : Option Nat :=
  if c.hasMod && bit c.entry.modw.toNat 14 then some (bits c.entry.modw.toNat 13 8) else none
def Cur.keep (c : Cur) : Bool := c.hasModx && bit c.entry.modw.toNat 18
def Cur.opnd (c : Cur) : Nat := bits c.entry.modw.toNat 17 16
def Cur.form (c : Cur) : Nat := bits c.entry.modw.toNat 15 14
def Cur.parm (c : Cur) : Nat := bits c.entry.modw.toNat 13 0

/-- R273: the governing mask; a re-injected entry runs under its own (R430). -/
def gov (t : Team) (c : Cur) : Mask :=
  if c.inj then c.entry.gov &&& t.flow.pres
  else if c.msk = 0 then t.flow.active else rdK t c c.msk &&& t.flow.pres

/-- The mask of a raising pass of a whole instruction. -/
def govTeam (t : Team) (c : Cur) : Mask := gov t c

/-- R489: an immediate of `w` bits with its IMM word. -/
def immOf (c : Cur) (w : Nat) (n : Nat) : Int :=
  match c.immw with | some i => sext (25 + w) (i * 2 ^ w + n) | none => sext w n
/-- R489: the `sb` operand of SR with `i` set: zero-extended without an IMM word. -/
def srImm (c : Cur) (b : BitVec 6) : Word :=
  match c.immw with | some i => wordOf (sext 31 (i * 64 + b.toNat)) | none => b.setWidth 64
/-- R527: the second operand of an SR form. -/
def srB (t : Team) (c : Cur) (b : BitVec 6) (i : BitVec 1) : Word := if i = 1 then srImm c b else rdS t c b.toNat
/-- R489: the displacement of an M form. -/
def disp (c : Cur) : Int := match c.immw with | some i => sext 25 i | none => 0

/-- R543, R274: lane l's value of a vector source operand (number `which`: 0 `va`, 1 `vb`), through a cross-lane form
when a MODX word names it. `old` is the value an out-of-range source delivers under `keep`; n the sub-elements. -/
def srcLane (t : Team) (c : Cur) (which reg n l : Nat) (old : Word) : Word :=
  if c.hasModx && c.opnd = which then
    let L := t.regs.lanes
    let oor := if c.keep then old else 0
    let p := c.parm
    match c.form with
    | 0 => let i : Int := (l : Int) + sext 11 p
           if i < 0 ∨ i ≥ L then oor else rdV t c reg i.toNat
    | 1 => let l0 := bits p 12 3
           if l0 ≥ L then oor
           else let b := 64 / n; let x := sub (rdV t c reg l0) b (bits p 2 0)
                mapSubs b fun _ => x
    | 2 => let i := l ^^^ bits p 9 0
           if i ≥ L then oor else rdV t c reg i
    | _ => rdV t c reg (l - l % 2 ^ bits p 3 0)
  else rdV t c reg l

/-! ## The policy word (R495 to R497, R573) -/

def polAspc (p : Word32) : Nat := bits p.toNat 27 26
def polPflag (p : Word32) : Bool := bit p.toNat 25
def polMig (p : Word32) : Nat := bits p.toNat 24 23
def polLease (p : Word32) : Nat := bits p.toNat 22 21
def polOrd (p : Word32) : Nat := bits p.toNat 20 19
def polScope (p : Word32) : Nat := bits p.toNat 18 16
/-- R495: ticks of a lease field. -/
def leaseTicks (l : Nat) : Nat := match l with | 0 => 0 | 1 => 64 | 2 => 512 | _ => 4096
def isAcq (p : Word32) : Bool := bit (polOrd p) 0
def isRel (p : Word32) : Bool := bit (polOrd p) 1

/-- What an instruction allows of its policy word (R573): acquire, release, `lease`, `mig`, handle addressing,
`pflag`. -/
structure PolRule where
  acq : Bool
  rel : Bool
  /-- False where a non-zero field raises 0x07; a field that is not used is not checked. -/
  leaseOk : Bool := true
  migOk : Bool := true
  aspcOk : Bool := false
  pflagOk : Bool := false

/-- R497, R573: the cause a policy word raises: 0x07, or 0x05 for an absent feature. `feat` hides features. -/
def polCause (r : PolRule) (feat : BitVec 7) (p : Word32) : Option Nat :=
  if bits p.toNat 31 28 ≠ 0 ∨ polAspc p ≥ 2 ∨ polMig p = 3 ∨ polScope p ≥ 5 then some 0x07
  else if (isAcq p ∧ ¬ r.acq) ∨ (isRel p ∧ ¬ r.rel) then some 0x07
  else if (polLease p ≠ 0 ∧ ¬ r.leaseOk) ∨ (polMig p ≠ 0 ∧ ¬ r.migOk) ∨ (polAspc p = 1 ∧ ¬ r.aspcOk) ∨ (polPflag p ∧ ¬ r.pflagOk)
    then some 0x07
  else if polScope p = 3 ∧ feat.getLsbD 6 then some 0x05
  else if polMig p ≠ 0 ∧ feat.getLsbD 1 then some 0x05
  else none

end Sys2Proof.Machine
end

