-- ==== Sys2Proof/Machine/Sources.lean ====
section
/-! DEFINITION. What the decoding order of R498 checks beyond the word alone (hint placement and use, hint fields,
features, allotment, control registers), and which registers every instruction reads and writes. -/

namespace Sys2Proof.Machine

def majorOf (n : Nat) : Nat := n / 33554432 % 64

/-- R491, R498 step 2: the placement of the hint words before an instruction word, in fetch order. -/
def placementOk : List Word32 → Bool
  | [] => true
  | [_] => true
  | [a, b] => !isImm a && isImm b
  | _ => false

/-- What hints an instruction word takes use of (R491). -/
structure HintUse where
  /-- A MOD word is accepted at all. -/
  mod : Bool := false
  zero : Bool := false
  rov : Bool := false
  fv : Bool := false
  /-- Cross-lane forms: 0 none, 1 on `va`, 2 on either, 3 form `seg` on `va` only. -/
  modx : Nat := 0
  imm : Bool := false

/-- R512, R537, R541, R570, R572, R603, R638: the hints of each form. -/
def hintUse (n : Nat) : HintUse :=
  let fn4 := bits n 6 3
  let fn6 := n % 64
  let i := bit n 6
  let cond := bits n 24 21
  let m2 := bits n 5 4
  let v (r f : Bool) (x : Nat) : HintUse := { mod := true, zero := true, rov := r, fv := f, modx := x }
  match majorOf n with
  | 0x01 => if fn4 = 3 then { mod := true, zero := true } else if fn4 = 2 && n % 8 = 2 then { imm := true } else {}
  | 0x02 => { imm := cond < 12 }
  | 0x03 => { imm := cond = 0 || cond = 1 || cond = 3 }
  | 0x04 | 0x06 => { imm := i }
  | 0x05 => { imm := true }
  | 0x07 => { imm := i && fn6 ≥ 5 }
  | 0x08 => v false false (if fn4 = 6 || fn4 = 7 then 1 else 2)
  | 0x09 => { v false false 1 with imm := true }
  | 0x0A => v false (fn4 = 2 || fn4 = 3) 2
  | 0x0B => v false false (if fn4 ≥ 3 then 1 else 2)
  | 0x0C => v (fn4 < 2) false (if fn4 = 4 || fn4 = 5 then 1 else 2)
  | 0x0D => v true (1 ≤ fn4 && fn4 ≤ 3) (if fn4 = 5 then 1 else 2)
  | 0x0E => v false false (if fn4 = 8 then 1 else 2)
  | 0x0F => v true false (if fn4 = 2 || fn4 = 4 then 2 else 1)
  | 0x10 => v false false 1
  | 0x11 => v ((fn4 = 2 || fn4 = 3) && bits n 12 9 = 6) false 3
  | 0x13 =>
    match fn4 with
    | 0 => v false false 1
    | 1 | 5 => v false false 0
    | 3 => { mod := true }
    | 4 => v false false 2
    | 6 => v false false 1
    | _ => {}
  | 0x14 => { mod := true, zero := !bit n 3, fv := bits n 6 4 = 2, imm := bits n 6 4 ≠ 1 }
  | 0x15 => { mod := true, fv := bits n 6 4 = 2, imm := bits n 6 4 ≠ 1 }
  | 0x16 => { mod := true, zero := true, fv := m2 = 2, imm := m2 ≠ 1 }
  | 0x17 => { mod := true, fv := m2 = 2, imm := m2 ≠ 1 }
  | 0x18 => { mod := true, zero := true, fv := true, rov := n % 16 = 1 }
  | 0x19 => { mod := true, zero := true, fv := m2 = 2, imm := m2 ≠ 1 }
  | 0x1C => { imm := n % 16 < 2 }
  | 0x1D => { imm := fn4 = 0 }
  | 0x1F => { imm := true }
  | 0x26 => { mod := fn4 = 1 }
  | _ => {}

/-- R491, R498 step 4: every hint field is one the instruction takes use of. -/
def hintUseOk (n : Nat) (hints : List Word32) : Bool :=
  let u := hintUse n
  hints.all fun h =>
    let x := h.toNat
    if isImm h then u.imm
    else if isMod h then u.mod && (!bit x 19 || u.zero) && (!bit x 18 || u.rov) && (!bit x 14 || u.fv)
    else
      match u.modx with
      | 0 => false
      | 1 => bits x 17 16 ≠ 1
      | 2 => true
      | _ => bits x 17 16 ≠ 1 && bits x 15 14 = 3

/-- R543: sub-elements of the source type, for the `abs` form. -/
def srcCount (n : Nat) : Nat :=
  let t := n % 8
  let fn4 := bits n 6 3
  match majorOf n with
  | 0x08 | 0x09 | 0x0A | 0x0B => intCount t
  | 0x0F => if fn4 = 1 && bit n 12 then intCount (bits n 9 7)
            else if fn4 = 2 then (match t with | 1 => 1 | 2 => 2 | 3 => 2 | _ => 4) else fltCount t
  | 0x0C | 0x0D | 0x0E | 0x10 => fltCount t
  | _ => 1

/-- R490, R498 step 6: the must-be-zero and enumerated fields of the hint words, S included; and the hints a form requires. -/
def hintFieldsOk (n : Nat) (hints : List Word32) : Bool :=
  let fn4 := bits n 6 3
  let hasFv := hints.any fun h => isMod h && bit h.toNat 14
  let hasImm := hints.any isImm
  (hints.all fun h =>
    let x := h.toNat
    !bit x 31 &&
      (if isImm h then true
       else if isMod h then x % 256 = 0
       else bits x 17 16 < 2 && modxParmOk (bits x 15 14) (x % 16384)
         && (bits x 15 14 ≠ 1 || x % 8 < srcCount n))) &&
  (match majorOf n with
   | 0x14 | 0x15 => bits n 6 4 ≠ 2 || hasFv
   | 0x16 | 0x17 | 0x19 => bits n 5 4 ≠ 2 || hasFv
   | 0x01 => !(fn4 = 2 && n % 8 = 2) || hasImm
   | 0x1D => fn4 ≠ 0 || hasImm
   | _ => true)

/-- R464, R498 step 7. -/
def hintRndOk (hints : List Word32) : Bool :=
  hints.all fun h => !(isMod h && bit h.toNat 18) || bits h.toNat 17 15 < 6

/-- R499, R498 step 8: the feature an instruction needs is present; `feat` hides capabilities. -/
def featureOk (n : Nat) (feat : BitVec 7) : Bool :=
  let fn4 := bits n 6 3
  match majorOf n with
  | 0x1D => !feat.getLsbD 0
  | 0x26 => !feat.getLsbD 1
  | 0x23 => !feat.getLsbD 2
  | 0x22 => fn4 ≠ 5 || !feat.getLsbD 3
  | 0x20 => fn4 ≠ 7 || !feat.getLsbD 4
  | 0x00 => fn4 ≠ 5 || !feat.getLsbD 5
  | 0x1A => n % 8 ≠ 3 || !feat.getLsbD 6
  | _ => true

/-- R494, R498 step 10: known control registers. -/
def ctlKnown (c : Nat) : Bool := c < 0x20

/-- Classes of registers. -/
def clsS : Nat := 0
def clsV : Nat := 1
def clsK : Nat := 2

/-- The registers an instruction reads and those it writes, class and number, `fv` the fourth register (R421, R482). -/
def regsOf (i : Instr) (fv : Option Nat) : List (Nat × Nat) × List (Nat × Nat) :=
  let S (r : BitVec 6) : Nat × Nat := (0, r.toNat)
  let V (r : BitVec 6) : Nat × Nat := (1, r.toNat)
  let K (r : BitVec 3) : Nat × Nat := (2, r.toNat)
  let F : List (Nat × Nat) := match fv with | some r => [(1, r)] | none => []
  let sr (d a b : BitVec 6) (i : BitVec 1) := ((if i = 1 then [S a] else [S a, S b]), [S d])
  let vr (d a b : BitVec 6) := ([V a, V b], [V d])
  let vu (d a : BitVec 6) := ([V a], [V d])
  let vc (d a b : BitVec 6) := ([V a, V b] ++ (if fv.isSome then F else [V d]), [V d])
  -- address operands of an M form by mode
  let ad (m : Nat) (b : BitVec 6) : List (Nat × Nat) := if m = 1 then [V b] else if m = 2 then S b :: F else [S b]
  let card (a : BitVec 6) : List (Nat × Nat) := (List.range 8).map fun k => (0, a.toNat + k)
  let pair (d : BitVec 6) : List (Nat × Nat) := [S d, (0, d.toNat + 1)]
  match i with
  | .getc _ d _ => ([], [S d])
  | .getcF _ d a => ([S a], [S d])
  | .setc _ _ b => ([S b], [])
  | .setcF _ a b => ([S a, S b], [])
  | .setfmt _ b => ([S b], [])
  | .setfmtM _ a b => ([S a, S b], [])
  | .widf _ d _ => ([], [V d])
  | .widfAll _ d => ([], [V d])
  | .capq _ d a => ([S a], [S d])
  | .now _ d => ([], [S d])
  | .bal _ _ => ([], [(0, 63)])
  | .bcAny _ k _ | .bcNone _ k _ | .bcAll _ k _ | .bcNall _ k _ => ([K k], [])
  | .bcEq _ r _ | .bcNe _ r _ | .bcLt _ r _ | .bcGe _ r _ | .bcGt _ r _ | .bcLe _ r _ => ([S r], [])
  | .jr _ r => ([S r], [])
  | .jalr _ r => ([S r], [(0, 63)])
  | .vif _ k _ | .vdo _ k _ => ([K k], [])
  | .vwhile _ k | .vbrk _ k => ([K k], [])
  | .vany _ k d | .vall _ k d => ([K k], [S d])
  | .sadd _ d a b i | .ssub _ d a b i | .sand _ d a b i | .sor _ d a b i | .sxor _ d a b i | .sandn _ d a b i
  | .sshl _ d a b i | .sshr _ d a b i | .ssra _ d a b i | .sseq _ d a b i | .ssne _ d a b i | .sslt _ d a b i
  | .ssltu _ d a b i | .ssle _ d a b i | .ssleu _ d a b i | .smin _ d a b i | .smax _ d a b i
  | .smul _ d a b i | .smulh _ d a b i | .smulhu _ d a b i | .sdiv _ d a b i | .sdivu _ d a b i | .srem _ d a b i
  | .sremu _ d a b i | .srotl _ d a b i | .srotr _ d a b i => sr d a b i
  | .saddi _ d a _ => ([S a], [S d])
  | .sclz _ d a | .sctz _ d a | .spopc _ d a | .sbrev _ d a | .sbswap _ d a => ([S a], [S d])
  | .vadd _ d a b _ | .vsub _ d a b _ | .vadds _ d a b _ | .vsubs _ d a b _ | .vmin _ d a b _ | .vmax _ d a b _
  | .vsll _ d a b _ | .vsrl _ d a b _ | .vsra _ d a b _ | .vcmpeq _ d a b _ | .vcmplt _ d a b _ | .vcmple _ d a b _
  | .vmul _ d a b _ | .vmulh _ d a b _ | .vwmul _ d a b _ | .vand _ d a b _ | .vor _ d a b _ | .vxor _ d a b _
  | .vfadd _ d a b _ | .vfsub _ d a b _ | .vfmin _ d a b _ | .vfmax _ d a b _ | .vfsgn _ d a b _ | .vfmul _ d a b _
  | .vfdiv _ d a b _ | .vfcmpEq _ d a b _ | .vfcmpNe _ d a b _ | .vfcmpLt _ d a b _ | .vfcmpLe _ d a b _
  | .vfcmpGt _ d a b _ | .vfcmpGe _ d a b _ | .vfcmpOrd _ d a b _ | .vfcmpUno _ d a b _ | .vpack _ d a b _
  | .vscale _ d a b _ | .vshfl _ d a b _ => vr d a b
  | .vabs _ d a _ | .vneg _ d a _ | .vnot _ d a _ | .vpopc _ d a _ | .vfabs _ d a _ | .vfneg _ d a _
  | .vfsqrt _ d a _ | .vfclass _ d a _ | .vunpack _ d a _ _ | .vrcp _ d a _ | .vrsqrt _ d a _ | .vexp2 _ d a _
  | .vlog2 _ d a _ | .vsin _ d a _ | .vcos _ d a _ | .vtanh _ d a _ | .vscan _ d a _ _ _ | .vred _ d a _ _
  | .vcompress _ d a | .vexpand _ d a | .vmov _ d a => vu d a
  | .vcvt _ d a _ _ _ => ([V a, V d], [V d])
  | .vcvti _ d a _ _ _ _ => ([V a, V d], [V d])
  | .vaddi _ d a _ _ => vu d a
  | .vmadd _ d a b _ | .vdot4 _ d a b _ | .vfma _ d a b _ | .vfms _ d a b _ | .vfnma _ d a b _ => vc d a b
  | .vbcast _ d a b _ => ([V a, S b], [V d])
  | .kand _ d a b | .kor _ d a b | .kxor _ d a b | .kandn _ d a b => ([K a, K b], [K d])
  | .knot _ d a | .kmov _ d a => ([K a], [K d])
  | .kpop _ d a | .kffs _ d a => ([K a], [S d])
  | .vsplat _ d a _ => ([S a], [V d])
  | .vext _ d a b _ => ([V a, S b], [S d])
  | .vins _ d a b _ => ([S a, S b, V d], [V d])
  | .vsel _ d a b k => ([V a, V b, K k], [V d])
  | .kvec _ d a => ([K a], [V d])
  | .veck _ d a => ([V a], [K d])
  | .ld _ d b p m _ => (ad m.toNat b ++ [S p], [V d])
  | .pf _ b p m _ => (ad m.toNat b ++ [S p], [])
  | .st _ d b p m _ => (ad m.toNat b ++ [S p, V d], [])
  | .sld _ d b p m _ | .sldFePeek _ d b p m _ | .sldFeConsume _ d b p m _ => (ad m.toNat b ++ [S p], [V d])
  | .sst _ d b p m _ | .sstFull _ d b p m _ => (ad m.toNat b ++ [S p, V d], [])
  | .aadd _ d b p _ | .afadd _ d b p _ | .amin _ d b p _ | .amax _ d b p _ | .aand _ d b p _ | .aor _ d b p _
  | .axor _ d b p _ | .axch _ d b p _ =>
    ([V b, S p, V d] ++ (match fv with | some r => [(0, r)] | none => []), [V d])
  | .ainc _ d b p _ => ([V b, S p] ++ (match fv with | some r => [(0, r)] | none => []), [V d])
  | .acas _ d b p _ =>
    ([V b, S p, V d, (1, d.toNat + 1)] ++ (match fv with | some r => [(0, r)] | none => []), [V d])
  | .saadd _ d b p _ m | .samin _ d b p _ m | .samax _ d b p _ m | .saxch _ d b p _ m =>
    (ad m.toNat b ++ [S p, V d], [V d])
  | .binit _ a b | .bexp _ a b => ([S a, S b], [])
  | .barr _ d a b => ([S a, S b], [S d])
  | .bwait _ a b _ => ([S a, S b], [])
  | .btry _ d a b _ => ([S a, S b], [S d])
  | .waitc _ d b p _ => ([S d, S b, S p], [S d])
  | .wmon _ d b p _ => ([S d, S b, S p], [])
  | .wtest _ d => ([], [S d])
  | .tmbegin _ a b => ([S a, S b], [])
  | .tmstat _ d => ([], [S d])
  | .salloc _ d a b _ _ => ([S a, S b], [S d])
  | .sfree _ a | .sunmap _ a | .sflush _ a => ([S a], [])
  | .smap _ a b _ _ => ([S a, S b], [])
  | .lds _ d b p _ => ([S b, S p], [S d])
  | .sts _ d b p _ => ([S b, S p, S d], [])
  | .enqCopy _ d a | .enqMatw _ d a | .enqMata _ d a | .enqMdrain _ d a | .enqGather _ d a | .enqScat _ d a
  | .enqMerge _ d a | .enqKscan _ d a => (card a, [S d])
  | .chain _ a => ([S a], [])
  | .cstat _ d a _ _ => ([S a], [S d])
  | .kvopen _ d a | .kvopenDs _ d a => ([S a], pair d)
  | .kvclose _ a => ([S a], [])
  | .kvapp _ d a b | .kvtrunc _ d a b | .kvfork _ d a b | .kvlook _ d a b => ([S a, S b], pair d)
  | .kvlookIns _ d a b => ([S a, S b, (0, d.toNat + 1)], [S d])
  | .kvallocGrow _ d a b | .kvallocGrant _ d a b | .kvallocRsv _ d a b | .kvallocDem _ d a b => ([S a, S b], [S d])
  | .dsin _ d a b | .dsgen _ d a b | .dstrunc _ d a b => ([S a, S b], [S d])
  | .dssnap _ a b | .dsplay _ a b => ([S a, S b], [])
  | .launch _ d a b => ([S a, S b], [S d])
  | .launchWait _ d a => ([S a], [S d])
  | .role _ d a b => ([S a, S b], [S d])
  | .roleAsk _ d a => ([S a], [S d])
  | .qpush _ a b => ([S a, S b], [])
  | .qpop _ d a b | .qtry _ d a b => ([S a, S b], [S d])
  | .mig _ a | .migTrap _ a => ([S a], [])
  | .mstat _ d => ([], [S d])
  | .signalQ _ a | .signalM _ a | .msig _ a | .pcmark _ a => ([S a], [])
  | .pcread _ d a => ([S a], [S d])
  | _ => ([], [])

/-- R283, R498 step 9: the vector registers an instruction names, checked against the allotment. -/
def vregsOf (i : Instr) (fv : Option Nat) : List Nat :=
  let r := regsOf i fv
  (r.1 ++ r.2).filterMap fun p => if p.1 = 1 then some p.2 else none

end Sys2Proof.Machine
end

