-- ==== Sys2Proof/Machine/Ops.lean ====
section
/-! DEFINITION. The named operations over the state: tables, memory, records and counters; finishing, raising and
trapping an instruction; aborting a launch. -/

namespace Sys2Proof.Machine

/-! ## Tables -/

def State.team (s : State) (k : Nat) : Team := Tbl.getD s.teams k {}
def State.setTeam (s : State) (k : Nat) (t : Team) : State := { s with teams := Tbl.put s.teams k t }
def State.modTeam (s : State) (k : Nat) (f : Team → Team) : State := { s with teams := Tbl.modify s.teams k f }
def State.part (s : State) (p : Nat) : Part := Tbl.getD s.parts p {}
/-- R102: configured partitions are those listed. -/
def State.hasPart (s : State) (p : Nat) : Bool := (Tbl.get? s.parts p).isSome
def State.modPart (s : State) (p : Nat) (f : Part → Part) : State := { s with parts := Tbl.modify s.parts p f }
def State.ctx (s : State) (c : Nat) : Ctx := Tbl.getD s.ctxs c {}
def State.modCtx (s : State) (c : Nat) (f : Ctx → Ctx) : State := { s with ctxs := Tbl.upd s.ctxs c {} f }
def State.launch (s : State) (l : Nat) : Launch := Tbl.getD s.launches l {}
def State.modLaunch (s : State) (l : Nat) (f : Launch → Launch) : State := { s with launches := Tbl.modify s.launches l f }
def State.cluster (s : State) (c : Nat) : Cluster := Tbl.getD s.clusters c {}
def State.modCluster (s : State) (c : Nat) (f : Cluster → Cluster) : State :=
  { s with clusters := Tbl.upd s.clusters c {} f }
def State.core (s : State) (c : Nat) : Core := Tbl.getD s.cores c {}
def State.modCore (s : State) (c : Nat) (f : Core → Core) : State := { s with cores := Tbl.upd s.cores c {} f }
def State.emit (s : State) (m : Msg) : State := { s with outbox := s.outbox ++ [m] }
/-- R55, R56: a link carries requests: it is up and its IDE stream is established. -/
def Link.carries (l : Link) : Bool := l.up && l.ide
def State.link (s : State) (l : Nat) : Link := Tbl.getD s.ports.links l {}
/-- The link of port 0, by which the host reaches the device and the device the host. -/
def hostLink : Nat := 0
/-- R34: the tick is enabled. -/
def State.enabledTick (s : State) : Bool := decide (s.now % 4 < s.power.enable)
/-- R34: the first enabled tick from one on: the first tick of every calendar entry is enabled. -/
def State.nextOn (s : State) (t : Nat) : Nat := if t % 4 < s.power.enable then t else (t / 4 + 1) * 4
/-- R56, R127: an MSI-X message, which a link without an IDE stream does not carry. -/
def State.sendMsix (s : State) (v : Nat) : State := if (s.link hostLink).carries then s.emit (.msix v) else s
def State.logIt (s : State) (l : Log) : State := { s with mil := { s.mil with log := s.mil.log ++ [l] } }

/-- The core of a resident team, and the core of a quarter: cores and quarters share numbers (R11). -/
def TeamId.core (i : TeamId) : Nat := i.slot / 16

/-- Whether the launch is admitted and not in a final state. -/
def State.liveLaunch (s : State) (l : Nat) : Bool :=
  match Tbl.get? s.launches l with | some x => x.st ≠ .done | none => false
/-- Uncommitted: admitted, neither flipped nor final (R235). -/
def Launch.uncommitted (l : Launch) : Bool := match l.st with | .flipped _ => false | .done => false | _ => true
/-- R83: the partition's outbound writes are dropped. -/
def Part.drops (P : Part) (now : Nat) : Bool := match P.viral with | some v => decide (v.tv ≤ now) | none => false
/-- R188: tag a is older than tag b. -/
def verOlder (a b : Nat) : Bool := let d := (b + 2 ^ 24 - a) % 2 ^ 24; decide (1 ≤ d ∧ d < 2 ^ 23)

/-! ## Committed memory of the die -/

/-- A byte of committed local memory; memory nothing has written reads zero (R65, R156). -/
def memGet (m : List Host.Cell) (a : Nat) : Byte := Tbl.getD (α := Byte) m a 0
/-- Write a byte, keeping the canonical form. -/
def memPut (m : List Host.Cell) (a : Nat) (b : Byte) : List Host.Cell := Tbl.putD (α := Byte) m a b 0
/-- The canonical form: addresses strictly rising, no entry equal to what an unlisted address reads as. -/
def memWf (m : List Host.Cell) : Bool := Tbl.sorted (α := Byte) m && m.all fun c => c.2 ≠ 0
/-- `n` bytes from an address up. -/
def memBytes (m : List Host.Cell) : Nat → Nat → List Byte
  | _, 0 => []
  | a, n + 1 => memGet m a :: memBytes m (a + 1) n
/-- Write bytes from an address up. -/
def memPuts (m : List Host.Cell) : Nat → List Byte → List Host.Cell
  | _, [] => m
  | a, b :: r => memPuts (memPut m a b) (a + 1) r
/-- A little-endian number of `n` bytes (R4). -/
def memNat (m : List Host.Cell) (a n : Nat) : Nat := leNat (memBytes m a n)
/-- The line at an address's line base. -/
def memLine (m : List Host.Cell) (a : Nat) : Line := BitVec.ofNat 512 (memNat m (lineBase a) 64)
/-- Write the bytes of a line that a mask selects. -/
def memPutLine (m : List Host.Cell) (a : Nat) (mask : BitVec 64) (d : Line) : List Host.Cell :=
  (List.range 64).foldl (fun m i => if mask.getLsbD i then memPut m (lineBase a + i) (lineByte d i) else m) m

/-- Poison of a line (R77). -/
def State.poisoned (s : State) (pa : Nat) : Bool := Tbl.getD s.poison (lineNo pa) false
/-- R77: a committed write; poison leaves a line only when one write covers all of it. -/
def State.commitLine (s : State) (pa : Nat) (mask : BitVec 64) (d : Line) (pois full : Bool) : State :=
  { s with mem := memPutLine s.mem pa mask d
           poison := Tbl.putD s.poison (lineNo pa) (pois || (s.poisoned pa && !full)) false }

/-! ## Counters, events and trace records -/

/-- The distance of two 64-bit count registers, modulo 2^64 (R126, R442, R446). -/
def countGap (p c : Nat) : Nat := (p % 2 ^ 64 + 2 ^ 64 - c % 2 ^ 64) % 2 ^ 64

/-- R443, R444: count `n` events `ev` of a context at a time; an enabled counter wraps modulo 2^48 and then sets `ovf`. -/
def Perf.count (p : Perf) (now ev n : Nat) : Perf :=
  if n = 0 then p
  else
    p.sel.foldl (fun p (q : Nat × BitVec 64) =>
      if bit q.2.toNat 15 ∧ bits q.2.toNat 5 0 = ev then
        let v := (Tbl.getD p.val q.1 0).toNat + n
        { p with val := Tbl.put p.val q.1 (BitVec.ofNat 48 v)
                 sel := if v ≥ 2 ^ 48 then Tbl.put p.sel q.1 (q.2 ||| (1 <<< 63)) else p.sel
                 recent := Tbl.put p.recent q.1 ((now, n) :: (Tbl.getD p.recent q.1 []).filter fun r => decide (now < r.1 + 256)) }
      else p) p
def State.count (s : State) (c ev n : Nat) : State :=
  match Tbl.get? s.ctxs c with
  | some x => if x.perf.sel = [] then s else { s with ctxs := Tbl.put s.ctxs c { x with perf := x.perf.count s.now ev n } }
  | none => s
/-- R443: set a counter. -/
def Perf.setVal (p : Perf) (i : Nat) (v : BitVec 48) : Perf :=
  { p with val := Tbl.putD p.val i v 0, recent := Tbl.del p.recent i }
/-- R443: what a read of a counter may miss at a time: the events of the last 256 ticks. -/
def Perf.late (p : Perf) (now i : Nat) : Nat :=
  (((Tbl.getD p.recent i []).filter fun r => decide (now < r.1 + 256)).map Prod.snd).sum

/-- R442: an event record of a context, dropped when the ring is full; then the `evirq` vector when enabled. -/
def State.postEvent (s : State) (c kind cause : Nat) (arg : Word32) : State :=
  let d := (s.ctx c).dbg
  if countGap d.evprod d.evcons < 16 then
    let r : BitVec 128 := BitVec.ofNat 128 (s.now % 2 ^ 64 * 2 ^ 64 + arg.toNat * 2 ^ 32 + cause % 256 * 256 + kind % 256)
    let s := s.modCtx c fun x => { x with dbg := { x.dbg with ring := Tbl.put x.dbg.ring (d.evprod % 16) r, evprod := d.evprod + 1 } }
    if bit d.evirq.toNat 0 then
      match (s.ctx c).vecs[bits d.evirq.toNat 7 4]? with | some v => s.sendMsix v | none => s
    else s
  else s.modCtx c fun x => { x with dbg := { x.dbg with evovf := true } }

/-- R447: a trace record. -/
def traceRec (ctx kind seq time : Nat) (data : BitVec 128) : BitVec 256 :=
  BitVec.ofNat 256 (data.toNat * 2 ^ 128 + time % 2 ^ 64 * 2 ^ 64 + seq % 2 ^ 16 * 2 ^ 48 + ctx % 1024 * 2 ^ 30 + kind % 256)
/-- R447: the context number of a partition-wide record: no context has it, and a record shows it as 0x3FF. -/
def wideRec : Nat := 0x7FF
/-- R446: write one record into the partition's ring. -/
def State.writeTrace (s : State) (p : Nat) (ctx kind time : Nat) (data : BitVec 128) : State :=
  let P := s.part p
  let a := P.cfg.trbase + P.conf.trprod % (P.cfg.trsize * 128) * 32
  { s with mem := memPuts s.mem a (leBytes 32 (traceRec ctx kind P.conf.seq time data).toNat) }.modPart p fun P =>
    { P with conf := { P.conf with trprod := P.conf.trprod + 1, seq := P.conf.seq + 1 } }
/-- Room in the ring. -/
def Part.traceRoom (P : Part) : Bool := P.cfg.trsize ≠ 0 && decide (countGap P.conf.trprod P.conf.trcons < P.cfg.trsize * 128)
/-- R446, R449: post a record; when the ring is full it is lost and counted, or held when `trstall` and its source allow.
A loss summary goes before any other record. -/
def State.postTrace (s : State) (p ctx kind : Nat) (data : BitVec 128) (holds : Bool) : State :=
  let P := s.part p
  if P.cfg.trsize = 0 then s
  else
    let s := if P.conf.lost ≠ 0 && P.traceRoom then
        (s.writeTrace p wideRec 6 s.now (BitVec.ofNat 128 P.conf.lost)).modPart p fun P => { P with conf := { P.conf with lost := 0 } }
      else s
    let P := s.part p
    if P.traceRoom && P.conf.hold = [] then s.writeTrace p ctx kind s.now data
    else if P.cfg.trstall && holds && decide (P.conf.hold.length < 64) then
      s.modPart p fun P => { P with conf := { P.conf with hold := P.conf.hold ++ [traceRec ctx kind 0 s.now data] } }
    else
      (s.modPart p fun P => { P with conf := { P.conf with lost := P.conf.lost + 1 } }).count ctx 62 1
/-- R448: whether a source bit of a context's `trctl` is set. -/
def State.traces (s : State) (c b : Nat) : Bool := bit (s.ctx c).dbg.trctl.toNat b
/-- R447: launch event record: what 0 admitted, 1 started, 2 scheduled, 3 committed, 4 aborted, 5 killed. -/
def State.traceLaunch (s : State) (h : LHead) (what cause t : Nat) : State :=
  if s.traces h.ctx 0 then
    s.postTrace h.part h.ctx 2 (BitVec.ofNat 128 (h.lid + h.ver * 2 ^ 24 + what * 2 ^ 48 + cause * 2 ^ 56 + t % 2 ^ 64 * 2 ^ 64)) true
  else s

/-! ## Causes (R425, R431) -/

def causeAbt : List Nat :=
  [0x03, 0x06, 0x0A, 0x0C, 0x0D, 0x3D, 0x48, 0x49, 0x4A, 0x4B, 0x4F, 0x50, 0x51, 0x52, 0x53, 0x54, 0x5D, 0x5E, 0x5F, 0x60,
   0x74, 0x7B, 0x8C, 0xA4, 0xB5]
def causeFat : List Nat := [0x2B, 0x8D, 0x8E]
def causeEvt : List Nat := [0x89, 0x8B, 0x90]
/-- R425: 0 recoverable, 1 launch-aborting, 2 context-fatal, 3 partition event. -/
def causeClass (c : Nat) : Nat := if c ∈ causeAbt then 1 else if c ∈ causeFat then 2 else if c ∈ causeEvt then 3 else 0
/-- R431: causes whose default action is halt. -/
def causeHalts (c : Nat) : Bool := decide (0xB1 ≤ c ∧ c ≤ 0xB4)

/-! ## Continuations (R289) -/

/-- R289: fields of a continuation. -/
def contPart (c : BitVec 1024) : Nat := bits c.toNat 253 248
def contRet (c : BitVec 1024) : Bool := bit c.toNat 247
def contHop (c : BitVec 1024) : Nat := bits c.toNat 246 244
def contLset (c : BitVec 1024) : Nat := bits c.toNat 243 236
def contImg (c : BitVec 1024) : Nat := bits c.toNat 235 226
def contLane (c : BitVec 1024) : Nat := bits c.toNat 225 216
def contTeam (c : BitVec 1024) : Nat := bits c.toNat 215 184
def contVer (c : BitVec 1024) : Nat := bits c.toNat 183 160
def contFmt (c : BitVec 1024) : Nat := bits c.toNat 159 128
def contPc (c : BitVec 1024) : Nat := bits c.toNat 127 96
def contWct (c : BitVec 1024) : Nat := bits c.toNat 95 64
def contWid (c : BitVec 1024) : Nat := bits c.toNat 63 0
def contS (c : BitVec 1024) (i : Nat) : Nat := bits c.toNat (831 + 64 * i) (768 + 64 * i)
def contV (c : BitVec 1024) (i : Nat) : Nat := bits c.toNat (319 + 64 * i) (256 + 64 * i)
/-- Whether a continuation or a return belongs to a version: its origin die, partition and tag. -/
def contIs (c : BitVec 1024) (die part ver : Nat) : Bool := contTeam c / 2 ^ 20 = die && contPart c = part && contVer c = ver
/-- This die's PBR ID, as a continuation carries it. -/
def myDie : Nat := Config.pbrId % 4096
/-- R227, R310: what is under way between units of the die for the teams of an ended launch: continuations and returns of
the version, and refusals and retire notices for its teams. -/
def netOf (die part ver : Nat) (gone : List Nat) (x : Instr × Arg) : Bool :=
  match x.1 with
  | .continuationArrival => contIs (x.2.wide.setWidth 1024) die part ver
  | .returnArrival => contIs (x.2.wide.setWidth 1024) die part ver
  | .retireNotice => decide (x.2.n0 ∈ gone) || decide (x.2.n2 ≠ 0 ∧ x.2.n2 - 1 ∈ gone)
  | .continuationRefused => decide (x.2.n0 ∈ gone)
  | _ => false

/-! ## Retirement of a launch from the sequencer (R123, R125, R126) -/

/-- R123, R125, R126: a launch in its final state: its completion record is queued and its outcome remembered. -/
def State.finalRecord (s : State) (c : Nat) (r : CRec) (refused : Bool) : State :=
  s.modCtx c fun x =>
    let x := if x.crecs.length < 64 ∧ x.clate = [] then { x with crecs := x.crecs ++ [r] } else { x with clate := x.clate ++ [r] }
    { x with retired := ({ pid := r.pid, lid := r.lid, committed := decide (r.status = 0), ver := r.ver, cause := r.cause, refused := refused } :: x.retired).take 256 }

/-- The launches to abort with one: it and every launch chained to it, directly or not (R198). -/
def chained (ls : Tbl Launch) : Nat → List Nat → List Nat
  | 0, acc => acc
  | n + 1, acc =>
    let more := ls.filterMap fun p =>
      match p.2.head.chain with
      | some q => if q ∈ acc ∧ p.1 ∉ acc ∧ p.2.uncommitted then some p.1 else none
      | none => none
    if more = [] then acc else chained ls n (acc ++ more)

/-- R226, R219: whether an abort event takes effect on a launch now. -/
def Launch.abortable (l : Launch) (now : Nat) : Bool :=
  match l.st with
  | .timed _ t _ => decide (t > now) && l.dies = []
  | .notified _ _ => l.dies = []
  | .prepared => false
  | .flipped _ => false
  | .done => false
  | _ => true

/-- R227, R310: what one aborted launch leaves behind: nothing of its teams, cards, tiles, mappings, claims and shadow, nor of its
continuations and returns, landed, queued or in flight. A group holds continuations of one version (R298). -/
def State.discard (s : State) (lk : Nat) : State :=
  let l := s.launch lk
  let gone := (s.teams.filter fun p => p.2.id.launch = lk).map Prod.fst
  let s := { s with
    teams := s.teams.filter fun p => p.2.id.launch ≠ lk
    clusters := Tbl.mapV s.clusters fun _ c =>
      { c with cards := c.cards.filter fun k => k.launch ≠ lk
               open_ := c.open_.filter fun g => (c.cards.all fun k => k.launch ≠ lk || k.tag ≠ g)
               tiles := c.tiles.filter fun k => k.2.launch ≠ lk
               maps := c.maps.filter fun k => k.2.launch ≠ lk
               groups := c.groups.filter fun (g : Group) => !(g.conts.any fun k => contIs k myDie l.head.part l.head.ver) }
    net := s.net.filter fun x => !netOf myDie l.head.part l.head.ver gone x
    ports := { s.ports with q := s.ports.q.filter fun w => w.launch ≠ some lk || w.left }
    xlat := { s.xlat with
      reqs := s.xlat.reqs.filter (fun r =>
        match r.for_ with | .acc t _ _ => decide (t ∉ gone) | .far t => decide (t ∉ gone) | .held k _ => decide (k ≠ lk) | _ => true)
      moves := s.xlat.moves.map fun (m : Move) => ({ m with queue := m.queue.filter (fun x => match x.who with | .acc t _ _ => decide (t ∉ gone) | _ => true) } : Move) } }
  let s := s.modPart l.head.part fun P =>
    { P with kv := Tbl.mapV P.kv fun _ e => if e.claim = some lk then { e with claim := none } else e
             tmQ := P.tmQ.filter fun t => t ∉ gone
             tmTok := (match P.tmTok with | some t => if t ∈ gone then none else some t | none => none)
             saved := P.saved.filter fun t => t ∉ gone }
  s

/-- R657: the launches that an aborting launch has queued are not admitted. -/
def State.markDead (s : State) (lk : Nat) : State :=
  { s with ctxs := Tbl.mapV s.ctxs fun _ x =>
      { x with streams := Tbl.mapV x.streams fun _ q =>
          { q with pend := q.pend.map fun p => if p.issuer = some lk ∧ p.dead = none then { p with dead := some p.lid } else p } } }

/-- R218, R227: a launch's pool homes, of its data and of its monitors, are told; the numbers of the messages. -/
def State.tellAbort (s : State) (l : Launch) : List Nat × State :=
  (l.dies ++ l.mdies).dedup.foldl (fun r d =>
    let n := r.2.fresh
    (r.1 ++ [n], ({ r.2 with fresh := n + 1, xlat := { r.2.xlat with reqs := r.2.xlat.reqs ++ [{ tag := n, for_ := .die d, addr := 0, write := true, since := r.2.now }] } } : State).emit
      (.poolAbort n d l.head.part l.head.ver))) ([], s)

/-- One launch reaches the final state aborted (status 1) or killed (status 2): R225, R227, R230, R236. -/
def State.abortOne (s : State) (lk cause status : Nat) : State :=
  let l := s.launch lk
  let (ws, s) := (s.discard lk).tellAbort l
  let s := { s with launches := Tbl.mapV (Tbl.del s.launches lk) fun _ o => { o with edges := o.edges.filter (· ≠ lk) } }
  let s := s.finalRecord l.head.ctx { pid := l.head.pid, time := s.now, ver := l.head.ver, lid := l.head.lid, cause := cause, status := status, stream := l.head.stream, waits := ws } false
  let s := (s.markDead lk).kvSettle l.head.part
  (s.traceLaunch l.head (if status = 2 then 5 else 4) cause 0).count l.head.ctx 57 1

/-- R225 to R227: an abort event on a launch, with the launches chained to it (cause 0x4B, R198); no effect on one whose
commit prevails (R226, R219). -/
def State.abortLaunch (s : State) (lk cause status : Nat) : State :=
  match Tbl.get? s.launches lk with
  | none => s
  | some l =>
    if l.abortable s.now then
      let all := chained s.launches s.launches.length [lk]
      all.foldl (fun s k => s.abortOne k (if k = lk then cause else 0x4B) (if k = lk then status else 1)) s
    else s

/-- R136, R225: a reset ends a launch with status killed and cause 0x51; no effect on one whose commit R137 lets complete. -/
def State.killLaunch (s : State) (lk : Nat) : State :=
  match Tbl.get? s.launches lk with
  | some l => if l.abortable s.now then s.abortOne lk 0x51 2 else s
  | none => s

/-- R425: a context-fatal cause: every uncommitted launch of the context aborts, admission stops, `fatal` is set and an
event record of kind 3 is posted. -/
def State.ctxFatal (s : State) (c cause : Nat) : State :=
  let ls := (s.launches.filter fun p => p.2.head.ctx = c && p.2.uncommitted).map Prod.fst
  let s := ls.foldl (fun s k => s.abortLaunch k cause 1) s
  let s := s.modCtx c fun x => { x with dbg := { x.dbg with fatal := true, fcause := cause } }
  s.postEvent c 3 cause 0

/-! ## Finishing an instruction -/

/-- Drop the finished entries at the head of a replay queue: it runs from the oldest unfinished entry (R419). -/
def pruneRq : List Entry → List Entry
  | [] => []
  | e :: r => if e.done && e.raised.isNone then pruneRq r else e :: r

/-- R445: the event an instruction counts by its major: vector FP, vector integer, special function, cross-lane or
scalar. -/
def classEvent (word : Word32) : Option Nat :=
  let m := majorOf word.toNat
  if 0x0C ≤ m ∧ m ≤ 0x0F then some 8
  else if 0x08 ≤ m ∧ m ≤ 0x0B then some 9
  else if m = 0x10 then some 10
  else if m = 0x11 then some 11
  else if 0x02 ≤ m ∧ m ≤ 0x07 then some 12
  else none

/-- R445: the counts of one issued instruction: instruction, passes and its class. -/
def State.countIssue (s : State) (ctx : Nat) (word : Word32) (passes : Nat) : State :=
  let s := (s.count ctx 1 1).count ctx 2 passes
  match classEvent word with | some e => s.count ctx e 1 | none => s

/-- A long result of the team is outstanding (R480, R483). -/
def TeamSync.longOut (y : TeamSync) : Bool := y.rq.any fun e => !e.done && (e.res ≠ [] || e.dest ≠ [])

/-- Leave the issue slot: the entry joins the replay queue, the PC moves on (for a re-injected entry it stays), and with S
set the team parks until its long results are written (R483). The core is taken for the instruction's passes (R254). -/
def finishAt (s : State) (c : Cur) (t : Team) (z : BitVec 1) (next : Word) (e : Entry) (passes : Nat) : State :=
  let rq := pruneRq (t.sync.rq ++ [{ e with id := t.sync.nextEntry }])
  let sy := { t.sync with rq := rq, nextEntry := t.sync.nextEntry + 1 }
  let park := if t.sync.park ≠ .run then t.sync.park else if z = 1 && sy.longOut then .switch else .run
  let t' := { t with
    flow := { t.flow with pc := (if c.inj then t.flow.pc else next), hints := [] }
    sync := { sy with park := park }
    sched := { t.sched with lastIssue := s.now, readySince := s.now, waited := 0, aged := false, retry := false, skipBp := false, stepped := t.sched.stepping } }
  let sw := match park with | .switch => t.sync.park = .run | _ => false
  ({ s.setTeam c.team t' with cur := none, issued := Tbl.put s.issued t.id.core (max 1 passes) }.countIssue
    t.id.ctx c.entry.word passes).count t.id.ctx 5 (b2n sw)

/-- The address after an instruction word. -/
def Cur.next (c : Cur) : Word := c.entry.pc + 4

/-- Finish with short results, written at once (R481). -/
def finishShort (s : State) (c : Cur) (t : Team) (z : BitVec 1) (ws : List RegWrite) (passes : Nat) : State :=
  finishAt s c { t with regs := t.regs.writes ws } z c.next { c.entry with done := true } passes

/-- The registers a list of writes names. -/
def destsOf (ws : List RegWrite) : List (Nat × Nat) :=
  (ws.map fun w => match w with | .s r _ => (0, r) | .v r _ _ => (1, r) | .k r _ _ => (2, r)).dedup

/-- Finish with long results, written by a later event (R480, R482). -/
def finishLong (s : State) (c : Cur) (t : Team) (z : BitVec 1) (ws : List RegWrite) (passes : Nat) : State :=
  if ws = [] then finishAt s c t z c.next { c.entry with done := true } passes
  else finishAt s c t z c.next { c.entry with res := ws, dest := destsOf ws } passes

/-- Finish by a jump (R514). -/
def finishJump (s : State) (c : Cur) (t : Team) (z : BitVec 1) (ws : List RegWrite) (next : Word) : State :=
  finishAt s c { t with regs := t.regs.writes ws } z next { c.entry with done := true } 1

/-- The hint words of the instruction being performed. -/
def Cur.hintWords (c : Cur) : List Word32 :=
  (if c.entry.modw = 0 then [] else [c.entry.modw]) ++ (if c.entry.immw = 0 then [] else [c.entry.immw])

/-- The instruction waits without having issued: its team is not ready until the reason is gone, and then issues it
again (R241, R251). A parked or stalled team keeps its PC at the instruction. -/
def waitHere (s : State) (c : Cur) (t : Team) (p : Park) : State :=
  let t' := { t with
    flow := { t.flow with pc := (if c.inj then t.flow.pc else c.entry.pc), hints := (if c.inj then [] else c.hintWords) }
    sync := { t.sync with park := p, reinj := (if c.inj then c.entry :: t.sync.reinj else t.sync.reinj) }
    sched := { t.sched with lastIssue := s.now } }
  { s.setTeam c.team t' with cur := none, issued := Tbl.put s.issued t.id.core 1 }

/-! ## The trap (R418 to R430) -/

/-- The oldest entry that raised a cause (R420). -/
def headRaised (rq : List Entry) : Option (Entry × Raised) :=
  match rq with
  | [] => none
  | e :: r => match e.raised with | some x => some (e, x) | none => headRaised r

/-- R421: the word mask of the passes of a team whose lanes have all completed. -/
def passesDone (lanes : Nat) (m : Mask) : Word32 :=
  (List.range (lanes / 32)).foldl (fun x w => if bits m.toNat (32 * w + 31) (32 * w) = 0 then x ||| (1 <<< w) else x) 0
/-- R420: a cause that its entry's own checks do not raise again: the guard fault and the lost range, which their team took up (R91, R339). -/
def Raised.takenUp (r : Raised) : Bool := r.cause = 0x39 || r.cause = 0x8A
/-- R421: an entry as a frame keeps it: only the chosen cause's entry faults, the other causes are discarded and arise again at its
re-injection, and accesses keep virtual addresses only. For a guard fault the head entry's PC reads zero (R422). -/
def frameEntry (lanes hd : Nat) (noPc : Bool) (e : Entry) : Entry :=
  let e := if e.done then { e with gov := 0 } else e
  { e with raised := (if e.id = hd then none else e.raised.filter Raised.takenUp), faulting := decide (e.id = hd), accs := [], res := [], dest := [],
           pc := (if noPc && e.id = hd then 0 else e.pc), passes := passesDone lanes e.gov }

/-- R301, R425: the launch of a team aborts with a cause; a foreign launch is told, and the landed team ends. -/
def State.abortTeam (s : State) (k : Nat) (t : Team) (cause : Nat) : State :=
  if t.id.foreign then
    { s with teams := Tbl.del s.teams k }.emit (.landedCause (t.id.oteam / 2 ^ 20) t.id.opart t.id.lver cause)
  else s.abortLaunch t.id.launch cause 1

/-- R447: trap event record. -/
def State.traceTrap (s : State) (t : Team) (cause : Nat) (pc : Word) : State :=
  let s := s.count t.id.ctx 61 1
  if s.traces t.id.ctx 1 ∨ t.id.landed then
    s.postTrace t.id.part t.id.ctx 3
      (BitVec.ofNat 128 (cause + causeClass cause * 256 + t.id.index * 2 ^ 32 + pc.toNat % 2 ^ 32 * 2 ^ 64)) true
  else s

/-- R425, R427, R428, R429, R301: what a formed cause does to its team: no handler in a landed team, abort for the
launch-aborting class, the double fault in a handler, debug halt, entry to the handler, or the default action abort. -/
def State.deliver (s : State) (k : Nat) (fr : Frame) : State :=
  let t := s.team k
  let d := (s.ctx t.id.ctx).dbg
  let s := s.traceTrap t fr.cause fr.tpc
  if t.id.landed then s.abortTeam k t fr.cause
  else if causeClass fr.cause = 2 then s.ctxFatal t.id.ctx fr.cause
  else if t.sync.inHandler then s.abortTeam k t 0xB5
  else if causeClass fr.cause = 1 then s.abortTeam k t fr.cause
  else
    let halts := causeHalts fr.cause && d.att
    if halts ∨ bit d.tvec.toNat 63 then
      let fr := { fr with valid := true, dent := t.flow.D, tfmt := t.regs.fmt, tdepth := t.flow.stack.length }
      let s := if t.sched.stepping then s.modCtx t.id.ctx fun x => { x with dbg := { x.dbg with stepped := true } } else s
      if halts then
        (s.setTeam k { t with
          sync := { t.sync with rq := [], frame := fr, park := .tretWait, reinj := [] }
          flow := { t.flow with hints := [] }
          sched := { t.sched with halted := true, stepping := false, trapHalt := true } }).postEvent t.id.ctx 2 fr.cause 0
      else
        let s := s.setTeam k { t with
          sync := { t.sync with rq := [], frame := fr, park := .run, reinj := [], inHandler := true }
          flow := { t.flow with hints := [], D := t.flow.pres, pc := BitVec.ofNat 64 (bits d.tvec.toNat 31 0) }
          sched := { t.sched with halted := t.sched.halted || t.sched.stepping, stepping := false } }
        if t.sched.stepping then s.postEvent t.id.ctx 2 0xB3 0 else s
    else s.abortTeam k t fr.cause

/-- R449: the queue of held launch and trap records is full. -/
def Part.traceFull (P : Part) : Bool := P.cfg.trstall && decide (64 ≤ P.conf.hold.length)
/-- R449: a trapping team waits while its trap record has no room in the held queue. R95, R710: no frame is formed of a frozen
team until its release. -/
def State.canTrap (s : State) (t : Team) : Bool :=
  t.sched.frozen.isNone && !((s.part t.id.part).traceFull && (s.traces t.id.ctx 1 || t.id.landed))

/-- R421, R493: the address of the first instruction not issued; a group is one unit, so inside one it is its first word. -/
def Team.resumePc (t : Team) : Word := if t.flow.hints = [] then t.flow.pc else t.flow.gpc

/-- R420 to R422: form the frame of a team whose issued passes have all completed or raised, and deliver its cause: that
of the oldest entry that raised one, or a cause taken without a faulting pass. -/
def State.takeTrap (s : State) (k : Nat) : State :=
  let t := s.team k
  match headRaised t.sync.rq with
  | some (e, r) =>
    let noPc := decide (r.cause = 0x39)
    s.deliver k { tpc := t.resumePc, cause := r.cause, cls := causeClass r.cause, noPc := noPc, info := r.info,
                  rq := (pruneRq t.sync.rq ++ t.sync.reinj).map (frameEntry t.regs.lanes e.id noPc) }
  | none =>
    match t.sched.pendCause with
    | some r =>
      let t := { t with sched := { t.sched with pendCause := none } }
      (s.setTeam k t).deliver k { tpc := t.resumePc, cause := r.cause, cls := causeClass r.cause, info := r.info,
                                  rq := (pruneRq t.sync.rq ++ t.sync.reinj).map (frameEntry t.regs.lanes t.sync.nextEntry false) }
    | none => s

/-- What is left of an entry waits for another agent without bound: a `.fe` load or a parked `waitc` (R341, R349). -/
def Entry.waits (e : Entry) : Bool :=
  e.res = [] && ((e.accs = [] && e.stage = 2) || (e.accs ≠ [] && e.accs.all fun a => match a.kind with | .fe _ => a.wait = .ready | _ => false))
/-- Every issued pass has completed or raised (R420), the lanes of a raising pass that raised nothing among them; a wait without
bound becomes a replay entry. -/
def TeamSync.settled (y : TeamSync) : Bool :=
  y.rq.all fun e => e.done || (e.raised.isSome && e.accs = [] && e.res = []) || (y.rq.any (fun x => x.raised.isSome) && e.raised.isNone && e.waits)

/-- A trap without a faulting pass (R422, R439, R440): taken at once when every issued pass is settled, otherwise when
they are. -/
def State.trapNow (s : State) (k : Nat) (r : Raised) : State :=
  let t := s.team k
  let s := s.setTeam k { t with sched := { t.sched with pendCause := some r } }
  if t.sync.settled && s.canTrap t then s.takeTrap k else s

/-- R420: a pass raises a cause for the lanes of `m`: the instruction stays in the replay queue unperformed for them,
nothing more issues, and when no other pass is outstanding the frame is formed at once. -/
def State.raise (s : State) (c : Cur) (t : Team) (r : Raised) (m : Mask) : State :=
  let e := { c.entry with raised := some r, faulting := true, gov := m, id := t.sync.nextEntry }
  let t' := { t with
    sync := { t.sync with rq := t.sync.rq ++ [e], nextEntry := t.sync.nextEntry + 1, park := .run }
    flow := { t.flow with pc := (if c.inj then t.flow.pc else c.next), hints := [] }
    sched := { t.sched with lastIssue := s.now } }
  let s' := { s.setTeam c.team t' with cur := none, issued := Tbl.put s.issued t.id.core 1 }
  if t'.sync.settled && s'.canTrap t' then s'.takeTrap c.team else s'

/-- R432: raise the cause of an instruction that counts as completed. -/
def State.raiseDone (s : State) (c : Cur) (t : Team) (cause : Nat) : State :=
  State.raise s { c with entry := { c.entry with done := true } } t { cause := cause } (govTeam t c)

/-- Raise a cause for the whole active mask, with no information (kind X). -/
def State.raiseX (s : State) (c : Cur) (t : Team) (cause : Nat) : State :=
  s.raise c t { cause := cause } (govTeam t c)
/-- Information kind S: bank, offset, count (R430). -/
def infoS (bank off n : Nat) : List Word := [BitVec.ofNat 64 bank, BitVec.ofNat 64 off, BitVec.ofNat 64 n]
/-- Information kind Q: object, detail, lane (R430). -/
def infoQ (obj detail lane : Nat) : List Word := [BitVec.ofNat 64 obj, BitVec.ofNat 64 detail, 0, BitVec.ofNat 64 lane]
def State.raiseQ (s : State) (c : Cur) (t : Team) (cause obj detail : Nat) : State :=
  s.raise c t { cause := cause, info := infoQ obj detail 0 } (govTeam t c)

/-! ## The form of a meaning -/

/-- A meaning of a team instruction: it needs the team whose instruction is being performed; without one nothing
happens. -/
def withCur (s : State) (f : Cur → Team → State) : Host.Outcome State Fault Refusal :=
  match s.cur with
  | none => .next s
  | some c => match Tbl.get? s.teams c.team with
    | none => .next s
    | some t => .next (f c t)

/-- R420: a raised cause whose other passes are over is delivered. -/
def State.settle (s : State) (k : Nat) : State :=
  let t := s.team k
  if (headRaised t.sync.rq).isSome && t.sync.settled && s.canTrap t then s.takeTrap k else s

/-- R263, R267: quarters under a gang are being removed: it leaves whole, as it comes back. DESIGN CHOICE: R259 names the teams on the removed
quarters (log 215). -/
def State.reclaims (s : State) (t : Team) : Bool :=
  s.mil.waitQ ≠ [] && !t.id.landed && (decide (t.id.core ∈ s.mil.waitQ) ||
    s.teams.any fun x => x.2.id.launch = t.id.launch && x.2.id.cluster = t.id.cluster && !x.2.id.landed && !x.2.id.loc.isSaved && decide (x.2.id.core ∈ s.mil.waitQ))

/-- A number never used before. -/
def State.take (s : State) : Nat × State := (s.fresh, { s with fresh := s.fresh + 1 })
/-- Draw the next free value's number. -/
def State.draw (s : State) : Nat × State := (s.draws, { s with draws := s.draws + 1 })

end Sys2Proof.Machine
end

