-- ==== Sys2Proof/Machine/Vec.lean ====
section
/-! DEFINITION. What every lane-wise instruction shares: its passes, its writes under merge and zero, and its finish
(R273, R492). -/

namespace Sys2Proof.Machine

/-- R273: the passes of a lane-wise instruction. -/
def lanePasses (t : Team) (c : Cur) : Nat := passCount (gov t c) (t.regs.lanes / 32)

/-- R273, R492: the writes of a lane-wise instruction: `f` in each lane of g, and under `zero` zeros in the present lanes
outside g; nothing when g is empty. -/
def laneWrites (t : Team) (c : Cur) (d : Nat) (f : Nat → Word) : List RegWrite :=
  let g := gov t c
  if g &&& ones t.regs.lanes = 0 then []
  else
    ((lanesOf g t.regs.lanes).map fun l => .v d l (f l)) ++
      (if c.zero then (lanesOf (t.flow.pres &&& ~~~g) t.regs.lanes).map fun l => .v d l 0 else [])

/-- The counts of a lane-wise instruction's skipped words (R445). -/
def State.countSkips (s : State) (t : Team) (c : Cur) : State := s.count t.id.ctx 3 (t.regs.lanes / 32 - lanePasses t c)

/-- A lane-wise instruction with a short result. -/
def laneShort (s : State) (c : Cur) (t : Team) (z : BitVec 1) (d : Nat) (f : Nat → Word) : State :=
  (finishShort s c t z (laneWrites t c d f) (lanePasses t c)).countSkips t c

/-- A lane-wise instruction with a long result. -/
def laneLong (s : State) (c : Cur) (t : Team) (z : BitVec 1) (d : Nat) (f : Nat → Word) : State :=
  (finishLong s c t z (laneWrites t c d f) (lanePasses t c)).countSkips t c

end Sys2Proof.Machine
end

