-- ==== Sys2Proof/Machine/Issue.lean ====
section
/-! DEFINITION. Issue (R251, R252, R419, R421, R440, R479 to R485, R498): fetching the next word of a team, the checks of
the decoding order, and the entry an instruction is performed with. -/

namespace Sys2Proof.Machine

/-- What issuing from a team comes to: a state at once, or an instruction to perform in a state. -/
inductive Issue
  | done (s : State)
  | run (i : Instr) (s : State)

/-- The image a team runs. -/
def State.image (s : State) (t : Team) : Image := Tbl.getD (s.part t.id.part).images t.id.img {}
/-- R478, R508: the word at an offset of the text, none outside it. -/
def Image.word (m : Image) (pc : Nat) : Option Nat :=
  if pc + 4 ≤ m.tlen ∧ pc % 4 = 0 then
    some (leNat ((List.range 4).map fun i => Tbl.getD m.bytes (m.toff + pc + i) 0))
  else none

/-- The instruction word of the group at a PC: past at most two hint words. -/
def Image.groupWord (m : Image) (pc : Nat) : Nat :=
  let w := fun p => (m.word p).getD 0
  if isHint (BitVec.ofNat 32 (w pc)) then
    if isHint (BitVec.ofNat 32 (w (pc + 4))) then w (pc + 8) else w (pc + 4)
  else w pc

/-- R255: a memory instruction by its major. -/
def isMemWord (n : Nat) : Bool := majorOf n ∈ [0x14, 0x15, 0x18, 0x1C, 0x1D, 0x1F]

/-! ## Registers with an unreturned long result (R482, R484, R485) -/

/-- The oldest unfinished entry with a register among its outstanding destinations. -/
def outstanding (rq : List Entry) (r : Nat × Nat) : Option Entry := rq.find? fun e => !e.done && r ∈ e.dest

/-- Content of a register as an overlay holds it. -/
def regVals (t : Team) (r : Nat × Nat) : Tbl Word :=
  match r.1 with
  | 0 => [(0, t.regs.getS r.2)]
  | 1 => (List.range t.regs.lanes).map fun l => (l, t.regs.getV r.2 l)
  | _ =>
    let m := if r.2 = 0 then t.flow.active else t.regs.getK r.2
    (List.range t.regs.lanes).map fun l => (l, boolW (m.getLsbD l))

/-- A result write into an overlay of its register. -/
def overlay (r : Nat × Nat) (pick : Nat → Bool) (v : Tbl Word) : RegWrite → Tbl Word
  | .s n x => if r = (0, n) ∧ pick 0 then Tbl.put v 0 x else v
  | .v n l x => if r = (1, n) ∧ pick l then Tbl.put v l x else v
  | .k n l b => if r = (2, n) ∧ pick l then Tbl.put v l (boolW b) else v

/-- R482: what an instruction reads from a register whose long result has not been written: in each lane, independently, the
old value or the result; a result that is not known yet is a free value. -/
def hazardRead (t : Team) (draw : Nat) (e : Entry) (r : Nat × Nat) : Tbl Word :=
  let old := regVals t r
  let old := if e.accs = [] then old else Tbl.mapV old fun l v => if Config.hazardNew draw l then Config.hazardValue draw l else v
  e.res.foldl (overlay r (Config.hazardNew draw)) old

/-! ## The entry -/

/-- The registers an instruction reads, those of its hint words among them: the MOD fourth register, the governing mask
(R273), and the destination under `keep` (R543). -/
def sourcesOf (i : Instr) (c : Cur) : List (Nat × Nat) :=
  let r := regsOf i c.freg
  (r.1 ++ (if c.keep then r.2 else []) ++ (if c.msk = 0 then [] else [(2, c.msk)])).dedup

/-- R421: a captured operand. -/
def captureOp (t : Team) (c : Cur) (r : Nat × Nat) : Operand :=
  { vec := decide (r.1 ≠ 0), vals := (c.look r.1 r.2).getD (regVals t r) }

/-- R485: the cause 0x0B of a register touched before a switch. -/
def hazardRaise (s : State) (c : Cur) (t : Team) (r : Nat × Nat) (e : Entry) : State :=
  s.raiseQ c t 0x0B (r.1 * 256 + r.2) e.pc.toNat

/-- R499: the features hidden from a team. -/
def State.featOf (s : State) (t : Team) : BitVec 7 :=
  (s.launch t.id.launch).head.feat ||| (if t.id.foreign then (s.part t.id.part).cfg.feat else 0)

/-- R498, the checks after decoding in their order: features, allotment, control registers; then the hazard check. The
instruction is performed with its captured operands. -/
def issueInstr (s : State) (c : Cur) (t : Team) (n : Nat) (i : Instr) : Issue :=
  if !featureOk n (s.featOf t) then .done (s.raiseX c t 0x05)
  else if (vregsOf i c.freg).any (fun v => decide (t.regs.allot ≤ v)) then .done (s.raiseX c t 0x03)
  else if (match i with | .getc _ _ k => !ctlKnown k.toNat | .setc _ k _ => !ctlKnown k.toNat | _ => false) then .done (s.raiseX c t 0x09)
  else
    let src := sourcesOf i c
    let dst := (regsOf i c.freg).2
    match (if t.regs.hazchk then (src ++ dst).findSome? (fun r => (outstanding t.sync.rq r).map fun e => (r, e)) else none) with
    | some (r, e) => .done (hazardRaise s c t r e)
    | none =>
      let hot := src.filterMap fun r => (outstanding t.sync.rq r).map fun e => (r, e)
      let ovr := hot.map fun p => (p.1.1, p.1.2, hazardRead t s.draws p.2 p.1)
      let s := if hot = [] then s else ({ s with draws := s.draws + 1 } : State).count t.id.ctx 7 1
      let c := { c with ovr := ovr }
      let e := { c.entry with ops := src.map (captureOp t c), gov := gov t c }
      let rq := if (dst.any fun r => (outstanding t.sync.rq r).isSome) then
          t.sync.rq.map fun x => { x with clob := (x.clob ++ dst.filter fun r => r ∈ x.dest).dedup }
        else t.sync.rq
      .run i { s.setTeam c.team { t with sync := { t.sync with rq := rq } } with cur := some { c with entry := e } }

/-- R498: the checks of an instruction word with the hint words before it, steps 1 to 7. -/
def checkWord (s : State) (c : Cur) (t : Team) (n : Nat) (hints : List Word32) : Issue :=
  let bad := fun x => Issue.done (s.raiseX c t x)
  match decodeWord n with
  | .error .major => bad 0x00
  | r =>
    if !placementOk hints then bad 0x04
    else match r with
      | .error .minor => bad 0x01
      | r =>
        if !hintUseOk n hints then bad 0x04
        else match r with
          | .error .type => bad 0x08
          | .error _ => bad 0x02
          | .ok i =>
            if !hintFieldsOk n hints then bad 0x02
            else if !hintRndOk hints then bad 0x10
            else issueInstr s c t n i

/-- R498: a check of its hint words, its feature, its registers or its control register refuses an instruction that decodes. -/
def refusedWord (feat : BitVec 7) (allot : Nat) (c : Cur) (n : Nat) (i : Instr) : Bool :=
  !placementOk c.hintWords || !hintUseOk n c.hintWords || !hintFieldsOk n c.hintWords || !hintRndOk c.hintWords || !featureOk n feat ||
    (vregsOf i c.freg).any (fun v => decide (allot ≤ v)) || (match i with | .getc _ _ k => !ctlKnown k.toNat | .setc _ k _ => !ctlKnown k.toNat | _ => false)

/-- R440: the enabled breakpoint of the context at a PC of an image. -/
def breakAt (d : Dbg) (img pc : Nat) : Option Nat :=
  (d.bpt.find? fun b => bit b.2.toNat 63 && bits b.2.toNat 41 32 = img && bits b.2.toNat 31 0 = pc).map Prod.fst

/-- R493: the addresses of the words of the group at a PC. -/
def Image.group (m : Image) (pc : Nat) : List Nat :=
  let h := fun p => isHint (BitVec.ofNat 32 ((m.word p).getD 0))
  if h pc then (if h (pc + 4) then [pc, pc + 4, pc + 8] else [pc, pc + 4]) else [pc]

/-- Issue from a team: re-injection of the oldest kept entry, or the next word at its PC (R430, R479). -/
def issueTeam (s : State) (k : Nat) : Issue :=
  let t := s.team k
  match t.sync.reinj with
  | e :: r =>
    let t := { t with sync := { t.sync with reinj := r } }
    let c : Cur := { team := k, inj := true, entry := { e with done := false, faulting := false, raised := none, clob := [] } }
    match e.raised with
    | some r => .done ((s.setTeam k t).raise c t r e.gov) -- R420: a cause that was raised and not chosen arises again
    | none =>
    match decodeWord e.word.toNat with
    | .ok i =>
      -- R420, R430: an entry that these checks refused raises its cause again
      if refusedWord (s.featOf t) t.regs.allot c e.word.toNat i then checkWord (s.setTeam k t) c t e.word.toNat c.hintWords
      else
      let src := sourcesOf i c
      let ovr := (src.zip e.ops).map fun p => (p.1.1, p.1.2, p.2.vals)
      .run i { s.setTeam k t with cur := some { c with ovr := ovr } }
    | .error _ =>
      checkWord (s.setTeam k t) c t e.word.toNat c.hintWords
  | [] =>
    let m := s.image t
    let pc := t.flow.pc.toNat
    let d := (s.ctx t.id.ctx).dbg
    let bp := if d.att && !t.sync.inHandler && !t.sched.skipBp && !t.sched.retry && t.flow.hints = [] then
        (m.group pc).findSome? fun p => (breakAt d t.id.img p).map fun b => (b, p)
      else none
    match bp with
    | some (b, _) => .done (s.trapNow k { cause := 0xB1, info := [BitVec.ofNat 64 b, t.flow.pc] })
    | none =>
      let c0 : Cur := { team := k, entry := { pc := t.flow.pc } }
      match m.word pc with
      | none => .done (s.raiseX c0 t 0x06)
      | some n =>
        let w := BitVec.ofNat 32 n
        let mw := (t.flow.hints.find? fun h => !isImm h).getD 0
        let iw := (t.flow.hints.find? isImm).getD 0
        let c : Cur := { c0 with entry := { c0.entry with word := w, modw := mw, immw := iw } }
        if isHint w then
          match decodeWord n with
          | .ok i => .run i { s with cur := some c }
          | .error _ =>
            let t' : Team := { t with
              flow := { t.flow with pc := c.next, gpc := (if t.flow.hints = [] then t.flow.pc else t.flow.gpc), hints := t.flow.hints ++ [w] }
              sched := { t.sched with lastIssue := s.now, readySince := s.now, waited := 0, aged := false } }
            .done { s.setTeam k t' with issued := Tbl.put s.issued t.id.core 1 }
        else
          match t.sync.lost with
          | (b, l, x) :: r =>
            let t := { t with sync := { t.sync with lost := r } }
            .done (s.raise c t { cause := 0x8A, info := [BitVec.ofNat 64 b, BitVec.ofNat 64 l, x] } t.flow.active)
          | [] => checkWord s c t n t.flow.hints

/-! ## Which team issues (R251 to R253) -/

/-- R259, R267: quiescence has taken effect for the team. -/
def State.quiescent (s : State) (t : Team) : Bool := !t.id.landed && ((s.part t.id.part).quiescing || s.reclaims t)
/-- R223, R251: the team is stalled by an access that waits for room under WAIT. -/
def TeamSync.stalled (y : TeamSync) : Bool :=
  y.rq.any fun e => e.accs.any fun a => match a.wait with | .shadow | .older _ => true | _ => false
/-- R259, R267, R301, R438: the team's context quiesces on its quarter, or is being halted. -/
def State.stopped (s : State) (t : Team) : Bool :=
  s.quiescent t || (t.id.landed && decide (t.id.core ∈ s.mil.waitQ)) ||
    (!t.id.foreign && !t.sched.stepping && ((s.ctx t.id.ctx).dbg.halting || (s.ctx t.id.ctx).dbg.halted))

/-- R251, R419: whether a resident team may issue its next instruction. DESIGN CHOICE: R251 speaks of the next instruction, so a replay entry
that is re-injected goes out whatever the throttle's permitted set (log 216). -/
def ready (s : State) (t : Team) : Bool :=
  t.id.loc = .resident && !t.sched.halted && !(t.sched.stepping && t.sched.stepped) && !s.stopped t && t.sched.frozen.isNone && t.sched.pendCause.isNone &&
    (headRaised t.sync.rq).isNone && !t.sync.stalled && decide (t.sync.rq.length < 24) && decide (t.sched.notBefore ≤ s.now) &&
    (match t.sync.park with
     | .run => t.sync.reinj = [] && (t.sched.permitted || !isMemWord ((s.image t).groupWord t.flow.pc.toNat))
     | .tretWait => t.sync.reinj ≠ []
     | _ => false)

/-- R252, R253: the class a team issues at. -/
def effClass (t : Team) : Nat := t.id.prio + b2n t.sched.aged

/-- R252, R675: whether team a goes before team b of the same core. -/
def goesBefore (a b : Nat × Team) : Bool :=
  let y := fun (x : Nat × Team) => decide (x.2.sched.yield > 0)
  if y a ≠ y b then !y a
  else if effClass a.2 ≠ effClass b.2 then decide (effClass a.2 > effClass b.2)
  else if a.2.sched.lastIssue ≠ b.2.sched.lastIssue then decide (a.2.sched.lastIssue < b.2.sched.lastIssue)
  else decide (a.2.id.slot % 16 < b.2.id.slot % 16)

/-- The best of a list of teams. -/
def bestTeam : List (Nat × Team) → Option (Nat × Team)
  | [] => none
  | a :: r => match bestTeam r with | some b => if goesBefore a b then some a else some b | none => some a

/-- R252: the team each free core chooses in this tick, by core. -/
def issuers (s : State) : List Nat :=
  if s.enabledTick then
    let rs := s.teams.filter fun p => ready s p.2 && decide (Tbl.getD s.issued p.2.id.core 0 = 0)
    (rs.map fun p => p.2.id.core).dedup.filterMap fun c => (bestTeam (rs.filter fun p => p.2.id.core = c)).map Prod.fst
  else []

end Sys2Proof.Machine
end

