-- ==== Sys2Proof/Machine/Translate.lean ====
section
/-! DEFINITION. Physical space, ownership, page walks, TLBs and moving pages (R148 to R186, R64 to R67, R90, R94). -/

namespace Sys2Proof.Machine

/-! ## The physical space (R149, R57, R67) -/

/-- Top of the die's local memory. -/
def State.localTop (s : State) : Nat := if s.fitting = .w9l then 2 ^ 40 else 2 ^ 39
def State.isLocal (s : State) (pa : Nat) : Bool := decide (pa < s.localTop)
/-- R67: the pool decoder entry whose range holds an address. -/
def State.poolEnt (s : State) (pa : Nat) : Option PoolEnt :=
  if s.fitting = .w9h then (s.ports.pool.find? fun p => decide (p.2.base ≤ pa ∧ pa < p.2.base + p.2.len)).map Prod.snd else none
/-- R149: a pool decoder range of a W9H. -/
def State.isPool (s : State) (pa : Nat) : Bool := s.fitting = .w9h && decide (2 ^ 51 ≤ pa ∧ pa < 2 ^ 52)
/-- The DPA of a pool address (R67). -/
def PoolEnt.dpaOf (e : PoolEnt) (pa : Nat) : Nat := e.dpa + (pa - e.base)
/-- R57: the extent of a local address of a W9L, and the slot it lies under. -/
def extentOf (pa : Nat) : Nat := pa / 2 ^ 28
def State.slotOf (s : State) (pa : Nat) : Option Nat :=
  if s.fitting = .w9l then (s.ports.emap.find? fun p => p.2 = extentOf pa).map Prod.fst else none
/-- R57: the slot lies in a bulk-tensor region. -/
def State.bulkSlot (s : State) (slot : Nat) : Bool := s.ports.regions.any fun r => r.2.bulk && decide (r.2.first ≤ slot ∧ slot < r.2.first + r.2.count)
/-- R150, R154: the owner of a granule: a partition, 0x40 the system, 0xFF nobody. -/
def State.granuleOwner (s : State) (g : Nat) : Nat := Tbl.getD s.xlat.own g 0xFF
/-- R24, R90: the address lies in a lost range: an offline stack or a lost expander. -/
def State.lostAt (s : State) (pa : Nat) : Bool :=
  if s.isLocal pa then s.fitting = .w9h && decide (pa / 2 ^ 36 ∈ s.mil.offline)
  else match s.poolEnt pa with | some e => e.lost | none => false

/-- R65, R66: an extent that is being added, which every access meets as unmapped. -/
def State.adding (s : State) (pa : Nat) : Bool :=
  match s.slotOf pa with | some k => decide (k ∈ s.ports.scrub) | none => false
/-- R66: an extent under release. -/
def State.releasing (s : State) (pa : Nat) : Bool :=
  match s.slotOf pa with | some k => decide (k ∈ s.ports.releasing) | none => false

/-- R149: an address that no memory answers. -/
def State.unmapped (s : State) (pa : Nat) : Bool :=
  !(s.isLocal pa || s.isPool pa) || s.adding pa

/-- R166: one address lies in memory the partition owns. -/
def State.ownsAt (s : State) (p pa : Nat) : Bool :=
  if s.isLocal pa then
    s.granuleOwner (pa / 2 ^ 21) = p ||
      (s.fitting = .w9l && Tbl.get? s.ports.eown (extentOf pa) = some p)
  else match s.poolEnt pa with | some e => e.part = p | none => false
/-- R166: a page of 2^lg bytes lies in memory the partition owns. -/
def State.ownsPage (s : State) (p pa lg : Nat) : Bool :=
  (List.range (2 ^ (lg - 21))).all fun i => s.ownsAt p (pa + i * 2 ^ 21)
/-- R166: the physical page of a leaf, of which an entry may hold one region of 2 MiB, lies in memory the partition owns. -/
def State.ownsEnt (s : State) (p : Nat) (e : TlbEnt) : Bool := s.ownsPage p (e.pa / 2 ^ e.lg * 2 ^ e.lg) e.lg
/-- R710: the right that an access outside the partition's memory breaks. -/
def State.rightAt (s : State) (pa : Nat) : Nat := if s.isPool pa then 2 else 1

/-! ## Page walks (R151 to R166) -/

/-- What a walk comes to. -/
inductive WalkRes
  | leaf (e : TlbEnt)
  /-- A host-bound span (R162). -/
  | host
  /-- A cause with the level and the entry read there. -/
  | fault (cause lv entry : Nat)
  /-- The partition check failed at an address (R166). -/
  | violation (pa : Nat)
  /-- A table in the pool whose word has not been read. -/
  | need (pa : Nat)
deriving DecidableEq, Repr

/-- R152: fields of a context-table entry. -/
def ctabRoot (e : BitVec 128) : Nat := bits e.toNat 51 12 * 4096
def ctabPasv (e : BitVec 128) : Bool := bit e.toNat 1
def ctabPasid (e : BitVec 128) : Nat := bits e.toNat 83 64
/-- R153: the entry enables translation and its must-be-zero fields are zero. -/
def ctabOk (e : BitVec 128) : Bool := bit e.toNat 0 && bits e.toNat 127 84 = 0 && bits e.toNat 63 52 = 0 && bits e.toNat 11 2 = 0

/-- A run of bytes of one local line that translation reads; of a poisoned or lost line the device knows no content, and takes it as
zero, which finds nothing present (R24, R77). -/
def State.xlatWord (s : State) (pa n : Nat) : Nat := if s.lostAt pa || s.poisoned pa then 0 else memNat s.mem pa n
/-- R153: the context-table entry of a context in memory. -/
def State.ctabRead (s : State) (c : Nat) : BitVec 128 :=
  BitVec.ofNat 128 (s.xlatWord (bits s.xlat.ctab.toNat 51 14 * 16384 + 16 * c) 16)
/-- R153: the copy the device keeps, read at the context's first translation. -/
def State.ctabOf (s : State) (c : Nat) : BitVec 128 := (s.ctx c).ctab.getD (s.ctabRead c)
/-- Keep the copy. -/
def State.ctabKeep (s : State) (c : Nat) : State :=
  match (s.ctx c).ctab with | some _ => s | none => s.modCtx c fun x => { x with ctab := some (s.ctabRead c) }

/-- R158: fields of a page-table entry. -/
def pteType (e : Nat) : Nat := bits e 1 0
def ptePa (e : Nat) : Nat := bits e 51 12 * 4096
def ptePsz (e : Nat) : Nat := bits e 58 56
/-- R159: the logarithm of the page size of a leaf, where its level allows the code. -/
def leafLg (lv psz : Nat) : Option Nat :=
  match lv with
  | 1 => if psz < 4 then some (12 + 2 * psz) else none
  | 2 => if psz < 3 then some (21 + 4 * psz) else none
  | 3 => if psz = 0 then some 30 else none
  | _ => none

/-- R160: the entry is malformed at its level. -/
def pteBad (lv e : Nat) : Bool :=
  bits e 63 59 ≠ 0 || bits e 11 3 ≠ 0 || (bit e 54 && (bit e 52 || bit e 55)) ||
    (match pteType e with
     | 1 => lv = 1 || ptePsz e ≠ 0
     | 2 => (match leafLg lv (ptePsz e) with | none => true | some lg => ptePa e % 2 ^ lg ≠ 0)
     | _ => ptePsz e ≠ 0 || ptePa e ≠ 0)

/-- R157: the index of an address at a level. -/
def vaIndex (va lv : Nat) : Nat := va / 2 ^ (3 + 9 * lv) % 512

/-- A word of a page table: local memory, or what has been read of a table in the pool. -/
def State.tableWord (s : State) (fetched : Tbl Nat) (pa : Nat) : Option Nat :=
  if s.isLocal pa then some (s.xlatWord pa 8) else Tbl.get? fetched pa

/-- R157 to R166: the walk from a table of a level down, for a partition. -/
def State.walkFrom (s : State) (fetched : Tbl Nat) (p ctx va : Nat) : Nat → Nat → WalkRes
  | 0, _ => .fault 0x26 0 0
  | lv + 1, tab =>
    if !s.ownsAt p tab then .violation tab
    else
      let at_ := tab + 8 * vaIndex va (lv + 1)
      match s.tableWord fetched at_ with
      | none => .need at_
      | some e =>
        if pteType e = 0 then .fault 0x21 (lv + 1) e
        else if pteBad (lv + 1) e then .fault 0x26 (lv + 1) e
        else match pteType e with
          | 1 => s.walkFrom fetched p ctx va lv (ptePa e)
          | 2 =>
            let lg := (leafLg (lv + 1) (ptePsz e)).getD 12
            .leaf { ctx := ctx, va := va / 2 ^ lg * 2 ^ lg, lg := lg, pa := ptePa e, r := bit e 2, w := bit e 52
                    acc := bit e 55, stb := bit e 54, lv := lv + 1, pte := e }
          | _ => if s.fitting = .w9l || !ctabPasv (s.ctabOf ctx) then .fault 0x28 (lv + 1) e else .host

/-- The walk of an address in a context (R153: a copy that does not enable translation finds nothing present). -/
def State.walk (s : State) (fetched : Tbl Nat) (p ctx va : Nat) : WalkRes :=
  let ct := s.ctabOf ctx
  if !ctabOk ct then .fault 0x21 5 (Config.noEntry ctx).toNat
  else s.walkFrom fetched p ctx va 5 (ctabRoot ct)

/-! ## TLBs (R161, R168, R175) -/

/-- An entry covers an address: of a page above 2 MiB one region of 2 MiB. -/
def TlbEnt.covers (e : TlbEnt) (ctx va : Nat) : Bool := e.ctx = ctx && va / 2 ^ (min e.lg 21) = e.va / 2 ^ (min e.lg 21)
/-- The part of a translation that one entry holds. -/
def TlbEnt.region (e : TlbEnt) (va : Nat) : TlbEnt :=
  let b := va / 2 ^ (min e.lg 21) * 2 ^ (min e.lg 21)
  { e with va := b, pa := e.pa + (b - e.va / 2 ^ e.lg * 2 ^ e.lg) }
/-- The set of the cluster TLB. -/
def TlbEnt.set (e : TlbEnt) : Nat := bits (e.va / 2 ^ (min e.lg 21)) 7 0 ^^^ bits e.ctx 7 0
def tlbFind (l : List TlbEnt) (ctx va : Nat) : Option TlbEnt := l.find? fun e => e.covers ctx va
/-- Fill or touch a core TLB of 64 entries, most recently used first. -/
def tlbCore (l : List TlbEnt) (e : TlbEnt) : List TlbEnt := (e :: l.filter fun x => !x.covers e.ctx e.va).take 64
/-- Fill or touch a cluster TLB of 256 sets of 8 ways. -/
def tlbCluster (l : List TlbEnt) (e : TlbEnt) : List TlbEnt :=
  let l := l.filter fun x => !x.covers e.ctx e.va
  e :: ((l.filter fun x => x.set = e.set).take 7 ++ l.filter fun x => x.set ≠ e.set)

/-- The physical address of a virtual address in an entry. -/
def TlbEnt.paOf (e : TlbEnt) (va : Nat) : Nat := e.pa + (va - e.va)

/-- Fill the TLBs of a core, and of its cluster, with a translation. -/
def State.tlbFill (s : State) (core : Nat) (e : TlbEnt) : State :=
  (s.modCore core fun c => { c with tlb := tlbCore c.tlb e }).modCluster (core / 4) fun c => { c with tlb := tlbCluster c.tlb e }

/-- Drop the entries of a range that a test selects from every TLB (R173, R179). -/
def State.tlbDrop (s : State) (p : TlbEnt → Bool) : State :=
  { s with cores := Tbl.mapV s.cores fun _ c => { c with tlb := c.tlb.filter fun e => !p e }
           clusters := Tbl.mapV s.clusters fun _ c => { c with tlb := c.tlb.filter fun e => !p e } }
/-- R173: an entry translates some part of a range of 2^lg bytes. -/
def TlbEnt.inRange (e : TlbEnt) (va lg : Nat) : Bool :=
  let b := va / 2 ^ lg * 2 ^ lg
  decide (e.va < b + 2 ^ lg ∧ b < e.va + 2 ^ (min e.lg 21))

/-! ## Moving pages (R183) -/

/-- R183: the move whose moving translation an address meets, from ta to step 7. -/
def State.movingAt (s : State) (ctx va : Nat) : Option Move :=
  s.xlat.moves.find? fun m => decide (2 ≤ m.phase) && m.kv.isNone && m.ctx = ctx && va / 2 ^ m.lg = m.va / 2 ^ m.lg
/-- R184: the move whose page holds a physical address, at its old place or its new one. -/
def State.movingPa (s : State) (pa : Nat) : Option Move :=
  s.xlat.moves.find? fun m => decide (2 ≤ m.phase) && (pa / 2 ^ m.lg = m.old / 2 ^ m.lg || pa / 2 ^ m.lg = m.new / 2 ^ m.lg)
/-- What a queued access still waits for, or is on its way to do: a team's until it has been performed, that of another unit until it goes
on. -/
def State.queuedLive (s : State) (m : Move) (q : Queued) : Bool :=
  match q.who with
  | .acc k eid lane => match Tbl.get? s.teams k with
    | some t => t.sync.rq.any fun e => e.id = eid && e.accs.any fun a => a.lane = lane && (a.wait = .move m.id || a.moved)
    | none => false
  | .card cl tag => (s.cluster cl).cards.any fun c => c.tag = tag && c.wait = .move m.id
  | .unit k => (s.team k).sync.fetch.wait = .move m.id
  | .seq c n => (Tbl.getD (s.ctx c).streams n {}).fetch.wait = .move m.id
  | .aperture c id => (s.ctx c).aps.any fun x => x.id = id && x.fetch.wait = .move m.id
  | .crec c => (s.ctx c).cfetch.wait = .move m.id
  | .stream p i => (Tbl.getD (s.part p).stms i {}).fetch.wait = .move m.id
  | .held lk va => (s.launch lk).held.any fun h => h.va = va && h.fetch.wait = .move m.id
  | _ => false
/-- Two virtual ranges meet a common line. -/
def lineMeets (va n vb m : Nat) : Bool := decide (va / 64 ≤ (vb + m - 1) / 64 ∧ vb / 64 ≤ (va + n - 1) / 64)
/-- R183 step 6: an access stands in the queue behind one to a common line: the queue is released in arrival order, and order on one line is
kept (R68). Of a page that moves by itself (R399), whose accesses name no address, every earlier one counts. -/
def State.queuedBefore (s : State) (m : Move) (who : Serves) (va n : Nat) : Bool :=
  (m.queue.takeWhile fun q => !decide (q.who = who)).any fun q => (m.kv.isSome || lineMeets q.va q.len va n) && s.queuedLive m q
/-- R183 step 2: an access joins a page's replay queue, once. -/
def State.joinQueue (s : State) (id : Nat) (who : Serves) (va n : Nat) : State :=
  { s with xlat := { s.xlat with moves := s.xlat.moves.map fun (m : Move) =>
      if m.id = id ∧ !(m.queue.any fun q => q.who = who) then ({ m with queue := m.queue ++ [{ who := who, va := va, len := n }] } : Move) else m } }
/-- R183, R185: an access of a unit other than a team stands in a page's replay queue, at its end if it is new; whether the queue is being
released and its turn has come, in which case it leaves it. -/
def State.queueTurn (s : State) (m : Move) (who : Serves) (va n : Nat) : Bool × State :=
  let q := if m.queue.any fun q => q.who = who && q.va = va then m.queue else (m.queue.filter fun q => !decide (q.who = who)) ++ [{ who := who, va := va, len := n }]
  let turn := decide (4 ≤ m.phase) && !s.queuedBefore { m with queue := q } who va n
  let m' : Move := { m with queue := if turn then q.filter fun q => !decide (q.who = who) else q }
  (turn, { s with xlat := { s.xlat with moves := s.xlat.moves.map fun (x : Move) => if x.id = m.id then m' else x } })
/-- The wait of such an access at a moving page is over. -/
def State.moveOver (s : State) (id : Nat) (who : Serves) : Bool :=
  s.xlat.moves.all fun m => m.id ≠ id || (decide (4 ≤ m.phase) && ((m.queue.find? fun q => q.who = who).all fun q => !s.queuedBefore m who q.va q.len))
/-- An access leaves the replay queues it stands in. -/
def State.unqueue (s : State) (p : Serves → Bool) : State :=
  if s.xlat.moves.any fun m => m.queue.any fun q => p q.who then
    { s with xlat := { s.xlat with moves := s.xlat.moves.map fun (m : Move) => ({ m with queue := m.queue.filter fun q => !p q.who } : Move) } }
  else s

/-- What looking up a translation comes to. -/
inductive Trans
  | hit (e : TlbEnt)
  | moving (id : Nat)
  | miss
deriving DecidableEq, Repr

/-- R183 step 6: what an access that meets a moving translation gets: the new translation while the queue is released, and otherwise the
queue. -/
def Move.trans (m : Move) : Trans :=
  if m.phase < 4 then .moving m.id else match m.ent with | some e => .hit e | none => .miss
/-- R168: look a translation up, touching what it finds. -/
def State.lookup (s : State) (ctx core va : Nat) : Trans × State :=
  match s.movingAt ctx va with
  | some m => (m.trans, s)
  | none =>
    match tlbFind (s.core core).tlb ctx va with
    | some e => (.hit e, s.modCore core fun c => { c with tlb := tlbCore c.tlb e })
    | none =>
      let s := s.count ctx 32 1
      match tlbFind (s.cluster (core / 4)).tlb ctx va with
      | some e => (.hit e, s.tlbFill core e)
      | none => (.miss, s.count ctx 33 1)

/-- R170: the walk a miss joins, or a new one. -/
def State.joinWalk (s : State) (ctx core va : Nat) : Nat × State :=
  match s.xlat.walks.find? fun w => w.ctx = ctx && w.page = va / 4096 with
  | some w => (w.id, s.count ctx 35 1)
  | none =>
    let (n, s) := s.take
    (n, ({ s with xlat := { s.xlat with walks := s.xlat.walks ++ [{ id := n, ctx := ctx, page := va / 4096, core := core }] } } : State).count ctx 34 1)

/-- R166: the access that made a walk is the one that a violation is charged to. -/
def State.claimWalk (s : State) (w : AccWait) (who : Serves) : State :=
  match w with
  | .walk id => { s with xlat := { s.xlat with walks := s.xlat.walks.map fun (x : Walk) => if x.id = id ∧ x.by_ = .nobody then ({ x with by_ := who } : Walk) else x } }
  | _ => s

/-- R168, R183: the translation of an address for an engine or another unit that uses a cluster's TLB; or what it waits for. -/
def State.engineLook (s : State) (who : Serves) (ctx cl va n : Nat) : Except AccWait TlbEnt × State :=
  let miss := fun (s : State) =>
    let (id, s) := s.joinWalk ctx (4 * cl) va
    (Except.error (AccWait.walk id), (s.claimWalk (.walk id) who).count ctx 33 1)
  match s.movingAt ctx va with
  | some m =>
    match s.queueTurn m who va n with
    | (false, s) => (.error (.move m.id), s.count ctx 37 1)
    | (true, s) => match m.ent with | some e => (.ok e, s) | none => miss s
  | none =>
    match tlbFind (s.cluster cl).tlb ctx va with
    | some e => (.ok e, s.modCluster cl fun c => { c with tlb := tlbCluster c.tlb e })
    | none => miss s

/-- R175: an ATS translation request for a page of a context; one that is outstanding is joined. -/
def State.joinAts (s : State) (ctx va : Nat) : Nat × State :=
  match s.xlat.reqs.find? fun r => r.for_ = .ats ctx && r.addr = va / 4096 with
  | some r => (r.tag, s)
  | none =>
    let (n, s) := s.take
    let m : Msg := .atsReq n (ctabPasid (s.ctabOf ctx)) (va / 4096 * 4096)
    let go := (s.link hostLink).carries
    let s := { s with xlat := { s.xlat with reqs := s.xlat.reqs ++ [{ tag := n, for_ := .ats ctx, addr := va / 4096, write := false, since := s.now, via := some 9,
                                                                       msg := if go then none else some m }] } }
    (n, if go then s.emit m else s)

/-- R178: a page response failed for a context under the PASID of this one, and no VF reset has followed. -/
def State.pasidDead (s : State) (ctx : Nat) : Bool :=
  s.ctxs.any fun c => c.2.priDead && ctabPasv (s.ctabOf c.1) && ctabPasid (s.ctabOf c.1) = ctabPasid (s.ctabOf ctx)
/-- R176, R177: a page-request group for a page and access kind; one that is outstanding is joined, and at most 512 are
sent. -/
def State.joinPri (s : State) (ctx va : Nat) (write : Bool) : Nat × State :=
  match s.xlat.pris.find? fun r => r.ctx = ctx && r.page = va / 4096 && r.write = write with
  | some r => (r.id, s)
  | none =>
    let (n, s) := s.take
    let send := decide ((s.xlat.pris.filter fun r => r.sent).length < 512) && (s.link hostLink).carries
    let s := ({ s with xlat := { s.xlat with pris := s.xlat.pris ++ [{ id := n, ctx := ctx, page := va / 4096, write := write, sent := send }] } } : State).count ctx 36 1
    (n, if send then s.emit (.pri n (ctabPasid (s.ctabOf ctx)) (va / 4096 * 4096) write) else s)

/-- R710: the information words of kind V. -/
def State.infoV (s : State) (kind inst addr right : Nat) : List Word :=
  [BitVec.ofNat 64 (kind * 2 ^ 16 + inst), BitVec.ofNat 64 addr, BitVec.ofNat 64 right, BitVec.ofNat 64 s.now]

/-- R95: a violation is logged and posted to the owning context. -/
def State.violate (s : State) (ctx kind inst addr right : Nat) : State :=
  (s.logIt (.violation kind inst addr right s.now)).postEvent ctx 0 0x90 (BitVec.ofNat 32 (kind * 2 ^ 16 + inst))

end Sys2Proof.Machine
end

