-- ==== Sys2Proof/Machine/View.lean ====
section
/-! DEFINITION. Whose memory an access sees: a launch's shadow, its chain and its deltas over committed state (R190 to
R208), footprints (R199 to R201), stash mappings that hold lines (R334 to R337), home slices and leases (R312 to R321), and
shadow capacity (R222, R223). -/

namespace Sys2Proof.Machine

/-- In whose view an access is resolved: a launch of this die, or on a W9L a launch of another die (R190, R308). -/
inductive View
  | launch (lk : Nat)
  | foreign (die part ver : Nat)
deriving DecidableEq, Repr

def Team.view (t : Team) : View :=
  if t.id.foreign then .foreign (t.id.oteam / 2 ^ 20) t.id.opart t.id.lver else .launch t.id.launch

def Foreign.is (f : Foreign) (d p v : Nat) : Bool := f.die = d && f.part = p && f.ver = v
def State.foreignOf (s : State) (d p v : Nat) : Foreign := (s.ports.foreign.find? fun f => f.is d p v).getD { die := d, part := p, ver := v }
/-- Change what the die holds for another die's launch, from nothing when it holds nothing. -/
def State.modForeign (s : State) (d p v : Nat) (f : Foreign → Foreign) : State :=
  let x := f (s.foreignOf d p v)
  let l := if s.ports.foreign.any (fun g => g.is d p v) then s.ports.foreign.map fun g => if g.is d p v then x else g
    else s.ports.foreign ++ [x]
  { s with ports := { s.ports with foreign := l } }

def State.shadowsOf (s : State) : View → Tbl Shadow
  | .launch lk => (s.launch lk).shadow
  | .foreign d p v => (s.foreignOf d p v).shadow
def State.deltasOf (s : State) : View → Tbl Delta
  | .launch lk => (s.launch lk).deltas
  | .foreign d p v => (s.foreignOf d p v).deltas
def State.putShadow (s : State) (v : View) (ln : Nat) (x : Shadow) : State :=
  match v with
  | .launch lk => s.modLaunch lk fun l => { l with shadow := Tbl.put l.shadow ln x }
  | .foreign d p w => s.modForeign d p w fun f => { f with shadow := Tbl.put f.shadow ln x }
def State.putDelta (s : State) (v : View) (pa : Nat) (x : Delta) : State :=
  match v with
  | .launch lk => s.modLaunch lk fun l => { l with deltas := Tbl.put l.deltas pa x }
  | .foreign d p w => s.modForeign d p w fun f => { f with deltas := Tbl.put f.deltas pa x }
/-- The partition a view's shadow is charged to (R222, R250). -/
def State.viewPart (s : State) : View → Nat
  | .launch lk => (s.launch lk).head.part
  | .foreign d p v => (s.foreignOf d p v).own

/-- R195: the chain predecessors of a launch, nearest first. -/
def State.chainOf (s : State) : Nat → Nat → List Nat
  | 0, _ => []
  | n + 1, lk =>
    match (s.launch lk).head.chain with
    | some q => if (Tbl.get? s.launches q).isSome then q :: s.chainOf n q else []
    | none => []
/-- R192: the shadows a view looks through, its own first; on a W9L those that it holds of the chain of another die's launch. -/
def State.lookThrough (s : State) : View → List (Tbl Shadow)
  | .launch lk => (s.launch lk).shadow :: (s.chainOf s.launches.length lk).map fun q => (s.launch q).shadow
  | .foreign d p v => (s.foreignOf d p v).shadow :: (s.foreignOf d p v).chain.map fun q => (s.foreignOf d p q).shadow
/-- R195: the versions of a view's chain, nearest first, as a request to a W9L names them. -/
def State.chainVers (s : State) : View → List Nat
  | .launch lk => (s.chainOf s.launches.length lk).map fun q => (s.launch q).head.ver
  | .foreign d p v => (s.foreignOf d p v).chain

/-! ## Stash bytes and the mappings that hold lines (R311, R334 to R337) -/

def stashGet (c : Cluster) (a : Nat) : Byte := Tbl.getD c.stash a 0
def stashPut (c : Cluster) (a : Nat) (b : Byte) : Cluster := { c with stash := Tbl.putD c.stash a b 0 }
def stashBytes (c : Cluster) (a n : Nat) : List Byte := (List.range n).map fun i => stashGet c (a + i)
def stashPuts (c : Cluster) : Nat → List Byte → Cluster
  | _, [] => c
  | a, b :: r => stashPuts (stashPut c a b) (a + 1) r
/-- R340: the full/empty bit of a 16-byte granule. -/
def isFull (c : Cluster) (g : Nat) : Bool := Tbl.getD c.full g false
def setFull (c : Cluster) (g : Nat) (b : Bool) : Cluster := { c with full := Tbl.putD c.full g b false }
/-- R364: poison of a 16-byte granule. -/
def stashPois (c : Cluster) (g : Nat) : Bool := Tbl.getD c.spois g false
def setStashPois (c : Cluster) (g : Nat) (b : Bool) : Cluster := { c with spois := Tbl.putD c.spois g b false }
/-- The granules of 16 bytes a range touches. -/
def granules (a n : Nat) : List Nat := if n = 0 then [] else (List.range ((a + n - 1) / 16 - a / 16 + 1)).map (· + a / 16)

/-- The stash address of byte o of line i of a mapping. -/
def Mapping.addr (m : Mapping) (i o : Nat) : Nat := m.base + 64 * i + o
/-- R336: the mapped-coherent mapping of a launch that holds a line: cluster, mapping number, mapping, line index. -/
def State.holder (s : State) (lk ln : Nat) : Option (Nat × Nat × Mapping × Nat) :=
  s.clusters.findSome? fun c => c.2.maps.findSome? fun m =>
    if m.2.launch = lk && m.2.kind = 1 then (m.2.lines.find? fun x => x.2.ln = ln && !x.2.host).map fun x => (c.1, m.1, m.2, x.1) else none

/-! ## Reading in a view (R192, R205 to R207) -/

/-- R192: a byte below the view's own shadow: the chain, nearest first, then committed state; and whether poison comes with
it. -/
def State.viewUnder (s : State) (v : View) (pa : Nat) : Byte × Bool :=
  match (s.lookThrough v).tail.findSome? fun t =>
      (Tbl.get? t (lineNo pa)).bind fun h => if h.mask.getLsbD (pa % 64) then some h else none with
  | some h => (lineByte h.data (pa % 64), h.poison || s.poisoned pa)
  | none => (memGet s.mem pa, s.poisoned pa)
/-- R192: a byte of a local address in a view, and whether poison comes with it. A mapped-coherent stash that holds the line
for the launch supplies it (R336). -/
def State.viewByte (s : State) (v : View) (pa : Nat) : Byte × Bool :=
  let i := pa % 64
  match (match v with | .launch lk => s.holder lk (lineNo pa) | .foreign _ _ _ => none) with
  | some (c, _, m, x) => (stashGet (s.cluster c) (m.addr x i), stashPois (s.cluster c) (m.addr x i / 16))
  | none =>
    match Tbl.get? (s.shadowsOf v) (lineNo pa) with
    | some h => if h.mask.getLsbD i then (lineByte h.data i, h.poison) else s.viewUnder v pa
    | none => s.viewUnder v pa

/-- R466, R551: the sum of two codes of a format under a rounding. -/
def fpSum (f : FFmt) (rd : Rnd) (x y : Nat) : Nat :=
  f.ofFp rd (Fp.add (rd.mode = 2) (f.decode (f.flush rd.ftz x)) (f.decode (f.flush rd.ftz y)))
/-- The rounding of a flip: nearest even, without saturation and flushing (R206). -/
def rneRnd : Rnd := { mode := 0, sat := false, ftz := false }

/-- R206, R207: a value with a delta added. -/
def Delta.addTo (d : Delta) (m : Nat) : Nat :=
  if d.flt then fpSum (fltFmt d.ty 0) rneRnd m d.val.toNat else (m + d.val.toNat) % 2 ^ (8 * d.esz)

/-- Overlay bytes at an address on a run of bytes. -/
def overlayBytes (base : Nat) (run : List Byte) (a : Nat) (bs : List Byte) : List Byte :=
  run.zipIdx.map fun p => if a ≤ base + p.2 ∧ base + p.2 < a + bs.length then (bs[base + p.2 - a]?).getD p.1 else p.1

/-- R207: a run of bytes with a view's deltas added. -/
def State.withDeltas (s : State) (v : View) (pa : Nat) (run : List Byte) : List Byte :=
  (s.deltasOf v).foldl (fun run p =>
    if p.1 < pa + run.length ∧ pa < p.1 + p.2.esz then
      let m := leNat ((List.range p.2.esz).map fun i => (s.viewByte v (p.1 + i)).1)
      overlayBytes pa run p.1 (leBytes p.2.esz (p.2.addTo m))
    else run) run

/-- R90, R192, R207: `n` bytes of local memory in a view, with poison. -/
def State.viewRead (s : State) (v : View) (pa n : Nat) : List Byte × Bool :=
  let bs := (List.range n).map fun i => s.viewByte v (pa + i)
  (s.withDeltas v pa (bs.map Prod.fst), s.lostAt pa || bs.any Prod.snd)

/-! ## Footprints (R199, R200) -/

def State.footOf (s : State) : View → List Foot
  | .launch lk => (s.launch lk).head.foot
  | .foreign d p v => (s.foreignOf d p v).foot
/-- Whether the regions that `ok` admits cover a range. -/
def coverFrom (foot : List Foot) (ok : Nat → Bool) : Nat → Nat → Nat → Bool
  | 0, a, e => decide (e ≤ a)
  | n + 1, a, e =>
    if e ≤ a then true
    else match foot.find? fun f => ok f.cls && decide (f.base ≤ a ∧ a < f.base + f.len) with
      | some f => coverFrom foot ok n (f.base + f.len) e
      | none => false
def covered (foot : List Foot) (ok : Nat → Bool) (va n : Nat) : Bool := coverFrom foot ok (foot.length + 1) va (va + n)

/-- The uses of R164, R199 and R200: `add` returns a value, `addOnly` (a scatter-add) does not. -/
inductive Use | load | store | add | rmw | addOnly
deriving DecidableEq, Repr

/-- R200: the cause of a use outside the footprint; and of an allowed add, whether it is a delta (R199, R205). DESIGN CHOICE: bytes that lie
in an accumulate region and also in a region that allows no write are "inside an accumulate region only" for a store (log 208). -/
def footCheck (foot : List Foot) (u : Use) (stb : Bool) (va n : Nat) : Except Nat Bool :=
  match u with
  | .load => if stb || covered foot (fun _ => true) va n then .ok false else .error 0x4D
  | .store | .rmw =>
    if covered foot (fun c => c = 1 || c = 2) va n then .ok false
    else if covered foot (fun c => c = 1 || c = 2 || c = 3) va n then .error 0x4E else .error 0x4C
  | .add | .addOnly =>
    if covered foot (fun c => c = 1 || c = 2) va n then .ok false
    else if covered foot (fun c => c = 1 || c = 2 || c = 3) va n then .ok true else .error 0x4C

/-- R164: the cause of a permission that fails. -/
def permCause (u : Use) (e : TlbEnt) : Option Nat :=
  match u with
  | .load => if e.r then none else some 0x22
  | .store => if !e.w then some 0x23 else if e.acc then some 0x25 else none
  | .add => if !e.w then some 0x23 else if !e.r then some 0x22 else none
  | .addOnly => if !e.w then some 0x23 else none
  | .rmw => if !e.r then some 0x22 else if !e.w then some 0x23 else if e.acc then some 0x25 else none

/-! ## Home slices and leases (R312 to R321) -/

/-- The set of a home slice that a line falls in. -/
def setOf (ln : Nat) : Nat := Config.sliceSet ln % 1024
def State.home (s : State) (ln : Nat) : Cluster := s.cluster (homeSlice (64 * ln))
def State.hline (s : State) (ln : Nat) : Option HLine := Tbl.get? (s.home ln).lines ln
/-- R101, R104, R314: the ways granted to a partition in every slice; lines of the system slot, 64, which has no mask, take any (log 218). -/
def State.grants (s : State) (p w : Nat) : Bool := p == 64 || (s.part p).cfg.ways.getLsbD w
/-- R222: the ways of a line's set that shadow entries hold. -/
def State.shadowWays (s : State) (ln : Nat) : List Nat :=
  let here := fun (l : Nat) => homeSlice (64 * l) = homeSlice (64 * ln) && setOf l = setOf ln
  (s.launches.flatMap fun l => (l.2.shadow.filter fun x => !x.2.spilled && here x.1).map fun x => x.2.way) ++
    s.ports.foreign.flatMap fun f => (f.shadow.filter fun x => !x.2.spilled && here x.1).map fun x => x.2.way
/-- The committed lines of a line's set. -/
def State.setLines (s : State) (ln : Nat) : List (Nat × HLine) := (s.home ln).lines.filter fun x => setOf x.1 = setOf ln
/-- R314: the victim among the lines of a set: stream before normal before keep, then the least recently used. -/
def victim : List (Nat × HLine) → Option (Nat × HLine)
  | [] => none
  | a :: r =>
    match victim r with
    | none => some a
    | some b => if a.2.cls > b.2.cls ∨ (a.2.cls = b.2.cls ∧ a.2.used ≤ b.2.used) then some a else some b
/-- R222, R314: a way of a line's set that a partition may fill, with the committed line that leaves it: a free one of its ways, else that of the
victim among its ways; none where every one holds a shadow entry. Which of several free ways is taken is open. -/
def State.wayFor (s : State) (p ln : Nat) : Option (Nat × Option Nat) :=
  let mine := (List.range 16).filter fun w => s.grants p w && !decide (w ∈ s.shadowWays ln)
  let free := mine.filter fun w => (s.setLines ln).all fun x => x.2.way ≠ w
  match free with
  | w :: r => some (((w :: r)[Config.freeWay ln % (r.length + 1)]?).getD w, none)
  | [] => (victim ((s.setLines ln).filter fun x => decide (x.2.way ∈ mine))).map fun v => (v.2.way, some v.1)

/-- The latest expiry a line's record holds for any core but one. -/
def HLine.latest (h : HLine) (but : Option Nat) : Nat :=
  (h.lease.filter fun x => some x.1 ≠ but).foldl (fun m x => max m x.2) h.any

/-- R315: a committed line leaves its set: its latest expiry folds into the set's overflow expiry. -/
def State.evictLine (s : State) (ln : Nat) : State :=
  s.modCluster (homeSlice (64 * ln)) fun c => match Tbl.get? c.lines ln with
    | some h => { c with lines := Tbl.del c.lines ln, ovf := Tbl.put c.ovf (setOf ln) (max (Tbl.getD c.ovf (setOf ln) 0) (h.latest none)) }
    | none => c
/-- The line that leaves a way that is filled. -/
def State.makeWay (s : State) (x : Nat × Option Nat) : State := match x.2 with | some v => s.evictLine v | none => s
/-- R314, R315: the slice holds a line for a partition at a class, in one of the partition's ways; a line that re-enters the set takes the
overflow expiry. -/
def State.touchLine (s : State) (ln p cls : Nat) : State :=
  match s.hline ln with
  | some h => s.modCluster (homeSlice (64 * ln)) fun c => { c with lines := Tbl.put c.lines ln { h with used := s.now } }
  | none =>
    match s.wayFor p ln with
    | none => s
    | some w => (s.makeWay w).modCluster (homeSlice (64 * ln)) fun c =>
        { c with lines := Tbl.put c.lines ln { part := p, way := w.1, cls := cls, used := s.now, any := Tbl.getD c.ovf (setOf ln) 0 } }

/-- R59: the filter set of a line. -/
def snoopSet (ln : Nat) : Nat := (ln % 2 ^ 21) ^^^ (ln / 2 ^ 21 % 2 ^ 13)
/-- R59: where the set of a line stands in extent 4,095. -/
def snoopBase (ln : Nat) : Nat := 0xFFF0000000 + 128 * snoopSet ln
/-- R59: the entry of a tracked line. -/
def snoopEntry (ln : Nat) (x : Snoop) : Nat := 2 ^ 63 + b2n x.ex * 2 ^ 62 + ln / 2 ^ 21 % 2 ^ 13 * 2 ^ 32 + x.bi.toNat
/-- R59: the 128 bytes of the set of a line: its tracked lines by rising line number (log 218). -/
def State.snoopBytes (s : State) (ln : Nat) : List Byte :=
  leBytes 128 ((s.ports.snoop.filter fun x => snoopSet x.1 = snoopSet ln).foldr (fun x n => snoopEntry x.1 x.2 + 2 ^ 64 * n) 0)
/-- R59: the home slice of a tracked line reads and writes its set through the set's two system-slot lines, cached like any other. -/
def State.lookSet (s : State) (ln : Nat) : State :=
  (s.touchLine (lineNo (snoopBase ln)) 64 1).touchLine (lineNo (snoopBase ln) + 1) 64 1
/-- R59, R60: a BISnp to each host of a vector. -/
def State.backInvalidate (s : State) (bi : BitVec 16) (ln : Nat) : State :=
  let s' := s.lookSet ln
  { s' with outbox := s'.outbox ++ ((List.range 16).filter fun i => bi.getLsbD i).map fun i => Msg.biSnp i ln }

/-- R320: the latest lease expiry on a line recorded for any core other than the issuing core. -/
def State.leaseExpiry (s : State) (ln : Nat) (core : Option Nat) : Nat :=
  match s.hline ln with
  | some h => h.latest core
  | none => Tbl.getD (s.home ln).ovf (setOf ln) 0

/-- R211 step 2: the earliest e_h among the clips in force on a line. -/
def State.clip (s : State) (ln : Nat) : Option Nat :=
  s.launches.foldl (fun m l =>
    let hs := match l.2.st with | .notified _ hs => hs | .timed _ _ hs => hs | _ => []
    match Tbl.get? hs (homeSlice (64 * ln)), Tbl.get? l.2.shadow ln with
    | some e, some _ => some (match m with | some x => min x e | none => e)
    | _, _ => m) none

/-- R316, R318: the expiry a home grants on a local line, 0 for none. -/
def State.leaseGrant (s : State) (v : View) (ln len : Nat) : Nat :=
  if len = 0 then 0
  else if (s.movingPa (64 * ln)).isSome then 0
  else if (match v with | .launch lk => (s.holder lk ln).isSome | _ => false) then 0
  else
    let e := match s.clip ln with | some x => min x (s.now + len) | none => s.now + len
    if e ≤ s.now then 0 else e

/-- R314: the victim among the lines of a set of a lease cache, by the rule of `victim`. -/
def leaseVictim : List (Nat × LLine) → Option (Nat × LLine)
  | [] => none
  | a :: r =>
    match leaseVictim r with
    | none => some a
    | some b => if a.2.cls > b.2.cls ∨ (a.2.cls = b.2.cls ∧ a.2.used ≤ b.2.used) then some a else some b
/-- R255, R314, R317: a line fills one of the 8 ways of its set. Expired lines are dropped; a line evicted for capacity enters the array
of 256 victim tags, first in, first out. -/
def Core.fillLine (k : Core) (now ln : Nat) (x : LLine) : Core :=
  let lc := k.lc.filter fun y => decide (now < y.2.exp) && y.1 ≠ ln
  let mine := lc.filter fun y => Config.leaseSet y.1 % 256 = Config.leaseSet ln % 256
  match (if mine.length < 8 then none else leaseVictim mine) with
  | some v => { k with lc := Tbl.put (Tbl.del lc v.1) ln x, vta := (k.vta ++ [v.1]).drop (k.vta.length + 1 - 256) }
  | none => { k with lc := Tbl.put lc ln x }

/-- R315, R317, R319: a granted lease is recorded at home and fills the core's lease cache with the line as it was read, poison with it; a
line resolved through a shadow with its version (R194). -/
def State.fillLease (s : State) (v : View) (core ctx p cls ln e : Nat) (d : Line) (pois : BitVec 64) : State :=
  let s := s.modCluster (homeSlice (64 * ln)) fun c =>
    match Tbl.get? c.lines ln with
    | some h => { c with lines := Tbl.put c.lines ln { h with lease := Tbl.put h.lease core (max e (Tbl.getD h.lease core 0)) } }
    | none => { c with ovf := Tbl.put c.ovf (setOf ln) (max (Tbl.getD c.ovf (setOf ln) 0) e) }
  let own := (s.lookThrough v).any fun t => (Tbl.get? t ln).isSome
  let x : LLine := { data := d, pois := pois, exp := e, ctx := ctx, part := p, cls := cls, used := s.now
                     launch := (match v with | .launch lk => if own then some lk else none | _ => none)
                     far := (match v with | .foreign d p v => if own then some (d, p, v) else none | _ => none) }
  s.modCore core fun k => k.fillLine s.now ln x

/-- R321: a store or atomic drops the issuing core's copies of its lines. -/
def State.dropLease (s : State) (core : Nat) (lns : List Nat) : State :=
  s.modCore core fun k => { k with lc := k.lc.filter fun x => x.1 ∉ lns }

/-- R194, R317: the copy of a line that a load of a team hits. -/
def State.leaseHit (s : State) (core ctx : Nat) (v : View) (ln : Nat) : Option LLine :=
  match Tbl.get? (s.core core).lc ln with
  | some x =>
    if decide (s.now < x.exp) && x.ctx = ctx && !s.lostAt (64 * ln) && (x.launch.all fun k => v = .launch k) &&
        (x.far.all fun f => v = .foreign f.1 f.2.1 f.2.2) then some x else none
  | none => none

/-! ## Shadow capacity and shadow writes (R190, R222, R223) -/

/-- R209, R222: lines of a partition's shadow pool in use. -/
def State.poolUsed (s : State) (p : Nat) : Nat :=
  (s.launches.foldl (fun n l => if l.2.head.part = p then n + (l.2.shadow.filter fun x => x.2.spilled).length + l.2.held.length else n) 0) +
    s.ports.foreign.foldl (fun n f => if f.own = p then n + (f.shadow.filter fun x => x.2.spilled).length else n) 0
/-- R101, R222: lines the shadow pool holds. -/
def Part.poolLines (P : Part) : Nat := P.cfg.shpool * 32768
/-- R222, R314: where a new shadow entry of a line goes: a way, at most 8 of the set holding such entries, or spilled to the pool; none
without room. -/
inductive Place
  | way (w : Nat × Option Nat)
  | spill
deriving DecidableEq, Repr
def State.shadowPlace (s : State) (p ln : Nat) : Option Place :=
  match (if (s.shadowWays ln).length < 8 then s.wayFor p ln else none) with
  | some w => some (.way w)
  | none => if s.poolUsed p < (s.part p).poolLines then some .spill else none
/-- A write to a line has a shadow entry or room for one. -/
def State.hasRoom (s : State) (v : View) (ln : Nat) : Bool :=
  (Tbl.get? (s.shadowsOf v) ln).isSome || (s.shadowPlace (s.viewPart v) ln).isSome
/-- R223: an older uncommitted launch exists in the view's partition. -/
def State.olderThan (s : State) (v : View) : Bool :=
  match v with
  | .launch lk =>
    let h := (s.launch lk).head
    s.launches.any fun l => l.2.head.part = h.part && l.2.uncommitted && verOlder l.2.head.ver h.ver
  | .foreign _ p w => s.ports.foreign.any fun f => f.part = p && verOlder f.ver w

/-- R223: the older uncommitted launches of a launch's partition. -/
def State.olderOnes (s : State) (lk : Nat) : List Nat :=
  (s.launches.filter fun l => l.2.head.part = (s.launch lk).head.part && l.2.uncommitted && verOlder l.2.head.ver (s.launch lk).head.ver).map Prod.fst

/-- The shadow entry of a line, made when there is none; a committed line may leave its way for it. -/
def State.entryFor (s : State) (v : View) (ln : Nat) : Shadow × State :=
  match Tbl.get? (s.shadowsOf v) ln with
  | some e => (e, s)
  | none =>
    match s.shadowPlace (s.viewPart v) ln with
    | some (.way w) => ({ way := w.1 }, s.makeWay w)
    | _ => ({ spilled := true }, s)
/-- R190, R222: bytes written into a view's shadow by the store of number `tok`, with poison or without; poison leaves the
entry when one store covers the line (R77). The counts are the launch's context's. -/
def State.shadowWrite (s : State) (v : View) (pa : Nat) (bs : List Byte) (pois : Bool) (tok : Nat) : State :=
  let ln := lineNo pa
  let isNew := (Tbl.get? (s.shadowsOf v) ln).isNone
  let (e, s) := s.entryFor v ln
  let s := match v with
    | .launch lk => if isNew then (s.count (s.launch lk).head.ctx 26 1).count (s.launch lk).head.ctx 27 (b2n e.spilled) else s
    | _ => s
  let m : BitVec 64 := BitVec.ofNat 64 ((2 ^ bs.length - 1) * 2 ^ (pa % 64))
  let cover := if e.tok = tok then e.cover ||| m else m
  let full := decide (cover = BitVec.allOnes 64)
  let data := bs.zipIdx.foldl (fun d p => setLineByte d (pa % 64 + p.2) p.1) e.data
  s.putShadow v ln { e with mask := e.mask ||| m, data := data, poison := pois || (e.poison && !full)
                            clean := full || (e.clean && !pois), tok := tok, cover := cover }

/-- A view's shadow entry of a line leaves. -/
def State.delShadow (s : State) (v : View) (ln : Nat) : State :=
  match v with
  | .launch lk => s.modLaunch lk fun l => { l with shadow := Tbl.del l.shadow ln }
  | .foreign d p w => s.modForeign d p w fun f => { f with shadow := Tbl.del f.shadow ln }
/-- A shadow entry comes to stand at another line, where it takes a way or spills (R183, R398). -/
def State.placeShadow (s : State) (v : View) (ln : Nat) (x : Shadow) : State :=
  let (e, s) := s.entryFor v ln
  s.putShadow v ln { x with way := e.way, spilled := e.spilled }

/-- R205, R190: a delta record, with its line's shadow entry. -/
def State.deltaWrite (s : State) (v : View) (pa : Nat) (d : Delta) : State :=
  let ln := lineNo pa
  let s := if (Tbl.get? (s.shadowsOf v) ln).isSome then s else (let (e, s) := s.entryFor v ln; s.putShadow v ln e)
  s.putDelta v pa d

end Sys2Proof.Machine
end

