-- ==== Sys2Proof/Machine/Handle.lean ====
section
/-! DEFINITION. KV handles and pages: fields, the checks of a dereference, where a row lies, and copy on write (R387 to
R398). -/

namespace Sys2Proof.Machine

/-! ## Handles (R387) -/

def hPart (h : Word) : Nat := bits h.toNat 63 58
def hGen (h : Word) : Nat := bits h.toNat 57 46
def hIdx (h : Word) : Nat := bits h.toNat 45 26
def hWr (h : Word) : Bool := bit h.toNat 25
def hBound (h : Word) : Nat := bits h.toNat 24 0
def mkHandle (part gen idx : Nat) (wr : Bool) (bound : Nat) : Word :=
  BitVec.ofNat 64 (part * 2 ^ 58 + gen % 4096 * 2 ^ 46 + idx * 2 ^ 26 + b2n wr * 2 ^ 25 + bound % 2 ^ 25)

/-! ## Entries in a launch's view (R392, R397, R407, R627) -/

def Part.kvEnt (P : Part) (idx : Nat) : KvEnt := Tbl.getD P.kv idx {}
def State.modKv (s : State) (p idx : Nat) (f : KvEnt → KvEnt) : State := s.modPart p fun P => { P with kv := Tbl.modify P.kv idx f }
/-- A launch's view of an entry: its own, or the nearest chain predecessor's. -/
def State.kvLook {α : Type} (s : State) (v : View) (idx : Nat) (f : KvView → Option α) : Option α :=
  match v with
  | .launch lk => (lk :: s.chainOf s.launches.length lk).findSome? fun q => (Tbl.get? (s.launch q).kv idx).bind f
  | .foreign _ _ _ => none
/-- R397: `len` in a view. -/
def State.kvLen (s : State) (v : View) (idx : Nat) (e : KvEnt) : Nat := (s.kvLook v idx KvView.len).getD e.len
/-- R627: the generations that pass in a view: the committed one, and the next within a launch that has truncated. -/
def State.kvGenOk (s : State) (v : View) (idx : Nat) (e : KvEnt) (g : Nat) : Bool :=
  g = e.gen || (match v with
    | .launch lk => ((Tbl.get? (s.launch lk).kv idx).bind KvView.cut).isSome && g = e.gen + 1
    | .foreign _ _ _ => false)

/-- R389, R625: the checks of a dereference in order: the cause and the number of the failing check, or the entry. `ok` judges
the generation, `len` is the length that bounds a read. -/
def kvCheck (P : Part) (part ctx : Nat) (h : Word) (need : Nat) (write : Bool) (pos : Option Nat)
    (ok : KvEnt → Nat → Bool) (len : KvEnt → Nat) : Except (Nat × Nat) KvEnt :=
  let e := P.kvEnt (hIdx h)
  if hPart h ≠ part then .error (0x68, 1)
  else if P.kvBlocks * 4096 ≤ hIdx h ∨ ¬ (e.kind = 1 ∨ e.kind = 2) ∨ e.closing then .error (0x6A, 2)
  else if e.kind ≠ need then .error (0x6E, 3)
  else if !ok e (hGen h) then .error (0x69, 4)
  else if write ∧ ¬ (hWr h ∧ e.ctx = ctx) then .error (0x6D, 5)
  else match pos with
    | none => .ok e
    | some p =>
      if p ≥ hBound h then .error (0x6B, 6)
      else if p ≥ (if write then e.cap else len e) then .error (0x6C, 7)
      else .ok e

/-- R389 in a view. -/
def State.kvDeref (s : State) (v : View) (part ctx : Nat) (h : Word) (need : Nat) (write : Bool) (pos : Option Nat) : Except (Nat × Nat) KvEnt :=
  kvCheck (s.part part) part ctx h need write pos (fun e g => s.kvGenOk v (hIdx h) e g) (fun e => s.kvLen v (hIdx h) e)
/-- R389 against committed state (R624, R630). -/
def State.kvDeref0 (s : State) (part ctx : Nat) (h : Word) (need : Nat) (write : Bool) (pos : Option Nat) : Except (Nat × Nat) KvEnt :=
  kvCheck (s.part part) part ctx h need write pos (fun e g => g = e.gen) (fun e => e.len)

/-- R430: information kind H. -/
def infoH (h : Word) (pos lane chk : Nat) : List Word := [h, BitVec.ofNat 64 pos, BitVec.ofNat 64 lane, BitVec.ofNat 64 chk]

/-! ## Rows and pages (R394, R396, R398) -/

def KvEnt.rowBytes (e : KvEnt) : Nat := 16 * e.rowg
/-- R396: the offset of a row in its page, half 0 the key and 1 the value. -/
def KvEnt.rowOff (e : KvEnt) (pos half : Nat) : Nat := (half * 2 ^ e.ptok + pos % 2 ^ e.ptok) * e.rowBytes
def KvEnt.pageNo (e : KvEnt) (pos : Nat) : Nat := pos / 2 ^ e.ptok
def KvEnt.pageAt (e : KvEnt) (n : Nat) : Nat := (e.pages[n]?).getD 0
/-- The physical address of a byte of a row. -/
def KvEnt.rowPa (e : KvEnt) (pos half byte : Nat) : Nat := e.pageAt (e.pageNo pos) + e.rowOff pos half + byte

/-- R394: the free pages of a tier. -/
def Part.freePages (P : Part) (remote : Bool) : List Nat :=
  (P.pages.filter fun x => x.2.remote = remote && x.2.share = 0 && !x.2.moving).map Prod.fst
/-- R395: the reserve of a tier. -/
def Part.reserve (P : Part) (remote : Bool) : Nat := if remote then P.resR else P.resL
def Part.modPage (P : Part) (pa : Nat) (f : KvPage → KvPage) : Part := { P with pages := Tbl.modify P.pages pa f }
def KvPage.shared (k : KvPage) : Bool := decide (k.share > 1)

/-- Move the committed bytes and poison of a run of lines of local memory. -/
def State.copyLines (s : State) (src dst : Nat) : Nat → State
  | 0 => s
  | n + 1 =>
    State.copyLines (s.commitLine dst (BitVec.allOnes 64) (memLine s.mem src) (s.poisoned src || s.lostAt src) true) (src + 64) (dst + 64) n

/-- R398: copy a shared local page to a private page of the writer's entry, with the writer's shadow of it. -/
def State.copyOnWrite (s : State) (v : View) (p idx n new : Nat) : State :=
  let old := ((s.part p).kvEnt idx).pageAt n
  let s := s.copyLines old new 1024
  let s := (s.shadowsOf v).foldl (fun s x =>
    if old ≤ 64 * x.1 ∧ 64 * x.1 < old + 65536 then s.placeShadow v ((64 * x.1 - old + new) / 64) x.2 else s) s
  (s.modPart p fun P => (P.modPage old fun k => { k with share := k.share - 1 }).modPage new fun k => { k with share := 1, priv := true }).modKv
    p idx fun e => { e with pages := e.pages.set n new }

/-- R390: fields of an offset word. -/
def offPos (w : Nat) : Nat := bits w 40 16
def offHalf (w : Nat) : Nat := bits w 15 15
def offByte (w : Nat) : Nat := bits w 14 0

/-- What a handle-positional access comes to: a cause, a physical address in a state, or a page whose copy from the pool must
end first. -/
inductive KvAt
  | raise (r : Raised)
  | at_ (pa : Nat) (s : State)
  | wait (id : Nat) (s : State)

/-- R389, R390, R398: where a handle-positional access of `n` bytes lands. -/
def State.kvPlace (s : State) (v : View) (part ctx lane : Nat) (h : Word) (off n : Nat) (write : Bool) : KvAt :=
  match s.kvDeref v part ctx h 1 write (some (offPos off)) with
  | .error (c, k) => .raise { cause := c, lane := lane, info := infoH h (offPos off) lane k }
  | .ok e =>
    if off / 2 ^ 41 ≠ 0 ∨ offByte off + n > e.rowBytes then .raise { cause := 0x6F, lane := lane, info := infoH h off lane 0 }
    else
      let pg := e.pageNo (offPos off)
      let old := e.pageAt pg
      let P := s.part part
      let at_ := fun (s : State) => KvAt.at_ (((s.part part).kvEnt (hIdx h)).rowPa (offPos off) (offHalf off) (offByte off)) s
      match s.xlat.moves.find? fun m => m.old = old && decide (2 ≤ m.phase ∧ m.phase ≤ 3) && m.kv.isSome with
      | some m => .wait m.id s
      | none =>
        let k := Tbl.getD P.pages old { remote := false, share := 0 }
        if !write || !k.shared then at_ s
        else match P.freePages k.remote with
          | [] => .raise { cause := 0x6C, lane := lane, info := [h, BitVec.ofNat 64 (offPos off), BitVec.ofNat 64 lane, Config.noPageCheck] }
          | new :: _ =>
            if k.remote then
              let (id, s) := s.take
              let m : Move := { id := id, pf := false, ctx := ctx, va := 0, lg := 16, old := old, new := new, phase := 3, kv := some (part, hIdx h, pg)
                                launch := match v with | .launch lk => some lk | .foreign _ _ _ => none }
              .wait id ({ s with xlat := { s.xlat with moves := s.xlat.moves ++ [m] } }.modPart part fun P => P.modPage new fun k => { k with moving := true })
            else at_ (s.copyOnWrite v part (hIdx h) pg new)

end Sys2Proof.Machine
end

