-- ==== Sys2Proof/Machine/Pack.lean ====
section
/-! DEFINITION. Live sets and continuations (R286 to R296, R306): when a lane migrates, whether it may, and the
continuation its registers are captured into. -/

namespace Sys2Proof.Machine

/-- R288: a live set: scalar and vector register numbers in slot order. -/
structure LiveSet where
  s : List Nat
  v : List Nat
deriving DecidableEq, Repr

/-- R288: live set i of an image, for an allotment; none when it is invalid. -/
def Image.liveSet (m : Image) (allot i : Nat) : Option LiveSet :=
  if i ≥ m.lcnt then none
  else
    let q := leNat ((List.range 16).map fun j => Tbl.getD m.bytes (m.loff + 16 * i + j) 0)
    let ns := bits q 6 4
    let nv := bits q 3 0
    let v := (List.range nv).map fun j => bits q (12 + 6 * j) (7 + 6 * j)
    if q / 2 ^ 79 ≠ 0 ∨ ns > 4 ∨ nv > 8 ∨ v.any (fun r => decide (allot ≤ r)) then none
    else some { s := (List.range ns).map fun j => bits q (60 + 6 * j) (55 + 6 * j), v := v }

/-- Slots of a continuation: words, slot 0 lowest. -/
def slotWords (l : List Word) : Nat := l.foldr (fun w n => w.toNat + 2 ^ 64 * n) 0

/-- R289: the carried time of a word: congruent to it modulo 2^32, within 2^31 ticks of the receiver's device time. -/
def carried (now w : Nat) : Nat :=
  let base := now / 2 ^ 32 * 2 ^ 32 + w
  if base > now + 2 ^ 31 then base - 2 ^ 32 else if base + 2 ^ 31 ≤ now then base + 2 ^ 32 else base

def Team.hopOf (t : Team) (l : Nat) : Nat := Tbl.getD t.flow.hop l 0

/-- The address of the first word of the group of the instruction being performed (R491, R493). -/
def Cur.groupPc (c : Cur) : Nat := c.entry.pc.toNat - 4 * c.hintWords.length

/-- R288: the vector allotment of the origin team of a team's lanes. -/
def State.originAllot (s : State) (t : Team) : Nat :=
  if !t.id.landed then t.regs.allot
  else if t.id.foreign then 8 * (1 + Config.originAllot t.id.lver % 8)
  else (s.team (t.id.opart * 2 ^ 20 + t.id.oteam % 2 ^ 20)).regs.allot
/-- R289, R291: a lane's continuation, or with `ret` its return; the carried time is filled in when it is packed. -/
def State.contOf (s : State) (t : Team) (l pc : Nat) (ret : Bool) : Option (BitVec 1024) :=
  match (s.image t).liveSet (s.originAllot t) t.sync.lset with
  | none => none
  | some ls =>
    let h := (s.launch t.id.launch).head
    let orig := if t.id.landed then (Tbl.getD t.flow.hop (1024 + l) 0, t.id.oteam, t.id.opart, t.id.lver)
      else (l, Config.pbrId % 4096 * 2 ^ 20 + t.id.index, h.part, h.ver)
    let sdat := slotWords (ls.s.map t.regs.getS)
    let vdat := slotWords (ls.v.map fun r => t.regs.getV r l)
    some (BitVec.ofNat 1024 (sdat * 2 ^ 768 + vdat * 2 ^ 256 + orig.2.2.1 * 2 ^ 248 + b2n ret * 2 ^ 247 +
      (t.hopOf l + b2n (!ret)) % 8 * 2 ^ 244 + t.sync.lset * 2 ^ 236 + t.id.img * 2 ^ 226 + orig.1 * 2 ^ 216 + orig.2.1 % 2 ^ 32 * 2 ^ 184 +
      orig.2.2.2 * 2 ^ 160 + t.regs.fmt.toNat * 2 ^ 128 + (if ret then 0 else pc) * 2 ^ 96 + (Tbl.getD t.flow.wid l 0).toNat))
/-- R291: the packed carried time. -/
def packWct (c : BitVec 1024) (g : Nat) : BitVec 1024 := c ||| BitVec.ofNat 1024 (g % 2 ^ 32 * 2 ^ 64)

/-- R11, R286: mesh distance of two clusters. -/
def meshDist (a b : Nat) : Nat :=
  let d := fun (x y : Nat) => (x - y) + (y - x)
  d (a % 12) (b % 12) + d (a / 12) (b / 12)

/-- R102, R244: a partition owns a quarter of a cluster. -/
def Part.ownsCluster (P : Part) (c : Nat) : Bool := (List.range 4).any fun q => P.cfg.quart.getLsbD (4 * c + q)
/-- R101, R296: a landing right on a W9L. -/
def Part.mayLand (P : Part) (pbr : Nat) : Bool := P.cfg.lrights.any fun r => r.getLsbD 15 && bits r.toNat 11 0 = pbr

/-- R286: where a lane migrates under a policy for the line of a physical address: cluster and address, or W9L and DPA. -/
def State.migDest (s : State) (t : Team) (mig pa : Nat) : Option (Nat × Option Nat × Nat) :=
  if mig = 0 then none
  else if s.isLocal pa then
    let h := homeSlice pa
    if h = t.id.cluster then none
    else if mig = 1 ∧ meshDist h t.id.cluster ≤ (s.part t.id.part).cfg.mdist then none
    else some (h, none, pa)
  else match s.poolEnt pa with
    | some e => some (0, some e.pbr, e.dpaOf pa)
    | none => none

/-- R296, R306: the cause for which a lane's migration is refused at its origin. -/
def State.migRefusal (s : State) (t : Team) (l : Nat) (dest : Nat × Option Nat × Nat) (pa : Nat) : Option Nat :=
  let P := s.part t.id.part
  if t.sync.tm.active && !t.sync.inHandler then some 0x5C
  else if t.hopOf l ≥ 4 then some 0x58
  else match dest.2.1 with
    | none => if P.cfg.mclus.getLsbD dest.1 && P.ownsCluster dest.1 then none else some 0x5B
    | some pbr =>
      if !P.mayLand pbr then some 0x5B
      else match s.poolEnt pa with
        | some e => if (Tbl.getD s.ports.links e.link {}).ide then none else some 0x61
        | none => some 0x5B

/-- R430: information kind M. -/
def infoM (dest : Nat × Option Nat × Nat) (hop lset : Nat) : List Word :=
  [BitVec.ofNat 64 ((dest.2.1.getD 0) * 2 ^ 20 + dest.1), BitVec.ofNat 64 hop, BitVec.ofNat 64 lset]

end Sys2Proof.Machine
end

