-- ==== Sys2Proof/Machine/Access.lean ====
section
/-! DEFINITION. A lane's access from its checks to its completion (R164, R192, R200, R286, R316 to R333, R441, R570 to R587):
what its checks come to, when it may be performed, and what performing it does. -/

namespace Sys2Proof.Machine

/-! ## Accesses -/

def AccKind.use : AccKind → Use
  | .load | .loadS | .pf | .arm | .fe _ | .sig => .load
  | .store => .store
  | .atomic fn => if fn = 0 ∨ fn = 1 ∨ fn = 9 then .add else .rmw
  | .satomic _ => .rmw
  | .fence => .load
def AccKind.writes : AccKind → Bool
  | .load | .loadS | .pf | .arm | .fe _ | .sig => false
  | _ => true
def AccKind.isStore : AccKind → Bool
  | .store => true
  | _ => false
def AccKind.isAtomic : AccKind → Bool
  | .atomic _ => true
  | _ => false
/-- The number under which the access kind of information kind T is left open. -/
def AccKind.num : AccKind → Nat
  | .load => 0 | .loadS => 1 | .pf => 2 | .store => 3 | .atomic fn => 4 + fn | .satomic op => 16 + op | .arm => 20 | .fe c => 21 + b2n c | .fence => 23 | .sig => 24
def Acc.len (a : Acc) : Nat := a.esz * a.cnt
/-- The bytes a store writes, element 0 lowest. -/
def Acc.bytes (a : Acc) : List Byte := leBytes a.len a.x.toNat

/-- The parts of a run of at most 64 bytes in its lines. -/
def lineParts (va n : Nat) : List (Nat × Nat) :=
  let l := min n (64 - va % 64)
  if l = n then [(va, n)] else [(va, l), (va + l, n - l)]

/-- R430: information kind T. -/
def Acc.infoT (a : Acc) (lv entry : Word) : List Word :=
  [BitVec.ofNat 64 a.va, lv ||| ((Config.accessKind a.kind.num).setWidth 64 <<< 8), entry, BitVec.ofNat 64 a.lane]
/-- Kind T before any walk. -/
def Acc.infoT0 (a : Acc) : List Word := a.infoT ((Config.noLevel a.kind.num).setWidth 64) (Config.noEntry a.kind.num)
/-- Kind T after a walk. -/
def Acc.infoTe (a : Acc) (e : TlbEnt) : List Word := a.infoT (BitVec.ofNat 64 e.lv) (BitVec.ofNat 64 e.pte)
/-- Kind T with a completion status (R710). -/
def Acc.infoTs (a : Acc) (status : Nat) : List Word := a.infoT 0 (BitVec.ofNat 64 status)
/-- Kind T of a line that a unit found unreadable: with the level and entry of its walk, or its completion status, where there is one
(R167, R713). -/
def Acc.infoBad (a : Acc) (at_ : Option (Nat × Nat)) : List Word :=
  match at_ with | some x => a.infoT (BitVec.ofNat 64 x.1) (BitVec.ofNat 64 x.2) | none => a.infoT0
/-- R430: information kind P. -/
def State.infoP (s : State) (a : Acc) (pa src : Nat) : List Word :=
  let line := match (if src = 1 then s.poolEnt pa else none) with | some e => e.dpaOf pa | none => pa
  [BitVec.ofNat 64 a.va, BitVec.ofNat 64 pa, BitVec.ofNat 64 (lineBase line), BitVec.ofNat 64 (src + a.lane * 2 ^ 16)]

/-! ## The checks (R574) -/

/-- What the checks of a lane's access come to. -/
inductive Chk
  | ok (a : Acc)
  | wait (w : AccWait)
  | raise (r : Raised)
  /-- A violation at an address, with the right broken. -/
  | freeze (va right : Nat)
  /-- A guard granule is touched: the access is not performed (R339). -/
  | guard (off : Nat)
  /-- The lane migrates: cluster, W9L and DPA. -/
  | leave (d : Nat × Option Nat × Nat)

/-- R166, R168, R183: translate the parts of an access, or what the first that is not translated waits for. -/
def State.xlatParts (s : State) (ctx core : Nat) : List (Nat × Nat) → Except AccWait (List (Nat × Nat × TlbEnt)) × State
  | [] => (.ok [], s)
  | (va, l) :: r =>
    match s.lookup ctx core va with
    | (.moving id, s) => (.error (.move id), s.count ctx 37 1)
    | (.miss, s) => let (id, s) := s.joinWalk ctx core va; (.error (.walk id), s)
    | (.hit e, s) =>
      match s.xlatParts ctx core r with
      | (.ok es, s) => (.ok ((va, l, e) :: es), s)
      | (.error w, s) => (.error w, s)

/-- R584: the mapping of a team that serves a global range: its number and content. -/
def State.mappingAt (s : State) (k : Nat) (t : Team) (va n : Nat) : Option (Nat × Mapping) :=
  (s.cluster t.id.cluster).maps.find? fun m => decide (k ∈ m.2.teams) && decide (m.2.va ≤ va ∧ va + n ≤ m.2.va + m.2.len)

/-- R441: the watchpoint that an access matches. -/
def State.watchAt (s : State) (t : Team) (a : Acc) : Option Nat :=
  let d := (s.ctx t.id.ctx).dbg
  let bitOf := match a.kind with | .atomic _ => 0 | .store => 2 | _ => 1
  if !d.att || a.nowatch then none
  else (d.wptc.find? fun w =>
    bit w.2.toNat 63 && bit w.2.toNat bitOf && decide (Tbl.getD d.wptAt w.1 0 + 32 ≤ s.now) &&
      (let x := (Tbl.getD d.wpta w.1 0).toNat
       let lg := max 6 (min 21 (bits x 5 0))
       let b := bits x 56 6 * 64 / 2 ^ lg * 2 ^ lg
       decide (a.va < b + 2 ^ lg ∧ b < a.va + a.len))).map Prod.fst

/-- R66: a release refuses a view without a shadow entry in the slot. -/
def State.releaseRefuses (s : State) (v : View) (pa : Nat) : Bool :=
  s.releasing pa && !((s.shadowsOf v).any fun x => extentOf (64 * x.1) = extentOf pa)

/-- R183, R286: some part of an access meets a moving translation. -/
def State.meetsMove (s : State) (ctx : Nat) (a : Acc) : Option Move :=
  (lineParts a.va a.len).findSome? fun x => s.movingAt ctx x.1
/-- Checks 8 to 10 of R574 on a translated access: migration, footprint, watchpoint. `here`: a mapping's stash bank or its private copy
executes an atomic (R330). -/
def State.checkTail (s : State) (t : Team) (a : Acc) (stb here : Bool) : Chk :=
  let v := t.view
  let mayGo := match a.kind with
    | .load | .store | .atomic _ => !a.stay && !a.bank && !a.moved && (a.hnd.isSome || (s.meetsMove t.id.ctx a).isNone)
    | _ => false
  let pa0 := match a.segs with | g :: _ => if g.host then none else some g.pa | [] => none
  let dest := if mayGo then pa0.bind fun pa => s.migDest t (polMig a.pol) pa else none
  let go : Except Raised (Option (Nat × Option Nat × Nat)) :=
    match dest, pa0 with
    | some d, some pa =>
      match s.migRefusal t a.lane d pa with
      | none => .ok (some d)
      | some c =>
        if t.sync.migTrap && !t.id.landed then
          .error { cause := c, lane := a.lane, info := infoM d (t.hopOf a.lane) t.sync.lset }
        else .ok none
    | _, _ => .ok none
  match go with
  | .error r => .raise r
  | .ok (some d) => .leave d
  | .ok none =>
    let foot := if a.hnd.isSome || (a.kind = .sig : Bool) then .ok false else footCheck (s.footOf v) a.kind.use stb a.va a.len
    match foot with
    | .error c => .raise { cause := c, lane := a.lane, info := a.infoT0 }
    | .ok delta =>
      match s.watchAt t a with
      | some n => .raise { cause := 0xB2, lane := a.lane
                           info := [BitVec.ofNat 64 n, BitVec.ofNat 64 a.va, if a.kind.writes then a.x else 0, BitVec.ofNat 64 a.lane] }
      | none =>
        if a.kind.isAtomic && !here && a.segs.any (·.host) then .raise { cause := 0x29, lane := a.lane, info := a.infoTs 8 }
        else .ok { a with wait := .ready, delta := delta }

/-- R307: the cause of a refused migration that goes the slow way is remembered for `mstat`. -/
def State.noteRefusal (s : State) (k : Nat) (t : Team) (a : Acc) : State :=
  match a.kind, a.segs with
  | .load, g :: _ | .store, g :: _ | .atomic _, g :: _ =>
    if a.stay || a.bank || g.host then s
    else match s.migDest t (polMig a.pol) g.pa with
      | some d => match s.migRefusal t a.lane d g.pa with
        | some c => (s.modTeam k fun t => { t with sync := { t.sync with lastRefusal := c } }).count t.id.ctx 54 1
        | none => s
      | none => s
  | _, _ => s

/-- Checks 6 and 7 of R574: permission of every part, unmapped addresses, and the partition check. -/
def State.checkParts (s : State) (t : Team) (a : Acc) (es : List (Nat × Nat × TlbEnt)) (here : Bool := false) : Chk :=
  let u := a.kind.use
  let pa := fun (x : Nat × Nat × TlbEnt) => x.2.2.paOf x.1
  match es.find? fun x => !x.2.2.host && s.unmapped (pa x) with
  | some x => .raise { cause := 0x27, lane := a.lane, info := a.infoTe x.2.2 }
  | none =>
    match es.findSome? fun x => (permCause u x.2.2).map fun c => (c, x.2.2) with
    | some (c, e) => .raise { cause := c, lane := a.lane, info := a.infoTe e }
    | none =>
      match es.find? fun x => !x.2.2.host && !s.ownsEnt t.id.part x.2.2 with
      | some x => .freeze x.1 (s.rightAt (pa x))
      | none =>
        match es.find? fun x => !x.2.2.host && s.releaseRefuses t.view (pa x) with
        | some x => .raise { cause := 0x4D, lane := a.lane, info := a.infoTe x.2.2 }
        | none =>
          let a := { a with segs := es.map fun x => { len := x.2.1, pa := pa x, host := x.2.2.host, shared := x.2.2.shared } }
          s.checkTail t a (es.all fun x => x.2.2.stb && !x.2.2.host) here

/-- R583: where a stash range of a team lies: inside an allocation or a joined mapping, or on a guard granule of one of its
own allocations, whose first touched byte is named. -/
inductive StashAt
  | out
  | guard (off : Nat)
  | at_ (x : Alloc)
def Team.stashPlace (t : Team) (a n : Nat) : StashAt :=
  if a + n > 2 ^ 21 then .out
  else match t.sync.allocs.find? fun x => decide (x.base ≤ a ∧ a + n ≤ x.base + x.len) with
    | some x => .at_ x
    | none =>
      match t.sync.allocs.find? fun x => !x.joined && decide (x.base ≤ a + 64 ∧ a + n ≤ x.base + x.len + 64) with
      | some x => .guard (if a < x.base then a else max a (x.base + x.len))
      | none => .out
/-- R430: information kind S of a stash offset of a cluster. -/
def infoSt (cl off n : Nat) : List Word := infoS (4 * cl + off / 2 ^ 19 % 4) (off % 2 ^ 19) n

/-- R330: the bank of a mapping, or the service team on its private copy, executes an atomic of a scope. -/
def Mapping.serves (m : Mapping) (pol : Word32) : Bool := m.kind = 1 || decide (polScope pol < 2)
/-- R574: the checks of an access served by a mapping: write permission, and for a line not filled translation and its
causes. A fill is a read of the page (R164), whatever caused it. -/
def State.checkMapped (s : State) (t : Team) (a : Acc) (m : Mapping) : Chk × State :=
  if a.kind.writes && !m.w then (.raise { cause := 0x3B, lane := a.lane, info := infoQ m.base a.va a.lane }, s)
  else if (lineParts a.va a.len).all fun x => (Tbl.get? m.lines ((x.1 - m.va) / 64)).isSome then
    (.ok { a with wait := .ready, segs := [] }, s)
  else
    match s.xlatParts t.id.ctx t.id.core (lineParts a.va a.len) with
    | (.error w, s) => (.wait w, s)
    | (.ok es, s) =>
      match s.checkParts t { a with kind := .loadS, bank := true, nowatch := a.nowatch || a.kind.writes } es with
      | .ok b =>
        if !a.kind.writes then (.ok { a with wait := .ready, segs := b.segs }, s)
        else match s.checkParts t { a with bank := true } es (m.serves a.pol) with
          | .ok b => (.ok { a with wait := .ready, segs := b.segs }, s)
          | c => (c, s)
      | c => (c, s)

/-- R574: the checks of a lane's stash access. -/
def State.checkStash (s : State) (k : Nat) (t : Team) (a : Acc) : Chk × State :=
  match t.stashPlace a.va a.len with
  | .out => (.raise { cause := 0x38, lane := a.lane, info := infoSt t.id.cluster a.va 1 }, s)
  | .guard off => if a.va % a.esz ≠ 0 then (.raise { cause := 0x3A, lane := a.lane, info := infoSt t.id.cluster a.va 1 }, s) else (.guard off, s)
  | .at_ x =>
    if a.va % a.esz ≠ 0 then (.raise { cause := 0x3A, lane := a.lane, info := infoSt t.id.cluster a.va 1 }, s)
    else if x.kind = 0 then (.ok { a with wait := .ready, segs := [] }, s)
    else match Tbl.get? (s.cluster t.id.cluster).maps x.map with
      | some m => if k ∈ m.teams then s.checkMapped t { a with stash := false, bank := true, va := m.va + (a.va - m.base) } m
                  else (.ok { a with wait := .ready, segs := [] }, s)
      | none => (.ok { a with wait := .ready, segs := [] }, s)

/-- R574: the checks of a lane's access up to performing. -/
def State.checkAcc (s : State) (k : Nat) (t : Team) (a : Acc) : Chk × State :=
  if a.stash then s.checkStash k t a
  else match a.hnd with
  | some h =>
    if a.kind.isAtomic then (.raise { cause := 0x6F, lane := a.lane, info := infoH h a.va a.lane 0 }, s)
    else
      match s.kvPlace t.view t.id.part t.id.ctx a.lane h a.va a.len a.kind.writes with
      | .raise r => (.raise r, s)
      | .wait id s => (.wait (.move id), s)
      | .at_ pa s =>
        -- R65, R66, R94: a handle's page is met as any other memory is
        let a := { a with segs := (lineParts pa a.len).map fun x => { len := x.2, pa := x.1 } }
        if s.unmapped pa then (.raise { cause := 0x27, lane := a.lane, info := a.infoT0 }, s)
        else if !s.ownsAt t.id.part pa then (.freeze a.va (s.rightAt pa), s)
        else if s.releaseRefuses t.view pa then (.raise { cause := 0x4D, lane := a.lane, info := a.infoT0 }, s)
        else (s.checkTail t a true false, s)
  | none =>
    if a.va + a.len > 2 ^ 57 then (.raise { cause := 0x20, lane := a.lane, info := a.infoT0 }, s)
    else if a.va % a.esz ≠ 0 then (.raise { cause := 0x24, lane := a.lane, info := a.infoT0 }, s)
    else
      match (if a.kind = .sig then none else s.mappingAt k t a.va a.len) with
      | some (_, m) => s.checkMapped t a m
      | none =>
        match s.xlatParts t.id.ctx t.id.core (lineParts a.va a.len) with
        | (.error w, s) => (.wait w, s)
        | (.ok es, s) =>
          match s.checkParts t a es with
          | .ok b => (.ok b, s.noteRefusal k t b)
          | c => (c, s)

/-! ## The entry of a memory instruction -/

/-- Change an entry of a team's replay queue. -/
def State.modEntry (s : State) (k eid : Nat) (f : Entry → Entry) : State :=
  s.modTeam k fun t => { t with sync := { t.sync with rq := t.sync.rq.map fun e => if e.id = eid then f e else e } }
/-- Change one access of an entry. -/
def State.modAcc (s : State) (k eid lane : Nat) (f : Acc → Acc) : State :=
  s.modEntry k eid fun e => { e with accs := e.accs.map fun a => if a.lane = lane then f a else a }

/-- R420: the cause of the lowest lane stays. -/
def lowerRaise (o : Option Raised) (r : Raised) : Option Raised :=
  match o with | some x => if x.lane ≤ r.lane then some x else some r | none => some r

/-- An entry with nothing left to perform and nothing to write is done (R421). -/
def Entry.finish (e : Entry) : Entry :=
  if e.accs = [] && e.res = [] && e.dest = [] && e.raised.isNone && !e.faulting then { e with done := true } else e

/-- R271, R287, R302: a lane leaves with its access unperformed; it becomes away, or ends here if it had landed. Its registers are
captured. A lane whose team has issued `exit` since is away and no longer exited: its retire notice is to come (R303, R305). -/
def State.laneLeaves (s : State) (k : Nat) (eid : Nat) (a : Acc) (d : Nat × Option Nat × Nat) : State :=
  let t := s.team k
  let lane := a.lane
  let e := (t.sync.rq.find? fun e => e.id = eid).getD {}
  let pc := e.pc.toNat - 4 * (b2n (e.modw ≠ 0) + b2n (e.immw ≠ 0))
  let c := s.contOf t lane pc false
  let lv : Leaving := { lane := lane, entry := eid, cluster := d.1, pbr := d.2.1, dpa := d.2.2, cont := c.getD 0, ok := c.isSome
                        orig := { e with accs := [a], res := [], raised := none, faulting := false, done := false, gov := bitM lane } }
  let s := s.setTeam k { t with
    flow := { t.flow with pres := t.flow.pres &&& ~~~bitM lane
                          -- R92: the W9L the lane went to
                          hop := Tbl.putD t.flow.hop (3072 + lane) (match d.2.1 with | some p => p + 1 | none => 0) 0
                          away := if t.id.landed then t.flow.away else t.flow.away ||| bitM lane
                          exited := if t.id.landed then t.flow.exited ||| bitM lane else t.flow.exited &&& ~~~bitM lane }
    sync := { t.sync with leaving := t.sync.leaving ++ [lv] } }
  if t.id.landed then s else s.modLaunch t.id.launch fun l => { l with conts := l.conts + 1 }

/-- R95, R96: a violation freezes a team at an access. -/
def State.freezeTeam (s : State) (k : Nat) (t : Team) (lane va right : Nat) : State :=
  let i := s.infoV 0 t.id.slot va right
  (s.modTeam k fun t => { t with sched := { t.sched with frozen := some { cause := 0x90, lane := lane, info := i } } }).violate t.id.ctx 0 t.id.slot va right

/-- R183: the move whose queue is being released that a translated access meets: by its moving translation, or, of a handle's page, at its
new place. -/
def State.releaseOf (s : State) (t : Team) (b : Acc) : Option Move :=
  if b.stash || b.segs = [] then none
  else if b.hnd.isNone then s.meetsMove t.id.ctx b
  else s.xlat.moves.find? fun m => m.phase = 4 && m.kv.isSome && b.segs.any fun g => !g.host && decide (m.new ≤ g.pa ∧ g.pa < m.new + 2 ^ m.lg)

/-- R321: the lines whose copies a write drops from its core's lease cache: those it goes to, and those a mapping holds for it. -/
def State.writtenLines (s : State) (k : Nat) (t : Team) (a : Acc) : List Nat :=
  a.segs.map (fun g => lineNo g.pa) ++
    match (if a.hnd.isSome || a.stash then none else s.mappingAt k t a.va a.len) with
    | some (_, m) => (lineParts a.va a.len).filterMap fun x => (Tbl.get? m.lines ((x.1 - m.va) / 64)).map fun y => y.ln
    | none => []

/-- What the checks of a lane's access do to its entry: it goes on its way, waits, raises, freezes its team, or its lane
leaves. A prefetch raises nothing (R579). -/
def State.settleAcc (s : State) (k eid : Nat) (a : Acc) (c : Chk) : State :=
  let drop := fun (s : State) (stays : Bool) => s.modEntry k eid fun e =>
    { e with accs := e.accs.filter fun b => b.lane ≠ a.lane, gov := if stays then e.gov else e.gov &&& ~~~bitM a.lane }
  match a.kind, c with
  | .pf, .raise _ => (drop s false).modEntry k eid Entry.finish
  | .pf, .freeze _ _ => (drop s false).modEntry k eid Entry.finish
  | .pf, .wait (.move _) => (drop s false).modEntry k eid Entry.finish
  | .sig, .raise r =>
    (drop s true).modEntry k eid fun e => { e with
      raised := lowerRaise e.raised (if r.cause = 0x24 then r else { cause := 0xA8, info := infoQ a.va 0 0 }), faulting := true }
  | .sig, .freeze _ _ => (drop s true).modEntry k eid fun e => { e with raised := lowerRaise e.raised { cause := 0xA8, info := infoQ a.va 0 0 }, faulting := true }
  | _, .ok b =>
    let (n, s) := s.take
    let t := s.team k
    let s := if a.kind.writes then s.dropLease t.id.core (s.writtenLines k t b) else s
    -- R183: while the queue of a moved page is released, an access that meets it goes through the queue
    match s.releaseOf t b with
    | some m => (s.joinQueue m.id (.acc k eid a.lane) b.va b.len).modAcc k eid a.lane fun _ => { b with seq := n, moved := true }
    | none => s.modAcc k eid a.lane fun _ => { b with seq := n }
  | _, .wait w =>
    let s := match w with
      | .move id => s.joinQueue id (.acc k eid a.lane) a.va a.len
      | w => s.claimWalk w (.acc k eid a.lane)
    s.modAcc k eid a.lane fun b => { b with wait := w }
  | _, .raise r => (drop s true).modEntry k eid fun e => { e with raised := lowerRaise e.raised r, faulting := true }
  | _, .freeze va right =>
    let t := s.team k
    let s := (drop s true).modEntry k eid fun e => { e with faulting := true }
    if t.sched.frozen.isSome then s else s.freezeTeam k t a.lane va right
  | _, .guard off =>
    -- R339: a load delivers zero, a store is dropped
    let q := 4 * (s.team k).id.cluster + off / 2 ^ 19 % 4
    let s := s.modTeam k fun t => { t with sync := { t.sync with guard := some (match t.sync.guard with
      | some (b, o, n) => (b, o, n + 1)
      | none => (q, off % 2 ^ 19, 1)) } }
    let flag := if polPflag a.pol then [RegWrite.k 7 a.lane false] else []
    let ws := if a.kind.isStore then [] else RegWrite.v a.d a.lane 0 :: flag
    (drop s false).modEntry k eid fun e => ({ e with res := e.res ++ ws } : Entry).finish
  | _, .leave d => (drop (s.laneLeaves k eid a d) false).modEntry k eid Entry.finish

/-- Run the checks of an access that stands at its translation step. -/
def State.stepAcc (s : State) (k eid lane : Nat) : State :=
  let t := s.team k
  match (t.sync.rq.find? fun e => e.id = eid).bind fun e => e.accs.find? fun a => a.lane = lane with
  | some a => let (c, s) := s.checkAcc k t a; (s.settleAcc k eid a c).settle k
  | none => s

/-- Issue a memory instruction: its entry with the accesses of its lanes, each sent to its checks in lane order (R273, R574).
`ws` are results known at once, `dest` the registers whose results arrive later. -/
def finishMem (s : State) (c : Cur) (t : Team) (z : BitVec 1) (accs : List Acc) (ws : List RegWrite) (dest : List (Nat × Nat)) (passes : Nat) : State :=
  let eid := t.sync.nextEntry
  -- R428, R437: no watchpoint matches in a handler, nor for an instruction resumed with `skip`
  let accs := accs.map fun (a : Acc) => ({ a with nowatch := t.sched.skipBp || t.sync.inHandler } : Acc)
  let e := { c.entry with accs := accs, res := ws, dest := dest, stage := 1, gov := maskOf (accs.map Acc.lane), done := accs = [] && ws = [] && dest = [] }
  let s := finishAt s c t z c.next e passes
  (accs.foldl (fun s a => let (x, s) := s.checkAcc c.team (s.team c.team) a; s.settleAcc c.team eid a x) s).settle c.team

/-! ## Order (R323 to R327, R68) -/

/-- Two accesses touch a common byte. -/
def Acc.overlaps (a b : Acc) : Bool :=
  a.hnd = b.hnd && a.stash = b.stash && decide (a.va < b.va + b.len ∧ b.va < a.va + a.len)
/-- The lines an access goes to. -/
def Acc.lines (a : Acc) : List Nat := a.segs.map fun g => lineNo g.pa + (if g.host then 2 ^ 52 else 0)

/-- R327 steps 1 and 2: every earlier store, atomic and stash access of the team has been performed and has returned its time,
and so have the write-backs of the release itself. -/
def TeamSync.earlierDone (y : TeamSync) (eid : Nat) : Bool :=
  (y.rq.all fun e => decide (eid ≤ e.id) || e.accs.all fun a => !a.kind.writes && !a.bank && !a.stash) &&
    y.compls.all fun x => decide (eid ≤ x.entry) && !(x.wb && x.entry = eid)
/-- R327, R328: the release of a releasing write has been reached: its write-backs may be made, or they have returned; at
device scope device time has then passed `gwct`. -/
def State.released (s : State) (t : Team) (eid : Nat) (a : Acc) : Bool :=
  !isRel a.pol || !a.kind.writes ||
    (t.sync.earlierDone eid && (polScope a.pol ≠ 2 || !a.wb || decide (t.regs.gwct < s.now)))
/-- R328: the release of a write still has its write-backs to make. -/
def Acc.needsWb (a : Acc) : Bool := isRel a.pol && a.kind.writes && decide (2 ≤ polScope a.pol) && !a.wb

/-- R326: an earlier acquire of the team has not returned its value. -/
def acquirePending (rq : List Entry) (eid : Nat) : Bool :=
  rq.any fun e => decide (e.id < eid) && e.accs.any fun a => isAcq a.pol && a.kind ≠ .store
/-- R323: an earlier access of the team to a common byte is not performed; within one entry the lower lane goes first. -/
def earlierOverlap (rq : List Entry) (eid : Nat) (a : Acc) : Bool :=
  rq.any fun e => decide (e.id ≤ eid) && e.accs.any fun b =>
    (decide (e.id < eid) || (decide (b.lane < a.lane) && a.kind = .store)) && a.overlaps b
/-- R68, R327: an access of an entry has left its team on its way to its home: it is no longer held at its core. -/
def State.underWay (s : State) (t : Team) (eid : Nat) (b : Acc) : Bool :=
  (match b.wait with | .ready | .snoop | .shadow | .older _ => true | _ => false) && s.released t eid b && !acquirePending t.sync.rq eid && !earlierOverlap t.sync.rq eid b
/-- R68, R69, R321: an access of the same core to a common line was sent before and has not been performed. -/
def State.sentBefore (s : State) (core : Nat) (a : Acc) : Bool :=
  s.teams.any fun p => p.2.id.core = core && p.2.sync.rq.any fun e => e.accs.any fun b =>
    decide (b.seq < a.seq) && (b.lines.any fun l => l ∈ a.lines) && s.underWay p.2 e.id b
/-- R69: an earlier issued write of the team to a common line is not performed; the release that a write waits for holds back no other
(R327). -/
def State.writeBefore (s : State) (t : Team) (eid : Nat) (a : Acc) : Bool :=
  a.kind.writes && t.sync.rq.any fun e => decide (e.id ≤ eid) && e.accs.any fun b =>
    (decide (e.id < eid) || decide (b.lane < a.lane)) && b.kind.writes && b.hnd = a.hnd && b.stash = a.stash && !a.stash &&
      lineMeets b.va b.len a.va a.len && s.released t e.id b
/-- R183: an earlier access in the queue of a moved page goes to a common line. -/
def State.movedBefore (s : State) (k eid : Nat) (a : Acc) : Bool :=
  a.moved && s.xlat.moves.any fun m => (m.queue.any fun q => q.who = .acc k eid a.lane) && s.queuedBefore m (.acc k eid a.lane) a.va a.len

/-- R346, R348: the line is locked by another team on the serial path. -/
def State.lockedBy (s : State) (k : Nat) (ln : Nat) : Bool :=
  s.teams.any fun p => p.1 ≠ k && p.2.sync.tm.active && p.2.sync.tm.token &&
    ((p.2.sync.tm.writes.any fun w => w.1 = ln) || p.2.sync.tm.reads.any fun r => lineNo r.1 = ln)

/-- R223: one of some launches has committed or aborted. -/
def State.oneEnded (s : State) (ls : List Nat) : Bool := ls.any fun l => match Tbl.get? s.launches l with | some x => !x.uncommitted | none => true
/-- R59, R60: hosts hold the shared-region line. -/
def State.hostHolds (s : State) (ln : Nat) : Bool := s.fitting = .w9l && (Tbl.get? s.ports.snoop ln).isSome

/-- R72, R74: a pool write of a source must wait at its core. -/
def State.poolStalled (s : State) (src : Nat) : Bool :=
  let e := Tbl.getD s.ports.epoch src 0
  (s.ports.q.any fun w => w.src = src && decide (2 ^ 15 - 1 ≤ (e + 2 ^ 16 - w.epoch) % 2 ^ 16)) ||
    (List.range 8).any fun l => decide (65535 ≤ Tbl.getD s.ports.fence (src * 8 + l) 0)

/-- R72: epoch a is below epoch b. -/
def epochBelow (a b : Nat) : Bool := let d := (b + 2 ^ 16 - a) % 2 ^ 16; decide (1 ≤ d ∧ d < 2 ^ 15)
/-- R72: the pool epoch of an access of a team at its issue: releases issued after it have not opened theirs yet. The
write-backs that a release makes (`own` false) belong to the epoch before it (R73). -/
def State.epochAt (s : State) (t : Team) (eid : Nat) (own : Bool := true) : Nat :=
  let n := (t.sync.prels.filter fun p => decide (eid < p.2.1) || (!own && p.2.1 = eid)).length
  (Tbl.getD s.ports.epoch t.id.slot 0 + 65536 * (n + 1) - n) % 65536
/-- R72: every port reports that a source has no outstanding write of an epoch below one. -/
def State.epochDrained (s : State) (src epoch : Nat) : Bool :=
  (s.ports.q.all fun x => !(x.src = src && epochBelow x.epoch epoch)) && !epochBelow (Tbl.getD s.ports.drained src 0) epoch
/-- R73: the value g of the release that opened an epoch is fixed, and device time has passed it. An atomic that is the
release itself fixes it as it is sent. -/
def State.relPassed (s : State) (src part epoch : Nat) (self : Option Nat) : Bool :=
  s.teams.all fun t => !(t.2.id.slot = src && t.2.id.loc = .resident && t.2.id.part = part) ||
    t.2.sync.prels.all fun p => p.1 ≠ epoch ||
      (match p.2.2 with | some g => decide (g < s.now) | none => self = some p.2.1 && decide (t.2.regs.gwct < s.now))
/-- R76: the new epoch of a team that took another slot opens only after the old slot's counters have drained: the writes numbered below `n` of the
slot that it held. -/
def State.slotDrained (s : State) (src part n : Nat) : Bool :=
  s.teams.all fun t => !(t.2.id.slot = src && t.2.id.loc = .resident && t.2.id.part = part) ||
    (match t.2.sync.oldSlot with | some o => s.ports.q.all fun x => x.src ≠ o || decide (n ≤ x.id) | none => true)
/-- R70, R323: a write of the source to a pool line is outstanding. -/
def State.lineBusy (s : State) (src : Nat) (e : PoolEnt) (pa : Nat) : Bool :=
  s.ports.q.any fun x => x.src = src && x.link = e.link && x.pbr = e.pbr && x.dpa / 64 = e.dpaOf pa / 64 && x.cont.isNone && !x.commitUnit
/-- R70, R72, R73, R323: an access of a team to a pool line may be sent. -/
def State.poolOrder (s : State) (t : Team) (eid : Nat) (a : Acc) (pa : Nat) : Bool :=
  match s.poolEnt pa with
  | none => true
  | some e =>
    a.kind = .store || (!s.lineBusy t.id.slot e pa && s.slotDrained t.id.slot t.id.part a.seq &&
      (!a.kind.isAtomic || (s.epochDrained t.id.slot (s.epochAt t eid) && s.relPassed t.id.slot t.id.part (s.epochAt t eid) (some eid))))

/-- R332: an atomic is performed with the lanes of its entry that name its address, at the lowest of them. -/
def atomicReady (e : Entry) (a : Acc) : Bool :=
  !a.kind.isAtomic || e.accs.all fun b => b.va ≠ a.va || (b.wait = .ready && decide (a.lane ≤ b.lane))

/-- R586: an earlier issued stash write to the bank of a stash write is not performed, and does not wait for its release. -/
def State.bankBefore (s : State) (t : Team) (a : Acc) : Bool :=
  s.teams.any fun p => p.2.id.cluster = t.id.cluster && p.2.sync.rq.any fun e => e.accs.any fun b =>
    b.stash && b.kind.writes && decide (b.seq < a.seq) && decide (b.va / 2 ^ 19 = a.va / 2 ^ 19) && s.released p.2 e.id b
/-- R340: a pass of `sld.fe`, by its lowest lane, may be performed: every granule of its lanes is full, and the passes before
it are over. -/
def State.feReady (s : State) (k : Nat) (t : Team) (e : Entry) (a : Acc) : Bool :=
  match a.kind with
  | .fe _ => e.accs.all fun b => if b.lane / 32 = a.lane / 32 then
        let at_ := match (if b.stash then none else s.mappingAt k t b.va b.len) with | some x => x.2.base + (b.va - x.2.va) | none => b.va
        decide (a.lane ≤ b.lane) && b.wait = .ready && (granules at_ b.len).all (isFull (s.cluster t.id.cluster))
      else decide (a.lane / 32 < b.lane / 32)
  | _ => true

/-- R336: the write-back of a pool line that a mapped-coherent stash has given up is on its way to its home. -/
def State.backGoing (s : State) (pa : Nat) : Bool :=
  match s.poolEnt pa with
  | some e => s.ports.q.any fun w => w.serves = .nobody && w.launch.isSome && w.cont.isNone && !w.commitUnit && w.pbr = e.pbr && w.dpa / 64 = e.dpaOf pa / 64
  | none => false
/-- R336: what a mapped-coherent stash on this die holds of a pool line of a launch: a load is forwarded to it. -/
def State.heldPool (s : State) (v : View) (pa n : Nat) : Option (List Byte × Bool) :=
  match v with
  | .launch lk => (s.holder lk (lineNo pa)).map fun h =>
      let c := s.cluster h.1
      let a := h.2.2.1.addr h.2.2.2 (pa % 64)
      (stashBytes c a n, (granules a n).any (stashPois c))
  | .foreign _ _ _ => none

/-- Whether an access may be performed, or sent on, now. -/
def State.mayPerform (s : State) (k : Nat) (t : Team) (e : Entry) (a : Acc) : Bool :=
  match a.wait with
  | .xlat => true
  | .shadow => a.segs.all (fun g => if g.host then decide (s.poolUsed t.id.part < (s.part t.id.part).poolLines) else s.hasRoom t.view (lineNo g.pa)) || !s.olderThan t.view
  | .snoop => a.segs.all fun g => s.ports.swait.all fun w => w.line ≠ lineNo g.pa
  | .older ls => s.oneEnded ls
  | .ready =>
    s.released t e.id a && !acquirePending t.sync.rq e.id && !earlierOverlap t.sync.rq e.id a && !s.sentBefore t.id.core a && !s.writeBefore t e.id a && !s.movedBefore k e.id a &&
      atomicReady e a && s.feReady k t e a && !(a.stash && a.kind.writes && s.bankBefore t a) && a.segs.all (fun g => g.host || !s.lockedBy k (lineNo g.pa)) &&
      (!a.kind.writes || a.segs.all fun g => g.host || s.isLocal g.pa || !s.poolStalled t.id.slot) &&
      a.segs.all (fun g => g.host || s.isLocal g.pa || (s.poolOrder t e.id a g.pa && !s.backGoing g.pa)) &&
      (match s.mappingAt k t a.va a.len with
       | some (_, m) => !a.kind.writes || m.lines.all fun x => decide (x.2.holdTill ≤ s.now) || decide (a.va + a.len ≤ m.va + 64 * x.1 ∨ m.va + 64 * x.1 + 64 ≤ a.va)
       | none => true)
  | _ => false

/-! ## Reads at home -/

/-- R255: a lease-cache miss that matches the victim tag array adds to the team's score. -/
def State.victimMatch (s : State) (k : Nat) (t : Team) (ln : Nat) : State :=
  if ln ∈ (s.core t.id.core).vta then
    ((s.modCore t.id.core fun c => { c with vta := c.vta.erase ln }).modTeam k fun t => { t with sched := { t.sched with score := min 255 (t.sched.score + 1) } }).count t.id.ctx 22 1
  else s

/-- R319: the poison of a line's bytes in a view. -/
def State.viewPois (s : State) (v : View) (ln : Nat) : BitVec 64 :=
  (List.range 64).foldl (fun m i => if (s.viewByte v (64 * ln + i)).2 then m ||| BitVec.ofNat 64 (2 ^ i) else m) 0
/-- A read of one part of a local line for a team: a lease-cache hit, or the line at its home with the lease that the policy
asks for (R316 to R319). Poison with the bytes. DESIGN CHOICE: where the view holds a delta on the line, R207 against R317, no copy is
hit and the load is performed at home (log 209). -/
def State.readLocal (s : State) (k : Nat) (t : Team) (a : Acc) (pa n : Nat) : (List Byte × Bool) × State :=
  let v := t.view
  let ln := lineNo pa
  let lease := leaseTicks (polLease a.pol)
  let cls := lineClass pa (bits a.pol.toNat 7 0) (bits a.pol.toNat 15 8)
  let hit := if lease = 0 || (s.deltasOf v).any (fun d => lineNo d.1 = ln) then none else s.leaseHit t.id.core t.id.ctx v ln
  match hit with
  | some x => (((List.range n).map fun i => lineByte x.data (pa % 64 + i), (List.range n).any fun i => x.pois.getLsbD (pa % 64 + i)),
      (s.modCore t.id.core fun k => { k with lc := Tbl.modify k.lc ln fun x => { x with used := s.now } }).count t.id.ctx 20 1)
  | none =>
    let r := s.viewRead v pa n
    let s := if lease = 0 then s else s.victimMatch k t ln
    let s := ((if lease = 0 then s else s.count t.id.ctx 21 1).count t.id.ctx 24 1).touchLine ln (s.viewPart v) cls
    let e := if s.lostAt pa then 0 else s.leaseGrant v ln lease
    if e = 0 then (r, s)
    else (r, s.fillLease v t.id.core t.id.ctx t.id.part cls ln e (BitVec.ofNat 512 (leNat (s.viewRead v (64 * ln) 64).1)) (s.viewPois v ln))

/-! ## Copies of bulk-tensor lines (R62, R75) -/

/-- R62, R317: the copy of a bulk-tensor line that a load of a team hits. -/
def State.bulkHit (s : State) (t : Team) (a : Acc) (e : PoolEnt) (pa : Nat) : Option LLine :=
  if e.bulk && decide (leaseTicks (polLease a.pol) ≠ 0) then s.leaseHit t.id.core t.id.ctx t.view (lineNo pa) else none
/-- R62, R75: a W9H may keep a clean copy of a bulk-tensor line in the core's lease cache, for the ticks of the load's lease; none of a read
that was requested before the partition's last pool-scope acquire. -/
def State.bulkFill (s : State) (t : Team) (a : Acc) (pa tag : Nat) (d : Line) : State :=
  match s.poolEnt pa, t.view with
  | some e, .launch lk =>
    let (n, s) := s.take
    let lease := leaseTicks (polLease a.pol)
    if e.bulk && !e.lost && decide (lease ≠ 0) && decide ((s.part t.id.part).acqStamp ≤ tag) && Config.bulkKeep n then
      let x : LLine := { data := d, exp := s.now + lease, ctx := t.id.ctx, launch := some lk, part := t.id.part
                         cls := lineClass pa (bits a.pol.toNat 7 0) (bits a.pol.toNat 15 8), used := s.now }
      s.modCore t.id.core fun k => k.fillLine s.now (lineNo pa) x
    else s
  | _, _ => s
/-- R62, R75: a pool-scope acquire discards every bulk-tensor copy held for the partition on the die. -/
def State.bulkDiscard (s : State) (p : Nat) : State :=
  let (n, s) := s.take
  let s := s.modPart p fun P => { P with acqStamp := n }
  { s with cores := Tbl.mapV s.cores fun _ k => { k with lc := k.lc.filter fun x => !(x.2.part = p && !s.isLocal (64 * x.1)) } }
/-- R62, R326: an acquire access at pool scope or wider has its value. -/
def State.acquired (s : State) (t : Team) (a : Acc) : State :=
  match a.kind with
  | .store | .fence | .arm => s
  | _ => if isAcq a.pol && decide (3 ≤ polScope a.pol) then s.bulkDiscard t.id.part else s

/-- R192, R209: the held host writes that a view's loads see, oldest first: those of the chain, farthest first, then its own. A W9L holds
none. -/
def State.heldOf (s : State) (v : View) : List Held :=
  match v with
  | .launch lk => ((s.chainOf s.launches.length lk).reverse ++ [lk]).flatMap fun q => (s.launch q).held
  | .foreign _ _ _ => []
/-- Bytes of a run at a virtual address replaced by the newest held. -/
def State.heldBytes (s : State) (v : View) (va : Nat) (run : List Byte) : List Byte :=
  (s.heldOf v).foldl (fun run h =>
    run.zipIdx.map fun p =>
      let x := va + p.2
      if lineNo x = lineNo h.va && h.mask.getLsbD (x % 64) then lineByte h.data (x % 64) else p.1) run

/-- R80: poison comes with held bytes. -/
def State.heldPois (s : State) (v : View) (va n : Nat) : Bool :=
  (s.heldOf v).any fun h => h.pois && (List.range n).any fun i => lineNo (va + i) = lineNo h.va && h.mask.getLsbD ((va + i) % 64)

/-- The value of loaded elements in a register: one element extended (R570), or the lane's 64 bits. -/
def Acc.value (a : Acc) (bs : List Byte) : Word := if a.cnt = 1 then extend a.ty (leNat bs) else BitVec.ofNat 64 (leNat bs)

/-! ## Ending an access -/

/-- The lane's access is over, with results. -/
def State.accDone (s : State) (k eid lane : Nat) (ws : List RegWrite) : State :=
  let t := s.team k
  let s := match (t.sync.rq.find? fun e => e.id = eid).bind fun e => e.accs.find? fun a => a.lane = lane with
    | some a => s.acquired t a
    | none => s
  (s.modEntry k eid fun e =>
    ({ e with accs := e.accs.filter fun a => a.lane ≠ lane, res := e.res ++ ws, gov := e.gov &&& ~~~bitM lane }).finish).settle k
/-- The lane's access raises a cause at its end. -/
def State.accRaise (s : State) (k eid : Nat) (a : Acc) (cause : Nat) (info : List Word) : State :=
  (s.modEntry k eid fun e => { e with
    accs := e.accs.filter fun b => b.lane ≠ a.lane, faulting := true
    raised := lowerRaise e.raised { cause := cause, lane := a.lane, info := info } }).settle k

/-- R710: the source of poison: 0 local, 1 pool, 2 host, 3 stash fill. -/
def State.poisSrc (s : State) (g : Seg) : Nat := if g.host then 2 else if s.isLocal g.pa then 0 else 1

/-- R575: the flag bits of `k7` that a load under `pflag` writes. -/
def flagWrites (t : Team) (a : Acc) (p : Bool) : List RegWrite :=
  if !polPflag a.pol then []
  else if a.kind = .loadS then (List.range t.regs.lanes).map fun l => .k 7 l p else [.k 7 a.lane p]
/-- The register a load writes. -/
def Acc.loadWrite (a : Acc) (v : Word) : RegWrite := if a.kind = .loadS then .s a.d v else .v a.d a.lane v

/-- R81, R101: consumed poison puts a partition with `pvir` into viral mode: td stamped now, tv 64 ticks later (R82). -/
def State.viralDetect (s : State) (p cause : Nat) : State :=
  s.modPart p fun P => if P.viral.isSome then P else { P with viral := some { td := s.now, tv := s.now + 64, cause := cause } }

/-- R78, R81: an access that may not take poison meets it. -/
def State.accPois (s : State) (k eid : Nat) (t : Team) (a : Acc) (pa src : Nat) : State :=
  let s := if (s.part t.id.part).cfg.pvir then s.viralDetect t.id.part 5 else s
  s.accRaise k eid a 0x88 (s.infoP a pa src)
/-- A load whose bytes have all arrived: its register, its flags, or the poison trap (R78, R575, R576). -/
def State.loadDone (s : State) (k eid : Nat) (t : Team) (a : Acc) : State :=
  match a.kind, a.pz with
  | .pf, _ => s.accDone k eid a.lane []
  | .arm, none =>
    s.accDone k eid a.lane []
  | _, some p =>
    let src := p % 4
    let s := if (s.part t.id.part).cfg.pvir then s.viralDetect t.id.part 5 else s
    if polPflag a.pol && a.kind ≠ .arm then s.accDone k eid a.lane (a.loadWrite 0 :: flagWrites t a true)
    else s.accRaise k eid a 0x88 (s.infoP a (p / 4) src)
  | _, none => s.accDone k eid a.lane (a.loadWrite (a.value a.got) :: flagWrites t a false)

/-! ## Writes and completion times (R190, R320, R322) -/

/-- A completion time registered with the team, to return later (R322). -/
def State.addCompl (s : State) (k eid va : Nat) (time : Option Nat) : Nat × State :=
  let (n, s) := s.take
  (n, s.modTeam k fun t => { t with sync := { t.sync with compls := t.sync.compls ++ [{ id := n, time := time, va := va, entry := eid }] } })

/-- R60: back-invalidate the hosts that hold a line; whoever waits for it waits for their answers. -/
def State.snoopOut (s : State) (ln : Nat) : State :=
  match Tbl.get? s.ports.snoop ln with
  | none => s
  | some x =>
    if s.ports.swait.any fun w => w.line = ln then s
    else
      let s := s.backInvalidate x.bi ln
      let w : SnoopWait := { line := ln, bi := x.bi, host := none, pbr := none, dpa := 0, op := .read, since := s.now }
      { s with ports := { s.ports with swait := s.ports.swait ++ [w] } }
/-- R58: a host holds the line exclusive: only it knows the line's value. -/
def State.hostExcl (s : State) (ln : Nat) : Bool :=
  s.fitting = .w9l && (match Tbl.get? s.ports.snoop ln with | some x => x.ex | none => false)

/-- The mask and data of bytes placed in a line. -/
def maskAt (pa n : Nat) : BitVec 64 := BitVec.ofNat 64 ((2 ^ n - 1) * 2 ^ (pa % 64))
def lineAt (pa : Nat) (bs : List Byte) : Line := BitVec.ofNat 512 (leNat bs * 2 ^ (8 * (pa % 64)))

/-- The origin, partition and version that a pool request of a view carries. -/
def State.tagOf (s : State) : View → Nat × Nat
  | .launch lk => ((s.launch lk).head.part, (s.launch lk).head.ver)
  | .foreign _ p v => (p, v)

/-- R210, R217: a write, atomic or delta of a launch on a pool line leaves uncommitted data at the line's W9L. -/
def State.usesLine (s : State) (v : View) (pbr pa : Nat) : State :=
  match v with
  | .launch lk => s.modLaunch lk fun l => { l with
      dies := if pbr ∈ l.dies then l.dies else l.dies ++ [pbr]
      plines := if lineNo pa ∈ l.plines then l.plines else l.plines ++ [lineNo pa] }
  | .foreign _ _ _ => s
/-- R67, R70 to R73: a write to pool memory enters its edge port's queue. -/
def State.poolWrite (s : State) (v : View) (src : Nat) (e : PoolEnt) (pa : Nat) (op : MemOp) (serves : Serves) (epoch : Nat) : State :=
  let (n, s) := s.take
  let lk := match v with | .launch lk => some lk | .foreign _ _ _ => none
  let w : PoolW := { id := n, src := src, link := e.link, epoch := epoch, pbr := e.pbr, dpa := e.dpaOf pa
                     op := op, part := s.viewPart v, launch := lk, serves := serves }
  let s := { s with ports := { s.ports with q := s.ports.q ++ [w] } }
  s.usesLine v e.pbr pa

/-- R336: a write of another agent of the launch recalls a mapped-coherent line: written back if dirty, and given up. Hosts that hold the
line are back-invalidated (R60). -/
def State.recall (s : State) (v : View) (ln : Nat) : State :=
  match v with
  | .foreign _ _ _ => s
  | .launch lk =>
    match s.holder lk ln with
    | none => s
    | some (c, mn, m, i) =>
      let dirty := match Tbl.get? m.lines i with | some x => x.dirty | none => false
      let (n, s) := s.take
      let bs := stashBytes (s.cluster c) (m.addr i 0) 64
      let pz := (granules (m.addr i 0) 64).any (stashPois (s.cluster c))
      let s := if !dirty then s
        else if s.isLocal (64 * ln) then (s.snoopOut ln).shadowWrite v (64 * ln) bs pz n
        else match s.poolEnt (64 * ln) with
          | some e =>
            let z := s.tagOf v
            let slot := (s.team m.owner).id.slot
            s.poolWrite v slot e (64 * ln) (.shadowWrite z.1 z.2 (BitVec.allOnes 64) (BitVec.ofNat 512 (leNat bs)) pz) .nobody (Tbl.getD s.ports.epoch slot 0)
          | none => s
      s.modCluster c fun x => { x with maps := Tbl.modify x.maps mn fun m => { m with lines := Tbl.del m.lines i } }

/-- R60: a mapped-coherent stash of the launch holds the line dirty, and hosts hold it too: they answer before it is written back. -/
def State.recallHeld (s : State) (v : View) (ln : Nat) : Bool :=
  s.hostHolds ln && (match v with
    | .launch lk => match s.holder lk ln with | some (_, _, m, i) => (match Tbl.get? m.lines i with | some x => x.dirty | none => false) | none => false
    | .foreign _ _ _ => false)
/-- R320: a write at home of bytes of one local line: the completion time and the state. -/
def State.writeLocal (s : State) (v : View) (core : Option Nat) (pa : Nat) (bs : List Byte) (pois : Bool) (tok : Nat) : Nat × State :=
  let s := s.recall v (lineNo pa)
  let s := match core with | some c => s.dropLease c [lineNo pa] | none => s
  (max s.now (s.leaseExpiry (lineNo pa) core), if s.lostAt pa then s else s.shadowWrite v pa bs pois tok)

/-- R209, R222: a write to host memory is held by its launch: it merges into the line of the present group, or takes a new
one. -/
def State.holdWrite (s : State) (lk va : Nat) (bs : List Byte) (pois : Bool := false) : State :=
  s.modLaunch lk fun l =>
    let hit := fun (h : Held) => h.group = l.hgroup && lineNo h.va = lineNo va
    let upd := fun (h : Held) => { h with pois := pois || (h.pois && decide (bs.length ≠ 64))
                                          mask := h.mask ||| maskAt va bs.length
                                          data := bs.zipIdx.foldl (fun d p => setLineByte d (va % 64 + p.2) p.1) h.data }
    if l.held.any hit then { l with held := l.held.map fun h => if hit h then upd h else h }
    else { l with held := l.held ++ [upd { va := lineBase va, group := l.hgroup, mask := 0, data := 0 }] }
/-- R222, R223: room for a held write. -/
def State.holdRoom (s : State) (lk va : Nat) : Bool :=
  let l := s.launch lk
  (l.held.any fun h => h.group = l.hgroup && lineNo h.va = lineNo va) || decide (s.poolUsed l.head.part < (s.part l.head.part).poolLines)

/-- R92: a write of a launch to a lost range, before its commit is scheduled or prepared, aborts it with 0x8A. -/
def State.lostWrite (s : State) (k : Nat) (t : Team) : State := s.abortTeam k t 0x8A

/-! ## Atomics (R330 to R333, R580, R581) -/

/-- R581: the rounding of `afadd` under an FMT word. -/
def addRnd (fmt : Word32) : Rnd :=
  { mode := if fmtRnd fmt = 5 then 0 else fmtRnd fmt, sat := fmtSat fmt, ftz := fmtFtz fmt }
/-- Element width of an atomic (R580). -/
def atomicW (fn ty : Nat) : Nat := if fn = 1 then fltW ty else intW ty
/-- R580, R581: the new value of an element m under operand x and comparand e. -/
def atomicNew (fn ty : Nat) (fmt : Word32) (m x e : Nat) : Nat :=
  let w := atomicW fn ty
  match fn with
  | 0 => (m + x) % 2 ^ w
  | 1 => fpSum (fltFmt ty 0) (addRnd fmt) m x
  | 2 => if intVal ty m ≤ intVal ty x then m else x
  | 3 => if intVal ty m ≥ intVal ty x then m else x
  | 4 => m &&& x
  | 5 => m ||| x
  | 6 => m ^^^ x
  | 7 => x
  | 8 => if m = e then x else m
  | _ => (m + 1) % 2 ^ w
/-- R332: a combined update: the old value each lane receives, and the value left. -/
def atomicFold (fn ty : Nat) (fmt : Word32) (m : Nat) : List (Word × Word) → List Nat × Nat
  | [] => ([], m)
  | (x, e) :: r =>
    let w := atomicW fn ty
    let (l, z) := atomicFold fn ty fmt (atomicNew fn ty fmt m (x.toNat % 2 ^ w) (e.toNat % 2 ^ w)) r
    (m :: l, z)
/-- The value an atomic returns into its register (R580). -/
def atomicRet (fn ty m : Nat) : Word := if fn = 1 then BitVec.ofNat 64 m else extend ty m

/-- R205, R207: the update of a delta by an add of x. -/
def Delta.grow (fn : Nat) (fmt : Word32) (d : Delta) (x : Word) : Delta :=
  let w := 8 * d.esz
  { d with val := BitVec.ofNat 64 (if d.flt then fpSum (fltFmt d.ty 0) (addRnd fmt) d.val.toNat (x.toNat % 2 ^ w)
                                   else (d.val.toNat + (if fn = 9 then 1 else x.toNat % 2 ^ w)) % 2 ^ w) }
/-- R333: the values lanes receive from an accumulate region with committed value m, and the delta left. -/
def deltaFold (fn : Nat) (fmt : Word32) (m : Nat) (d : Delta) : List (Word × Word) → List Nat × Delta
  | [] => ([], d)
  | (x, _) :: r => let (l, z) := deltaFold fn fmt m (d.grow fn fmt x) r; (d.addTo m :: l, z)

/-- R191, R205, R332: an atomic at its home on a local element: the lanes' old values, or a cause. -/
def State.atomicLocal (s : State) (v : View) (core : Option Nat) (pa fn ty : Nat) (fmt : Word32) (delta : Bool) (ops : List (Word × Word)) (tok : Nat) :
    Except Nat (List Nat × Nat × State) :=
  let n := atomicW fn ty / 8
  let s := s.recall v (lineNo pa)
  let s := match core with | some c => s.dropLease c [lineNo pa] | none => s
  let r := (List.range n).map fun i => s.viewByte v (pa + i)
  if s.lostAt pa || r.any Prod.snd then .error 0x88
  else
    let m := leNat (r.map Prod.fst)
    let t := max s.now (s.leaseExpiry (lineNo pa) core)
    if delta then
      let d := (Tbl.get? (s.deltasOf v) pa).getD { flt := fn = 1, esz := n, ty := ty, val := 0 }
      let clash := d.flt ≠ (fn = 1) || d.esz ≠ n || (fn = 1 && d.ty ≠ ty) ||
        (s.deltasOf v).any fun x => x.1 ≠ pa && decide (x.1 < pa + n ∧ pa < x.1 + x.2.esz)
      if clash then .error 0x4E
      else
        let (l, d) := deltaFold fn fmt m d ops
        .ok (l, t, s.deltaWrite v pa d)
    else
      let (l, z) := atomicFold fn ty fmt m ops
      .ok (l, t, s.shadowWrite v pa (leBytes n z) false tok)

/-- R588: the new value of a stash atomic on a signed element. -/
def stashNew (op ty m x : Nat) : Nat :=
  match op with
  | 0 => (m + x) % 2 ^ intW ty
  | 1 => if intVal ty m ≤ intVal ty x then m else x
  | 2 => if intVal ty m ≥ intVal ty x then m else x
  | _ => x

end Sys2Proof.Machine
end

