-- ==== Sys2Proof/Machine/Perform.lean ====
section
/-! DEFINITION. Performing an access (R190, R192, R209, R320, R330 to R337, R345, R576 to R588): loads, stores and atomics at
home, in mapped stash, on the pool and on the host, inside a transaction, and what a completion from outside does. -/

namespace Sys2Proof.Machine

/-! ## Requests that leave the die (R175, R58, R67) -/

/-- R54: the link a request leaves by, the requests outstanding on its way, and their limit. -/
def viaLink (via : Nat) : Nat := if via < 8 then via else hostLink
def State.outOn (s : State) (via : Nat) : Nat :=
  (s.xlat.reqs.filter fun r => r.via = some via && r.msg.isNone).length + (s.ports.q.filter fun w => w.left && w.link = via).length
def viaLimit (via : Nat) : Option Nat := if via < 8 then some 1024 else if via = 8 then some 256 else none
/-- R54, R56: a request may leave now. -/
def State.viaFree (s : State) (via : Nat) : Bool :=
  (s.link (viaLink via)).carries && (match viaLimit via with | some n => decide (s.outOn via < n) | none => true)
/-- A request is made; its message leaves at once when it may, and otherwise later. -/
def State.request (s : State) (r : Req) (via : Nat) (m : Msg) : State :=
  let go := s.viaFree via
  let s := { s with xlat := { s.xlat with reqs := s.xlat.reqs ++ [{ r with since := s.now, via := some via, msg := if go then none else some m }] } }
  if go then s.emit m else s
/-- How a host access travels: as a CXL.cache request where the host marks the range shared (R175). -/
def hostVia (shared : Bool) : Nat := if shared then 8 else 9

/-- A read of a host line for an access. -/
def State.askHost (s : State) (serves : Serves) (ctx : Nat) (g : Seg) : Nat × State :=
  let (n, s) := s.take
  (n, (s.request { tag := n, for_ := serves, addr := g.pa, write := false } (hostVia g.shared)
    (.hostRead n (lineBase g.pa) (ctabPasid (s.ctabOf ctx)) g.shared)).count ctx 31 1)
/-- A write of a host line (R175). -/
def State.tellHost (s : State) (serves : Serves) (g : Seg) (mask : BitVec 64) (d : Line) (pois : Bool) : Nat × State :=
  let (n, s) := s.take
  (n, s.request { tag := n, for_ := serves, addr := lineBase g.pa, write := true } (hostVia g.shared) (.hostWrite n (lineBase g.pa) mask d pois g.shared))
/-- A request on a pool line. -/
def State.askPool (s : State) (serves : Serves) (e : PoolEnt) (pa : Nat) (op : MemOp) (write : Bool) : Nat × State :=
  let (n, s) := s.take
  (n, s.request { tag := n, for_ := serves, addr := pa, write := write, pbr := some e.pbr } e.link (.poolReq e.link n (e.dpaOf pa) op))
/-- The answer to a request, as a launch's view reads a pool line (R192). -/
def State.viewOp (s : State) (v : View) : MemOp := let z := s.tagOf v; .viewRead z.1 z.2 (s.chainVers v)
/-- The pool entry that still grants an access to a partition (R67). -/
def State.poolFor (s : State) (p pa : Nat) : Option PoolEnt := (s.poolEnt pa).filter fun e => e.part = p
/-- R67, R95: the pool entry no longer grants the access. -/
def State.poolFreeze (s : State) (k eid : Nat) (a : Acc) (pa : Nat) : State := (s.settleAcc k eid a (.freeze a.va (s.rightAt pa))).settle k

/-! ## The log of a transaction (R345, R347, R348, R598) -/

/-- Bytes of log a transaction has used (R345). -/
def Tm.used (x : Tm) : Nat := 80 * x.writes.length + 16 * x.reads.length

/-- R347, R598: a transaction aborts with a status; a counted abort raises the count. Nothing of it is performed. -/
def State.tmAbort (s : State) (k status : Nat) : State :=
  let t := s.team k
  let x := t.sync.tm
  let n := if status = 3 then x.acnt else x.acnt + 1
  let s := s.count t.id.ctx 50 1
  let st := t.flow.stack.drop (t.flow.stack.length - x.depth)
  s.setTeam k { t with
    regs := { t.regs with fmt := x.fmt }
    flow := { t.flow with pc := x.target, D := x.D, stack := st, hints := [] }
    sync := { t.sync with park := .run, reinj := [], rq := t.sync.rq.filter fun e => decide (e.id < x.ent) || e.accs.any fun a => a.bank || a.stash
                          tm := { x with active := false, committing := false, reads := [], writes := [], acnt := n, st := status } } }

/-- R348: the token goes to the next team that waits. -/
def State.freeToken (s : State) (k : Nat) : State :=
  let s := s.modPart (s.team k).id.part fun P =>
    let tok := if P.tmTok = some k then P.tmQ.head? else P.tmTok
    let q := if P.tmTok = some k then P.tmQ.tail else P.tmQ.filter fun j => j ≠ k
    { P with tmTok := tok, tmQ := q }
  s.modTeam k fun t => { t with sync := { t.sync with tm := { t.sync.tm with token := false } } }

/-- The log has room for records (R345), or what a full log does (R347, R348). -/
def State.tmRoom (s : State) (k : Nat) (x : Tm) (go : State → State) : State :=
  if x.used ≤ x.size then go (s.modTeam k fun t => { t with sync := { t.sync with tm := x } })
  else if x.token then
    let s := s.freeToken k
    s.abortTeam k (s.team k) 0xA4
  else s.tmAbort k 2

/-- Bytes as the transaction sees them over its log. -/
def Tm.over (x : Tm) (pa : Nat) (run : List Byte) : List Byte :=
  run.zipIdx.map fun p =>
    let q := pa + p.2
    match Tbl.get? x.writes (lineNo q) with
    | some w => if w.1.getLsbD (q % 64) then lineByte w.2 (q % 64) else p.1
    | none => p.1
/-- A write record (R345). -/
def Tm.log (x : Tm) (pa : Nat) (bs : List Byte) : Tm :=
  let w := Tbl.getD x.writes (lineNo pa) (0, 0)
  let d := bs.zipIdx.foldl (fun d p => setLineByte d (pa % 64 + p.2) p.1) w.2
  { x with writes := Tbl.put x.writes (lineNo pa) (w.1 ||| maskAt pa bs.length, d) }
/-- The 8-byte words a run touches. -/
def words8 (pa n : Nat) : List Nat := (List.range ((pa + n - 1) / 8 - pa / 8 + 1)).map fun i => (pa / 8 + i) * 8
/-- Read records for the words that a run touches, whose bytes from the first word on are `bs` (R345). -/
def Tm.readLog (x : Tm) (pa n : Nat) (bs : List Byte) : Tm :=
  ((words8 pa n).zipIdx).foldl (fun x w =>
    if x.reads.any fun r => r.1 = w.1 then x
    else { x with reads := x.reads ++ [(w.1, BitVec.ofNat 64 (leNat ((bs.drop (8 * w.2)).take 8)))] }) x
/-- Accesses of the team are TM accesses now (R597, R598). -/
def State.inTx (s : State) (k eid : Nat) : Bool := let y := (s.team k).sync; y.tm.active && !y.inHandler && decide (y.tm.ent ≤ eid)
/-- The aligned words around a part of a line. -/
def wordBytes (d : Line) (g : Seg) : List Byte :=
  (List.range (8 * (words8 g.pa g.len).length)).map fun i => lineByte d (g.pa / 8 * 8 % 64 + i)

/-! ## Loads -/

/-- Read the remaining parts of a load in order; a part on host or pool sends a request and waits. -/
def State.loadParts (s : State) (k eid : Nat) (t : Team) (a : Acc) : List Seg → State
  | [] => s.loadDone k eid t { a with segs := [] }
  | g :: r =>
    if g.host then
      if a.kind = .pf then s.accDone k eid a.lane []
      else
        let (n, s) := s.askHost (.acc k eid a.lane) t.id.ctx g
        s.modAcc k eid a.lane fun _ => { a with segs := g :: r, wait := .cxl n }
    else if s.isLocal g.pa && s.inTx k eid && a.kind ≠ .pf then
      let (b, s) := s.readLocal k t a (g.pa / 8 * 8) (8 * (words8 g.pa g.len).length)
      let x := (s.team k).sync.tm
      s.tmRoom k (x.readLog g.pa g.len b.1) fun s =>
        s.loadParts k eid t { a with got := a.got ++ x.over g.pa ((b.1.drop (g.pa % 8)).take g.len), pz := if b.2 then some (a.pz.getD (4 * g.pa)) else a.pz } r
    else if s.isLocal g.pa then
      let (x, s) := s.readLocal k t a g.pa g.len
      s.loadParts k eid t { a with got := a.got ++ x.1, pz := if x.2 then some (a.pz.getD (4 * g.pa)) else a.pz } r
    else match s.poolFor t.id.part g.pa with
      | none => s.poolFreeze k eid a g.pa
      | some e =>
        if a.kind = .pf then s.accDone k eid a.lane []
        else if e.lost then
          s.loadParts k eid t { a with got := a.got ++ List.replicate g.len 0, pz := some (a.pz.getD (4 * g.pa + 1)) } r
        else match (if s.inTx k eid then none else s.bulkHit t a e g.pa) with
        | some x =>
          let bs := (List.range g.len).map fun i => lineByte x.data (g.pa % 64 + i)
          let s := (s.modCore t.id.core fun k => { k with lc := Tbl.modify k.lc (lineNo g.pa) fun x => { x with used := s.now } }).count t.id.ctx 20 1
          s.loadParts k eid t { a with got := a.got ++ bs } r
        | none => match s.heldPool t.view g.pa g.len with
          | some x => s.loadParts k eid t { a with got := a.got ++ x.1, pz := if x.2 then some (a.pz.getD (4 * g.pa)) else a.pz } r
          | none =>
            let (n, s) := s.askPool (.acc k eid a.lane) e g.pa (s.viewOp t.view) false
            s.modAcc k eid a.lane fun _ => { a with segs := g :: r, wait := .cxl n }

/-! ## Stores -/

/-- R222, R223: what a write without room for its shadow does: it waits while an older launch lives, under WAIT, and aborts
its launch otherwise. -/
def State.overflow (s : State) (k eid : Nat) (t : Team) (lane : Nat) : State :=
  let ab := match t.view with | .launch lk => (s.launch lk).head.abortOvf | .foreign _ _ _ => true
  if !ab && s.olderThan t.view then s.modAcc k eid lane fun a => { a with wait := .shadow }
  else s.abortTeam k t 0x4F

/-- Room for every part of a write. -/
def State.roomFor (s : State) (t : Team) (a : Acc) : Bool :=
  a.segs.all fun g =>
    if g.host then (match t.view with | .launch lk => s.holdRoom lk a.va | .foreign _ _ _ => false)
    else !s.isLocal g.pa || s.hasRoom t.view (lineNo g.pa)

/-- The number of the store that an entry is (R77). -/
def storeTok (k eid : Nat) : Nat := k * 2 ^ 32 + eid + 1

/-- Write the parts of a store, each with its completion time (R209, R320). -/
def State.storeParts (s : State) (k eid : Nat) (t : Team) (a : Acc) (bs : List Byte) (va : Nat) : List Seg → State
  | [] => s.accDone k eid a.lane []
  | g :: r =>
    let x := bs.take g.len
    let y := bs.drop g.len
    if g.host then
      match t.view with
      | .launch lk =>
        let s := s.holdWrite lk va x
        let (_, s) := s.addCompl k eid va (some s.now)
        s.storeParts k eid t a y (va + g.len) r
      | .foreign _ _ _ => s.storeParts k eid t a y (va + g.len) r
    else if s.isLocal g.pa then
      let (time, s) := s.writeLocal t.view (some t.id.core) g.pa x false (storeTok k eid)
      let (_, s) := (s.count t.id.ctx 25 1).addCompl k eid va (some time)
      s.storeParts k eid t a y (va + g.len) r
    else match s.poolFor t.id.part g.pa with
      | none => s.poolFreeze k eid a g.pa
      | some e =>
        let z := s.tagOf t.view
        let (n, s) := (s.count t.id.ctx 29 1).addCompl k eid va none
        let s := s.modTeam k fun t => { t with sync := { t.sync with compls := t.sync.compls.map fun c => if c.id = n then { c with lane := a.lane } else c } }
        let s := s.poolWrite t.view t.id.slot e g.pa (.shadowWrite z.1 z.2 (maskAt g.pa g.len) (lineAt g.pa x)) (.compl k n) (s.epochAt t eid)
        s.storeParts k eid t a y (va + g.len) r

/-- The first local line of a write that hosts hold (R60). -/
def State.heldLine (s : State) (a : Acc) : Option Nat := (a.segs.map fun g => lineNo g.pa).find? fun ln => s.hostHolds ln

/-- R72, R73: the release of a pool-scope releasing write fixes its value g. -/
def State.fixRelease (s : State) (k eid : Nat) : State :=
  s.modTeam k fun t => { t with sync := { t.sync with prels := t.sync.prels.map fun p =>
    if p.2.1 = eid then (p.1, p.2.1, some (p.2.2.getD t.regs.gwct)) else p } }
/-- R329: a host release point in a launch's held host writes. -/
def State.hostPoint (s : State) (t : Team) (scope : Nat) : State :=
  if scope = 4 && !t.id.foreign then s.modLaunch t.id.launch fun l => { l with hgroup := l.hgroup + 1 } else s

/-- Perform a store of one lane. -/
def State.performStore (s : State) (k eid : Nat) (t : Team) (a : Acc) : State :=
  if a.segs.any fun g => !g.host && s.lostAt g.pa then s.lostWrite k t
  else if !s.roomFor t a then s.overflow k eid t a.lane
  else match s.heldLine a with
    | some ln => (s.snoopOut ln).modAcc k eid a.lane fun a => { a with wait := .snoop }
    | none =>
      let s := if isRel a.pol then (if polScope a.pol ≥ 3 then s.fixRelease k eid else s).hostPoint t (polScope a.pol) else s
      s.storeParts k eid t a a.bytes a.va a.segs

/-! ## Atomics -/

/-- The lanes that one combined update serves (R332). -/
def Entry.group (e : Entry) (a : Acc) : List Acc := e.accs.filter fun b => b.va = a.va && b.kind = a.kind

/-- The lanes of a combined update are over, with the values they receive and its completion time. -/
def State.atomicDone (s : State) (k eid : Nat) (a : Acc) (fn : Nat) (g : List Acc) (vals : List Nat) (time : Option Nat) : State :=
  let (_, s) := s.addCompl k eid a.va time
  (g.zip vals).foldl (fun s p => s.accDone k eid p.1.lane [.v p.1.d p.1.lane (atomicRet fn p.1.ty p.2)]) s

/-- Perform an atomic of major 0x18 at the place of R330. -/
def State.performAtomic (s : State) (k : Nat) (e : Entry) (t : Team) (a : Acc) (fn : Nat) : State :=
  let g := e.group a
  let s := s.count t.id.ctx 19 (g.length - 1)
  let ops := g.map fun b => (b.x, b.e)
  match a.segs with
  | [] => s
  | sg :: _ =>
    if s.lostAt sg.pa then s.lostWrite k t
    else if s.isLocal sg.pa then
      if !s.roomFor t a then s.overflow k e.id t a.lane
      else if s.hostHolds (lineNo sg.pa) then (s.snoopOut (lineNo sg.pa)).modAcc k e.id a.lane fun a => { a with wait := .snoop }
      else
        let s := if isRel a.pol then (if polScope a.pol ≥ 3 then s.fixRelease k e.id else s).hostPoint t (polScope a.pol) else s
        match s.atomicLocal t.view (some t.id.core) sg.pa fn a.ty a.fmt a.delta ops (storeTok k e.id) with
        | .ok (l, time, s) => s.atomicDone k e.id a fn g l (some time)
        | .error 0x88 => g.foldl (fun s b => s.accPois k e.id t b sg.pa 0) s
        | .error c => g.foldl (fun s b => s.accRaise k e.id b c b.infoT0) s
    else match s.poolFor t.id.part sg.pa with
      | none => s.poolFreeze k e.id a sg.pa
      | some pe =>
        -- R83: a dropped pool atomic returns poison
        if (s.part t.id.part).drops s.now then g.foldl (fun s b => s.accPois k e.id t b sg.pa 1) s else
        let s := if isRel a.pol then (if polScope a.pol ≥ 3 then s.fixRelease k e.id else s).hostPoint t (polScope a.pol) else s
        let s := s.usesLine t.view pe.pbr sg.pa
        let z := s.tagOf t.view
        let (n, s) := s.askPool (.acc k e.id a.lane) pe sg.pa (.viewAtomic z.1 z.2 fn a.ty (sg.pa % 64) ops a.fmt a.delta (s.chainVers t.view)) true
        g.foldl (fun s b => s.modAcc k e.id b.lane fun b => { b with wait := .cxl n }) s

/-! ## Mapped stash (R335 to R337, R584) -/

/-- Fill a line of a mapping with what its home delivered. -/
def State.fillLine (s : State) (cl mn : Nat) (m : Mapping) (i ln : Nat) (bs : List Byte) (pois host : Bool) (hold : Nat) : State :=
  s.modCluster cl fun c =>
    let c := stashPuts c (m.addr i 0) bs
    let c := (granules (m.addr i 0) 64).foldl (fun c g => setStashPois c g pois) c
    { c with maps := Tbl.modify c.maps mn fun m => { m with lines := Tbl.put m.lines i { dirty := false, ln := ln, holdTill := hold, host := host } } }

/-- The parts of a mapped access that are not filled: line index and translated part. -/
def Mapping.unfilled (m : Mapping) (a : Acc) : List (Nat × Seg) :=
  (((lineParts a.va a.len).map fun x => (x.1 - m.va) / 64).zip a.segs).filter fun x => (Tbl.get? m.lines x.1).isNone

/-- R336, R584: fill the first unfilled line of a mapped access: from a local home at once, otherwise by a request. -/
def State.fillFor (s : State) (k eid : Nat) (t : Team) (a : Acc) (mn : Nat) (m : Mapping) (i : Nat) (g : Seg) : State :=
  if g.host then
    let (n, s) := s.askHost (.acc k eid a.lane) t.id.ctx g
    s.modAcc k eid a.lane fun a => { a with wait := .cxl n }
  else if s.isLocal g.pa then
    if m.kind = 1 && s.recallHeld t.view (lineNo g.pa) then (s.snoopOut (lineNo g.pa)).modAcc k eid a.lane fun a => { a with wait := .snoop } else
    let s := if m.kind = 1 then s.recall t.view (lineNo g.pa) else s
    let r := s.viewRead t.view (lineBase g.pa) 64
    let hold := if m.kind = 1 then s.leaseExpiry (lineNo g.pa) (some t.id.core) else 0
    s.fillLine t.id.cluster mn m i (lineNo g.pa) r.1 r.2 false hold
  else match s.poolFor t.id.part g.pa with
    | none => s.poolFreeze k eid a g.pa
    | some e =>
      if e.lost then s.fillLine t.id.cluster mn m i (lineNo g.pa) (List.replicate 64 0) true false 0
      else
        let (n, s) := s.askPool (.acc k eid a.lane) e g.pa (s.viewOp t.view) false
        s.modAcc k eid a.lane fun a => { a with wait := .cxl n }

/-- R77, R364: bytes of the store of number `tok` written into stash; poison leaves a granule once one store has covered it. -/
def stashWrite (tok : Nat) (c : Cluster) (a : Nat) (bs : List Byte) : Cluster :=
  (granules a bs.length).foldl (fun c g =>
    if stashPois c g then
      let lo := max a (16 * g) - 16 * g
      let hi := min (a + bs.length) (16 * g + 16) - 16 * g
      let m : BitVec 16 := BitVec.ofNat 16 (2 ^ hi - 2 ^ lo)
      let old := Tbl.getD c.scov g (0, 0)
      let m := if old.1 = tok then old.2 ||| m else m
      if m = BitVec.allOnes 16 then { setStashPois c g false with scov := Tbl.del c.scov g } else { c with scov := Tbl.put c.scov g (tok, m) }
    else c) (stashPuts c a bs)

/-- Mark the lines of a mapping that a write touches. -/
def Mapping.touch (m : Mapping) (off n : Nat) : Mapping :=
  { m with lines := (List.range ((off + n - 1) / 64 - off / 64 + 1)).foldl (fun l i =>
      Tbl.modify l (off / 64 + i) fun x => { x with dirty := true }) m.lines }

/-- R337: a mapped line written back: all 64 bytes at its home, over whatever it holds. The writer is the team, of whose entry
it is a store (`wb` when a release makes it). A write-back to a lost range aborts the launch (R92), one that the pool decoder no longer grants
is a violation (R67, R95), and hosts that hold the line are back-invalidated (R60). -/
def State.writeBack (s : State) (k : Nat) (t : Team) (eid : Nat) (wb : Bool) (mn : Nat) (i : Nat) : State :=
  match Tbl.get? (s.cluster t.id.cluster).maps mn with
  | none => s
  | some m =>
    match Tbl.get? m.lines i with
    | none => s
    | some x =>
      let pa := 64 * x.ln
      if !x.dirty then s
      else if !x.host && s.lostAt pa then s.lostWrite k t
      else if !x.host && !s.isLocal pa && (s.poolFor t.id.part pa).isNone then
        if t.sched.frozen.isSome then s else s.freezeTeam k t 0 (m.va + 64 * i) (s.rightAt pa)
      else
        let bs := stashBytes (s.cluster t.id.cluster) (m.addr i 0) 64
        let pz := (granules (m.addr i 0) 64).any fun g => stashPois (s.cluster t.id.cluster) g
        let va := m.va + 64 * i
        let s := s.modCluster t.id.cluster fun c => { c with maps := Tbl.modify c.maps mn fun m =>
          { m with lines := Tbl.modify m.lines i fun x => { x with dirty := false } } }
        let mark := fun (s : State) => if wb then s.modTeam k fun t => { t with sync := { t.sync with compls := t.sync.compls.map fun c =>
          if c.entry = eid && c.va = va then { c with wb := true } else c } } else s
        let (tok, s) := s.take
        if x.host then
          match t.view with
          | .launch lk => let s := s.holdWrite lk va bs pz; mark (s.addCompl k eid va (some s.now)).2
          | .foreign _ _ _ => s
        else if s.isLocal pa then
          let s := (s.snoopOut x.ln).dropLease t.id.core [x.ln]
          let time := max s.now (s.leaseExpiry x.ln (some t.id.core))
          mark ((s.shadowWrite t.view pa bs pz (2 ^ 80 + tok)).addCompl k eid va (some time)).2
        else match s.poolFor t.id.part pa with
          | none => s
          | some e =>
            let z := s.tagOf t.view
            let (n, s) := s.addCompl k eid va none
            mark (s.poolWrite t.view t.id.slot e pa (.shadowWrite z.1 z.2 (BitVec.allOnes 64) (lineAt pa bs) pz) (.compl k n) (s.epochAt t eid (!wb)))

/-- The team is still there and no violation has frozen it. -/
def State.teamGoes (s : State) (k : Nat) : Bool := match Tbl.get? s.teams k with | some t => t.sched.frozen.isNone | none => false
/-- The mappings a team has joined. -/
def State.joined (s : State) (k : Nat) (t : Team) : List (Nat × Mapping) :=
  (s.cluster t.id.cluster).maps.filter fun m => decide (k ∈ m.2.teams)
/-- R328: write back the dirty lines of every mapping the team has joined, until a write-back ends or freezes the team. -/
def State.writeBackAll (s : State) (k : Nat) (t : Team) (eid : Nat) (wb : Bool) : State :=
  (s.joined k t).foldl (fun s m => m.2.lines.foldl (fun s x => if s.teamGoes k then s.writeBack k t eid wb m.1 x.1 else s) s) s
/-- R72, R74: a pool write among the write-backs of a team's mappings must wait at its core. -/
def State.backStalled (s : State) (t : Team) (ms : List (Nat × Mapping)) : Bool :=
  s.poolStalled t.id.slot && ms.any fun m => m.2.lines.any fun x => x.2.dirty && !x.2.host && !s.isLocal (64 * x.2.ln)
/-- R60: the lines among the write-backs of a team's mappings that hosts hold: they answer first. -/
def State.backHeld (s : State) (ms : List (Nat × Mapping)) : List Nat :=
  ms.flatMap fun m => (m.2.lines.filter fun x => x.2.dirty && !x.2.host && s.isLocal (64 * x.2.ln) && s.hostHolds x.2.ln).map fun x => x.2.ln
/-- The write-backs of a team's mappings have room in the launch's shadow. -/
def State.roomBack (s : State) (t : Team) (ms : List (Nat × Mapping)) : Bool :=
  ms.all fun m => m.2.lines.all fun x => !x.2.dirty || (if x.2.host then decide (s.poolUsed t.id.part < (s.part t.id.part).poolLines)
    else !s.isLocal (64 * x.2.ln) || s.hasRoom t.view x.2.ln)

/-- Where the bytes of an access at the bank lie: in a mapping its number and offset, and the stash address (R583, R584). -/
def State.bankAt (s : State) (k : Nat) (t : Team) (a : Acc) : Option (Nat × Nat) × Nat :=
  if a.stash then (none, a.va)
  else match s.mappingAt k t a.va a.len with
    | some (mn, m) => (some (mn, a.va - m.va), m.base + (a.va - m.va))
    | none => (none, a.va)

/-- An access at the stash bank (R584 to R588). -/
def State.bankAccess (s : State) (k eid : Nat) (t : Team) (a : Acc) : State :=
  let p := s.bankAt k t a
  let c := s.cluster t.id.cluster
  let bs := stashBytes c p.2 a.len
  let pz := (granules p.2 a.len).any (stashPois c)
  let put := fun (s : State) (bs : List Byte) =>
    let s := s.modCluster t.id.cluster fun c =>
      let c := stashWrite (storeTok k eid) c p.2 bs
      let c := if a.setf then (granules p.2 a.len).foldl (fun c g => setFull c g true) c else c
      match p.1 with
      | some (mn, off) => { c with maps := Tbl.modify c.maps mn fun m => m.touch off bs.length }
      | none => c
    if p.1.isSome then (s.addCompl k eid a.va (some s.now)).2 else s
  let upd := fun (w : Nat) (f : Nat → Nat) (ret : Nat → Word) =>
    if pz then s.accPois k eid t a p.2 3
    else (put s (leBytes (w / 8) (f (leNat bs)))).accDone k eid a.lane [.v a.d a.lane (ret (leNat bs))]
  match a.kind with
  | .store => (put s a.bytes).accDone k eid a.lane []
  | .atomic fn => upd (atomicW fn a.ty) (fun m => atomicNew fn a.ty a.fmt m (a.x.toNat % 2 ^ atomicW fn a.ty) (a.e.toNat % 2 ^ atomicW fn a.ty)) (atomicRet fn a.ty)
  | .satomic op => upd (intW a.ty) (fun m => stashNew op a.ty m (a.x.toNat % 2 ^ intW a.ty)) (extend a.ty)
  | _ => s.loadDone k eid t { a with got := bs, pz := if pz then some (4 * p.2 + 3) else none }

/-- R340, R585: a pass of `sld.fe`, whose granules are all full: its lanes take their values, and `.consume` clears the bits
once. A lane that meets poison without a flag leaves them. -/
def State.performFe (s : State) (k eid : Nat) (t : Team) (g : List Acc) (consume : Bool) : State :=
  let c := s.cluster t.id.cluster
  let taken := g.flatMap fun b =>
    let gr := granules (s.bankAt k t b).2 b.len
    if gr.any (stashPois c) && !polPflag b.pol then [] else gr
  let s := if consume then s.modCluster t.id.cluster fun c => taken.foldl (fun c x => setFull c x false) c else s
  g.foldl (fun s b => s.bankAccess k eid t b) s

/-- R73, R329: a releasing write is performed. -/
def State.onRelease (s : State) (k eid : Nat) (t : Team) (a : Acc) : State :=
  if isRel a.pol && a.kind.writes then (if polScope a.pol ≥ 3 then s.fixRelease k eid else s).hostPoint t (polScope a.pol) else s

/-- The lanes an access is performed with: the pass of a `sld.fe`, otherwise itself. -/
def Entry.feGroup (e : Entry) (a : Acc) : List Acc :=
  match a.kind with | .fe _ => e.accs.filter fun b => b.lane / 32 = a.lane / 32 | _ => [a]

/-- R330: an atomic of device scope or wider on a mapped-scoped range: the copy's dirty line is written back, the copy's line is fetched
again at its next touch, and the home executes the atomic; a line of host memory has no home that would. -/
def State.atomicThrough (s : State) (k : Nat) (e : Entry) (t : Team) (a : Acc) (mn : Nat) (m : Mapping) : State :=
  let off := a.va - m.va
  let x := (Tbl.get? m.lines (off / 64)).getD { dirty := false, ln := 0 }
  let g := e.group a
  if x.host then g.foldl (fun s b => s.accRaise k e.id b 0x29 (b.infoTs 8)) s
  else
    let s := s.writeBack k t e.id false mn (off / 64)
    if !s.teamGoes k then s
    else
      let s := s.modCluster t.id.cluster fun c => { c with maps := Tbl.modify c.maps mn fun m => { m with lines := Tbl.del m.lines (off / 64) } }
      g.foldl (fun s b => s.modAcc k e.id b.lane fun b => { b with segs := [{ len := b.len, pa := 64 * x.ln + off % 64 }], delta := false, through := true }) s

/-- An access at stash, through a mapping or not (R330, R336, R337, R584 to R588). -/
def State.performBank (s : State) (k : Nat) (e : Entry) (t : Team) (a : Acc) (map : Option (Nat × Mapping)) : State :=
  let g := e.feGroup a
  match map.bind fun x => (g.findSome? fun b => (x.2.unfilled b).head?.map fun u => (b, u)).map fun y => (x, y) with
  | some (x, b, i, sg) => s.fillFor k e.id t b x.1 x.2 i sg
  | none =>
    match a.kind, map with
    | .fe cons, _ => s.performFe k e.id t g cons
    | .atomic _, some x => if x.2.kind = 2 && decide (2 ≤ polScope a.pol) then s.atomicThrough k e t a x.1 x.2 else (s.onRelease k e.id t a).bankAccess k e.id t a
    | _, _ => (s.onRelease k e.id t a).bankAccess k e.id t a

/-! ## Transactional memory (R345, R347, R348, R597, R598) -/

/-- R345, R580, R597: an atomic of a transaction on an element whose words the home delivered: a read and a write record. -/
def State.txAtomic (s : State) (k eid : Nat) (a : Acc) (pa fn : Nat) (wb : List Byte) : State :=
  let x := (s.team k).sync.tm
  let m := leNat (x.over pa ((wb.drop (pa % 8)).take a.len))
  let w := atomicW fn a.ty
  let new := atomicNew fn a.ty a.fmt m (a.x.toNat % 2 ^ w) (a.e.toNat % 2 ^ w)
  s.tmRoom k ((x.readLog pa a.len wb).log pa (leBytes (w / 8) new)) fun s => s.accDone k eid a.lane [.v a.d a.lane (atomicRet fn a.ty m)]

/-- A TM store or atomic of one lane (R345, R597). -/
def State.performTm (s : State) (k : Nat) (e : Entry) (t : Team) (a : Acc) : State :=
  let x := t.sync.tm
  match a.segs with
  | [] => s
  | g :: _ =>
    if a.segs.any Seg.host then s.accRaise k e.id a 0xA2 []
    else if a.delta then s.accRaise k e.id a 0x4E a.infoT0
    else match a.kind with
      | .atomic fn =>
        if s.isLocal g.pa then
          let r := s.viewRead t.view (g.pa / 8 * 8) (8 * (words8 g.pa g.len).length)
          if r.2 then s.accPois k e.id t a g.pa 0 else s.txAtomic k e.id a g.pa fn r.1
        else match s.poolFor t.id.part g.pa with
          | none => s.poolFreeze k e.id a g.pa
          | some pe =>
            if pe.lost then s.accPois k e.id t a g.pa 1
            else
              let (n, s) := s.askPool (.acc k e.id a.lane) pe g.pa (s.viewOp t.view) false
              s.modAcc k e.id a.lane fun a => { a with wait := .cxl n }
      | _ =>
        let y := (a.segs.foldl (fun (p : Tm × List Byte) g => (p.1.log g.pa (p.2.take g.len), p.2.drop g.len)) (x, a.bytes)).1
        s.tmRoom k y fun s => s.accDone k e.id a.lane []

/-! ## Performing -/

/-- R350: entries of a slice that a partition uses: its teams', and those held for other dies. -/
def State.monUsed (s : State) (p h : Nat) : Nat :=
  (s.teams.filter fun x => x.2.id.part = p && (match x.2.sync.mon with | some m => m.slice = some h && m.status = 1 | none => false)).length +
    (s.ports.mons.filter fun m => m.own = p && homeSlice m.pa = h).length
/-- R350: the partition's share of the 4,096 monitor entries of a slice, divided as the walkers are (R169). -/
def State.monShare (s : State) (p : Nat) : Nat :=
  let n := max 1 s.parts.length
  4096 / n + b2n (decide ((s.parts.map Prod.fst).findIdx (· = p) < 4096 % n))
/-- R349, R350, R595: what the answer to an arming leaves: satisfied at once, or pending. -/
def Acc.monitor (s : State) (a : Acc) (g : Seg) (w : Word) (slice far : Option Nat) : Monitor :=
  { va := a.va, pa := g.pa, host := g.host, cmp := a.ty, v := a.x, status := if monHolds a.ty w a.x then 2 else 1, word := w
    slice := slice, far := far, pollAt := s.now + 64, acq := isAcq a.pol && decide (3 ≤ polScope a.pol) }
/-- R349: a request that arms a monitor at the W9L home of a pool word. -/
def State.armOp (s : State) (v : View) (id cmp : Nat) (x : Word) : MemOp := let z := s.tagOf v; .arm z.1 z.2 id cmp x (s.chainVers v)
/-- R350: the entry at the W9L stands: its wake will answer under the same number. -/
def State.standFar (s : State) (k tag pa : Nat) (pbr : Option Nat) : State :=
  { s with xlat := { s.xlat with reqs := s.xlat.reqs ++ [{ tag := tag, for_ := .far k, addr := pa, write := false, pbr := pbr, since := s.now }] } }
/-- R352: the entry that a W9L holds for a team's monitor, or is asked to hold, is given up. -/
def State.disarm (s : State) (k : Nat) : State :=
  let mine := s.xlat.reqs.filter fun r => r.for_ = .far k
  let s' := { s with xlat := { s.xlat with reqs := s.xlat.reqs.filter fun r => r.for_ ≠ .far k } }
  mine.foldl (fun s r => match s.poolEnt r.addr with
    | some e => if e.lost then s else (s.askPool .nobody e r.addr (.disarm r.tag) false).2
    | none => s) s'
/-- R349: a team asks a W9L to arm its monitor. -/
def State.askArm (s : State) (k : Nat) (t : Team) (for_ : Serves) (e : PoolEnt) (pa cmp : Nat) (x : Word) : Nat × State :=
  let s := s.modLaunch t.id.launch fun l => { l with mdies := if e.pbr ∈ l.mdies then l.mdies else l.mdies ++ [e.pbr] }
  s.askPool for_ e pa (s.armOp (s.team k).view s.fresh cmp x) false

/-- R349: arming reads the word and sets the team's monitor; a comparison that holds satisfies it at once. A pool word is armed at its W9L. -/
def State.performArm (s : State) (k : Nat) (e : Entry) (t : Team) (a : Acc) : State :=
  match a.segs with
  | [] => s
  | g :: _ =>
    if g.host then
      let (n, s) := (s.disarm k).askHost (.acc k e.id a.lane) t.id.ctx g
      s.modAcc k e.id a.lane fun a => { a with wait := .cxl n }
    else if s.isLocal g.pa then
      let s := s.disarm k
      let r := s.viewRead t.view g.pa 8
      if r.2 then s.loadDone k e.id t { a with pz := some (4 * g.pa) }
      else
        let w := BitVec.ofNat 64 (leNat r.1)
        let h := homeSlice g.pa
        let m := a.monitor s g w (if s.monUsed t.id.part h < s.monShare t.id.part then some h else none) none
        (s.modTeam k fun t => { t with sync := { t.sync with mon := some m } }).accDone k e.id a.lane []
    else match s.poolFor t.id.part g.pa with
      | none => s.poolFreeze k e.id a g.pa
      | some pe =>
        if pe.lost then s.loadDone k e.id t { a with pz := some (4 * g.pa + 1) }
        else
          let (n, s) := (s.disarm k).askArm k t (.acc k e.id a.lane) pe g.pa a.ty a.x
          s.modAcc k e.id a.lane fun a => { a with wait := .cxl n }

/-- Bytes of a part in a delivered line. -/
def partBytes (d : Line) (g : Seg) : List Byte := (List.range g.len).map fun i => lineByte d (g.pa % 64 + i)

/-- R350: the line of an entry held for another die, as its team's view holds it, and whether it is poisoned. -/
def State.poolMonLine (s : State) (m : PoolMon) : Line × Bool :=
  let r := s.viewRead (.foreign m.die m.part m.ver) (lineBase m.pa) 64
  (BitVec.ofNat 512 (leNat r.1), r.2)
/-- R350: the comparison of an entry held for another die holds. -/
def State.poolMonHolds (s : State) (m : PoolMon) : Bool :=
  let r := s.poolMonLine m
  !r.2 && monHolds m.cmp (BitVec.ofNat 64 (leNat (partBytes r.1 { len := 8, pa := m.pa }))) m.v
/-- R350, R433: an entry held for another die is freed, and its team told. -/
def State.poolWake (s : State) (m : PoolMon) (status : Nat) : State :=
  ({ s with ports := { s.ports with mons := s.ports.mons.filter fun x => !(x.die = m.die && x.id = m.id) } } : State).emit
    (.monWake m.die m.id status (s.poolMonLine m).1)
/-- R433: wake every monitor of another die's partition that this W9L holds on a word, and those of its landed teams. -/
def State.signalFar (s : State) (d p pa : Nat) : State :=
  let s := (s.ports.mons.filter fun m => m.die = d && m.part = p && m.pa = pa).foldl (fun s m => s.poolWake m 3) s
  { s with teams := Tbl.mapV s.teams fun _ t =>
      match t.sync.mon with
      | some m => if t.id.foreign && t.id.oteam / 2 ^ 20 = d && t.id.opart = p && m.status = 1 && m.pa = pa && !m.host then
          { t with sync := { t.sync with mon := some { m with status := 3, word := BitVec.ofNat 64 (leNat (s.viewRead t.view pa 8).1) } } }
        else t
      | none => t }
/-- R433: wake every monitor of a partition armed on a word, with status signalled; those that a W9L holds are woken there. -/
def State.signalAt (s : State) (p pa : Nat) (host : Bool) : State :=
  let s := if host || s.isLocal pa then s else match s.poolFor p pa with
    | some e => if e.lost then s else (s.askPool .nobody e pa (.signal p) false).2
    | none => s
  { s with teams := Tbl.mapV s.teams fun _ t =>
      match t.sync.mon with
      | some m => if t.id.part = p && m.status = 1 && m.pa = pa && m.host = host && m.far.isNone then
          let w := if host || !s.isLocal pa then m.word else BitVec.ofNat 64 (leNat (s.viewRead t.view pa 8).1)
          { t with sync := { t.sync with mon := some { m with status := 3, word := w } } }
        else t
      | none => t }

/-- Perform, or send on, one access that may be performed. -/
def State.perform (s : State) (k eid lane : Nat) : State :=
  let t := s.team k
  match t.sync.rq.find? fun e => e.id = eid with
  | none => s
  | some e =>
    match e.accs.find? fun a => a.lane = lane with
    | none => s
    | some a =>
      if a.wait = .xlat then s.stepAcc k eid lane
      else if a.needsWb then
        if s.backStalled t (s.joined k t) then s
        else if s.backHeld (s.joined k t) ≠ [] then (s.backHeld (s.joined k t)).foldl State.snoopOut s
        else if s.roomBack t (s.joined k t) then (s.writeBackAll k t eid true).modAcc k eid lane fun a => { a with wb := true }
        else s.overflow k eid t lane
      else
        let a := { a with wait := .ready }
        -- R66: a release received since the access was checked refuses it
        if (a.kind ≠ .sig : Bool) && a.segs.any (fun g => !g.host && s.releaseRefuses t.view g.pa) then
          if a.kind = .pf then s.accDone k eid lane [] else s.accRaise k eid a 0x4D a.infoT0
        else
        match (if a.kind = .pf || a.kind = .sig then none else (a.segs.map fun g => if g.host then 2 ^ 60 else lineNo g.pa).find? s.hostExcl) with
        -- R58: the host that holds a line exclusive is back-invalidated before anything reads it
        | some ln => (s.snoopOut ln).modAcc k eid lane fun a => { a with wait := .snoop }
        | none =>
        match (if a.hnd.isSome || a.stash || a.through || (a.kind = .sig : Bool) then none else s.mappingAt k t a.va a.len) with
        | some x => if a.kind = .pf then s.accDone k eid lane [] else s.performBank k e t a (some x)
        | none =>
          if a.stash then s.performBank k e t a none else
          let tm := s.inTx k eid
          let held := a.segs.filter fun g => !g.host && !s.isLocal g.pa && (s.heldPool t.view g.pa 1).isSome
          -- R336: a write recalls a pool line that a stash on this die holds, and is performed after the write-back
          if a.kind.writes && !tm && held ≠ [] then held.foldl (fun s g => s.recall t.view (lineNo g.pa)) s else
          match a.kind with
          | .pf => s.loadParts k eid t a a.segs
          | .arm => s.performArm k e t a
          | .sig => (match a.segs with | g :: _ => s.signalAt t.id.part g.pa g.host | [] => s).accDone k eid lane []
          | .load | .loadS => s.loadParts k eid t a a.segs
          | .store => if tm then s.performTm k e t a else s.performStore k eid t a
          | .atomic fn => if tm then s.performTm k e t a else s.performAtomic k e t a fn
          | .fence => ((s.fixRelease k eid).hostPoint t (polScope a.pol)).accDone k eid lane []
          | .satomic _ | .fe _ => s

/-- Every access that may be performed now: team, entry, lane. -/
def State.performable (s : State) : List (Nat × Nat × Nat) :=
  (s.teams.filter fun p => p.2.id.loc = .resident).flatMap fun p => p.2.sync.rq.flatMap fun e =>
    (e.accs.filter fun a => s.mayPerform p.1 p.2 e a).map fun a => (p.1, e.id, a.lane)

/-! ## Completions from outside (R80, R149, R178) -/

/-- What a host or pool completion does to the access that waits for it: status (R710), poison, the line, and an atomic's
values. -/
def State.accCompletion (s : State) (k eid lane status : Nat) (pois : Bool) (d : Line) (vals : List Nat) : State :=
  let t := s.team k
  match t.sync.rq.find? fun e => e.id = eid with
  | none => s
  | some e =>
    match e.accs.find? fun a => a.lane = lane with
    | none => s
    | some a =>
      let g := match a.segs with | g :: _ => g | [] => { len := 0, pa := 0 }
      let all := match a.kind with | .atomic _ => if s.inTx k eid then [a] else e.group a | _ => [a]
      if status ≠ 0 then
        let cause := if g.host then 0x29 else 0x27
        all.foldl (fun s b => s.accRaise k eid b cause (b.infoTs status)) s
      else
        match (if a.hnd.isSome || a.through then none else s.mappingAt k t a.va a.len) with
        | some (mn, m) =>
          match m.unfilled a with
          | (i, g) :: _ =>
            (s.fillLine t.id.cluster mn m i (lineNo g.pa) ((List.range 64).map (lineByte d)) pois g.host 0).modAcc k eid lane fun a => { a with wait := .ready }
          | [] => s.modAcc k eid lane fun a => { a with wait := .ready }
        | none =>
          match a.kind with
          | .atomic fn =>
            if pois then all.foldl (fun s b => s.accPois k eid t b g.pa 1) s
            else if s.inTx k eid then s.txAtomic k eid a g.pa fn (wordBytes d g)
            else s.atomicDone k eid a fn all vals (some s.now)
          | .arm =>
            if pois then s.loadDone k eid t { a with pz := some (4 * g.pa + s.poisSrc g) }
            else
              let w := BitVec.ofNat 64 (leNat (partBytes d g))
              let n := match a.wait with | .cxl n => n | _ => 0
              let far := if !g.host && vals = [1] then some n else none
              let s := if far.isSome then s.standFar k n g.pa ((s.poolEnt g.pa).map PoolEnt.pbr) else s
              (s.modTeam k fun t => { t with sync := { t.sync with mon := some (a.monitor s g w none far) } }).accDone k e.id lane []
          | _ =>
            let run := partBytes d g
            let pois := pois || (g.host && s.heldPois t.view (a.va + a.got.length) run.length)
            let run := if g.host then s.heldBytes t.view (a.va + a.got.length) run else run
            let x := (s.team k).sync.tm
            if s.inTx k eid && !g.host then
              s.tmRoom k (x.readLog g.pa g.len (wordBytes d g)) fun s =>
                s.loadParts k eid t { a with wait := .ready, got := a.got ++ x.over g.pa run, pz := if pois then some (a.pz.getD (4 * g.pa + s.poisSrc g)) else a.pz } a.segs.tail
            else
            let s := if g.host || pois then s else s.bulkFill t a g.pa (match a.wait with | .cxl n => n | _ => 0) d
            s.loadParts k eid t { a with wait := .ready, got := a.got ++ run, pz := if pois then some (a.pz.getD (4 * g.pa + s.poisSrc g)) else a.pz } a.segs.tail

end Sys2Proof.Machine
end

