-- ==== Sys2Proof/Machine/Mem.lean ====
section
/-! DEFINITION. Global loads, stores and atomics (R569 to R582): majors 0x14, 0x15, 0x18 and 0x1F. -/

namespace Sys2Proof.Machine

/-! ## Policy, addresses and lanes -/

/-- The policy word of an instruction (R495). -/
def polOf (t : Team) (c : Cur) (p : BitVec 6) : Word32 := (rdS t c p.toNat).setWidth 32

/-- R497, R573: check the policy word; then go on with it. -/
def memPol (s : State) (c : Cur) (t : Team) (r : PolRule) (p : BitVec 6) (go : Word32 → State) : State :=
  let w := polOf t c p
  match polCause r (s.featOf t) w with
  | some 0x07 => s.raiseQ c t 0x07 0 w.toNat
  | some x => s.raiseX c t x
  | none => go w

/-- R597: order fields and leases of TM accesses are not used. -/
def tmPol (t : Team) (w : Word32) : Word32 := if t.sync.tm.active && !t.sync.inHandler then w &&& 0xFF87FFFF#32 else w
/-- R496: under `hint.stream` an access takes the stream class, which thresholds of zero name. -/
def streamPol (t : Team) (w : Word32) : Word32 := if t.sched.stream ≠ 0 then w &&& 0xFFFF0000#32 else w
/-- R496: the stream count falls. -/
def Team.streamed (t : Team) : Team := { t with sched := { t.sched with stream := t.sched.stream - 1 } }

/-- R570: the address of lane l, and under handle addressing its handle (R390). -/
def mAddr (t : Team) (c : Cur) (m b : Nat) (pol : Word32) (l : Nat) : Nat × Option Word :=
  match m with
  | 0 => ((rdS t c b + wordOf (disp c) + BitVec.ofNat 64 (8 * l)).toNat, none)
  | 1 => ((rdV t c b l).toNat, none)
  | _ =>
    let o := rdV t c (c.freg.getD 0) l
    if polAspc pol = 1 then (o.toNat, some (rdS t c b)) else ((rdS t c b + o + wordOf (disp c)).toNat, none)

/-- R570: bytes of an element and elements of a lane, by mode and type. -/
def mSize (m ty : Nat) : Nat × Nat := let b := intW ty / 8; (b, if m = 0 then 8 / b else 1)

/-- The accesses of an instruction's lanes. -/
def laneAccs (t : Team) (c : Cur) (f : Nat → Acc) : List Acc := (lanesOf (gov t c) t.regs.lanes).map f

/-- R492: what `zero` writes, before any lane of the instruction has been performed. -/
def zeroWrites (t : Team) (c : Cur) (d : Nat) (accs : List Acc) : List RegWrite :=
  if c.zero && accs ≠ [] && c.entry.stage = 0 then (lanesOf (t.flow.pres &&& ~~~gov t c) t.regs.lanes).map fun l => .v d l 0 else []

/-- R575: the destinations of a load. -/
def loadDests (d : Nat × Nat) (pol : Word32) (accs : List Acc) : List (Nat × Nat) :=
  if accs = [] then [] else d :: (if polPflag pol then [(2, 7)] else [])

/-- R72, R73: a pool-scope release opens a new epoch of its source at issue; its value g is fixed later. -/
def State.openEpoch (s : State) (t : Team) (g : Option Nat := none) : State × Team :=
  let e := (Tbl.getD s.ports.epoch t.id.slot 0 + 1) % 65536
  ({ s with ports := { s.ports with epoch := Tbl.put s.ports.epoch t.id.slot e } },
   { t with sync := { t.sync with prels := t.sync.prels ++ [(e, t.sync.nextEntry, g)] } })
/-- The epoch that a releasing write opens. -/
def relOpen (s : State) (t : Team) (pol : Word32) (accs : List Acc) : State × Team :=
  if isRel pol && decide (3 ≤ polScope pol) && accs ≠ [] then s.openEpoch t else (s, t)

/-- R445: the event that counts the passes of a memory instruction. -/
def passEvent (accs : List Acc) : Nat :=
  match accs with
  | a :: _ => match a.kind with | .load | .loadS | .fe _ | .pf => 16 | .store => 17 | _ => 18
  | [] => 16

/-- Issue the lanes of a vector memory instruction. -/
def vecMem (s : State) (c : Cur) (t : Team) (z : BitVec 1) (pol : Word32) (d : Nat) (accs : List Acc) (dest : List (Nat × Nat)) : State :=
  let (s, t) := if accs.any fun a => a.kind.writes then relOpen s t pol accs else (s, t)
  (finishMem s c t z accs (if dest = [] then [] else zeroWrites t c d accs) dest (lanePasses t c)).countSkips t c |>.count t.id.ctx (passEvent accs) (lanePasses t c)

/-! ## Loads and stores -/

/-- `ld` (R576). -/
def execLd (z : BitVec 1) (d b p : BitVec 6) (m ty : BitVec 3) (s : State) : Host.Outcome State Fault Refusal :=
  withCur s fun c t =>
    memPol s c t { acq := true, rel := false, aspcOk := m = 2, pflagOk := true } p fun w =>
      let pol := streamPol t (tmPol t w)
      let sz := mSize m.toNat ty.toNat
      let accs := laneAccs t c fun l =>
        let a := mAddr t c m.toNat b.toNat pol l
        { kind := .load, lane := l, va := a.1, hnd := a.2, esz := sz.1, cnt := sz.2, ty := ty.toNat, pol := pol, d := d.toNat }
      vecMem s c t.streamed z pol d.toNat accs (loadDests (1, d.toNat) pol accs)

/-- `pf` (R579). -/
def execPf (z : BitVec 1) (b p : BitVec 6) (m ty : BitVec 3) (s : State) : Host.Outcome State Fault Refusal :=
  withCur s fun c t =>
    memPol s c t { acq := false, rel := false } p fun w =>
      let pol := streamPol t (tmPol t w)
      let sz := mSize m.toNat ty.toNat
      let accs := laneAccs t c fun l =>
        { kind := .pf, lane := l, va := (mAddr t c m.toNat b.toNat pol l).1, esz := sz.1, cnt := sz.2, ty := ty.toNat, pol := pol }
      vecMem s c t.streamed z pol 0 accs []

/-- `st` (R577). -/
def execSt (z : BitVec 1) (d b p : BitVec 6) (m ty : BitVec 3) (s : State) : Host.Outcome State Fault Refusal :=
  withCur s fun c t =>
    memPol s c t { acq := false, rel := true, aspcOk := m = 2 } p fun w =>
      let pol := streamPol t (tmPol t w)
      let sz := mSize m.toNat ty.toNat
      let accs := laneAccs t c fun l =>
        let a := mAddr t c m.toNat b.toNat pol l
        { kind := .store, lane := l, va := a.1, hnd := a.2, esz := sz.1, cnt := sz.2, ty := ty.toNat, pol := pol, x := rdV t c d.toNat l }
      vecMem s c t.streamed z pol 0 accs []

/-- R570: the address of a scalar access. -/
def sAddr (t : Team) (c : Cur) (b : BitVec 6) : Nat := (rdS t c b.toNat + wordOf (disp c)).toNat

/-- `lds` (R578). -/
def execLds (z : BitVec 1) (d b p : BitVec 6) (ty : BitVec 3) (s : State) : Host.Outcome State Fault Refusal :=
  withCur s fun c t =>
    memPol s c t { acq := true, rel := false, pflagOk := true } p fun w =>
      let pol := streamPol t (tmPol t w)
      let a : Acc := { kind := .loadS, va := sAddr t c b, esz := intW ty.toNat / 8, ty := ty.toNat, pol := pol, d := d.toNat }
      (finishMem s c t.streamed z [a] [] (loadDests (0, d.toNat) pol [a]) 1).count t.id.ctx 16 1

/-- `sts` (R578): it never migrates. -/
def execSts (z : BitVec 1) (d b p : BitVec 6) (ty : BitVec 3) (s : State) : Host.Outcome State Fault Refusal :=
  withCur s fun c t =>
    memPol s c t { acq := false, rel := true } p fun w =>
      let pol := streamPol t (tmPol t w)
      let a : Acc := { kind := .store, va := sAddr t c b, esz := intW ty.toNat / 8, ty := ty.toNat, pol := pol, x := rdS t c d.toNat, stay := true }
      let (s, t) := relOpen s t.streamed pol [a]
      (finishMem s c t z [a] [] [] 1).count t.id.ctx 17 1

/-! ## Atomics -/

/-- R464, R581: FMT with the rounding override in force. -/
def fmtRov (t : Team) (c : Cur) : Word32 :=
  match c.rov with | some r => (t.regs.fmt &&& 0xFFFFFFF8#32) ||| BitVec.ofNat 32 r | none => t.regs.fmt

/-- R580 to R582: an atomic of major 0x18, by its function. -/
def atomic (fn : Nat) (z : BitVec 1) (d b p : BitVec 6) (ty : BitVec 3) (s : State) : Host.Outcome State Fault Refusal :=
  withCur s fun c t =>
    if fn = 8 ∧ d = 63 then s.raiseX c t 0x02
    else memPol s c t { acq := true, rel := true, aspcOk := true } p fun w =>
      let pol := tmPol t w
      let f : Word := match c.freg with | some r => rdS t c r | none => 0
      let accs := laneAccs t c fun l =>
        let v := rdV t c b.toNat l
        { kind := .atomic fn, lane := l, va := if polAspc pol = 1 then v.toNat else (v + f).toNat
          hnd := if polAspc pol = 1 then some f else none, esz := atomicW fn ty.toNat / 8, ty := ty.toNat, pol := pol, d := d.toNat
          x := rdV t c d.toNat l, e := if fn = 8 then rdV t c (d.toNat + 1) l else 0, fmt := fmtRov t c }
      vecMem s c t z pol d.toNat accs (if accs = [] then [] else [(1, d.toNat)])

def execAadd (z : BitVec 1) (d b p : BitVec 6) (t : BitVec 3) (s : State) : Host.Outcome State Fault Refusal := atomic 0 z d b p t s
def execAfadd (z : BitVec 1) (d b p : BitVec 6) (t : BitVec 3) (s : State) : Host.Outcome State Fault Refusal := atomic 1 z d b p t s
def execAmin (z : BitVec 1) (d b p : BitVec 6) (t : BitVec 3) (s : State) : Host.Outcome State Fault Refusal := atomic 2 z d b p t s
def execAmax (z : BitVec 1) (d b p : BitVec 6) (t : BitVec 3) (s : State) : Host.Outcome State Fault Refusal := atomic 3 z d b p t s
def execAand (z : BitVec 1) (d b p : BitVec 6) (t : BitVec 3) (s : State) : Host.Outcome State Fault Refusal := atomic 4 z d b p t s
def execAor (z : BitVec 1) (d b p : BitVec 6) (t : BitVec 3) (s : State) : Host.Outcome State Fault Refusal := atomic 5 z d b p t s
def execAxor (z : BitVec 1) (d b p : BitVec 6) (t : BitVec 3) (s : State) : Host.Outcome State Fault Refusal := atomic 6 z d b p t s
def execAxch (z : BitVec 1) (d b p : BitVec 6) (t : BitVec 3) (s : State) : Host.Outcome State Fault Refusal := atomic 7 z d b p t s
def execAcas (z : BitVec 1) (d b p : BitVec 6) (t : BitVec 3) (s : State) : Host.Outcome State Fault Refusal := atomic 8 z d b p t s
def execAinc (z : BitVec 1) (d b p : BitVec 6) (t : BitVec 3) (s : State) : Host.Outcome State Fault Refusal := atomic 9 z d b p t s

end Sys2Proof.Machine
end

