-- ==== Sys2Proof/Machine/Stash.lean ====
section
/-! DEFINITION. Stash loads, stores and atomics (R583 to R588) and stash management (R600 to R602): majors 0x16, 0x17, 0x19
and 0x1E. -/

namespace Sys2Proof.Machine

/-! ## Accesses -/

/-- A stash access of lane l. -/
def stashAcc (t : Team) (c : Cur) (kind : AccKind) (m b : Nat) (esz cnt ty : Nat) (pol : Word32) (d : Nat) (l : Nat) : Acc :=
  { kind := kind, lane := l, va := (mAddr t c m b pol l).1, esz := esz, cnt := cnt, ty := ty, pol := pol, d := d, stash := true }

/-- `sld`, and `sld.fe`, whose team stalls until its passes have been performed (R341, R585). -/
def stashLoad (kind : AccKind) (z : BitVec 1) (d b p : BitVec 6) (m : BitVec 2) (ty : BitVec 3) (s : State) : Host.Outcome State Fault Refusal :=
  withCur s fun c t =>
    memPol s c t { acq := true, rel := false, leaseOk := false, migOk := false, pflagOk := true } p fun pol =>
      let sz := mSize m.toNat ty.toNat
      let accs := laneAccs t c (stashAcc t c kind m.toNat b.toNat sz.1 sz.2 ty.toNat pol d.toNat)
      let t := match kind with
        | .fe _ => if accs = [] || c.inj then t else { t with sync := { t.sync with park := .fe } }
        | _ => t
      vecMem s c t z pol d.toNat accs (loadDests (1, d.toNat) pol accs)
def execSld (z : BitVec 1) (d b p : BitVec 6) (m : BitVec 2) (ty : BitVec 3) (s : State) : Host.Outcome State Fault Refusal := stashLoad .load z d b p m ty s
def execSldFePeek (z : BitVec 1) (d b p : BitVec 6) (m : BitVec 2) (ty : BitVec 3) (s : State) : Host.Outcome State Fault Refusal := stashLoad (.fe false) z d b p m ty s
def execSldFeConsume (z : BitVec 1) (d b p : BitVec 6) (m : BitVec 2) (ty : BitVec 3) (s : State) : Host.Outcome State Fault Refusal := stashLoad (.fe true) z d b p m ty s

/-- `sst` and `sst.full` (R586). -/
def stashStore (full : Bool) (z : BitVec 1) (d b p : BitVec 6) (m : BitVec 2) (ty : BitVec 3) (s : State) : Host.Outcome State Fault Refusal :=
  withCur s fun c t =>
    memPol s c t { acq := false, rel := true, leaseOk := false, migOk := false } p fun pol =>
      let sz := mSize m.toNat ty.toNat
      let accs := laneAccs t c fun l =>
        { stashAcc t c .store m.toNat b.toNat sz.1 sz.2 ty.toNat pol 0 l with x := rdV t c d.toNat l, setf := full }
      vecMem s c t z pol 0 accs []
def execSst (z : BitVec 1) (d b p : BitVec 6) (m : BitVec 2) (ty : BitVec 3) (s : State) : Host.Outcome State Fault Refusal := stashStore false z d b p m ty s
def execSstFull (z : BitVec 1) (d b p : BitVec 6) (m : BitVec 2) (ty : BitVec 3) (s : State) : Host.Outcome State Fault Refusal := stashStore true z d b p m ty s

/-- R588: a stash atomic, by its operation, on a signed element of 32 or 64 bits. -/
def stashAtomic (op : Nat) (z : BitVec 1) (d b p : BitVec 6) (w : BitVec 1) (m : BitVec 2) (s : State) : Host.Outcome State Fault Refusal :=
  withCur s fun c t =>
    memPol s c t { acq := true, rel := true, leaseOk := false, migOk := false } p fun pol =>
      let ty := if w = 1 then 0 else 1
      let accs := laneAccs t c fun l =>
        { stashAcc t c (.satomic op) m.toNat b.toNat (intW ty / 8) 1 ty pol d.toNat l with
            va := (mAddr t c m.toNat b.toNat pol (if m = 0 then 0 else l)).1, x := rdV t c d.toNat l }
      vecMem s c t z pol d.toNat accs (if accs = [] then [] else [(1, d.toNat)])
def execSaadd (z : BitVec 1) (d b p : BitVec 6) (w : BitVec 1) (m : BitVec 2) (s : State) : Host.Outcome State Fault Refusal := stashAtomic 0 z d b p w m s
def execSamin (z : BitVec 1) (d b p : BitVec 6) (w : BitVec 1) (m : BitVec 2) (s : State) : Host.Outcome State Fault Refusal := stashAtomic 1 z d b p w m s
def execSamax (z : BitVec 1) (d b p : BitVec 6) (w : BitVec 1) (m : BitVec 2) (s : State) : Host.Outcome State Fault Refusal := stashAtomic 2 z d b p w m s
def execSaxch (z : BitVec 1) (d b p : BitVec 6) (w : BitVec 1) (m : BitVec 2) (s : State) : Host.Outcome State Fault Refusal := stashAtomic 3 z d b p w m s

/-! ## Allocation -/

/-- R600: the first place from the bottom of the team's allotment for an allocation with its guards, off every other and off the
spilled stack entries. -/
def Team.firstFit (t : Team) (len : Nat) : Option Nat :=
  let own := t.sync.allocs.filter fun x => !x.joined
  let top := t.sync.stashBase + t.sync.stashLen - 144 * (t.flow.stack.length - 16)
  let ok := fun a => decide (a + len + 64 ≤ top) && own.all fun x => decide (a + len + 128 ≤ x.base ∨ x.base + x.len + 128 ≤ a)
  (((t.sync.stashBase + 64) :: own.map fun x => x.base + x.len + 128).filter ok).min?

/-- R601: an allocation starts with zeros, empty and clean. -/
def clearStash (c : Cluster) (a n : Nat) : Cluster :=
  (granules a n).foldl (fun c g => setStashPois (setFull c g false) g false) (stashPuts c a (List.replicate n 0))

/-- R601: whether the regions that allow a use cover a range: loads in every class, stores in the writable ones. -/
def footLoads (foot : List Foot) (va n : Nat) : Bool := covered foot (fun _ => true) va n
def footStores (foot : List Foot) (va n : Nat) : Bool := covered foot (fun c => c = 1 || c = 2) va n

/-- What the checks of a new mapping come to (R335, R601): a cause, a mapping to join, or none. -/
inductive MapChk
  | raise (cause : Nat) (info : List Word)
  | join (mn : Nat) (m : Mapping)
  | fresh
def State.checkMap (s : State) (t : Team) (va len : Nat) (w join : Bool) : MapChk :=
  let a : Acc := { kind := if w then .store else .load, va := va, esz := 1 }
  let foot := s.footOf t.view
  if va % 64 ≠ 0 then .raise 0x24 a.infoT0
  else if !footLoads foot va len then .raise 0x4D a.infoT0
  else if w && !footStores foot va len then .raise 0x4C a.infoT0
  else match (s.cluster t.id.cluster).maps.find? fun m => m.2.launch = t.id.launch && decide (m.2.va < va + len ∧ va < m.2.va + m.2.len) with
    | none => .fresh
    | some (mn, m) => if join && m.va = va && m.len = len then .join mn m else .raise 0x3B (infoQ va len 0)

/-- A new mapping of a team, over an allocation. -/
def State.newMap (s : State) (k : Nat) (t : Team) (va len kind base : Nat) (w : Bool) : Nat × State :=
  let (n, s) := s.take
  let m : Mapping := { launch := t.id.launch, va := va, len := len, kind := kind, w := w, base := base, quarter := base / 2 ^ 19, owner := k, teams := [k] }
  (n, s.modCluster t.id.cluster fun c => { c with maps := Tbl.put c.maps n m })

/-- Raise a cause of the whole instruction. -/
def raiseW (s : State) (c : Cur) (t : Team) (cause : Nat) (info : List Word) : State := s.raise c t { cause := cause, info := info } (govTeam t c)

/-- `salloc` (R600, R601). -/
def execSalloc (z : BitVec 1) (d a b : BitVec 6) (w : BitVec 1) (kd : BitVec 2) (s : State) : Host.Outcome State Fault Refusal :=
  withCur s fun c t =>
    let n := (rdS t c a.toNat).toNat
    let va := (rdS t c b.toNat).toNat
    let len := cdiv n 64 * 64
    let fin := fun (s : State) (t : Team) (r : Word) => finishLong s c t z [.s d.toNat r] 1
    let add := fun (t : Team) (x : Alloc) => ({ t with sync := { t.sync with allocs := t.sync.allocs ++ [x] } } : Team)
    if kd = 3 ∨ (kd = 0 ∧ w = 1) then s.raiseX c t 0x02
    else if n = 0 ∨ n > 2 ^ 21 then raiseW s c t 0x38 [Config.noWhere 0, Config.noWhere 1, 1]
    else
      let place := fun (_ : Unit) =>
        match t.firstFit len with
        | none => fin s t (BitVec.allOnes 64)
        | some base =>
          let s := s.modCluster t.id.cluster fun c => clearStash c base len
          if kd = 0 then fin s (add t { base := base, len := len, kind := 0 }) (BitVec.ofNat 64 base)
          else
            let (mn, s) := s.newMap c.team t va len kd.toNat base (w = 1)
            fin s (add t { base := base, len := len, kind := kd.toNat, va := va, w := w = 1, map := mn }) (BitVec.ofNat 64 base)
      if kd = 0 then place ()
      else match s.checkMap t va len (w = 1) true with
        | .raise x i => raiseW s c t x i
        | .fresh => place ()
        | .join mn m =>
          if c.team ∈ m.teams then fin s t (BitVec.ofNat 64 m.base)
          else
            let s := s.modCluster t.id.cluster fun q => { q with maps := Tbl.put q.maps mn { m with teams := m.teams ++ [c.team] } }
            fin s (add t { base := m.base, len := m.len, kind := m.kind, va := m.va, w := m.w, map := mn, joined := true }) (BitVec.ofNat 64 m.base)

/-- Every stash access the team has issued has been performed. -/
def TeamSync.stashDone (y : TeamSync) : Bool := y.rq.all fun e => e.accs.all fun a => !a.stash && !a.bank

/-- The allocation of a team that starts at a stash address. -/
def Team.allocAt (t : Team) (a : Nat) : Option Alloc := t.sync.allocs.find? fun x => x.base = a && !x.freeing

/-- R60, R74, R223: the write-backs of mappings may go to their homes; or the stall of a pool write, the wait for the answers of hosts that hold
a line, or the stall or abort without room. -/
def withRoom (s : State) (c : Cur) (t : Team) (ms : List (Nat × Mapping)) (go : State → State) : State :=
  if s.backStalled t ms then waitHere s c t .port
  else if s.backHeld ms ≠ [] then waitHere ((s.backHeld ms).foldl State.snoopOut s) c t .port
  else if s.roomBack t ms then go s
  else
    let ab := match t.view with | .launch lk => (s.launch lk).head.abortOvf | .foreign _ _ _ => true
    if !ab && s.olderThan t.view then waitHere s c t .room else { s with cur := none }.abortTeam c.team t 0x4F

/-- The mapping of an allocation. -/
def State.mapOf (s : State) (t : Team) (x : Alloc) : List (Nat × Mapping) :=
  if x.kind = 0 then [] else match Tbl.get? (s.cluster t.id.cluster).maps x.map with | some m => [(x.map, m)] | none => []

/-- R601: write back the dirty lines of mappings as stores of the instruction, until one ends or freezes the team. -/
def State.flushMaps (s : State) (k : Nat) (t : Team) (eid : Nat) (ms : List (Nat × Mapping)) : State :=
  ms.foldl (fun s m => m.2.lines.foldl (fun s x => if s.teamGoes k then s.writeBack k t eid false m.1 x.1 else s) s) s

/-- R335: a team leaves a mapping; the last one ends it, and ends the deferred free of its owner. A mapped-coherent stash gives up
its holdings. -/
def State.leaveMap (s : State) (k : Nat) (t : Team) (mn : Nat) (giveUp : Bool) : State :=
  match Tbl.get? (s.cluster t.id.cluster).maps mn with
  | none => s
  | some m =>
    let m := { m with teams := m.teams.filter fun j => j ≠ k, lines := if giveUp && m.kind = 1 then [] else m.lines }
    if m.teams = [] then
      let s := s.modCluster t.id.cluster fun c => { c with maps := Tbl.del c.maps mn }
      s.modTeam m.owner fun o => { o with sync := { o.sync with allocs := o.sync.allocs.filter fun x => !(x.freeing && x.map = mn) } }
    else s.modCluster t.id.cluster fun c => { c with maps := Tbl.put c.maps mn m }

/-- The card reads or writes some byte of a stash range, its barrier object among them. -/
def Card.touches (k : Card) (a n : Nat) : Bool :=
  let b := (k.bits : BitVec 512).toNat
  (k.rd ++ k.wr ++ (if bit b 31 then [(Machine.bits b 46 32 * 64, 64)] else [])).any fun x => decide (x.1 < a + n ∧ a < x.1 + x.2)
/-- R602: an accepted card of the cluster whose ranges touch a range has not completed. -/
def State.cardOn (s : State) (cl a n : Nat) : Bool := (s.cluster cl).cards.any fun k => k.st ≠ .complete && k.touches a n

/-- What a team stands at, as something to raise a cause for: the head of its re-injection, or the instruction at its PC. -/
def State.standing (s : State) (k : Nat) : Cur × State :=
  let t := s.team k
  match t.sync.reinj with
  | e :: r => ({ team := k, inj := true, entry := e }, s.setTeam k { t with sync := { t.sync with reinj := r } })
  | [] =>
    let w := ((s.image t).word t.flow.pc.toNat).getD 0
    ({ team := k, entry := { word := BitVec.ofNat 32 w, pc := t.flow.pc, modw := (t.flow.hints.find? fun h => !isImm h).getD 0
                             immw := (t.flow.hints.find? isImm).getD 0, gov := t.flow.active } }, s)
/-- A parked team raises a cause at the instruction it waits at. -/
def State.raiseParked (s : State) (k cause : Nat) (info : List Word) : State :=
  let (c, s) := s.standing k
  let t := s.team k
  s.raise c t { cause := cause, info := info } (govTeam t c)

/-- R602: the teams of a cluster that wait on a barrier object in a freed range raise 0xA0. -/
def State.killWaiters (s : State) (k cl a n : Nat) : State :=
  s.teams.foldl (fun s p =>
    match p.2.sync.park with
    | .barrier o _ => if p.1 ≠ k ∧ p.2.id.cluster = cl ∧ a ≤ o ∧ o < a + n then s.raiseParked p.1 0xA0 (infoQ o 0 0) else s
    | _ => s) s

/-- Free an allocation of a team: an `sfree` in progress (R602, R642). The stash stays while a joined team maps it. -/
def State.freeAlloc (s : State) (k : Nat) (x : Alloc) : State :=
  let t := s.team k
  let ms := s.mapOf t x
  let s := s.modTeam k fun t => { t with sync := { t.sync with allocs := t.sync.allocs.filter fun y => y ≠ x } }
  let s := ms.foldl (fun s m => s.leaveMap k t m.1 false) s
  let used := !x.joined && (s.cluster t.id.cluster).maps.any (fun m => m.1 = x.map && m.2.owner = k)
  let s := if used then s.modTeam k fun t => { t with sync := { t.sync with allocs := t.sync.allocs ++ [{ x with freeing := true }] } } else s
  s.killWaiters k t.id.cluster x.base x.len

/-- `sfree` (R600, R602). -/
def execSfree (z : BitVec 1) (a : BitVec 6) (s : State) : Host.Outcome State Fault Refusal :=
  withCur s fun c t =>
    let addr := (rdS t c a.toNat).toNat
    match t.allocAt addr with
    | none => s.raiseQ c t 0x3C addr 0
    | some x =>
      if s.cardOn t.id.cluster x.base x.len || !t.sync.stashDone then waitHere s c t (.sfree x.base)
      else
        let ms := s.mapOf t x
        withRoom s c t ms fun s => ((finishShort s c t z [] 1).flushMaps c.team t t.sync.nextEntry ms).freeAlloc c.team x

/-- `smap` (R600, R601). -/
def execSmap (z : BitVec 1) (a b : BitVec 6) (w : BitVec 1) (kd : BitVec 2) (s : State) : Host.Outcome State Fault Refusal :=
  withCur s fun c t =>
    let addr := (rdS t c a.toNat).toNat
    let va := (rdS t c b.toNat).toNat
    if kd = 0 ∨ kd = 3 then s.raiseX c t 0x02
    else match t.allocAt addr with
      | none => s.raiseQ c t 0x3C addr 0
      | some x =>
        if x.kind ≠ 0 then s.raiseQ c t 0x3C addr 0
        else if !t.sync.stashDone then waitHere s c t .bank
        else match s.checkMap t va x.len (w = 1) false with
          | .raise e i => raiseW s c t e i
          | _ =>
            let (mn, s) := s.newMap c.team t va x.len kd.toNat x.base (w = 1)
            let y := { x with kind := kd.toNat, va := va, w := w = 1, map := mn }
            finishShort s c { t with sync := { t.sync with allocs := t.sync.allocs.map fun q => if q = x then y else q } } z [] 1

/-- `sunmap` (R600, R601). -/
def execSunmap (z : BitVec 1) (a : BitVec 6) (s : State) : Host.Outcome State Fault Refusal :=
  withCur s fun c t =>
    let addr := (rdS t c a.toNat).toNat
    match t.allocAt addr with
    | none => s.raiseQ c t 0x3C addr 0
    | some x =>
      if x.kind = 0 then s.raiseQ c t 0x3C addr 0
      else if !t.sync.stashDone then waitHere s c t .bank
      else
        let ms := s.mapOf t x
        withRoom s c t ms fun s =>
          let s := (finishShort s c t z [] 1).flushMaps c.team t t.sync.nextEntry ms
          let s := s.modTeam c.team fun t =>
            let al := if x.joined then t.sync.allocs.filter (fun y => y ≠ x) else t.sync.allocs.map (fun y => if y = x then { x with kind := 0 } else y)
            { t with sync := { t.sync with allocs := al } }
          ms.foldl (fun s m => s.leaveMap c.team t m.1 true) s

/-- `sflush` (R600, R601). -/
def execSflush (z : BitVec 1) (a : BitVec 6) (s : State) : Host.Outcome State Fault Refusal :=
  withCur s fun c t =>
    let addr := (rdS t c a.toNat).toNat
    match t.allocAt addr with
    | none => s.raiseQ c t 0x3C addr 0
    | some x =>
      if x.kind = 0 then s.raiseQ c t 0x3C addr 0
      else if !t.sync.stashDone then waitHere s c t .bank
      else
        let ms := s.mapOf t x
        withRoom s c t ms fun s => (finishShort s c t z [] 1).flushMaps c.team t t.sync.nextEntry ms

end Sys2Proof.Machine
end

