-- ==== Sys2Proof/Machine/Control.lean ====
section
/-! DEFINITION. Branches and structured vector control flow (R510 to R526): majors 0x02 and 0x03. -/

namespace Sys2Proof.Machine

/-- R508: the length of the text of the image a team runs. -/
def State.tlen (s : State) (t : Team) : Nat := (Tbl.getD (s.part t.id.part).images t.id.img {}).tlen

/-- R281, R515, R516: the team issues nothing for `n` more ticks after this one. -/
def Team.delay (t : Team) (now n : Nat) : Team := { t with sched := { t.sched with notBefore := now + 1 + n } }
/-- R514: a target inside the text and word aligned. -/
def State.inText (s : State) (t : Team) (tgt : Int) : Bool := decide (0 ≤ tgt ∧ tgt < s.tlen t ∧ tgt % 4 = 0)
/-- R514 to R516: a jump of a form of major 0x03; a target outside the text raises 0x0E and changes nothing (R511). `t'` holds the
instruction's other effects, `f` those outside the team, and `n` is the delay of its spills. -/
def jump (s : State) (c : Cur) (t t' : Team) (z : BitVec 1) (n : Nat) (f : State → State) (tgt : Int) : State :=
  if s.inText t tgt then finishJump (f s) c (t'.delay s.now (n + 1)) z [] (wordOf tgt) else s.raiseX c t 0x0E

/-- P + 4 × offset (R514). -/
def branchTarget (c : Cur) (w n : Nat) : Int := (c.entry.pc.toNat : Int) + 4 * immOf c w n

/-- R514: a branch: taken it jumps and writes `ws`, untaken it goes on. -/
def branch (s : State) (c : Cur) (t : Team) (z : BitVec 1) (taken : Bool) (ws : List RegWrite) (tgt : Int) : State :=
  if taken then
    if s.inText t tgt then (finishJump s c (t.delay s.now 1) z ws (wordOf tgt)).count t.id.ctx 13 1 else s.raiseX c t 0x0E
  else finishShort s c t z [] 1

/-- The link write of `bal` and `jalr`. -/
def linkWrite (c : Cur) : List RegWrite := [.s 63 c.next]

def execB (z : BitVec 1) (o : BitVec 18) (s : State) : Host.Outcome State Fault Refusal :=
  withCur s fun c t => branch s c t z true [] (branchTarget c 18 o.toNat)
def execBal (z : BitVec 1) (o : BitVec 18) (s : State) : Host.Outcome State Fault Refusal :=
  withCur s fun c t => branch s c t z true (linkWrite c) (branchTarget c 18 o.toNat)

/-- R514: a branch on a mask register over the active mask. -/
def branchMask (cond : Nat) (z : BitVec 1) (k : BitVec 3) (o : BitVec 18) (s : State) : Host.Outcome State Fault Refusal :=
  withCur s fun c t => branch s c t z (maskCond cond (rdK t c k.toNat) t.flow.active) [] (branchTarget c 18 o.toNat)
def execBcAny (z : BitVec 1) (k : BitVec 3) (o : BitVec 18) (s : State) : Host.Outcome State Fault Refusal := branchMask 2 z k o s
def execBcNone (z : BitVec 1) (k : BitVec 3) (o : BitVec 18) (s : State) : Host.Outcome State Fault Refusal := branchMask 3 z k o s
def execBcAll (z : BitVec 1) (k : BitVec 3) (o : BitVec 18) (s : State) : Host.Outcome State Fault Refusal := branchMask 4 z k o s
def execBcNall (z : BitVec 1) (k : BitVec 3) (o : BitVec 18) (s : State) : Host.Outcome State Fault Refusal := branchMask 5 z k o s

/-- R514: a branch on a scalar register against zero. -/
def branchScalar (cond : Nat) (z : BitVec 1) (r : BitVec 6) (o : BitVec 12) (s : State) : Host.Outcome State Fault Refusal :=
  withCur s fun c t => branch s c t z (scalarCond cond (rdS t c r.toNat)) [] (branchTarget c 12 o.toNat)
def execBcEq (z : BitVec 1) (r : BitVec 6) (o : BitVec 12) (s : State) : Host.Outcome State Fault Refusal := branchScalar 6 z r o s
def execBcNe (z : BitVec 1) (r : BitVec 6) (o : BitVec 12) (s : State) : Host.Outcome State Fault Refusal := branchScalar 7 z r o s
def execBcLt (z : BitVec 1) (r : BitVec 6) (o : BitVec 12) (s : State) : Host.Outcome State Fault Refusal := branchScalar 8 z r o s
def execBcGe (z : BitVec 1) (r : BitVec 6) (o : BitVec 12) (s : State) : Host.Outcome State Fault Refusal := branchScalar 9 z r o s
def execBcGt (z : BitVec 1) (r : BitVec 6) (o : BitVec 12) (s : State) : Host.Outcome State Fault Refusal := branchScalar 10 z r o s
def execBcLe (z : BitVec 1) (r : BitVec 6) (o : BitVec 12) (s : State) : Host.Outcome State Fault Refusal := branchScalar 11 z r o s

def execJr (z : BitVec 1) (r : BitVec 6) (s : State) : Host.Outcome State Fault Refusal :=
  withCur s fun c t => branch s c t z true [] (rdS t c r.toNat).toInt
def execJalr (z : BitVec 1) (r : BitVec 6) (s : State) : Host.Outcome State Fault Refusal :=
  withCur s fun c t => branch s c t z true (linkWrite c) (rdS t c r.toNat).toInt

/-! ## The reconvergence stack (R279 to R282) -/

/-- R516: mask(k). -/
def maskK (t : Team) (c : Cur) (k : Nat) : Mask := rdK t c k
/-- Change D. -/
def Team.setD (t : Team) (d : Mask) : Team := { t with flow := { t.flow with D := d } }
/-- R280: restore FMT. -/
def Team.setFmt (t : Team) (f : Word32) : Team := { t with regs := { t.regs with fmt := f } }
def Team.setStack (t : Team) (st : List StackEnt) : Team := { t with flow := { t.flow with stack := st } }

/-- R281, R282: whether an entry may be pushed: at most 256 deep, and the slot of the entry it spills lies in the
allotment, off every allocated granule. -/
def pushOk (t : Team) : Bool :=
  let d := t.flow.stack.length + 1
  decide (d ≤ 256) &&
    (decide (d ≤ 16) ||
      (decide (144 * (d - 16) ≤ t.sync.stashLen) &&
        let lo := t.sync.stashBase + t.sync.stashLen - 144 * (d - 16)
        t.sync.allocs.all fun a => a.joined || decide (lo + 144 ≤ a.base ∨ a.base + a.len ≤ lo)))

/-- R281: a spilled entry as it lies in stash. -/
def StackEnt.bytes (e : StackEnt) : List Byte :=
  let sum := (List.range 32).foldl (fun n i => n + b2n (maskWord e.mask i ≠ 0) * 2 ^ i) 0
  leBytes 144 (e.kind % 4 + e.pc.toNat % 2 ^ 32 * 2 ^ 32 + e.fmt.toNat * 2 ^ 64 + sum * 2 ^ 96 + e.mask.toNat * 2 ^ 128)
/-- R281: the spilled entries of a stack, by depth from 1 at the bottom. -/
def spilledOf (st : List StackEnt) : List (StackEnt × Nat) := (st.drop 16).reverse.zipIdx 1
/-- R281: the spilled entries of a team as they lie in its allotment. -/
def State.spillOut (s : State) (t : Team) : State :=
  if spilledOf t.flow.stack = [] then s
  else s.modCluster t.id.cluster fun cl => (spilledOf t.flow.stack).foldl (fun cl p =>
    let a := t.sync.stashBase + t.sync.stashLen - 144 * p.2
    (granules a 144).foldl (fun cl g => setStashPois cl g false) (stashPuts cl a p.1.bytes)) cl

/-- R518, R521: push an entry and narrow D; jump when no lane is left. -/
def openPath (s : State) (c : Cur) (t : Team) (z : BitVec 1) (m : Mask) (e : StackEnt) (tgt : Int) : State :=
  if pushOk t then
    let t' := (t.setStack (e :: t.flow.stack)).setD (t.flow.D &&& m)
    let n := b2n (decide (t.flow.stack.length ≥ 16))
    let f := fun (s : State) => ((s.count t.id.ctx 14 1).count t.id.ctx 15 n).spillOut t'
    if t'.flow.active = 0 then jump s c t t' z (9 * n) f tgt else finishShort (f s) c (t'.delay s.now (9 * n)) z [] 1
  else s.raiseX c t 0x0C

def execVif (z : BitVec 1) (k : BitVec 3) (o : BitVec 18) (s : State) : Host.Outcome State Fault Refusal :=
  withCur s fun c t =>
    let tgt := branchTarget c 18 o.toNat
    openPath s c t z (maskK t c k.toNat) { mask := t.flow.D, pc := wordOf tgt, fmt := t.regs.fmt, kind := 0 } tgt

/-- R519. -/
def execVelse (z : BitVec 1) (o : BitVec 18) (s : State) : Host.Outcome State Fault Refusal :=
  withCur s fun c t =>
    match t.flow.stack with
    | e :: r =>
      if e.kind = 0 then
        let tgt := branchTarget c 18 o.toNat
        let t' := ((t.setD (e.mask &&& ~~~t.flow.D)).setFmt e.fmt).setStack ({ e with kind := 1, pc := wordOf tgt } :: r)
        if t'.flow.active = 0 then jump s c t t' z 0 (fun s => s) tgt else finishShort s c t' z [] 1
      else s.raiseX c t 0x0D
    | [] => s.raiseX c t 0x0D

/-- R280, R281, R520: pop, restoring D and FMT; a fill from stash delays the team. -/
def popEnt (t : Team) (now : Nat) (e : StackEnt) (r : List StackEnt) : Team :=
  (((t.setStack r).setD e.mask).setFmt e.fmt).delay now (if r.length ≥ 16 then 9 else 0)

def execVendif (z : BitVec 1) (s : State) : Host.Outcome State Fault Refusal :=
  withCur s fun c t =>
    match t.flow.stack with
    | e :: r => if e.kind = 2 then s.raiseX c t 0x0D else finishShort s c (popEnt t s.now e r) z [] 1
    | [] => s.raiseX c t 0x0D

def execVdo (z : BitVec 1) (k : BitVec 3) (o : BitVec 18) (s : State) : Host.Outcome State Fault Refusal :=
  withCur s fun c t =>
    openPath s c t z (maskK t c k.toNat) { mask := t.flow.D, pc := c.next, fmt := t.regs.fmt, kind := 2 } (branchTarget c 18 o.toNat)

/-- R522. -/
def execVwhile (z : BitVec 1) (k : BitVec 3) (s : State) : Host.Outcome State Fault Refusal :=
  withCur s fun c t =>
    match t.flow.stack with
    | e :: r =>
      if e.kind = 2 then
        let t' := t.setD (t.flow.D &&& maskK t c k.toNat)
        if t'.flow.active = 0 then finishShort s c (popEnt t s.now e r) z [] 1
        else jump s c t t' z 0 (fun s => s) e.pc.toNat
      else s.raiseX c t 0x0D
    | [] => s.raiseX c t 0x0D

/-- R523: the entries above the topmost loop entry lose the lanes `b`; none if there is no loop entry. -/
def breakOut (b : Mask) : List StackEnt → Option (List StackEnt)
  | [] => none
  | e :: r => if e.kind = 2 then some (e :: r) else (breakOut b r).map fun r' => { e with mask := e.mask &&& ~~~b } :: r'

/-- R523: the spilled entries that a break rewrites. -/
def spilledChanged (a b : List StackEnt) : Nat := ((spilledOf a).zip (spilledOf b)).countP fun p => p.1.1.mask ≠ p.2.1.mask

def execVbrk (z : BitVec 1) (k : BitVec 3) (s : State) : Host.Outcome State Fault Refusal :=
  withCur s fun c t =>
    let b := maskK t c k.toNat &&& t.flow.active
    match breakOut b t.flow.stack with
    | some st =>
      finishShort (s.spillOut (t.setStack st)) c (((t.setStack st).setD (t.flow.D &&& ~~~b)).delay s.now (9 * spilledChanged t.flow.stack st)) z [] 1
    | none => s.raiseX c t 0x0D

/-- R524. -/
def execVany (z : BitVec 1) (k : BitVec 3) (d : BitVec 6) (s : State) : Host.Outcome State Fault Refusal :=
  withCur s fun c t => finishShort s c t z [.s d.toNat (boolW (maskK t c k.toNat &&& t.flow.active ≠ 0))] 1
def execVall (z : BitVec 1) (k : BitVec 3) (d : BitVec 6) (s : State) : Host.Outcome State Fault Refusal :=
  withCur s fun c t => finishShort s c t z [.s d.toNat (boolW (t.flow.active &&& ~~~maskK t c k.toNat = 0))] 1

end Sys2Proof.Machine
end

