-- ==== Sys2Proof/Machine/Space.lean ====
section
/-! DEFINITION. The team state space (R423, R424) and the control registers (R494). -/

namespace Sys2Proof.Machine

/-- Word i of 64 bits of a mask: lane 64i + j at bit j. -/
def mask64 (m : Mask) (i : Nat) : Word := BitVec.ofNat 64 (m.toNat / 2 ^ (64 * i))
/-- A mask with its 64-bit word i replaced. -/
def setMask64 (m : Mask) (i : Nat) (v : Word) : Mask :=
  BitVec.ofNat 1024 (m.toNat - (mask64 m i).toNat * 2 ^ (64 * i) + v.toNat * 2 ^ (64 * i))

/-- The `tcause` word (R423): zero before the first trap. -/
def TeamSync.tcause (y : TeamSync) : Nat :=
  if y.frame.valid then y.frame.cause + y.frame.cls * 2 ^ 8 + b2n y.inHandler * 2 ^ 16 + b2n y.frame.noPc * 2 ^ 17 else 0

/-- The `tstate` word (R423). -/
def Team.tstate (t : Team) : Nat :=
  if t.sched.frozen.isSome then 4 else if t.sched.halted then 3 else if t.sync.inHandler then 2
  else if t.sync.park ≠ .run then 1 else 0

/-- R281: a stack entry as 18 words. -/
def stackWord (e : StackEnt) (i : Nat) : Word :=
  match i with
  | 0 => BitVec.ofNat 64 (e.kind + e.pc.toNat % 2 ^ 32 * 2 ^ 32)
  | 1 => BitVec.ofNat 64 (e.fmt.toNat + (summary e.mask).toNat * 2 ^ 32)
  | n => mask64 e.mask (n - 2)

/-- R423: header word 2 of an entry. -/
def Entry.head2 (e : Entry) : Word :=
  BitVec.ofNat 64 (b2n e.done + b2n e.faulting * 2 + b2n e.drop * 4 + e.ops.length * 2 ^ 8 +
    (e.ops.take 4).zipIdx.foldl (fun n p => n + b2n p.1.vec * 2 ^ (12 + p.2)) 0 + e.passes.toNat * 2 ^ 32)

/-- R423: a word of a replay entry, at its offset. -/
def Entry.word64 (e : Entry) (o : Nat) : Word :=
  if o = 0 then BitVec.ofNat 64 (e.word.toNat + e.modw.toNat * 2 ^ 32)
  else if o = 1 then BitVec.ofNat 64 (e.immw.toNat + e.pc.toNat % 2 ^ 32 * 2 ^ 32)
  else if o = 2 then e.head2
  else if o < 19 then mask64 e.gov (o - 3)
  else if 0x400 ≤ o ∧ o < 0x1400 then
    match e.ops[o / 0x400 - 1]? with
    | some p => Tbl.getD p.vals (o % 0x400) 0
    | none => 0
  else 0

/-- R423: read a word of a team's state space. -/
def spaceRead (t : Team) (a : Nat) : Word :=
  let y := t.sync
  let fr := y.frame
  if a = 0 then fr.tpc
  else if a = 1 then BitVec.ofNat 64 y.tcause
  else if a = 2 then BitVec.ofNat 64 fr.rq.length
  else if a = 3 then BitVec.ofNat 64 t.tstate
  else if a = 4 then BitVec.ofNat 64 (fr.tfmt.toNat + fr.tdepth * 2 ^ 32)
  else if a = 5 then
    BitVec.ofNat 64 (t.id.index + t.id.img * 2 ^ 20 + t.id.stage * 2 ^ 32 + t.id.core * 2 ^ 40 + t.id.slot % 16 * 2 ^ 52)
  else if 8 ≤ a ∧ a < 16 then fr.info.getD (a - 8) 0
  else if 0x40 ≤ a ∧ a < 0x50 then mask64 fr.dent (a - 0x40)
  else if 0x50 ≤ a ∧ a < 0x60 then mask64 t.flow.pres (a - 0x50)
  else if 0x60 ≤ a ∧ a < 0x70 then mask64 t.flow.away (a - 0x60)
  else if 0x70 ≤ a ∧ a < 0x80 then mask64 t.flow.exited (a - 0x70)
  else if 0x80 ≤ a ∧ a < 0xF0 then mask64 (t.regs.getK ((a - 0x80) / 16 + 1)) (a % 16)
  else if 0x100 ≤ a ∧ a < 0x140 then t.regs.getS (a - 0x100)
  else if 0x200 ≤ a ∧ a < 0x1400 then
    match t.flow.stack.reverse[(a - 0x200) / 18]? with
    | some e => stackWord e ((a - 0x200) % 18)
    | none => 0
  else if 0x10000 ≤ a ∧ a < 0x10000 + 24 * 0x2000 then
    match fr.rq[(a - 0x10000) / 0x2000]? with
    | some e => e.word64 ((a - 0x10000) % 0x2000)
    | none => 0
  else if 0x80000 ≤ a ∧ a < 0x90000 then
    let r := (a - 0x80000) / 0x400
    if r < t.regs.allot then t.regs.getV r (a % 0x400) else 0
  else 0

/-- R423: write a word of a replay entry. -/
def Entry.setWord64 (e : Entry) (o : Nat) (v : Word) : Entry :=
  if o = 2 then { e with drop := bit v.toNat 2 }
  else if 3 ≤ o ∧ o < 19 then { e with gov := setMask64 e.gov (o - 3) (mask64 e.gov (o - 3) &&& v) }
  else if 0x400 ≤ o ∧ o < 0x1400 then
    { e with ops := e.ops.modify (o / 0x400 - 1) fun p =>
        if p.vec || o % 0x400 = 0 then { p with vals := Tbl.put p.vals (o % 0x400) v } else p }
  else e

/-- R423: write a word of a team's state space; words that are not writable ignore it. -/
def spaceWrite (t : Team) (a : Nat) (v : Word) : Team :=
  if a = 0 then { t with sync := { t.sync with frame := { t.sync.frame with tpc := v &&& ~~~3#64 } } }
  else if 0x80 ≤ a ∧ a < 0xF0 then
    let k := (a - 0x80) / 16 + 1
    { t with regs := t.regs.setK k (setMask64 (t.regs.getK k) (a % 16) v) }
  else if 0x100 ≤ a ∧ a < 0x140 then { t with regs := t.regs.setS (a - 0x100) v }
  else if 0x10000 ≤ a ∧ a < 0x10000 + 24 * 0x2000 then
    { t with sync := { t.sync with frame := { t.sync.frame with
        rq := t.sync.frame.rq.modify ((a - 0x10000) / 0x2000) fun e => e.setWord64 ((a - 0x10000) % 0x2000) v } } }
  else if 0x80000 ≤ a ∧ a < 0x90000 then
    let r := (a - 0x80000) / 0x400
    if r < t.regs.allot then { t with regs := t.regs.setV r (a % 0x400) v } else t
  else t

/-- R443: the value of a performance counter as a read may find it: it may miss events of the last 256 ticks. -/
def State.perfRead (s : State) (c i : Nat) : Nat :=
  let p := (s.ctx c).perf
  (Tbl.getD p.val i 0).toNat - Config.lag s.draws % (p.late s.now i + 1)

/-- R494: read a control register. -/
def ctlRead (s : State) (t : Team) (n : Nat) : Word :=
  let h := (s.launch t.id.launch).head
  match n with
  | 0x00 => t.regs.fmt.setWidth 64
  | 0x01 => BitVec.ofNat 64 s.now
  | 0x02 => BitVec.ofNat 64 t.regs.gwct
  | 0x03 => t.regs.srseed.setWidth 64
  | 0x04 => boolW t.regs.hazchk
  | 0x05 => BitVec.ofNat 64 t.sync.tcause
  | 0x06 => t.sync.frame.tpc
  | 0x07 => BitVec.ofNat 64 t.sync.frame.rq.length
  | 0x08 => if t.id.landed then BitVec.allOnes 64 else BitVec.ofNat 64 t.id.ctx
  | 0x09 => BitVec.ofNat 64 t.id.part
  | 0x0A => if t.id.landed then BitVec.allOnes 64 else BitVec.ofNat 64 t.id.stage
  | 0x0B => BitVec.ofNat 64 t.id.prio
  | 0x0C => BitVec.ofNat 64 t.regs.lanes
  | 0x0D => if t.id.landed then 0 else BitVec.ofNat 64 h.args
  | 0x0E => if t.id.landed then 0xFFFFFF else BitVec.ofNat 64 h.lid
  | 0x0F => if t.id.landed then BitVec.ofNat 64 t.id.lver else BitVec.ofNat 64 h.ver
  | n => BitVec.ofNat 64 (s.perfRead t.id.ctx (n - 0x10))

/-- R133: the matrix capability version of stepping A1. -/
def matrixVersion : Nat := 1
/-- R133: the clusters that have an ungated quarter. -/
def State.powered (s : State) : Nat := ((List.range 96).filter fun c => (List.range 4).any fun q => (4 * c + q) ∉ s.power.gated).length
/-- R133, R134: the entries of a context's capability list, identifier and payload quadwords, in ascending order. -/
def capEntries (s : State) (part : Nat) : List (Nat × List Nat) :=
  let P := s.part part
  let feat := P.cfg.feat
  let w9l := decide (s.fitting = .w9l)
  let mem := if w9l then 2 ^ 40 else (8 - s.mil.offline.length) * 2 ^ 36
  let opt (i : Nat) (e : Nat × List Nat) : List (Nat × List Nat) := if feat.getLsbD i then [] else [e]
  [(0x0001, [b2n w9l, 0xA1, Config.serial.toNat, s.powered, mem]),
   (0x0002, [64, 1024, part, popc P.cfg.quart.toNat 384]),
   (0x0003, [matrixVersion])] ++
  opt 0 (0x0010, [8]) ++ opt 1 (0x0011, [4, 256, P.cfg.mdist]) ++ opt 2 (0x0012, [64, 8]) ++ opt 3 (0x0013, [4096]) ++
  opt 4 (0x0014, [64, 16]) ++ (if w9l then [(0x0015, [1099243192320, 8, 268435456])] else []) ++
  opt 5 (0x0016, [8, 4]) ++ opt 6 (0x0017, [64])

/-- R132: the list as quadwords: each entry's header, then its payload; `off` is the next entry's offset. -/
def capQuads : List (Nat × List Nat) → Nat → List (Nat × List Nat)
  | [], _ => []
  | (id, p) :: r, off =>
    let len := p.length + 1
    let next := if r = [] then 0 else off + 8 * len
    (id, (next * 2 ^ 32 + len * 2 ^ 24 + 2 ^ 16 + id) :: p) :: capQuads r (off + 8 * len)

/-- R132 to R134: a context's capability list. -/
def capList (s : State) (part : Nat) : List (Nat × List Nat) := capQuads (capEntries s part) 0

end Sys2Proof.Machine
end

