-- ==== Sys2Proof/Machine/System.lean ====
section
/-! DEFINITION. Ending, trapping, returning and control state (R638 to R653), hint words and the simple telemetry and
signal forms: majors 0x00, 0x01, 0x3E, 0x3F and parts of 0x27 and 0x28. -/

namespace Sys2Proof.Machine

/-- `nop` (R640). -/
def execNop (z : BitVec 1) (s : State) : Host.Outcome State Fault Refusal :=
  withCur s fun c t => finishShort s c t z [] 1

/-- R339: the guard fault a barrier instruction or `exit` raises for its team. -/
def guardRaise (s : State) (c : Cur) (t : Team) (g : Nat × Nat × Nat) : State :=
  let t' := { t with sync := { t.sync with guard := none } }
  s.raise c t' { cause := 0x39, info := infoS g.1 g.2.1 g.2.2 } t.flow.active

/-- Clear the lanes of a mask in every stack entry (R282). -/
def clearStack (m : Mask) (st : List StackEnt) : List StackEnt := st.map fun e => { e with mask := e.mask &&& ~~~m }

/-- R303: the retire notices of the landed lanes of a mask, to their origin team; they go out once the lanes have retired (R196). -/
def State.retireNotices (s : State) (k : Nat) (t : Team) (m : Mask) : State :=
  if t.id.landed then
    (lanesOf m t.regs.lanes).foldl (fun s l =>
      let a : Arg := { n1 := Tbl.getD t.flow.hop (1024 + l) 0, n2 := k + 1, n3 := t.sync.nextEntry, opt := some t.id.lver }
      { s with net := s.net ++ [(.retireNotice, if t.id.foreign then { a with n0 := 2 ^ 41 + t.id.oteam % 2 ^ 20, n4 := t.id.oteam / 2 ^ 20 + 1 }
                                                else { a with n0 := t.id.part * 2 ^ 20 + t.id.oteam % 2 ^ 20 })] }) s
  else s

/-- `exit` (R641): the active lanes exit; without present lanes the team waits for its away lanes, then retires (R642). -/
def execExit (z : BitVec 1) (s : State) : Host.Outcome State Fault Refusal :=
  withCur s fun c t =>
    match t.sync.guard with
    | some g => guardRaise s c t g
    | none =>
      let x := t.flow.active
      let t' := { t with flow := { t.flow with
        stack := clearStack x t.flow.stack, D := t.flow.D &&& ~~~x
        pres := t.flow.pres &&& ~~~x, exited := t.flow.exited ||| x } }
      let s := (s.retireNotices c.team t x).spillOut t'
      if t'.flow.pres = 0 then
        let park : Park := if t'.flow.away = 0 then .retire else .exitJoin
        let sy := if t.sync.inHandler then { t'.sync with frame := { t'.sync.frame with rq := [] } } else t'.sync
        finishAt s c { t' with sync := { sy with park := park, reinj := [] } } 0 c.next { c.entry with done := true } 1
      else finishShort s c t' z [] 1

/-- `trap` (R432, R643). -/
def execTrap (_ : BitVec 1) (n : BitVec 3) (s : State) : Host.Outcome State Fault Refusal :=
  withCur s fun c t => s.raiseDone c t (0xB8 + n.toNat)

/-- `tret` (R430, R646): the return from the handler. The entries neither done nor dropped are re-injected, and issue
resumes at `tpc` once they have returned. -/
def execTret (z : BitVec 1) (s : State) : Host.Outcome State Fault Refusal :=
  withCur s fun c t =>
    if !t.sync.inHandler then s.raiseX c t 0xB0
    else if t.flow.stack.length ≠ t.sync.frame.tdepth then s.raiseX c t 0xB5
    else
      let fr := t.sync.frame
      let t' := { t with
        regs := { t.regs with fmt := fr.tfmt }
        flow := { t.flow with D := fr.dent }
        sync := { t.sync with inHandler := false, park := .tretWait, reinj := fr.rq.filter fun e => !e.done && !e.drop } }
      finishAt s c t' z fr.tpc { c.entry with done := true } 1

/-- R597: a cause 0xA2 for an instruction that is not performed inside a transaction; a handler suspends the
transaction (R598). -/
def noTm (s : State) (c : Cur) (t : Team) (k : State) : State :=
  if t.sync.tm.active && !t.sync.inHandler then s.raiseX c t 0xA2 else k

/-- `tabort` (R645). -/
def execTabort (_ : BitVec 1) (s : State) : Host.Outcome State Fault Refusal :=
  withCur s fun c t =>
    noTm s c t <|
      let cause := if t.sync.inHandler ∧ ¬ t.id.landed then t.sync.frame.cause else 0x50
      { s with cur := none }.abortTeam c.team t cause

/-- `brk` (R644). -/
def execBrk (_ : BitVec 1) (s : State) : Host.Outcome State Fault Refusal :=
  withCur s fun c t => s.raiseX c t 0xB4

/-- `getc` (R648). -/
def execGetc (z : BitVec 1) (d n : BitVec 6) (s : State) : Host.Outcome State Fault Refusal :=
  withCur s fun c t => finishShort { s with draws := s.draws + 1 } c t z [.s d.toNat (ctlRead s t n.toNat)] 1

/-- `getc.f` (R649). -/
def execGetcF (z : BitVec 1) (d a : BitVec 6) (s : State) : Host.Outcome State Fault Refusal :=
  withCur s fun c t =>
    if t.sync.inHandler then finishShort s c t z [.s d.toNat (spaceRead t ((rdS t c a.toNat).toNat % 2 ^ 20))] 1
    else s.raiseX c t 0xB0

/-- R463: write FMT, or raise the cause of an invalid value. -/
def writeFmt (s : State) (c : Cur) (t : Team) (z : BitVec 1) (v : Word32) : State :=
  match fmtCause v.toNat with
  | some x => s.raiseX c t x
  | none => finishShort s c ({ t with regs := { t.regs with fmt := v } }) z [] 1

/-- `setc` (R648). -/
def execSetc (z : BitVec 1) (n b : BitVec 6) (s : State) : Host.Outcome State Fault Refusal :=
  withCur s fun c t =>
    let v := rdS t c b.toNat
    match n.toNat with
    | 0x00 => writeFmt s c t z (v.setWidth 32)
    | 0x03 => finishShort s c { t with regs := { t.regs with srseed := seedOf v } } z [] 1
    | 0x04 => finishShort s c { t with regs := { t.regs with hazchk := v.getLsbD 0 } } z [] 1
    | 0x06 => finishShort s c (if t.sync.inHandler then spaceWrite t 0 v else t) z [] 1
    | n =>
      if n ≥ 0x10 then
        finishShort (s.modCtx t.id.ctx fun x => { x with perf := x.perf.setVal (n - 0x10) (v.setWidth 48) }) c t z [] 1
      else finishShort s c t z [] 1

/-- `setc.f` (R649). -/
def execSetcF (z : BitVec 1) (a b : BitVec 6) (s : State) : Host.Outcome State Fault Refusal :=
  withCur s fun c t =>
    if t.sync.inHandler then finishShort s c (spaceWrite t ((rdS t c a.toNat).toNat % 2 ^ 20) (rdS t c b.toNat)) z [] 1
    else s.raiseX c t 0xB0

/-- `setfmt` (R650). -/
def execSetfmt (z : BitVec 1) (b : BitVec 6) (s : State) : Host.Outcome State Fault Refusal :=
  withCur s fun c t => writeFmt s c t z ((rdS t c b.toNat).setWidth 32)
/-- `setfmt.m` (R650). -/
def execSetfmtM (z : BitVec 1) (a b : BitVec 6) (s : State) : Host.Outcome State Fault Refusal :=
  withCur s fun c t =>
    let m : Word32 := (rdS t c b.toNat).setWidth 32
    writeFmt s c t z ((t.regs.fmt &&& ~~~m) ||| ((rdS t c a.toNat).setWidth 32 &&& m))
/-- `setfmt.i` (R650): the IMM word is required. -/
def execSetfmtI (z : BitVec 1) (s : State) : Host.Outcome State Fault Refusal :=
  withCur s fun c t =>
    match c.immw with
    | some i => writeFmt s c t z (BitVec.ofNat 32 i)
    | none => s.raiseX c t 0x02

/-- R276: the widths of the work-identifier fields of a team's launch. -/
def State.widths (s : State) (t : Team) : List Nat :=
  if t.id.foreign then (List.range 6).map (Config.fieldWidth t.id.lver) else (s.launch t.id.launch).head.wwid
/-- R276: field f of a work identifier. -/
def widField (ws : List Nat) (w : Word) (f : Nat) : Word :=
  BitVec.ofNat 64 (w.toNat / 2 ^ (ws.take f).sum % 2 ^ ws.getD f 0)

/-- `widf` (R651). -/
def execWidf (z : BitVec 1) (d : BitVec 6) (f : BitVec 3) (s : State) : Host.Outcome State Fault Refusal :=
  withCur s fun c t => laneShort s c t z d.toNat fun l => widField (s.widths t) (Tbl.getD t.flow.wid l 0) f.toNat
/-- `widf.all` (R651). -/
def execWidfAll (z : BitVec 1) (d : BitVec 6) (s : State) : Host.Outcome State Fault Refusal :=
  withCur s fun c t => laneShort s c t z d.toNat fun l => Tbl.getD t.flow.wid l 0

/-- `capq` (R133, R652): the list in force at the launch's admission, with the clusters powered at the time of the read; in a team landed from
another die, the running partition's. -/
def execCapq (z : BitVec 1) (d a : BitVec 6) (s : State) : Host.Outcome State Fault Refusal :=
  withCur s fun c t =>
    let v := (rdS t c a.toNat).toNat
    let caps := if t.id.foreign then capList s t.id.part else (s.launch t.id.launch).head.caps
    let q := match caps.find? fun e => e.1 = bits v 15 0 with
      | some e => if e.1 = 1 ∧ bits v 23 16 = 4 then s.powered else e.2.getD (bits v 23 16) 0
      | none => 0
    finishLong s c t z [.s d.toNat (BitVec.ofNat 64 q)] 1

/-- `now` (R653). -/
def execNow (z : BitVec 1) (d : BitVec 6) (s : State) : Host.Outcome State Fault Refusal :=
  withCur s fun c t => finishShort s c t z [.s d.toNat (BitVec.ofNat 64 s.now)] 1

/-! ## Hint words (R489 to R491, R675) -/

/-- R491: a hint word waits for the instruction word of its group; it takes one issue tick. -/
def finishHint (s : State) (c : Cur) (t : Team) : State :=
  let t' := { t with
    flow := { t.flow with pc := c.next, gpc := (if t.flow.hints = [] then c.entry.pc else t.flow.gpc), hints := t.flow.hints ++ [c.entry.word] }
    sched := { t.sched with lastIssue := s.now, readySince := s.now, waited := 0, aged := false } }
  { s.setTeam c.team t' with cur := none, issued := Tbl.put s.issued t.id.core 1 }.countIssue t.id.ctx c.entry.word 1

/-- `IMM` (R489). -/
def execImmWord (_ : BitVec 25) (s : State) : Host.Outcome State Fault Refusal := withCur s fun c t => finishHint s c t
/-- `MOD` (R490). -/
def execModWord (_ : BitVec 3) (_ _ : BitVec 1) (_ : BitVec 3) (_ : BitVec 1) (_ : BitVec 6) (s : State) : Host.Outcome State Fault Refusal :=
  withCur s fun c t => finishHint s c t
/-- `MODX` (R490, R543). -/
def execModxWord (_ : BitVec 3) (_ _ : BitVec 1) (_ _ : BitVec 2) (_ : BitVec 14) (s : State) : Host.Outcome State Fault Refusal :=
  withCur s fun c t => finishHint s c t

/-- `hint.stream` (R675, R496). -/
def execHintStream (n : BitVec 8) (s : State) : Host.Outcome State Fault Refusal :=
  withCur s fun c t => finishShort s c { t with sched := { t.sched with stream := n.toNat } } 0 [] 1
/-- `hint.yield` (R675): the aging count restarts at every issue; the team yields for 16 enabled ticks. -/
def execHintYield (s : State) : Host.Outcome State Fault Refusal :=
  withCur s fun c t => finishShort s c { t with sched := { t.sched with yield := 16 } } 0 [] 1

/-! ## Messages and telemetry (R434, R671 to R674) -/

/-- `msig` (R434, R671). -/
def execMsig (z : BitVec 1) (a : BitVec 6) (s : State) : Host.Outcome State Fault Refusal :=
  withCur s fun c t => (finishShort s c t z [] 1).postEvent t.id.ctx 1 0 ((rdS t c a.toNat).setWidth 32)

/-- The ring of a partition has no room (R449). -/
def Part.ringFull (P : Part) : Bool := P.cfg.trsize ≠ 0 && !P.traceRoom

/-- `pcmark` (R673, R449). -/
def execPcmark (z : BitVec 1) (a : BitVec 6) (s : State) : Host.Outcome State Fault Refusal :=
  withCur s fun c t =>
    let P := s.part t.id.part
    if P.cfg.trsize ≠ 0 ∧ s.traces t.id.ctx 2 then
      if P.ringFull && P.cfg.trstall then waitHere s c t .pcmark
      else
        let data := BitVec.ofNat 128 ((rdS t c a.toNat).toNat + c.entry.pc.toNat % 2 ^ 32 * 2 ^ 64 + t.id.index * 2 ^ 96)
        (finishShort s c t z [] 1).postTrace t.id.part t.id.ctx 5 data false
    else finishShort s c t z [] 1

/-- R447: a PC-sample record. -/
def State.pcSample (s : State) (t : Team) (pc : Word) (st : Nat) : State :=
  s.postTrace t.id.part t.id.ctx 0
    (BitVec.ofNat 128 (pc.toNat % 2 ^ 32 + t.id.index * 2 ^ 32 + st * 2 ^ 56 + t.id.img * 2 ^ 64)) false

/-- `pcsample` (R673). -/
def execPcsample (z : BitVec 1) (s : State) : Host.Outcome State Fault Refusal :=
  withCur s fun c t =>
    let s' := finishShort s c t z [] 1
    if (s.part t.id.part).cfg.trsize ≠ 0 then s'.pcSample t c.entry.pc 0 else s'

/-- `pcread` (R674): exact at its issue tick. -/
def execPcread (z : BitVec 1) (d a : BitVec 6) (s : State) : Host.Outcome State Fault Refusal :=
  withCur s fun c t =>
    let i := (rdS t c a.toNat).toNat
    if i ≥ 16 then s.raiseX c t 0x09
    else finishLong s c t z [.s d.toNat ((Tbl.getD (s.ctx t.id.ctx).perf.val i 0).setWidth 64)] 1

end Sys2Proof.Machine
end

