-- ==== Sys2Proof/Machine/Sync.lean ====
section
/-! DEFINITION. Fences (R589), barrier objects (R590 to R593) and condition monitors (R594, R595): majors 0x1A to 0x1C. -/

namespace Sys2Proof.Machine

/-! ## Fences -/

/-- R327: every earlier load of the team has returned. -/
def TeamSync.loadsDone (y : TeamSync) : Bool := y.rq.all fun e => e.accs.all fun a => match a.kind with | .store => true | .pf => true | .fence => true | _ => false

/-- R327, R328: what a release at a scope up to device, by an instruction that stalls for it, still needs: none when it is
complete. It begins by writing back the mappings once every earlier store is done. -/
def releaseStall (s : State) (c : Cur) (t : Team) (scope : Nat) (go : State → Team → State) : State :=
  if !t.sched.relActive then
    if !t.sync.earlierDone t.sync.nextEntry then waitHere s c t .rel
    else if scope ≠ 2 then go s t
    else withRoom s c t (s.joined c.team t) fun s =>
      let s := s.writeBackAll c.team t t.sync.nextEntry true
      if !s.teamGoes c.team then { s with cur := none } else
      let t := s.team c.team
      let t := { t with sched := { t.sched with relActive := true } }
      if t.sync.compls = [] && decide (t.regs.gwct < s.now) then go s { t with sched := { t.sched with relActive := false } } else waitHere s c t .rel
  else if t.sync.compls = [] && decide (t.regs.gwct < s.now) then go s { t with sched := { t.sched with relActive := false } }
  else waitHere s c t .rel

/-- R589: the release of a fence, then `go`. At pool scope and wider it opens an epoch and its write-backs follow, without a
stall. -/
def fenceRel (s : State) (c : Cur) (t : Team) (z : BitVec 1) (scope : Nat) : State :=
  if scope ≤ 2 then releaseStall s c t scope fun s t => finishShort s c t z [] 1
  else
    let (s, t) := s.openEpoch t
    let a : Acc := { kind := .fence, va := 0, esz := 1, pol := BitVec.ofNat 32 (2 * 2 ^ 19 + scope * 2 ^ 16), wait := .ready }
    finishAt s c t z c.next { c.entry with accs := [a] } 1

/-- R62, R589: what an acquire fence at pool scope or wider discards. -/
def State.fenceAcq (s : State) (t : Team) (scope : Nat) : State := if 3 ≤ scope then s.bulkDiscard t.id.part else s

/-- R589: the common part of the fences. -/
def fence (s : State) (c : Cur) (t : Team) (x : BitVec 3) (go : Nat → State) : State :=
  noTm s c t (if x.toNat ≥ 5 then s.raiseQ c t 0x07 0 x.toNat else go x.toNat)

def execFenceRel (z : BitVec 1) (x : BitVec 3) (s : State) : Host.Outcome State Fault Refusal :=
  withCur s fun c t => fence s c t x fun n => fenceRel s c t z n
def execFenceAcq (z : BitVec 1) (x : BitVec 3) (s : State) : Host.Outcome State Fault Refusal :=
  withCur s fun c t => fence s c t x fun n => if t.sync.loadsDone then finishShort (s.fenceAcq t n) c t z [] 1 else waitHere s c t .acq
def execFenceAr (z : BitVec 1) (x : BitVec 3) (s : State) : Host.Outcome State Fault Refusal :=
  withCur s fun c t => fence s c t x fun n => if t.sync.loadsDone then fenceRel (s.fenceAcq t n) c t z n else waitHere s c t .acq

/-! ## Barrier objects -/

/-- R590: the fields of a barrier object. -/
structure Bar where
  cst : Nat
  ust : Nat
  bgwct : Nat
  exp : Nat
  cnt : Nat
  init : Nat
  ph : Bool
  val : Bool
deriving DecidableEq, Repr

def barOf (n : Nat) : Bar :=
  { cst := bits n 319 256, ust := bits n 255 192, bgwct := bits n 191 128, exp := bits n 127 96, cnt := bits n 95 64
    init := bits n 63 32, ph := bit n 1, val := bit n 0 }
def Bar.toNat (b : Bar) : Nat :=
  b.cst % 2 ^ 64 * 2 ^ 256 + b.ust % 2 ^ 64 * 2 ^ 192 + b.bgwct % 2 ^ 64 * 2 ^ 128 + b.exp % 2 ^ 32 * 2 ^ 96 + b.cnt % 2 ^ 32 * 2 ^ 64 +
    b.init % 2 ^ 32 * 2 ^ 32 + b2n b.ph * 2 + b2n b.val
def State.barGet (s : State) (cl a : Nat) : Bar := barOf (leNat (stashBytes (s.cluster cl) a 64))
def State.barPut (s : State) (cl a : Nat) (b : Bar) : State := s.modCluster cl fun c => stashPuts c a (leBytes 64 b.toNat)

/-- R591: a count received: the phase flips as often as it is completed, and the excess counts in the new phase. -/
def Bar.count (b : Bar) (n : Nat) : Bar :=
  let total := b.cnt + n
  if total < b.exp then { b with cnt := total }
  else
    let e := total - b.exp
    let more := if b.init = 0 then 0 else e / b.init
    let cst := if more = 0 then b.ust else 0
    { b with cst := cst, ust := 0, cnt := e - more * b.init, exp := b.init, ph := b.ph ^^ (more % 2 = 0) }

/-- R592: the checks of a barrier instruction: the guard fault, alignment, the team's allocations, and `val`. -/
def barrier (s : State) (c : Cur) (t : Team) (a : BitVec 6) (valid : Bool) (go : Nat → Bar → State) : State :=
  noTm s c t <|
    match t.sync.guard with
    | some g => guardRaise s c t g
    | none =>
      let addr := (rdS t c a.toNat).toNat
      if addr % 64 ≠ 0 then raiseW s c t 0x3A (infoSt t.id.cluster addr 1)
      else match t.stashPlace addr 64 with
        | .at_ _ =>
          let b := s.barGet t.id.cluster addr
          if valid && !b.val then s.raiseQ c t 0xA0 addr 0 else go addr b
        | _ => raiseW s c t 0x38 (infoSt t.id.cluster addr 1)

/-- Teams wait on a barrier object. -/
def State.waitsOn (s : State) (cl a : Nat) : Bool :=
  s.teams.any fun p => p.2.id.cluster = cl && (match p.2.sync.park with | .barrier o _ => o = a | _ => false)

def execBinit (z : BitVec 1) (a b : BitVec 6) (s : State) : Host.Outcome State Fault Refusal :=
  withCur s fun c t => barrier s c t a false fun addr _ =>
    let n := (rdS t c b.toNat).toNat
    if n = 0 ∨ n ≥ 2 ^ 32 ∨ s.waitsOn t.id.cluster addr then s.raiseQ c t 0xA0 addr n
    else
      let s := s.modCluster t.id.cluster fun c => (granules addr 64).foldl (fun c g => setStashPois c g false) c
      finishShort (s.barPut t.id.cluster addr { cst := 0, ust := 0, bgwct := 0, exp := n, cnt := 0, init := n, ph := false, val := true }) c t z [] 1

/-- `barr`: a release at cluster scope (R593). -/
def execBarr (z : BitVec 1) (d a b : BitVec 6) (s : State) : Host.Outcome State Fault Refusal :=
  withCur s fun c t => barrier s c t a true fun addr o =>
    let n := if b = 0 then 1 else (rdS t c b.toNat).toNat
    if o.exp < o.cnt + n then s.raiseQ c t 0xA1 addr n
    else releaseStall s c t 1 fun s t =>
      (finishLong s c t z [.s d.toNat (boolW o.ph)] 1).barPut t.id.cluster addr (o.count n)

def execBexp (z : BitVec 1) (a b : BitVec 6) (s : State) : Host.Outcome State Fault Refusal :=
  withCur s fun c t => barrier s c t a true fun addr o =>
    let n := (rdS t c b.toNat).toNat
    if o.exp + n ≥ 2 ^ 32 then s.raiseQ c t 0xA1 addr n
    else finishShort (s.barPut t.id.cluster addr { o with exp := o.exp + n }) c t z [] 1

/-- R343: fold a barrier's completion time into the team's. -/
def Team.foldWct (t : Team) (g : Nat) : Team := { t with regs := { t.regs with gwct := max t.regs.gwct g } }
/-- Whether the instruction word of a wait names `.dev`. -/
def Cur.dev (c : Cur) : Bool := bit c.entry.word.toNat 0

/-- `bwait` (R592, R593): it parks with its PC at the instruction, and completes when its phase has. -/
def execBwait (z : BitVec 1) (a b : BitVec 6) (v : BitVec 1) (s : State) : Host.Outcome State Fault Refusal :=
  withCur s fun c t => barrier s c t a true fun addr o =>
    let tok := (rdS t c b.toNat).toNat % 2
    if b2n o.ph = tok then (waitHere s c t (.barrier addr tok)).count t.id.ctx 46 1
    else if v = 0 then finishShort s c t z [] 1
    else if s.now > o.bgwct then finishShort s c (t.foldWct o.bgwct) z [] 1
    else waitHere s c t (.bdev o.bgwct)

def execBtry (z : BitVec 1) (d a b : BitVec 6) (v : BitVec 1) (s : State) : Host.Outcome State Fault Refusal :=
  withCur s fun c t => barrier s c t a true fun _ o =>
    let ok := b2n o.ph ≠ (rdS t c b.toNat).toNat % 2 && (v = 0 || decide (s.now > o.bgwct))
    finishLong s c (if ok && v = 1 then t.foldWct o.bgwct else t) z [.s d.toNat (boolW ok)] 1

/-! ## Monitors -/

/-- R594, R595: arm the team's monitor. -/
def armMon (s : State) (c : Cur) (t : Team) (z : BitVec 1) (d b p : BitVec 6) (cmp : BitVec 3) (wait : Bool) : State :=
  noTm s c t <| memPol s c t { acq := true, rel := false } p fun pol =>
    let a : Acc := { kind := .arm, va := sAddr t c b, esz := 8, ty := cmp.toNat, pol := pol, x := rdS t c d.toNat, d := d.toNat }
    let park := if wait && !c.inj then Park.waitc else t.sync.park
    let t := { t with sync := { t.sync with mon := none, park := park } }
    let s := finishMem s c t z [a] [] (if wait then [(0, d.toNat)] else []) 1
    if wait then (s.count t.id.ctx 47 1).modEntry c.team t.sync.nextEntry fun e => { e with stage := 2 } else s

def execWaitc (z : BitVec 1) (d b p : BitVec 6) (cmp : BitVec 3) (s : State) : Host.Outcome State Fault Refusal :=
  withCur s fun c t => armMon s c t z d b p cmp true
def execWmon (z : BitVec 1) (d b p : BitVec 6) (cmp : BitVec 3) (s : State) : Host.Outcome State Fault Refusal :=
  withCur s fun c t => armMon s c t z d b p cmp false

/-- R595: the status of the team's monitor: pending from the arming on. -/
def TeamSync.monStatus (y : TeamSync) : Nat :=
  match y.mon with
  | some m => m.status
  | none => b2n (y.rq.any fun e => e.accs.any fun a => match a.kind with | .arm => true | _ => false)
def execWtest (z : BitVec 1) (d : BitVec 6) (s : State) : Host.Outcome State Fault Refusal :=
  withCur s fun c t => noTm s c t (finishLong s c t z [.s d.toNat (BitVec.ofNat 64 t.sync.monStatus)] 1)

end Sys2Proof.Machine
end

