-- ==== Sys2Proof/Machine/Cards.lean ====
section
/-! DEFINITION. Job cards: their fields, formats, ranges and limits (R353, R366, R369, R461, R605 to R617). -/

namespace Sys2Proof.Machine

/-! ## Fields -/

/-- A field of a card. -/
def cb (b : BitVec 512) (hi lo : Nat) : Nat := bits b.toNat hi lo
def cbit (b : BitVec 512) (i : Nat) : Bool := bit b.toNat i
/-- R605: the barrier offset, if one is named, and the predecessor. -/
def cardBar (b : BitVec 512) : Option Nat := if cbit b 31 then some (cb b 46 32 * 64) else none
def cardPred (b : BitVec 512) : Option Nat := if cbit b 47 then some (cb b 63 48) else none

/-- R608: one side of a copy card: base, stride and modulo by dimension 1 to 4. -/
def copyC (b : BitVec 512) (k : Nat) : Nat := if k = 0 then cb b 145 134 + 1 else cb b (161 + 16 * (k - 1)) (146 + 16 * (k - 1)) + 1
def copyO (b : BitVec 512) (k : Nat) : Nat := if k = 0 then 0 else cb b (221 + 12 * (k - 1)) (210 + 12 * (k - 1))
def copyS (b : BitVec 512) (glob : Bool) (k : Nat) : Int :=
  if k = 0 then 16
  else if glob then 16 * sext 24 (cb b (281 + 24 * (k - 1)) (258 + 24 * (k - 1)))
  else 16 * sext 15 (cb b (368 + 15 * (k - 1)) (354 + 15 * (k - 1)))
def copyM (b : BitVec 512) (glob : Bool) (k : Nat) : Nat :=
  if k = 0 then 0
  else if glob then cb b (425 + 12 * (k - 1)) (414 + 12 * (k - 1))
  else cb b (473 + 12 * (k - 1)) (462 + 12 * (k - 1))
def copyBase (b : BitVec 512) (glob : Bool) : Nat := if glob then cb b 116 64 * 16 else cb b 133 117 * 16
def copyOut (b : BitVec 512) : Bool := cbit b 8
def copyMc (b : BitVec 512) : Bool := cbit b 9
/-- R366: granules of a copy card. -/
def copyN (b : BitVec 512) : Nat := (List.range 5).foldl (fun n k => n * copyC b k) 1
/-- R366: the address of granule number n on a side. -/
def copyAddr (b : BitVec 512) (glob : Bool) (n : Nat) : Int :=
  ((List.range 5).foldl (fun (x : Int × Nat) k =>
    let p := copyO b k + x.2 % copyC b k
    let q := if copyM b glob k = 0 then p else p % copyM b glob k
    (x.1 + q * copyS b glob k, x.2 / copyC b k)) ((copyBase b glob : Int), n)).1
/-- R609: the least and the greatest p of a dimension. -/
def copyEnds (b : BitVec 512) (glob : Bool) (k : Nat) : Nat × Nat :=
  let o := copyO b k
  let c := copyC b k
  let m := copyM b glob k
  if m = 0 ∨ o + c ≤ m then (o, o + c - 1) else (0, m - 1)
/-- R609: the span of every address on a side: first byte and the byte after the last. -/
def copySpan (b : BitVec 512) (glob : Bool) : Int × Int :=
  let r := (List.range 5).foldl (fun (x : Int × Int) k =>
    let e := copyEnds b glob k
    let u := e.1 * copyS b glob k
    let w := e.2 * copyS b glob k
    (x.1 + min u w, x.2 + max u w)) ((copyBase b glob : Int), (copyBase b glob : Int))
  (r.1, r.2 + 16)
/-- R609: offsets below their modulos. -/
def copyOffsOk (b : BitVec 512) : Bool :=
  (List.range 5).all fun k => [true, false].all fun g => copyM b g k = 0 || copyO b k = 0 || decide (copyO b k < copyM b g k)

/-- R610: tile, rows and columns. -/
def tileNo (b : BitVec 512) : Nat := cb b 10 8
def tileM (b : BitVec 512) : Nat := cb b 19 11 + 1
def tileN (b : BitVec 512) : Nat := cb b 27 20 + 1
/-- R461: the width of an element and the group size of a code. -/
def codeW (f : Nat) : Nat := match f with | 0 => 32 | 1 => 16 | 2 => 16 | 5 => 4 | _ => 8
def codeG (f scm : Nat) : Nat := if scm = 1 && f ≠ 0 then 32 else match f with | 0 => 1 | 1 => 4 | 2 => 4 | _ => 8
/-- R611, R612: code, K, pitch and base of the matrix operand. -/
def matFmt (b : BitVec 512) : Nat := cb b 112 109
def matK (b : BitVec 512) : Nat := cb b 108 101 + 1
def matSrc (b : BitVec 512) : Nat := cb b 84 64
/-- A row pitch in bytes, packed when the field is zero. -/
def pitchOf (field packed : Nat) : Nat := 16 * (if field = 0 then packed else field)
def matwPacked (b : BitVec 512) : Nat := cdiv (tileN b * codeW (matFmt b)) 128
def matwPitch (b : BitVec 512) : Nat := pitchOf (cb b 100 85) (matwPacked b)
def mataPacked (b : BitVec 512) : Nat := cdiv (matK b * codeW (matFmt b)) 128
def mataPitch (b : BitVec 512) : Nat := pitchOf (cb b 100 85) (mataPacked b)
def mataM (b : BitVec 512) : Nat := cb b 130 122 + 1
def mataRow0 (b : BitVec 512) : Nat := cb b 121 113
def mataFlip (b : BitVec 512) : Bool := cbit b 28
def mataAcc0 (b : BitVec 512) : Bool := cbit b 29
def mataBmv (b : BitVec 512) : Bool := cbit b 30
/-- R613: drained rows, first row, format and its width. -/
def drainRows (b : BitVec 512) : Nat := cb b 126 118 + 1
def drainRow0 (b : BitVec 512) : Nat := cb b 117 109
def drainFmt (b : BitVec 512) : Nat := cb b 92 91
def drainW (b : BitVec 512) : Nat := match drainFmt b with | 1 => 16 | 2 => 16 | _ => 32
def drainReg (b : BitVec 512) : Bool := cbit b 30
def drainRel (b : BitVec 512) : Bool := cbit b 29
def drainClr (b : BitVec 512) : Bool := cbit b 28
def drainPacked (b : BitVec 512) : Nat := cdiv (tileN b * drainW b) 128
def drainPitch (b : BitVec 512) : Nat := pitchOf (cb b 108 93) (drainPacked b)
/-- R614: registers that a register drain writes. -/
def drainRegs (b : BitVec 512) (lanes : Nat) : Nat := cdiv (drainRows b * tileN b) (lanes * (64 / drainW b))

/-! ## Accumulator images (R377, R378) -/

/-- R377: the header of a tile's accumulator image, by its number. -/
def Tile.header (t : Tile) (no : Nat) : BitVec 512 :=
  let p := if t.act = 0 then t.p0 else t.p1
  BitVec.ofNat 512 (1 + matrixVersion * 2 ^ 8 + no * 2 ^ 24 + t.m * 2 ^ 32 + t.n * 2 ^ 48 + p.k * 2 ^ 64 + t.act * 2 ^ 80 + p.fmt.getD 0 * 2 ^ 88 +
    t.accf * 2 ^ 96)
/-- R377: the matrix capability version in a header. -/
def imageMcv (h : BitVec 512) : Nat := h.toNat / 2 ^ 8 % 2 ^ 16
/-- R377: a plane of an image: K rows of N elements in the B format. -/
def Plane.bytes (p : Plane) (n : Nat) : List Byte :=
  let w := codeW (p.fmt.getD 0)
  leBytes (cdiv (p.k * n * w) 8) ((List.range (p.k * n)).foldr (fun i x => (Tbl.getD p.w i 0).toNat % 2 ^ w + 2 ^ w * x) 0)
/-- R377: an accumulator image: header, active plane, shadow plane, and the accumulator rows of 32-bit words. -/
def Tile.image (t : Tile) : List Byte :=
  let (a, b) := if t.act = 0 then (t.p0, t.p1) else (t.p1, t.p0)
  leBytes 64 t.hdr.toNat ++ a.bytes t.n ++ b.bytes t.n ++
    (List.range t.m).flatMap fun r => (List.range t.n).flatMap fun c => leBytes 4 (Tbl.getD t.acc (r * 256 + c) 0).toNat

/-! ## Formats (R606 step 1) -/

/-- R461: the captured accumulator format is allowed for a code, and the scale mode too. -/
def codeOk (fmt : Word32) (f : Nat) : Bool :=
  decide (f ≤ 5) && (if f ≤ 3 then decide (fmtAccf fmt ≤ 2) else fmtAccf fmt = 3) && !(fmtScm fmt = 1 && f = 0)

/-- R606 step 1, and R608 to R617: the must-be-zero and enumerated fields of a card. -/
def cardFormatOk (kind : Nat) (fmt : Word32) (b : BitVec 512) : Bool :=
  cb b 2 0 = kind && cb b 7 3 = 0 &&
    (match kind with
     | 0 => cb b 30 10 = 0 && cb b 511 510 = 0 && !(copyOut b && copyMc b)
     | 1 => cb b 30 28 = 0 && cb b 511 149 = 0 && cb b 127 113 = 0 && codeOk fmt (matFmt b)
     | 2 => cb b 511 173 = 0 && codeOk fmt (matFmt b)
     | 3 => cb b 511 170 = 0 && !cbit b 127 && (if drainReg b then cb b 108 93 = 0 && matSrc b = 0 else cb b 90 85 = 0)
     | 4 | 5 => cb b 30 8 = 0 && cb b 511 202 = 0 && cb b 127 121 = 0
     | 6 => cb b 30 11 = 0 && cb b 511 120 = 0 && cb b 9 8 ≠ 3 && !(cbit b 10 && cb b 9 8 ≠ 0)
     | _ => cb b 30 8 = 0 && cb b 511 196 = 0)

/-! ## Stash ranges (R353, R606 step 3) -/

/-- R616: bytes of a partial row and of an output row of a merge. -/
def mergeD (b : BitVec 512) : Nat := cb b 98 91 + 1
def mergeQ (b : BitVec 512) : Nat := cb b 90 85 + 1
def mergeFin (b : BitVec 512) : Bool := cbit b 10
def mergeOut (b : BitVec 512) : Nat := if mergeFin b then 4 * mergeD b else 16 + 4 * mergeD b
def mergeDst (b : BitVec 512) : Nat := cb b 119 99
/-- R615, R617. -/
def listAt (b : BitVec 512) : Nat := cb b 148 128
def listN (b : BitVec 512) : Nat := cb b 164 149 + 1
def rowBuf (b : BitVec 512) : Nat := cb b 185 165
def rowPit (b : BitVec 512) : Nat := cb b 201 186
def scanDst (b : BitVec 512) : Nat := cb b 179 159
def scanCap (b : BitVec 512) : Nat := cb b 195 180 + 1
def scanQ (b : BitVec 512) : Nat := cb b 154 149 + 1
def scanN (b : BitVec 512) : Nat := cb b 158 155 + 1
def scanHnd (b : BitVec 512) : Word := BitVec.ofNat 64 (cb b 127 64)
/-- R617: the offset of the member rows. -/
def scanR0 (b : BitVec 512) : Nat := scanDst b + 16 + 16 * cdiv (scanCap b) 4

/-- The stash ranges a card reads and writes in its own team's stash; `rowb` is the row size of the key-scan entry. -/
def cardRanges (kind : Nat) (fmt : Word32) (b : BitVec 512) (allot rowb : Nat) : List (Nat × Nat) × List (Nat × Nat) :=
  let scm := fmtScm fmt
  match kind with
  | 0 =>
    let p := copySpan b false
    let r := (p.1.toNat + (if copyMc b then allot else 0), (p.2 - p.1).toNat)
    if copyOut b then ([r], []) else ([], [r])
  | 1 => ((matSrc b, (matK b - 1) * matwPitch b + 16 * matwPacked b) ::
      (if scm = 1 then [(listAt b, matK b / 32 * (16 * cdiv (tileN b) 16))] else []), [])
  | 2 => ((matSrc b, (mataM b - 1) * mataPitch b + 16 * mataPacked b) ::
      ((if scm = 1 then [(cb b 172 152, mataM b * (16 * cdiv (matK b) 512))] else []) ++
       (if mataBmv b then [(cb b 151 131, cdiv (mataM b / 8 * (matK b / 8)) 8)] else [])), [])
  | 3 =>
    let sc := if scm = 2 then [(cb b 148 128, 4 * drainRows b), (cb b 169 149, 4 * tileN b)]
      else if scm = 3 then [(cb b 148 128, 4), (cb b 169 149, 4)] else []
    (sc, if drainReg b then [] else [(matSrc b, (drainRows b - 1) * drainPitch b + cdiv (tileN b * drainW b) 8)])
  | 4 => ([(listAt b, 4 * listN b)], [(rowBuf b, listN b * rowPit b * 16)])
  | 5 => ([(listAt b, 4 * listN b), (rowBuf b, listN b * rowPit b * 16)], [])
  | 6 => ([], [(mergeDst b, mergeQ b * mergeOut b)])
  | _ => ([(listAt b, scanQ b * rowb)], [(scanDst b, scanR0 b - scanDst b + 2 * scanCap b * rowb)])

/-- R611 to R617: the limits of a kind, beyond the ranges. -/
def cardLimitsOk (kind : Nat) (fmt : Word32) (b : BitVec 512) (lanes allotRegs : Nat) : Bool :=
  let scm := fmtScm fmt
  let split := decide (tileM b > 256)
  match kind with
  | 0 => copyOffsOk b && decide (0 ≤ (copySpan b false).1) && decide (0 ≤ (copySpan b true).1)
  | 1 => matSrc b % 16 = 0 && decide (matK b ≤ 128 ∨ matFmt b = 5) && decide (cb b 100 85 = 0 ∨ matwPacked b ≤ cb b 100 85) &&
      (scm ≠ 1 || matK b % 32 = 0)
  | 2 => matSrc b % 16 = 0 && decide (cb b 100 85 = 0 ∨ mataPacked b ≤ cb b 100 85) && (!mataBmv b || (mataM b % 8 = 0 && matK b % 8 = 0)) &&
      (scm ≠ 1 || matK b % 32 = 0) && decide (mataRow0 b + mataM b ≤ (if split then 512 else 256))
  | 3 => decide (drainRow0 b + drainRows b ≤ (if split then 512 else 256)) &&
      (if scm = 2 ∨ scm = 3 then cb b 148 128 % 4 = 0 && cb b 169 149 % 4 = 0 else true) &&
      (if drainReg b then decide (cb b 90 85 + drainRegs b lanes ≤ allotRegs)
       else matSrc b % 16 = 0 && decide (cb b 108 93 = 0 ∨ drainPacked b ≤ cb b 108 93))
  | 4 | 5 => rowPit b ≠ 0 && cb b 120 64 % 32 = 0 && rowBuf b % 16 = 0 && listAt b % 16 = 0
  | 6 => mergeDst b % 16 = 0 && cb b 84 64 % 16 = 0
  | _ => scanDst b % 16 = 0 && listAt b % 16 = 0

/-! ## Quadrants (R369) -/

/-- R369: the groups of quadrants that can form a shape. -/
def quadSets (m n : Nat) : List (List Nat) :=
  if m ≤ 256 then (if n ≤ 128 then [[0], [1], [2], [3]] else [[0, 1], [2, 3]])
  else if n ≤ 128 then [[0, 2], [1, 3]] else [[0, 1, 2, 3]]
/-- Whether a partition owns the quarters of quadrants on a cluster. -/
def Part.ownsQuads (P : Part) (cl : Nat) (qs : List Nat) : Bool := qs.all fun q => P.cfg.quart.getLsbD (4 * cl + q)
/-- R369: the quadrants a tile is bound to now: the first set that is free. -/
def State.freeQuads (s : State) (p cl m n : Nat) : Option (List Nat) :=
  let used := (s.cluster cl).tiles.flatMap fun x => x.2.quads
  (quadSets m n).find? fun qs => (s.part p).ownsQuads cl qs && qs.all fun q => decide (q ∉ used)

/-! ## Order (R358, R360) -/

/-- R358: ranges compared at 64-byte granularity. -/
def lapse (a b : Nat × Nat) : Bool := decide (a.1 / 64 * 64 < (b.1 + b.2 + 63) / 64 * 64 ∧ b.1 / 64 * 64 < (a.1 + a.2 + 63) / 64 * 64) && a.2 ≠ 0 && b.2 ≠ 0
/-- Accumulator rows of a card, and whether it writes them. -/
def Card.rows (k : Card) : Option (Nat × Nat × Bool) :=
  match k.kind with
  | 2 => some (mataRow0 k.bits, mataM k.bits, true)
  | 3 => some (drainRow0 k.bits, drainRows k.bits, drainClr k.bits)
  | _ => none
/-- R358: a later card of a tile conflicts with an earlier one: planes, accumulator rows, and a release with everything. -/
def tileClash (a b : Card) : Bool :=
  a.tile = b.tile && a.launch = b.launch &&
    ((a.kind = 3 && drainRel a.bits) || (b.kind = 3 && drainRel b.bits) ||
     (a.kind ≠ 3 && b.kind ≠ 3 && a.plane = b.plane && (a.kind = 1 || b.kind = 1)) ||
     (match a.rows, b.rows with
      | some x, some y => (x.2.2 || y.2.2) && decide (x.1 < y.1 + y.2.1 ∧ y.1 < x.1 + x.2.1)
      | _, _ => false))
def isMatrix (kind : Nat) : Bool := 1 ≤ kind && kind ≤ 3
/-- R358: card b must wait for the earlier card a. -/
def cardClash (a b : Card) : Bool :=
  (a.wr.any fun x => (b.rd ++ b.wr).any (lapse x)) || (a.rd.any fun x => b.wr.any (lapse x)) ||
    (isMatrix a.kind && isMatrix b.kind && tileClash a b)

/-- R356: a tag counts as completed. -/
def Cluster.tagDone (c : Cluster) (tag : Nat) : Bool := decide (tag ∉ c.open_) || decide (4096 ≤ (c.nextTag + 65536 * 2 - 1 - tag) % 65536)
/-- R360, R356: a tag has been issued, and is not the next one. -/
def Cluster.tagIssued (c : Cluster) (tag : Nat) : Bool := decide (tag < c.nextTag ∨ 65536 ≤ c.nextTag) && tag ≠ c.nextTag % 65536

/-- R295, R355: the share of a partition in entries divided among partitions; none for one that is not among them. -/
def shareOf (total : Nat) (ps : List Nat) (p : Nat) : Nat :=
  if p ∈ ps then total / max 1 ps.length + b2n (decide (ps.findIdx (· = p) < total % max 1 ps.length)) else 0
/-- The partitions that own quarters on a cluster. -/
def State.ownersOf (s : State) (cl : Nat) : List Nat := (s.parts.filter fun p => p.2.ownsCluster cl).map Prod.fst

end Sys2Proof.Machine
end

