-- ==== Sys2Proof/Machine/Place.lean ====
section
/-! DEFINITION. Numbers of teams and launches, and room for a team on a core (R235, R237, R240, R290, R298). -/

namespace Sys2Proof.Machine

/-- R290: the key of a team that a partition's sequencer created: partition and team index. -/
def teamKey (p i : Nat) : Nat := p * 2 ^ 20 + i
/-- The key of a landed team, which has no index. -/
def landedKey (n : Nat) : Nat := 2 ^ 40 + n
/-- R187: the key of a launch: partition and version tag. -/
def launchKey (p v : Nat) : Nat := p * 2 ^ 24 + v

/-- R237: register rows of a team. -/
def rowsOf (lanes allot : Nat) : Nat := allot * lanes / 32
def Team.rows (t : Team) : Nat := rowsOf t.regs.lanes t.regs.allot
def Team.resident (t : Team) : Bool := match t.id.loc with | .resident => true | _ => false
/-- Resident teams of a core. -/
def State.onCore (s : State) (core : Nat) : List (Nat × Team) := s.teams.filter fun p => p.2.resident && p.2.id.core = core
/-- R237: rows in use on a core. -/
def State.rowsUsed (s : State) (core : Nat) : Nat := ((s.onCore core).map fun p => p.2.rows).sum
/-- The lowest free slot of a core. -/
def State.freeSlot (s : State) (core : Nat) : Option Nat :=
  (List.range 16).find? fun n => (s.onCore core).all fun p => p.2.id.slot ≠ 16 * core + n
/-- A core has a slot and rows for a team. -/
def State.coreRoom (s : State) (core rows : Nat) : Bool := (s.freeSlot core).isSome && decide (s.rowsUsed core + rows ≤ 1024)
/-- The cores of a cluster that a partition owns, lowest first. -/
def Part.coresOn (P : Part) (c : Nat) : List Nat := ((List.range 4).filter fun q => P.cfg.quart.getLsbD (4 * c + q)).map fun q => 4 * c + q
/-- Clusters on which a partition owns a quarter. -/
def Part.clusters (P : Part) : List Nat := (List.range 96).filter P.ownsCluster

/-- Number of set lanes. -/
def lanesIn (m : Mask) : Nat := popc m.toNat 1024

/-- The event at the head of those between the units of the die. -/
def State.post (s : State) (i : Instr) (a : Arg) : State := { s with net := s.net ++ [(i, a)] }
/-- Take an event out of those between units, when it is there. -/
def State.unpost (s : State) (i : Instr) (a : Arg) : State :=
  { s with net := match s.net.findIdx? fun x => x.1 = i ∧ x.2 = a with | some n => s.net.eraseIdx n | none => s.net }

end Sys2Proof.Machine
end

