-- ==== Sys2Proof/Machine/Centroid.lean ====
section
/-! DEFINITION. FP32 arithmetic of the engines and centroid sets (R384, R403 to R405). -/

namespace Sys2Proof.Machine

/-! ## FP32 rounded to nearest even -/

def f32add (x y : Nat) : Nat := fpSum fp32 rneRnd x y
def f32neg (x : Nat) : Nat := x ^^^ 2 ^ 31
def f32mul (x y : Nat) : Nat := fp32.ofFp rneRnd (Fp.mul (fp32.decode x) (fp32.decode y))
def f32fma (x y z : Nat) : Nat := fp32.ofFp rneRnd (Fp.fma false (fp32.decode x) (fp32.decode y) (fp32.decode z))
def f32div (x y : Nat) : Nat := fp32.div rneRnd (fp32.decode x) (fp32.decode y)
/-- R384: NaN if either is NaN. -/
def f32max (x y : Nat) : Nat := if (fp32.decode x).isNan || (fp32.decode y).isNan then fp32.nanBits else fpMinMax fp32 true x y

/-! ## Key rows -/

/-- R392: the width in bytes and the format of a key element. -/
def keyEsz (kfmt : Nat) : Nat := if kfmt = 0 then 4 else 2
def keyFmt (kfmt : Nat) : FFmt := match kfmt with | 0 => fp32 | 1 => fp16 | _ => bf16
/-- A key row as FP32 elements, widened exactly. -/
def keyElems (kfmt : Nat) (bs : List Byte) : List Nat :=
  (List.range (bs.length / keyEsz kfmt)).map fun i =>
    fp32.ofFp rneRnd ((keyFmt kfmt).decode (leNat ((bs.drop (i * keyEsz kfmt)).take (keyEsz kfmt))))

/-! ## Centroid sets (R403) -/

def CSet.count (c : CSet) (j : Nat) : Nat := Tbl.getD c.cnt j 0
/-- Sum ÷ count of a centroid of rows of `m` elements. -/
def CSet.mean (c : CSet) (m j : Nat) : List Nat :=
  (List.range m).map fun i => f32div (Tbl.getD c.sums (j * m + i) 0).toNat (fp32.ofFp rneRnd (fpOfInt (c.count j)))
/-- The dot product of two rows, in ascending element order. -/
def dot32 (x y : List Nat) : Nat := (x.zip y).foldl (fun a p => f32add a (f32mul p.1 p.2)) 0
/-- The squared distance of two rows. -/
def dist32 (x y : List Nat) : Nat :=
  (x.zip y).foldl (fun a p => let d := f32add p.1 (f32neg p.2); f32add a (f32mul d d)) 0
/-- The place of the least value of a list, ties to the lower; NaN is never least. -/
def leastAt (l : List (Nat × Nat)) : Option (Nat × Nat) :=
  l.foldl (fun m p =>
    if (fp32.decode p.2).isNan then m
    else match m with
      | some q => if Fp.cmp (fp32.decode p.2) (fp32.decode q.2) < 0 then some p else m
      | none => some p) none
/-- R403: the centroid a key goes to, of `c`: the lowest without a member, otherwise the nearest. With no distance but NaN the
spec names none. -/
def CSet.home (cs : CSet) (c : Nat) (key : List Nat) : Nat :=
  match (List.range c).find? fun j => cs.count j = 0 with
  | some j => j
  | none => match leastAt ((List.range c).map fun j => (j, dist32 key (cs.mean key.length j))) with
    | some p => p.1
    | none => (Config.noWhere 7).toNat % c
/-- R403: a key at a position joins the set. -/
def CSet.add (cs : CSet) (c pos : Nat) (key : List Nat) : CSet :=
  let j := cs.home c key
  { sums := key.zipIdx.foldl (fun t p => Tbl.putD t (j * key.length + p.2) (BitVec.ofNat 64 (f32add (Tbl.getD t (j * key.length + p.2) 0).toNat p.1)) 0) cs.sums
    cnt := Tbl.put cs.cnt j (cs.count j + 1), num := Tbl.put cs.num pos j }
/-- R405: the set rebuilt from the keys below `len`, in ascending position. -/
def CSet.rebuild (c : Nat) (keys : List (List Nat)) : CSet := keys.zipIdx.foldl (fun cs p => cs.add c p.2 p.1) {}

/-- R404: the score of a centroid: the greatest dot product with a query, none for one that ranks last. -/
def CSet.score (cs : CSet) (j : Nat) (qs : List (List Nat)) : Option Nat :=
  if cs.count j = 0 then none
  else match qs with
    | [] => none
    | q :: r =>
      let x := r.foldl (fun m q => f32max m (dot32 q (cs.mean q.length j))) (dot32 q (cs.mean q.length j))
      if (fp32.decode x).isNan then none else some x
/-- Whether a score is better than another. -/
def scoreBeats (a b : Option Nat) : Bool :=
  match a, b with
  | some x, some y => decide (Fp.cmp (fp32.decode x) (fp32.decode y) > 0)
  | some _, none => true
  | none, _ => false
/-- The best of the listed centroids, ties to the lower number. -/
def bestScore : List (Nat × Option Nat) → Option (Nat × Option Nat)
  | [] => none
  | a :: r => match bestScore r with | some b => if scoreBeats b.2 a.2 then some b else some a | none => some a
/-- R404: the n best of the listed centroids. -/
def bestN : Nat → List (Nat × Option Nat) → List Nat
  | 0, _ => []
  | n + 1, l => match bestScore l with | some b => b.1 :: bestN n (l.filter fun x => x.1 ≠ b.1) | none => []

/-! ## Centroids in a view (R403, R405) -/

/-- The centroid set of an entry in a view. -/
def State.csetOf (s : State) (v : View) (idx : Nat) (e : KvEnt) : CSet := (s.kvLook v idx KvView.cset).getD e.cset
/-- R405: the set is stale in a view. -/
def State.csetStale (s : State) (v : View) (idx : Nat) (e : KvEnt) : Bool := (s.kvLook v idx KvView.stale).getD e.cstale
/-- Change a launch's view of an entry. -/
def State.modView (s : State) (lk idx : Nat) (f : KvView → KvView) : State :=
  s.modLaunch lk fun l => { l with kv := Tbl.upd l.kv idx {} f }

end Sys2Proof.Machine
end

