-- ==== Sys2Proof/Machine/Enq.lean ====
section
/-! DEFINITION. `enq`, `chain` and `cstat` (R354 to R365, R603 to R620): majors 0x20 and 0x21. -/

namespace Sys2Proof.Machine

/-- R604: the card held in eight registers. -/
def cardBits (t : Team) (c : Cur) (a : BitVec 6) : BitVec 512 :=
  BitVec.ofNat 512 (slotWords ((List.range 8).map fun i => rdS t c (a.toNat + i)))

/-- R430: information kind E of a card refused at `enq`: it has no tag, and the spec does not number its fields. -/
def infoE (kind : Nat) : List Word := [Config.noWhere 2, Config.noWhere 3, BitVec.ofNat 64 kind]

/-- R383, R368: the teams of a team's gang on its cluster. -/
def State.gangOf (s : State) (t : Team) : List (Nat × Team) :=
  s.teams.filter fun p => p.2.id.launch = t.id.launch && p.2.id.gang = t.id.gang && p.2.id.cluster = t.id.cluster && !p.2.id.landed
/-- A range of an allotment. -/
def Team.holds (t : Team) (off n : Nat) : Bool := decide (off + n ≤ t.sync.stashLen)
/-- A range inside one allocation or joined mapping of a team. -/
def Team.inStash (t : Team) (a n : Nat) : Bool := match t.stashPlace a n with | .at_ _ => true | _ => false

/-- The tile of a card on its cluster. -/
def tileKey (lk : Nat) (b : BitVec 512) : Nat := lk * 8 + tileNo b
def Tile.plane (x : Tile) (p : Nat) : Plane := if p = 0 then x.p0 else x.p1
def Tile.setPlane (x : Tile) (p : Nat) (f : Plane → Plane) : Tile := if p = 0 then { x with p0 := f x.p0 } else { x with p1 := f x.p1 }
/-- R370: the plane a card uses, counting the flips of the cards before it and its own. -/
def planeOf (kind : Nat) (b : BitVec 512) (x : Tile) : Nat :=
  match kind with
  | 1 => 1 - x.act
  | 2 => if mataFlip b then 1 - x.act else x.act
  | _ => x.act

/-- R606 step 1 for matrix cards: the shape of a bound tile and the code of its plane. -/
def tileFormatOk (kind : Nat) (b : BitVec 512) (x : Option Tile) : Bool :=
  match x with
  | none => true
  | some x => x.m = tileM b && x.n = tileN b && (kind ≠ 2 || (match (x.plane (planeOf 2 b x)).fmt with | some f => f = matFmt b | none => true))
/-- R612: the K of the plane. -/
def tileKOk (kind : Nat) (b : BitVec 512) (x : Option Tile) : Bool :=
  match x with
  | none => true
  | some x => kind ≠ 2 || (x.plane (planeOf 2 b x)).fmt.isNone || (x.plane (planeOf 2 b x)).k = matK b

/-- R609, R616: the offsets of a card that apply to every team of the gang: the stash ranges it writes or reads in each. -/
def gangRanges (kind : Nat) (b : BitVec 512) (ts : List (Nat × Team)) : List (Nat × Nat) :=
  match kind with
  | 0 => ts.map fun p => (p.2.sync.stashBase + (copySpan b false).1.toNat, ((copySpan b false).2 - (copySpan b false).1).toNat)
  | _ => ts.map fun p => (p.2.sync.stashBase + cb b 84 64, mergeQ b * (16 + 4 * mergeD b))
/-- R606 step 3 for the ranges inside each team's allotment. -/
def gangOk (kind : Nat) (b : BitVec 512) (ts : List (Nat × Team)) : Bool :=
  match kind with
  | 0 => !copyMc b || ts.all fun p => p.2.holds 0 (copySpan b false).2.toNat && (match cardBar b with | some o => p.2.holds o 64 | none => true)
  | 6 => ts.all fun p => p.2.holds (cb b 84 64) (mergeQ b * (16 + 4 * mergeD b))
  | _ => true

/-- R609, R606 step 7: the global range a card names at acceptance, with its use. -/
def cardGlobal (kind : Nat) (b : BitVec 512) : Option (Use × Nat × Nat) :=
  match kind with
  | 0 =>
    let p := copySpan b true
    some (if copyOut b then .store else .load, p.1.toNat, (p.2 - p.1).toNat)
  | _ => none

/-- R200: every byte of a range that a card reads lies in a footprint region or on a page with `stb` = 1, which its translation tells. -/
def State.readsOk (s : State) (k : Nat) (t : Team) : Nat → Nat → Nat → Except AccWait Bool × State
  | 0, a, e => (.ok (decide (e ≤ a)), s)
  | f + 1, a, e =>
    if e ≤ a then (.ok true, s)
    else match (s.footOf t.view).find? fun r => decide (r.base ≤ a ∧ a < r.base + r.len) with
      | some r => s.readsOk k t f (r.base + r.len) e
      | none =>
        match s.engineLook (.unit k) t.id.ctx t.id.cluster a 1 with
        | (.error w, s) => (.error w, s)
        | (.ok x, s) => if x.stb && !x.host then s.readsOk k t f ((a / 2 ^ x.lg + 1) * 2 ^ x.lg) e else (.ok false, s)
/-- The outcome of the checks of R606: the first failure. `stb`: the pages that a read names beside the footprint are stable (R200). -/
def State.cardCheck (s : State) (t : Team) (kind : Nat) (b : BitVec 512) (stb : Bool := false) : Option (Nat × List Word) :=
  let P := s.part t.id.part
  let cl := s.cluster t.id.cluster
  let x := Tbl.get? cl.tiles (tileKey t.id.launch b)
  let e := P.kvEnt (hIdx (scanHnd b))
  let rowb := e.rowBytes
  let r := cardRanges kind t.regs.fmt b t.sync.stashBase rowb
  let own := if kind = 0 && copyMc b then [] else r.1 ++ r.2
  let bar := match cardBar b with | some o => if kind = 0 && copyMc b then [] else [(o, 64)] | none => []
  if !cardFormatOk kind t.regs.fmt b || (isMatrix kind && !tileFormatOk kind b x) then some (0x78, infoE kind)
  else match (if kind = 7 then (match s.kvDeref t.view t.id.part t.id.ctx (scanHnd b) 1 false none with
      | .error (c, k) => some (c, infoH (scanHnd b) 0 0 k)
      | .ok e => if e.ncent = 0 then some (0x73, infoE kind) else none) else none) with
    | some y => some y
    | none =>
      if !cardLimitsOk kind t.regs.fmt b t.regs.lanes t.regs.allot || (isMatrix kind && !tileKOk kind b x) ||
          !((own ++ bar).all fun q => t.inStash q.1 q.2) || !gangOk kind b (s.gangOf t) then some (0x79, infoE kind)
      else if isMatrix kind && !((quadSets (tileM b) (tileN b)).any (P.ownsQuads t.id.cluster)) then some (0x7A, infoE kind)
      else if !((cardPred b).toList ++ t.sync.chain.toList).all cl.tagIssued then some (0x7D, infoE kind)
      else if (kind = 4 ∨ kind = 5) ∧ !footLoads (s.footOf t.view) (cb b 120 64) 32 then some (0x7E, infoE kind)
      else match cardGlobal kind b with
        | none => none
        | some (u, va, n) =>
          match footCheck (s.footOf t.view) u stb va n with
          | .ok _ => none
          | .error c => some (c, ({ kind := if u = .load then .load else .store, va := va, esz := 1 } : Acc).infoT0)

/-- The checks of R606 with the pages that a read's last check needs to see (R200); or what that waits for. A page whose walk fails has no
`stb`. -/
def State.cardJudge (s : State) (k : Nat) (t : Team) (kind : Nat) (b : BitVec 512) : Except AccWait (Option (Nat × List Word)) × State :=
  match s.cardCheck t kind b, cardGlobal kind b with
  | some (0x4D, i), some (_, va, n) =>
    if t.sync.fetch.bad.isSome then (.ok (some (0x4D, i)), s)
    else match s.readsOk k t (n / 4096 + (s.footOf t.view).length + 2) va (va + n) with
      | (.error w, s) => (.error w, s)
      | (.ok y, s) => (.ok (if y then s.cardCheck t kind b true else some (0x4D, i)), s)
  | x, _ => (.ok x, s)
/-- R355: room for a card: the partition's share of the cluster's 256 entries, and 32 of the team. -/
def State.cardRoom (s : State) (k : Nat) (t : Team) : Bool :=
  let cs := (s.cluster t.id.cluster).cards.filter fun c => c.st ≠ .complete
  decide ((cs.filter fun c => c.part = t.id.part && c.ctx = t.id.ctx).length < shareOf 256 (s.ownersOf t.id.cluster) t.id.part) &&
    decide ((cs.filter fun c => c.team = k).length < 32)

/-- R610 to R613: what accepting a matrix card does to its tile, in enqueue order. -/
def tileAccept (kind lk : Nat) (b : BitVec 512) (x : Option Tile) : Tile :=
  let x := x.getD { launch := lk, m := tileM b, n := tileN b, quads := [] }
  match kind with
  | 1 => x.setPlane (1 - x.act) fun p => { p with fmt := some (matFmt b), k := matK b }
  | 2 => if mataFlip b then { x with act := 1 - x.act } else x
  | _ => if drainRel b then { x with act := 0, p0 := { x.p0 with fmt := none }, p1 := { x.p1 with fmt := none } } else x

/-- R607: accept a card of a team; the tag and the state. -/
def State.acceptCard (s : State) (k : Nat) (t : Team) (kind eid : Nat) (b : BitVec 512) : Nat × State :=
  let cl := s.cluster t.id.cluster
  let tag := cl.nextTag % 65536
  let lk := t.id.launch
  let x := Tbl.get? cl.tiles (tileKey lk b)
  let r := cardRanges kind t.regs.fmt b t.sync.stashBase ((s.part t.id.part).kvEnt (hIdx (scanHnd b))).rowBytes
  let g := gangRanges kind b (s.gangOf t)
  let card : Card := { tag := tag, kind := kind, bits := b, team := k, launch := lk, part := t.id.part, ctx := t.id.ctx, fmt := t.regs.fmt
                       pred2 := t.sync.chain, entry := eid, tile := tileNo b, plane := (x.map (planeOf kind b)).getD (if kind = 1 then 1 else b2n (kind = 2 && mataFlip b))
                       rd := r.1 ++ (if kind = 6 then g else []), wr := r.2 ++ (if kind = 0 && copyMc b then g else []) }
  let tiles := if isMatrix kind then Tbl.put cl.tiles (tileKey lk b) (tileAccept kind lk b x) else cl.tiles
  (tag, (s.modCluster t.id.cluster fun c =>
    { c with cards := c.cards ++ [card], nextTag := c.nextTag + 1, open_ := c.open_ ++ [tag], tiles := tiles }).count t.id.ctx 38 1)

/-- `enq`, by its kind (R604 to R607). -/
def enq (kind : Nat) (z : BitVec 1) (d a : BitVec 6) (s : State) : Host.Outcome State Fault Refusal :=
  withCur s fun c t =>
    noTm s c t <|
      if a.toNat < 1 ∨ 56 < a.toNat then s.raiseX c t 0x02
      else
        let b := cardBits t c a
        match s.cardJudge c.team t kind b with
        | (.error w, s) =>
          let t := s.team c.team
          waitHere s c { t with sync := { t.sync with fetch := { t.sync.fetch with wait := w } } } .fetch
        | (.ok (some (x, i)), s) => raiseW s c { t with sync := { t.sync with fetch := {} } } x i
        | (.ok none, s) =>
          if !t.sync.stashDone then waitHere s c t .bank
          else if !s.cardRoom c.team t then (waitHere s c t .enqRoom).count t.id.ctx 45 1
          else
            let eid := t.sync.nextEntry
            let (tag, s) := s.acceptCard c.team t kind eid b
            let w : RegWrite := .s d.toNat (BitVec.ofNat 64 tag)
            let t := { t with sync := { t.sync with chain := none } }
            if kind = 3 && drainReg b then
              let regs := (List.range (drainRegs b t.regs.lanes)).map fun i => (1, cb b 90 85 + i)
              finishAt s c t z c.next { c.entry with res := [w], dest := (0, d.toNat) :: regs, stage := 3 } 1
            else finishLong s c t z [w] 1

def execEnqCopy (z : BitVec 1) (d a : BitVec 6) (s : State) : Host.Outcome State Fault Refusal := enq 0 z d a s
def execEnqMatw (z : BitVec 1) (d a : BitVec 6) (s : State) : Host.Outcome State Fault Refusal := enq 1 z d a s
def execEnqMata (z : BitVec 1) (d a : BitVec 6) (s : State) : Host.Outcome State Fault Refusal := enq 2 z d a s
def execEnqMdrain (z : BitVec 1) (d a : BitVec 6) (s : State) : Host.Outcome State Fault Refusal := enq 3 z d a s
def execEnqGather (z : BitVec 1) (d a : BitVec 6) (s : State) : Host.Outcome State Fault Refusal := enq 4 z d a s
def execEnqScat (z : BitVec 1) (d a : BitVec 6) (s : State) : Host.Outcome State Fault Refusal := enq 5 z d a s
def execEnqMerge (z : BitVec 1) (d a : BitVec 6) (s : State) : Host.Outcome State Fault Refusal := enq 6 z d a s
def execEnqKscan (z : BitVec 1) (d a : BitVec 6) (s : State) : Host.Outcome State Fault Refusal := enq 7 z d a s

/-- `chain` (R619). -/
def execChain (z : BitVec 1) (a : BitVec 6) (s : State) : Host.Outcome State Fault Refusal :=
  withCur s fun c t =>
    let v := (rdS t c a.toNat).toNat
    if v / 65536 ≠ 0 then raiseW s c t 0x7D (infoE 0)
    else finishShort s c { t with sync := { t.sync with chain := some v } } z [] 1

/-- `cstat` (R620). -/
def execCstat (z : BitVec 1) (d a : BitVec 6) (nt clr : BitVec 1) (s : State) : Host.Outcome State Fault Refusal :=
  withCur s fun c t =>
    let addr := (rdS t c a.toNat).toNat
    if addr % 64 ≠ 0 then raiseW s c t 0x3A (infoSt t.id.cluster addr 1)
    else if !t.inStash addr 64 then raiseW s c t 0x38 (infoSt t.id.cluster addr 1)
    else
      let o := s.barGet t.id.cluster addr
      if !o.val then s.raiseQ c t 0xA0 addr 0
      else if bit o.cst 0 ∧ nt = 0 then raiseW s c t 0x7C [0, BitVec.ofNat 64 o.cst, Config.noWhere 4]
      else
        let s := if clr = 1 then s.barPut t.id.cluster addr { o with cst := 0 } else s
        finishLong s c t z [.s d.toNat (BitVec.ofNat 64 o.cst)] 1

end Sys2Proof.Machine
end

