-- ==== Sys2Proof/Machine/Engine.lean ====
section
/-! DEFINITION. What the engines do with an accepted card, apart from arithmetic: global accesses, stash writes, credits,
faults and status, and when a card starts and completes (R357 to R368, R710). -/

namespace Sys2Proof.Machine

/-! ## Cards of a cluster -/

def State.card (s : State) (cl tag : Nat) : Option Card := (s.cluster cl).cards.find? fun k => k.tag = tag
def State.modCard (s : State) (cl tag : Nat) (f : Card → Card) : State :=
  s.modCluster cl fun c => { c with cards := c.cards.map fun k => if k.tag = tag then f k else k }
/-- The engine of a kind: 0 copy, 1 task scheduler and quadrants, 2 Carder, 3 Fuller; R710 numbers them from 1 on. -/
def engineOf (kind : Nat) : Nat := match kind with | 0 => 0 | 1 | 2 | 3 => 1 | 6 => 3 | _ => 2
/-- The tile of a matrix card. -/
def State.tileOf (s : State) (cl : Nat) (k : Card) : Tile := Tbl.getD (s.cluster cl).tiles (k.launch * 8 + k.tile) { launch := k.launch, m := 0, n := 0, quads := [] }
def State.modTile (s : State) (cl : Nat) (k : Card) (f : Tile → Tile) : State :=
  s.modCluster cl fun c => { c with tiles := Tbl.modify c.tiles (k.launch * 8 + k.tile) f }

/-! ## Global accesses (R354, R364) -/

/-- What a step of a card comes to: a result, a wait, a fault that stops it, or a violation that freezes it. -/
inductive CardGo (α : Type)
  | ok (a : α) (s : State)
  | wait (w : AccWait) (s : State)
  | fault (cause : Nat) (s : State)
  | freeze (va right : Nat) (s : State)

def CardGo.bind {α β : Type} (x : CardGo α) (f : α → State → CardGo β) : CardGo β :=
  match x with
  | .ok a s => f a s
  | .wait w s => .wait w s
  | .fault c s => .fault c s
  | .freeze v r s => .freeze v r s

/-- R168, R164, R166, R183: the translation of bytes inside one line for a card: its engine's cluster TLB, a walk, or the replay queue of a
moving page. -/
def State.cardXlat (s : State) (cl : Nat) (k : Card) (u : Use) (va n : Nat) : CardGo Seg :=
  if va + n > 2 ^ 57 then .fault 0x20 s
  else match s.engineLook (.card cl k.tag) k.ctx cl va n with
    | (.error w, s) => .wait w s
    | (.ok e, s) =>
      let pa := e.paOf va
      if !e.host && s.unmapped pa then .fault 0x27 s
      else match permCause u e with
        | some c => .fault c s
        | none =>
          if !e.host && !s.ownsEnt k.part e then .freeze va (s.rightAt pa) s
          else if !e.host && s.releaseRefuses (.launch k.launch) pa then .fault 0x4D s
          else .ok { len := n, pa := pa, host := e.host, shared := e.shared } s

/-- Bytes of one part of a card's read, in the launch's view: at home, or from the line that host or pool has delivered. -/
def State.cardReadAt (s : State) (cl : Nat) (k : Card) (va : Nat) (g : Seg) : CardGo (List Byte × Bool) :=
  let v := View.launch k.launch
  if !g.host && s.isLocal g.pa then
    -- R58: the host that holds a line exclusive is back-invalidated before anything reads it
    if s.hostExcl (lineNo g.pa) then .wait .snoop (s.snoopOut (lineNo g.pa)) else
    .ok (s.viewRead v g.pa g.len) ((s.count k.ctx 24 1).touchLine (lineNo g.pa) k.part 1)
  else match Tbl.get? k.got (lineNo va) with
    | some (d, p) =>
      let bs := (d.drop (g.pa % 64)).take g.len
      .ok (if g.host then s.heldBytes v va bs else bs, p || (g.host && s.heldPois v va bs.length)) s
    | none =>
      let slot := fun (s : State) => s.modCard cl k.tag fun k => { k with got := Tbl.put k.got (lineNo va) ([], false) }
      if g.host then
        let (n, s) := s.askHost (.card cl k.tag) k.ctx g
        .wait (.cxl n) (slot s)
      else match s.poolFor k.part g.pa with
        | none => .freeze va (s.rightAt g.pa) s
        | some e =>
          if e.lost then .ok (List.replicate g.len 0, true) s
          else if s.backGoing g.pa then .wait .snoop s
          else match s.heldPool v g.pa g.len with
          | some x => .ok x s
          | none =>
            let (n, s) := s.askPool (.card cl k.tag) e g.pa (s.viewOp v) false
            .wait (.cxl n) (slot s)

/-- Read bytes inside one line. -/
def State.cardReadLine (s : State) (cl : Nat) (k : Card) (va n : Nat) : CardGo (List Byte × Bool) :=
  (s.cardXlat cl k .load va n).bind fun g s => s.cardReadAt cl k va g
/-- Read runs of bytes, each split at line ends, one after the other. -/
def State.cardReadParts (s : State) (cl : Nat) (k : Card) : List (Nat × Nat) → CardGo (List Byte × Bool)
  | [] => .ok ([], false) s
  | (va, n) :: r =>
    (s.cardReadLine cl k va n).bind fun x s => (s.cardReadParts cl k r).bind fun y s => .ok (x.1 ++ y.1, x.2 || y.2) s
/-- Read a run of at most 64 bytes. -/
def State.cardRead (s : State) (cl : Nat) (k : Card) (va n : Nat) : CardGo (List Byte × Bool) := s.cardReadParts cl k (lineParts va n)

/-- R222, R223: no room in the shadow for a write of a card: it waits, or its launch aborts. -/
def State.cardOverflow (s : State) (k : Card) : CardGo Unit :=
  if !(s.launch k.launch).head.abortOvf && s.olderThan (.launch k.launch) then .wait .shadow s
  else .ok () (s.abortLaunch k.launch 0x4F 1)

/-- A completion time of the card's own writes (R343). -/
def State.cardTime (s : State) (cl tag time : Nat) : State := s.modCard cl tag fun k => { k with gw := max k.gw time }

/-- R71: the team slot that a card's pool writes count against. -/
def State.cardSlot (s : State) (k : Card) : Nat := (s.team k.team).id.slot

/-- R190, R367: write bytes inside one line at their home in the launch's shadow. -/
def State.cardWrite (s : State) (cl : Nat) (k : Card) (va : Nat) (bs : List Byte) (pois : Bool) : CardGo Unit :=
  (s.cardXlat cl k .store va bs.length).bind fun g s =>
    let v := View.launch k.launch
    if g.host then
      if s.holdRoom k.launch va then .ok () ((s.holdWrite k.launch va bs pois).cardTime cl k.tag s.now) else s.cardOverflow k
    else if s.lostAt g.pa then .ok () (s.abortLaunch k.launch 0x8A 1)
    else if s.isLocal g.pa then
      if !s.hasRoom v (lineNo g.pa) then s.cardOverflow k
      else if s.hostHolds (lineNo g.pa) then .wait .snoop (s.snoopOut (lineNo g.pa))
      else
        let (time, s) := s.writeLocal v none g.pa bs pois (storeTok k.team k.entry)
        .ok () ((s.count k.ctx 25 1).cardTime cl k.tag time)
    else match s.poolFor k.part g.pa with
      | none => .freeze va (s.rightAt g.pa) s
      | some e =>
        if s.poolStalled (s.cardSlot k) then .wait .shadow s
        else if s.backGoing g.pa || (s.heldPool v g.pa 1).isSome then .wait .snoop (s.recall v (lineNo g.pa))
        else
          let z := s.tagOf v
          .ok () ((s.count k.ctx 29 1).poolWrite v (s.cardSlot k) e g.pa (.shadowWrite z.1 z.2 (maskAt g.pa g.len) (lineAt g.pa bs) pois) (.card cl k.tag) (Tbl.getD s.ports.epoch (s.cardSlot k) 0))

/-! ## Stash (R339, R340, R364) -/

/-- R339: the guard granule of some team's allocation that a 16-byte granule lies in. -/
def State.guardAt (s : State) (cl g : Nat) : Bool :=
  s.teams.any fun p => p.2.id.cluster = cl && p.2.id.loc = .resident && p.2.sync.allocs.any fun x =>
    !x.joined && (decide (16 * g < x.base ∧ x.base ≤ 16 * g + 64) || decide (x.base + x.len ≤ 16 * g ∧ 16 * g < x.base + x.len + 64))
/-- R339: a touch of a guard granule is charged to the team that enqueued the card. -/
def State.cardGuard (s : State) (cl : Nat) (k : Card) (off : Nat) : State :=
  s.modTeam k.team fun t => { t with sync := { t.sync with guard := some (match t.sync.guard with
    | some (b, o, n) => (b, o, n + 1)
    | none => (4 * cl + off / 2 ^ 19 % 4, off % 2 ^ 19, 1)) } }

/-- The granule parts of a run of stash bytes. -/
def granParts : List Byte → Nat → Nat → List (Nat × List Byte)
  | _, _, 0 => []
  | bs, a, n + 1 =>
    let l := 16 - a % 16
    if bs = [] then [] else (a, bs.take l) :: granParts (bs.drop l) (a + l) n

/-- An engine write of bytes into stash, granule by granule: the granule's full/empty bit once the write has reached its end,
or with `tail` the end of what the card writes there; poison in, or clean data over the whole granule. -/
def State.engineWrite (s : State) (cl : Nat) (k : Card) (a : Nat) (bs : List Byte) (pois tail : Bool) : State :=
  (granParts bs a (bs.length + 1)).foldl (fun s p =>
    let g := p.1 / 16
    if s.guardAt cl g then s.cardGuard cl k p.1
    else s.modCluster cl fun c =>
      let c := if pois then setStashPois (stashPuts c p.1 p.2) g true else stashWrite (storeTok k.team k.entry) c p.1 p.2
      let c := if tail || decide ((p.1 + p.2.length) % 16 = 0) then setFull c g true else c
      { c with maps := Tbl.mapV c.maps fun _ m => if m.w ∧ k.team ∈ m.teams ∧ m.base ≤ p.1 ∧ p.1 < m.base + m.len then m.touch (p.1 - m.base) p.2.length else m }) s

/-- R334, R336: the lines of mapped stash in a card's ranges that are not filled: mapping number, mapping, line index. -/
def State.cardUnfilled (s : State) (cl : Nat) (k : Card) : List (Nat × Mapping × Nat) :=
  (s.cluster cl).maps.flatMap fun m =>
    if k.team ∈ m.2.teams then
      ((List.range (m.2.len / 64)).filter fun i => (Tbl.get? m.2.lines i).isNone &&
        (k.rd ++ k.wr).any fun r => decide (r.1 < m.2.base + 64 * i + 64 ∧ m.2.base + 64 * i < r.1 + r.2)).map fun i => (m.1, m.2, i)
    else []
/-- R334, R584: a card's touch of mapped stash fills its lines, before its transfers. -/
def State.cardFill (s : State) (cl : Nat) (k : Card) : List (Nat × Mapping × Nat) → CardGo Unit
  | [] => .ok () s
  | (mn, m, i) :: r =>
    (s.cardXlat cl k .load (m.va + 64 * i) 64).bind fun g s => (s.cardReadAt cl k (m.va + 64 * i) g).bind fun x s =>
      let local_ := !g.host && s.isLocal g.pa
      if m.kind = 1 && local_ && s.recallHeld (.launch k.launch) (lineNo g.pa) then .wait .snoop (s.snoopOut (lineNo g.pa)) else
      let s := if m.kind = 1 && local_ then s.recall (.launch k.launch) (lineNo g.pa) else s
      let hold := if m.kind = 1 && local_ then s.leaseExpiry (lineNo g.pa) none else 0
      (s.fillLine cl mn m i (lineNo g.pa) x.1 x.2 g.host hold).cardFill cl k r

/-- An engine read of stash bytes: guard granules deliver zero. -/
def State.engineRead (s : State) (cl : Nat) (k : Card) (a n : Nat) : (List Byte × Bool) × State :=
  let c := s.cluster cl
  let bs := (List.range n).map fun i => if s.guardAt cl ((a + i) / 16) then 0 else stashGet c (a + i)
  let hit := (granules a n).filter (s.guardAt cl)
  ((bs, (granules a n).any fun g => stashPois c g && !s.guardAt cl g), hit.foldl (fun s g => s.cardGuard cl k (max a (16 * g))) s)

/-! ## Credits and status (R362, R363) -/

/-- The barrier objects a card credits: its own, or one in each gang team's allotment. -/
def State.cardBars (s : State) (k : Card) : List Nat :=
  match cardBar k.bits with
  | none => []
  | some o => if k.kind = 0 && copyMc k.bits then (s.gangOf (s.team k.team)).map fun p => p.2.sync.stashBase + o else [o]
/-- R362, R591: count a credit on the card's barriers. A word that is no valid barrier object takes none. -/
def State.cardCredit (s : State) (cl : Nat) (k : Card) (n : Nat) (f : Bar → Bar) : State :=
  let s := (s.cardBars k).foldl (fun s a => let b := s.barGet cl a; if b.val then s.barPut cl a ((f b).count n) else s) s
  s.modCard cl k.tag fun k => { k with credit := k.credit + n }

/-- R379: fields of a table descriptor, as a card keeps them. -/
structure Desc where
  base : Nat
  rows : Nat
  base2 : Nat
  rows2 : Nat
  dflt : Nat
  cmp : Nat
  mode : Nat
  efmt : Nat
  rowg : Nat
deriving DecidableEq, Repr
def descOf (n : Nat) : Desc :=
  { base := bits n 120 64, rows := bits n 159 128, base2 := bits n 255 192, rows2 := bits n 191 160, dflt := bits n 63 32
    cmp := bits n 27 26, mode := bits n 25 24, efmt := bits n 23 20, rowg := bits n 15 0 }
/-- The words a running Carder card keeps. -/
def Card.desc (k : Card) : Desc := descOf (leNat (k.work.map (BitVec.ofNat 8)))
/-- R615: bytes of a stash row. -/
def Desc.rowBytes (d : Desc) : Nat := 16 * d.rowg
def Desc.stashRow (d : Desc) : Nat := if d.cmp = 2 then 2 * d.rowBytes else d.rowBytes
/-- Bytes of an element. -/
def Desc.esz (d : Desc) : Nat := if d.efmt = 1 ∨ d.efmt = 2 then 2 else 4

/-- R362: the full credit of a card; of a Carder card whose row size it never learned, what the spec leaves open. -/
def State.fullCredit (s : State) (k : Card) : Nat :=
  match k.kind with
  | 0 => 16 * copyN k.bits
  | 1 | 2 => 64
  | 3 => if drainReg k.bits then 64 else drainRows k.bits * (tileN k.bits * drainW k.bits / 8)
  | 4 => if k.work = [] then (Config.noWhere 5).toNat else listN k.bits * k.desc.stashRow
  | 5 => if k.work = [] then (Config.noWhere 6).toNat else listN k.bits * (4 + k.desc.stashRow)
  | 6 => mergeQ k.bits * mergeOut k.bits
  | _ => match k.work with
    | [] => 0
    | n :: _ => 16 + 4 * n + 2 * n * ((s.part k.part).kvEnt (hIdx (scanHnd k.bits))).rowBytes

/-- R363: what a card adds to the current status word. -/
def Card.report (k : Card) (b : Bar) : Bar :=
  let u := b.ust
  let skip := min (Machine.bits u 63 40 + k.skip) (2 ^ 24 - 1)
  let ce := min (Machine.bits u 39 32 + k.cecc) 255
  let fc := if Machine.bits u 31 24 = 0 then k.fcause else Machine.bits u 31 24
  let nc := (Machine.bits u 23 16 + 1) % 256
  let disc := bit u 5 || k.fcause = 0x90
  let tflt := bit u 4 || (k.fcause ≠ 0 && k.fcause ≠ 0x90)
  let pz := bit u 3 || k.pois
  let ap := bit u 2 || k.apar
  let ue := bit u 1 || k.uecc
  { b with ust := skip * 2 ^ 40 + ce * 2 ^ 32 + fc * 2 ^ 24 + nc * 2 ^ 16 + b2n disc * 32 + b2n tflt * 16 + b2n pz * 8 +
             b2n ap * 4 + b2n ue * 2 + b2n (disc || tflt || pz || ap || ue)
           bgwct := max b.bgwct k.gw }

/-! ## Faults -/

/-- R364: a card stops at a fault. -/
def State.cardFault (s : State) (cl tag cause : Nat) : State :=
  s.modCard cl tag fun k => { k with st := .stopped, fcause := (if k.fcause = 0 then cause else k.fcause), wait := .ready, got := [] }
/-- R95, R96: a violation freezes the card at its engine. -/
def State.cardFreeze (s : State) (cl : Nat) (k : Card) (va right : Nat) : State :=
  let i := s.infoV (engineOf k.kind + 1) cl va right
  (s.modCard cl k.tag fun k => { k with frozen := some { cause := 0x90, info := i } }).violate k.ctx (engineOf k.kind + 1) cl va right
/-- What a step of a card does to it. -/
def State.cardSettle (cl : Nat) (k : Card) : CardGo Unit → State
  | .ok _ s => s
  | .wait w s => s.modCard cl k.tag fun k => { k with wait := w }
  | .fault c s => s.cardFault cl k.tag c
  | .freeze va r s => s.cardFreeze cl k va r
/-- The next unit of a card. -/
def State.cardNext (s : State) (cl tag n : Nat) : State := s.modCard cl tag fun k => { k with pos := k.pos + n, wait := .ready, got := [] }

/-! ## When a card may go on -/

/-- The engine of a card runs it: its context has the turn and is not quiescing, and its team is not saved or being reclaimed (R256, R259). -/
def State.engineOn (s : State) (k : Card) : Bool :=
  let P := s.part k.part
  P.running = some k.ctx && !P.quiescing && (match Tbl.get? s.teams k.team with | some t => !t.id.loc.isSaved && !s.reclaims t | none => true)

/-- What a card waited for has come about. -/
def State.cardFree (s : State) (cl : Nat) (k : Card) : Bool :=
  match k.wait with
  | .ready | .xlat | .shadow => true
  | .walk id => s.xlat.walks.all fun w => w.id ≠ id
  | .ats id => s.xlat.reqs.all fun r => r.tag ≠ id
  | .pri g => s.xlat.pris.all fun r => r.id ≠ g
  | .cxl n => s.xlat.reqs.all fun r => r.tag ≠ n
  | .move id => s.moveOver id (.card cl k.tag)
  | .snoop => s.ports.swait = []
  | .older ls => s.oneEnded ls

/-- R96: a card waits whose engine holds an earlier, frozen card of its launch. -/
def State.engineHeld (s : State) (cl : Nat) (k : Card) : Bool :=
  ((s.cluster cl).cards.takeWhile fun x => x.tag ≠ k.tag).any fun x => x.frozen.isSome && x.launch = k.launch && engineOf x.kind = engineOf k.kind
/-- A card may perform its next unit. -/
def State.cardActive (s : State) (cl : Nat) (k : Card) : Bool :=
  k.st = .running && k.frozen.isNone && s.engineOn k && !s.engineHeld cl k && s.cardFree cl k

/-- R358, R360, R367, R369: a queued card may start. -/
def State.cardMayStart (s : State) (cl : Nat) (k : Card) : Bool :=
  let c := s.cluster cl
  let before := c.cards.takeWhile fun x => x.tag ≠ k.tag
  k.st = .queued && s.engineOn k && !s.engineHeld cl k && before.all (fun x => x.st = .complete || !cardClash x k) &&
    ((cardPred k.bits).toList ++ k.pred2.toList).all c.tagDone &&
    (k.kind ≠ 0 || decide ((c.cards.filter fun x => x.kind = 0 && x.st = .running && s.engineOn x).length < 8)) &&
    (!isMatrix k.kind || (let x := s.tileOf cl k; x.quads ≠ [] || (!x.saved && (s.freeQuads k.part cl x.m x.n).isSome)))

/-- R358, R369, R370: a card starts; a tile that is not bound is bound, every weight and accumulator zero. -/
def State.cardStart (s : State) (cl : Nat) (k : Card) : State :=
  let s := if isMatrix k.kind then s.modTile cl k fun x =>
      if x.quads = [] then { x with quads := (s.freeQuads k.part cl x.m x.n).getD [], acc := [], bad := [], accf := 0
                                    p0 := { x.p0 with w := [], scl := [] }, p1 := { x.p1 with w := [], scl := [] } }
      else x
    else s
  s.modCard cl k.tag fun k => { k with st := .running, wait := .ready, got := [] }

/-- The card stands for an event: its cluster and tag are the operands. -/
def State.cardEvent (s : State) (ok : Card → Bool) (f : Card → State) : State :=
  match s.card s.arg.n0 s.arg.n1 with
  | some k => if ok k then f k else s
  | none => s

def execCardStart (s : State) : Host.Outcome State Fault Refusal :=
  .next (s.cardEvent (s.cardMayStart s.arg.n0) (s.cardStart s.arg.n0))

/-! ## Copy cards (R366 to R368) -/

/-- R367: granules moved from number n on: a whole line where alignment allows, otherwise one. -/
def copyStep (b : BitVec 512) (stash0 n : Nat) : Nat :=
  let g := (copyAddr b true n).toNat
  let d := stash0 + (copyAddr b false n).toNat
  if n % copyC b 0 + 4 ≤ copyC b 0 ∧ g % 64 = 0 ∧ d % 64 = 0 then 4 else 1

/-- Where a copy card's stash side lies: one base per destination team, 0 for addresses. -/
def State.copyBases (s : State) (k : Card) : List Nat :=
  if copyMc k.bits then (s.gangOf (s.team k.team)).map fun p => p.2.sync.stashBase else [0]

/-- R636: one line of a snapshot's copy, and at its end the table word. -/
def State.snapUnit (s : State) (cl : Nat) (k : Card) (src dst lines tab word : Nat) : CardGo Unit :=
  if k.pos < lines then
    (s.cardRead cl k (src + 64 * k.pos) 64).bind fun x s =>
      (s.cardWrite cl k (dst + 64 * k.pos) x.1 x.2).bind fun _ s => .ok () ((s.count k.ctx 39 1).cardNext cl k.tag 1)
  else (s.cardWrite cl k tab (leBytes 8 word) false).bind fun _ s => .ok () (s.cardNext cl k.tag 1)

/-- One transfer of a copy card. -/
def State.copyUnit (s : State) (cl : Nat) (k : Card) : CardGo Unit :=
  let b := k.bits
  let bases := s.copyBases k
  let m := if bases.all fun x => copyStep b x k.pos = 4 then 4 else 1
  let g := (copyAddr b true k.pos).toNat
  let d := (copyAddr b false k.pos).toNat
  let last := decide (copyN b ≤ k.pos + m)
  if copyOut b then
    let (x, s) := s.engineRead cl k d (16 * m)
    (s.cardWrite cl k g x.1 x.2).bind fun _ s => .ok () ((s.modCard cl k.tag fun k => { k with pois := k.pois || x.2 }).cardNext cl k.tag m)
  else
    (s.cardRead cl k g (16 * m)).bind fun x s =>
      let s := bases.foldl (fun s a => s.engineWrite cl k (a + d) x.1 x.2 true) s
      let s := s.modCard cl k.tag fun k => { k with pois := k.pois || x.2 }
      let s := if last then s else s.cardCredit cl k (16 * m) id
      .ok () ((s.count k.ctx 39 1).cardNext cl k.tag m)

/-! ## Completion (R357, R363) -/

/-- A card's writes that have not returned. -/
def State.cardBusy (s : State) (cl : Nat) (k : Card) : Bool :=
  (s.ports.q.any fun w => w.serves = .card cl k.tag) || (s.xlat.reqs.any fun r => r.for_ = .card cl k.tag && r.write)

/-- R357, R363, R369: a card completes: its status bits, the last of its credit, the release of its tile, its entry and its tag. -/
def State.cardEnd (s : State) (cl : Nat) (k : Card) : State :=
  let s := s.cardCredit cl k (s.fullCredit k - k.credit) k.report
  let s := if k.kind = 3 && drainRel k.bits && k.st = .running then
      s.modCluster cl fun c =>
        let more := c.cards.any fun x => x.tag ≠ k.tag && x.launch = k.launch && isMatrix x.kind && x.tile = k.tile
        let key := k.launch * 8 + k.tile
        { c with tiles := if more then Tbl.modify c.tiles key (fun x => { x with quads := [], acc := [], bad := [] }) else Tbl.del c.tiles key }
    else s
  s.modCluster cl fun c => { c with cards := c.cards.filter fun x => x.tag ≠ k.tag, open_ := c.open_.filter fun x => x ≠ k.tag }

end Sys2Proof.Machine
end

