-- ==== Sys2Proof/Machine/Matrix.lean ====
section
/-! DEFINITION. Matrix cards (R370 to R375, R459 to R461, R469, R473 to R475, R611 to R614): weights into a shadow plane,
rows of activations past an active plane, and accumulators out to stash or registers. -/

namespace Sys2Proof.Machine

/-! ## Elements -/

/-- The element of width `w` bits at place n of a row. -/
def rowElem (row : Nat) (w n : Nat) : Nat := row / 2 ^ (w * n) % 2 ^ w
/-- R461: a floating element of the A or the B side, flushed under `ftz` (R469). A TF32 element is its container without the low
13 bits. -/
def matFp (fmt : Word32) (code : Nat) (isB : Bool) (x : Nat) : Fp :=
  let x := if code = 0 then x / 2 ^ 13 * 2 ^ 13 else x
  let f := match code with | 0 => fp32 | 1 => fp16 | 2 => bf16 | _ => if isB then fmtB fmt else fmtA fmt
  f.decode (f.flush (fmtFtz fmt) x)
/-- R461: an integer element. -/
def matInt (code x : Nat) : Int := sext (codeW code) x
/-- R462: the format of a floating accumulator. -/
def accFmt (accf : Nat) : FFmt := match accf with | 0 => fp32 | 1 => fp16 | _ => bf16

/-- R473, R475: the exact sum of a group's products; none when every product was skipped. -/
def groupSum : List Fp → Option Fp
  | [] => none
  | [x] => some x
  | x :: r => match groupSum r with | some y => some (Fp.add false x y) | none => some x
/-- R473: one rounding of an accumulator and a group sum. -/
def accAdd (fmt : Word32) (acc : Nat) (g : Fp) : Nat :=
  let f := accFmt (fmtAccf fmt)
  let rd : Rnd := { mode := 0, sat := fmtSat fmt, ftz := fmtFtz fmt }
  let code := f.ofFp rd (Fp.add false (fp32.decode acc) g)
  if fmtAccf fmt = 0 then code else fp32.ofFp rneRnd (f.decode code)
/-- R474: an integer group sum added, with a scale rounded to an integer once; R467 for a NaN scale. -/
def accAddInt (fmt : Word32) (acc : Nat) (g : Fp) : Nat :=
  let x := Fp.add false (fpOfInt (sext 32 acc)) g
  if fmtSat fmt then fpToInt 0 32 true x else wrap 32 (sext 600 (fpToInt 0 600 true x))

/-! ## `matw` (R371, R611) -/

/-- Row k of B into the tile's shadow plane, with the scales of its group. -/
def State.matwUnit (s : State) (cl : Nat) (k : Card) : CardGo Unit :=
  let b := k.bits
  let w := codeW (matFmt b)
  let n := tileN b
  let (x, s) := s.engineRead cl k (matSrc b + k.pos * matwPitch b) (cdiv (n * w) 8)
  let row := leNat x.1
  let scaled := fmtScm k.fmt = 1 && k.pos % 32 = 0
  let j := k.pos / 32
  let (y, s) := if scaled then s.engineRead cl k (listAt b + j * (16 * cdiv n 16)) n else (([], false), s)
  let s := s.modTile cl k fun t => t.setPlane k.plane fun p =>
    let p := if k.pos = 0 then { p with w := [], scl := [] } else p
    let ws := (List.range n).foldl (fun t i => Tbl.putD t (k.pos * 256 + i) (BitVec.ofNat 64 (rowElem row w i)) 0) p.w
    { p with w := ws, scl := y.1.zipIdx.foldl (fun t q => Tbl.putD t (j * 256 + q.2) q.1 0) p.scl }
  .ok () ((s.modCard cl k.tag fun k => { k with pois := k.pois || x.2 || y.2 }).cardNext cl k.tag 1)

/-! ## `mata` (R372 to R375, R612) -/

/-- R373: the skip bit of a block of 8 × 8 of A. -/
def State.skipBit (s : State) (cl : Nat) (b : BitVec 512) (m k : Nat) : Bool :=
  mataBmv b &&
    (let n := m / 8 * (matK b / 8) + k / 8
     bit (stashGet (s.cluster cl) (cb b 151 131 + n / 8)).toNat (n % 8))

/-- R79: the bits of the skip bitmap that a group of rows uses are poisoned. -/
def State.skipPois (s : State) (cl : Nat) (b : BitVec 512) (m : Nat) : Bool :=
  let lo := m / 8 * (matK b / 8)
  mataBmv b && (granules (cb b 151 131 + lo / 8) ((lo + matK b / 8 - 1) / 8 - lo / 8 + 1)).any (stashPois (s.cluster cl))
/-- R473: the accumulator word of row m and column n after a card's groups; `row` is row m of A, `ea` its scales. -/
def State.mataWord (s : State) (cl : Nat) (k : Card) (p : Plane) (row ea m n prior : Nat) : Nat :=
  let b := k.bits
  let code := matFmt b
  let w := codeW code
  let g := codeG code (fmtScm k.fmt)
  (List.range (cdiv (matK b) g)).foldl (fun acc j =>
    let ks := ((List.range g).map fun i => j * g + i).filter fun i => decide (i < matK b) && !s.skipBit cl b m i
    let wt := fun i => (Tbl.getD p.w (i * 256 + n) 0).toNat
    let scale := fun (z : Fp) => if fmtScm k.fmt = 1 then
        Fp.mul z (Fp.mul (fpOfE8m0 (ea / 2 ^ (8 * j) % 256)) (fpOfE8m0 (Tbl.getD p.scl (j * 256 + n) 0).toNat)) else z
    if fmtAccf k.fmt = 3 then
      accAddInt k.fmt acc (scale (fpOfInt (ks.foldl (fun z i => z + matInt code (rowElem row w i) * matInt code (wt i)) (0 : Int))))
    else
      match groupSum (ks.map fun i => Fp.mul (matFp k.fmt code false (rowElem row w i)) (matFp k.fmt code true (wt i))) with
      | none => acc
      | some z => accAdd k.fmt acc (scale z)) prior

/-- One row of A past the active plane into its accumulator row. -/
def State.mataRow (s : State) (cl : Nat) (k : Card) (m : Nat) : State :=
  let b := k.bits
  let t := s.tileOf cl k
  let p := t.plane k.plane
  let (x, s) := s.engineRead cl k (matSrc b + m * mataPitch b) (cdiv (matK b * codeW (matFmt b)) 8)
  let (y, s) := if fmtScm k.fmt = 1 then s.engineRead cl k (cb b 172 152 + m * (16 * cdiv (matK b) 512)) (matK b / 32) else (([], false), s)
  let row := leNat x.1
  let ea := leNat y.1
  let r := mataRow0 b + m
  let key := fun n => r * 256 + n
  let hit := !mataAcc0 b && (List.range (tileN b)).any fun n => decide (key n ∈ t.bad)
  let acc := (List.range (tileN b)).foldl (fun a n =>
    let prior := if mataAcc0 b then 0 else (Tbl.getD t.acc (key n) 0).toNat
    Tbl.putD a (key n) (BitVec.ofNat 32 (s.mataWord cl k p row ea m n prior)) 0) t.acc
  let s := s.modTile cl k fun t => { t with acc := acc, accf := fmtAccf k.fmt, bad := if mataAcc0 b then t.bad.filter (fun q => q / 256 ≠ r) else t.bad }
  s.modCard cl k.tag fun k => { k with pois := k.pois || x.2 || y.2, apar := k.apar || hit }

/-- R372, R373: a group of eight rows of A issues. -/
def State.mataUnit (s : State) (cl : Nat) (k : Card) : CardGo Unit :=
  let b := k.bits
  let ms := ((List.range 8).map fun i => 8 * k.pos + i).filter fun m => decide (m < mataM b)
  let skips := if mataBmv b then ((List.range (matK b / 8)).filter fun j => s.skipBit cl b (8 * k.pos) (8 * j)).length else 0
  let s := ms.foldl (fun s m => s.mataRow cl k m) s
  let pz := s.skipPois cl b (8 * k.pos)
  let s := (s.modCard cl k.tag fun k => { k with skip := k.skip + skips, pois := k.pois || pz }).cardNext cl k.tag 1
  .ok () ((s.count k.ctx 40 ms.length).count k.ctx 41 skips)

/-! ## `mdrain` (R375, R460, R467, R613, R614) -/

/-- The FP32 scale at a stash address, 1 without a scale mode that has it. -/
def State.drainScale (s : State) (cl : Nat) (fmt : Word32) (base i : Nat) : Fp :=
  if fmtScm fmt = 2 ∨ fmtScm fmt = 3 then
    let x := leNat (stashBytes (s.cluster cl) (base + (if fmtScm fmt = 2 then 4 * i else 0)) 4)
    fp32.decode (fp32.flush (fmtFtz fmt) x)
  else .fin false 1 0
/-- R79: a scale that a drained word uses is poisoned. -/
def State.scalePois (s : State) (cl : Nat) (fmt : Word32) (base i : Nat) : Bool :=
  (fmtScm fmt = 2 || fmtScm fmt = 3) && (granules (base + (if fmtScm fmt = 2 then 4 * i else 0)) 4).any (stashPois (s.cluster cl))
def State.drainPois (s : State) (cl : Nat) (k : Card) (i n : Nat) : Bool :=
  s.scalePois cl k.fmt (cb k.bits 148 128) i || s.scalePois cl k.fmt (cb k.bits 169 149) n
/-- R460, R467, R375: the output of an accumulator word under the captured FMT. -/
def drainOut (fmt : Word32) (accf dfmt acc : Nat) (sa sb : Fp) : Nat :=
  let scaled := fmtScm fmt = 2 ∨ fmtScm fmt = 3
  let mode := if fmtRnd fmt = 5 then 0 else fmtRnd fmt
  if accf = 3 && dfmt = 3 && !scaled then acc
  else
    let x := if accf = 3 then fpOfInt (sext 32 acc) else fp32.decode (fp32.flush (fmtFtz fmt) acc)
    let x := if scaled then Fp.mul x (Fp.mul sa sb) else x
    if dfmt = 3 then fpToInt mode 32 true x
    else (match dfmt with | 0 => fp32 | 1 => fp16 | _ => bf16).ofFp { mode := mode, sat := fmtSat fmt, ftz := fmtFtz fmt } x

/-- Output of row i (counted from the first drained) and column n; none for a word that fails parity. -/
def State.drainVal (s : State) (cl : Nat) (k : Card) (t : Tile) (i n : Nat) : Option Nat :=
  let b := k.bits
  let key := (drainRow0 b + i) * 256 + n
  if key ∈ t.bad then none
  else some (drainOut k.fmt t.accf (drainFmt b) (Tbl.getD t.acc key 0).toNat (s.drainScale cl k.fmt (cb b 148 128) i) (s.drainScale cl k.fmt (cb b 169 149) n))

/-- R375: rows cleared after reading. -/
def State.drainClear (s : State) (cl : Nat) (k : Card) (i n : Nat) : State :=
  if drainClr k.bits then
    let lo := (drainRow0 k.bits + i) * 256
    s.modTile cl k fun t => { t with acc := t.acc.filter (fun x => decide (x.1 < lo ∨ lo + 256 * n ≤ x.1)), bad := t.bad.filter fun x => decide (x < lo ∨ lo + 256 * n ≤ x) }
  else s

/-- R79, R375: row i of a drain to stash; poison over the granule that receives a failed word, or one that a poisoned scale feeds. -/
def State.drainUnit (s : State) (cl : Nat) (k : Card) : CardGo Unit :=
  let b := k.bits
  let t := s.tileOf cl k
  let i := k.pos
  let w := drainW b
  let vals := (List.range (tileN b)).map fun n => s.drainVal cl k t i n
  let bs := vals.flatMap fun v => leBytes (w / 8) (v.getD 0)
  let per := 128 / w
  let hit := vals.any Option.isNone
  let pz := (List.range (tileN b)).map fun n => s.drainPois cl k i n
  let s := (List.range (cdiv (tileN b) per)).foldl (fun s q =>
    s.engineWrite cl k (matSrc b + i * drainPitch b + 16 * q) ((bs.drop (16 * q)).take 16) (((vals.drop (per * q)).take per).any Option.isNone || ((pz.drop (per * q)).take per).any id) true) s
  let s := s.drainClear cl k i 1
  let s := s.modCard cl k.tag fun k => { k with apar := k.apar || hit, pois := k.pois || pz.any id }
  let s := if i + 1 = drainRows b then s else s.cardCredit cl k (tileN b * w / 8) id
  .ok () (s.cardNext cl k.tag 1)

/-- R614: the outputs of a register drain as writes of the enqueuing team's registers; zero in place of a failed word (R375), and of one that a
poisoned scale feeds, since no register holds poison (R79; log 210). -/
def State.drainWrites (s : State) (cl : Nat) (k : Card) : List RegWrite :=
  let b := k.bits
  let x := s.tileOf cl k
  let t := s.team k.team
  let nd := 64 / drainW b
  let per := t.regs.lanes * nd
  let total := drainRows b * tileN b
  (List.range (drainRegs b t.regs.lanes)).flatMap fun r =>
    let reg := cb b 90 85 + r
    (List.range t.regs.lanes).filterMap fun l =>
      let es := (List.range nd).filterMap fun j =>
        let e := r * per + l * nd + j
        if e < total then some (j, if s.drainPois cl k (e / tileN b) (e % tileN b) then 0 else (s.drainVal cl k x (e / tileN b) (e % tileN b)).getD 0) else none
      if es = [] then none else some (.v reg l (es.foldl (fun v p => setSub v (drainW b) p.1 p.2) (t.regs.getV reg l)))
/-- R375: a register drain hands its long result to the `enq` that made it. -/
def State.drainRegsOut (s : State) (cl : Nat) (k : Card) : State :=
  let x := s.tileOf cl k
  let hit := x.bad.any fun q => decide (drainRow0 k.bits ≤ q / 256 ∧ q / 256 < drainRow0 k.bits + drainRows k.bits)
  let pz := (List.range (drainRows k.bits * tileN k.bits)).any fun e => s.drainPois cl k (e / tileN k.bits) (e % tileN k.bits)
  let ws := s.drainWrites cl k
  let s := s.modEntry k.team k.entry fun e => { e with res := e.res ++ ws, stage := 1 }
  (s.drainClear cl k 0 (drainRows k.bits)).modCard cl k.tag fun k => { k with apar := k.apar || hit, pois := k.pois || pz }

end Sys2Proof.Machine
end

