-- ==== Sys2Proof/Machine/Carder.lean ====
section
/-! DEFINITION. The Carder's gathers, scatter-adds and key scans, the Fuller's merges (R379 to R384, R403 to R405, R615 to
R617), and the events of running cards. -/

namespace Sys2Proof.Machine

/-! ## Gather and scatter-add (R379 to R382, R615) -/

/-- R380: an index that is not missing and not out of range. -/
def Desc.validIdx (d : Desc) (x : Nat) : Bool :=
  x ≠ 0xFFFFFFFF && (if d.cmp = 0 then d.mode = 1 || decide (x < d.rows) else decide (x < d.rows * d.rows2))
/-- R379: the descriptor is valid. -/
def descOk (n : Nat) : Bool :=
  let d := descOf n
  bits n 127 121 = 0 && bits n 31 28 = 0 && bits n 19 16 = 0 && d.cmp ≠ 3 && decide (d.mode ≤ 1) && decide (d.efmt ≤ 3) &&
    decide (1 ≤ d.rowg ∧ d.rowg ≤ 4096) && decide (1 ≤ d.rows) && d.base % 16 = 0 &&
    (if d.cmp = 0 then d.base2 = 0 else decide (1 ≤ d.rows2)) && d.validIdx d.dflt
/-- R380: the rows an index selects. -/
def Desc.select (d : Desc) (x : Nat) : Nat × Nat :=
  let x := if d.validIdx x then x else d.dflt
  let x := if d.mode = 1 then x * 0x9E3779B1 % 2 ^ 32 % d.rows else x
  if d.cmp = 0 then (x, 0) else (x % d.rows, x / d.rows % d.rows2)
def Desc.at1 (d : Desc) (row : Nat) : Nat := d.base + row * d.rowBytes
def Desc.at2 (d : Desc) (row : Nat) : Nat := d.base2 + row * d.rowBytes

/-- R615: read the descriptor at the card's start and check it, the pitch and the spans of its tables. -/
def State.descUnit (s : State) (cl : Nat) (k : Card) : CardGo Unit :=
  (s.cardRead cl k (cb k.bits 120 64) 32).bind fun x s =>
    let n := leNat x.1
    let d := descOf n
    let foot := s.footOf (.launch k.launch)
    let ok := fun (va rows : Nat) => if k.kind = 4 then footLoads foot va (rows * d.rowBytes)
      else (match footCheck foot .add false va (rows * d.rowBytes) with | .ok _ => true | .error _ => false)
    if x.2 then .fault 0x88 s
    else if !descOk n || decide (16 * rowPit k.bits < d.stashRow) || !ok d.base d.rows || (d.cmp ≠ 0 && !ok d.base2 d.rows2) then .fault 0x7E s
    else .ok () (s.modCard cl k.tag fun k => { k with work := x.1.map BitVec.toNat, wait := .ready, got := [] })

/-- Index i of a card's list. -/
def State.listIdx (s : State) (cl : Nat) (k : Card) (i : Nat) : (Nat × Bool) × State :=
  let (x, s) := s.engineRead cl k (listAt k.bits + 4 * i) 4
  ((leNat x.1, x.2), s)
/-- Runs of an output chunk of n bytes from byte o of a gathered row. -/
def Desc.runs (d : Desc) (r : Nat × Nat) (o n : Nat) : List (Nat × Nat) :=
  let one := d.at1 r.1
  if d.cmp ≠ 2 then [(one + o, n)]
  else
    let a := min n (d.rowBytes - o)
    (if a = 0 then [] else [(one + o, a)]) ++ (if n = a then [] else [(d.at2 r.2 + (o + a - d.rowBytes), n - a)])
/-- R381: the element-wise sum of two runs. -/
def Desc.sum (d : Desc) (x y : List Byte) : List Byte :=
  (List.range (x.length / d.esz)).flatMap fun i =>
    let a := leNat ((x.drop (i * d.esz)).take d.esz)
    let b := leNat ((y.drop (i * d.esz)).take d.esz)
    leBytes d.esz (if d.efmt = 3 then (a + b) % 2 ^ 32 else fpSum (fltFmt (d.efmt + 1) 0) rneRnd a b)
/-- Chunks of 64 bytes of a stash row. -/
def Desc.chunks (d : Desc) : Nat := cdiv d.stashRow 64

/-- R381: one chunk of an output row. -/
def State.gatherUnit (s : State) (cl : Nat) (k : Card) : CardGo Unit :=
  let d := k.desc
  let i := k.pos / d.chunks
  let o := k.pos % d.chunks * 64
  let n := min 64 (d.stashRow - o)
  let (x, s) := s.listIdx cl k i
  let r := d.select x.1
  let parts := fun (l : List (Nat × Nat)) => l.flatMap fun p => lineParts p.1 p.2
  (s.cardReadParts cl k (parts (d.runs r o n))).bind fun a s =>
    (if d.cmp = 1 then s.cardReadParts cl k (lineParts (d.at2 r.2 + o) n) else .ok ([], false) s).bind fun b s =>
      let bs := if d.cmp = 1 then d.sum a.1 b.1 else a.1
      let pz := x.2 || a.2 || b.2
      let s := (s.engineWrite cl k (rowBuf k.bits + i * rowPit k.bits * 16 + o) bs pz true).modCard cl k.tag fun k => { k with pois := k.pois || pz }
      let last := decide (k.pos + 1 = listN k.bits * d.chunks)
      let s := if last then s else s.cardCredit cl k n id
      .ok () ((s.count k.ctx 42 (b2n (decide (o + n = d.stashRow)))).cardNext cl k.tag 1)

/-- The element adds of one gradient row. -/
def Desc.adds (d : Desc) : Nat := if d.cmp = 0 then d.rowBytes / d.esz else 2 * (d.rowBytes / d.esz)
/-- R382: one element of a gradient row added at home; poison that feeds it is written onto its destination line (R79, R364). -/
def State.scatterUnit (s : State) (cl : Nat) (k : Card) : CardGo Unit :=
  let d := k.desc
  let per := d.rowBytes / d.esz
  let i := k.pos / d.adds
  let j := k.pos % d.adds
  let (x, s) := s.listIdx cl k i
  let r := d.select x.1
  let e := j % per
  let va := (if j < per then d.at1 r.1 else d.at2 r.2) + e * d.esz
  let (g, s) := s.engineRead cl k (rowBuf k.bits + i * rowPit k.bits * 16 + (if d.cmp = 2 then j else e) * d.esz) d.esz
  let pz := x.2 || g.2
  let fn := if d.efmt = 3 then 0 else 1
  let ty := if d.efmt = 3 then 1 else d.efmt + 1
  let v := View.launch k.launch
  let done := fun (s : State) => ((s.modCard cl k.tag fun k => { k with pois := k.pois || pz }).count k.ctx 43 (b2n (decide (j + 1 = d.adds)))).cardNext cl k.tag 1
  match footCheck (s.footOf v) .addOnly false va d.esz with
  | .error c => .fault c s
  | .ok delta =>
    (s.cardXlat cl k .addOnly va d.esz).bind fun sg s =>
      let ops := [(BitVec.ofNat 64 (leNat g.1), (0 : Word))]
      if sg.host then .fault 0x29 s
      else if s.lostAt sg.pa then .ok () (s.abortLaunch k.launch 0x8A 1)
      else if s.isLocal sg.pa then
        if !s.hasRoom v (lineNo sg.pa) then s.cardOverflow k
        else if s.hostHolds (lineNo sg.pa) then .wait .snoop (s.snoopOut (lineNo sg.pa))
        else if pz then
          let (time, s) := s.writeLocal v none sg.pa (leBytes d.esz (leNat g.1)) true (storeTok k.team k.entry)
          .ok () (done (s.cardTime cl k.tag time))
        else match s.atomicLocal v none sg.pa fn ty 0 delta ops (storeTok k.team k.entry) with
          | .ok (_, time, s) => .ok () (done (s.cardTime cl k.tag time))
          | .error 0x88 => .ok () (done (s.modCard cl k.tag fun k => { k with pois := true }))
          | .error c => .fault c s
      else match s.poolFor k.part sg.pa with
        | none => .freeze va (s.rightAt sg.pa) s
        | some pe =>
          match Tbl.get? k.got (lineNo va) with
          | some _ => .ok () (done (s.cardTime cl k.tag s.now))
          | none =>
            let slot := s.cardSlot k
            let epoch := Tbl.getD s.ports.epoch slot 0
            -- R83: a dropped pool atomic returns poison
            if (s.part k.part).drops s.now then .fault 0x88 s
            else if s.poolStalled slot || s.lineBusy slot pe sg.pa || !s.epochDrained slot epoch || !s.relPassed slot k.part epoch none then .wait .shadow s
            else
            let s := s.usesLine v pe.pbr sg.pa
            let z := s.tagOf v
            -- R80: no clean value in place of a poisoned one
            let op : MemOp := if pz then .shadowWrite z.1 z.2 (maskAt sg.pa d.esz) (lineAt sg.pa (leBytes d.esz (leNat g.1))) true
              else .viewAtomic z.1 z.2 fn ty (sg.pa % 64) ops 0 delta (s.chainVers v)
            let (n, s) := s.askPool (.card cl k.tag) pe sg.pa op true
            .wait (.cxl n) (s.modCard cl k.tag fun k => { k with got := Tbl.put k.got (lineNo va) ([], false) })

/-! ## Merges (R383, R384, R616) -/

/-- A partial: maximum, sum and values. -/
structure Partial where
  m : Nat
  s : Nat
  a : List Nat
deriving DecidableEq, Repr

/-- R384: the factor of a running maximum `x` under the merged maximum. -/
def mergeFactor (x m : Nat) : Nat :=
  if x = fp32.infBits true then 0
  else if !(fp32.decode m).isNan && Fp.cmp (fp32.decode x) (fp32.decode m) = 0 then 0x3F800000
  else expRN (f32add x (f32neg m))
/-- R384: fold partial q into p. -/
def mergeFold (op : Nat) (p q : Partial) : Partial :=
  match op with
  | 0 =>
    let m := f32max p.m q.m
    let c1 := mergeFactor p.m m
    let c2 := mergeFactor q.m m
    { m := m, s := f32fma c1 p.s (f32mul c2 q.s), a := (p.a.zip q.a).map fun x => f32fma c1 x.1 (f32mul c2 x.2) }
  | 1 => { p with a := (p.a.zip q.a).map fun x => f32add x.1 x.2 }
  | _ => { p with a := (p.a.zip q.a).map fun x => f32max x.1 x.2 }

/-- R384: the teams of a gang in ascending field-1 value, then team index. -/
def gangInsert (a : Nat × Team) : List (Nat × Team) → List (Nat × Team)
  | [] => [a]
  | b :: r => if a.2.id.f1 < b.2.id.f1 ∨ (a.2.id.f1 = b.2.id.f1 ∧ a.2.id.index < b.2.id.index) then a :: b :: r else b :: gangInsert a r
def gangSort (l : List (Nat × Team)) : List (Nat × Team) := l.foldl (fun r a => gangInsert a r) []

/-- R384: one query row. -/
def State.mergeUnit (s : State) (cl : Nat) (k : Card) : CardGo Unit :=
  let b := k.bits
  let d := mergeD b
  let word := fun (bs : List Byte) (i : Nat) => leNat ((bs.drop (4 * i)).take 4)
  let (ps, pz, s) := (gangSort (s.gangOf (s.team k.team))).foldl (fun (r : List Partial × Bool × State) p =>
    let (x, s) := r.2.2.engineRead cl k (p.2.sync.stashBase + cb b 84 64 + k.pos * (16 + 4 * d)) (16 + 4 * d)
    (r.1 ++ [{ m := word x.1 0, s := word x.1 1, a := (List.range d).map fun j => word x.1 (4 + j) }], r.2.1 || x.2, s)) (([] : List Partial), false, s)
  match ps with
  | [] => .ok () (s.cardNext cl k.tag 1)
  | p :: r =>
    let z := r.foldl (mergeFold (cb b 9 8)) p
    let isZero : Bool := match fp32.decode z.s with | .fin _ sg _ => decide (sg = 0) | _ => false
    let out := if mergeFin b then z.a.flatMap fun x => leBytes 4 (if isZero then 0 else f32div x z.s)
      else leBytes 4 z.m ++ leBytes 4 z.s ++ leBytes 8 0 ++ z.a.flatMap (leBytes 4)
    let last := decide (k.pos + 1 = mergeQ b)
    let s := (s.engineWrite cl k (mergeDst b + k.pos * mergeOut b) out pz last).modCard cl k.tag fun k => { k with pois := k.pois || pz }
    let s := if last then s.count k.ctx 44 1 else s.cardCredit cl k (mergeOut b) id
    .ok () (s.cardNext cl k.tag 1)

/-! ## Key scans (R404, R405, R617) -/

/-- R183, R399: the move of a KV page that an address meets: at its old place until the directory is written, at its new one while the queue
is released. -/
def State.pageMove (s : State) (pa : Nat) : Option Move :=
  s.xlat.moves.find? fun m => m.kv.isSome && decide (2 ≤ m.phase) && pa / 65536 = (if m.phase < 4 then m.old else m.new) / 65536
/-- Bytes at a physical address of a KV page, inside one line, in the launch's view; the page is met as any other memory is (R65, R66, R94,
R183). -/
def State.cardPage (s : State) (cl : Nat) (k : Card) (pa n : Nat) : CardGo (List Byte × Bool) :=
  let read := fun (s : State) =>
    if s.unmapped pa then .fault 0x27 s
    else if !s.ownsAt k.part pa then .freeze (2 ^ 60 + pa) (s.rightAt pa) s
    else if s.releaseRefuses (.launch k.launch) pa then .fault 0x4D s
    else s.cardReadAt cl k (2 ^ 60 + pa) { len := n, pa := pa }
  match s.pageMove pa with
  | some m => match s.queueTurn m (.card cl k.tag) (2 ^ 60 + pa % 65536) n with
    | (true, s) => read s
    | (false, s) => .wait (.move m.id) s
  | none => read s
/-- Runs of page bytes. -/
def State.cardPages (s : State) (cl : Nat) (k : Card) : List (Nat × Nat) → CardGo (List Byte × Bool)
  | [] => .ok ([], false) s
  | (pa, n) :: r => (s.cardPage cl k pa n).bind fun x s => (s.cardPages cl k r).bind fun y s => .ok (x.1 ++ y.1, x.2 || y.2) s
/-- The line parts of a run of any length. -/
def runParts : Nat → Nat → Nat → List (Nat × Nat)
  | 0, _, _ => []
  | f + 1, a, n => if n = 0 then [] else let l := min n (64 - a % 64); (a, l) :: runParts f (a + l) (n - l)
/-- The key row of a position. -/
def KvEnt.keyRun (e : KvEnt) (pos : Nat) : List (Nat × Nat) := runParts (e.rowBytes + 1) (e.rowPa pos 0 0) e.rowBytes

/-- Key rows of positions from p up, as FP32 elements, and whether one was poisoned. -/
def State.cardKeys (s : State) (cl : Nat) (k : Card) (e : KvEnt) : List Nat → CardGo (List (List Nat) × Bool)
  | [] => .ok ([], false) s
  | p :: r => (s.cardPages cl k (e.keyRun p)).bind fun x s => (s.cardKeys cl k e r).bind fun y s => .ok (keyElems e.kfmt x.1 :: y.1, x.2 || y.2) s

/-- R404, R405: the start of a key scan: stale centroids are rebuilt, then the members are chosen. -/
def State.scanSelect (s : State) (cl : Nat) (k : Card) : CardGo Unit :=
  let b := k.bits
  let v := View.launch k.launch
  let idx := hIdx (scanHnd b)
  let e := (s.part k.part).kvEnt idx
  let len := s.kvLen v idx e
  let choose := fun (cs : CSet) (bad : Bool) (s : State) =>
    let (qs, pz, s) := (List.range (scanQ b)).foldl (fun (r : List (List Nat) × Bool × State) i =>
      let (x, s) := r.2.2.engineRead cl k (listAt b + i * e.rowBytes) e.rowBytes
      (r.1 ++ [keyElems e.kfmt x.1], r.2.1 || x.2, s)) (([] : List (List Nat)), bad, s)
    let sel := bestN (scanN b) ((List.range e.ncent).map fun j => (j, cs.score j qs))
    let mem := ((List.range len).filter fun p => decide ((Tbl.getD cs.num p e.ncent) ∈ sel)).take (scanCap b)
    CardGo.ok () (s.modCard cl k.tag fun k => { k with work := mem.length :: mem, pois := k.pois || pz, wait := .ready, got := [] })
  if s.csetStale v idx e then
    (s.cardKeys cl k e (List.range len)).bind fun keys s =>
      let cs := CSet.rebuild e.ncent keys.1
      choose cs keys.2 (if keys.2 then s else s.modView k.launch idx fun x => { x with cset := some cs, stale := some false })
  else choose (s.csetOf v idx e) false s

/-- R617: one written piece of a key scan: the count, the position list, then 64 bytes of a member's rows. Poison that the choice read feeds
the count and the list (R79). -/
def State.scanUnit (s : State) (cl : Nat) (k : Card) : CardGo Unit :=
  let b := k.bits
  let e := (s.part k.part).kvEnt (hIdx (scanHnd b))
  let mem := k.work.tail
  let ch := cdiv e.rowBytes 64
  let last := decide (k.pos + 1 = 2 + 2 * ch * mem.length)
  let write := fun (s : State) (a : Nat) (bs : List Byte) (pz : Bool) =>
    let s := (s.engineWrite cl k a bs pz true).modCard cl k.tag fun k => { k with pois := k.pois || pz }
    CardGo.ok () ((if last then s else s.cardCredit cl k bs.length id).cardNext cl k.tag 1)
  if k.pos = 0 then write s (scanDst b) (leBytes 16 mem.length) k.pois
  else if k.pos = 1 then write s (scanDst b + 16) (mem.flatMap (leBytes 4)) k.pois
  else
    let q := k.pos - 2
    let r := q / ch
    let o := q % ch * 64
    let n := min 64 (e.rowBytes - o)
    let p := (mem[r / 2]?).getD 0
    (s.cardPages cl k (runParts 3 (e.rowPa p (r % 2) o) n)).bind fun x s => write s (scanR0 b + r * e.rowBytes + o) x.1 x.2

/-! ## Events -/

/-- Units of a card whose work is known. -/
def State.cardUnits (s : State) (k : Card) : Nat :=
  match k.kind with
  | 0 => match k.work with | [_, _, n, _, _] => n + 1 | _ => copyN k.bits
  | 1 => matK k.bits
  | 2 => cdiv (mataM k.bits) 8
  | 3 => if drainReg k.bits then 0 else drainRows k.bits
  | 4 => listN k.bits * k.desc.chunks
  | 5 => listN k.bits * k.desc.adds
  | 6 => mergeQ k.bits
  | _ => 2 + 2 * cdiv ((s.part k.part).kvEnt (hIdx (scanHnd k.bits))).rowBytes 64 * k.work.tail.length
/-- A card that must first learn what to do. -/
def Card.blank (k : Card) : Bool := (k.kind = 4 || k.kind = 5 || k.kind = 7) && k.work = []
/-- Everything of a running card has been performed. -/
def State.cardOver (s : State) (k : Card) : Bool := !k.blank && decide (s.cardUnits k ≤ k.pos)

/-- One unit of a card that moves lines. -/
def State.cardUnit (s : State) (cl : Nat) (k : Card) : State :=
  State.cardSettle cl k <| (s.cardFill cl k (s.cardUnfilled cl k)).bind fun _ s =>
    match k.kind with
    | 0 => match k.work with
      | [src, dst, n, tab, w] => s.snapUnit cl k src dst n tab w
      | _ => s.copyUnit cl k
    | 1 => s.matwUnit cl k
    | 3 => s.drainUnit cl k
    | 4 => if k.blank then s.descUnit cl k else s.gatherUnit cl k
    | 5 => if k.blank then s.descUnit cl k else s.scatterUnit cl k
    | 6 => s.mergeUnit cl k
    | 7 => if k.blank then s.scanSelect cl k else s.scanUnit cl k
    | _ => .ok () s

def State.mayTransfer (s : State) (cl : Nat) (k : Card) : Bool := s.cardActive cl k && k.kind ≠ 2 && !s.cardOver k
def State.mayIssueRow (s : State) (cl : Nat) (k : Card) : Bool := s.cardActive cl k && k.kind = 2 && !s.cardOver k
def State.mayComplete (s : State) (cl : Nat) (k : Card) : Bool :=
  k.frozen.isNone && (k.st = .stopped || (s.cardActive cl k && s.cardOver k)) && !s.cardBusy cl k

def execCardLineTransfer (s : State) : Host.Outcome State Fault Refusal :=
  .next (s.cardEvent (s.mayTransfer s.arg.n0) (s.cardUnit s.arg.n0))
def execMatrixRowIssue (s : State) : Host.Outcome State Fault Refusal :=
  .next (s.cardEvent (s.mayIssueRow s.arg.n0) fun k => State.cardSettle s.arg.n0 k ((s.cardFill s.arg.n0 k (s.cardUnfilled s.arg.n0 k)).bind fun _ s => s.mataUnit s.arg.n0 k))
def execCardComplete (s : State) : Host.Outcome State Fault Refusal :=
  .next (s.cardEvent (s.mayComplete s.arg.n0) fun k =>
    let s := if k.kind = 3 && drainReg k.bits then
        (if k.st = .running then s.drainRegsOut s.arg.n0 k
         else s.modEntry k.team k.entry fun e => ({ e with dest := [], stage := 1 } : Entry).finish)
      else s
    s.cardEnd s.arg.n0 ((s.card s.arg.n0 k.tag).getD k))

/-- The card events that may happen now. -/
def State.cardEvents (s : State) : List (Instr × Arg) :=
  s.clusters.flatMap fun c => c.2.cards.flatMap fun k =>
    let a : Arg := { n0 := c.1, n1 := k.tag }
    (if s.cardMayStart c.1 k then [(Instr.cardStart, a)] else []) ++ (if s.mayTransfer c.1 k then [(Instr.cardLineTransfer, a)] else []) ++
      (if s.mayIssueRow c.1 k then [(Instr.matrixRowIssue, a)] else []) ++ (if s.mayComplete c.1 k then [(Instr.cardComplete, a)] else [])

end Sys2Proof.Machine
end

