-- ==== Sys2Proof/Machine/Unit.lean ====
section
/-! DEFINITION. Reads and writes by units other than teams' memory instructions and engines: the launch sequencer, the aperture, the
completion-record writer, the stream sequencer, and scalar instructions that read memory where they stand (R130, R138, R413,
R624, R631, R711). -/

namespace Sys2Proof.Machine

def Ctx.stream (x : Ctx) (i : Nat) : Stream := Tbl.getD x.streams i {}
def State.modStream (s : State) (c i : Nat) (f : Stream → Stream) : State :=
  s.modCtx c fun x => { x with streams := Tbl.upd x.streams i {} f }
def Part.stm (P : Part) (i : Nat) : Stm := Tbl.getD P.stms i {}
def State.modStm (s : State) (p i : Nat) (f : Stm → Stm) : State := s.modPart p fun P => { P with stms := Tbl.modify P.stms i f }

/-- The reading in progress of a unit. -/
def State.fetchOf (s : State) : Serves → Fetch
  | .seq c i => ((s.ctx c).stream i).fetch
  | .aperture c n => match (s.ctx c).aps.find? fun a => a.id = n with | some a => a.fetch | none => {}
  | .crec c => (s.ctx c).cfetch
  | .stream p i => ((s.part p).stm i).fetch
  | .unit k => (s.team k).sync.fetch
  | .held lk va => match (s.launch lk).held.find? fun h => h.va = va with | some h => h.fetch | none => {}
  | _ => {}
def State.modFetch (s : State) (w : Serves) (f : Fetch → Fetch) : State :=
  match w with
  | .seq c i => s.modStream c i fun q => { q with fetch := f q.fetch }
  | .aperture c n => s.modCtx c fun x => { x with aps := x.aps.map fun a => if a.id = n then { a with fetch := f a.fetch } else a }
  | .crec c => s.modCtx c fun x => { x with cfetch := f x.cfetch }
  | .stream p i => s.modStm p i fun t => { t with fetch := f t.fetch }
  | .unit k => s.modTeam k fun t => { t with sync := { t.sync with fetch := f t.sync.fetch } }
  | .held lk va => s.modLaunch lk fun l => { l with held := l.held.map fun h => if h.va = va then { h with fetch := f h.fetch } else h }
  | _ => s
/-- Every unit with a reading in progress. -/
def State.fetchers (s : State) : List Serves :=
  (s.ctxs.flatMap fun c => (c.2.streams.map fun q => Serves.seq c.1 q.1) ++ (c.2.aps.map fun a => Serves.aperture c.1 a.id) ++ [.crec c.1]) ++
    (s.parts.flatMap fun p => p.2.stms.map fun t => Serves.stream p.1 t.1) ++ (s.teams.map fun t => .unit t.1) ++
    s.launches.flatMap fun l => (l.2.held.map fun h => h.va).dedup.map fun va => .held l.1 va

/-- What a reading of a unit waited for has come about. -/
def State.waitOver (s : State) (w : Serves) : AccWait → Bool
  | .ready | .xlat | .shadow => true
  | .walk id => s.xlat.walks.all fun w => w.id ≠ id
  | .ats id => s.xlat.reqs.all fun r => r.tag ≠ id
  | .pri g => s.xlat.pris.all fun r => r.id ≠ g
  | .cxl n => s.xlat.reqs.all fun r => r.tag ≠ n
  | .move id => s.moveOver id w
  | .snoop => s.ports.swait = []
  | .older ls => s.oneEnded ls
def State.fetchFree (s : State) (w : Serves) : Bool := s.waitOver w (s.fetchOf w).wait

/-- A unit that reads: its context, partition, the cluster whose TLB it uses, and the launch in whose view it reads. -/
structure Agent where
  who : Serves
  ctx : Nat
  part : Nat
  cl : Nat
  view : Option View := none

/-- An agent of a context that stands at no cluster: the first of its partition. -/
def State.agent (s : State) (who : Serves) (ctx : Nat) (view : Option View) : Agent :=
  let p := ((s.ctx ctx).part).getD 0
  { who := who, ctx := ctx, part := p, cl := (s.part p).clusters.headD 0, view := view }

/-- A cause that a translation comes to, with what its information words show for a team's own instruction (R167, R430). -/
def State.unitFault (s : State) (g : Agent) (cause : Nat) (e : TlbEnt) : CardGo Seg :=
  .fault cause (match g.who with
    | .unit _ => s.modFetch g.who fun f => { f with bad := some { cause := cause, at_ := some (e.lv, e.pte) } }
    | _ => s)
/-- R66: an extent under release refuses an access from outside any launch as unmapped, and one of a launch that holds no shadow entry there. -/
def State.unitRefused (s : State) (g : Agent) (pa : Nat) : Option Nat :=
  match g.view with
  | some v => if s.releaseRefuses v pa then some 0x4D else none
  | none => if s.releasing pa then some 0x27 else none
/-- R164, R166, R168, R183: the translation of bytes inside one line. -/
def State.unitXlat (s : State) (g : Agent) (u : Use) (va n : Nat) : CardGo Seg :=
  match (s.fetchOf g.who).bad with
  | some b => if b.right = 0 then .fault b.cause s else .freeze va b.right s
  | none =>
    if va + n > 2 ^ 57 then .fault 0x20 s
    else match s.engineLook g.who g.ctx g.cl va n with
      | (.error w, s) => .wait w s
      | (.ok e, s) =>
        let pa := e.paOf va
        if !e.host && s.unmapped pa then s.unitFault g 0x27 e
        else match permCause u e with
          | some c => s.unitFault g c e
          | none =>
            if !e.host && !s.ownsEnt g.part e then .freeze va (s.rightAt pa) s
            else match (if e.host then none else s.unitRefused g pa) with
              | some c => s.unitFault g c e
              | none => .ok { len := n, pa := pa, host := e.host, shared := e.shared } s

/-- Bytes of one part of a read. -/
def State.unitReadAt (s : State) (g : Agent) (va : Nat) (sg : Seg) : CardGo (List Byte × Bool) :=
  if !sg.host && s.isLocal sg.pa then
    -- R58: the host that holds a line exclusive is back-invalidated before anything reads it
    if s.hostExcl (lineNo sg.pa) then .wait .snoop (s.snoopOut (lineNo sg.pa)) else
    .ok (match g.view with
      | some v => s.viewRead v sg.pa sg.len
      | none => (memBytes s.mem sg.pa sg.len, s.lostAt sg.pa || s.poisoned sg.pa)) s
  else match Tbl.get? (s.fetchOf g.who).got (lineNo va) with
    | some (d, p) =>
      let bs := (d.drop (sg.pa % 64)).take sg.len
      .ok (if sg.host then (match g.view with | some v => s.heldBytes v va bs | none => bs) else bs,
        p || (sg.host && (match g.view with | some v => s.heldPois v va bs.length | none => false))) s
    | none =>
      let slot := fun (s : State) => s.modFetch g.who fun f => { f with got := Tbl.put f.got (lineNo va) ([], false) }
      if sg.host then
        let (n, s) := s.askHost g.who g.ctx sg
        .wait (.cxl n) (slot s)
      else match s.poolFor g.part sg.pa with
        | none => .freeze va (s.rightAt sg.pa) s
        | some e =>
          if e.lost then .ok (List.replicate sg.len 0, true) s
          else
            let op : MemOp := match g.view with | some v => s.viewOp v | none => .read
            let (n, s) := s.askPool g.who e sg.pa op false
            .wait (.cxl n) (slot s)

/-- Read the parts of a run, one after the other. -/
def State.unitReadParts (s : State) (g : Agent) : List (Nat × Nat) → CardGo (List Byte × Bool)
  | [] => .ok ([], false) s
  | (va, n) :: r =>
    (s.unitXlat g .load va n).bind fun sg s => (s.unitReadAt g va sg).bind fun x s =>
      (s.unitReadParts g r).bind fun y s => .ok (x.1 ++ y.1, x.2 || y.2) s
/-- Read a run of any length. -/
def State.unitRead (s : State) (g : Agent) (va n : Nat) : CardGo (List Byte × Bool) := s.unitReadParts g (runParts (n + 1) va n)

/-- R336: a write from outside every launch recalls a line that mapped-coherent stashes hold. -/
def State.recallAll (s : State) (ln : Nat) : State := s.launches.foldl (fun s l => s.recall (.launch l.1) ln) s
/-- R130: bytes of one local line written as committed at once; the completion time. Hosts that hold the line are back-invalidated (R60). -/
def State.commitBytes (s : State) (core : Option Nat) (pa : Nat) (bs : List Byte) (pois : Bool) : Nat × State :=
  let s := (s.recallAll (lineNo pa)).snoopOut (lineNo pa)
  (max s.now (s.leaseExpiry (lineNo pa) core),
   if s.lostAt pa then s else s.commitLine pa (maskAt pa bs.length) (lineAt pa bs) pois (decide (bs.length = 64)))

/-- R83: a viral partition's write to host or pool is dropped, but for completion records. -/
def State.unitDrops (s : State) (g : Agent) : Bool := (s.part g.part).drops s.now && (match g.who with | .crec _ => false | _ => true)
/-- R70 to R74: a team's write outside every launch to the pool enters its edge port's queue, under the team's slot and epoch. -/
def State.unitPool (s : State) (k : Nat) (part : Nat) (e : PoolEnt) (pa : Nat) (op : MemOp) : State :=
  let t := s.team k
  let (n, s) := s.take
  let w : PoolW := { id := n, src := t.id.slot, link := e.link, epoch := s.epochAt t t.sync.nextEntry, pbr := e.pbr, dpa := e.dpaOf pa, op := op, part := part, launch := none }
  { s with ports := { s.ports with q := s.ports.q ++ [w] } }
/-- Write bytes inside one line, outside every launch, at their home; the completion time. -/
def State.unitWrite (s : State) (g : Agent) (core : Option Nat) (va : Nat) (bs : List Byte) (pois : Bool := false) : CardGo Nat :=
  (s.unitXlat g .store va bs.length).bind fun sg s =>
    if (sg.host || !s.isLocal sg.pa) && s.unitDrops g then .ok s.now s
    else if sg.host then
      .ok s.now (s.tellHost .nobody sg (maskAt sg.pa bs.length) (lineAt sg.pa bs) pois).2
    else if s.isLocal sg.pa then
      if s.hostHolds (lineNo sg.pa) then .wait .snoop (s.snoopOut (lineNo sg.pa))
      else let (t, s) := s.commitBytes core sg.pa bs pois; .ok t s
    else match s.poolFor g.part sg.pa with
      | none => .freeze va (s.rightAt sg.pa) s
      | some e =>
        let op : MemOp := .write (maskAt sg.pa bs.length) (lineAt sg.pa bs) pois
        if e.lost then .ok s.now s
        else match g.who with
          | .unit k => if s.poolStalled (s.team k).id.slot then .wait .shadow s else .ok s.now (s.unitPool k g.part e sg.pa op)
          | _ => .ok s.now (s.askPool .nobody e sg.pa op true).2

/-- The local physical address of a virtual address, by a walk of tables in local memory. -/
def State.localPa (s : State) (p c va : Nat) : Option Nat :=
  match s.walk [] p c va with
  | .leaf e => if s.isLocal (e.paOf va) && s.ownsPage p e.pa e.lg then some (e.paOf va) else none
  | _ => none

/-- R167, R430, R713: kind T for an address that a team's own instruction found unreadable: with the level and entry of its walk or the
status of its completion, where there is one. -/
def State.walkInfo (s : State) (k : Nat) (u : Use) (va : Nat) : List Word :=
  let a : Acc := { kind := if u = .load then .load else .store, va := va, esz := 1 }
  a.infoBad (((s.team k).sync.fetch.bad).bind Bad.at_)

/-- R95: a violation by a team's own instruction freezes the team. -/
def State.freezeAt (s : State) (c : Cur) (t : Team) (va right : Nat) : State :=
  let i := s.infoV 0 t.id.slot va right
  let t' := { t with
    flow := { t.flow with pc := (if c.inj then t.flow.pc else c.next), hints := [] }
    sync := { t.sync with rq := t.sync.rq ++ [{ c.entry with faulting := true, id := t.sync.nextEntry }], nextEntry := t.sync.nextEntry + 1, fetch := {} }
    sched := { t.sched with frozen := some { cause := 0x90, info := i } } }
  ({ s.setTeam c.team t' with cur := none }).violate t.id.ctx 0 t.id.slot va right

/-- A team's own instruction reads or translates where it stands: it waits with its PC at the instruction, raises, or goes on. -/
def withGo {α : Type} (c : Cur) (t : Team) (u : Use) (va : Nat) (x : CardGo α) (go : α → State → Team → State) : State :=
  match x with
  | .ok a s => go a (s.modFetch (.unit c.team) fun _ => {}) { s.team c.team with sync := { (s.team c.team).sync with fetch := {} } }
  | .wait w s =>
    let s := s.modFetch (.unit c.team) fun (f : Fetch) => { f with wait := w }
    waitHere s c (s.team c.team) .fetch
  | .fault x s => (s.modFetch (.unit c.team) fun _ => {}).raise c { t with sync := { t.sync with fetch := {} } } { cause := x, info := s.walkInfo c.team u va } (govTeam t c)
  | .freeze va r s => s.freezeAt c t va r

/-- The agent of a team's own instruction. -/
def teamAgent (c : Cur) (t : Team) : Agent :=
  { who := .unit c.team, ctx := t.id.ctx, part := t.id.part, cl := t.id.cluster, view := some t.view }

end Sys2Proof.Machine
end

