-- ==== Sys2Proof/Machine/Roles.lean ====
section
/-! DEFINITION. Device launches, role exchanges, stage queues, signals and the stage balancer (R240 to R244, R284, R285, R433,
R654 to R664, R670): majors 0x24, 0x25 and 0x27. -/

namespace Sys2Proof.Machine

/-! ## Launching from the device (R655, R658) -/

/-- R656: the `lid` of the structures a pending launch names, where the sequencer can read them in local memory. -/
def State.pendLid (s : State) (c : Nat) (p : Pend) : Option Nat :=
  match p.dead with
  | some l => some l
  | none =>
    let part := ((s.ctx c).part).getD 0
    let rd := fun (va n : Nat) =>
      match s.walk [] part c va with
      | .leaf e => if s.isLocal (e.paOf va) && e.r then
          some (leNat (match p.issuer with
            | some lk => (s.viewRead (.launch lk) (e.paOf va) n).1
            | none => memBytes s.mem (e.paOf va) n))
        else none
      | _ => none
    (rd (p.addr.toNat + 16) 8).bind fun st => (rd st 32).map fun e => bits e 143 120

/-- Queue a launch address on a stream that has room. -/
def State.enqueue (s : State) (c i : Nat) (addr : Word) (issuer : Option Nat) : State :=
  let (n, s) := s.take
  let p : Pend := { id := n, addr := addr, at_ := s.now, issuer := issuer }
  s.modStream c i fun q => { q with pend := q.pend ++ [{ p with lid := (s.pendLid c p).getD 0xFFFFFF }] }

/-- `launch` (R655). -/
def execLaunch (z : BitVec 1) (d a b : BitVec 6) (s : State) : Host.Outcome State Fault Refusal :=
  withCur s fun c t => noTm s c t <| releaseStall s c t 2 fun s t =>
    let addr := rdS t c a.toNat
    let q := (rdS t c b.toNat).toNat
    let fin := fun (s : State) (n : Nat) => finishLong s c t z [.s d.toNat (BitVec.ofNat 64 n)] 1
    if t.id.landed then fin s 3
    else if q > 15 ∨ bits addr.toNat 7 0 ≠ 0 ∨ bits addr.toNat 63 57 ≠ 0 then fin s 2
    else if ((s.ctx t.id.ctx).stream q).pend.length ≥ 64 then fin s 1
    else (fin s 0).enqueue t.id.ctx q addr (some t.id.launch)

/-- R658: what a named launch has come to, for `launch.wait`: none while it is pending. -/
def State.waitOutcome (s : State) (c pid : Nat) : Option Word :=
  let x := s.ctx c
  if x.streams.any fun q => q.2.pend.any fun p => p.id = pid then none
  else match s.launches.find? fun l => l.2.head.ctx = c && l.2.head.pid = pid with
    | some l => some (BitVec.ofNat 64 l.2.head.ver)
    | none => match x.retired.find? fun r => r.pid = pid with
      | some r => some (if r.refused then BitVec.ofNat 64 (2 ^ 63 + r.cause * 256) else BitVec.ofNat 64 r.ver)
      | none => some 0x4000000000000000

/-- R658: the most recently queued launch of a context with a `lid`: its queueing number, or that one's structures are
outside the die and not read yet, or there is none. -/
def State.waitTarget (s : State) (c lid : Nat) : Option (Option Nat) :=
  let x := s.ctx c
  let ps := x.streams.flatMap fun q => q.2.pend.map fun p => (p.id, s.pendLid c p)
  let known := ((ps.filter fun p => p.2 = some lid).map Prod.fst) ++
    ((s.launches.filter fun l => l.2.head.ctx = c && l.2.head.lid = lid).map fun l => l.2.head.pid) ++
    ((x.retired.filter fun r => r.lid = lid).map fun r => r.pid)
  let best := known.foldl (fun m p => match m with | some y => some (max y p) | none => some p) none
  let dark := ps.any fun p => p.2.isNone && (match best with | some y => decide (y < p.1) | none => true)
  if dark then some none else best.map some

/-- `launch.wait` (R658): a stall until the launch it names is admitted or refused. DEDUCED: a launch instruction of R597, beside `launch`
(log 253). -/
def execLaunchWait (z : BitVec 1) (d a : BitVec 6) (s : State) : Host.Outcome State Fault Refusal :=
  withCur s fun c t => noTm s c t <|
    let fin := fun (w : Word) => finishLong s c t z [.s d.toNat w] 1
    if t.id.landed then fin 0x4000000000000000
    else match s.waitTarget t.id.ctx ((rdS t c a.toNat).toNat % 2 ^ 24) with
      | none => fin 0x4000000000000000
      | some none => waitHere s c t (.launchWait 0)
      | some (some pid) => match s.waitOutcome t.id.ctx pid with
        | some w => fin w
        | none => waitHere s c t (.launchWait (pid + 1))

/-! ## Roles (R243, R244, R284, R285, R660, R661) -/

def State.stageOf (s : State) (t : Team) (n : Nat) : Option Stage := (s.launch t.id.launch).head.stages[n]?
/-- R285: the exchange itself. -/
def Team.exchange (t : Team) (n : Nat) (g : Stage) (k : Nat) : Team :=
  { t with
    id := { t.id with stage := n, prio := g.prio }
    regs := { t.regs with allot := g.vregs, v := t.regs.v.filter fun x => decide (x.1 < 1024 * k) }
    flow := { t.flow with pc := BitVec.ofNat 64 g.entry } }
/-- R284, R660: the exchange may take place, but for rows. -/
def Team.mayExchange (t : Team) (g : Stage) : Bool :=
  g.lanes = t.regs.lanes && t.flow.stack = [] && t.flow.away = 0 && t.flow.ret = 0
/-- The core of a team has rows for it with another allotment. -/
def State.rowsFor (s : State) (t : Team) (g : Stage) : Bool :=
  decide (s.rowsUsed t.id.core - t.rows + rowsOf t.regs.lanes g.vregs ≤ 1024)

/-- R285, R660, R661: exchange, and deliver the result, which is long (R638). -/
def finishExchange (s : State) (c : Cur) (t : Team) (z : BitVec 1) (d : BitVec 6) (n : Nat) (g : Stage) (k : Nat) (v : Word) : State :=
  let ws : List RegWrite := [.s d.toNat v]
  finishAt s c (t.exchange n g k) z (BitVec.ofNat 64 g.entry) { c.entry with res := ws, dest := destsOf ws } 1

/-- `role` (R660). -/
def execRole (z : BitVec 1) (d a b : BitVec 6) (s : State) : Host.Outcome State Fault Refusal :=
  withCur s fun c t =>
    let n := (rdS t c a.toNat).toNat
    let k := (rdS t c b.toNat).toNat
    match (if t.id.landed then none else s.stageOf t n) with
    | none => s.raiseX c t 0xA9
    | some g =>
      if !t.mayExchange g ∨ k > min t.regs.allot g.vregs then s.raiseX c t 0xAA
      else if !s.rowsFor t g then finishLong s c t z [.s d.toNat 1] 1
      else finishExchange s c t z d n g k 0

/-- R243: the posting that a team takes. -/
def State.postingFor (s : State) (t : Team) : Option (Posting × Stage) :=
  if t.id.landed then none
  else ((s.launch t.id.launch).posts.find? fun p => p.cluster = t.id.cluster && p.b = t.id.stage && decide (s.now < p.at_ + 4096)).bind fun p =>
    (s.stageOf t p.a).bind fun g => if t.mayExchange g && s.rowsFor t g then some (p, g) else none

/-- `role.ask` (R661). -/
def execRoleAsk (z : BitVec 1) (d a : BitVec 6) (s : State) : Host.Outcome State Fault Refusal :=
  withCur s fun c t =>
    match s.postingFor t with
    | none => finishLong s c t z [.s d.toNat 0] 1
    | some (p, g) =>
      let k := (rdS t c a.toNat).toNat
      if k > min t.regs.allot g.vregs then s.raiseX c t 0xAA
      else
        let s := s.modLaunch t.id.launch fun l => { l with posts := l.posts.filter fun q => q ≠ p }
        finishExchange s c t z d p.a g k 1

/-! ## Stage queues (R240, R241, R662 to R664) -/

def QInst.is (q : QInst) (cl st : Nat) : Bool := q.cluster = cl && q.stage = st
def Launch.inst (l : Launch) (cl st : Nat) : Option QInst := l.qs.find? fun q => q.is cl st
def State.modInst (s : State) (lk cl st : Nat) (f : QInst → QInst) : State :=
  s.modLaunch lk fun l => { l with qs := l.qs.map fun q => if q.is cl st then f q else q }

/-- R77, R364: the poison of the granules that a run of bytes brings into others. -/
def poisonRun (c : Cluster) (src dst n : Nat) : Cluster :=
  let ps := (List.range n).map fun i => (dst + i, stashPois c ((src + i) / 16))
  (granules dst n).foldl (fun c g =>
    let mine := ps.filter fun p => p.1 / 16 = g
    if mine.any Prod.snd then setStashPois c g true else if mine.length = 16 then setStashPois c g false else c) c
/-- Copy a run of stash bytes, poison with them. -/
def stashCopy (c : Cluster) (src dst n : Nat) : Cluster := poisonRun (stashPuts c dst (stashBytes c src n)) src dst n

/-- R662: the checks of a queue instruction: its cause, or the instance, its stage and the bytes of the elements. -/
def queueCheck (s : State) (c : Cur) (t : Team) (st : Option Nat) (a b : BitVec 6) (go : QInst → Stage → Nat → Nat → State) : State :=
  let n := (rdS t c b.toNat).toNat
  let addr := (rdS t c a.toNat).toNat
  let found := if t.id.landed then none else st.bind fun x => (s.stageOf t x).bind fun g => ((s.launch t.id.launch).inst t.id.cluster x).map fun q => (q, g)
  match found with
  | none => s.raiseQ c t 0xA6 (st.getD 15) n
  | some (q, g) =>
    if n = 0 ∨ n > 64 ∨ n > g.depth then s.raiseQ c t 0xA7 q.stage n
    else if addr % 8 ≠ 0 then raiseW s c t 0x3A (infoSt t.id.cluster addr 1)
    else if !t.inStash addr (n * g.elsz * 8) then raiseW s c t 0x38 (infoSt t.id.cluster addr 1)
    else go q g addr n

/-- The stash address of element i of an instance, from its head. -/
def QInst.slot (q : QInst) (g : Stage) (i : Nat) : Nat := q.base + (q.head + i) % max 1 g.depth * (g.elsz * 8)

/-- `qpush` (R662, R664). -/
def execQpush (z : BitVec 1) (a b : BitVec 6) (s : State) : Host.Outcome State Fault Refusal :=
  withCur s fun c t =>
    let out := ((s.stageOf t t.id.stage).map fun g => g.outq).bind fun x => if x = 15 then none else some x
    queueCheck s c t out a b fun q g addr n =>
      if q.cnt + n > g.depth then (waitHere s c t .qpush).count t.id.ctx 63 1
      else if !t.sync.stashDone then waitHere s c t .bank
      else releaseStall s c t 1 fun s t =>
        let w := g.elsz * 8
        let s := s.modCluster t.id.cluster fun cl => (List.range n).foldl (fun cl i => stashCopy cl (addr + i * w) (q.slot g (q.cnt + i)) w) cl
        finishShort (s.modInst t.id.launch t.id.cluster q.stage fun q => { q with cnt := q.cnt + n }) c t z [] 1

/-- R663: take elements, or complete with none. -/
def queueTake (s : State) (c : Cur) (t : Team) (z : BitVec 1) (d : Nat) (q : QInst) (g : Stage) (addr n : Nat) (signalled : Bool) : State :=
  let m := min n q.cnt
  let w := g.elsz * 8
  let s := s.modCluster t.id.cluster fun cl =>
    let cl := (List.range m).foldl (fun cl i => stashCopy cl (q.slot g i) (addr + i * w) w) cl
    (granules addr (m * w)).foldl (fun cl x => setFull cl x true) cl
  let s := s.modCluster t.id.cluster fun cl => { cl with maps := Tbl.mapV cl.maps fun _ x =>
    if c.team ∈ x.teams ∧ x.base ≤ addr ∧ addr < x.base + x.len ∧ m ≠ 0 then x.touch (addr - x.base) (m * w) else x }
  let s := s.modInst t.id.launch t.id.cluster q.stage fun q =>
    { q with cnt := q.cnt - m, head := (q.head + m) % max 1 g.depth, wake := q.wake && !signalled }
  finishLong s c t z [.s d (BitVec.ofNat 64 (m + b2n signalled * 2 ^ 63))] 1

/-- `qpop` (R663): with nothing to take it parks, or completes by a signal. -/
def execQpop (z : BitVec 1) (d a b : BitVec 6) (s : State) : Host.Outcome State Fault Refusal :=
  withCur s fun c t => queueCheck s c t (some t.id.stage) a b fun q g addr n =>
    if !t.sync.stashDone then waitHere s c t .bank
    else if q.cnt = 0 ∧ !q.wake then waitHere s c t .qpop
    else queueTake s c t z d.toNat q g addr n (q.cnt = 0)
/-- `qtry` (R663). -/
def execQtry (z : BitVec 1) (d a b : BitVec 6) (s : State) : Host.Outcome State Fault Refusal :=
  withCur s fun c t => queueCheck s c t (some t.id.stage) a b fun q g addr n =>
    if !t.sync.stashDone then waitHere s c t .bank else queueTake s c t z d.toNat q g addr n false

/-! ## Signals (R433, R670) -/

/-- `signal.q`: the wake bit of a stage's instance. -/
def execSignalQ (z : BitVec 1) (a : BitVec 6) (s : State) : Host.Outcome State Fault Refusal :=
  withCur s fun c t =>
    let n := (rdS t c a.toNat).toNat
    if t.id.landed ∨ ((s.launch t.id.launch).inst t.id.cluster n).isNone then s.raiseQ c t 0xA8 n 0
    else finishShort (s.modInst t.id.launch t.id.cluster n fun q => { q with wake := true }) c t z [] 1
/-- `signal.m`: an access that wakes the monitors of its word. -/
def execSignalM (z : BitVec 1) (a : BitVec 6) (s : State) : Host.Outcome State Fault Refusal :=
  withCur s fun c t =>
    let va := (rdS t c a.toNat).toNat
    if t.id.landed then s.raiseQ c t 0xA8 va 0
    else finishMem s c t z [{ kind := .sig, va := va, esz := 8 }] [] [] 1

/-! ## The stage balancer (R242, R243) -/

/-- Filling of an instance in parts of 256 of its depth, compared exactly. -/
def QInst.above (q : QInst) (g : Stage) : Bool := decide (q.cnt * 256 > g.hiwm * g.depth)
def QInst.below (q : QInst) (g : Stage) : Bool := decide (q.cnt * 256 < g.lowm * g.depth)
/-- R242: a pair of stages that qualifies on a cluster: donor b and target a with their filling. -/
def State.balancePairs (s : State) (lk cl : Nat) : List ((QInst × Stage) × (QInst × Stage)) :=
  let l := s.launch lk
  let qs := (l.qs.filter fun q => q.cluster = cl).filterMap fun q => l.head.stages[q.stage]?.map fun g => (q, g)
  let here := fun st => s.teams.any fun p => p.2.resident && p.2.id.launch = lk && !p.2.id.landed && p.2.id.cluster = cl && p.2.id.stage = st
  (qs.filter fun x => x.1.above x.2).flatMap fun x =>
    (qs.filter fun y => y.1.below y.2 && y.2.lanes = x.2.lanes && here y.1.stage).map fun y => (x, y)
/-- Choose the fullest target, then the emptiest donor, lowest stage number on ties. -/
def balanceBest : List ((QInst × Stage) × (QInst × Stage)) → Option ((QInst × Stage) × (QInst × Stage))
  | [] => none
  | p :: r =>
    match balanceBest r with
    | none => some p
    | some q =>
      let fp := p.1.1.cnt * q.1.2.depth
      let fq := q.1.1.cnt * p.1.2.depth
      let ep := p.2.1.cnt * q.2.2.depth
      let eq_ := q.2.1.cnt * p.2.2.depth
      if fp ≠ fq then (if fp > fq then some p else some q)
      else if p.1.1.stage ≠ q.1.1.stage then (if p.1.1.stage < q.1.1.stage then some p else some q)
      else if ep ≠ eq_ then (if ep < eq_ then some p else some q)
      else if p.2.1.stage ≤ q.2.1.stage then some p else some q

/-- R242: one inspection of the instances of a cluster. -/
def State.balance (s : State) (cl : Nat) : State :=
  s.launches.foldl (fun s l =>
    if l.2.posts.any fun p => p.cluster = cl then s
    else match balanceBest (s.balancePairs l.1 cl) with
      | some (x, y) => s.modLaunch l.1 fun l => { l with posts := l.posts ++ [{ cluster := cl, b := y.1.stage, a := x.1.stage, at_ := s.now }] }
      | none => s) s

/-- `ticked` numbers of the periodic events of a unit. -/
def tickKey (kind unit : Nat) : Nat := unit * 16 + kind
def State.mark (s : State) (kind unit : Nat) : State := { s with ticked := tickKey kind unit :: s.ticked }
def State.marked (s : State) (kind unit : Nat) : Bool := decide (tickKey kind unit ∈ s.ticked)

/-- `BALANCER_INSPECTION` (R242), at device times that are multiples of 256. -/
def execBalancerInspection (s : State) : Host.Outcome State Fault Refusal :=
  .next (if s.now % 256 = 0 ∧ !s.marked 0 s.arg.n0 then (s.balance s.arg.n0).mark 0 s.arg.n0 else s)
/-- `POSTING_LAPSE` (R243). -/
def execPostingLapse (s : State) : Host.Outcome State Fault Refusal :=
  .next (s.modLaunch s.arg.n1 fun l => { l with posts := l.posts.filter fun p => !(p.cluster = s.arg.n0 && decide (p.at_ + 4096 ≤ s.now)) })

/-- R242, R243: inspections and lapses that are due. -/
def State.balanceEvents (s : State) : List (Instr × Arg) :=
  let cls := (s.launches.flatMap fun l => l.2.qs.map QInst.cluster).dedup
  (if s.now % 256 = 0 then (cls.filter fun c => !s.marked 0 c).map fun c => (Instr.balancerInspection, ({ n0 := c } : Arg)) else []) ++
    s.launches.flatMap fun l => (l.2.posts.filter fun p => decide (p.at_ + 4096 ≤ s.now)).map fun p => (Instr.postingLapse, { n0 := p.cluster, n1 := l.1 })

end Sys2Proof.Machine
end

