-- ==== Sys2Proof/Machine/Kv.lean ====
section
/-! DEFINITION. KV entries: open, close, append, truncate, fork, prefix lookup and pages (R391 to R407, R621 to R631): major
0x22. -/

namespace Sys2Proof.Machine

/-! ## Shared parts -/

/-- R621: a status and a second result. -/
def pair (s : State) (c : Cur) (t : Team) (z : BitVec 1) (d : BitVec 6) (status : Nat) (w : Word) : State :=
  finishLong s c t z [.s d.toNat (BitVec.ofNat 64 status), .s (d.toNat + 1) w] 1
/-- R621: an operand word outside its range. -/
def badWord (s : State) (c : Cur) (t : Team) (w : Word) : State := s.raiseQ c t 0x72 0 w.toNat
/-- R621: a handle operand, checked by R389. -/
def withHandle (s : State) (c : Cur) (t : Team) (h : Word) (need : Nat) (write : Bool) (pos : Option Nat) (go : KvEnt → State) : State :=
  match s.kvDeref t.view t.id.part t.id.ctx h need write pos with
  | .ok e => go e
  | .error (x, k) => raiseW s c t x (infoH h (pos.getD 0) 0 k)

/-- R101, R144, R261, R391, R400: memory charged to a partition's quota, in bytes: granules, handle-table blocks, images, save areas, and the prefix
index, which DESIGN CHOICE counts while it holds a way (log 231). -/
def State.charged (s : State) (p : Nat) : Nat :=
  (s.xlat.own.filter fun g => g.2 = p).length * 2 ^ 21 + (s.part p).kvBlocks * 2 ^ 18 +
    ((s.part p).images.map fun m => m.2.len).sum + ((s.ctxs.filter fun c => c.2.part = some p).map fun c => c.2.saveArea * 2 ^ 20).sum +
    (if (s.part p).pfx = [] then 0 else Config.prefixBytes)
def State.quotaLeft (s : State) (p : Nat) : Nat := (s.part p).cfg.quota * 2 ^ 21 - s.charged p

/-- R391: `n` free consecutive entries at a multiple of `n`, in blocks that the table has. -/
def Part.freeIdx (P : Part) (n : Nat) : Option Nat :=
  ((List.range (P.kvBlocks * 4096 / n)).find? fun i => (List.range n).all fun j => (P.kvEnt (n * i + j)).kind = 0).map (n * ·)
/-- R391: free entries, after adding a block when there are none and the quota holds it. -/
def State.newIdx (s : State) (p n : Nat) : Option (Nat × State) :=
  match (s.part p).freeIdx n with
  | some i => some (i, s)
  | none =>
    let P := s.part p
    let (n, s) := s.draw
    if P.kvBlocks < 256 ∧ 2 ^ 18 ≤ s.quotaLeft p then
      some (P.kvBlocks * 4096, s.modPart p fun P => { P with kvBlocks := P.kvBlocks + 1, kvAt := P.kvAt ++ [Config.tableBlock n] })
    else none
def State.putKv (s : State) (p i : Nat) (e : KvEnt) : State := s.modPart p fun P => { P with kv := Tbl.put P.kv i e }

/-! ## Opening and closing -/

/-- `kvopen` (R623). -/
def execKvopen (z : BitVec 1) (d a : BitVec 6) (s : State) : Host.Outcome State Fault Refusal :=
  withCur s fun c t =>
    let w := rdS t c a.toNat
    let n := w.toNat
    let ptok := bits n 11 8
    let rowg := bits n 7 0 + 1
    let ncent := bits n 18 12
    if n / 2 ^ 22 ≠ 0 ∨ bit n 19 ∨ bits n 21 20 = 3 ∨ ncent > 64 ∨ ptok < 4 ∨ ptok > 8 then badWord s c t w
    else if ncent > 0 ∧ bit (s.featOf t).toNat 4 then s.raiseX c t 0x05
    else if 2 ^ ptok * 2 * rowg * 16 > 65536 then pair s c t z d 2 0
    else match s.newIdx t.id.part 1 with
      | none => pair s c t z d 5 0
      | some (i, s) =>
        let gen := ((s.part t.id.part).kvEnt i).gen
        let e : KvEnt := { kind := 1, gen := gen, ctx := t.id.ctx, ref := 1, rowg := rowg, ptok := ptok, ncent := ncent, kfmt := bits n 21 20 }
        (pair s c t z d 0 (mkHandle t.id.part gen i true 0x1FFFFFF)).putKv t.id.part i e

/-- R408: a descriptor image within its limits: ranges as (address, length, write), and its fields. -/
def dsFields (n : Nat) : Stm :=
  { kvh := (List.range 8).map fun i => BitVec.ofNat 64 (bits n (1087 + 64 * i) (1024 + 64 * i))
    frbase := bits n 1023 960, cwin := bits n 959 896, stbase := bits n 895 832, snbase := bits n 831 768, stlen := bits n 767 736
    snn := bits n 551 544, frlg := bits n 543 536, nkv := bits n 535 528, latep := bits n 523 522 }
def Stm.shapeOk (d : Stm) (n : Nat) : Bool :=
  bits n 2047 1536 = 0 && bits n 735 552 = 0 && bits n 527 524 = 0 && bits n 521 0 = 0 &&
    d.frbase % 4096 = 0 && d.cwin % 64 = 0 && d.stbase % 64 = 0 && d.snbase % 64 = 0 && d.stlen % 64 = 0 && decide (d.stlen ≤ 2 ^ 20) &&
    decide (d.snn ≤ 64) && decide (4 ≤ d.frlg ∧ d.frlg ≤ 16) && decide (d.nkv ≤ 8) && decide (d.latep ≤ 1)
/-- R408: the ranges of a descriptor: base, length, and whether the device writes it. -/
def Stm.ranges (d : Stm) : List (Nat × Nat × Bool) :=
  [(d.frbase, 64 * 2 ^ d.frlg, false), (d.cwin, 64, true), (d.stbase, d.stlen, true), (d.snbase, if d.snn = 0 then 0 else 512 + d.snn * d.stlen, true)].filter fun r => r.2.1 ≠ 0
/-- The 4 KiB pages of a range. -/
def pagesOf (va n : Nat) : List Nat := if n = 0 then [] else (List.range ((va + n - 1) / 4096 - va / 4096 + 1)).map fun i => max va ((va / 4096 + i) * 4096)
/-- Translate every page of a list of ranges. -/
def State.xlatAll (s : State) (g : Agent) : List (Nat × Bool) → CardGo (List Seg)
  | [] => .ok [] s
  | (va, w) :: r => (s.unitXlat g (if w then .store else .load) va 1).bind fun x s => (s.xlatAll g r).bind fun l s => .ok (x :: l) s

/-- R624: make the four entries of a stream. -/
def State.newStream (s : State) (p i : Nat) (t : Team) (d : Stm) : State :=
  let gen := ((s.part p).kvEnt i).gen
  let s := s.putKv p i { kind := 2, gen := gen, ctx := t.id.ctx, ref := 1 }
  let s := [1, 2, 3].foldl (fun s j => s.putKv p (i + j) { (s.part p).kvEnt (i + j) with kind := 5 }) s
  s.modPart p fun P => { P with stms := Tbl.put P.stms i { d with gen := gen, ctx := t.id.ctx, pollAt := s.now + 64 } }
/-- R624: the 64 snapshot table words are zeroed, where the area exists. -/
def State.zeroTable (s : State) (g : Agent) (d : Stm) : CardGo Unit :=
  (List.range (if d.snn = 0 then 0 else 8)).foldl (fun (x : CardGo Unit) j => x.bind fun _ s =>
    (s.unitWrite g none (d.snbase + 64 * j) (List.replicate 64 0)).bind fun _ s => .ok () s) (.ok () s)

/-- `kvopen.ds` (R624). -/
def execKvopenDs (z : BitVec 1) (d a : BitVec 6) (s : State) : Host.Outcome State Fault Refusal :=
  withCur s fun c t =>
    let va := (rdS t c a.toNat).toNat
    let g := teamAgent c t
    let bad := fun (s : State) (t : Team) => s.raise c t { cause := 0x72, info := infoQ va 0 0 } (govTeam t c)
    if va % 64 ≠ 0 ∨ bit (s.featOf t).toNat 2 then (if va % 64 ≠ 0 then bad s t else s.raiseX c t 0x05)
    else match footCheck (s.footOf t.view) .load false va 256 with
      | .error x => raiseW s c t x (({ kind := .load, va := va, esz := 1 } : Acc).infoT0)
      | .ok _ =>
        withGo c t .load va (s.unitRead g va 256) fun x s t =>
          let n := leNat x.1
          let f := dsFields n
          let hs := f.kvh.take f.nkv
          if x.2 then raiseW s c t 0x88 (s.infoP { kind := .load, va := va, esz := 1 } 0 0)
          else if !f.shapeOk n || hs.any (fun h => match s.kvDeref0 t.id.part t.id.ctx h 1 true none with | .ok _ => false | .error _ => true) then bad s t
          else
            match (s.xlatAll g (f.ranges.flatMap fun r => (pagesOf r.1 r.2.1).map fun p => (p, r.2.2))).bind fun _ s =>
                if (s.newIdx t.id.part 4).isSome then s.zeroTable g f else .ok () s with
            | .wait w s => let s := s.modFetch (.unit c.team) fun (q : Fetch) => { q with wait := w }; waitHere s c (s.team c.team) .fetch
            | .fault _ s => bad (s.modFetch (.unit c.team) fun _ => {}) t
            | .freeze va r s => s.freezeAt c t va r
            | .ok _ s =>
              let s := s.modFetch (.unit c.team) fun _ => {}
              match s.newIdx t.id.part 4 with
              | none => pair s c t z d 5 0
              | some (i, s) =>
                (pair s c t z d 0 (mkHandle t.id.part ((s.part t.id.part).kvEnt i).gen i true 0x1FFFFFF)).newStream t.id.part i t f

/-- `kvclose` (R625). -/
def execKvclose (z : BitVec 1) (a : BitVec 6) (s : State) : Host.Outcome State Fault Refusal :=
  withCur s fun c t =>
    let h := rdS t c a.toNat
    let P := s.part t.id.part
    let kind := if (P.kvEnt (hIdx h)).kind = 2 then 2 else 1
    withHandle s c t h kind false none fun e =>
      let s := finishShort s c t z [] 1
      let s := s.modKv t.id.part (hIdx h) fun e => { e with ref := e.ref - 1, closing := e.ref ≤ 1 }
      if e.ref ≤ 1 then s.kvSettle t.id.part else s

/-! ## Appending and truncating (R397, R403, R405, R626, R627) -/

/-- R397: whether a launch may take the append claim of an entry. -/
def State.mayClaim (s : State) (t : Team) (e : KvEnt) : Bool :=
  !t.id.foreign && (match e.claim with
    | none => true
    | some q => q = t.id.launch || decide (q ∈ s.chainOf s.launches.length t.id.launch))
def State.claim (s : State) (t : Team) (idx : Nat) : State :=
  (s.modKv t.id.part idx fun e => { e with claim := some t.id.launch }).modView t.id.launch idx fun x => { x with claim := true }

/-- What a row's write comes to: its completion time, a page that moves, no room, or a cause. -/
inductive RowGo
  | ok (time : Nat) (s : State)
  | move (id : Nat) (s : State)
  | full
  /-- A pool write must wait at its core (R72, R74). -/
  | stall
  /-- Hosts hold a line (R60). -/
  | held (ln : Nat)
  | raise (r : Raised)
  /-- A violation at a physical address (R94). -/
  | freeze (pa : Nat)
  | lost

/-- Write a run at a physical address into a team's launch, line by line. -/
def State.runWrite (s : State) (c : Cur) (t : Team) (time : Nat) : List (Nat × List Byte) → RowGo
  | [] => .ok time s
  | (pa, bs) :: r =>
    if s.unmapped pa then .raise { cause := 0x27, info := (({ kind := .store, va := pa, esz := 1 } : Acc).infoT0) }
    else if !s.ownsAt t.id.part pa then .freeze pa
    else if s.releaseRefuses t.view pa then .raise { cause := 0x4D, info := (({ kind := .store, va := pa, esz := 1 } : Acc).infoT0) }
    else if s.lostAt pa then .lost
    else if s.isLocal pa then
      if s.hostHolds (lineNo pa) then .held (lineNo pa)
      else if s.hasRoom t.view (lineNo pa) then
        let (x, s) := s.writeLocal t.view (some t.id.core) pa bs false (storeTok c.team t.sync.nextEntry)
        s.runWrite c t (max time x) r
      else .full
    else match s.poolFor t.id.part pa with
      | none => .freeze pa
      | some e =>
        if s.poolStalled t.id.slot then .stall else
        let z := s.tagOf t.view
        let (n, s) := s.addCompl c.team t.sync.nextEntry pa none
        (s.poolWrite t.view t.id.slot e pa (.shadowWrite z.1 z.2 (maskAt pa bs.length) (lineAt pa bs)) (.compl c.team n) (s.epochAt t t.sync.nextEntry)).runWrite c t time r
/-- Bytes cut at line ends. -/
def cutLines (pa : Nat) (bs : List Byte) : List (Nat × List Byte) :=
  ((runParts (bs.length + 1) pa bs.length).map fun p => (p.1, (bs.drop (p.1 - pa)).take p.2))

/-- R183, R398: what the pages of some rows, named by key and value in turn, still wait for: a page that moves, or is copied for the write. -/
def State.rowsWait (s : State) (k : Nat) (t : Team) (h : Word) (rb : Nat) : Nat → Nat → Option Nat × State
  | _, 0 => (none, s)
  | pos, n + 1 =>
    match s.kvPlace t.view t.id.part t.id.ctx 0 h (pos / 2 * 2 ^ 16 + pos % 2 * 2 ^ 15) rb true with
    | .raise _ => (none, s)
    | .wait id s => (some id, s.joinQueue id (.unit k) 0 1)
    | .at_ pa _ =>
      match s.pageMove pa with
      | some m => match s.queueTurn m (.unit k) 0 1 with
        | (true, s) => s.rowsWait k t h rb (pos + 1) n
        | (false, s) => (some m.id, s)
      | none => s.rowsWait k t h rb (pos + 1) n
/-- Write the rows of tokens from a position up: key and value rows in turn. -/
def State.rowsWrite (s : State) (c : Cur) (t : Team) (h : Word) (rb time : Nat) : Nat → List (List Byte) → RowGo
  | pos, [] => (fun _ => .ok time s) pos
  | pos, row :: r =>
    match s.kvPlace t.view t.id.part t.id.ctx 0 h (pos / 2 * 2 ^ 16 + pos % 2 * 2 ^ 15) rb true with
    | .raise x => .raise x
    | .wait id s => .move id s
    | .at_ pa s =>
      match s.runWrite c t time (cutLines pa row) with
      | .ok time s => s.rowsWrite c t h rb time (pos + 1) r
      | x => x

/-- Bytes at a physical address of a KV page, inside one line, for a unit; the page is met as any other memory is (R65, R66, R94, R183). -/
def State.unitPage (s : State) (g : Agent) (pa n : Nat) : CardGo (List Byte × Bool) :=
  let read := fun (s : State) =>
    if s.unmapped pa then .fault 0x27 s
    else if !s.ownsAt g.part pa then .freeze (2 ^ 60 + pa) (s.rightAt pa) s
    else match s.unitRefused g pa with
      | some c => .fault c s
      | none => s.unitReadAt g (2 ^ 60 + pa) { len := n, pa := pa }
  match s.pageMove pa with
  | some m => match s.queueTurn m g.who (2 ^ 60 + pa % 65536) n with
    | (true, s) => read s
    | (false, s) => .wait (.move m.id) s
  | none => read s
/-- R405: the key rows of positions of an entry as a unit reads them, and where one was poisoned. -/
def State.keyRows (s : State) (g : Agent) (e : KvEnt) : List Nat → CardGo (List (List Nat) × Option Nat)
  | [] => .ok ([], none) s
  | p :: r =>
    let rd := (e.keyRun p).foldl (fun (acc : CardGo (List Byte × Bool)) q => acc.bind fun y s =>
      (s.unitPage g q.1 q.2).bind fun x s => .ok (y.1 ++ x.1, y.2 || x.2) s) (.ok ([], false) s)
    rd.bind fun y s => (s.keyRows g e r).bind fun l s => .ok (keyElems e.kfmt y.1 :: l.1, if y.2 then some (e.rowPa p 0 0) else l.2) s

/-- R403, R405: the centroid set a launch appends to, rebuilt when it is stale; and where a key that the rebuild reads was poisoned. -/
def State.freshCset (s : State) (c : Cur) (t : Team) (idx : Nat) (e : KvEnt) : CardGo (CSet × Option Nat) :=
  if s.csetStale t.view idx e then
    (s.keyRows (teamAgent c t) e (List.range (s.kvLen t.view idx e))).bind fun keys s => .ok (CSet.rebuild e.ncent keys.1, keys.2) s
  else .ok (s.csetOf t.view idx e, none) s

/-- `kvapp` (R626). DESIGN CHOICE: a rebuild that reads a poisoned key raises 0x88 in the team, and nothing is appended (log 232). -/
def execKvapp (z : BitVec 1) (d a b : BitVec 6) (s : State) : Host.Outcome State Fault Refusal :=
  withCur s fun c t =>
    let w := rdS t c b.toNat
    let src := bits w.toNat 20 0
    let n := bits w.toNat 44 32
    let h := rdS t c a.toNat
    if w.toNat / 2 ^ 45 ≠ 0 ∨ bits w.toNat 31 21 ≠ 0 ∨ src % 16 ≠ 0 ∨ n = 0 ∨ n > 4096 then badWord s c t w
    else withHandle s c t h 1 true none fun e =>
      let idx := hIdx h
      let rb := e.rowBytes
      let len := s.kvLen t.view idx e
      let cl := s.cluster t.id.cluster
      if !t.inStash src (2 * n * rb) then raiseW s c t 0x38 (infoSt t.id.cluster src 1)
      else if !t.sync.stashDone then waitHere s c t .bank
      else if !s.mayClaim t e then pair s c t z d 4 0
      else if len + n > e.cap then pair s c t z d 6 0
      else if (granules src (2 * n * rb)).any (stashPois cl) then
        raiseW s c t 0x88 (s.infoP { kind := .load, va := src, esz := 1 } src 3)
      else
        withGo c t .load src (if e.ncent = 0 then .ok ({}, none) s else s.freshCset c t idx e) fun cs s t =>
          if let some pa := cs.2 then raiseW s c t 0x88 (s.infoP { kind := .load, va := src, esz := 1 } pa 0) else
          let cs := cs.1
          let rows := (List.range (2 * n)).map fun i => stashBytes (s.cluster t.id.cluster) (src + i * rb) rb
          let wait := fun (s : State) (w : AccWait) => let s := s.modFetch (.unit c.team) fun (f : Fetch) => { f with wait := w }; waitHere s c (s.team c.team) .fetch
          match s.rowsWait c.team t h rb (2 * len) (2 * n) with
          | (some id, s) => wait s (.move id)
          | (none, s) =>
          match s.rowsWrite c t h rb s.now (2 * len) rows with
          | .raise r => s.raise c t r (govTeam t c)
          | .move id s => wait s (.move id)
          | .stall => waitHere s c t .port
          | .held ln => wait (s.snoopOut ln) .snoop
          | .freeze pa => s.freezeAt c t pa (s.rightAt pa)
          | .lost => { s with cur := none }.abortTeam c.team t 0x8A
          | .full =>
            let ab := (s.launch t.id.launch).head.abortOvf
            if !ab && s.olderThan t.view then waitHere s c t .room else { s with cur := none }.abortTeam c.team t 0x4F
          | .ok time s =>
            let keys := (List.range n).map fun i => keyElems e.kfmt ((rows[2 * i]?).getD [])
            let cs := keys.zipIdx.foldl (fun cs p => cs.add e.ncent (len + p.2) p.1) cs
            let s := (s.addCompl c.team t.sync.nextEntry (src + 2 ^ 57) (some time)).2
            let s := (s.claim t idx).modView t.id.launch idx fun x =>
              { x with len := some (len + n), cset := if e.ncent = 0 then x.cset else some cs, stale := if e.ncent = 0 then x.stale else some false }
            pair s c (s.team c.team) z d 0 (BitVec.ofNat 64 len)

/-- `kvtrunc` (R627). -/
def execKvtrunc (z : BitVec 1) (d a b : BitVec 6) (s : State) : Host.Outcome State Fault Refusal :=
  withCur s fun c t =>
    let w := rdS t c b.toNat
    let h := rdS t c a.toNat
    if w.toNat / 2 ^ 25 ≠ 0 then badWord s c t w
    else withHandle s c t h 1 true none fun e =>
      let idx := hIdx h
      if !s.mayClaim t e then pair s c t z d 4 0
      else
        let len := min (s.kvLen t.view idx e) w.toNat
        let s := (s.claim t idx).modView t.id.launch idx fun x =>
          { x with len := some len, cut := some (match x.cut with | some y => min y w.toNat | none => w.toNat), stale := some true }
        pair s c t z d 0 (mkHandle (hPart h) (e.gen + 1) idx (hWr h) (hBound h))

/-! ## Forks (R398, R629) -/

/-- `kvfork` (R629). -/
def execKvfork (z : BitVec 1) (d a b : BitVec 6) (s : State) : Host.Outcome State Fault Refusal :=
  withCur s fun c t =>
    let w := rdS t c b.toNat
    let h := rdS t c a.toNat
    let p := w.toNat
    if p / 2 ^ 25 ≠ 0 then badWord s c t w
    else withHandle s c t h 1 false none fun e =>
      if p > s.kvLen t.view (hIdx h) e then raiseW s c t 0x6C (infoH h p 0 7)
      else match s.newIdx t.id.part 1 with
        | none => pair s c t z d 5 0
        | some (i, s) =>
          let n := (p + 2 ^ e.ptok - 1) / 2 ^ e.ptok
          let pages := e.pages.take n
          let gen := ((s.part t.id.part).kvEnt i).gen
          let x : KvEnt := { kind := 1, gen := gen, ctx := t.id.ctx, len := p, cap := n * 2 ^ e.ptok, ref := 1, rowg := e.rowg, ptok := e.ptok
                             ncent := e.ncent, kfmt := e.kfmt, cstale := true, cow := true, pages := pages }
          let s := (pair s c t z d 0 (mkHandle t.id.part gen i true 0x1FFFFFF)).putKv t.id.part i x
          (s.modKv t.id.part (hIdx h) fun e => { e with cow := true }).modPart t.id.part fun P =>
            pages.foldl (fun P pa => P.modPage pa fun k => { k with share := k.share + 1 }) P

/-! ## Prefix index (R400 to R402, R630) -/

/-- R630: the operand word of a lookup: stash address and length. -/
def lookWord (s : State) (c : Cur) (t : Team) (b : BitVec 6) (go : Nat → Nat → List (BitVec 32) → State) : State :=
  let w := rdS t c b.toNat
  let src := bits w.toNat 20 0
  let n := bits w.toNat 56 32
  let m := min n 4096
  if w.toNat / 2 ^ 57 ≠ 0 ∨ bits w.toNat 31 21 ≠ 0 ∨ src % 16 ≠ 0 ∨ n = 0 then badWord s c t w
  else if !t.inStash src (4 * m) then raiseW s c t 0x38 (infoSt t.id.cluster src 1)
  else if !t.sync.stashDone then waitHere s c t .bank
  else if (granules src (4 * m)).any (stashPois (s.cluster t.id.cluster)) then
    raiseW s c t 0x88 (s.infoP { kind := .load, va := src, esz := 1 } src 3)
  else go src n ((List.range m).map fun i => BitVec.ofNat 32 (leNat (stashBytes (s.cluster t.id.cluster) (src + 4 * i) 4)))

/-- The ways that hold a hash, lowest way first. -/
def Part.waysAt (P : Part) (h : Word) : List Prefix := (P.pfx.filter fun w => w.1 / 4 = h.toNat % 65536 && w.2.hash = h).map Prod.snd
/-- R401: the compared ids of a way and a string agree. -/
def Prefix.agrees (w : Prefix) (n : Nat) (ids : List (BitVec 32)) : Bool :=
  let m := min (min n w.len) 4096
  w.ids.take m = ids.take m

/-- `kvlook` (R401, R630). -/
def execKvlook (z : BitVec 1) (d a b : BitVec 6) (s : State) : Host.Outcome State Fault Refusal :=
  withCur s fun c t => lookWord s c t b fun _ n ids =>
    let h := rdS t c a.toNat
    let ws := (s.part t.id.part).waysAt h
    if ws = [] then pair s c t z d 0 0
    else match ws.find? fun w => w.agrees n ids with
      | none => pair s c t z d 3 0
      | some w =>
        let res := if w.len > 4096 ∧ n > 4096 then 2 else 1
        (pair s c t z d res (mkHandle t.id.part w.gen w.idx false (min n w.len))).modKv t.id.part w.idx fun e => { e with ref := e.ref + 1 }

/-- `kvlook.ins` (R402, R630). -/
def execKvlookIns (z : BitVec 1) (d a b : BitVec 6) (s : State) : Host.Outcome State Fault Refusal :=
  withCur s fun c t => lookWord s c t b fun _ n ids =>
    let h := rdS t c a.toNat
    let hd := rdS t c (d.toNat + 1)
    let fin := fun (s : State) (x : Nat) => finishLong s c t z [.s d.toNat (BitVec.ofNat 64 x)] 1
    match s.kvDeref0 t.id.part t.id.ctx hd 1 false none with
    | .error (x, k) => raiseW s c t x (infoH hd 0 0 k)
    | .ok e =>
      let P := s.part t.id.part
      let bkt := h.toNat % 65536
      if n > e.len then raiseW s c t 0x6C (infoH hd n 0 7)
      else if (P.waysAt h).any fun w => !(w.len = n && w.ids = ids) then fin s 3
      else if (P.waysAt h) ≠ [] then fin s 0
      else match (List.range 4).find? fun w => (Tbl.get? P.pfx (4 * bkt + w)).isNone with
        | none => fin s 5
        | some w =>
          let x : Prefix := { hash := h, idx := hIdx hd, gen := hGen hd, len := n, ids := ids }
          ((fin s 0).modPart t.id.part fun P => { P with pfx := Tbl.put P.pfx (4 * bkt + w) x }).modKv t.id.part (hIdx hd) fun e => { e with pidx := some (bkt, w) }

/-! ## Pages (R394, R395, R399, R631) -/

/-- `kvalloc.grow` (R395, R631). -/
def execKvallocGrow (z : BitVec 1) (d a b : BitVec 6) (s : State) : Host.Outcome State Fault Refusal :=
  withCur s fun c t =>
    let w := rdS t c b.toNat
    let n := bits w.toNat 31 0
    let h := rdS t c a.toNat
    let fin := fun (s : State) (x : Nat) => finishLong s c t z [.s d.toNat (BitVec.ofNat 64 x)] 1
    if bits w.toNat 61 32 ≠ 0 ∨ n = 0 then badWord s c t w
    else withHandle s c t h 1 true none fun e =>
      let rem := bit w.toNat 62
      let P := s.part t.id.part
      let k := (e.cap + n + 2 ^ e.ptok - 1) / 2 ^ e.ptok
      let free := P.freePages rem
      let need := k - e.pages.length
      if k * 2 ^ e.ptok > 0x1FFFFFF then fin s 3
      else if free.length < need then fin s 2
      else if free.length - need < P.reserve rem ∧ !bit w.toNat 63 then fin s 1
      else
        let new := free.take need
        ((fin s 0).modKv t.id.part (hIdx h) fun e => { e with cap := k * 2 ^ e.ptok, pages := e.pages ++ new }).modPart t.id.part fun P =>
          new.foldl (fun P pa => P.modPage pa fun x => { x with share := 1, priv := false }) P

/-- R394: the tier of a 64 KiB block: local memory, or a bulk-tensor extent of the pool. -/
def State.tierOf (s : State) (pa : Nat) : Option Bool :=
  if s.isLocal pa then some false
  else match s.poolEnt pa with | some e => if e.bulk then some true else none | none => none
/-- The blocks of translated pages: each of 16 consecutive 4 KiB pages, aligned. -/
def blocksOf : Nat → List Nat → Option (List Nat)
  | 0, _ => some []
  | n + 1, l =>
    match l.head? with
    | none => some []
    | some b =>
      if b % 65536 = 0 ∧ l.take 16 = (List.range 16).map (fun i => b + 4096 * i) then (blocksOf n (l.drop 16)).map fun r => b :: r else none

/-- `kvalloc.grant` (R394, R631). -/
def execKvallocGrant (z : BitVec 1) (d a b : BitVec 6) (s : State) : Host.Outcome State Fault Refusal :=
  withCur s fun c t =>
    let va := (rdS t c a.toNat).toNat
    let w := rdS t c b.toNat
    let n := w.toNat
    if va % 65536 ≠ 0 then raiseW s c t 0x24 (({ kind := .store, va := va, esz := 1 } : Acc).infoT0)
    else if n = 0 ∨ n % 65536 ≠ 0 then badWord s c t w
    else if va + n > 2 ^ 57 then raiseW s c t 0x20 (({ kind := .store, va := va, esz := 1 } : Acc).infoT0)
    else match footCheck (s.footOf t.view) .store false va n with
      | .error x => raiseW s c t x (({ kind := .store, va := va, esz := 1 } : Acc).infoT0)
      | .ok _ =>
        withGo c t .store va (s.xlatAll (teamAgent c t) ((pagesOf va n).map fun p => (p, true))) fun l s t =>
          match (if l.any fun x => x.host then none else blocksOf l.length (l.map fun x => x.pa)).bind fun bs => bs.mapM fun pa => (s.tierOf pa).map fun r => (pa, r) with
          | none => badWord s c t w
          | some bs =>
            (finishLong s c t z [.s d.toNat 0] 1).modPart t.id.part fun P =>
              { P with pages := bs.foldl (fun q x => if (Tbl.get? q x.1).isSome then q else Tbl.put q x.1 { remote := x.2, share := 0 }) P.pages }

/-- `kvalloc.rsv` (R395, R631). -/
def execKvallocRsv (z : BitVec 1) (d a b : BitVec 6) (s : State) : Host.Outcome State Fault Refusal :=
  withCur s fun c t =>
    let x := rdS t c a.toNat
    let y := rdS t c b.toNat
    if x.toNat ≥ 2 ^ 32 then badWord s c t x
    else if y.toNat ≥ 2 ^ 32 then badWord s c t y
    else (finishLong s c t z [.s d.toNat 0] 1).modPart t.id.part fun P => { P with resL := x.toNat, resR := y.toNat }

/-- `kvalloc.dem` (R399, R631): the move starts; its steps are those of a tier move. -/
def execKvallocDem (z : BitVec 1) (d a b : BitVec 6) (s : State) : Host.Outcome State Fault Refusal :=
  withCur s fun c t =>
    let h := rdS t c a.toNat
    let n := (rdS t c b.toNat).toNat
    let fin := fun (s : State) (x : Nat) => finishLong s c t z [.s d.toNat (BitVec.ofNat 64 x)] 1
    withHandle s c t h 1 true none fun e =>
      if n ≥ e.cap / 2 ^ e.ptok then raiseW s c t 0x6C (infoH h (n * 2 ^ e.ptok) 0 7)
      else
        let P := s.part t.id.part
        let old := e.pageAt n
        let k := Tbl.getD P.pages old { remote := false, share := 0 }
        if k.remote || s.xlat.moves.any (fun m => m.kv.isSome && m.old = old) then fin s 6
        else match P.freePages true with
          | [] => fin s 2
          | new :: _ =>
            let (id, s) := (fin s 0).take
            let m : Move := { id := id, pf := false, ctx := t.id.ctx, va := 0, lg := 16, old := old, new := new, phase := 2, ta := s.now, stamp := id
                              kv := some (t.id.part, hIdx h, n) }
            { s with xlat := { s.xlat with moves := s.xlat.moves ++ [m] } }.modPart t.id.part fun P => P.modPage new fun x => { x with moving := true }

end Sys2Proof.Machine
end

