-- ==== Sys2Proof/Machine/Streams.lean ====
section
/-! DEFINITION. Duplex streams: the instructions of major 0x23 and the stream sequencer (R408 to R416, R628, R632 to R637). -/

namespace Sys2Proof.Machine

def maxPos : Nat := 0x1FFFFFF

/-! ## Views and windows -/

/-- R412, R634: G in a view. -/
def State.streamG (s : State) (v : View) (p idx : Nat) : Nat := (s.kvLook v idx KvView.g).getD ((s.part p).stm idx).gcur

/-- R409: the window copies of `dseq`, H and G, written outside any launch; a window outside the die's memory takes none. -/
def State.writeWindow (s : State) (p idx : Nat) : State :=
  let d := (s.part p).stm idx
  match s.localPa p d.ctx d.cwin with
  | some pa => (s.commitBytes none (pa + 4) (leBytes 4 d.dseq ++ leBytes 4 d.hcur ++ leBytes 4 d.gcur) false).2
  | none => s

/-- R628: the launch that holds the append claim of an entry to truncate aborts. -/
def State.freeClaim (s : State) (p i : Nat) : State :=
  match ((s.part p).kvEnt i).claim with
  | some lk => (s.abortLaunch lk 0x74 1).modKv p i fun e => { e with claim := none }
  | none => s
/-- R413 step 3, R635: truncate the handles of a stream at a position. A handle whose generation has passed is left alone.
`abort` tells whether claim holders abort. -/
def State.truncStream (s : State) (p idx c : Nat) (abort : Bool) : State :=
  let d := (s.part p).stm idx
  let r := d.kvh.zipIdx.foldl (fun (r : List Word × State) h =>
    let e := (r.2.part p).kvEnt (hIdx h.1)
    if d.nkv ≤ h.2 ∨ hPart h.1 ≠ p ∨ e.kind ≠ 1 ∨ e.gen ≠ hGen h.1 then (r.1 ++ [h.1], r.2)
    else
      let s := if abort then r.2.freeClaim p (hIdx h.1) else r.2
      let s := s.modPart p fun P => P.truncTo (hIdx h.1) c 0
      (r.1 ++ [mkHandle p ((s.part p).kvEnt (hIdx h.1)).gen (hIdx h.1) (hWr h.1) (hBound h.1)], s)) (([] : List Word), s)
  r.2.modStm p idx fun d => { d with kvh := r.1 }

/-! ## Instructions (R632 to R637) -/

/-- R632: the checks of the handle, the binding and the position operand. -/
def withStream (s : State) (c : Cur) (t : Team) (a b : BitVec 6) (pos : Bool) (go : Nat → Stm → State) : State :=
  let h := rdS t c a.toNat
  withHandle s c t h 2 false none fun e =>
    let w := rdS t c b.toNat
    if t.id.foreign ∨ (s.launch t.id.launch).head.ds ≠ some (hIdx h, e.gen) then s.raiseX c t 0x70
    else if pos ∧ w.toNat / 2 ^ 25 ≠ 0 then badWord s c t w
    else go (hIdx h) ((s.part t.id.part).stm (hIdx h))

/-- R410: a frame as it is delivered. -/
def FrameIn.bits (f : FrameIn) : Nat :=
  let n := f.data.toNat
  n - Machine.bits n 120 96 * 2 ^ 96 - Machine.bits n 92 91 * 2 ^ 91 + f.cut % 2 ^ 25 * 2 ^ 96 + b2n f.nosnap * 2 ^ 92 + b2n f.late * 2 ^ 91

/-- R415: the delivery queue loses its first frame, and the window tells. -/
def State.frameTaken (s : State) (p idx : Nat) : State :=
  (s.modStm p idx fun d => { d with queue := d.queue.tail, dseq := (d.dseq + 1) % 2 ^ 32 }).writeWindow p idx

/-- `dsin` (R633, R415, R416). A late frame under `latep` 0 is consumed as its trap forms, so `dsin` raises it when the team's
earlier instructions are done. DEDUCED (log 254). -/
def execDsin (z : BitVec 1) (d a b : BitVec 6) (s : State) : Host.Outcome State Fault Refusal :=
  withCur s fun c t => withStream s c t a b false fun idx ds =>
    let addr := (rdS t c b.toNat).toNat
    if addr % 64 ≠ 0 then raiseW s c t 0x3A (infoSt t.id.cluster addr 1)
    else if !t.inStash addr 64 then raiseW s c t 0x38 (infoSt t.id.cluster addr 1)
    else if !t.sync.stashDone then waitHere s c t .bank
    else match ds.queue with
      | [] => waitHere s c t .dsin
      | f :: _ =>
        let late := f.late && ds.latep = 0
        if late && !t.sync.rq.all (·.done) then waitHere s c t .late
        else
        let s := s.frameTaken t.id.part idx
        if late then
          raiseW s c t 0x71 ((List.range 8).map fun i => BitVec.ofNat 64 (Machine.bits f.bits (64 * i + 63) (64 * i)))
        else
          let s := (s.modCluster t.id.cluster fun cl =>
            let cl := stashPuts cl addr (leBytes 64 f.bits)
            let cl := (granules addr 64).foldl (fun cl x => setStashPois (setFull cl x true) x false) cl
            { cl with maps := Tbl.mapV cl.maps fun _ x =>
                if c.team ∈ x.teams ∧ x.base ≤ addr ∧ addr < x.base + x.len then x.touch (addr - x.base) 64 else x }).modCore t.id.core fun k => { k with lc := [] }
          finishLong s c t z [.s d.toNat (BitVec.ofNat 64 (Machine.bits f.bits 31 0))] 1

/-- `dsgen` (R634). -/
def execDsgen (z : BitVec 1) (d a b : BitVec 6) (s : State) : Host.Outcome State Fault Refusal :=
  withCur s fun c t => withStream s c t a b true fun idx _ =>
    let g := s.streamG t.view t.id.part idx + (rdS t c b.toNat).toNat
    if g > maxPos then raiseW s c t 0x6B (infoH (rdS t c a.toNat) g 0 6)
    else (finishLong s c t z [.s d.toNat (BitVec.ofNat 64 g)] 1).modView t.id.launch idx fun x => { x with g := some g }

/-- `dstrunc` (R635). -/
def execDstrunc (z : BitVec 1) (d a b : BitVec 6) (s : State) : Host.Outcome State Fault Refusal :=
  withCur s fun c t => withStream s c t a b true fun idx ds =>
    let p := (rdS t c b.toNat).toNat
    let P := s.part t.id.part
    let hs := (ds.kvh.take ds.nkv).filter fun h => (P.kvEnt (hIdx h)).kind = 1 && (P.kvEnt (hIdx h)).gen = hGen h
    if p > s.streamG t.view t.id.part idx then raiseW s c t 0x6B (infoH (rdS t c a.toNat) p 0 6)
    else if !(hs.all fun h => s.mayClaim t (P.kvEnt (hIdx h))) then finishLong s c t z [.s d.toNat 4] 1
    else
      let s := hs.foldl (fun s h => s.claim t (hIdx h)) (finishLong s c t z [.s d.toNat 0] 1)
      s.modView t.id.launch idx fun x => { x with g := some p, gcut := some (match x.gcut with | some y => min y p | none => p) }

/-- R636: the slot of a snapshot among the table words of the ring. -/
def snapSlot (ws : List Nat) (p : Nat) : Nat :=
  match ws.findIdx? fun w => bit w 63 && Machine.bits w 24 0 = p with
  | some i => i
  | none => match ws.findIdx? fun w => !bit w 63 with
    | some i => i
    | none => (ws.zipIdx.foldl (fun (b : Option (Nat × Nat)) x =>
        match b with
        | some y => if Machine.bits x.1 24 0 < y.1 then some (Machine.bits x.1 24 0, x.2) else b
        | none => some (Machine.bits x.1 24 0, x.2)) none).elim 0 Prod.snd
def wordsOf (bs : List Byte) : List Nat := (List.range (bs.length / 8)).map fun i => leNat ((bs.drop (8 * i)).take 8)

/-- `dssnap` (R636); a poisoned table is consumed as a load consumes it (R78). -/
def execDssnap (z : BitVec 1) (a b : BitVec 6) (s : State) : Host.Outcome State Fault Refusal :=
  withCur s fun c t => withStream s c t a b true fun idx ds =>
    let p := (rdS t c b.toNat).toNat
    if ds.snn = 0 then s.raiseX c t 0x75
    else if p > s.streamG t.view t.id.part idx then raiseW s c t 0x6B (infoH (rdS t c a.toNat) p 0 6)
    else if !t.sync.earlierDone t.sync.nextEntry then waitHere s c t .rel
    else if !s.cardRoom c.team t then waitHere s c t .enqRoom
    else withGo c t .load ds.snbase (s.unitRead (teamAgent c t) ds.snbase (8 * ds.snn)) fun x s t =>
      if x.2 then raiseW s c t 0x88 (s.infoP { kind := .load, va := ds.snbase, esz := 1 } 0 0) else
      let i := snapSlot (wordsOf x.1) p
      let tag := (s.cluster t.id.cluster).nextTag % 65536
      let k : Card := { tag := tag, kind := 0, bits := 0, team := c.team, launch := t.id.launch, part := t.id.part, ctx := t.id.ctx, fmt := t.regs.fmt
                        entry := t.sync.nextEntry
                        work := [ds.stbase, ds.snbase + 512 + i * ds.stlen, ds.stlen / 64, ds.snbase + 8 * i, 2 ^ 63 + p] }
      let s := s.modCluster t.id.cluster fun q => { q with cards := q.cards ++ [k], nextTag := q.nextTag + 1, open_ := q.open_ ++ [tag] }
      finishShort s c { t with sync := { t.sync with park := if ds.stlen = 0 then t.sync.park else .snap tag } } z [] 1

/-- `dsplay` (R637). -/
def execDsplay (z : BitVec 1) (a b : BitVec 6) (s : State) : Host.Outcome State Fault Refusal :=
  withCur s fun c t =>
    let h := rdS t c a.toNat
    withHandle s c t h 2 true none fun _ =>
      let ds := (s.part t.id.part).stm (hIdx h)
      withGo c t .store ds.cwin (s.unitWrite (teamAgent c t) (some t.id.core) ds.cwin (leBytes 4 ((rdS t c b.toNat).toNat % 2 ^ 32))) fun time s t =>
        let s := (s.addCompl c.team t.sync.nextEntry ds.cwin (some time)).2
        finishShort s c (s.team c.team) z [] 1

/-! ## The stream sequencer (R411 to R416) -/

def State.stmAgent (s : State) (p idx : Nat) : Agent := s.agent (.stream p idx) ((s.part p).stm idx).ctx none
/-- R411: the address of the slot of the next frame. -/
def Stm.slotVa (d : Stm) : Nat := d.frbase + 64 * (d.fseq % 2 ^ d.frlg)
/-- A read of a stream whose failure counts as nothing read; a violation is recorded (R95). DESIGN CHOICE: poison counts as nothing read too (log
233). -/
def CardGo.orNone {α : Type} (g : Agent) (x : CardGo (α × Bool)) : CardGo (Option (α × Bool)) :=
  match x with
  | .ok a s => .ok (if a.2 then none else some a) s
  | .wait w s => .wait w s
  | .fault _ s => .ok none s
  | .freeze va r s => .ok none (s.violate g.ctx 1 g.cl va r)

/-- R413: no event stands before the order point's next one. -/
def State.orderFree (s : State) (p idx : Nat) : Bool :=
  let d := (s.part p).stm idx
  d.restoring.isNone && (match d.accepted with
    | some lk => (match Tbl.get? s.launches lk with | some l => !l.uncommitted | none => true)
    | none => true)

/-- R413 steps 5 and 6: the cursors, and the frame becomes available. -/
def State.releaseFrame (s : State) (p idx : Nat) (f : FrameIn) : State :=
  (s.modStm p idx fun d => { d with gcur := f.cut, hcur := f.cut, restoring := none, queue := d.queue ++ [f], fetch := {} }).writeWindow p idx

/-- R413 steps 1 to 3: mark, abort and truncate; then the restore, or at once steps 5 and 6. -/
def State.bargeIn (s : State) (p idx : Nat) (f : FrameIn) (pcur : Nat) (ws : List Nat) : State :=
  let d := (s.part p).stm idx
  let m := min (min (Machine.bits f.data.toNat 56 32) pcur) d.gcur
  let best := ws.zipIdx.foldl (fun (b : Option (Nat × Nat)) x =>
    let q := Machine.bits x.1 24 0
    if bit x.1 63 && decide (q ≤ m) && (match b with | some y => decide (y.1 < q) | none => true) then some (q, x.2) else b) none
  let cut := match best with | some y => y.1 | none => m
  let f := { f with cut := cut, nosnap := best.isNone }
  let s := s.modStm p idx fun d => { d with pcur := pcur }
  let s := (s.generating p idx d.gen).foldl (fun s l => if s.streamG (.launch l.1) p idx > cut then s.abortLaunch l.1 0x74 1 else s) s
  let s := s.truncStream p idx cut true
  match best with
  | some y => s.modStm p idx fun d => { d with restoring := some (f, y.2, 0), fetch := {} }
  | none => s.releaseFrame p idx f

/-- R411, R413, R416: take a frame whose number has come. -/
def State.takeFrame (s : State) (p idx : Nat) (data : Line) (pcur : Nat) (ws : List Nat) : State :=
  let d := (s.part p).stm idx
  let f : FrameIn := { data := data, cut := 0, nosnap := false, late := decide (Machine.bits data.toNat 56 32 < d.hcur) }
  let s := s.modStm p idx fun d => { d with fseq := (d.fseq + 1) % 2 ^ 32, fetch := {}, pollAt := s.now + 64, pollInt := 64 }
  if !f.late && bit data.toNat 90 then s.bargeIn p idx f pcur ws
  else s.modStm p idx fun d => { d with queue := d.queue ++ [f] }

/-- The slot of the next frame, where it lies in local memory and can be monitored. -/
def State.slotPa (s : State) (p idx : Nat) : Option Nat := s.localPa p ((s.part p).stm idx).ctx ((s.part p).stm idx).slotVa
/-- R411: a frame can be taken, or a ring that cannot be monitored is polled. -/
def State.mayTake (s : State) (p idx : Nat) : Bool :=
  let d := (s.part p).stm idx
  (Tbl.get? (s.part p).stms idx).isSome && s.orderFree p idx && s.fetchFree (.stream p idx) &&
    (match s.slotPa p idx with
     | some pa => memNat s.mem pa 4 = d.fseq && !s.poisoned pa
     | none => decide (d.pollAt ≤ s.now) || d.fetch.got ≠ [])

/-- `STREAM_FRAME_TAKE`. -/
def execStreamFrameTake (s : State) : Host.Outcome State Fault Refusal :=
  let p := s.arg.n0
  let idx := s.arg.n1
  let d := (s.part p).stm idx
  let g := s.stmAgent p idx
  .next <|
    if !s.mayTake p idx then s
    else
      let go := ((s.unitRead g d.slotVa 64).orNone g).bind fun x s =>
        match x with
        | none => CardGo.ok none s
        | some x =>
          if Machine.bits (leNat x.1) 31 0 ≠ d.fseq then .ok none s
          else if !bit (leNat x.1) 90 then .ok (some (leNat x.1, d.pcur, [])) s
          else ((s.unitRead g d.cwin 4).orNone g).bind fun w s =>
            (if d.snn = 0 then CardGo.ok none s else (s.unitRead g d.snbase (8 * d.snn)).orNone g).bind fun l s =>
              .ok (some (leNat x.1, (match w with | some y => min (leNat y.1) maxPos | none => d.pcur), (match l with | some y => wordsOf y.1 | none => []))) s
      match go with
      | .ok (some (n, pcur, ws)) s => s.takeFrame p idx (BitVec.ofNat 512 n) pcur ws
      | .ok none s => s.modStm p idx fun d => { d with fetch := {}, pollAt := s.now + min 4096 (2 * d.pollInt), pollInt := min 4096 (2 * d.pollInt) }
      | .wait w s => s.modFetch (.stream p idx) fun f => { f with wait := w }
      | .fault _ s => s
      | .freeze _ _ s => s

/-- R413 step 4: one line after another of the snapshot's slot goes over the state region, outside any launch. A line whose
translation fails is passed over. -/
def State.restoreLines (s : State) (p idx : Nat) : Nat → State
  | 0 => s
  | n + 1 =>
    let d := (s.part p).stm idx
    match d.restoring with
    | none => s
    | some (f, slot, i) =>
      if d.stlen / 64 ≤ i then s.releaseFrame p idx f
      else
        let g := s.stmAgent p idx
        let next := fun (s : State) => s.modStm p idx fun d => { d with restoring := some (f, slot, i + 1), fetch := {} }
        match (s.unitRead g (d.snbase + 512 + slot * d.stlen + 64 * i) 64).bind fun x s => s.unitWrite g none (d.stbase + 64 * i) x.1 x.2 with
        | .ok _ s => (next s).restoreLines p idx n
        | .wait w s => s.modFetch (.stream p idx) fun f => { f with wait := w }
        | .fault _ s => (next s).restoreLines p idx n
        | .freeze va r s => (next (s.violate d.ctx 1 g.cl va r)).restoreLines p idx n

def State.mayRestore (s : State) (p idx : Nat) : Bool := ((s.part p).stm idx).restoring.isSome && s.fetchFree (.stream p idx)
/-- `SNAPSHOT_RESTORE_DONE`. -/
def execSnapshotRestoreDone (s : State) : Host.Outcome State Fault Refusal :=
  let p := s.arg.n0
  let idx := s.arg.n1
  .next (if s.mayRestore p idx then s.restoreLines p idx (((s.part p).stm idx).stlen / 64 + 1) else s)

/-- What the stream sequencers may do now. -/
def State.streamEvents (s : State) : List (Instr × Arg) :=
  s.parts.flatMap fun p => p.2.stms.flatMap fun d =>
    let a : Arg := { n0 := p.1, n1 := d.1 }
    (if s.mayTake p.1 d.1 then [(Instr.streamFrameTake, a)] else []) ++ (if s.mayRestore p.1 d.1 then [(Instr.snapshotRestoreDone, a)] else [])

end Sys2Proof.Machine
end

