-- ==== Sys2Proof/Machine/Paging.lean ====
section
/-! DEFINITION. The events of translation and tiering: granule ownership, invalidations, walks, host translations, page requests
and tier moves (R150 to R186, R399). -/

namespace Sys2Proof.Machine

/-! ## What waits for a translation -/

/-- Accesses of teams that wait for something: team, entry, access. -/
def State.accsWaiting (s : State) (p : AccWait → Bool) : List (Nat × Nat × Acc) :=
  s.teams.flatMap fun t => t.2.sync.rq.flatMap fun e => (e.accs.filter fun a => p a.wait).map fun a => (t.1, e.id, a)
/-- Cards that wait for something: cluster and card. -/
def State.cardsWaiting (s : State) (p : AccWait → Bool) : List (Nat × Card) :=
  s.clusters.flatMap fun c => (c.2.cards.filter fun k => p k.wait).map fun k => (c.1, k)
/-- Other units whose reading waits for something. -/
def State.unitsWaiting (s : State) (p : AccWait → Bool) : List Serves := s.fetchers.filter fun w => p (s.fetchOf w).wait

/-- The context in which a unit reads, and the cluster whose TLB it uses. -/
def State.unitCtx (s : State) : Serves → Nat
  | .seq c _ => c
  | .aperture c _ => c
  | .crec c => c
  | .stream p i => ((s.part p).stm i).ctx
  | .unit k => (s.team k).id.ctx
  | .held lk _ => (s.launch lk).head.ctx
  | _ => 0
def State.unitCl (s : State) (w : Serves) : Nat :=
  match w with
  | .unit k => (s.team k).id.cluster
  | w => (s.agent w (s.unitCtx w) none).cl

/-- Accesses that waited take their translation step again; cards and units find by themselves that their wait is over. -/
def State.goOn (s : State) (p : AccWait → Bool) : State :=
  (s.accsWaiting p).foldl (fun s x => s.modAcc x.1 x.2.1 x.2.2.lane fun a => { a with wait := .xlat }) s
/-- Everything that waited for one thing waits for what `f` makes of it, by write or read. -/
def State.waitFor (s : State) (p : AccWait → Bool) (f : State → Bool → AccWait × State) : State :=
  let s := (s.accsWaiting p).foldl (fun s x =>
    let (w, s) := f s x.2.2.kind.writes
    s.modAcc x.1 x.2.1 x.2.2.lane fun a => { a with wait := w }) s
  let s := (s.cardsWaiting p).foldl (fun s x =>
    let (w, s) := f s (x.2.kind = 0 && copyOut x.2.bits)
    s.modCard x.1 x.2.tag fun k => { k with wait := w }) s
  (s.unitsWaiting p).foldl (fun s x => let (w, s) := f s (match x with | .crec _ => true | .held _ _ => true | _ => false); s.modFetch x fun y => { y with wait := w }) s
/-- A cause for everything that waited: raised in teams, in a card's status, and noted for a unit; with the level and entry of a walk or the
status of a completion for the information words (R167, R713). -/
def State.failAll (s : State) (p : AccWait → Bool) (cause : Nat) (at_ : Option (Nat × Nat)) : State :=
  let s := (s.accsWaiting p).foldl (fun s x => (s.settleAcc x.1 x.2.1 x.2.2 (.raise { cause := cause, lane := x.2.2.lane, info := x.2.2.infoBad at_ })).settle x.1) s
  let s := (s.cardsWaiting p).foldl (fun s x => s.cardFault x.1 x.2.tag cause) s
  (s.unitsWaiting p).foldl (fun s x => s.modFetch x fun y => { y with wait := .ready, bad := some { cause := cause, at_ := at_ } }) s
/-- R94 to R96, R166: a violation is charged to the access that caused the walk; what else waited goes on. -/
def State.freezeAll (s : State) (p : AccWait → Bool) (who : Serves) (va right : Nat) : State :=
  let s := ((s.accsWaiting p).filter fun x => who = .acc x.1 x.2.1 x.2.2.lane).foldl (fun s x => (s.settleAcc x.1 x.2.1 x.2.2 (.freeze x.2.2.va right)).settle x.1) s
  let s := ((s.cardsWaiting p).filter fun x => who = .card x.1 x.2.tag).foldl (fun s x => (s.modCard x.1 x.2.tag fun k => { k with wait := .ready }).cardFreeze x.1 x.2 va right) s
  let s := ((s.unitsWaiting p).filter fun x => who = x).foldl (fun s x => s.modFetch x fun y => { y with wait := .ready, bad := some { right := right } }) s
  s.goOn p
/-- R168: a translation fills the TLBs of what waited for it. -/
def State.fillAll (s : State) (p : AccWait → Bool) (va : Nat) (e : TlbEnt) : State :=
  let s := (s.accsWaiting p).foldl (fun s x => s.tlbFill (s.team x.1).id.core (e.region (if va / 2 ^ e.lg = x.2.2.va / 2 ^ e.lg then x.2.2.va else va))) s
  let cls := ((s.cardsWaiting p).map Prod.fst ++ (s.unitsWaiting p).map s.unitCl).dedup
  let s := cls.foldl (fun s c => s.modCluster c fun c => { c with tlb := tlbCluster c.tlb (e.region va) }) s
  s.goOn p

/-! ## Walks (R170) -/

def State.modWalk (s : State) (id : Nat) (f : Walk → Walk) : State :=
  { s with xlat := { s.xlat with walks := s.xlat.walks.map fun w => if w.id = id then f w else w } }
def State.dropWalk (s : State) (id : Nat) : State := { s with xlat := { s.xlat with walks := s.xlat.walks.filter fun w => w.id ≠ id } }
/-- Read a word of a table in the pool; a lost range reads zero. -/
def State.askTable (s : State) (p id pa : Nat) (put : State → Nat → State) : State :=
  match s.poolFor p pa with
  | some e => if e.lost then put s 0 else (s.askPool (.walk id) e pa .read false).2
  | none => put s 0

/-- R183: a walk of an address reaches a page whose moving translation it returns. -/
def State.walkMoves (s : State) (ctx va : Nat) : Bool := match s.movingAt ctx va with | some m => m.trans ≠ .miss | none => false
/-- R170, R162, R166, R183: what a walk that is complete does to what waits for it, and to other waiting misses that its page covers. -/
def State.walkDone (s : State) (w : Walk) : State :=
  let s := s.ctabKeep w.ctx
  let va := w.page * 4096
  let p := ((s.ctx w.ctx).part).getD 0
  let me := fun (x : AccWait) => x = .walk w.id
  match s.walk w.fetched p w.ctx va with
  | .need pa => s.askTable p w.id pa fun s v => s.modWalk w.id fun w => { w with fetched := Tbl.put w.fetched pa v }
  | .leaf e =>
    let ws := s.xlat.walks.filter fun x => x.ctx = w.ctx && decide (e.va ≤ x.page * 4096 ∧ x.page * 4096 < e.va + 2 ^ e.lg)
    ws.foldl (fun s x => (if s.walkMoves w.ctx va then s.goOn (· = .walk x.id) else s.fillAll (· = .walk x.id) (x.page * 4096) e).dropWalk x.id) s
  | .host => (s.waitFor me fun s _ => let (n, s) := s.joinAts w.ctx va; (.ats n, s)).dropWalk w.id
  | .fault c lv e => (s.failAll me c (some (lv, e))).dropWalk w.id
  | .violation pa => (s.freezeAll me w.by_ va (s.rightAt pa)).dropWalk w.id

/-- A walk that does not wait for a word of a table in the pool. -/
def State.mayWalk (s : State) (w : Walk) : Bool := s.xlat.reqs.all fun r => r.for_ ≠ .walk w.id
/-- `WALK_COMPLETE` (R170). -/
def execWalkComplete (s : State) : Host.Outcome State Fault Refusal :=
  .next (match s.xlat.walks.find? fun w => w.id = s.arg.n0 with
    | some w => if s.mayWalk w then s.walkDone w else s
    | none => s)

/-! ## Host translations and page requests (R175 to R178) -/

def State.dropReq (s : State) (tag : Nat) : State := { s with xlat := { s.xlat with reqs := s.xlat.reqs.filter fun r => r.tag ≠ tag } }

/-- R175: the translation the host reports for a page, at the size it reports and at most 1 GiB. -/
def hostEntry (ctx va hpa lg : Nat) (r w shared : Bool) : TlbEnt :=
  let big := max 12 lg
  let n := min big 30
  let b := va / 2 ^ n * 2 ^ n
  { ctx := ctx, va := b, lg := n, pa := hpa / 2 ^ big * 2 ^ big + (b - va / 2 ^ big * 2 ^ big), r := r, w := w, host := true, shared := shared }

/-- `ATS_TRANSLATION_COMPLETION` (R175, R176): translated, a page request, or the ATS completion error 0x2E. A unit that sends no
page requests finds its page absent (R711, R131). -/
def execAtsTranslationCompletion (s : State) : Host.Outcome State Fault Refusal :=
  .next <|
    match s.xlat.reqs.find? fun r => r.tag = s.arg.n0 with
    | some { for_ := .ats c, addr := pg, tag := tag, .. } =>
      let s := s.dropReq tag
      let me := fun (x : AccWait) => x = .ats tag
      match s.arg.ats with
      | .present hpa lg r w sh => s.fillAll me (pg * 4096) (hostEntry c (pg * 4096) hpa lg r w sh)
      | .error => s.failAll me 0x2E none
      | .notPresent =>
        let s := (s.unitsWaiting me).foldl (fun s x => match x with
          | .seq _ _ | .aperture _ _ => s.modFetch x fun y => { y with wait := .ready, bad := some { cause := 0x21 } }
          | _ => s) s
        if s.pasidDead c then s.failAll me 0x2B none
        else s.waitFor me fun s w =>
          let (g, s) := s.joinPri c (pg * 4096) w
          (.pri g, s)
    | _ => s

/-- R177: a group that has ended lets the next one go. -/
def State.endPri (s : State) (g : Nat) : State :=
  let rest := s.xlat.pris.filter fun r => r.id ≠ g
  match rest.find? fun r => !r.sent && (s.link hostLink).carries with
  | some r =>
    { s with xlat := { s.xlat with pris := rest.map fun (x : Pri) => if x.id = r.id then ({ x with sent := true } : Pri) else x } }.emit
      (.pri r.id (ctabPasid (s.ctabOf r.ctx)) (r.page * 4096) r.write)
  | none => { s with xlat := { s.xlat with pris := rest } }

/-- R178: the page requests not sent yet of contexts under a PASID for which none is sent any more fail. -/
def State.failUnsent (s : State) : State :=
  let gone := s.xlat.pris.filter fun r => !r.sent && s.pasidDead r.ctx
  let s := gone.foldl (fun s r => s.failAll (· = .pri r.id) 0x2B none) s
  { s with xlat := { s.xlat with pris := s.xlat.pris.filter fun r => r.sent || !s.pasidDead r.ctx } }
/-- `PRG_RESPONSE` (R178). -/
def execPrgResponse (s : State) : Host.Outcome State Fault Refusal :=
  .next <|
    match s.xlat.pris.find? fun r => r.id = s.arg.n0 && r.sent with
    | none => s
    | some g =>
      let me := fun (x : AccWait) => x = .pri g.id
      match s.arg.prg with
      | .success => (s.goOn me).endPri g.id
      | .invalid => (s.failAll me 0x2A none).endPri g.id
      | .failure => (((s.modCtx g.ctx fun x => { x with priDead := true }).failUnsent).endPri g.id).ctxFatal g.ctx 0x2B

/-! ## Invalidations (R171 to R173, R179) -/

/-- An access of a context below a number still uses a translation of some page of a range. -/
def State.usesOld (s : State) (stamp : Nat) (p : Team → Acc → Bool) : Bool :=
  s.teams.any fun t => t.2.sync.rq.any fun e => e.accs.any fun a => a.segs ≠ [] && !a.stash && decide (a.seq < stamp) && p t.2 a

/-- `TICTL_WRITE` (R172, R173): ignored while an invalidation runs. -/
def execTictlWrite (s : State) : Host.Outcome State Fault Refusal :=
  .next <|
    if s.xlat.invs.any fun i => !i.ats then s
    else
      let n := s.arg.v.toNat
      let (id, s) := s.take
      let i : Inval := { id := id, ats := false, ctx := bits n 9 0, va := bits s.xlat.tiva.toNat 56 12 * 4096, lg := max 12 (min 57 (bits s.xlat.tiva.toNat 5 0))
                         ta := s.now + 32, ctab := bit n 10 }
      { s with xlat := { s.xlat with invs := s.xlat.invs ++ [i] } }
/-- `ATS_INVALIDATION_REQUEST` (R179): at most 32 are queued; the port gives no credit for more. -/
def execAtsInvalidationRequest (s : State) : Host.Outcome State Fault Refusal :=
  .next <|
    if 32 ≤ (s.xlat.invs.filter fun i => i.ats).length then s
    else
      let (id, s) := s.take
      let i : Inval := { id := id, ats := true, ctx := s.arg.n0, va := s.arg.n1, lg := max 12 (min 57 s.arg.n2), ta := s.now + 32 }
      { s with xlat := { s.xlat with invs := s.xlat.invs ++ [i] } }

/-- R179: the contexts under a PASID. -/
def State.underPasid (s : State) (c pasid : Nat) : Bool := ctabPasv (s.ctabOf c) && ctabPasid (s.ctabOf c) = pasid
/-- The contexts and translations that an invalidation concerns. -/
def State.invHits (s : State) (i : Inval) (e : TlbEnt) : Bool :=
  e.inRange i.va i.lg && (if i.ats then e.host && s.underPasid e.ctx i.ctx else e.ctx = i.ctx)
/-- An address is in the range of an invalidation. -/
def Inval.holds (i : Inval) (va n : Nat) : Bool :=
  let b := i.va / 2 ^ i.lg * 2 ^ i.lg
  decide (va < b + 2 ^ i.lg ∧ b < va + n)

/-- R173: the walkers drop what they have read of a context's tables, and what they have asked for. -/
def State.dropFetched (s : State) (c : Nat) : State :=
  let ids := ((s.xlat.walks.filter fun w => w.ctx = c).map Walk.id) ++ (s.xlat.moves.filter fun m => m.ctx = c && m.phase = 0).map Move.id
  { s with xlat := { s.xlat with
      walks := s.xlat.walks.map fun (w : Walk) => if w.ctx = c then ({ w with fetched := [] } : Walk) else w
      moves := s.xlat.moves.map fun (m : Move) => if m.ctx = c ∧ m.phase = 0 then ({ m with fetched := [] } : Move) else m
      reqs := s.xlat.reqs.map fun (r : Req) => match r.for_ with | .walk id => if id ∈ ids then ({ r with for_ := .nobody } : Req) else r | _ => r } }
/-- `INVALIDATION_TA` (R173, R179): within 32 ticks of the request the translations are dropped everywhere. -/
def execInvalidationTa (s : State) : Host.Outcome State Fault Refusal :=
  .next <|
    match s.xlat.invs.find? fun i => i.id = s.arg.n0 && i.phase = 1 with
    | none => s
    | some i =>
      let s := s.tlbDrop (s.invHits i)
      let s := if i.ctab then s.modCtx i.ctx fun x => { x with ctab := some (s.ctabRead i.ctx) } else s
      let s := if i.ats then s else s.dropFetched i.ctx
      let (n, s) := s.take
      { s with xlat := { s.xlat with
          invs := s.xlat.invs.map fun (x : Inval) => if x.id = i.id then ({ x with phase := 2, ta := s.now, stamp := n } : Inval) else x } }

/-- Every access that used a dropped translation has been performed: a write of a device unit when its completion is back. -/
def State.drained (s : State) (i : Inval) : Bool :=
  i.phase = 2 &&
    !s.usesOld i.stamp (fun t a => (if i.ats then s.underPasid t.id.ctx i.ctx && a.segs.any (·.host) else t.id.ctx = i.ctx) && a.hnd.isNone && i.holds a.va a.len) &&
    s.ports.q.all (fun w => decide (i.stamp ≤ w.id) || i.ats) &&
    s.xlat.reqs.all fun r => decide (i.stamp ≤ r.tag) || (match r.for_ with | .ats _ => true | .walk _ => true | .acc _ _ _ => true | .far _ => true | _ => false)
/-- `INVALIDATION_DRAINED` (R173). -/
def execInvalidationDrained (s : State) : Host.Outcome State Fault Refusal :=
  .next <|
    match s.xlat.invs.find? fun i => i.id = s.arg.n0 && !i.ats with
    | some i => if s.drained i then
        { s with xlat := { s.xlat with invs := s.xlat.invs.filter (fun x => x.id ≠ i.id), tidone := (s.xlat.tidone + 1) % 2 ^ 32 } }
      else s
    | none => s
/-- `ATS_INVALIDATION_COMPLETION` (R179). -/
def execAtsInvalidationCompletion (s : State) : Host.Outcome State Fault Refusal :=
  .next <|
    match s.xlat.invs.find? fun i => i.id = s.arg.n0 && i.ats with
    | some i => if s.drained i then { s with xlat := { s.xlat with invs := s.xlat.invs.filter fun x => x.id ≠ i.id } }.emit (.atsInvDone i.id) else s
    | none => s

/-! ## Granules (R154 to R156) -/

def State.granules (s : State) : Nat := if s.fitting = .w9l then 2 ^ 19 else 2 ^ 18
/-- R64, R155: a granule lies in an extent that is bound to a partition. -/
def State.inExtent (s : State) (g : Nat) : Bool := s.fitting = .w9l && (Tbl.get? s.ports.eown (extentOf (g * 2 ^ 21))).isSome
def State.ownedBy (s : State) (p : Nat) : Nat := (s.xlat.own.filter fun g => g.2 = p).length

/-- `GOWN_WRITE` (R154 to R156). DESIGN CHOICE: where statuses 3 and 5 both apply, of which R155 puts neither first, 3 is reported (log 211). -/
def execGownWrite (s : State) : Host.Outcome State Fault Refusal :=
  let n := s.arg.v.toNat
  let cnt := bits n 59 40 + 1
  let own := bits n 39 32
  let g0 := bits n 19 0
  let gs := (List.range cnt).map (g0 + ·)
  let set := fun (v : Nat) (s : State) => ({ s with xlat := { s.xlat with gstat := v } } : State)
  .next <|
    if s.xlat.gbusy ≠ [] then s
    else if bits n 63 60 ≠ 0 || bits n 31 20 ≠ 0 || !(own < 64 || own = 0x40 || own = 0xFF) || decide (s.granules < g0 + cnt) then set 2 s
    else if gs.any fun g => s.inExtent g || (own ≠ 0xFF && s.granuleOwner g ≠ 0xFF && s.granuleOwner g ≠ own) then set 3 s
    else
      let move := gs.filter fun g => s.granuleOwner g ≠ own
      if own < 64 && decide ((s.part own).cfg.quota + (s.part own).cfg.shpool < s.ownedBy own + move.length) then set 5 s
      else
        let s := set 0 s
        let lo := fun (g : Nat) => g * 2 ^ 21
        let s := if own = 0xFF then
            { s with xlat := { s.xlat with own := s.xlat.own.filter fun x => x.1 ∉ move } }.tlbDrop fun e =>
              !e.host && move.any fun g => decide (e.pa < lo g + 2 ^ 21 ∧ lo g < e.pa + 2 ^ (min e.lg 21))
          else s
        let (k, s) := s.take
        { s with xlat := { s.xlat with gbusy := move.map fun g => (g, own + 256 * k) } }

/-- R18, R20, R65: memory of a range reads zero again, with no poison, after a scrub. -/
def State.scrub (s : State) (base len : Nat) : State :=
  { s with mem := s.mem.filter fun c => !(decide (base ≤ c.1 ∧ c.1 < base + len))
           poison := s.poison.filter fun c => !(decide (base ≤ 64 * c.1 ∧ 64 * c.1 < base + len)) }
/-- The accesses that used the dropped translations of the granules have been performed. -/
def State.mayScrub (s : State) : Bool :=
  s.xlat.gbusy ≠ [] && s.xlat.gbusy.all fun g => !s.usesOld (g.2 / 256) fun _ a => a.segs.any fun x => !x.host && x.pa / 2 ^ 21 = g.1
/-- `GRANULE_SCRUB_DONE` (R156). -/
def execGranuleScrubDone (s : State) : Host.Outcome State Fault Refusal :=
  .next <|
    if s.mayScrub then
      let s' := s.xlat.gbusy.foldl (fun s g => s.scrub (g.1 * 2 ^ 21) (2 ^ 21)) s
      { s' with xlat := { s'.xlat with
          own := s.xlat.gbusy.foldl (fun o g => if g.2 % 256 = 0xFF then Tbl.del o g.1 else Tbl.put o g.1 (g.2 % 256)) s'.xlat.own
          gbusy := [] } }
    else s

/-! ## Tier moves (R180 to R186) -/

def State.modMove (s : State) (id : Nat) (f : Move → Move) : State :=
  { s with xlat := { s.xlat with moves := s.xlat.moves.map fun m => if m.id = id then f m else m } }
def State.dropMove (s : State) (id : Nat) : State := { s with xlat := { s.xlat with moves := s.xlat.moves.filter fun m => m.id ≠ id } }
/-- The partition of a move. -/
def State.movePart (s : State) (m : Move) : Nat := match m.kv with | some k => k.1 | none => ((s.ctx m.ctx).part).getD 0

/-- R159: where the leaf of an address stands: its physical address and its level. -/
def State.leafAt (s : State) (fetched : Tbl Nat) (va : Nat) : Nat → Nat → Option (Nat × Nat)
  | 0, _ => none
  | lv + 1, tab =>
    let at_ := tab + 8 * vaIndex va (lv + 1)
    match s.tableWord fetched at_ with
    | none => none
    | some e => if pteType e = 1 then s.leafAt fetched va lv (ptePa e) else some (at_, lv + 1)
/-- R159: the leaf of a page and its replicas. -/
def replicas (at_ lv lg : Nat) : List Nat :=
  let n := 2 ^ (lg - (3 + 9 * lv))
  (List.range n).map fun i => at_ / (8 * n) * (8 * n) + 8 * i

/-- R181: a move is refused with a cause. -/
def State.moveRefused (s : State) (id cause : Nat) : State :=
  let s := s.dropMove id
  { s with xlat := { s.xlat with tmcause := cause } }
/-- R57: a page in an extent of a shared region: through the decoder of a W9H, or of a W9L itself. -/
def State.sharedPage (s : State) (pa : Nat) : Bool :=
  if s.isLocal pa then (match s.slotOf pa with | some k => !s.bulkSlot k | none => false)
  else match s.poolEnt pa with | some x => !x.bulk | none => false
/-- R181: a move is refused, or accepted. DESIGN CHOICE: a walk that meets a malformed entry, a table or a page outside the partition's memory
finds no page mapped, 0x21, since R181 names no cause for it; and where several refusals apply, to which R181 gives no order, the first of 0x2C, 0x2D,
0x27 and 0x90 is reported (log 211). -/
def State.decideMove (s : State) (m : Move) : State :=
  let p := ((s.ctx m.ctx).part).getD 0
  match s.walk m.fetched p m.ctx m.va with
  | .need pa => s.askTable p m.id pa fun s v => s.modMove m.id fun m => { m with fetched := Tbl.put m.fetched pa v }
  | .host => s.moveRefused m.id 0x2D
  | .fault c _ _ => s.moveRefused m.id (if c = 0x28 then 0x2D else 0x21)
  | .violation _ => s.moveRefused m.id 0x21
  | .leaf e =>
    if !s.ownsEnt p e then s.moveRefused m.id 0x21
    else if e.lg > 21 then s.moveRefused m.id 0x2C
    else if s.sharedPage e.pa then s.moveRefused m.id 0x2D
    else if m.new % 2 ^ e.lg ≠ 0 ∨ s.unmapped m.new then s.moveRefused m.id 0x27
    else if !s.ownsPage p m.new (max 21 e.lg) then s.moveRefused m.id 0x90
    else
      let at_ := (s.leafAt m.fetched m.va 5 (ctabRoot (s.ctabOf m.ctx))).getD (0, 1)
      s.modMove m.id fun m => { m with phase := 1, va := e.va, lg := e.lg, old := e.pa, leaves := replicas at_.1 at_.2 e.lg, ta := s.now + 32, ent := some e }

/-- `TMVD_WRITE` (R180, R181): ignored while a move runs. -/
def execTmvdWrite (s : State) : Host.Outcome State Fault Refusal :=
  .next <|
    if s.xlat.moves.any fun m => m.kv.isNone then s
    else
      let n := s.arg.v.toNat
      let (id, s) := s.take
      let m : Move := { id := id, pf := true, ctx := bits n 61 52, va := bits s.xlat.tmva.toNat 56 12 * 4096, lg := 12, old := 0, new := bits n 51 12 * 4096, phase := 0 }
      State.decideMove { s with xlat := { s.xlat with moves := s.xlat.moves ++ [m], tmcause := 0 } } m

/-- `TIER_MOVE_TA` (R183 step 1), within 32 ticks; while tables in the pool are still read, the request is decided first. -/
def execTierMoveTa (s : State) : Host.Outcome State Fault Refusal :=
  .next <|
    match s.xlat.moves.find? fun m => m.id = s.arg.n0 && decide (m.phase < 2) with
    | none => s
    | some m =>
      if m.phase = 0 then (if s.xlat.reqs.all fun r => r.for_ ≠ .walk m.id then s.decideMove m else s)
      else
        let s := (s.tlbDrop fun e => e.ctx = m.ctx && e.inRange m.va m.lg).dropFetched m.ctx
        let (n, s) := s.take
        s.modMove m.id fun m => { m with phase := 2, ta := s.now, stamp := n }

/-- The lines of a page. -/
def Move.lines (m : Move) : Nat := 2 ^ m.lg / 64
def Move.has (m : Move) (ln : Nat) : Bool := decide (m.old / 64 ≤ ln ∧ ln < m.old / 64 + m.lines)
/-- A launch that has touched a page in a shadow or delta entry, here or at the page's W9L. -/
def Launch.touches (l : Launch) (m : Move) : Bool := (l.shadow.any fun x => m.has x.1) || (l.deltas.any fun x => m.has (lineNo x.1)) || l.plines.any m.has
/-- R184: a scheduled commit touches the page, and has not flipped everywhere. -/
def State.commitTouches (s : State) (m : Move) : Bool :=
  s.launches.any fun l => (match l.2.st with | .waiting | .started | .done => false | .flipped _ => l.2.poolWait ≠ [] | _ => true) && l.2.touches m
/-- The W9L that holds a page of the pool. -/
def State.pageDie (s : State) (pa : Nat) : Option Nat := if s.isLocal pa then none else (s.poolEnt pa).map PoolEnt.pbr
/-- A write or a request to a line of the old page is under way at the ports: an access that used the old translation. -/
def State.pageBusy (s : State) (m : Move) : Bool :=
  match (if s.isLocal m.old then none else s.poolEnt m.old) with
  | none => false
  | some e =>
    (s.ports.q.any fun w => w.pbr = e.pbr && w.cont.isNone && !w.commitUnit && decide (e.dpaOf m.old ≤ w.dpa ∧ w.dpa < e.dpaOf m.old + 2 ^ m.lg)) ||
      (s.xlat.reqs.any fun r => r.pbr = some e.pbr && r.via.isSome && m.has (lineNo r.addr) && (match r.for_ with | .move _ => false | _ => true)) ||
      s.launches.any fun l => l.2.conts ≠ 0 && decide (e.pbr ∈ l.2.footTo)

/-- R183 step 3, R184: the copy may start: every access that used the old translation has been performed, the leases and kept copies (R62) have
expired, and no commit scheduled before is unfinished. -/
def State.mayCopy (s : State) (m : Move) : Bool :=
  m.phase = 2 && !s.usesOld m.stamp (fun _ a => !a.moved && a.segs.any fun g => !g.host && m.has (lineNo g.pa)) && !s.pageBusy m &&
    (List.range m.lines).all (fun i => decide (s.leaseExpiry (m.old / 64 + i) none ≤ s.now)) &&
    (s.cores.all fun c => c.2.lc.all fun x => !m.has x.1 || decide (x.2.exp ≤ s.now)) && !s.commitTouches m

/-- The passes of a move over its lines: the committed data; then of a page in the pool what each launch has written there and is uncommitted, or
for a page copied for a launch (R398) the page in its view. -/
def State.movePasses (s : State) (m : Move) : Nat :=
  match m.launch, s.pageDie m.old with
  | some lk, some d => if d ∈ (s.launch lk).dies then 2 else 1
  | none, some _ => 1 + m.vers.length
  | _, none => 1
def State.moveLines (s : State) (m : Move) : Nat := s.movePasses m * m.lines
/-- The launch that the present pass is for. -/
def Move.passFor (m : Move) : Option Nat :=
  match m.pos / m.lines with
  | 0 => none
  | i + 1 => match m.launch with | some lk => some lk | none => m.vers[i]?

/-- R183 step 4: one line arrives at its new home; it may have to be sent there. -/
def State.moveLine (s : State) (m : Move) (d : Line) (pois : Bool) : Bool × State :=
  let dst := m.new + 64 * (m.pos % m.lines)
  let next := fun (s : State) => s.modMove m.id fun m => { m with pos := m.pos + 1 }
  if s.isLocal dst then (true, next (s.commitLine dst (BitVec.allOnes 64) d pois true))
  else match s.poolFor (s.movePart m) dst with
    | none => (true, next s)
    | some e =>
      if e.lost then (true, next s)
      else
        let op : MemOp := match m.passFor with
          | some lk => .shadowWrite (s.launch lk).head.part (s.launch lk).head.ver (BitVec.allOnes 64) d pois
          | none => .write (BitVec.allOnes 64) d pois
        (false, (s.askPool (.move m.id) e dst op true).2)

/-- What the deltas of a line read as in the answer to a `takeEntry`: offset, kind, width, type code and value of each. -/
def deltaWords (ds : List (Nat × Delta)) : List Nat := ds.flatMap fun d => [d.1 % 64, b2n d.2.flt, d.2.esz, d.2.ty, d.2.val.toNat]
def deltasIn : Nat → List Nat → List (Nat × Delta)
  | 0, _ => []
  | n + 1, l => match l with
    | o :: f :: e :: t :: v :: r => (o, { flt := decide (f = 1), esz := e, ty := t, val := BitVec.ofNat 64 v }) :: deltasIn n r
    | _ => []
/-- A pool write that the copy engine sends for a launch: under the source beyond the commit units. -/
def moveSrc : Nat := 6208
/-- R183 step 4: a shadow entry and deltas of a line of a launch go to a pool page. -/
def State.sendEntry (s : State) (lk : Nat) (e : PoolEnt) (pa : Nat) (x : Shadow) (ds : List (Nat × Delta)) : State :=
  let v := View.launch lk
  let z := s.tagOf v
  let s := if x.mask = 0 then s else s.poolWrite v moveSrc e pa (.shadowWrite z.1 z.2 x.mask x.data x.poison) .nobody 0
  ds.foldl (fun s d =>
    let ty := if d.2.flt then d.2.ty else match d.2.esz with | 8 => 0 | 4 => 1 | 2 => 3 | _ => 5
    s.poolWrite v moveSrc e (lineBase pa + d.1) (.viewAtomic z.1 z.2 (b2n d.2.flt) ty d.1 [(d.2.val, 0)] 0 true) .nobody 0) s
/-- R183 step 4: the shadow entry and deltas that a launch had at a W9L come to the page's new home. -/
def State.placeEntry (s : State) (m : Move) (lk : Nat) (d : Line) (pois : Bool) (vals : List Nat) : State :=
  let dst := m.new + 64 * (m.pos % m.lines)
  let mask : BitVec 64 := BitVec.ofNat 64 (vals.headD 0)
  let ds := deltasIn 64 vals.tail
  let x : Shadow := { mask := mask, data := d, poison := pois }
  let s := s.modLaunch lk fun l => { l with plines := l.plines.filter fun ln => ln ≠ lineNo m.old + m.pos % m.lines }
  let s :=
    if mask = 0 && ds = [] then s
    else if s.isLocal dst then
      let s := s.placeShadow (.launch lk) (lineNo dst) x
      ds.foldl (fun s d => s.putDelta (.launch lk) (dst + d.1) d.2) s
    else match s.poolFor (s.movePart m) dst with
      | some e => if e.lost then s else s.sendEntry lk e dst x ds
      | none => s
  s.modMove m.id fun m => { m with pos := m.pos + 1 }

/-- Copy lines until one has to cross a link. -/
def State.moveStep (s : State) (id : Nat) : Nat → State
  | 0 => s
  | n + 1 =>
    match s.xlat.moves.find? fun m => m.id = id && m.phase = 3 with
    | none => s
    | some m =>
      if s.moveLines m ≤ m.pos then s
      else
        let src := m.old + 64 * (m.pos % m.lines)
        let skip := fun (s : State) => (s.modMove m.id fun m => { m with pos := m.pos + 1 }).moveStep id n
        if s.isLocal src then
          match s.moveLine m (memLine s.mem src) (s.poisoned src || s.lostAt src) with
          | (true, s) => s.moveStep id n
          | (false, s) => s
        else match s.poolEnt src with
          | none => skip s
          | some e =>
            if e.lost then
              if m.passFor.isSome then skip s else match s.moveLine m 0 true with
                | (true, s) => s.moveStep id n
                | (false, s) => s
            else
              let op : MemOp := match m.passFor, m.launch with
                | some lk, some _ => s.viewOp (.launch lk)
                | some lk, none => .takeEntry (s.launch lk).head.part (s.launch lk).head.ver
                | none, _ => .read
              (s.askPool (.move id) e src op false).2
def State.moveOn (s : State) (id : Nat) : State :=
  match s.xlat.moves.find? fun m => m.id = id with | some m => s.moveStep id (s.moveLines m + 1) | none => s
/-- What the answer to a move's request does. -/
def State.moveAnswer (s : State) (id : Nat) (write : Bool) (d : Line) (pois : Bool) (vals : List Nat) : State :=
  match s.xlat.moves.find? fun m => m.id = id with
  | none => s
  | some m =>
    if write then (s.modMove id fun m => { m with pos := m.pos + 1 }).moveOn id
    else match m.passFor, m.launch with
      | some lk, none => (s.placeEntry m lk d pois vals).moveOn id
      | _, _ => match s.moveLine m d pois with
        | (true, s) => s.moveOn id
        | (false, s) => s

/-- The mapped-coherent stashes give up the lines of a page, written back where dirty. -/
def State.recallPage (s : State) (m : Move) : State :=
  (s.clusters.flatMap fun c => c.2.maps.flatMap fun x =>
    if x.2.kind = 1 then (x.2.lines.filter fun y => m.has y.2.ln && !y.2.host).map fun y => (x.2.launch, y.2.ln) else []).foldl (fun s x => s.recall (.launch x.1) x.2) s
/-- `TIER_MOVE_COPY_START` (R183 step 3): stash holders write back; what that sends to the pool ends first. -/
def execTierMoveCopyStart (s : State) : Host.Outcome State Fault Refusal :=
  .next <|
    match s.xlat.moves.find? fun m => m.id = s.arg.n0 with
    | some m => if s.mayCopy m then
        let s := s.recallPage m
        if s.pageBusy m then s
        else
          let vers := match s.pageDie m.old with
            | some d => (s.launches.filter fun l => l.2.uncommitted && decide (d ∈ l.2.dies)).map Prod.fst
            | none => []
          (s.modMove m.id fun m => { m with phase := 3, vers := vers }).moveOn m.id
      else s
    | none => s

/-- A copy for a page in the pool that no event has begun (R398) begins with its first request; every line has been copied. -/
def State.mayEndCopy (s : State) (m : Move) : Bool :=
  m.phase = 3 && s.xlat.reqs.all (fun r => r.for_ ≠ .move m.id) && s.ports.q.all fun w => w.src ≠ moveSrc

/-- Renumber what a page's move carries with it: an address in the old page becomes one in the new page. -/
def Move.at_ (m : Move) (pa : Nat) : Nat := if m.old ≤ pa ∧ pa < m.old + 2 ^ m.lg then m.new + (pa - m.old) else pa
def Move.lnAt (m : Move) (ln : Nat) : Nat := lineNo (m.at_ (64 * ln))
/-- Entries keyed by line move to the new lines. -/
def rekey {α : Type} (f : Nat → Nat) (t : Tbl α) : Tbl α := t.foldl (fun r x => Tbl.put r (f x.1) x.2) []

/-- A delta of a view leaves. -/
def State.delDelta (s : State) (v : View) (pa : Nat) : State :=
  match v with
  | .launch lk => s.modLaunch lk fun l => { l with deltas := Tbl.del l.deltas pa }
  | .foreign d p w => s.modForeign d p w fun f => { f with deltas := Tbl.del f.deltas pa }
/-- R183 step 4: the shadow entries and deltas of a view on a page follow it to a local page. -/
def State.moveView (s : State) (m : Move) (v : View) : State :=
  let s := ((s.shadowsOf v).filter fun x => m.has x.1).foldl (fun s x => (s.delShadow v x.1).placeShadow v (m.lnAt x.1) x.2) s
  ((s.deltasOf v).filter fun d => m.has (lineNo d.1)).foldl (fun s d => (s.delDelta v d.1).putDelta v (m.at_ d.1) d.2) s
def State.moveShadows (s : State) (m : Move) : State :=
  (((s.launches.filter fun l => l.2.uncommitted).map fun l => View.launch l.1) ++ s.ports.foreign.map fun f => View.foreign f.die f.part f.ver).foldl (fun s v => s.moveView m v) s
/-- To a page in the pool, the shadow entries and deltas of this die's launches are sent. -/
def State.sendShadows (s : State) (m : Move) (e : PoolEnt) : State :=
  (s.launches.filter fun l => l.2.uncommitted).foldl (fun s l =>
    let lns := ((l.2.shadow.map Prod.fst) ++ l.2.deltas.map fun d => lineNo d.1).dedup.filter m.has
    lns.foldl (fun s ln =>
      let ds := (l.2.deltas.filter fun d => lineNo d.1 = ln).map fun d => (d.1 % 64, d.2)
      let s := s.sendEntry l.1 e (64 * m.lnAt ln) (Tbl.getD l.2.shadow ln {}) ds
      s.modLaunch l.1 fun l => { l with shadow := Tbl.del l.shadow ln, deltas := l.deltas.filter fun d => lineNo d.1 ≠ ln }) s) s
/-- R183 step 4: monitors, transaction records and stash mappings of the page follow it. DESIGN CHOICE: an entry of a monitor that comes to a slice
where its partition's share is taken stays an entry of that slice (log 212). -/
def State.moveRecords (s : State) (m : Move) : State :=
  let moved := fun (q : Monitor) => !q.host && m.has (lineNo q.pa)
  let held := (s.teams.filter fun t => match t.2.sync.mon with | some q => moved q && q.status = 1 && (q.slice.isSome || q.far.isSome) | none => false).map Prod.fst
  let s := held.foldl State.disarm s
  let s := { s with
    ports := { s.ports with mons := s.ports.mons.map fun (x : PoolMon) => ({ x with pa := m.at_ x.pa } : PoolMon) }
    teams := Tbl.mapV s.teams fun _ t => { t with sync := { t.sync with
      mon := t.sync.mon.map fun q => if moved q then { q with
        pa := m.at_ q.pa, far := none
        slice := if s.isLocal (m.at_ q.pa) && (q.slice.isSome || q.far.isSome) then some (homeSlice (m.at_ q.pa)) else none } else q
      tm := { t.sync.tm with reads := t.sync.tm.reads.map (fun r => (m.at_ r.1, r.2)), writes := rekey m.lnAt t.sync.tm.writes } } }
    clusters := Tbl.mapV s.clusters fun _ c => { c with maps := Tbl.mapV c.maps fun _ x => { x with lines := Tbl.mapV x.lines fun _ y =>
      if y.host then y else { y with ln := m.lnAt y.ln } } } }
  if s.isLocal m.new then s
  else held.foldl (fun s k => match (s.team k).sync.mon, s.poolFor (s.team k).id.part m.new with
    | some q, some e =>
      let (n, s) := s.askArm k (s.team k) (.far k) e q.pa q.cmp q.v
      s.modTeam k fun t => { t with sync := { t.sync with mon := some { q with far := some n } } }
    | _, _ => s) s

/-- R183 step 5: the new physical address in the leaf and its replicas. -/
def State.writeLeaves (s : State) (m : Move) : State :=
  m.leaves.foldl (fun s at_ =>
    let new := fun (e : Nat) => e - ptePa e + m.new
    if s.isLocal at_ then (s.commitBytes none at_ (leBytes 8 (new (memNat s.mem at_ 8))) false).2
    else match s.poolFor (s.movePart m) at_, Tbl.get? m.fetched (m.leaves.headD 0), m.fetched.find? fun x => x.1 ∈ m.leaves with
      | some e, _, some x => (s.askPool .nobody e at_ (.write (maskAt at_ 8) (lineAt at_ (leBytes 8 (new x.2)))) true).2
      | _, _, _ => s) s
/-- R399, R398: the page directories: of every entry that holds the page, or of the one whose write copies it. -/
def State.writeDirectory (s : State) (m : Move) (p idx pg : Nat) : State :=
  s.modPart p fun P =>
    let old := Tbl.getD P.pages m.old { remote := false, share := 0 }
    let live := (P.kvEnt idx).pages[pg]? = some m.old
    let newK : KvPage := Tbl.getD P.pages m.new { remote := true, share := 0 }
    if m.launch.isSome then
      if live then
        { P with kv := Tbl.modify P.kv idx fun e => { e with pages := e.pages.set pg m.new }
                 pages := Tbl.put (Tbl.put P.pages m.old { old with share := old.share - 1 }) m.new { newK with share := 1, priv := true, moving := false } }
      else { P with pages := Tbl.put P.pages m.new { newK with moving := false } }
    else
      { P with kv := Tbl.mapV P.kv fun _ e => { e with pages := e.pages.map fun a => if a = m.old then m.new else a }
               pages := Tbl.put (Tbl.put P.pages m.old { old with share := 0, priv := false }) m.new { newK with share := old.share, priv := old.priv, moving := false } }

/-- R183 step 6: the queue is released in arrival order to the new homes; a unit other than a team finds its turn by itself. -/
def State.releaseQueue (s : State) (m : Move) : State :=
  m.queue.foldl (fun s x =>
    match x.who with
    | .acc k eid lane =>
      match ((s.team k).sync.rq.find? fun e => e.id = eid).bind fun e => e.accs.find? fun a => a.lane = lane with
      | some a => if a.wait = .move m.id then (s.modAcc k eid lane fun a => { a with wait := .xlat, moved := true }).stepAcc k eid lane else s
      | none => s
    | _ => s) s

/-- `TIER_MOVE_COPY_DONE` (R183 steps 4 to 6). A move whose copying has not begun begins; what local launches have written on a page that goes to the
pool is sent there first. -/
def execTierMoveCopyDone (s : State) : Host.Outcome State Fault Refusal :=
  .next <|
    match s.xlat.moves.find? fun m => m.id = s.arg.n0 with
    | none => s
    | some m =>
      if !s.mayEndCopy m then s
      else if m.pos < s.moveLines m then s.moveOn m.id
      else
        let out := if s.isLocal m.old && m.launch.isNone && !s.isLocal m.new then s.poolEnt m.new else none
        let left := s.launches.any fun l => l.2.uncommitted && ((l.2.shadow.any fun x => m.has x.1) || l.2.deltas.any fun d => m.has (lineNo d.1))
        match (if left then out else none) with
        | some e => s.sendShadows m e
        | none =>
          let s := if m.launch.isNone && s.isLocal m.old && s.isLocal m.new then s.moveShadows m else s
          let s := if m.launch.isSome then s else s.moveRecords m
          let s := match m.kv with | some k => s.writeDirectory m k.1 k.2.1 k.2.2 | none => s.writeLeaves m
          let s := s.modMove m.id fun m => { m with phase := 4, ent := m.ent.map fun e => { e with pa := m.new, pte := e.pte - ptePa e.pte + m.new } }
          match s.xlat.moves.find? fun x => x.id = m.id with | some m => s.releaseQueue m | none => s

/-- R183 step 7: every released access has been performed. -/
def State.mayEndMove (s : State) (m : Move) : Bool := m.phase = 4 && m.queue.all fun q => !s.queuedLive m q
/-- `TIER_MOVE_END` (R183 step 7). -/
def execTierMoveEnd (s : State) : Host.Outcome State Fault Refusal :=
  .next <|
    match s.xlat.moves.find? fun m => m.id = s.arg.n0 with
    | some m => if s.mayEndMove m then
        let s := s.dropMove m.id
        if m.pf then { s with xlat := { s.xlat with tmdone := (s.xlat.tmdone + 1) % 2 ^ 32, tmcause := 0 } } else s
      else s
    | none => s

/-! ## What is due and what may happen -/

/-- R173, R179, R183: a request reaches its ta within 32 ticks. -/
def State.pagingDue (s : State) : List (Instr × Arg) :=
  ((s.xlat.invs.filter fun i => i.phase = 1 && decide (i.ta ≤ s.now)).map fun i => (Instr.invalidationTa, ({ n0 := i.id } : Arg))) ++
    (s.xlat.moves.filter fun m => m.phase = 1 && decide (m.ta ≤ s.now)).map fun m => (Instr.tierMoveTa, { n0 := m.id })
def State.pagingMay (s : State) : List (Instr × Arg) :=
  ((s.xlat.walks.filter s.mayWalk).map fun w => (Instr.walkComplete, ({ n0 := w.id } : Arg))) ++
    (s.xlat.invs.flatMap fun i =>
      (if i.phase = 1 then [(Instr.invalidationTa, ({ n0 := i.id } : Arg))] else []) ++
        (if s.drained i then [(if i.ats then Instr.atsInvalidationCompletion else Instr.invalidationDrained, ({ n0 := i.id } : Arg))] else [])) ++
    (if s.mayScrub then [(Instr.granuleScrubDone, ({} : Arg))] else []) ++
    s.xlat.moves.flatMap fun m =>
      (if m.phase = 1 || (m.phase = 0 && s.xlat.reqs.all fun r => r.for_ ≠ .walk m.id) then [(Instr.tierMoveTa, ({ n0 := m.id } : Arg))] else []) ++
        (if s.mayCopy m then [(Instr.tierMoveCopyStart, ({ n0 := m.id } : Arg))] else []) ++
        (if s.mayEndCopy m then [(Instr.tierMoveCopyDone, ({ n0 := m.id } : Arg))] else []) ++
        (if s.mayEndMove m then [(Instr.tierMoveEnd, ({ n0 := m.id } : Arg))] else [])

end Sys2Proof.Machine
end

