-- ==== Sys2Proof/Machine/Admit.lean ====
section
/-! DEFINITION. The launch sequencer: admission (R118 to R123, R234 to R236, R656, R657, R711), start and placement (R237 to R240,
R277, R290). -/

namespace Sys2Proof.Machine

/-! ## Headers and tables (R118 to R121) -/

/-- R118: the must-be-zero fields and ranges of a header queued on a stream. -/
def headerOk (h stream : Nat) : Bool :=
  bits h 2047 896 = 0 && bits h 479 448 = 0 && bits h 447 400 = 0 && bits h 351 320 = 0 && bits h 287 256 = 0 && bits h 47 40 = 0 && bits h 23 18 = 0 &&
    bits h 7 0 = 1 && bits h 11 8 = stream && decide (bits h 15 14 < 2) && decide (1 ≤ bits h 31 24 ∧ bits h 31 24 ≤ 8) && decide (bits h 39 32 ≤ 16) &&
    decide (bits h 63 48 ≤ 1023) && bits h 127 64 % 64 = 0 && bits h 191 128 % 32 = 0 && bits h 255 192 % 16 = 0 &&
    (List.range 8).all fun i =>
      let a := bits h (671 + 32 * i) (640 + 32 * i)
      bits a 15 8 = 0 && (decide (bits h 31 24 ≤ i) || decide (bits a 31 16 ≤ 8192) && decide (8 ≤ bits a 7 0 ∧ bits a 7 0 ≤ 64) && bits a 7 0 % 8 = 0)
/-- R118: the number of stage-table entries that are read. -/
def stagesOf (h : Nat) : Nat := max 1 (min 8 (bits h 31 24))
/-- R119: entry i of a stage table. -/
def stEnt (t i : Nat) : Nat := bits t (256 * i + 255) (256 * i)
/-- R119: the ranges of a stage-table entry, of n stages. -/
def stageOk (n i e : Nat) : Bool :=
  bits e 255 168 = 0 && (if i = 0 then bits e 143 120 ≠ 0xFFFFFF else bits e 167 120 = 0) && bits e 103 100 = 0 && bits e 63 50 = 0 &&
    decide (bits e 99 96 < n ∨ bits e 99 96 = 15) && decide (32 ≤ bits e 47 32 ∧ bits e 47 32 ≤ 1024) && bits e 47 32 % 32 = 0 &&
    (let d := bits e 87 64
     d = 0 || (decide (2 ≤ d ∧ d ≤ 65536) && d = 2 ^ Nat.log2 d && decide (1 ≤ bits e 95 88 ∧ bits e 95 88 ≤ 32) && decide (bits e 119 112 < bits e 111 104)))
/-- The stage that an entry and its allotment describe. -/
def stageRec (h e i : Nat) : Stage :=
  let a := bits h (671 + 32 * i) (640 + 32 * i)
  { lanes := bits e 47 32, entry := bits e 31 0, prio := bits e 49 48, depth := bits e 87 64, elsz := bits e 95 88, outq := bits e 99 96
    hiwm := bits e 111 104, lowm := bits e 119 112, vregs := bits a 7 0, stash := bits a 31 16 }
/-- Work-identifier widths and counts, field 0 first. -/
def widthsOf (h : Nat) : List Nat := (List.range 6).map fun i => bits h (359 + 8 * i) (352 + 8 * i)
def countsOf (h : Nat) : List Nat := (List.range 6).map fun i => bits h (479 + 32 * i) (448 + 32 * i)
/-- R122: the limits of widths and counts. -/
def widsOk (h : Nat) (lanes : List Nat) : Bool :=
  let w := widthsOf h
  let c := countsOf h
  decide (w.sum ≤ 64) && ((w.zip c).tail.all fun p => decide (1 ≤ p.2 ∧ p.2 ≤ 2 ^ p.1)) && decide (c.getD 1 0 ≤ 64) &&
    lanes.all (fun l => decide (l ≤ 2 ^ w.getD 0 0)) && decide (c.tail.foldl (· * ·) 1 < 2 ^ 32)
/-- R121: an entry of a footprint table. -/
def footEnt (t i : Nat) : Nat := bits t (128 * i + 127) (128 * i)
def footOk (e : Nat) : Bool :=
  bits e 127 107 = 0 && decide (bits e 106 104 ≤ 4) && bits e 103 64 ≠ 0 && bits e 103 64 % 64 = 0 && bits e 63 57 = 0 && bits e 56 0 % 64 = 0 &&
    decide (bits e 56 0 + bits e 103 64 ≤ 2 ^ 57)
def footRec (e : Nat) : Foot := { cls := bits e 106 104, base := bits e 56 0, len := bits e 103 64 }

/-! ## Conflicts (R201) -/

/-- R201: two classes conflict. -/
def classClash (a b : Nat) : Bool :=
  a ≠ 4 && b ≠ 4 && !(a = 0 && b = 0) && !(a = 3 && b = 3)
/-- R201: two footprints conflict. -/
def footClash (a b : List Foot) : Bool :=
  a.any fun x => b.any fun y => classClash x.cls y.cls && decide (x.base < y.base + y.len ∧ y.base < x.base + x.len)

/-! ## Reading the structures (R711, R656) -/

/-- R711, R656: the sequencer at a stream's head reads in the issuing launch's view. -/
def State.seqAgent (s : State) (c i : Nat) (p : Pend) : Agent :=
  s.agent (.seq c i) c (p.issuer.map View.launch)
/-- What the sequencer's reading comes to: bytes, unreadable, or a wait. -/
inductive SeqGo (α : Type)
  | ok (a : α) (s : State)
  | bad (log : Bool) (s : State)
  | wait (s : State)
/-- R711: poison, failed translation, an absent host page and a failed partition check make a structure unreadable. -/
def State.seqRead (s : State) (g : Agent) (va n : Nat) : SeqGo Nat :=
  if va + n > 2 ^ 57 then .bad false s
  else match s.unitRead g va n with
    | .ok x s => if x.2 then .bad false s else .ok (leNat x.1) s
    | .wait w s => .wait (s.modFetch g.who fun f => { f with wait := w })
    | .fault _ s => .bad false s
    | .freeze _ _ s => .bad true s

/-- R113: a launch address that is canonical and aligned. -/
def Pend.addrOk (p : Pend) : Bool := p.addr.toNat % 256 = 0 && decide (p.addr.toNat < 2 ^ 57)

/-- A head of a stream queue: context, stream, launch address. -/
abbrev Head := Nat × Nat × Pend

/-- R126, R141, R425, R86: the context's launches may be admitted. -/
def State.ctxAdmits (s : State) (x : Ctx) : Bool :=
  !x.dbg.fatal && x.tdi ≠ .error && x.resetting.isNone && decide (x.crecs.length < 64) && x.clate = [] &&
    (match x.part with | some p => !(s.part p).vblock && !(s.part p).resetting | none => false)
/-- R234: the heads of a partition. -/
def State.heads (s : State) (p : Nat) : List Head :=
  s.ctxs.flatMap fun c => if c.2.part = some p && s.ctxAdmits c.2 then
      c.2.streams.filterMap fun q => match q.2.pend with | h :: _ => some (c.1, q.1, h) | [] => none
    else []
/-- The reading for a head waits for nothing. -/
def State.headFree (s : State) (h : Head) : Bool := s.fetchFree (.seq h.1 h.2.1)
/-- R234: the first line of a head's header as it was read when the launch reached the head of its queue, and whether it is unreadable. -/
def State.headLine (s : State) (h : Head) : Option (List Byte × Bool) :=
  ((s.ctx h.1).stream h.2.1).line.bind fun x => if x.1 = h.2.2.id then some x.2 else none
/-- R234: that line is read. -/
def State.readHead (s : State) (h : Head) : State :=
  let keep := fun (s : State) (bs : List Byte) (bad : Bool) => s.modStream h.1 h.2.1 fun q => { q with line := some (h.2.2.id, bs, bad) }
  match s.seqRead (s.seqAgent h.1 h.2.1 h.2.2) h.2.2.addr.toNat 64 with
  | .ok n s => keep s (leBytes 64 n) false
  | .bad l s => keep (if l then s.logIt (.headerCheck h.1 h.2.2.addr.toNat s.now) else s) [] true
  | .wait s => s

/-- R234: a head goes before another: class, arrival, context, stream. -/
def headBefore (a b : Nat × Head) : Bool :=
  if a.1 ≠ b.1 then decide (b.1 < a.1)
  else if a.2.2.2.at_ ≠ b.2.2.2.at_ then decide (a.2.2.2.at_ < b.2.2.2.at_)
  else if a.2.1 ≠ b.2.1 then decide (a.2.1 < b.2.1) else decide (a.2.2.1 < b.2.2.1)
def headInsert (a : Nat × Head) : List (Nat × Head) → List (Nat × Head)
  | [] => [a]
  | b :: r => if headBefore a b then a :: b :: r else b :: headInsert a r

/-! ## The checks (R122, R123) -/

/-- What the sequencer comes to for a head. -/
inductive Verdict
  /-- Refused with a cause, and the `lid` the record names. -/
  | refuse (cause lid : Nat) (log : Bool) (s : State)
  /-- R412: it waits in its queue. -/
  | hold (s : State)
  /-- Its structures are still being read. -/
  | wait (s : State)
  | admits (h : LHead) (s : State)

/-- R123: what a `chain` names. -/
def State.chainFor (s : State) (c n : Nat) : Except Nat (Option Nat) :=
  if n = 0xFFFFFF then .ok none
  else match s.launches.find? fun l => l.2.head.ctx = c && l.2.head.lid = n && l.2.uncommitted with
    | some l => .ok (some l.1)
    | none => match (s.ctx c).retired.find? fun r => r.lid = n with
      | some r => if r.committed then .ok none else .error 0x4B
      | none => .error 0x48

/-- R122, R412: the checks of a head in their order. -/
def State.judge (s : State) (p : Nat) (h : Head) : Verdict :=
  let c := h.1
  let i := h.2.1
  let g := s.seqAgent c i h.2.2
  let none_ := 0xFFFFFF
  if !h.2.2.addrOk then .refuse 0x48 none_ false s
  else match s.headLine h with
  | none => .wait s
  | some (line, bad) =>
  if bad then .refuse 0x48 none_ false s
  else match s.seqRead g (h.2.2.addr.toNat + 64) 192 with
  | .bad l s => .refuse 0x48 none_ l s
  | .wait s => .wait s
  | .ok rest s =>
    let hd := leNat line + rest * 2 ^ 512
    let n := stagesOf hd
    match s.seqRead g (bits hd 191 128) (32 * n) with
    | .bad l s => .refuse 0x48 none_ l s
    | .wait s => .wait s
    | .ok st s =>
      let lid := bits (stEnt st 0) 143 120
      let P := s.part p
      if !ctabOk (s.ctabOf c) || !headerOk hd i || !((List.range n).all fun k => stageOk n k (stEnt st k)) then .refuse 0x48 lid false s
      else if s.launches.any fun l => l.2.head.ctx = c && l.2.head.lid = lid && l.2.uncommitted then .refuse 0x48 lid false s
      else if !widsOk hd ((List.range n).map fun k => bits (stEnt st k) 47 32) then .refuse 0x48 lid false s
      else
        let nf := bits hd 39 32
        match (if nf = 0 then SeqGo.ok 0 s else s.seqRead g (bits hd 255 192) (16 * nf)) with
        | .bad l s => .refuse 0x49 lid l s
        | .wait s => .wait s
        | .ok ft s =>
          if !((List.range nf).all fun k => footOk (footEnt ft k)) then .refuse 0x49 lid false s
          else if (Tbl.get? P.images (bits hd 63 48)).isNone then .refuse 0x4A lid false s
          else match s.chainFor c (bits (stEnt st 0) 167 144) with
            | .error x => .refuse x lid false s
            | .ok ch =>
              let ds := if bit hd 17 then some (bits hd 307 288, bits hd 319 308) else none
              let e := match ds with | some d => P.kvEnt d.1 | none => {}
              if (match ds with | some d => !(e.kind = 2 && e.gen = d.2 && e.ctx = c && !e.closing && decide (d.1 < P.kvBlocks * 4096)) | none => false) then .refuse 0x48 lid false s
              else
                let head : LHead := {
                  pid := h.2.2.id, part := p, ctx := c, ver := P.verNext, lid := lid, stream := i, prio := bits hd 13 12, vpol := bits hd 15 14, abortOvf := bit hd 16
                  args := bits hd 127 64, img := bits hd 63 48, ds := ds, stages := (List.range n).map fun k => stageRec hd (stEnt st k) k
                  foot := (List.range nf).map fun k => footRec (footEnt ft k), wwid := widthsOf hd, wcnt := countsOf hd, feat := P.cfg.feat, chain := ch
                  caps := capList s p }
                let others := match ds with | some d => s.generating p d.1 d.2 | none => []
                let latest := match ds, ch with
                  | some d, some k => (s.launch k).head.ds = some d && (s.launch k).head.lid = (P.stm d.1).glid
                  | _, _ => false
                if others ≠ [] && !latest then .hold s else .admits head s

/-! ## Admission (R234 to R236) -/

/-- A head leaves its queue. -/
def State.popHead (s : State) (h : Head) : State := s.modStream h.1 h.2.1 fun q => { q with pend := q.pend.tail, fetch := {}, line := none }
/-- R122, R657: a launch that is not admitted. -/
def State.refuseHead (s : State) (h : Head) (cause lid : Nat) : State :=
  (s.popHead h).finalRecord h.1 { pid := h.2.2.id, time := s.now, ver := 0, lid := lid, cause := cause, status := 1, stream := h.2.1 } true

/-- R187, R236, R116, R84: a launch is admitted. -/
def State.admitHead (s : State) (p : Nat) (h : Head) (x : LHead) : State :=
  let k := launchKey p x.ver
  let es := (s.launches.filter fun l => l.2.head.part = p && l.2.uncommitted && footClash l.2.head.foot x.foot).map Prod.fst
  let s := (s.popHead h).modStream h.1 h.2.1 fun q => { q with adm := (q.adm + 1) % 2 ^ 16 }
  let s := ({ s with launches := Tbl.put s.launches k { head := x, edges := es } } : State).modPart p fun P =>
    { P with verNext := (P.verNext + 1) % 2 ^ 24, lastAdmit := s.now + 8
             stms := match x.ds with | some d => Tbl.modify P.stms d.1 fun t => { t with glid := x.lid } | none => P.stms }
  let s := (s.traceLaunch x 0 0 0).count h.1 55 1
  match (s.part p).viral with
  | some v => if v.active then s.abortLaunch k 0x89 1 else s
  | none => s

/-- R189, R235: the partition may admit another launch now. -/
def State.partAdmits (s : State) (p : Nat) : Bool :=
  let P := s.part p
  let ls := s.launches.filter fun l => l.2.head.part = p && l.2.uncommitted
  let late := ((s.ctxs.filter fun c => c.2.part = some p).map fun c => c.2.clate.length).sum
  decide (P.lastAdmit ≤ s.now) && decide (ls.length + late < 256) && ls.all fun l => decide ((P.verNext + 2 ^ 24 - l.2.head.ver) % 2 ^ 24 < 2 ^ 23)

/-- Try the heads in their order until one is admitted, refused or waits for its structures. -/
def State.tryHeads (s : State) (p : Nat) : List (Nat × Head) → Option State
  | [] => none
  | a :: r =>
    if !s.headFree a.2 then none
    else match s.judge p a.2 with
    | .refuse c lid log s' => some ((if log then s'.logIt (.headerCheck a.2.1 a.2.2.2.addr.toNat s.now) else s').refuseHead a.2 c lid)
    | .wait s' => some s'
    | .admits x s' => some (s'.admitHead p a.2 x)
    | .hold _ => s.tryHeads p r

/-- R234, R449: what the sequencer does when it is free to admit; none when it can do nothing, or waits for room in the trace ring. A head whose first line has not been
read is read first; the line gives the class. DESIGN CHOICE: a head whose first line is still on its way is not among those that it chooses from (log 213). -/
def State.admitStep (s : State) (p : Nat) : Option State :=
  let hs := if (s.part p).traceFull then [] else s.heads p
  match hs.find? fun h => h.2.2.dead.isSome with
  | some h => some (s.refuseHead h 0x4B (h.2.2.dead.getD 0xFFFFFF))
  | none =>
    match hs.find? fun h => h.2.2.addrOk && (s.headLine h).isNone && s.headFree h with
    | some h => some (s.readHead h)
    | none =>
      if !s.partAdmits p then none
      else s.tryHeads p (hs.foldl (fun acc h =>
        if !h.2.2.addrOk then headInsert (0, h) acc
        else match s.headLine h with
          | some (line, bad) => headInsert (if bad then 0 else bits (leNat line) 13 12, h) acc
          | none => acc) [])

/-- `LAUNCH_ADMISSION` (R234). -/
def execLaunchAdmission (s : State) : Host.Outcome State Fault Refusal := .next ((s.admitStep s.arg.n0).getD s)

/-! ## Completeness and edges (R196, R197, R237) -/

/-- R196: a launch is complete. -/
def State.complete (s : State) (lk : Nat) : Bool :=
  let l := s.launch lk
  (match l.st with | .waiting => false | _ => true) && l.nextGang = l.gangs && l.live = 0 && l.conts = 0 &&
    s.clusters.all (fun c => c.2.cards.all fun k => k.launch ≠ lk) && s.ports.q.all fun w => w.launch ≠ some lk || (match w.op with | .prepare _ _ => true | _ => false)
/-- R203: nothing of what a launch has committed is still on its way to a W9L or the host. -/
def State.landedAll (s : State) (l : Launch) : Bool := l.held = [] && l.poolWait.all fun n => s.xlat.reqs.all fun r => r.tag ≠ n
/-- R197, R203: an edge into a launch is satisfied: the older launch has committed, and its committed writes can be read. -/
def State.edgeMet (s : State) (lk e : Nat) : Bool :=
  match Tbl.get? s.launches e with
  | none => true
  | some l => (!l.uncommitted && s.landedAll l) || (decide (e ∈ s.chainOf s.launches.length lk) && s.complete e)
def State.mayStart (s : State) (lk : Nat) : Bool :=
  match Tbl.get? s.launches lk with
  | some l => (match l.st with | .waiting => true | _ => false) && l.edges.all (s.edgeMet lk) && !(s.part l.head.part).traceFull
  | none => false

/-! ## Placement (R237, R240) -/

/-- A placement group's teams in their order: field-1 value, stage number, stage. -/
def LHead.groupTeams (h : LHead) : List (Nat × Nat × Stage) :=
  (List.range (h.wcnt.getD 1 1)).flatMap fun f1 => h.stages.zipIdx.map fun x => (f1, x.2, x.1)
/-- Room on one quarter: number, free slots, free rows, stash ranges in use (base and length, within the cluster's addresses). -/
structure Room where
  core : Nat
  slots : List Nat
  rows : Nat
  used : List (Nat × Nat)
deriving DecidableEq, Repr
/-- The stash addresses of a quarter begin here (R237). -/
def quarterBase (core : Nat) : Nat := core % 4 * 2 ^ 19
/-- R237: the lowest free range of n bytes in a quarter. DESIGN CHOICE: a range begins at a multiple of 64 bytes, to which R237 gives no
alignment (log 214). -/
def Room.fit (r : Room) (n : Nat) : Option Nat :=
  let b := quarterBase r.core
  let cands := b :: r.used.map fun u => (u.1 + u.2 + 63) / 64 * 64
  (cands.filter fun a => decide (b ≤ a ∧ a + n ≤ b + 2 ^ 19) && r.used.all fun u => decide (a + n ≤ u.1 ∨ u.1 + u.2 ≤ a)).foldl
    (fun m a => match m with | some x => some (min x a) | none => some a) none

/-- Stash ranges of a cluster that are taken: allotments of teams that are not saved, and queue instances. -/
def State.stashUsed (s : State) (cl : Nat) : List (Nat × Nat) :=
  ((s.teams.filter fun t => t.2.id.cluster = cl && (match t.2.id.loc with | .saved => false | .savedEvicted => false | _ => true) && t.2.sync.stashLen ≠ 0).map fun t => (t.2.sync.stashBase, t.2.sync.stashLen)) ++
    s.launches.flatMap fun l => (l.2.qs.filter fun q => q.cluster = cl && q.saved.isNone).map fun q =>
      (q.base, (match l.2.head.stages[q.stage]? with | some g => g.depth * (g.elsz * 8) | none => 0))
/-- The quarters of a partition on a cluster, as they are or with all of them empty. -/
def State.rooms (s : State) (p cl : Nat) (empty : Bool) : List Room :=
  ((s.part p).coresOn cl).map fun c =>
    if empty then { core := c, slots := List.range 16, rows := 1024, used := [] }
    else { core := c, slots := (List.range 16).filter (fun n => (s.onCore c).all fun t => t.2.id.slot ≠ 16 * c + n), rows := 1024 - s.rowsUsed c
           used := (s.stashUsed cl).filter fun u => u.1 / 2 ^ 19 = c % 4 }

/-- The first of the rooms in turn from one on that takes a team: its place and the rooms with it taken. -/
def takeRoom (rs : List Room) (from_ rows stash : Nat) : Option ((Nat × Nat × Nat) × List Room × Nat) :=
  let n := rs.length
  (List.range n).findSome? fun d =>
    let i := (from_ + d) % max 1 n
    (rs[i]?).bind fun r =>
      match r.slots, r.fit stash with
      | sl :: rest, some a =>
        if rows ≤ r.rows then
          some ((r.core, sl, a), rs.set i { r with slots := rest, rows := r.rows - rows, used := if stash = 0 then r.used else (a, stash) :: r.used }, i + 1)
        else none
      | _, _ => none
/-- Place teams one after the other, each from the core after the last one's: core, slot and allotment of each. -/
def placeTeams : List Room → Nat → List (Nat × Nat × Stage) → Option (List (Nat × Nat × Nat) × List Room)
  | rs, _, [] => some ([], rs)
  | rs, i, t :: r =>
    match takeRoom rs i (rowsOf t.2.2.lanes t.2.2.vregs) (64 * t.2.2.stash) with
    | none => none
    | some (x, rs, j) => (placeTeams rs j r).map fun y => (x :: y.1, y.2)
/-- R240: place queue instances, lowest quarter first: quarter and base of each. -/
def placeQueues : List Room → List Nat → Option (List (Nat × Nat))
  | _, [] => some []
  | rs, n :: l =>
    match (List.range rs.length).findSome? fun i => (rs[i]?).bind fun r => (r.fit n).map fun a => (i, r, a) with
    | none => none
    | some (i, r, a) => (placeQueues (rs.set i { r with used := (a, n) :: r.used }) l).map fun x => (r.core, a) :: x

/-- What a placement group takes on a cluster. -/
structure Fit where
  cluster : Nat
  free : Nat
  teams : List (Nat × Nat × Nat)
  queues : List (Nat × Nat)
deriving DecidableEq, Repr
/-- The stages of a launch whose queue instance does not stand on a cluster yet. -/
def Launch.newQueues (l : Launch) (cl : Nat) (empty : Bool) : List (Nat × Stage) :=
  (l.head.stages.zipIdx.filter fun x => x.1.depth ≠ 0 && (empty || (l.inst cl x.2).isNone)).map fun x => (x.2, x.1)
def State.fitOn (s : State) (lk cl : Nat) (empty : Bool) : Option Fit :=
  let l := s.launch lk
  let rs := s.rooms l.head.part cl empty
  match placeTeams rs 0 l.head.groupTeams with
  | none => none
  | some (ts, rs') =>
    if !empty && l.qs.any (fun q => q.cluster = cl && q.saved.isSome) then none
    else (placeQueues rs' ((l.newQueues cl empty).map fun x => x.2.depth * (x.2.elsz * 8))).map fun qs =>
      { cluster := cl, free := (rs.map fun r => r.slots.length).sum, teams := ts, queues := qs }
/-- R237: the cluster with the most free team slots that holds the group, lowest number on ties. -/
def State.bestFit (s : State) (lk : Nat) (empty : Bool) : Option Fit :=
  ((s.part (s.launch lk).head.part).clusters.filterMap fun c => s.fitOn lk c empty).foldl (fun (m : Option Fit) f =>
    match m with | some x => if x.free < f.free then some f else m | none => some f) none

/-- `LAUNCH_START` (R237, R238). -/
def execLaunchStart (s : State) : Host.Outcome State Fault Refusal :=
  let k := s.arg.n0
  .next <|
    if !s.mayStart k then s
    else if (s.bestFit k true).isNone then s.abortLaunch k 0x54 1
    else
      let n := ((s.launch k).head.wcnt.drop 2).foldl (· * ·) 1
      let s := s.modLaunch k fun l => { l with st := .started, gangs := n, nextGang := 0 }
      s.traceLaunch (s.launch k).head 1 0 0

/-- R237: the values of fields 2 to 5 of a gang index. -/
def gangFields (cs : List Nat) (g : Nat) : List Nat :=
  ((cs.drop 2).foldl (fun (x : List Nat × Nat) c => (x.1 ++ [x.2 % max 1 c], x.2 / max 1 c)) (([] : List Nat), g)).1
/-- R277: the identifier of a lane. -/
def widOf (ws : List Nat) (fs : List Nat) : Nat := ((fs.zip ws).foldl (fun (x : Nat × Nat) p => (x.1 + p.1 * 2 ^ x.2, x.2 + p.2)) (0, 0)).1

/-- R290: the lowest free team index of a partition. -/
def State.newIndex (s : State) (p : Nat) : Option Nat :=
  (List.range (s.teams.length + 1)).find? fun i => decide (i < 2 ^ 20) && (Tbl.get? s.teams (teamKey p i)).isNone

/-- R237, R277: one team of a placement group. DESIGN CHOICE: the last issue of a team that has never issued, which R252 compares, is its
creation (log 214). -/
def State.newTeam (s : State) (lk gang : Nat) (f1 st : Nat) (g : Stage) (place : Nat × Nat × Nat) (index : Nat) : State :=
  let h := (s.launch lk).head
  let slot := 16 * place.1 + place.2.1
  let fs := gangFields h.wcnt gang
  let t : Team := {
    id := { part := h.part, index := index, ctx := h.ctx, launch := lk, stage := st, gang := gang, f1 := f1, img := h.img, cluster := place.1 / 4
            slot := slot, ready := true, created := s.now, prio := g.prio }
    regs := { lanes := g.lanes, allot := g.vregs }
    flow := { pc := BitVec.ofNat 64 g.entry, D := ones g.lanes, pres := ones g.lanes
              wid := (List.range g.lanes).foldl (fun t l => Tbl.putD t l (BitVec.ofNat 64 (widOf h.wwid (l :: f1 :: fs))) 0) [] }
    sync := { stashBase := place.2.2, stashLen := 64 * g.stash, lost := (s.ctx h.ctx).lost }
    sched := { lastIssue := s.now, readySince := s.now } }
  ({ s with teams := Tbl.put s.teams (teamKey h.part index) t } : State).modCtx h.ctx fun x => { x with lost := [] }

/-- R240: the queue instances that a launch gets on a cluster. -/
def State.newInstances (s : State) (lk : Nat) (f : Fit) : State :=
  s.modLaunch lk fun l => { l with qs := l.qs ++ ((l.newQueues f.cluster false).zip f.queues).map fun x =>
    { cluster := f.cluster, stage := x.1.1, quarter := x.2.1, base := x.2.2 } }

/-- R257, R258, R263: a waiting group may be placed: its context runs, its saved and ready teams are back. -/
def State.mayPlace (s : State) (lk : Nat) : Bool :=
  let l := s.launch lk
  let P := s.part l.head.part
  (match l.st with | .started => true | _ => false) && decide (l.nextGang < l.gangs) && P.running = some l.head.ctx && !P.quiescing && !P.resetting && !(s.ctx l.head.ctx).dbg.halting && !(s.ctx l.head.ctx).dbg.halted &&
    s.teams.all (fun t => !(t.2.id.part = l.head.part && t.2.id.ctx = l.head.ctx && !t.2.id.landed &&
      (match t.2.id.loc with | .saved => true | .savedEvicted => true | .evicted => t.2.id.ready | .resident => false))) &&
    decide ((s.teams.filter fun t => t.2.id.part = l.head.part && !t.2.id.landed).length + l.head.groupTeams.length ≤ 2 ^ 20) && (s.bestFit lk false).isSome
/-- `PLACEMENT_GROUP_PLACED` (R237, R238). -/
def execPlacementGroupPlaced (s : State) : Host.Outcome State Fault Refusal :=
  let k := s.arg.n0
  .next <|
    if !s.mayPlace k then s
    else match s.bestFit k false with
      | none => s
      | some f =>
        let l := s.launch k
        let s := s.newInstances k f
        let s := (l.head.groupTeams.zip f.teams).foldl (fun s x =>
          match s.newIndex l.head.part with
          | some i => s.newTeam k l.nextGang x.1.1 x.1.2.1 x.1.2.2 x.2 i
          | none => s) s
        s.modLaunch k fun l => { l with nextGang := l.nextGang + 1, live := l.live + f.teams.length }

/-- What the sequencers may do now. -/
def State.admitEvents (s : State) : List (Instr × Arg) :=
  (s.parts.flatMap fun p => if (s.admitStep p.1).isSome then [(Instr.launchAdmission, ({ n0 := p.1 } : Arg))] else []) ++
    s.launches.flatMap fun l =>
      (if s.mayStart l.1 then [(Instr.launchStart, ({ n0 := l.1 } : Arg))] else []) ++
        (if s.mayPlace l.1 then [(Instr.placementGroupPlaced, ({ n0 := l.1 } : Arg))] else [])

end Sys2Proof.Machine
end

