-- ==== Sys2Proof/Machine/Migrate.lean ====
section
/-! DEFINITION. Lane migration (R287 to R310, R665 to R669): the instructions of major 0x26, packing, landing, landed teams,
returns and refusals. -/

namespace Sys2Proof.Machine

/-! ## Instructions -/

/-- R666: set the live-set index and the fallback. -/
def mig (trap : Bool) (z : BitVec 1) (a : BitVec 6) (s : State) : Host.Outcome State Fault Refusal :=
  withCur s fun c t =>
    let v := (rdS t c a.toNat).toNat
    if v / 256 ≠ 0 then s.raiseX c t 0x5E
    else finishShort s c { t with sync := { t.sync with lset := v, migTrap := trap } } z [] 1

def execMig (z : BitVec 1) (a : BitVec 6) (s : State) : Host.Outcome State Fault Refusal := mig false z a s
def execMigTrap (z : BitVec 1) (a : BitVec 6) (s : State) : Host.Outcome State Fault Refusal := mig true z a s

/-- `mret` (R667): every lane of the governing mask ends here, its return to be packed. -/
def execMret (z : BitVec 1) (s : State) : Host.Outcome State Fault Refusal :=
  withCur s fun c t =>
    let g := govTeam t c
    let ls := lanesOf g t.regs.lanes
    if ls.any fun l => t.hopOf l = 0 then s.raiseX c t 0x5D
    else
      let lv := ls.map fun l =>
        let x := s.contOf t l 0 true
        ({ lane := l, entry := t.sync.nextEntry, cluster := t.id.cluster, pbr := (if t.id.foreign then some (t.id.oteam / 2 ^ 20) else none), dpa := 0
           cont := x.getD 0, ok := x.isSome } : Leaving)
      let t' := { t with
        flow := { t.flow with pres := t.flow.pres &&& ~~~g
                              away := if t.id.landed then t.flow.away else t.flow.away ||| g
                              exited := if t.id.landed then t.flow.exited ||| g else t.flow.exited }
        sync := { t.sync with leaving := t.sync.leaving ++ lv } }
      let s := if t.id.landed then s else s.modLaunch t.id.launch fun l => { l with conts := l.conts + ls.length }
      if t.id.landed && t'.flow.pres = 0 then finishAt s c { t' with sync := { t'.sync with park := .retire } } 0 c.next { c.entry with done := true } 1
      else finishShort s c t' z [] 1

/-- R305: every returned lane is present. -/
def Team.rejoin (t : Team) : Team := { t with flow := { t.flow with pres := t.flow.pres ||| t.flow.ret, ret := 0 } }

/-- `mjoin` (R668). -/
def execMjoin (z : BitVec 1) (s : State) : Host.Outcome State Fault Refusal :=
  withCur s fun c t => if t.flow.away = 0 then finishShort s c t.rejoin z [] 1 else waitHere s c t .join

/-- `mstat` (R669). -/
def execMstat (z : BitVec 1) (d : BitVec 6) (s : State) : Host.Outcome State Fault Refusal :=
  withCur s fun c t =>
    let v := lanesIn t.flow.away + lanesIn t.flow.ret * 2 ^ 16 + t.sync.lastRefusal * 2 ^ 32 + t.sync.lset * 2 ^ 40 + b2n t.sync.migTrap * 2 ^ 48
    finishLong s c t z [.s d.toNat (BitVec.ofNat 64 v)] 1

/-! ## Packing (R291 to R294, R309) -/

/-- An access still seeks its translation. -/
def AccWait.seeking : AccWait → Bool
  | .xlat | .walk _ | .ats _ | .move _ => true
  | _ => false
/-- R291, R294: a leaving lane may be packed: every store, atomic and copy-out its team issued before has returned its time, and no lane of its
pass, which may go with it, still seeks its translation. -/
def State.mayPack (s : State) (k : Nat) (t : Team) (lv : Leaving) : Bool :=
  !lv.sent && t.resident && t.sync.earlierDone lv.entry && !(t.sync.rq.any fun e => e.id = lv.entry && e.accs.any fun a => a.lane / 32 = lv.lane / 32 && a.wait.seeking) && (lv.refusedAt.all fun r => decide (s.now < r + 4096)) &&
    !(s.cluster t.id.cluster).cards.any fun x => x.team = k && x.kind = 0 && copyOut x.bits && decide (x.entry < lv.entry)

/-- The origin team of a continuation of this die. -/
def contOrigin (c : BitVec 1024) : Nat := teamKey (contPart c) (contTeam c % 2 ^ 20)

/-- R309: the footprint table goes before the first continuation of a launch to a W9L. -/
def State.sendFoot (s : State) (t : Team) (pbr : Nat) : State :=
  match t.view with
  | .foreign _ _ _ => s
  | .launch lk =>
    let l := s.launch lk
    if pbr ∈ l.footTo then s
    else (s.emit (.footprint pbr l.head.part l.head.ver l.head.foot (s.chainVers (.launch lk)))).modLaunch lk fun l =>
      { l with footTo := l.footTo ++ [pbr], dies := if pbr ∈ l.dies then l.dies else l.dies ++ [pbr] }

/-- R293: a continuation or a return to another die leaves as a pool write after a pool-scope release of the team. -/
def State.packOut (s : State) (k : Nat) (t : Team) (lv : Leaving) (pbr : Nat) (c : BitVec 1024) : State :=
  let (s, t') := s.openEpoch t (some t.regs.gwct)
  let s := s.setTeam k t'
  let (n, s) := s.take
  let link := match s.ports.pool.find? fun e => e.2.pbr = pbr && decide (e.2.dpa ≤ lv.dpa ∧ lv.dpa < e.2.dpa + e.2.len) with
    | some e => e.2.link
    | none => match s.ports.links.find? fun l => l.2.up with | some l => l.1 | none => 0
  let w : PoolW := { id := n, src := t.id.slot, link := link, epoch := Tbl.getD s.ports.epoch t.id.slot 0, pbr := pbr, dpa := lv.dpa
                     op := .read, part := t.id.part, launch := (if t.id.foreign then none else some t.id.launch), cont := some c, after := t.regs.gwct
                     serves := if contRet c then .nobody else .acc k lv.entry lv.lane }
  ({ s with ports := { s.ports with q := s.ports.q ++ [w] } }).sendFoot t pbr

/-- R92: a continuation's home lies in a lost range. -/
def State.lostDest (s : State) (lv : Leaving) : Bool :=
  match lv.pbr with
  | none => s.lostAt lv.dpa
  | some pbr => s.ports.pool.any fun e => e.2.pbr = pbr && e.2.lost
/-- Pack and send one leaving lane (R291, R293), or its live-set cause (R288, R301). On the die the continuations that one packing sends for a pass
to a cluster bear its number: they travel in one packet (R294). -/
def State.packLane (s : State) (k packet : Nat) (lv : Leaving) : State :=
  let t := s.team k
  if !lv.ok then s.deliver k { tpc := lv.orig.pc, cause := 0x5E, cls := 1 }
  else if !contRet lv.cont && s.lostDest lv then s.lostWrite k t
  else
    let c := packWct lv.cont t.regs.gwct
    let back := contRet c
    let upd := fun (l : List Leaving) =>
      if back then l.filter (fun x => x ≠ lv) else l.map fun x => if x = lv then ({ x with sent := true, cont := c } : Leaving) else x
    let s := s.modTeam k fun t => { t with sync := { t.sync with leaving := upd t.sync.leaving } }
    let s := s.count t.id.ctx 52 (b2n !back)
    match lv.pbr with
    | some pbr => s.packOut k (s.team k) lv pbr c
    | none =>
      if back then s.post .returnArrival { wide := c.setWidth 2048 }
      else s.post .continuationArrival { wide := c.setWidth 2048, n0 := lv.cluster, n1 := lv.dpa, flag := true, opt := some t.id.part, n2 := k, n3 := lv.lane,
                                            n4 := packet + 1, n5 := lv.entry, n6 := lv.lane / 32 }

/-- R299, R303: a landed team without lanes and with nothing under way retires. -/
def State.landedEnd (s : State) (k : Nat) : State :=
  s.modTeam k fun t =>
    if t.id.landed && t.flow.pres = 0 && t.sync.leaving = [] then { t with sync := { t.sync with park := .retire, reinj := [] } } else t

/-- The destination has taken a lane. -/
def State.laneTaken (s : State) (k lane : Nat) : State :=
  (s.modTeam k fun t => { t with sync := { t.sync with leaving := t.sync.leaving.filter fun x => x.lane ≠ lane } }).landedEnd k

def execLanePack (s : State) : Host.Outcome State Fault Refusal :=
  .next (match Tbl.get? s.teams s.arg.n0 with
    | some t =>
      let k := s.arg.n0
      let ls := t.sync.leaving.filter (s.mayPack k t)
      let (n, s) := s.take
      (ls.foldl (fun s lv => if (Tbl.get? s.teams k).isSome then s.packLane k n lv else s) s).landedEnd k
    | none => s)

/-! ## Arrival (R295 to R298, R300) -/

/-- R714: a message from a die has arrived over a link. -/
def State.heard (s : State) (pbr l : Nat) : State :=
  if (s.link l).ide then { s with ports := { s.ports with unreach := Tbl.del s.ports.unreach pbr, peers := Tbl.put s.ports.peers pbr l } } else s
/-- R57: the local address under a DPA of a W9L. -/
def State.dpaPa (s : State) (dpa : Nat) : Option Nat :=
  if s.fitting = .w9l then (Tbl.get? s.ports.emap (dpa / 2 ^ 28)).map fun x => x * 2 ^ 28 + dpa % 2 ^ 28 else none
/-- R295: the partitions among which the landing queue of a cluster is divided. -/
def State.landers (s : State) (cl : Nat) : List Nat :=
  (s.parts.filter fun p => if s.fitting = .w9l then s.ports.eown.any (fun x => x.2 = p.1) else p.2.cfg.mclus.getLsbD cl).map Prod.fst
/-- Landing entries of a partition in use on a cluster. -/
def State.landed (s : State) (cl p : Nat) : Nat := (((s.cluster cl).groups.filter fun g => g.part = p).map fun g => g.conts.length).sum
/-- R300: the context a landed team of another die translates in. -/
def State.landCtx (s : State) (p : Nat) : Option Nat :=
  (s.ctxs.find? fun x => x.2.part = some p).bind fun x => if bit (s.ctabOf x.1).toNat 0 then some x.1 else none
/-- R298: the key of a group. -/
def contKey (c : BitVec 1024) : List Nat :=
  [contTeam c / 2 ^ 20, contPart c, contVer c, contImg c, contPc c, contLset c, contFmt c, bits c.toNat 1023 768]

/-- R296, R300: the cause for which the destination refuses a continuation, 0 for lack of room; none when it takes it. -/
def State.landRefusal (s : State) (cl p : Nat) (own : Bool) (c : BitVec 1024) : Option Nat :=
  if !own && (s.landCtx p).isNone then some 0x5B
  else if (Tbl.get? (s.part p).images (contImg c)).isNone then some 0x5A
  else if s.landed cl p ≥ shareOf 256 (s.landers cl) p then some 0
  else none

/-- R298: a continuation joins a group of its key, or opens one. -/
def State.land (s : State) (cl p wct pa : Nat) (c : BitVec 1024) : State :=
  let (n, s) := s.take
  s.modCluster cl fun q =>
    let hit := fun (g : Group) => g.part = p && decide (g.conts.length < 32) && (g.conts.any fun x => contKey x = contKey c)
    match q.groups.find? hit with
    | some h => { q with groups := q.groups.map fun g => if g.id = h.id then { g with conts := g.conts ++ [c], pas := g.pas ++ [pa], wct := max g.wct wct } else g }
    | none => { q with groups := q.groups ++ [{ id := n, part := p, since := s.now, conts := [c], pas := [pa], wct := wct }] }

/-- A continuation of this die arrives. -/
def State.arriveOwn (s : State) (p : Nat) (a : Arg) : State :=
  let c := a.wide.setWidth 1024
  let s := s.unpost .continuationArrival a
  match s.landRefusal a.n0 p true c with
  | some x => s.post .continuationRefused { n0 := a.n2, n1 := a.n3, n2 := x }
  | none => (s.land a.n0 p (carried s.now (contWct c)) a.n1 c).laneTaken a.n2 a.n3
/-- R294: the continuations that came in one packet with one. -/
def State.packetOf (s : State) (a : Arg) : List Arg :=
  if a.n4 = 0 then [a]
  else (s.net.filter fun x => x.1 = .continuationArrival ∧ x.2.opt.isSome ∧ x.2.n0 = a.n0 ∧ x.2.n4 = a.n4 ∧ x.2.n5 = a.n5 ∧ x.2.n6 = a.n6).map Prod.snd
/-- A continuation of another die arrives over a link: R55 without an IDE stream, R96 from a blocked peer, R227 of a version that has ended. -/
def State.arriveFar (s : State) (a : Arg) : State :=
  let c := a.wide.setWidth 1024
  let die := contTeam c / 2 ^ 20
  let back := fun (s : State) x => s.emit (.contBack die c x)
  let answer := fun (s : State) (st : Nat) => s.emit (.peerReply die st false 0 [])
  if !(s.link a.n2).carries then back s 0x61
  else
    let s := s.heard die a.n2
    if (die, contPart c, contVer c) ∈ s.ports.ended then answer s 0
    else match s.dpaPa a.n1 with
      | none => back s 0x5B
      | some pa => match Tbl.get? s.ports.eown (extentOf pa) with
        | none => back s 0x5B
        | some p =>
          let cl := homeSlice pa
          if (die, p) ∈ s.ports.blocked then answer s 4
          else match s.landRefusal cl p false c with
            | some x => back s x
            | none => answer ((s.land cl p s.now pa c).modForeign die (contPart c) (contVer c) fun f => { f with own := p }) 0
/-- `CONTINUATION_ARRIVAL` (R294 to R296, R300). -/
def execContinuationArrival (s : State) : Host.Outcome State Fault Refusal :=
  .next (match s.arg.opt with
    | some p => (s.packetOf s.arg).foldl (fun s a => s.arriveOwn p a) s
    | none => s.arriveFar s.arg)

/-! ## Landed teams (R298, R299) -/

/-- R298: a core of the partition on the cluster with a slot and 64 rows. -/
def State.landCore (s : State) (cl p : Nat) : Option Nat := ((s.part p).coresOn cl).find? fun c => s.coreRoom c 64
def State.mayLandTeam (s : State) (cl : Nat) (g : Group) : Bool :=
  (decide (g.conts.length ≥ 32) || decide (g.since + 1024 ≤ s.now)) && decide (g.wct < s.now) && (s.landCore cl g.part).isSome && g.conts ≠ []

/-- R299, R300: the landed team of a group on a core. -/
def State.landedTeam (s : State) (cl : Nat) (g : Group) (core slot : Nat) : Team :=
  let c := g.conts.headD 0
  let local_ := contTeam c / 2 ^ 20 = Config.pbrId % 4096
  let lk := launchKey (contPart c) (contVer c)
  let ls := ((Tbl.getD (s.part g.part).images (contImg c) {}).liveSet 64 (contLset c)).getD { s := [], v := [] }
  let n := g.conts.length
  let lanes := g.conts.zipIdx
  { id := { part := g.part, ctx := if local_ then (s.launch lk).head.ctx else (s.landCtx g.part).getD 0, launch := if local_ then lk else 0
            img := contImg c, cluster := cl, slot := 16 * core + slot, ready := true, landed := true, foreign := !local_
            oteam := contTeam c, lver := contVer c, opart := contPart c, created := s.now, prio := 2 }
    regs := { s := ls.s.zipIdx.foldl (fun t p => Tbl.put t p.1 (BitVec.ofNat 64 (contS c p.2))) []
              v := lanes.foldl (fun t q => ls.v.zipIdx.foldl (fun t p => Tbl.put t (1024 * p.1 + q.2) (BitVec.ofNat 64 (contV q.1 p.2))) t) []
              lanes := 32, allot := 64, fmt := BitVec.ofNat 32 (contFmt c) }
    flow := { pc := BitVec.ofNat 64 (contPc c), D := ones n, pres := ones n, exited := ones 32 &&& ~~~ones n
              wid := lanes.foldl (fun t q => Tbl.put t q.2 (BitVec.ofNat 64 (contWid q.1))) []
              hop := lanes.foldl (fun t q => Tbl.put (Tbl.put (Tbl.put t q.2 (contHop q.1)) (1024 + q.2) (contLane q.1)) (2048 + q.2) (g.pas.getD q.2 0)) [] }
    sync := { lset := contLset c, lost := (s.ctx (if local_ then (s.launch lk).head.ctx else (s.landCtx g.part).getD 0)).lost }
    sched := { lastIssue := s.now, readySince := s.now } }

def execLandedTeamCreation (s : State) : Host.Outcome State Fault Refusal :=
  .next (
    let cl := s.arg.n0
    match (s.cluster cl).groups.find? fun g => g.id = s.arg.n1 with
    | none => s
    | some g =>
      if !s.mayLandTeam cl g then s
      else match s.landCore cl g.part with
        | none => s
        | some core =>
          let slot := (s.freeSlot core).getD 0
          let t := s.landedTeam cl g core slot
          let (n, s) := s.take
          let s := s.modCluster cl fun q => { q with groups := q.groups.filter fun x => x.id ≠ g.id }
          let e := (Tbl.getD s.ports.epoch t.id.slot 0 + 1) % 65536
          ({ s with teams := Tbl.put s.teams (landedKey n) t, ports := { s.ports with epoch := Tbl.put s.ports.epoch t.id.slot e } } : State).modCtx
            t.id.ctx fun x => { x with lost := [] })

/-! ## Returns and retire notices (R303, R304) -/

/-- R304: a return's registers go into its lane's slot. -/
def State.takeReturn (s : State) (c : BitVec 1024) : State :=
  let k := contOrigin c
  let l := contLane c
  -- R227: nothing but a lane that is away takes a return of its launch
  match (Tbl.get? s.teams k).filter fun t => t.flow.away.getLsbD l && (s.launch t.id.launch).head.ver = contVer c with
  | none => s
  | some t =>
    let ls := ((s.image t).liveSet t.regs.allot (contLset c)).getD { s := [], v := [] }
    let t := { t with
      regs := ls.v.zipIdx.foldl (fun r p => r.setV p.1 l (BitVec.ofNat 64 (contV c p.2))) t.regs
      flow := { t.flow with away := t.flow.away &&& ~~~bitM l, ret := t.flow.ret ||| bitM l, hop := Tbl.put t.flow.hop l (contHop c) }
      sync := { t.sync with leaving := t.sync.leaving.filter fun x => x.lane ≠ l } }
    ((s.setTeam k t).modLaunch t.id.launch fun x => { x with conts := x.conts - 1 }).count t.id.ctx 53 1

/-- R304: a return of this die waits until its carried time has passed; one from another die passed it where it was sent. -/
def State.mayReturn (s : State) (c : BitVec 1024) : Bool := decide (carried s.now (contWct c) < s.now)
def execReturnArrival (s : State) : Host.Outcome State Fault Refusal :=
  .next (
    let c := s.arg.wide.setWidth 1024
    let inner := s.net.any fun x => x.1 = .returnArrival ∧ x.2 = s.arg
    if inner then (if s.mayReturn c then (s.unpost .returnArrival s.arg).takeReturn c else s)
    else if (s.link s.arg.n0).carries then s.takeReturn c else s)

/-- R303, R305: a lane that retired at its destination is exited at its origin. -/
def State.takeNotice (s : State) (k l : Nat) (ver : Option Nat) : State :=
  match (Tbl.get? s.teams k).filter fun t => t.flow.away.getLsbD l && ver.all fun v => (s.launch t.id.launch).head.ver = v with
  | none => s
  | some t =>
    let b := bitM l
    let t := { t with
      flow := { t.flow with away := t.flow.away &&& ~~~b, exited := t.flow.exited ||| b, D := t.flow.D &&& ~~~b
                            stack := t.flow.stack.map fun e => { e with mask := e.mask &&& ~~~b } }
      sync := { t.sync with leaving := t.sync.leaving.filter fun x => x.lane ≠ l } }
    ((s.setTeam k t).spillOut t).modLaunch t.id.launch fun x => { x with conts := x.conts - 1 }
/-- R196, R303: a landed lane has retired, and its notice goes out: what its team issued before has been performed; the last lanes retire with the
team. -/
def State.mayNotice (s : State) (a : Arg) : Bool :=
  a.n2 = 0 || (match Tbl.get? s.teams (a.n2 - 1) with | some t => decide (t.flow.pres ≠ 0) && t.sync.earlierDone a.n3 | none => true)
/-- `RETIRE_NOTICE` (R303): it leaves for the die of the origin team, or marks the lane. -/
def execRetireNotice (s : State) : Host.Outcome State Fault Refusal :=
  .next (
    let a := s.arg
    let inner := s.net.any fun x => x.1 = .retireNotice ∧ x.2 = a
    if inner && !s.mayNotice a then s
    else
      let s := s.unpost .retireNotice a
      if a.n4 ≠ 0 then s.emit (.retire (a.n4 - 1) (a.n0 % 2 ^ 20) a.n1 (a.opt.getD 0)) else s.takeNotice a.n0 a.n1 a.opt)

/-! ## Refusal (R297, R306, R307) -/

/-- Entries that stay with a team: what an engine or a monitor has still to deliver. -/
def Entry.kept (e : Entry) : Bool := !e.done && e.accs = [] && (e.stage = 3 || e.stage = 2)
/-- R174: an entry with virtual addresses only: what it still has to do translates again. -/
def Entry.rewound (e : Entry) : Entry :=
  { e with accs := e.accs.map fun a => { a with wait := .xlat, segs := [], got := [], pz := none, moved := false, through := false } }
/-- R421, R259: the unfinished entries of a team become replay entries. Those of a frozen team stay as they are, without physical addresses (R97,
R174). -/
def Team.toReplay (t : Team) (keep : Entry → Bool) : Team :=
  if t.sched.frozen.isSome then { t with sync := { t.sync with rq := t.sync.rq.map Entry.rewound, fetch := {} } }
  else
    let back := (t.sync.rq.filter fun e => !e.done && !keep e).map fun (e : Entry) => ({ e with accs := [], dest := [], clob := [] } : Entry)
    let left := t.sync.rq.filter keep
    let park := match t.sync.park with
      | .waitc => if left.any (fun e => e.stage = 2) then .waitc else .run
      | .fe => .run
      | .switch => if left = [] then .run else .switch
      | p => p
    let sy : TeamSync := { t.sync with rq := left, reinj := back ++ t.sync.reinj, fetch := {} }
    { t with sync :=
        if sy.reinj = [] then { sy with park := park }
        else if t.sync.reinj ≠ [] || t.sync.park = .tretWait then { sy with park := .tretWait }
        else { sy with park := .tretWait, parkAfter := park } }

/-- R307: an entry is taken up again for one lane. -/
def reopen (rq : List Entry) (e : Entry) : List Entry :=
  if rq.any fun x => x.id = e.id then
    rq.map fun x => if x.id = e.id then { x with accs := x.accs ++ e.accs, gov := x.gov ||| e.gov, done := false, dest := if x.dest = [] then e.dest else x.dest } else x
  else rq.takeWhile (fun x => decide (x.id < e.id)) ++ [e] ++ rq.dropWhile (fun x => decide (x.id < e.id))

/-- A lane that does not leave after all is present again, with an entry for its access. -/
def Team.laneBack (t : Team) (lv : Leaving) (e : Entry) : Team :=
  let b := bitM lv.lane
  { t with
    flow := { t.flow with pres := t.flow.pres ||| b, away := t.flow.away &&& ~~~b, exited := if t.id.landed then t.flow.exited &&& ~~~b else t.flow.exited }
    sync := { t.sync with leaving := t.sync.leaving.filter (fun x => x.lane ≠ lv.lane), rq := reopen t.sync.rq e } }
/-- R259, R310: a lane being packed when quiescence takes effect is not yet away: its access is one of its team again. -/
def State.unleave (s : State) (k : Nat) : State :=
  ((s.team k).sync.leaving.filter fun x => !x.sent && x.refusedAt.isNone && !contRet x.cont).foldl (fun s lv =>
    let s := s.modTeam k fun t => t.laneBack lv { lv.orig with accs := lv.orig.accs.map fun a => { a with wait := .xlat } }
    if (s.team k).id.landed then s else s.modLaunch (s.team k).id.launch fun x => { x with conts := x.conts - 1 }) s
/-- What an entry that comes back to a team that is not resident does: it becomes a replay entry, and an evicted team may be restored. -/
def State.replayAway (s : State) (k : Nat) : State :=
  match Tbl.get? s.teams k with
  | some t =>
    if t.resident then s
    else s.setTeam k (let t := t.toReplay Entry.kept; { t with id := { t.id with ready := t.id.ready || (match t.id.loc with | .evicted => true | _ => false) } })
  | none => s

/-- R307: the migration of a lane is refused: it is present again, and its access takes the slow path or traps. -/
def State.refuseLane (s : State) (k lane cause : Nat) : State :=
  match Tbl.get? s.teams k with
  | none => s
  | some t =>
    match t.sync.leaving.find? fun x => x.lane = lane with
    | none => s
    | some lv =>
      let trap := t.sync.migTrap && !t.id.landed
      let e := { lv.orig with accs := lv.orig.accs.map fun a => { a with stay := true, wait := .xlat } }
      let e := if trap then { e with accs := [], raised := some { cause := cause, lane := lane, info := infoM (lv.cluster, lv.pbr, lv.dpa) (t.hopOf lane) t.sync.lset }, faulting := true } else e
      let t := t.laneBack lv e
      let t := { t with sync := { t.sync with
        lastRefusal := cause, rq := if trap then t.sync.rq.map fun x => if x.id = e.id then { x with raised := e.raised, faulting := true } else x else t.sync.rq } }
      let s := (s.setTeam k t).count t.id.ctx 54 1
      ((if t.id.landed then s else s.modLaunch t.id.launch fun x => { x with conts := x.conts - 1 }).settle k).replayAway k

/-- R71, R297: a continuation that a W9L refused is over at its edge port. -/
def State.dropCont (s : State) (k lane : Nat) : State :=
  let mine := fun (w : PoolW) => w.cont.isSome && (match w.serves with | .acc j _ l => j = k && l = lane | _ => false)
  (s.ports.q.filter mine).foldl (fun s w =>
    let key := w.src * 8 + w.link
    { s with ports := { s.ports with q := s.ports.q.filter fun x => x.id ≠ w.id,
                                      fence := if w.left then Tbl.putD s.ports.fence key (Tbl.getD s.ports.fence key 0 - 1) 0 else s.ports.fence } }) s
def execContinuationRefused (s : State) : Host.Outcome State Fault Refusal :=
  .next (
    let a := s.arg
    let s := (s.unpost .continuationRefused a).dropCont a.n0 a.n1
    if a.n2 = 0 then
      s.modTeam a.n0 fun t => { t with sync := { t.sync with leaving := t.sync.leaving.map fun (x : Leaving) =>
        if x.lane = a.n1 then ({ x with sent := false, refusedAt := some (x.refusedAt.getD s.now) } : Leaving) else x } }
    else s.refuseLane a.n0 a.n1 a.n2)

/-- R297: 4,096 ticks have passed since the first refusal. -/
def Leaving.timedOut (x : Leaving) (now : Nat) : Bool := !x.sent && (match x.refusedAt with | some r => decide (r + 4096 ≤ now) | none => false)
def execLandingTimeout (s : State) : Host.Outcome State Fault Refusal :=
  .next (if (s.team s.arg.n0).sync.leaving.any fun x => x.lane = s.arg.n1 && x.timedOut s.now then s.refuseLane s.arg.n0 s.arg.n1 0x59 else s)

/-! ## What may happen -/

/-- Migration events that may happen now. -/
def State.migEvents (s : State) : List (Instr × Arg) :=
  (s.teams.flatMap fun p =>
    (if p.2.sync.leaving.any (s.mayPack p.1 p.2) then [(Instr.lanePack, ({ n0 := p.1 } : Arg))] else []) ++
      (p.2.sync.leaving.filter fun x => x.timedOut s.now).map fun x => (Instr.landingTimeout, { n0 := p.1, n1 := x.lane })) ++
    (s.clusters.flatMap fun c => (c.2.groups.filter (s.mayLandTeam c.1)).map fun g => (Instr.landedTeamCreation, { n0 := c.1, n1 := g.id })) ++
    s.net.filter fun x => match x.1 with | .returnArrival => s.mayReturn (x.2.wide.setWidth 1024) | .retireNotice => s.mayNotice x.2 | _ => true

end Sys2Proof.Machine
end

