-- ==== Sys2Proof/Machine/Commit.lean ====
section
/-! DEFINITION. Commits on this die and in the pool, the W9L's side of them, held host writes and completion records (R125 to R128, R138,
R196, R206, R209 to R221, R230). -/

namespace Sys2Proof.Machine

/-! ## Scheduling (R210, R214, R217) -/

/-- R90: a die that the decoder table knows as lost. -/
def State.goneDie (s : State) (pbr : Nat) : Bool := s.ports.pool.any fun e => e.2.pbr = pbr && e.2.lost
/-- R71: the source number of a partition's commit unit. -/
def commitSrc (p : Nat) : Nat := 6144 + p
/-- R210: the stream order under version policy 0. -/
def State.streamTurn (s : State) (h : LHead) : Bool :=
  h.vpol ≠ 0 || s.launches.all fun o =>
    !(o.2.head.ctx = h.ctx && o.2.head.stream = h.stream && o.2.head.part = h.part && o.2.uncommitted && verOlder o.2.head.ver h.ver)
/-- R198: device time has passed the flip time of the chain predecessor. -/
def State.chainPassed (s : State) (h : LHead) : Bool :=
  match h.chain with
  | none => true
  | some q => match Tbl.get? s.launches q with
    | some l => match l.st with | .flipped t => decide (t < s.now) | _ => false
    | none => true
/-- R438: a team of the context is halted. -/
def State.anyHalted (s : State) (c : Nat) : Bool := s.teams.any fun t => t.2.id.ctx = c && t.2.sched.halted
/-- R413: the order point lets a generating launch commit. -/
def State.streamFree (s : State) (h : LHead) : Bool := match h.ds with | some d => s.orderFree h.part d.1 | none => true

/-- R184, R210, R214, R438: a launch's commit may be scheduled. -/
def State.mayCommit (s : State) (lk : Nat) : Bool :=
  match Tbl.get? s.launches lk with
  | none => false
  | some l =>
    (match l.st with | .started => true | _ => false) && s.complete lk && s.streamTurn l.head && l.edges.all (s.edgeMet lk) && s.chainPassed l.head &&
      ((l.shadow.map Prod.fst) ++ l.plines).all (fun ln => (s.movingPa (64 * ln)).isNone) && decide (l.gwctMax < s.now) && !s.anyHalted l.head.ctx &&
      s.streamFree l.head

/-- R217: a prepare goes to a W9L home as a pool write of the commit unit. -/
def State.sendPrepare (s : State) (l : Launch) (lk pbr : Nat) : State :=
  let (n, s) := s.take
  let src := commitSrc l.head.part
  let e := s.ports.pool.find? fun e => e.2.pbr = pbr
  let w : PoolW := { id := n, src := src, link := (e.map fun e => e.2.link).getD 0, epoch := Tbl.getD s.ports.epoch src 0, pbr := pbr, dpa := 0
                     op := .prepare l.head.part l.head.ver, part := l.head.part, launch := some lk, after := l.gwctMax, commitUnit := true }
  { s with ports := { s.ports with q := s.ports.q ++ [w] } }

/-- `COMMIT_SCHEDULE` (R210, R214, R217): the commit unit begins, with the prepares when the set holds pool lines. -/
def execCommitSchedule (s : State) : Host.Outcome State Fault Refusal :=
  .next (
    let lk := s.arg.n0
    if !s.mayCommit lk then s
    else
      let l := s.launch lk
      let s := match l.head.ds with
        | some d => s.modStm l.head.part d.1 fun x => { x with accepted := some lk }
        | none => s
      let dies := l.dies.filter fun d => !s.goneDie d
      let s := s.traceLaunch l.head 2 0 0
      if dies = [] then s.modLaunch lk fun l => { l with st := .notified s.now [], dies := [] }
      else
        let src := commitSrc l.head.part
        let e := (Tbl.getD s.ports.epoch src 0 + 1) % 65536
        let s := { s with ports := { s.ports with epoch := Tbl.put s.ports.epoch src e } }
        let s := dies.foldl (fun s d => s.sendPrepare l lk d) s
        s.modLaunch lk fun l => { l with st := .preparing s.now dies [], dies := dies })

/-! ## The local commit (R211) -/

/-- R211 step 2: a home's e_h for the lines of a launch's commit set. -/
def State.homeExpiry (s : State) (l : Launch) (h : Nat) : Nat :=
  (l.shadow.filter fun x => homeSlice (64 * x.1) = h).foldl (fun m x => max m (s.leaseExpiry x.1 none)) s.now

/-- `COMMIT_NOTICE` (R211 step 2). -/
def execCommitNotice (s : State) : Host.Outcome State Fault Refusal :=
  .next (
    let h := s.arg.n1
    match Tbl.get? s.launches s.arg.n0 with
    | none => s
    | some l =>
      match l.st with
      | .notified ts hs =>
        if h < 96 ∧ (Tbl.get? hs h).isNone then s.modLaunch s.arg.n0 fun l => { l with st := .notified ts (Tbl.put hs h (s.homeExpiry l h)) } else s
      | _ => s)

/-- `COMMIT_REPORTS_IN` (R211 steps 3 and 4). -/
def execCommitReportsIn (s : State) : Host.Outcome State Fault Refusal :=
  .next (
    match Tbl.get? s.launches s.arg.n0 with
    | none => s
    | some l =>
      match l.st with
      | .notified ts hs =>
        if hs.length = 96 then
          s.modLaunch s.arg.n0 fun l => { l with st := .timed ts (max (hs.foldl (fun m x => max m x.2) 0) (ts + 96) + 32) hs }
        else s
      | _ => s)

/-! ## The flip (R206, R211, R397 to R407, R627, R634, R635) -/

/-- R206, R211: shadow entries and deltas become committed state. A line of a lost range takes none. Hosts that hold a line are back-invalidated
(R58). -/
def State.flipLines (s : State) (sh : Tbl Shadow) (ds : Tbl Delta) : State :=
  let s := ((sh.map Prod.fst) ++ ds.map fun d => lineNo d.1).foldl State.snoopOut s
  let s := sh.foldl (fun s x => if s.lostAt (64 * x.1) then s else s.commitLine (64 * x.1) x.2.mask x.2.data x.2.poison x.2.clean) s
  ds.foldl (fun s d =>
    if s.lostAt d.1 then s else { s with mem := memPuts s.mem d.1 (leBytes d.2.esz (d.2.addTo (memNat s.mem d.1 d.2.esz))) }) s

/-- R635: the cut of the stream truncations of a launch that reaches an entry. -/
def State.streamCut (s : State) (p i : Nat) (views : Tbl KvView) : Option Nat :=
  views.foldl (fun m v =>
    match v.2.gcut with
    | none => m
    | some c =>
      let d := (s.part p).stm v.1
      let hit := (d.kvh.take d.nkv).any fun h => hPart h = p && hIdx h = i && hGen h = ((s.part p).kvEnt i).gen && ((s.part p).kvEnt i).kind = 1
      if hit then some (match m with | some x => min x c | none => c) else m) none

/-- R397, R403, R405, R407, R635: a flip's effect on one entry: its length, its cut with one bump of its generation, its centroids
and its claim. -/
def State.flipEnt (s : State) (p lk i : Nat) (views : Tbl KvView) : State :=
  let v := Tbl.getD views i {}
  let c2 := s.streamCut p i views
  let e := (s.part p).kvEnt i
  let vl := v.len.getD e.len
  let s :=
    match v.cut, c2 with
    | none, none => s.modKv p i fun e => { e with len := vl }
    | some c, none => s.modPart p fun P => P.truncTo i c vl
    | none, some c => s.modPart p fun P => P.truncTo i c (min vl c)
    | some c, some d => s.modPart p fun P => P.truncTo i (min c d) (min vl d)
  s.modKv p i fun e => { e with cset := v.cset.getD e.cset, cstale := (if c2.isSome then true else v.stale.getD e.cstale)
                                claim := if e.claim = some lk then none else e.claim }

/-- R634, R635: a flip's effect on a stream: its cursors, the generations of its handles as truncated, and the window copies. -/
def State.flipStm (s : State) (old : Part) (p i : Nat) (v : KvView) : State :=
  match Tbl.get? (s.part p).stms i, v.g with
  | some _, some g =>
    let s := s.modStm p i fun d => { d with
      gcur := g, hcur := v.gcut.getD d.hcur
      kvh := if v.gcut.isNone then d.kvh else d.kvh.zipIdx.map fun h =>
        if h.2 < d.nkv ∧ hPart h.1 = p ∧ hGen h.1 = (old.kvEnt (hIdx h.1)).gen ∧ (old.kvEnt (hIdx h.1)).kind = 1 then
          mkHandle p ((s.part p).kvEnt (hIdx h.1)).gen (hIdx h.1) (hWr h.1) (hBound h.1)
        else h.1 }
    s.writeWindow p i
  | _, _ => s

/-- What a launch's view of KV entries and streams becomes at its flip. -/
def State.flipKv (s : State) (lk : Nat) (l : Launch) : State :=
  let p := l.head.part
  let old := s.part p
  let cutHs := l.kv.flatMap fun v => if v.2.gcut.isSome then ((old.stm v.1).kvh.take (old.stm v.1).nkv).filterMap fun h =>
      if hPart h = p ∧ hGen h = (old.kvEnt (hIdx h)).gen then some (hIdx h) else none else []
  let idxs := ((l.kv.map Prod.fst) ++ cutHs).dedup.filter fun i => (old.kvEnt i).kind = 1
  let s := idxs.foldl (fun s i => s.flipEnt p lk i l.kv) s
  let s := l.kv.foldl (fun s v => s.flipStm old p v.1 v.2) s
  match l.head.ds with
  | some d => s.modStm p d.1 fun x => { x with accepted := if x.accepted = some lk then none else x.accepted }
  | none => s

/-- R217 step 3: a commit message to a W9L home. -/
def State.sendCommit (s : State) (l : Launch) (lk pbr : Nat) : State :=
  let (n, s) := s.take
  let s := ({ s with xlat := { s.xlat with reqs := s.xlat.reqs ++ [{ tag := n, for_ := .die pbr, addr := 0, write := true, since := s.now }] } } : State).emit
    (.poolCommit n pbr l.head.part l.head.ver)
  s.modLaunch lk fun l => { l with poolWait := l.poolWait ++ [n] }

/-- The launch takes effect at its flip time: its record queues, and what is left of it finishes by R128. -/
def State.flip (s : State) (lk t : Nat) : State :=
  let l := s.launch lk
  let s := ((s.flipLines l.shadow l.deltas).flipKv lk l).modLaunch lk fun l => { l with st := .flipped t, shadow := [], deltas := [], kv := [] }
  let s := (l.dies.filter fun d => !s.goneDie d).foldl (fun s d => s.sendCommit l lk d) s
  let s := s.finalRecord l.head.ctx { pid := l.head.pid, time := t, ver := l.head.ver, lid := l.head.lid, cause := 0, status := 0, stream := l.head.stream } false
  ((s.kvSettle l.head.part).traceLaunch l.head 3 0 t).count l.head.ctx 56 1

/-- `COMMIT_FLIP` (R211 step 5). -/
def execCommitFlip (s : State) : Host.Outcome State Fault Refusal :=
  .next (match Tbl.get? s.launches s.arg.n0 with
    | some l => match l.st with | .timed _ t _ => if t ≤ s.now then s.flip s.arg.n0 t else s | _ => s
    | none => s)

/-- Launches whose flip time has come; of one partition the oldest first (R206, R397). -/
def State.flips (s : State) : List Nat :=
  let due := s.launches.filter fun l => match l.2.st with | .timed _ t _ => decide (t ≤ s.now) | _ => false
  (due.filter fun l => due.all fun o => !(o.2.head.part = l.2.head.part && verOlder o.2.head.ver l.2.head.ver)).map Prod.fst

/-- R60: the back-invalidations that this die began for itself by a time have all been answered. -/
def State.snoopedBy (s : State) (t : Nat) : Bool := s.ports.swait.all fun w => w.host.isSome || w.pbr.isSome || decide (t < w.since)
/-- R128: nothing of a committed launch is under way any more. -/
def State.settled (s : State) (l : Launch) : Bool :=
  match l.st with
  | .flipped t => decide (t < s.now) && s.landedAll l && s.snoopedBy t
  | _ => false
/-- Committed launches that have finished leave the sequencer. -/
def State.sweep (s : State) : State :=
  if s.launches.any fun l => s.settled l.2 then { s with launches := s.launches.filter fun l => !s.settled l.2 } else s

/-! ## Pool commits (R217 to R221) -/

/-- `PREPARE_ACKNOWLEDGED` (R217 step 2, R218): with every home's answer the launch is prepared and its local commit runs. -/
def execPrepareAcknowledged (s : State) : Host.Outcome State Fault Refusal :=
  .next (
    let lk := s.arg.n0
    match Tbl.get? s.launches lk with
    | none => s
    | some l =>
      match l.st with
      | .preparing since dies acked =>
        if s.arg.n1 ∉ dies then s
        else if !s.arg.flag then s.abortLaunch lk 0x52 1
        else
          let acked := if s.arg.n1 ∈ acked then acked else acked ++ [s.arg.n1]
          s.modLaunch lk fun l => { l with st := if dies.all fun d => d ∈ acked then .notified s.now [] else .preparing since dies acked }
      | _ => s)

/-- R218: 1 ms in ticks (R3). -/
def msTicks : Nat := 1050000
/-- `PREPARE_TIMEOUT` (R218). -/
def execPrepareTimeout (s : State) : Host.Outcome State Fault Refusal :=
  .next (match (s.launch s.arg.n0).st with
    | .preparing since _ _ => if since + msTicks ≤ s.now then s.abortLaunch s.arg.n0 0x52 1 else s
    | _ => s)

/-- What the die holds of another die's version. -/
def State.holdsOf (s : State) (d p v : Nat) : Bool := s.ports.foreign.any fun f => f.is d p v
def State.dropForeign (s : State) (d p v : Nat) : State :=
  { s with ports := { s.ports with
      foreign := s.ports.foreign.filter fun f => !f.is d p v
      mons := s.ports.mons.filter fun m => !(m.die = d && m.part = p && m.ver = v) } }

/-- R55, R714: a message of another die over a link: unsupported without an IDE stream; with one, the die has been heard. -/
def State.fromDie (s : State) (d l : Nat) (go : State → State) : State :=
  if (s.link l).carries then go (s.heard d l) else s.emit (.peerReply d 1 false 0 [])
/-- `POOL_PREPARE` (R217 step 1, R218): a W9L home locks its entries of the version, or refuses when it holds none. -/
def execPoolPrepare (s : State) : Host.Outcome State Fault Refusal :=
  .next (
    let d := s.arg.n0
    let p := s.arg.n1
    let v := s.arg.n2
    s.fromDie d s.arg.n3 fun s =>
      if s.holdsOf d p v then (s.modForeign d p v fun f => { f with locked := true }).emit (.peerReply d 0 false 0 [])
      else s.emit (.peerReply d 1 false 0 []))

/-- R227: late writes and continuations of a version are discarded: its tag is kept for the next 4,096 of its partition. -/
def State.noteEnded (s : State) (d p v : Nat) : State :=
  let old := s.ports.ended.filter fun x => x ≠ (d, p, v) && !(x.1 = d && x.2.1 = p && decide (4096 < (v + 2 ^ 24 - x.2.2) % 2 ^ 24))
  { s with ports := { s.ports with ended := old ++ [(d, p, v)] } }
/-- R60: some line of a version is held by hosts. -/
def State.flipHeld (s : State) (d p v : Nat) : List Nat :=
  let f := s.foreignOf d p v
  ((f.shadow.map Prod.fst) ++ f.deltas.map fun x => lineNo x.1).filter s.hostHolds
/-- R217 step 3, R220: every line of the version on this die flips at one instant. -/
def State.flipForeign (s : State) (d p v : Nat) : State :=
  let f := s.foreignOf d p v
  (s.flipLines f.shadow f.deltas).dropForeign d p v
/-- R60, R217 step 3: the commit of another die's version: once the hosts that hold its lines have answered, it flips and the message is
answered. -/
def State.commitFar (s : State) (d p v : Nat) : State :=
  match s.flipHeld d p v with
  | [] => (s.flipForeign d p v).emit (.peerReply d 0 false 0 [])
  | ln :: _ =>
    let b := (Tbl.get? s.ports.snoop ln).elim 0 Snoop.bi
    let s := s.backInvalidate b ln
    { s with ports := { s.ports with swait := s.ports.swait ++ [{ line := ln, bi := b, host := none, pbr := some d, dpa := 0, op := .commit p v, since := s.now }] } }
/-- `POOL_COMMIT_MESSAGE` (R217 step 3). -/
def execPoolCommitMessage (s : State) : Host.Outcome State Fault Refusal :=
  let a := s.arg
  .next (s.fromDie a.n0 a.n3 fun s => s.commitFar a.n0 a.n1 a.n2)

/-- R227, R310: landed teams, continuations and returns of another die's version end, with what is under way for them. -/
def State.endLanded (s : State) (d p v : Nat) : State :=
  let gone := (s.teams.filter fun t => t.2.id.foreign && t.2.id.oteam / 2 ^ 20 = d && t.2.id.opart = p && t.2.id.lver = v).map Prod.fst
  { s with
    teams := s.teams.filter fun t => t.1 ∉ gone
    net := s.net.filter fun x => !netOf d p v gone x
    ports := { s.ports with q := s.ports.q.filter fun w => w.left || !(w.cont.any fun c => contIs c d p v) }
    xlat := { s.xlat with
      reqs := s.xlat.reqs.map fun (r : Req) => (match r.for_ with | .acc t _ _ => if t ∈ gone then ({ r with for_ := .nobody } : Req) else r | _ => r)
      moves := s.xlat.moves.map fun (m : Move) => ({ m with queue := m.queue.filter (fun x => match x.who with | .acc t _ _ => decide (t ∉ gone) | _ => true) } : Move) }
    clusters := Tbl.mapV s.clusters fun _ c =>
      { c with cards := c.cards.filter fun k => k.team ∉ gone
               open_ := c.open_.filter fun g => c.cards.all fun k => k.team ∉ gone || k.tag ≠ g
               groups := c.groups.filter fun g => !(g.conts.any fun k => contIs k d p v) } }
/-- R221, R227: everything that this die holds of another die's version is discarded. -/
def State.endVersion (s : State) (d p v : Nat) : State := ((s.endLanded d p v).dropForeign d p v).noteEnded d p v
/-- `POOL_ABORT_MESSAGE` (R218, R227). -/
def execPoolAbortMessage (s : State) : Host.Outcome State Fault Refusal :=
  let a := s.arg
  .next (s.fromDie a.n0 a.n3 fun s => (s.endVersion a.n0 a.n1 a.n2).emit (.peerReply a.n0 0 false 0 []))

/-- `OUTCOME_QUERY` (R221, over a link with an IDE stream): the commit unit answers commit for a prepared or committed launch, and aborts any other. -/
def execOutcomeQuery (s : State) : Host.Outcome State Fault Refusal :=
  .next (
    let p := s.arg.n1
    let v := s.arg.n2
    if !(s.link s.arg.n3).carries then s.emit (.peerReply s.arg.n0 1 false 0 []) else
    match s.launches.find? fun l => l.2.head.part = p && l.2.head.ver = v with
    | some (lk, l) =>
      let yes := match l.st with | .notified _ _ => true | .timed _ _ _ => true | .flipped _ => true | .prepared => true | _ => false
      if yes then s.emit (.outcome s.arg.n0 p v true) else (s.abortLaunch lk 0x52 1).emit (.outcome s.arg.n0 p v false)
    | none =>
      let yes := s.ctxs.any fun c => c.2.part = some p && c.2.retired.any fun r => r.ver = v && r.committed
      s.emit (.outcome s.arg.n0 p v yes))

/-! ## Held host writes (R209, R329) -/

/-- R209, R329: a held write may be sent: it is the first of its line, every write of an earlier group has its completion, and nothing it
waits for is outstanding. -/
def State.maySend (s : State) (lk : Nat) (l : Launch) (h : Held) : Bool :=
  !h.sent && l.held.all (fun o => decide (h.group ≤ o.group)) && ((l.held.find? fun o => o.va = h.va) == some h) && s.waitOver (.held lk h.va) h.fetch.wait
/-- The next held write of a committed launch. -/
def State.nextHeld (s : State) (lk : Nat) : Option Held :=
  match Tbl.get? s.launches lk with
  | some l => (match l.st with
    | .flipped t => if t < s.now then l.held.find? (s.maySend lk l) else none
    | _ => none)
  | none => none

/-- R209: a held write that is over leaves; a refused one leaves the cause 0x29 in the launch's record and outcome. -/
def State.heldDone (s : State) (lk va : Nat) (refused : Bool) : State :=
  let l := s.launch lk
  let s := s.modLaunch lk fun l => { l with held := match l.held.findIdx? fun h => h.va = va with | some i => l.held.eraseIdx i | none => l.held }
  if refused then
    s.modCtx l.head.ctx fun x =>
      let f := fun (r : CRec) => if r.pid = l.head.pid ∧ r.ver = l.head.ver then { r with cause := 0x29 } else r
      { x with crecs := x.crecs.map f, clate := x.clate.map f
               retired := x.retired.map fun r => if r.pid = l.head.pid ∧ r.ver = l.head.ver then { r with cause := 0x29 } else r }
  else s

/-- `HELD_HOST_WRITES_SEND` (R209, R329): the next held write is translated again and sent. -/
def execHeldHostWritesSend (s : State) : Host.Outcome State Fault Refusal :=
  .next (
    let lk := s.arg.n0
    match s.nextHeld lk with
    | none => s
    | some h =>
      let l := s.launch lk
      let who := Serves.held lk h.va
      let g := s.agent who l.head.ctx none
      let lo := (List.range 64).findIdx fun i => h.mask.getLsbD i
      if (s.part l.head.part).drops s.now then s.heldDone lk h.va false
      else match s.unitXlat g .store (h.va + lo) 1 with
        | .wait w s => s.modFetch who fun f => { f with wait := w }
        | .fault _ s => s.heldDone lk h.va true
        | .freeze _ _ s => s.heldDone lk h.va true
        | .ok sg s =>
          let pa := lineBase sg.pa
          if sg.host then
            let (n, s) := s.tellHost who sg h.mask h.data h.pois
            s.modLaunch lk fun l => { l with held := l.held.map fun (x : Held) => if x = h then ({ x with sent := true, tag := n } : Held) else x }
          else if s.isLocal pa then
            if s.hostHolds (lineNo pa) then (s.snoopOut (lineNo pa)).modFetch who fun f => { f with wait := .snoop } else
            (s.recallAll (lineNo pa)).commitLine pa h.mask h.data h.pois (decide (h.mask = BitVec.allOnes 64)) |>.heldDone lk h.va false
          else match s.poolFor l.head.part pa with
            | none => s.heldDone lk h.va true
            | some e =>
              if e.lost then s.heldDone lk h.va false else
              let (n, s) := s.askPool who e pa (.write h.mask h.data h.pois) true
              s.modLaunch lk fun l => { l with held := l.held.map fun (x : Held) => if x = h then ({ x with sent := true, tag := n } : Held) else x })

/-! ## Completion records (R125 to R128, R138, R230) -/

/-- R126: slots of the completion area; none when records are disabled. -/
def Ctx.slots (x : Ctx) : Option Nat := if bits x.cbase.toNat 3 0 ≤ 8 then some (256 * 2 ^ bits x.cbase.toNat 3 0) else none
/-- R126: the area takes a record. -/
def Ctx.roomFor (x : Ctx) : Bool := match x.slots with | some n => decide (countGap x.cprod x.ccons < n) | none => true
/-- R128, R230: nothing holds a record back. -/
def State.recordFree (s : State) (c : Nat) (r : CRec) : Bool :=
  (r.waits.all fun n => s.xlat.reqs.all fun q => q.tag ≠ n) && (r.status ≠ 0 || (decide (r.time < s.now) && s.snoopedBy r.time && s.launches.all fun l => !(l.2.head.ctx = c && l.2.head.pid = r.pid)))
/-- The record that may be written. -/
def State.nextRecord (s : State) (c : Nat) : Option CRec :=
  let x := s.ctx c
  match x.crecs with
  | r :: _ => if s.recordFree c r && x.roomFor && s.waitOver (.crec c) x.cfetch.wait then some r else none
  | [] => none

/-- R125: the 16 bytes of a record written as the n-th of an area of `slots`. -/
def CRec.word (r : CRec) (n slots : Nat) : Nat :=
  r.time % 2 ^ 64 * 2 ^ 64 + r.ver % 2 ^ 24 * 2 ^ 40 + r.lid % 2 ^ 24 * 2 ^ 16 + r.cause % 256 * 256 + r.status % 4 * 64 + r.stream % 16 * 4 +
    b2n (decide (n / slots % 2 = 0)) * 2

/-- R126: the head record leaves the buffer, and a late one enters. -/
def Ctx.shiftRec (x : Ctx) : Ctx :=
  match x.clate with
  | r :: l => { x with crecs := x.crecs.tail ++ [r], clate := l, cfetch := {} }
  | [] => { x with crecs := x.crecs.tail, cfetch := {} }
/-- R127: the message of a stream after one of its records. -/
def State.sirqFor (s : State) (c : Nat) (r : CRec) : State :=
  let x := s.ctx c
  let q := (x.stream r.stream).sirq.toNat
  let on := bits q 1 0 = 1 || (bits q 1 0 = 2 && decide (r.status ≠ 0))
  match x.vecs[bits q 7 4]? with
  | some v => if on then s.sendMsix v else s
  | none => s

/-- `COMPLETION_RECORD_WRITE` (R125 to R128, R138). -/
def execCompletionRecordWrite (s : State) : Host.Outcome State Fault Refusal :=
  .next (
    let c := s.arg.n0
    let x := s.ctx c
    match s.nextRecord c with
    | none => s
    | some r =>
      match x.slots with
      | none => s.modCtx c Ctx.shiftRec
      | some n =>
        let va := bits x.cbase.toNat 56 12 * 4096 + x.cprod % n * 16
        match s.unitWrite (s.agent (.crec c) c none) none va (leBytes 16 (r.word x.cprod n)) with
        | .wait w s => s.modFetch (.crec c) fun f => { f with wait := w }
        | .fault _ s => s.modCtx c fun x => { x.shiftRec with cerr := true }
        | .freeze _ _ s => s.modCtx c fun x => { x.shiftRec with cerr := true }
        | .ok _ s =>
          let s := (s.modCtx c fun x => { x.shiftRec with cprod := x.cprod + 1 }).modStream c r.stream fun q => { q with done := (q.done + 1) % 65536 }
          s.sirqFor c r)

/-! ## What may happen -/

/-- R34, R211: what must happen in this tick, since no later enabled one is left in time. -/
def State.commitDue (s : State) : List (Instr × Arg) :=
  (s.flips.map fun lk => (Instr.commitFlip, ({ n0 := lk } : Arg))) ++
    s.launches.flatMap fun l => match l.2.st with
      | .notified ts hs =>
        if ts + 48 < s.nextOn (s.now + 1) ∧ hs.length < 96 then
          ((List.range 96).filter fun h => (Tbl.get? hs h).isNone).map fun h => (Instr.commitNotice, ({ n0 := l.1, n1 := h } : Arg))
        else if ts + 96 < s.nextOn (s.now + 1) then [(Instr.commitReportsIn, ({ n0 := l.1 } : Arg))] else []
      | .preparing since _ _ => if since + msTicks ≤ s.now then [(Instr.prepareTimeout, ({ n0 := l.1 } : Arg))] else []
      | _ => []
/-- Commit events that may happen now. -/
def State.commitMay (s : State) : List (Instr × Arg) :=
  (s.launches.flatMap fun l =>
    (if s.mayCommit l.1 then [(Instr.commitSchedule, ({ n0 := l.1 } : Arg))] else []) ++
      (if (s.nextHeld l.1).isSome then [(Instr.heldHostWritesSend, ({ n0 := l.1 } : Arg))] else []) ++
      match l.2.st with
      | .notified _ hs =>
        if hs.length < 96 then ((List.range 96).filter fun h => (Tbl.get? hs h).isNone).map fun h => (Instr.commitNotice, ({ n0 := l.1, n1 := h } : Arg))
        else [(Instr.commitReportsIn, ({ n0 := l.1 } : Arg))]
      | _ => []) ++
    (s.ctxs.filter fun c => (s.nextRecord c.1).isSome).map fun c => (Instr.completionRecordWrite, ({ n0 := c.1 } : Arg))

end Sys2Proof.Machine
end

