-- ==== Sys2Proof/Machine/Txn.lean ====
section
/-! DEFINITION. Transactions (R345 to R348, R596 to R599): major 0x1D and the event that ends a commit. -/

namespace Sys2Proof.Machine

/-- R348: the team has the commit token, or takes it when it is free; otherwise it waits in first-come order. -/
def withToken (s : State) (c : Cur) (t : Team) (go : State → State) : State :=
  let P := s.part t.id.part
  if P.tmTok = some c.team then go s
  else if P.tmTok.isNone then go (s.modPart t.id.part fun P => { P with tmTok := some c.team })
  else
    let q := if c.team ∈ P.tmQ then P.tmQ else P.tmQ ++ [c.team]
    waitHere (s.modPart t.id.part fun P => { P with tmQ := q }) c t .tmToken

/-- `tmbegin` (R596). The abort target is a signed word offset from the instruction. -/
def execTmbegin (z : BitVec 1) (a b : BitVec 6) (s : State) : Host.Outcome State Fault Refusal :=
  withCur s fun c t =>
    let base := (rdS t c a.toNat).toNat
    let size := (rdS t c b.toNat).toNat
    let inside := match t.stashPlace base size with | .at_ _ => true | _ => false
    if base % 16 ≠ 0 ∨ size % 16 ≠ 0 ∨ size < 96 ∨ !inside then s.raiseQ c t 0xA5 base size
    else if t.sync.tm.active then s.raiseX c t 0xA2
    else
      let old := t.sync.tm
      let n := if old.pc = c.entry.pc then old.acnt else 0
      let ser := decide (8 ≤ n)
      let x : Tm := { active := true, base := base, size := size, pc := c.entry.pc
                      target := c.entry.pc + wordOf (4 * disp c), D := t.flow.D, fmt := t.regs.fmt
                      depth := t.flow.stack.length, ent := t.sync.nextEntry, acnt := n, st := old.st, ser := ser, token := ser }
      let go := fun (s : State) => finishShort (s.count t.id.ctx 51 (b2n ser)) c { t with sync := { t.sync with tm := x } } z [] 1
      if ser then withToken s c t go else go s

/-- The team is inside its transaction. -/
def Team.inTm (t : Team) : Bool := t.sync.tm.active && !t.sync.inHandler
/-- Every access of the transaction has been made. -/
def TeamSync.tmDone (y : TeamSync) : Bool := y.rq.all fun e => e.accs.all fun a => a.stash || a.bank

/-- R346: validation reads the words of pool lines again, at their homes. -/
def State.txAsk (s : State) (k : Nat) (t : Team) : State :=
  let x := t.sync.tm
  let set := fun (s : State) (f : Tm → Tm) => s.modTeam k fun t => { t with sync := { t.sync with tm := f t.sync.tm } }
  ((if x.ser then [] else x.reads.map Prod.fst).filter fun pa => !s.isLocal pa).foldl (fun s pa =>
    match (s.poolFor t.id.part pa).filter fun e => !e.lost with
    | none => set s fun x => { x with bad := true }
    | some e =>
      set (s.askPool (.txn k pa) e pa (s.viewOp t.view) false).2 fun x => { x with asked := x.asked ++ [pa] }) s
/-- R346: a pool word of a validation has arrived. -/
def State.txAnswer (s : State) (k pa : Nat) (ok : Bool) (d : Line) : State :=
  s.modTeam k fun t =>
    let x := t.sync.tm
    let w := BitVec.ofNat 64 (leNat (partBytes d { len := 8, pa := pa }))
    let same := ok && x.reads.any fun r => r.1 = pa && r.2 = w
    if pa ∈ x.asked then { t with sync := { t.sync with tm := { x with asked := x.asked.filter fun y => y ≠ pa, bad := x.bad || !same } } } else t

/-- `tmend` (R346, R596): the log goes to the commit units, whose answer is a later event. -/
def execTmend (z : BitVec 1) (s : State) : Host.Outcome State Fault Refusal :=
  withCur s fun c t =>
    if !t.inTm then s.raiseX c t 0xA3
    else if !t.sync.tmDone then waitHere s c t .tmEnd
    else (finishShort s c { t with sync := { t.sync with tm := { t.sync.tm with committing := true, asked := [], bad := false }, park := .tmEnd } } z [] 1).txAsk c.team t

/-- `tmabort` (R347, R596). -/
def execTmabort (z : BitVec 1) (s : State) : Host.Outcome State Fault Refusal :=
  withCur s fun c t =>
    if !t.inTm then s.raiseX c t 0xA3
    else (finishShort s c t z [] 1).tmAbort c.team 4

/-- `tmstat` (R599). -/
def execTmstat (z : BitVec 1) (d : BitVec 6) (s : State) : Host.Outcome State Fault Refusal :=
  withCur s fun c t =>
    let x := t.sync.tm
    finishLong s c t z [.s d.toNat (BitVec.ofNat 64 (b2n x.ser * 2 ^ 9 + b2n x.active * 2 ^ 8 + min x.acnt 8 * 2 ^ 4 + x.st))] 1

/-- R346: every read record holds what the launch's view holds now; those of pool lines have been compared as they arrived. -/
def State.tmValid (s : State) (v : View) (x : Tm) : Bool := !x.bad && x.reads.all fun r => !s.isLocal r.1 || BitVec.ofNat 64 (leNat (s.viewRead v r.1 8).1) = r.2
/-- The lines of a transaction. -/
def Tm.lines (x : Tm) : List Nat := x.writes.map Prod.fst ++ x.reads.map fun r => lineNo r.1
/-- The bytes of a write record as runs: address and byte. -/
def lineRuns (ln : Nat) (m : BitVec 64) (d : Line) : List (Nat × Byte) :=
  ((List.range 64).filter fun i => m.getLsbD i).map fun i => (64 * ln + i, lineByte d i)

/-- R346: apply one logged line. -/
def State.tmApply (s : State) (k : Nat) (t : Team) (ln : Nat) (m : BitVec 64) (d : Line) : State :=
  if !s.isLocal (64 * ln) then
    match s.poolFor t.id.part (64 * ln) with
    | none => s
    | some e =>
      let z := s.tagOf t.view
      let (n, s) := (s.count t.id.ctx 29 1).addCompl k t.sync.nextEntry (64 * ln) none
      s.poolWrite t.view t.id.slot e (64 * ln) (.shadowWrite z.1 z.2 m d) (.compl k n) (s.epochAt t t.sync.nextEntry)
  else
  let s := (s.recall t.view ln).dropLease t.id.core [ln]
  let time := max s.now (s.leaseExpiry ln (some t.id.core))
  let (tok, s) := s.take
  let s := (lineRuns ln m d).foldl (fun s p => s.shadowWrite t.view p.1 [p.2] false (2 ^ 80 + tok)) s
  (s.addCompl k t.sync.nextEntry (64 * ln) (some time)).2

/-- `TM_COMMIT_RESULT` (R346 to R348): validation at every slice, then the apply; a mismatch fails the transaction. -/
def execTmCommitResult (s : State) : Host.Outcome State Fault Refusal :=
  let k := s.arg.n0
  let t := s.team k
  let x := t.sync.tm
  if !x.committing ∨ x.asked ≠ [] ∨ x.lines.any (s.lockedBy k) then .next s
  else if !x.ser && !s.tmValid t.view x then .next (s.tmAbort k 1)
  else if x.writes.any fun w => s.lostAt (64 * w.1) then .next (s.lostWrite k t)
  else match x.writes.find? (fun w => !s.isLocal (64 * w.1) && (s.poolFor t.id.part (64 * w.1)).isNone) with
  | some w => .next (if t.sched.frozen.isSome then s else s.freezeTeam k t 0 (64 * w.1) (s.rightAt (64 * w.1)))
  | none =>
  -- R72, R74: its pool writes wait at their core; R60: hosts that hold a line answer first
  if s.poolStalled t.id.slot && x.writes.any (fun w => !s.isLocal (64 * w.1)) then .next s
  else if x.writes.any fun w => s.isLocal (64 * w.1) && s.hostHolds w.1 then
    .next ((x.writes.filter fun w => s.isLocal (64 * w.1) && s.hostHolds w.1).foldl (fun s w => s.snoopOut w.1) s)
  else if !(x.writes.all fun w => !s.isLocal (64 * w.1) || s.hasRoom t.view w.1) then
    let ab := match t.view with | .launch lk => (s.launch lk).head.abortOvf | .foreign _ _ _ => true
    if !ab && s.olderThan t.view then .next s else .next (s.abortTeam k t 0x4F)
  else
    let s := x.writes.foldl (fun s w => s.tmApply k t w.1 w.2.1 w.2.2) s
    let s := s.modTeam k fun t =>
      let x := { t.sync.tm with active := false, committing := false, reads := [], writes := [], acnt := 0, st := 0 }
      { t with sync := { t.sync with park := .run, tm := x } }
    .next ((if x.token then s.freeToken k else s).count t.id.ctx 49 1)

end Sys2Proof.Machine
end

