-- ==== Sys2Proof/Machine/Sched.lean ====
section
/-! DEFINITION. Scheduling of teams (R251 to R269, R350, R351, R420, R480 to R484, R642): long results, wakes, monitors, the throttle,
turns, quiescence, eviction, restore, frames and retirement. -/

namespace Sys2Proof.Machine

/-! ## Long results (R480 to R484) -/

/-- Which results of an entry are written: those of absent lanes of a register drain are not. -/
def Entry.writes (e : Entry) (t : Team) : List RegWrite :=
  if majorOf e.word.toNat = 0x20 then e.res.filter fun w => match w with | .v _ l _ => t.flow.pres.getLsbD l | _ => true else e.res
/-- R484: a result whose register a later instruction writes too stays or not, lane by lane. -/
def RegWrite.stays (clob : List (Nat × Nat)) (n : Nat) : RegWrite → Bool
  | .s r _ => !decide ((0, r) ∈ clob) || Config.hazardNew n 0
  | .v r l _ => !decide ((1, r) ∈ clob) || Config.hazardNew n l
  | .k r l _ => !decide ((2, r) ∈ clob) || Config.hazardNew n l
/-- The registers that a list of writes leaves outstanding. -/
def restDest (ds : List (Nat × Nat)) (ws : List RegWrite) : List (Nat × Nat) := ds.filter fun d => d ∉ destsOf ws

/-- R480: an entry's results may be written: every access has been performed, or what it delivers comes in parts. -/
def Entry.mayWrite (e : Entry) : Bool :=
  !e.done && e.accs = [] && (if e.stage = 3 then e.res ≠ [] else if e.stage = 2 then false else e.res ≠ [] || e.dest ≠ [])
/-- R480, R484: write the results of an entry. -/
def State.writeRes (s : State) (k eid : Nat) : State :=
  let t := s.team k
  match t.sync.rq.find? fun e => e.id = eid with
  | none => s
  | some e =>
    let (n, s) := s.draw
    let ws := (e.writes t).filter (RegWrite.stays e.clob n)
    let s := s.setTeam k { t with regs := t.regs.writes ws }
    let s := s.modEntry k eid fun e =>
      ({ e with res := [], dest := if e.stage = 3 then restDest e.dest e.res else [] } : Entry).finish
    (s.modTeam k fun t => { t with sync := { t.sync with rq := pruneRq t.sync.rq } }).settle k

/-- `LONG_RESULT_WRITE` (R480, R482 to R484). -/
def execLongResultWrite (s : State) : Host.Outcome State Fault Refusal :=
  .next (match (s.team s.arg.n0).sync.rq.find? fun e => e.id = s.arg.n1 with
    | some e => if e.mayWrite && decide (e.due ≤ s.now) then s.writeRes s.arg.n0 s.arg.n1 else s
    | none => s)

/-! ## Waits that are over (R251, R483) -/

/-- The room that `roomBack` asks for is there, or nothing older holds it up any more (R223). -/
def State.roomOver (s : State) (k : Nat) (t : Team) : Bool := s.roomBack t (s.joined k t) || !s.olderThan t.view || s.poolUsed t.id.part < (s.part t.id.part).poolLines
/-- The instance that a `qpush` of a team goes to, with its stage. -/
def State.outInst (s : State) (t : Team) : Option (QInst × Stage) :=
  (s.stageOf t t.id.stage).bind fun g => (s.stageOf t g.outq).bind fun h => ((s.launch t.id.launch).inst t.id.cluster g.outq).map fun q => (q, h)

/-- R307: an evicted team has a lane that may go on its way: the landing queue has room, or nothing here tells. -/
def State.landRoom (s : State) (t : Team) : Bool :=
  t.sync.leaving.any fun lv => !lv.sent && (lv.pbr.isSome || contRet lv.cont || decide (s.landed lv.cluster t.id.part < shareOf 256 (s.landers lv.cluster) t.id.part))
/-- What a team waits for has come about, but for waits that an event of their own ends. -/
def State.parkOver (s : State) (k : Nat) (t : Team) : Bool :=
  match t.sync.park with
  | .run | .retire | .rqFull => false
  | .switch => !t.sync.longOut
  | .barrier a tok => let b := s.barGet t.id.cluster a; !b.val || b2n b.ph ≠ tok
  | .bdev _ => false
  | .qpop => (match (s.launch t.id.launch).inst t.id.cluster t.id.stage with | some q => q.cnt ≠ 0 || q.wake | none => true)
  | .qpush => (match s.outInst t with | some (q, g) => decide (q.cnt < g.depth) | none => true)
  | .waitc => (match t.sync.mon with | some m => m.status = 2 || m.status = 3 | none => t.sync.rq.all fun e => e.stage ≠ 2)
  | .join | .exitJoin => t.flow.away = 0
  | .dsin => (match (s.launch t.id.launch).head.ds with | some d => ((s.part t.id.part).stm d.1).queue ≠ [] | none => true)
  | .enqRoom => s.cardRoom k t
  | .fetch => s.fetchFree (.unit k)
  | .fe => t.sync.rq.all fun e => e.accs.all fun a => match a.kind with | .fe _ => false | _ => true
  | .sfree a => t.sync.stashDone && (match t.allocAt a with | some x => !s.cardOn t.id.cluster x.base x.len | none => true)
  | .launchWait pid => pid = 0 || (s.waitOutcome t.id.ctx (pid - 1)).isSome
  | .rel => !t.sched.relActive && t.sync.earlierDone t.sync.nextEntry
  | .acq => t.sync.loadsDone
  | .snap tag => (match s.card t.id.cluster tag with | some c => decide (s.cardUnits c ≤ c.pos + 1) || c.st = .stopped | none => true)
  | .tmEnd => !t.sync.tm.committing && t.sync.tmDone
  | .tmToken => (match (s.part t.id.part).tmTok with | some j => j = k | none => true)
  | .tretWait => t.sync.reinj = [] && t.sync.rq.all fun e => e.done
  | .pcmark => (s.part t.id.part).traceRoom
  | .port => true
  | .room => s.roomOver k t
  | .bank => t.sync.stashDone
  | .late => t.sync.rq.all (·.done)

/-- Where a team stands once its wait is over: at its replay entries, or at its PC. -/
def Team.onward (t : Team) : Park := if t.sync.reinj = [] then .run else .tretWait
/-- A team goes on from a wait at its instruction, which issues again. -/
def State.unpark (s : State) (k : Nat) : State :=
  s.modTeam k fun t => { t with sync := { t.sync with park := t.onward }, sched := { t.sched with readySince := s.now, retry := true } }
/-- A team goes on from a wait behind its instruction. -/
def State.resume (s : State) (k : Nat) (p : Park) : State :=
  s.modTeam k fun t => { t with sync := { t.sync with park := p }, sched := { t.sched with readySince := s.now } }

/-- R592, R593: a `bwait` that waits completes. -/
def State.barDone (s : State) (k : Nat) (fold : Option Nat) : State :=
  let (c, s) := s.standing k
  let t := s.team k
  let t := { t with sync := { t.sync with park := (if c.inj then .tretWait else .run) } }
  let issued := s.issued
  { finishShort s c (match fold with | some g => t.foldWct g | none => t) (BitVec.ofNat 1 (c.entry.word.toNat / 2 ^ 31)) [] 1 with issued := issued }
/-- A barrier's phase has completed under a `bwait`; with `.dev` device time must pass its completion time too. -/
def State.barWake (s : State) (k : Nat) (t : Team) (a : Nat) : State :=
  let b := s.barGet t.id.cluster a
  let w := match t.sync.reinj with | e :: _ => e.word | [] => BitVec.ofNat 32 (((s.image t).word t.flow.pc.toNat).getD 0)
  if !b.val then s.unpark k
  else if !bit w.toNat 0 then s.barDone k none
  else if b.bgwct < s.now then s.barDone k (some b.bgwct)
  else s.modTeam k fun t => { t with sync := { t.sync with park := .bdev b.bgwct } }

/-- R595: a satisfied or signalled `waitc` delivers the word. -/
def State.waitcDone (s : State) (k : Nat) (t : Team) : State :=
  let w := match t.sync.mon with | some m => m.word | none => 0
  let s := match t.sync.mon with | some m => if m.acq then s.bulkDiscard t.id.part else s | none => s
  s.modTeam k fun t => { t with
    sync := { t.sync with rq := t.sync.rq.map fun e => if e.stage = 2 then { e with res := e.dest.map fun d => .s d.2 w, stage := 1 } else e } }

/-- What a wait that is over does. -/
def State.goOnFrom (s : State) (k : Nat) : State :=
  let t := s.team k
  match t.sync.park with
  | .barrier a _ => s.barWake k t a
  | .waitc => (s.waitcDone k t).resume k .run
  | .switch => s.resume k .run
  | .fe => s.resume k .run
  | .snap _ => s.resume k .run
  | .exitJoin => s.modTeam k fun t => { t with
      flow := { t.flow with exited := t.flow.exited ||| t.flow.ret, ret := 0 }, sync := { t.sync with park := .retire } }
  | .tretWait => s.modTeam k fun t => { t with
      sync := { t.sync with park := t.sync.parkAfter, parkAfter := .run }, sched := { t.sched with readySince := s.now } }
  | _ => s.unpark k

/-- R595: a `waitc` that was re-injected has been satisfied. -/
def Team.waitcOver (t : Team) : Bool :=
  t.sync.park ≠ .waitc && t.sync.rq.any (fun e => e.stage = 2 && e.accs = []) && (match t.sync.mon with | some m => m.status = 2 || m.status = 3 | none => false)

/-- A resident team whose wait is over. -/
def wakeTeam (s : State) : Option State :=
  (s.teams.find? fun p => p.2.id.loc = .resident && !p.2.sched.halted && (s.parkOver p.1 p.2 || p.2.waitcOver)).map fun p =>
    if s.parkOver p.1 p.2 then s.goOnFrom p.1 else s.waitcDone p.1 p.2

/-- `RELEASE_WAIT_END` (R327, R343, R589, R593). -/
def State.relOver (s : State) (t : Team) : Bool :=
  match t.sync.park with
  | .rel => t.sched.relActive && t.sync.compls = [] && decide (t.regs.gwct < s.now)
  | .bdev g => decide (g < s.now)
  | _ => false
def execReleaseWaitEnd (s : State) : Host.Outcome State Fault Refusal :=
  let k := s.arg.n0
  let t := s.team k
  .next (if !s.relOver t then s
    else match t.sync.park with
      | .bdev g => s.barDone k (some g)
      | _ => s.unpark k)

/-- `WRITE_COMPLETION_RETURN` (R322). -/
def execWriteCompletionReturn (s : State) : Host.Outcome State Fault Refusal :=
  .next (
    let k := s.arg.n0
    match (s.team k).sync.compls.find? fun c => c.id = s.arg.n1 with
    | some { time := some g, .. } =>
      s.modTeam k fun t => { t.foldWct g with sync := { t.sync with compls := t.sync.compls.filter fun c => c.id ≠ s.arg.n1 } }
    | _ => s)

/-- `TRAP_FRAME_FORM` (R420, R422). -/
def State.mayFrame (s : State) (t : Team) : Bool :=
  ((headRaised t.sync.rq).isSome || t.sched.pendCause.isSome) && t.sync.settled && s.canTrap t && t.sched.frozen.isNone
def execTrapFrameForm (s : State) : Host.Outcome State Fault Refusal :=
  .next (if s.mayFrame (s.team s.arg.n0) then s.takeTrap s.arg.n0 else s)

/-! ## Monitors (R349 to R352, R433, R594, R595) -/

/-- R350: the monitor's word as the waiter's view holds it, when it holds the comparison. DESIGN CHOICE: R78 makes poison a trap at arming only; a
word that is poisoned when it is read again satisfies nothing (log 175). -/
def State.monNow (s : State) (t : Team) : Option Word :=
  match t.sync.mon with
  | some m =>
    if m.status ≠ 1 || m.host || !s.isLocal m.pa then none
    else
      let r := s.viewRead t.view m.pa 8
      let w := BitVec.ofNat 64 (leNat r.1)
      if !r.2 && monHolds m.cmp w m.v then some w else none
  | none => none
/-- The monitor is satisfied with a word. -/
def State.monSet (s : State) (k : Nat) (w : Word) : State :=
  s.modTeam k fun t => { t with sync := { t.sync with mon := t.sync.mon.map fun m => { m with status := 2, word := w } } }
/-- R350: the home re-evaluates an entry of a team of this die. -/
def State.monWakes (s : State) (t : Team) : Bool := (match t.sync.mon with | some m => m.slice.isSome | none => false) && (s.monNow t).isSome
/-- `MONITOR_WAKE` (R349, R350): of a team of this die, or of an entry that this W9L holds for another die. -/
def execMonitorWake (s : State) : Host.Outcome State Fault Refusal :=
  .next (if s.arg.flag then
      match s.ports.mons.find? fun m => m.die = s.arg.n0 && m.id = s.arg.n1 with
      | some m => if s.poolMonHolds m then s.poolWake m 2 else s
      | none => s
    else
      let t := s.team s.arg.n0
      if s.monWakes t then (match s.monNow t with | some w => s.monSet s.arg.n0 w | none => s) else s)

/-- R351: a monitor without an entry polls. -/
def State.pollDue (s : State) (t : Team) : Bool :=
  match t.sync.mon with | some m => m.status = 1 && m.slice.isNone && m.far.isNone && decide (m.pollAt ≤ s.now) | none => false
/-- `WAITC_POLL` (R351). -/
def execWaitcPoll (s : State) : Host.Outcome State Fault Refusal :=
  let k := s.arg.n0
  let t := s.team k
  .next (match t.sync.mon with
    | none => s
    | some m =>
      if !s.pollDue t then s
      else
        let n := min 4096 (2 * m.pollInt)
        let s := (s.modTeam k fun t => { t with sync := { t.sync with mon := some { m with pollInt := n, pollAt := s.now + n } } }).count t.id.ctx 48 1
        if m.host then (s.askHost (.mon k) t.id.ctx { len := 8, pa := m.pa, host := true }).2
        else if s.isLocal m.pa then
          if s.hostExcl (lineNo m.pa) then s.snoopOut (lineNo m.pa) else (match s.monNow t with | some w => s.monSet k w | none => s)
        else match s.poolFor t.id.part m.pa with
          | some e => if e.lost then s else (s.askPool (.mon k) e m.pa (s.viewOp t.view) false).2
          | none => if t.sched.frozen.isSome then s else s.freezeTeam k t 0 m.va (s.rightAt m.pa))
/-- R713, R149: a poll that host or pool refuses raises its cause in the `waitc` that waits; a `wmon` goes on polling. -/
def State.monRefused (s : State) (k status : Nat) (m : Monitor) : State :=
  let r : Raised := { cause := if m.host then 0x29 else 0x27, info := [BitVec.ofNat 64 m.va, 0, BitVec.ofNat 64 status] }
  if (s.team k).sync.rq.any fun e => e.stage = 2 && !e.done then
    (s.modTeam k fun t => { t with sync := { t.sync with
      mon := none, park := (match t.sync.park with | .waitc => .run | p => p)
      rq := t.sync.rq.map fun e => if e.stage = 2 && !e.done then { e with raised := lowerRaise e.raised r, faulting := true } else e } }).settle k
  else s
/-- R349, R350, R433, R713: what a W9L tells of a team's monitor: armed, satisfied or signalled with the word; without an entry it polls. -/
def State.monFar (s : State) (k : Nat) (r : Req) (status : Nat) (pois : Bool) (d : Line) (vals : List Nat) : State :=
  match (s.team k).sync.mon with
  | some m =>
    let w := BitVec.ofNat 64 (leNat (partBytes d { len := 8, pa := m.pa }))
    let put := fun (m : Monitor) => s.modTeam k fun t => { t with sync := { t.sync with mon := some m } }
    let poll := { m with far := none, pollAt := s.now + 64, pollInt := 64 }
    if m.far ≠ some r.tag || m.status ≠ 1 then s
    else if status ≠ 0 then (put poll).monRefused k status m
    else if vals = [1] then s.standFar k r.tag r.addr r.pbr
    else if vals = [3] then put { m with status := 3, word := w, far := none }
    else if !pois && monHolds m.cmp w m.v then put { m with status := 2, word := w, far := none } else put poll
  | none => s
/-- R351: what a poll on host or pool delivers; one that meets poison satisfies nothing. -/
def State.monCompletion (s : State) (k status : Nat) (pois : Bool) (d : Line) : State :=
  match (s.team k).sync.mon with
  | some m =>
    let w := BitVec.ofNat 64 (leNat (partBytes d { len := 8, pa := m.pa }))
    if m.status = 1 && status ≠ 0 then s.monRefused k status m
    else if m.status = 1 && !pois && monHolds m.cmp w m.v then s.monSet k w else s
  | none => s

/-! ## Throttle and aging (R253, R255) -/

/-- R255: the resident teams of a core in the order of the permitted set: lowest score, then earliest created. -/
def permitOrder : List (Nat × Team) → List (Nat × Team)
  | [] => []
  | a :: r =>
    let l := permitOrder r
    let lt := fun (x : Nat × Team) => decide (x.2.sched.score < a.2.sched.score ∨ (x.2.sched.score = a.2.sched.score ∧ x.2.id.created < a.2.id.created))
    l.takeWhile lt ++ [a] ++ l.dropWhile lt
/-- R251, R255: the throttle keeps a team from being ready: outside the permitted set with a memory instruction next. -/
def State.barred (s : State) (t : Team) : Bool :=
  !t.sched.permitted && (match t.sync.park with | .run => isMemWord ((s.image t).groupWord t.flow.pc.toNat) | _ => false)
/-- R255: the throttle step of one core; the wait of a team that was ready all along goes on (R253). -/
def State.throttleCore (s : State) (core : Nat) : State :=
  let ts := s.onCore core
  let sum := (ts.map fun p => p.2.sched.score).sum
  let cap := max 1 (min 16 (16 - sum / 32))
  let ok := ((permitOrder ts).take cap).map Prod.fst
  ts.foldl (fun s p => s.modTeam p.1 fun t => { t with sched := { t.sched with
    permitted := decide (p.1 ∈ ok), score := t.sched.score / 2
    readySince := if s.barred t && decide (p.1 ∈ ok) then s.now else t.sched.readySince } }) s
/-- `THROTTLE_INTERVAL` (R255), at device times that are multiples of 4,096. -/
def execThrottleInterval (s : State) : Host.Outcome State Fault Refusal :=
  .next (if s.now % 4096 = 0 ∧ !s.marked 1 0 then
      (((s.teams.filter fun p => p.2.resident).map fun p => p.2.id.core).dedup.foldl State.throttleCore s).mark 1 0
    else s)
/-- R253: a team has been ready without issuing for 65,536 ticks. -/
def State.ages (s : State) (t : Team) : Bool := ready s t && !t.sched.aged && decide (t.sched.readySince + 65536 ≤ s.now + t.sched.waited)
/-- `AGING_PROMOTION` (R253). -/
def execAgingPromotion (s : State) : Host.Outcome State Fault Refusal :=
  .next (if s.ages (s.team s.arg.n0) then s.modTeam s.arg.n0 fun t => { t with sched := { t.sched with aged := true } } else s)

/-! ## Saving a team (R259, R260, R338) -/

/-- R259 step 4, R341: an access that becomes a replay entry: a page request, room under WAIT, a moving page, full/empty bits, or one
that another such access holds up. -/
def State.stuck (s : State) (k : Nat) (t : Team) (e : Entry) (a : Acc) : Bool :=
  match a.wait with
  | .pri _ => true
  | .move _ => true
  | .shadow => !s.mayPerform k t e a
  | .older _ => !s.mayPerform k t e a
  | .ready => !s.mayPerform k t e a && decide (t.regs.gwct < s.now)
  | _ => false
/-- R259 step 5: nothing of a team is under way. `spare` excuses accesses of an eviction (R264). -/
def State.quiet (s : State) (k : Nat) (t : Team) (spare : Acc → Bool) : Bool :=
  t.sync.rq.all (fun e => e.done || e.kept || ((e.accs ≠ [] || (t.sched.frozen.isSome && e.faulting && e.res = [])) && e.accs.all fun a => s.stuck k t e a || spare a)) &&
    t.sync.compls = [] && (s.ports.q.all fun w => w.src ≠ t.id.slot || w.part ≠ t.id.part || w.cont.isSome) &&
    (headRaised t.sync.rq).isNone && t.sched.pendCause.isNone && !t.sync.tm.committing
/-- R338: dirty lines of mappings that a team owns. -/
def State.dirtyMaps (s : State) (k : Nat) (t : Team) : List (Nat × Mapping) :=
  (s.cluster t.id.cluster).maps.filter fun m => m.2.owner = k && m.2.lines.any fun x => x.2.dirty
/-- R259 step 3: a running transaction aborts without counting. -/
def State.stopTm (s : State) (k : Nat) : State :=
  let t := s.team k
  if t.sync.tm.active && !t.sync.tm.committing && !t.sync.inHandler then s.tmAbort k 3 else s

/-- Requests of a team's own reading serve nobody any more. -/
def State.forget (s : State) (k : Nat) : State :=
  let reqs := s.xlat.reqs.map fun (r : Req) =>
    match r.for_ with
    | .unit j => if j = k then ({ r with for_ := .nobody } : Req) else r
    | .mon j => if j = k then ({ r with for_ := .nobody } : Req) else r
    | .acc j _ _ => if j = k then ({ r with for_ := .nobody } : Req) else r
    | _ => r
  ({ s with xlat := { s.xlat with reqs := reqs } } : State).unqueue fun w => match w with | .unit j => j = k | .acc j _ _ => j = k | _ => false

/-- R241, R355, R259: a stalled `qpush`, or card enqueue, becomes a replay entry with its operands captured. -/
def State.pushReplay (s : State) (k : Nat) : State :=
  let t := s.team k
  match decide (t.sync.park = .qpush ∨ t.sync.park = .enqRoom), t.sync.reinj with
  | true, [] =>
    let (c, s) := s.standing k
    match decodeWord c.entry.word.toNat with
    | .ok i => s.setTeam k { t with
        flow := { t.flow with pc := c.next, hints := [] }
        sync := { t.sync with park := .tretWait, parkAfter := .run, nextEntry := t.sync.nextEntry + 1, fetch := {}
                              reinj := [{ c.entry with id := t.sync.nextEntry, ops := (sourcesOf i c).map (captureOp t c) }] } }
    | .error _ => s
  | _, _ => s
/-- R259, R264, R310: what stops with a team: lanes not yet packed and a stalled `qpush` or card enqueue become replay entries, the results that have arrived of
entries that do are written, and its requests serve nobody. -/
def State.cutTeam (s : State) (k : Nat) : State :=
  let s := (s.unleave k).pushReplay k
  let es := (s.team k).sync.rq.filter fun e => !e.done && !e.kept && e.accs ≠ [] && e.res ≠ []
  (es.foldl (fun s e => s.writeRes k e.id) s).forget k

/-- R260: the content of a stash range. -/
def Cluster.takeStash (c : Cluster) (a n : Nat) : Saved × Cluster :=
  let inB := fun (x : Nat) => decide (a ≤ x ∧ x < a + n)
  let inG := fun (x : Nat) => decide (a / 16 ≤ x ∧ x < (a + n) / 16)
  ({ stash := c.stash.filter fun x => inB x.1, full := c.full.filter fun x => inG x.1, spois := c.spois.filter fun x => inG x.1 },
   { c with stash := c.stash.filter fun x => !inB x.1, full := c.full.filter fun x => !inG x.1, spois := c.spois.filter fun x => !inG x.1 })
/-- R263: a saved range comes back, over whatever stands there. -/
def Cluster.putStash (c : Cluster) (a n : Nat) (v : Saved) : Cluster :=
  let c := (c.takeStash a n).2
  { c with stash := v.stash.foldl (fun t x => Tbl.put t x.1 x.2) c.stash
           full := v.full.foldl (fun t x => Tbl.put t x.1 x.2) c.full
           spois := v.spois.foldl (fun t x => Tbl.put t x.1 x.2) c.spois }

/-- R260: save a team, its allotment with it. -/
def State.saveTeam (s : State) (k : Nat) : State :=
  let s := s.cutTeam k
  let t := (s.team k).toReplay (fun e => decide (e.stage = 3) && e.kept)
  let r := (s.cluster t.id.cluster).takeStash t.sync.stashBase t.sync.stashLen
  let s := if t.sync.stashLen = 0 then s else s.modCluster t.id.cluster fun _ => r.2
  let loc := match t.id.loc with | .evicted => Where.savedEvicted | .savedEvicted => .savedEvicted | _ => .saved
  let s := s.modCluster t.id.cluster fun c => { c with maps := Tbl.mapV c.maps fun _ m => if m.owner = k then { m with lines := m.lines.filter fun x => x.2.dirty } else m }
  (s.setTeam k { t with id := { t.id with loc := loc }, sync := { t.sync with saved := if t.sync.stashLen = 0 then {} else r.1 } }).count t.id.ctx 60 1

/-- Length of a queue instance. -/
def Launch.instLen (l : Launch) (q : QInst) : Nat := match l.head.stages[q.stage]? with | some g => g.depth * (g.elsz * 8) | none => 0
/-- R260: save the queue instances and tiles of launches on clusters, as a test of both selects. -/
def State.saveUnits (s : State) (p : Nat → Launch → Nat → Bool) : State :=
  s.launches.foldl (fun s l =>
    if l.2.qs.any (fun q => p l.1 l.2 q.cluster) || s.clusters.any (fun c => p l.1 l.2 c.1) then
      let s := l.2.qs.foldl (fun s q =>
        if p l.1 l.2 q.cluster && q.saved.isNone then
          let r := (s.cluster q.cluster).takeStash q.base (l.2.instLen q)
          (s.modCluster q.cluster fun _ => r.2).modInst l.1 q.cluster q.stage fun q => { q with saved := some r.1 }
        else s) s
      { s with clusters := Tbl.mapV s.clusters fun c x => if p l.1 l.2 c then
          { x with tiles := Tbl.mapV x.tiles fun n y => if y.launch = l.1 && y.quads ≠ [] then { y with saved := true, quads := [], hdr := y.header (n % 8) } else y }
        else x }
    else s) s
/-- R260, R377, R378: bring back a launch's queue instances and tiles on a cluster; an image of another matrix capability version refuses. -/
def State.restoreUnits (s : State) (lk cl : Nat) : State :=
  let l := s.launch lk
  let s := l.qs.foldl (fun s q =>
    match q.saved with
    | some v => if q.cluster = cl then (s.modCluster cl fun c => c.putStash q.base (l.instLen q) v).modInst lk cl q.stage fun q => { q with saved := none } else s
    | none => s) s
  (s.cluster cl).tiles.foldl (fun s y =>
    if y.2.launch = lk && y.2.saved && (Tbl.get? s.launches lk).isSome then
      if imageMcv y.2.hdr ≠ matrixVersion then s.abortLaunch lk 0x7B 1
      else match s.freeQuads l.head.part cl y.2.m y.2.n with
      | some qs => s.modCluster cl fun c => { c with tiles := Tbl.modify c.tiles y.1 fun x => { x with saved := false, quads := qs } }
      | none => s
    else s) s

/-! ## Turns (R256 to R258, R266) -/

/-- Teams of a context that a turn of it holds. -/
def State.ctxTeams (s : State) (p c : Nat) : List (Nat × Team) := s.teams.filter fun t => t.2.id.part = p && t.2.id.ctx = c && !t.2.id.landed
/-- R257: started launches of a context with a team not yet created. -/
def State.uncreated (s : State) (p c : Nat) : Bool :=
  s.launches.any fun l => l.2.head.part = p && l.2.head.ctx = c && (match l.2.st with | .started => true | _ => false) && decide (l.2.nextGang < l.2.gangs)
/-- R257: a context has work. -/
def State.hasWork (s : State) (p c : Nat) : Bool := (s.ctxTeams p c).any (fun t => t.2.id.loc.isSaved) || s.uncreated p c
/-- R257: the length of a turn. -/
def State.turnLen (s : State) (p c : Nat) : Nat :=
  (s.part p).cfg.slice * (1 + ((s.launches.filter fun l => l.2.head.part = p && l.2.head.ctx = c && l.2.uncommitted).foldl (fun m l => max m l.2.head.prio) 0))
/-- R257: the next context with work after one, in ascending number and wrapping round. -/
def State.nextCtx (s : State) (p : Nat) (after : Option Nat) : Option Nat :=
  let cs := (s.ctxs.filter fun c => c.2.part = some p && some c.1 ≠ after && s.hasWork p c.1).map Prod.fst
  match after with
  | some a => match cs.find? fun c => decide (a < c) with | some c => some c | none => cs.head?
  | none => cs.head?
/-- R258: a context's turn begins. -/
def State.beginTurn (s : State) (p c : Nat) : State :=
  let s := s.modPart p fun P => { P with running := some c, turnEnd := s.now + s.turnLen p c, quiescing := false }
  let ls := (s.launches.filter fun l => l.2.head.part = p && l.2.head.ctx = c).map Prod.fst
  (s.part p).clusters.foldl (fun s cl => ls.foldl (fun s lk => s.restoreUnits lk cl) s) s
/-- R257: the running context has no resident team, none to come back, and nothing to create. -/
def State.idleTurn (s : State) (p c : Nat) : Bool :=
  ((s.ctxTeams p c).all fun t => (match t.2.id.loc with | .evicted => !t.2.id.ready | _ => false)) && !s.uncreated p c
/-- R438: a debug halt defers the end of a turn. -/
def State.turnHeld (s : State) (c : Nat) : Bool := (s.ctx c).dbg.halting || (s.ctx c).dbg.halted

/-- R257: a turn ends, early or at its time, or the first one begins. -/
def State.turnOver (s : State) (p : Nat) : Bool :=
  match Tbl.get? s.parts p with
  | none => false
  | some P =>
    !P.quiescing && match P.running with
    | none => (s.nextCtx p none).isSome
    | some c => (s.idleTurn p c && (s.nextCtx p (some c)).isSome && ((s.ctxTeams p c).isEmpty || !s.turnHeld c)) || (decide (P.turnEnd ≤ s.now) && !s.turnHeld c && !s.idleTurn p c)
/-- R259, R260, R266: quiescence takes effect for teams of a partition's running context: transactions abort, postings lapse, and how long a team
has been ready is kept. -/
def State.quiesceStart (s : State) (p : Nat) (ts : List (Nat × Team)) : State :=
  let c := (s.part p).running
  let s' := { s with launches := Tbl.mapV s.launches fun _ l => if l.head.part = p && some l.head.ctx = c then { l with posts := [] } else l }
  ts.foldl (fun s' t =>
    let s' := if ready s t.2 then s'.modTeam t.1 fun x => { x with sched := { x.sched with waited := x.sched.waited + (s.now - x.sched.readySince) } } else s'
    if t.2.resident then s'.stopTm t.1 else s') s'
/-- `TURN_END` (R257 to R259): the next context begins at once, or the outgoing one stops issuing; alone it goes on. -/
def execTurnEnd (s : State) : Host.Outcome State Fault Refusal :=
  let p := s.arg.n0
  .next (if !s.turnOver p then s
    else match (s.part p).running with
      | none => (match s.nextCtx p none with | some n => s.beginTurn p n | none => s)
      | some c =>
        match s.nextCtx p (some c) with
        | none => s.modPart p fun P => { P with turnEnd := s.now + s.turnLen p c }
        | some n =>
          if (s.ctxTeams p c).isEmpty && !s.uncreated p c then s.beginTurn p n
          else
            (s.quiesceStart p (s.ctxTeams p c)).modPart p fun P => { P with quiescing := true })

/-- R259 step 5: no transfer of a context's cards on clusters is outstanding. -/
def State.cardsQuiet (s : State) (p : Card → Bool) (cls : Nat → Bool) : Bool :=
  s.clusters.all fun c => !cls c.1 || c.2.cards.all fun k => !p k || k.frozen.isSome || (!s.cardBusy c.1 k && (match k.wait with | .cxl _ => s.cardFree c.1 k | _ => true))
/-- R338: the dirty lines of teams' mappings are written back, where the launch's shadow has room. -/
def State.flushTeams (s : State) (ts : List (Nat × Team)) : State :=
  ts.foldl (fun s t => let ms := s.dirtyMaps t.1 t.2; if s.roomBack t.2 ms then s.flushMaps t.1 t.2 t.2.sync.nextEntry ms else s) s
def State.unflushed (s : State) (ts : List (Nat × Team)) : Bool := ts.any fun t => let ms := s.dirtyMaps t.1 t.2; ms ≠ [] && s.roomBack t.2 ms
/-- R259: the fetched content of cut cards is dropped. -/
def State.dropGot (s : State) (p : Card → Bool) (cls : Nat → Bool) : State :=
  { s with clusters := Tbl.mapV s.clusters fun c x => if cls c then
      { x with cards := x.cards.map fun (k : Card) => if p k then ({ k with got := [], wait := .ready } : Card) else k } else x }

/-- The teams that a quiescence of a partition saves: those of the outgoing context, or those on quarters being removed (R259, R267). -/
def State.leavers (s : State) (p : Nat) : List (Nat × Team) :=
  match (s.part p).running with
  | some c =>
    (s.ctxTeams p c).filter fun t => !t.2.id.loc.isSaved && ((s.part p).quiescing || s.reclaims t.2)
  | none => []
/-- R301: the other quarters of its cluster that a landed team on a removed one may move to. -/
def State.refuges (s : State) (t : Team) : List Nat := ((s.part t.id.part).coresOn t.id.cluster).filter fun c => c ∉ s.mil.waitQ
/-- R301: landed teams on quarters being removed that can leave them: another quarter has room, or there is none. -/
def State.displaced (s : State) (p : Nat) : List (Nat × Team) :=
  s.teams.filter fun t => t.2.id.part = p && t.2.id.landed && t.2.resident && decide (t.2.id.core ∈ s.mil.waitQ) &&
    (s.refuges t.2 = [] || (s.refuges t.2).any fun c => s.coreRoom c t.2.rows)
/-- The clusters of a set of teams. -/
def clustersOf (ts : List (Nat × Team)) : List Nat := (ts.map fun t => t.2.id.cluster).dedup
/-- R259: the cards that a quiescence of a partition cuts: the outgoing context's, or those of the teams on quarters being removed. -/
def State.cutCards (s : State) (p : Nat) (k : Card) : Bool :=
  k.part = p && some k.ctx = (s.part p).running && ((s.part p).quiescing || (match Tbl.get? s.teams k.team with | some t => s.reclaims t || t.id.loc.isSaved | none => false))
/-- R259 step 5: everything has landed. -/
def State.quiesced (s : State) (p : Nat) : Bool :=
  let ts := s.leavers p
  (ts ++ s.displaced p).all (fun t => !t.2.resident || s.quiet t.1 t.2 fun _ => false) && s.cardsQuiet (s.cutCards p) (fun _ => true)
/-- A save is asked for and nothing more is to land. -/
def State.maySave (s : State) (p : Nat) : Bool :=
  ((s.part p).quiescing || s.leavers p ≠ [] || s.displaced p ≠ []) && s.quiesced p

/-- R72, R73, R76: a team takes a slot. In another one it starts a new epoch, which waits for the old slot's counters; releases whose value g has not
passed go on holding its first write back, each before an epoch of its own. -/
def State.newSlot (s : State) (k slot : Nat) : State :=
  let t := s.team k
  let e := Tbl.getD s.ports.epoch slot 0
  if slot = t.id.slot && t.sync.prels.all (fun p => p.1 = e || !epochBelow e p.1) then s
  else
    let rs := t.sync.prels.filter fun p => match p.2.2 with | some g => decide (s.now ≤ g) | none => true
    let b := if slot = t.id.slot then e else e + 1
    { s with ports := { s.ports with epoch := Tbl.put s.ports.epoch slot ((b + rs.length) % 65536) } }.modTeam k fun t => { t with
      id := { t.id with slot := slot }
      sync := { t.sync with oldSlot := (if slot = t.id.slot then t.sync.oldSlot else some t.id.slot)
                            prels := rs.zipIdx.map fun (p : (Nat × Nat × Option Nat) × Nat) => ((b + 1 + p.2) % 65536, p.1.2.1, p.1.2.2) } }

/-- R301: a landed team moves to another quarter of its cluster, or its launch aborts. -/
def State.moveLanded (s : State) (k : Nat) (t : Team) : State :=
  match (s.refuges t).find? fun c => s.coreRoom c t.rows with
  | some core =>
    let slot := 16 * core + (s.freeSlot core).getD 0
    ((s.cutTeam k).modTeam k fun t => t.toReplay (fun e => decide (e.stage = 3) && e.kept)).newSlot k slot
  | none => if s.refuges t = [] then s.abortTeam k t 0x5F else s
/-- Teams in the order of saving. -/
def saveOrder : List (Nat × Team) → List (Nat × Team)
  | [] => []
  | a :: r =>
    let l := saveOrder r
    let lt := fun (x : Nat × Team) => decide (x.2.id.created < a.2.id.created ∨ (x.2.id.created = a.2.id.created ∧ x.2.id.index < a.2.id.index))
    l.takeWhile lt ++ [a] ++ l.dropWhile lt

/-- `QUIESCENCE_SAVE` (R259 to R261, R267, R301, R338): first the write-backs, then the save; at a turn's end the next context begins. -/
def execQuiescenceSave (s : State) : Host.Outcome State Fault Refusal :=
  let p := s.arg.n0
  .next (if !s.maySave p then s
    else
      let ts := saveOrder (s.leavers p)
      if s.unflushed ts then s.flushTeams ts
      else
        let turn := (s.part p).quiescing
        let cur := (s.part p).running
        let mine := s.cutCards p
        let gone := fun (lk cl : Nat) => ts.any fun t => t.2.id.launch = lk && t.2.id.cluster = cl
        let s := (s.displaced p).foldl (fun s t => s.moveLanded t.1 t.2) s
        let s := ts.foldl (fun s t => if (Tbl.get? s.teams t.1).isSome then s.saveTeam t.1 else s) s
        let s := (s.saveUnits fun lk l cl => l.head.part = p && some l.head.ctx = cur && (turn || gone lk cl)).dropGot mine fun _ => true
        let keys := ts.map Prod.fst
        let s := s.modPart p fun P => { P with saved := if turn then P.saved ++ keys else keys ++ P.saved, quiescing := false }
        if turn then
          match s.nextCtx p cur with
          | some n => s.beginTurn p n
          | none => (match cur with | some c => s.beginTurn p c | none => s)
        else s)

/-! ## Eviction and restore (R258, R263 to R265, R267) -/

/-- R264: the accesses at which a team may be evicted: a remote load, or a page request. -/
def Acc.spare (a : Acc) : Bool :=
  match a.wait with
  | .pri _ => true
  | .cxl _ => (match a.kind with | .load => true | .loadS => true | _ => false)
  | _ => false
/-- R264, R297: lanes of the team wait for room at their destination. -/
def Team.landing (t : Team) : Bool := t.sync.leaving.any fun x => x.refusedAt.isSome
/-- R264: a team parked at a blocking point. -/
def Team.blocked (t : Team) : Bool :=
  match t.sync.park with
  | .barrier _ _ | .qpop | .waitc | .join | .exitJoin | .dsin => true
  | .switch | .tretWait => t.sync.rq.any (fun e => e.accs.any Acc.spare) || t.landing
  | .rqFull | .rel | .acq | .late | .retire => t.sync.rq.any (fun e => e.accs.any fun a => match a.wait with | .pri _ => true | _ => false) || t.landing
  | _ => false
/-- R264: a team may be evicted. -/
def State.mayEvict (s : State) (k : Nat) (t : Team) : Bool :=
  t.resident && !t.id.landed && !t.sched.halted && t.sched.frozen.isNone && t.blocked && s.quiet k t Acc.spare && !s.quiescent t
/-- `TEAM_EVICTION` (R264, R265). -/
def execTeamEviction (s : State) : Host.Outcome State Fault Refusal :=
  let k := s.arg.n0
  let t := s.team k
  .next (if !s.mayEvict k t then s
    else
      let w := (t.sync.rq.flatMap fun e => (e.accs.filter Acc.spare).map Acc.wait).headD .ready
      let s := (s.stopTm k).cutTeam k
      let x := (s.team k).toReplay Entry.kept
      (s.setTeam k { x with id := { x.id with loc := .evicted, ready := false }, sync := { x.sync with fetch := { wait := w } } }).count t.id.ctx 59 1)

/-- R265: what an evicted team waits for has come about. -/
def State.wakes (s : State) (k : Nat) (t : Team) : Bool :=
  t.id.loc = .evicted && !t.id.ready && (s.landRoom t ||
    match t.sync.park with
     | .tretWait => s.waitOver (.unit k) t.sync.fetch.wait
     | .bdev g => decide (g < s.now)
     | .run => true
     | _ => s.parkOver k t)
/-- `WAKE_CONDITION_MET` (R265). -/
def execWakeConditionMet (s : State) : Host.Outcome State Fault Refusal :=
  let k := s.arg.n0
  let t := s.team k
  .next (if !s.wakes k t then s
    else
      let s := match t.sync.park with
        | .tretWait | .run => s
        | .bdev g => if g < s.now then s.barDone k (some g) else s
        | _ => if s.parkOver k t then s.goOnFrom k else s
      s.modTeam k fun t => { t with
        id := { t.id with ready := (match t.sync.park with | .bdev _ => s.landRoom t | _ => true) }, sync := { t.sync with fetch := {} } })

/-- R253, R263, R265: a team is resident again on a core; how long it had been ready goes on counting. -/
def State.reside (s : State) (k core : Nat) : State :=
  match s.freeSlot core with
  | none => s
  | some n =>
    let c := (s.team k).id.ctx
    let lost := (s.ctx c).lost
    let s := (s.newSlot k (16 * core + n)).modCtx c fun x => { x with lost := [] }
    s.modTeam k fun t => { t with
      id := { t.id with loc := .resident, ready := true }
      sync := { t.sync with lost := t.sync.lost ++ lost }
      sched := { t.sched with readySince := s.now, permitted := true } }

/-- The saved teams that come back together: those of a launch on one cluster. -/
def State.unitOf (s : State) (t : Team) : List (Nat × Team) :=
  s.teams.filter fun x => x.2.id.loc.isSaved && x.2.id.launch = t.id.launch && x.2.id.cluster = t.id.cluster && !x.2.id.landed
/-- R263: a unit fits on a cluster: every team on the core of its own position with slot, rows and its allotment's range, and the
launch's instances with theirs. -/
def State.unitFits (s : State) (u : List (Nat × Team)) (l : Launch) (old cl : Nat) : Bool :=
  let P := s.part l.head.part
  let used := s.stashUsed cl
  let free := fun (a n : Nat) => n = 0 || used.all fun r => decide (a + n ≤ r.1 ∨ r.1 + r.2 ≤ a)
  u.all (fun t => decide (4 * cl + t.2.id.core % 4 ∈ P.coresOn cl) && decide (4 * cl + t.2.id.core % 4 ∉ s.mil.waitQ) && free t.2.sync.stashBase t.2.sync.stashLen) &&
    (List.range 4).all (fun q =>
      let mine := u.filter fun t => t.2.id.loc = .saved && t.2.id.core % 4 = q
      decide (mine.length + (s.onCore (4 * cl + q)).length ≤ 16) && decide (s.rowsUsed (4 * cl + q) + (mine.map fun t => t.2.rows).sum ≤ 1024)) &&
    l.qs.all (fun q => q.cluster ≠ old || q.saved.isNone || match if cl = old then none else l.inst cl q.stage with
      | none => free q.base (l.instLen q)
      | some x => x.saved.isNone && decide (q.cnt + x.cnt ≤ ((l.head.stages[q.stage]?).map Stage.depth).getD 0)) &&
    (cl = old || (let lk := (u.headD (0, {})).2.id.launch
      let o := s.cluster old
      let c := s.cluster cl
      o.cards.all (fun k => k.launch ≠ lk || decide (k.tag ∉ c.open_)) && o.maps.all (fun m => m.2.launch ≠ lk || (Tbl.get? c.maps m.1).isNone) &&
        o.tiles.all (fun y => y.2.launch ≠ lk || (Tbl.get? c.tiles y.1).isNone)))
/-- R263: where a unit comes back: its own cluster, or the lowest other one that holds it when its quarters are gone and nothing of its launch is left
behind. -/
def State.unitPlace (s : State) (u : List (Nat × Team)) (l : Launch) (old : Nat) : Option Nat :=
  let P := s.part l.head.part
  let owned := u.all fun t => decide (t.2.id.core ∈ P.coresOn old) && decide (t.2.id.core ∉ s.mil.waitQ)
  if owned then (if s.unitFits u l old old then some old else none)
  else if s.teams.any fun t => t.2.id.launch = (u.headD (0, {})).2.id.launch && t.2.id.cluster = old && !t.2.id.landed && !t.2.id.loc.isSaved then none
  else P.clusters.find? fun c => c ≠ old && s.unitFits u l old c

/-- R240, R263: the elements of a saved instance join the launch's instance of its stage on the cluster the gang comes back to. DESIGN CHOICE: they
follow those that stand there (log 215). -/
def State.joinInst (s : State) (lk cl : Nat) (q : QInst) : State :=
  let l := s.launch lk
  match l.head.stages[q.stage]?, l.inst cl q.stage, q.saved with
  | some g, some x, some v =>
    let src := ({} : Cluster).putStash q.base (l.instLen q) v
    let w := g.elsz * 8
    (s.modCluster cl fun c => (List.range q.cnt).foldl (fun c i =>
      let a := x.slot g (x.cnt + i)
      let c := stashPuts c a (stashBytes src (q.slot g i) w)
      if (Sys2Proof.Machine.granules (q.slot g i) w).any (stashPois src) then (Sys2Proof.Machine.granules a w).foldl (fun c y => setStashPois c y true) c else c) c).modInst lk cl q.stage fun x =>
        { x with cnt := x.cnt + q.cnt }
  | _, _, _ => s
/-- R263: everything of a launch on a cluster moves to another cluster, at the same stash addresses. -/
def State.moveUnit (s : State) (lk old cl : Nat) : State :=
  if old = cl then s
  else
    let s := s.saveUnits fun k _ c => k = lk && c = old
    let o := s.cluster old
    let ks := o.cards.filter fun k => k.launch = lk
    let s := s.modCluster cl fun c => { c with
      cards := c.cards ++ ks, open_ := c.open_ ++ ks.map Card.tag, nextTag := max c.nextTag o.nextTag
      tiles := (o.tiles.filter fun y => y.2.launch = lk).foldl (fun t y => Tbl.put t y.1 y.2) c.tiles
      maps := (o.maps.filter fun m => m.2.launch = lk).foldl (fun t m => Tbl.put t m.1 m.2) c.maps }
    let s := s.modCluster old fun c => { c with
      cards := c.cards.filter fun k => k.launch ≠ lk, open_ := c.open_.filter fun g => g ∉ ks.map Card.tag
      tiles := c.tiles.filter fun y => y.2.launch ≠ lk, maps := c.maps.filter fun m => m.2.launch ≠ lk }
    let qs := (s.launch lk).qs
    let both := fun (q : QInst) => q.cluster = old && ((s.launch lk).inst cl q.stage).isSome
    let s := (qs.filter both).foldl (fun s q => s.joinInst lk cl q) s
    let s := s.modLaunch lk fun l => { l with qs := (l.qs.filter fun q => !(q.cluster = old && (l.inst cl q.stage).isSome)).map fun q =>
      if q.cluster = old then { q with cluster := cl, quarter := 4 * cl + q.quarter % 4 } else q }
    { s with teams := Tbl.mapV s.teams fun _ t => if t.id.launch = lk && t.id.cluster = old && !t.id.landed then
        { t with id := { t.id with cluster := cl, slot := 16 * (4 * cl + t.id.core % 4) + t.id.slot % 16 } } else t }

/-- R263: one saved team of a unit comes back. -/
def State.restoreTeam (s : State) (k : Nat) : State :=
  let t := s.team k
  let s := if t.sync.stashLen = 0 then s else s.modCluster t.id.cluster fun c => c.putStash t.sync.stashBase t.sync.stashLen t.sync.saved
  let s := s.modTeam k fun t => { t with sync := { t.sync with saved := {} } }
  let s := s.modPart t.id.part fun P => { P with saved := P.saved.filter fun j => j ≠ k }
  match t.id.loc with
  | .savedEvicted => s.modTeam k fun t => { t with id := { t.id with loc := .evicted } }
  | _ => s.reside k t.id.core

/-- R237, R265: the core of its own quadrant position to which an evicted team comes back. -/
def State.evictCore (s : State) (t : Team) : Option Nat :=
  ((s.part t.id.part).coresOn t.id.cluster).find? fun c => c % 4 = t.id.core % 4 && decide (c ∉ s.mil.waitQ) && s.coreRoom c t.rows
/-- R258, R263, R265, R267: the team may be restored now: an evicted one that is ready, or the first saved one of the running context. -/
def State.mayRestoreTeam (s : State) (k : Nat) (t : Team) : Bool :=
  let P := s.part t.id.part
  !P.quiescing && P.running = some t.id.ctx &&
    (match t.id.loc with
     | .evicted => t.id.ready && (s.evictCore t).isSome
     | .saved | .savedEvicted =>
       (P.saved.find? fun j => (s.team j).id.ctx = t.id.ctx && (Tbl.get? s.teams j).isSome) = some k && (s.unitPlace (s.unitOf t) (s.launch t.id.launch) t.id.cluster).isSome
     | .resident => false)
/-- `TEAM_RESTORE` (R258, R263, R265, R267). -/
def execTeamRestore (s : State) : Host.Outcome State Fault Refusal :=
  let k := s.arg.n0
  let t := s.team k
  .next (if !s.mayRestoreTeam k t then s
    else match t.id.loc with
      | .evicted => (match s.evictCore t with
        | some core => s.reside k core
        | none => s)
      | _ =>
        let u := s.unitOf t
        match s.unitPlace u (s.launch t.id.launch) t.id.cluster with
        | none => s
        | some cl =>
          let s := (s.moveUnit t.id.launch t.id.cluster cl).restoreUnits t.id.launch cl
          let order := (s.part t.id.part).saved.filter fun j => u.any fun x => x.1 = j
          order.foldl (fun s j => s.restoreTeam j) s)

/-! ## Retirement (R214, R266, R642) -/

/-- R642: the waits of a retiring team are over. -/
def State.mayRetire (s : State) (k : Nat) (t : Team) : Bool :=
  t.resident && !s.quiescent t && t.flow.away = 0 && (match t.sync.park with | .retire => true | _ => false) && !t.sync.longOut && t.sync.rq.all (fun e => e.accs = []) && t.sync.compls = [] &&
    t.sync.leaving = [] && !((s.cluster t.id.cluster).cards.any fun x => x.team = k && x.kind = 0 && copyOut x.bits) &&
    t.sync.allocs.all fun x => !s.cardOn t.id.cluster x.base x.len && (s.roomBack t (s.mapOf t x) || !s.olderThan t.view)
/-- R642: free the allocations of a team, with their write-backs. -/
def State.freeAll (s : State) (k : Nat) : List Alloc → State
  | [] => s
  | x :: r =>
    let t := s.team k
    let ms := s.mapOf t x
    if s.roomBack t ms then ((s.flushMaps k t t.sync.nextEntry ms).freeAlloc k x).freeAll k r
    else s.abortTeam k t 0x4F
/-- `TEAM_RETIREMENT` (R266, R642). -/
def execTeamRetirement (s : State) : Host.Outcome State Fault Refusal :=
  let k := s.arg.n0
  let t := s.team k
  .next (if !s.mayRetire k t then s
    else
      let s := s.freeAll k (t.sync.allocs.filter fun x => !x.freeing)
      if (Tbl.get? s.teams k).isNone then s
      else
        let s := (s.freeToken k).disarm k
        let s := { s with teams := Tbl.del s.teams k }
        if t.id.foreign then s
        else s.modLaunch t.id.launch fun l => { l with live := (if t.id.landed then l.live else l.live - 1), gwctMax := max l.gwctMax t.regs.gwct })

/-! ## What may happen -/

/-- R350: monitors whose comparison holds, which the home re-evaluates at each write. -/
def State.monDue (s : State) : List (Instr × Arg) :=
  ((s.teams.filter fun p => s.monWakes p.2).map fun p => (Instr.monitorWake, ({ n0 := p.1 } : Arg))) ++
    (s.ports.mons.filter s.poolMonHolds).map fun m => (Instr.monitorWake, ({ flag := true, n0 := m.die, n1 := m.id } : Arg))
/-- Events of the scheduler that must happen in this tick. -/
def State.schedDue (s : State) : List (Instr × Arg) :=
  (if s.now % 4096 = 0 ∧ !s.marked 1 0 ∧ s.teams ≠ [] then [(Instr.throttleInterval, ({} : Arg))] else []) ++
    (s.teams.flatMap fun p =>
      ((p.2.sync.rq.filter fun e => e.mayWrite && e.due ≠ 0 && decide (e.due ≤ s.now)).map fun e => (Instr.longResultWrite, ({ n0 := p.1, n1 := e.id } : Arg))) ++
      (if s.wakes p.1 p.2 then [(Instr.wakeConditionMet, ({ n0 := p.1 } : Arg))] else []) ++
        (if p.2.resident && s.mayFrame p.2 then [(Instr.trapFrameForm, ({ n0 := p.1 } : Arg))] else []) ++
        (if s.enabledTick && s.pollDue p.2 then [(Instr.waitcPoll, ({ n0 := p.1 } : Arg))] else []) ++
        (if p.2.resident && s.relOver p.2 then [(Instr.releaseWaitEnd, ({ n0 := p.1 } : Arg))] else []) ++
        (if p.2.resident && s.ages p.2 then [(Instr.agingPromotion, ({ n0 := p.1 } : Arg))] else [])) ++
    (s.parts.filter fun p => s.turnOver p.1).map fun p => (Instr.turnEnd, ({ n0 := p.1 } : Arg))

/-- Events of the scheduler that may happen now. -/
def State.schedMay (s : State) : List (Instr × Arg) :=
  (s.teams.flatMap fun p =>
    let a : Arg := { n0 := p.1 }
    ((p.2.sync.rq.filter fun e => e.mayWrite && e.due = 0).map fun e => (Instr.longResultWrite, ({ n0 := p.1, n1 := e.id } : Arg))) ++
      ((p.2.sync.compls.filter fun c => c.time.isSome).map fun c => (Instr.writeCompletionReturn, ({ n0 := p.1, n1 := c.id } : Arg))) ++
      (if p.2.sync.tm.committing && p.2.sync.tm.asked = [] then [(Instr.tmCommitResult, a)] else []) ++ (if s.mayRetire p.1 p.2 then [(Instr.teamRetirement, a)] else []) ++
      (if s.mayEvict p.1 p.2 then [(Instr.teamEviction, a)] else []) ++ (if s.mayRestoreTeam p.1 p.2 then [(Instr.teamRestore, a)] else [])) ++
    (s.parts.filter fun p => s.maySave p.1).map fun p => (Instr.quiescenceSave, ({ n0 := p.1 } : Arg))

end Sys2Proof.Machine
end

