-- ==== Sys2Proof/Machine/Links.lean ====
section
/-! DEFINITION. Links, errors, viral mode and loss (R19, R23, R24, R49 to R56, R77, R81 to R93, R221, R224, R431, R435, R714). -/

namespace Sys2Proof.Machine

/-! ## Links (R49 to R56) -/

/-- A protocol option of R54 and R55. -/
inductive Opt | io | cache | memHdmDb | memHdmH | memHdmD | dynCap | multiLd | pbr | uio | ide | poisonViral | spdm | tdisp | ats | sriov | msix
deriving DecidableEq, Repr
/-- What a port presents itself as (R53). -/
inductive DevKind | endpoint | type1 | requester | type3
deriving DecidableEq, Repr
/-- R54, R55: the options that a port offers; the others its capability list reports as absent. SR-IOV and MSI-X stand on port 0, which is the first
that a W9L's host enumerates. -/
def portOffers (f : Fitting) (port : Nat) : Opt → Bool
  | .io | .ide | .poisonViral | .spdm => true
  | .cache | .tdisp | .ats => f = .w9h && port = 0
  | .memHdmDb | .dynCap => f = .w9l
  | .pbr | .uio => f = .w9l || port ≠ 0
  | .sriov | .msix => port = 0
  | .memHdmH | .memHdmD | .multiLd => false
/-- R53: what a port presents under a protocol that it trains as; none where R53 gives it no such protocol. -/
def portKind (f : Fitting) (port : Nat) : Proto → Option DevKind
  | .pcie => if f = .w9h && port = 0 then some .endpoint else none
  | .cxl => if f = .w9l then some .type3 else if port = 0 then some .type1 else some .requester

/-- R52: the number of a link: two per port, an x16 port using the first. -/
def linkNo (port sub : Nat) : Nat := 2 * (port % 4) + sub % 2
def State.modLink (s : State) (l : Nat) (f : Link → Link) : State := { s with ports := { s.ports with links := Tbl.upd s.ports.links l {} f } }
/-- R51: the link exists: the second of a port only when it is bifurcated, which port 0 of a W9H never is. -/
def State.hasLink (s : State) (port sub : Nat) : Bool :=
  decide (port < 4) && (sub = 0 || (sub = 1 && decide (port ∈ s.mil.bifNow) && !(s.fitting = .w9h && port = 0)))

/-- What waited for its link leaves it, as far as R54 and R56 let it: requests in the order they were made, then page requests. -/
def State.sendHeld (s : State) : State :=
  let s := (s.xlat.reqs.filter fun r => r.msg.isSome).foldl (fun s r =>
    match r.via, r.msg with
    | some v, some m => if s.viaFree v then
        ({ s with xlat := { s.xlat with reqs := s.xlat.reqs.map fun (x : Req) => if x.tag = r.tag then ({ x with msg := none, since := s.now } : Req) else x } } : State).emit m
      else s
    | _, _ => s) s
  let room := 512 - (s.xlat.pris.filter fun r => r.sent).length
  let go := if (s.link hostLink).carries then (s.xlat.pris.filter fun r => !r.sent).take room else []
  go.foldl (fun s r => ({ s with xlat := { s.xlat with pris := s.xlat.pris.map fun (x : Pri) => if x.id = r.id then ({ x with sent := true } : Pri) else x } } : State).emit
    (.pri r.id (ctabPasid (s.ctabOf r.ctx)) (r.page * 4096) r.write)) s

/-- `LINK_TRAINING` (R49, R50, R53, R55): as PCIe 6.0 or as CXL 3.1 with 256-byte flits, whichever the port presents; a hierarchy-routing switch on ports
1 to 3 is refused at enumeration. DESIGN CHOICE: a link partner that offers only a protocol that R53 does not give the port leaves it down (log 217). -/
def execLinkTraining (s : State) : Host.Outcome State Fault Refusal :=
  let l := linkNo s.arg.n0 s.arg.n1
  let g := s.arg.n2
  let p : Proto := if s.arg.n3 = 0 then .pcie else .cxl
  .next (if !s.hasLink s.arg.n0 s.arg.n1 || (s.link l).up then s
    else if s.arg.flag || (portKind s.fitting s.arg.n0 p).isNone then s
    else if g = 64 ∨ g = 32 ∨ g = 16 then s.modLink l fun _ => { up := true, proto := some p, hbr := s.arg.opt.isSome && decide (s.arg.n0 ≠ 0), gts := g }
    else s.logIt (.trainFail l))

/-- `IDE_KM_KEY_PROGRAMMING` (R56): the link's IDE stream is established, and what waited for it leaves. -/
def execIdeKmKeyProgramming (s : State) : Host.Outcome State Fault Refusal :=
  let l := linkNo s.arg.n0 s.arg.n1
  .next (if (s.link l).up && !(s.link l).hbr then (s.modLink l fun x => { x with ide := true, insecure := false }).sendHeld else s)

/-! ## Loss (R24, R89 to R93, R310) -/

/-- The contexts of a partition. -/
def State.ctxsOf (s : State) (p : Nat) : List Nat := (s.ctxs.filter fun c => c.2.part = some p).map Prod.fst
/-- R91: contexts that own a KV entry with a page in a range. -/
def State.kvCtxs (s : State) (base len : Nat) : List Nat :=
  s.parts.flatMap fun p => (p.2.kv.filter fun e => e.2.kind = 1 && e.2.pages.any fun a => decide (base ≤ a ∧ a < base + len)).map fun e => e.2.ctx
/-- R91, R112: the lost-range trap in contexts: their resident teams take it at their next instructions, or the next team that starts. -/
def State.tellLost (s : State) (cs : List Nat) (base len : Nat) (w : Word) : State :=
  cs.foldl (fun s c =>
    let res := s.teams.any fun t => t.2.id.ctx = c && t.2.resident
    let s := s.modCtx c fun x => { x with vlost := true, lost := if res then x.lost else x.lost ++ [(base, len, w)] }
    { s with teams := Tbl.mapV s.teams fun _ t => if t.id.ctx = c && t.resident then
        { t with sync := { t.sync with lost := t.sync.lost ++ [(base, len, w)] } } else t }) s

/-- R71, R73, R83, R90, R293: a pool write, continuation or prepare is over. -/
def State.portDone (s : State) (w : PoolW) : State :=
  let key := w.src * 8 + w.link
  let s := { s with ports := { s.ports with q := s.ports.q.filter fun x => x.id ≠ w.id
                                            fence := if w.left then Tbl.putD s.ports.fence key (Tbl.getD s.ports.fence key 0 - 1) 0 else s.ports.fence } }
  match w.serves with
  | .compl k id => s.modTeam k fun t => { t with sync := { t.sync with compls := t.sync.compls.map fun c => if c.id = id then { c with time := some s.now } else c } }
  | .card cl tag => s.modCard cl tag fun k => { k with gw := max k.gw s.now }
  | .acc k _ lane => if w.cont.isSome then s.laneTaken k lane else s
  | _ => s

/-- The line a unit waits for has arrived: it fills the one place kept for it. -/
def fillGot (g : Tbl (List Byte × Bool)) (x : List Byte × Bool) : Tbl (List Byte × Bool) := g.map fun y => if y.2.1 = [] then (y.1, x) else y
/-- R80, R149, R710: what the answer to a request does: completion status, poison, the line, and a combined atomic's old values. -/
def State.serve (s : State) (r : Req) (status : Nat) (pois : Bool) (d : Line) (vals : List Nat) : State :=
  let bs := (List.range 64).map (lineByte d)
  let cause := if r.pbr.isSome then 0x27 else 0x29
  match r.for_ with
  | .acc k eid lane => s.accCompletion k eid lane status pois d vals
  | .held lk va => s.heldDone lk va (decide (status ≠ 0))
  | .compl k id => s.modTeam k fun t => { t with sync := { t.sync with compls := t.sync.compls.map fun c => if c.id = id then { c with time := some s.now } else c } }
  | .card cl tag =>
    if status ≠ 0 then s.cardFault cl tag cause
    else if r.write then s.modCard cl tag fun k => { k with pois := k.pois || pois }
    else s.modCard cl tag fun k => { k with got := fillGot k.got (bs, pois) }
  | .walk id =>
    -- R77: a poisoned word of a table reads zero
    let w := if pois then 0 else leNat (partBytes d { len := 8, pa := r.addr })
    if s.xlat.walks.any fun x => x.id = id then
      if status ≠ 0 then (s.failAll (· = .walk id) 0x27 (some (0, status))).dropWalk id
      else s.modWalk id fun x => { x with fetched := Tbl.put x.fetched r.addr w }
    else if status ≠ 0 then s.moveRefused id 0x27
    else s.modMove id fun m => { m with fetched := Tbl.put m.fetched r.addr w }
  | .move id => s.moveAnswer id r.write d pois vals
  | .mon k => s.monCompletion k status pois d
  | .far k => s.monFar k r status pois d vals
  | .txn k pa => s.txAnswer k pa (status = 0 && !pois) d
  | .seq _ _ | .aperture _ _ | .unit _ | .stream _ _ | .crec _ =>
    s.modFetch r.for_ fun f => if status ≠ 0 then { f with bad := some { cause := cause, at_ := some (0, status) } } else { f with got := fillGot f.got (bs, pois) }
  | .ats _ | .die _ | .nobody => s

/-- R90: requests to a lost W9L end: a read or atomic with poison, a write as dropped. -/
def State.endRequests (s : State) (pbr : Nat) : State :=
  let mine := fun (r : Req) => r.pbr = some pbr || r.for_ = .die pbr
  let rs := s.xlat.reqs.filter mine
  let s := { s with xlat := { s.xlat with reqs := s.xlat.reqs.filter fun r => !mine r } }
  (rs.foldl (fun s r => s.serve r 0 (!r.write || (match r.for_ with | .acc _ _ _ => true | _ => false)) 0 []) s).sweep

/-- R92: launches that touch a range at its loss abort. -/
def State.abortTouching (s : State) (p : Launch → Bool) : State :=
  ((s.launches.filter fun l => l.2.uncommitted && p l.2).map Prod.fst).foldl (fun s lk => s.abortLaunch lk 0x8A 1) s

/-- R92: what of a launch stands at a W9L: lines it has written there, writes on their way, lanes at it or on their way. -/
def State.standsAt (s : State) (pbr : Nat) (lk : Nat) (l : Launch) : Bool :=
  (l.plines.any fun ln => match s.poolEnt (64 * ln) with | some e => e.pbr = pbr | none => false) ||
    (s.ports.q.any fun w => w.pbr = pbr && w.launch = some lk) ||
    s.teams.any fun t => t.2.id.launch = lk && !t.2.id.foreign &&
      ((lanesOf t.2.flow.away t.2.regs.lanes).any (fun i => Tbl.getD t.2.flow.hop (3072 + i) 0 = pbr + 1) || t.2.sync.leaving.any fun x => x.pbr = some pbr && x.sent)
/-- R89 to R92, R310: a W9L is lost. What landed teams of a launch have left behind there does not show here: a free value says whether there is
anything. -/
def State.loseDie (s : State) (pbr : Nat) : State :=
  let es := (s.ports.pool.map Prod.snd).filter fun e => e.pbr = pbr && !e.lost
  let gone := ((s.launches.zipIdx.filter fun l => l.1.2.uncommitted && decide (pbr ∈ l.1.2.dies) && (s.standsAt pbr l.1.1 l.1.2 || Config.leftBehind (s.draws + l.2))).map fun l => l.1.1)
  let s := { s with draws := s.draws + s.launches.length }
  let s := { s with ports := { s.ports with pool := Tbl.mapV s.ports.pool fun _ e => if e.pbr = pbr then { e with lost := true } else e } }
  let ws := s.ports.q.filter fun w => w.pbr = pbr
  let s := (ws.filter fun w => w.cont.isSome).foldl (fun s w => match w.launch with | some lk => s.abortLaunch lk 0x60 1 | none => s) s
  let s := gone.foldl (fun s lk => s.abortLaunch lk 0x8A 1) s
  let s := (ws.filter fun w => s.ports.q.any fun x => x.id = w.id).foldl State.portDone s
  let s := s.endRequests pbr
  es.foldl (fun s e => s.tellLost ((s.ctxsOf e.part ++ s.kvCtxs e.base e.len).dedup) e.base e.len (BitVec.ofNat 64 (e.pbr * 2 ^ 20))) s

/-- R92: launches and lines of the continuations and landed teams of this die: lanes on their way, in landing queues and landed. -/
def State.laneLines (s : State) : List (Nat × Nat) :=
  (s.teams.flatMap fun t => (t.2.sync.leaving.filter fun x => x.pbr.isNone && !contRet x.cont).map fun x => (t.2.id.launch, x.dpa)) ++
    (s.net.flatMap fun x => match x.1 with
      | .continuationArrival => if x.2.opt.isSome then [(launchKey (contPart (x.2.wide.setWidth 1024)) (contVer (x.2.wide.setWidth 1024)), x.2.n1)] else []
      | _ => []) ++
    (s.clusters.flatMap fun c => c.2.groups.flatMap fun g => (g.conts.zip g.pas).map fun x => (launchKey (contPart x.1) (contVer x.1), x.2)) ++
    s.teams.flatMap fun t => if t.2.id.landed && !t.2.id.foreign then (lanesOf t.2.flow.pres 32).map fun l => (t.2.id.launch, Tbl.getD t.2.flow.hop (2048 + l) 0) else []

/-- R24: a stack is taken offline. -/
def State.loseStack (s : State) (n : Nat) : State :=
  if s.fitting ≠ .w9h ∨ n ≥ 8 ∨ n ∈ s.mil.offline then s
  else
    let base := n * 2 ^ 36
    let inR := fun (pa : Nat) => decide (base ≤ pa ∧ pa < base + 2 ^ 36)
    let s := { s with mil := { s.mil with offline := s.mil.offline ++ [n] } }
    let ps := (s.xlat.own.filter fun g => inR (g.1 * 2 ^ 21) && decide (g.2 < 64)).map Prod.snd ++ (s.parts.filter fun p => p.2.kvAt.any inR).map Prod.fst
    let s := s.abortTouching fun l => l.shadow.any (fun x => inR (64 * x.1)) || (l.deltas.any fun d => inR d.1) ||
      (s.laneLines.any fun x => x.1 = launchKey l.head.part l.head.ver && inR x.2)
    s.tellLost ((ps.dedup.flatMap s.ctxsOf ++ s.kvCtxs base (2 ^ 36)).dedup) base (2 ^ 36) (BitVec.ofNat 64 (1 + n * 256))

/-- R221: a W9L discards what it holds of another die and has not locked. -/
def State.discardForeign (s : State) (pbr : Nat) : State :=
  (s.ports.foreign.filter fun f => f.die = pbr && !f.locked).foldl (fun s f => s.endVersion f.die f.part f.ver) s
/-- R714: a die becomes unreachable. -/
def State.unreachable (s : State) (pbr : Nat) : State :=
  if (Tbl.get? s.ports.unreach pbr).isSome then s else { s with ports := { s.ports with unreach := Tbl.put s.ports.unreach pbr s.now } }
/-- R221: a die has been unreachable for 10 ms and unlocked entries of it are held. -/
def State.discardDue (s : State) (pbr : Nat) : Bool :=
  (match Tbl.get? s.ports.unreach pbr with | some t => decide (t + 10 * msTicks ≤ s.now) | none => false) && s.ports.foreign.any fun f => f.die = pbr && !f.locked
/-- `SHADOW_DISCARD_TIMEOUT` (R221). -/
def execShadowDiscardTimeout (s : State) : Host.Outcome State Fault Refusal := .next (if s.discardDue s.arg.n0 then s.discardForeign s.arg.n0 else s)
/-- `FLIT_TAG_FAILURE` (R23): a flit whose retransmission fails too takes its stack offline. -/
def execFlitTagFailure (s : State) : Host.Outcome State Fault Refusal :=
  let n := s.arg.n0
  .next (if s.fitting ≠ .w9h ∨ n ≥ 8 then s
    else if s.arg.flag && decide (n ∈ s.mil.flitFail) then ({ s with mil := { s.mil with flitFail := s.mil.flitFail.filter (· ≠ n) } } : State).loseStack n
    else { s with mil := { s.mil with flitFail := if n ∈ s.mil.flitFail then s.mil.flitFail else s.mil.flitFail ++ [n] } })

/-! ## Viral mode (R81 to R88) -/

/-- R88: an error in state of no partition: every partition becomes viral, and each link raises CXL viral. -/
def State.deviceViral (s : State) : State :=
  let s := (s.parts.map Prod.fst).foldl (fun s p => s.viralDetect p 7) s
  (s.ports.links.filter fun l => l.2.up).foldl (fun s l => s.emit (.cxlViral l.1)) s
/-- R81: the partitions that a viral indication on a link concerns. -/
def State.viralBehind (s : State) (l : Nat) : List Nat :=
  if s.fitting = .w9l then (s.ports.eown.map Prod.snd).dedup
  else if l < 2 then ((s.ctxs.filter fun c => ctabPasv (s.ctabOf c.1)).filterMap fun c => c.2.part).dedup
  else ((s.ports.pool.filter fun e => e.2.link = l).map fun e => e.2.part).dedup
/-- `VIRAL_INDICATION_RECEIVED` (R81). -/
def execViralIndicationReceived (s : State) : Host.Outcome State Fault Refusal :=
  .next ((s.viralBehind (linkNo s.arg.n0 s.arg.n1)).foldl (fun s p => s.viralDetect p 4) s)
/-- `VIRAL_TAKES_EFFECT` (R82 to R85). -/
def execViralTakesEffect (s : State) : Host.Outcome State Fault Refusal :=
  let p := s.arg.n0
  .next (match (Tbl.get? s.parts p).bind Part.viral with
    | some v =>
      if v.active ∨ s.now < v.tv then s
      else
        let s := s.modPart p fun P => { P with viral := some { v with active := true } }
        let s := ((s.launches.filter fun l => l.2.head.part = p).map Prod.fst).foldl (fun s lk => s.abortLaunch lk 0x89 1) s
        let s := (s.ctxsOf p).foldl (fun s c =>
          (s.modCtx c fun x => { x with viral := true, vcause := v.cause, vtime := v.tv }).postEvent c 0 0x89 (BitVec.ofNat 32 v.cause)) s
        s.postTrace p wideRec 3 (BitVec.ofNat 128 (0x89 + 3 * 256)) true
    | none => s)

/-! ## Errors (R19, R77, R88, R224, R431, R435) -/

/-- The partition that owns a line. -/
def State.ownerOf (s : State) (pa : Nat) : Option Nat := (s.parts.map Prod.fst).find? fun p => s.ownsAt p pa
/-- R224: an uncorrectable error in a launch's shadow. -/
def State.shadowLost (s : State) (lk : Nat) : State :=
  match Tbl.get? s.launches lk with
  | none => s
  | some l => match l.st with
    | .waiting => s.abortLaunch lk 0x53 1
    | .started => s.abortLaunch lk 0x53 1
    | .done => s
    | _ => s.viralDetect l.head.part 2
/-- R224: the same in what a W9L holds for another die's launch: before its commit is prepared the version is given up and its die told, afterwards the
owning partition becomes viral. -/
def State.foreignLost (s : State) (d p v : Nat) : State :=
  if !s.holdsOf d p v then s
  else if (s.foreignOf d p v).locked then s.viralDetect (s.foreignOf d p v).own 2
  else (s.endVersion d p v).emit (.landedCause d p v 0x53)
/-- `SHADOW_ENTRY_LOST` (R224). -/
def execShadowEntryLost (s : State) : Host.Outcome State Fault Refusal := .next (s.shadowLost s.arg.n0)

/-- A cause that comes to a team from an error of its own state. -/
def State.teamError (s : State) (k cause : Nat) (info : List Word) : State :=
  match Tbl.get? s.teams k with
  | some t => s.deliver k { tpc := t.flow.pc, cause := cause, cls := causeClass cause, info := info }
  | none => s
/-- R77: a line of local memory is poisoned. -/
def State.poisonLine (s : State) (pa : Nat) : State := if s.isLocal pa then { s with poison := Tbl.put s.poison (lineNo pa) true } else s

/-- `UNCORRECTABLE_ERROR` (R19, R77, R81, R88, R224, R363, R375, R431). -/
def execUncorrectableError (s : State) : Host.Outcome State Fault Refusal :=
  .next (match s.arg.site with
    | .memLine pa => s.poisonLine pa
    | .homeEntry pa =>
      let s := s.poisonLine pa
      (match s.ownerOf pa with
       | some p => s.viralDetect p 1
       | none => if s.granuleOwner (pa / 2 ^ 21) = 0x40 then s.deviceViral else s)
    | .shadowEntry lk => s.shadowLost lk
    | .foreignEntry d p v => s.foreignLost d p v
    | .lostPoison p => if s.hasPart p then s.viralDetect p 3 else s
    | .systemState => s.deviceViral
    | .regFile k => s.teamError k 0x8C []
    | .stashBank k off => s.teamError k 0x3D (infoS (4 * (s.team k).id.cluster + off / 2 ^ 19 % 4) (off % 2 ^ 19) 1)
    | .imageFetch k => s.teamError k 0x0A []
    | .saveArea c => if (Tbl.get? s.ctxs c).isSome then s.ctxFatal c 0x8D else s
    | .engineCell cl tag corr => s.modCard cl tag fun k => if corr then { k with cecc := k.cecc + 1 } else { k with uecc := true }
    | .accWord cl tile r n => s.modCluster cl fun c => { c with tiles := Tbl.modify c.tiles tile fun t =>
        { t with bad := if 256 * r + n ∈ t.bad then t.bad else t.bad ++ [256 * r + n] } })

/-- R104, R435: the partitions that a way of the home slices belongs to. -/
def State.wayOwners (s : State) (w : Nat) : List Nat :=
  (s.parts.filter fun p => if s.xlat.shways.getLsbD w then p.2.cfg.ways &&& s.xlat.shways ≠ 0 else p.2.cfg.ways.getLsbD w).map Prod.fst
/-- R435: the entry of a way of a set is invalid; a line that leaves folds its latest expiry into the set's (R315). -/
def State.dropWay (s : State) (h set w : Nat) : State :=
  s.modCluster h fun c =>
    let gone := c.lines.filter fun x => setOf x.1 = set && x.2.way = w
    if gone = [] then c
    else { c with lines := c.lines.filter (fun x => !gone.any fun y => y.1 = x.1)
                  ovf := Tbl.put c.ovf set (gone.foldl (fun m v => max m (v.2.latest none)) (Tbl.getD c.ovf set 0)) }
/-- R224, R435: the versions of other dies' launches that have a shadow entry in a way of a set. -/
def State.foreignIn (s : State) (h set w : Nat) : List Foreign :=
  s.ports.foreign.filter fun f => f.shadow.any fun x => !x.2.spilled && homeSlice (64 * x.1) = h && setOf x.1 = set && x.2.way = w
/-- `HOME_SLICE_TAG_PARITY` (R435). -/
def execHomeSliceTagParity (s : State) : Host.Outcome State Fault Refusal :=
  .next (
    let ps := s.wayOwners s.arg.n2
    let (n, s) := s.draw
    let lks := (s.launches.filter fun l => decide (l.2.head.part ∈ ps)).map Prod.fst
    let s := lks.foldl (fun s lk => s.abortLaunch lk 0x8B 1) s
    let s := if Config.dirtyVec n then ps.foldl (fun s p => s.viralDetect p 1) s else s
    let s := (s.foreignIn s.arg.n0 s.arg.n1 s.arg.n2).foldl (fun s f => s.foreignLost f.die f.part f.ver) s
    let s := s.dropWay s.arg.n0 s.arg.n1 s.arg.n2
    (ps.flatMap s.ctxsOf).foldl (fun s c => s.postEvent c 0 0x8B (Config.parityArg s.arg.n0)) s)

/-- What must happen in this tick. -/
def State.linksDue (s : State) : List (Instr × Arg) :=
  ((s.parts.filter fun p => match p.2.viral with | some v => !v.active && decide (v.tv ≤ s.now) | none => false).map fun p =>
    (Instr.viralTakesEffect, ({ n0 := p.1 } : Arg))) ++
    (s.ports.unreach.filter fun u => s.discardDue u.1).map fun u => (Instr.shadowDiscardTimeout, ({ n0 := u.1 } : Arg))

end Sys2Proof.Machine
end

