-- ==== Sys2Proof/Machine/Power.lean ====
section
/-! DEFINITION. Reset and boot, power gating, performance states and throttling, freeze and its image (R22, R24, R30 to R48, R106,
R107, R136, R142, R143). -/

namespace Sys2Proof.Machine

/-! ## Reset and boot (R22, R24, R39, R136, R142, R143) -/

/-- R136: every state of the die is lost. What stays is the fitting, the bifurcation that takes effect now (R51), what stands at
the ports, and the model's own counters; a W9L powers no quarter (R32). -/
def State.deviceReset (s : State) : State :=
  { State.reset with
    fitting := s.fitting
    inputs := s.inputs, outbox := s.outbox, draws := s.draws, fresh := s.fresh
    mil := { bifNow := s.mil.bifNext, bifNext := s.mil.bifNext, keyGens := s.mil.keyGens }
    power := { gated := if s.fitting = .w9l then List.range 384 else [] }
    freeze := { pin := s.freeze.pin, req := if s.freeze.pin then some (0, 0) else none } }
/-- `DEVICE_RESET` (R136). -/
def execDeviceReset (s : State) : Host.Outcome State Fault Refusal := .next s.deviceReset

/-- The Milliner is up once its firmware, stage 1, has booted (R39). -/
def Milliner.up (m : Milliner) : Bool := m.booted && !m.bootFail
/-- R142: every boot stage is complete: commands and the register windows are served. -/
def Milliner.served (m : Milliner) : Bool := m.up && decide (5 ≤ m.stages)

/-- R22, R24: session keys of the stacks; a stack whose establishment fails is never brought online. -/
def State.keyStacks (s : State) : State :=
  if s.fitting = .w9l then s
  else
    let (n, s) := s.draw
    let ok := (List.range 8).filter (Config.stackKeyed n)
    { s with mil := { s.mil with
        sessKeys := ok.map fun k => (k, Config.freshKey (s.mil.keyGens + k)), offline := (List.range 8).filter fun k => k ∉ ok
        keyGens := s.mil.keyGens + 8 } }
/-- What a boot stage that has been verified does: the Milliner's firmware fills the system key slot and honours a standing
freeze request; the base dies' firmware takes its session keys. -/
def State.bootStage (s : State) (n : Nat) (digest : BitVec 256) : State :=
  let m := Config.sha256 (digest.toNat * 2 ^ 256) 64
  let s := { s with mil := { s.mil with meas := s.mil.meas ++ [m], stages := n + 1 } }
  if n = 1 then
    { s with mil := { s.mil with booted := true, slots := Tbl.put s.mil.slots 64 (Config.freshKey s.mil.keyGens), keyGens := s.mil.keyGens + 1 }
             freeze := { s.freeze with req := s.freeze.req.map fun q => (if s.freeze.pin then 0 else q.1, s.now) } }
  else if n = 3 then s.keyStacks
  else s
/-- R142: the digest of a stage's image, if its signature verifies under a key whose hash is in the fuses and its security version is not
below the fused minimum. Stage 0, the ROM itself, and stage 4, the settings, have no image. -/
def stageDigest (n : Nat) (image : List Byte) (sig key ver : Nat) : Option (BitVec 256) :=
  if n = 0 ∨ 4 ≤ n then some (Config.bootDigest n)
  else
    let d := Config.sha256 (leNat image) image.length
    if Config.sha256 key 384 = Config.keyFuse ∧ Config.sigOk key d sig ∧ Config.minVersion n ≤ ver then some d else none
/-- `BOOT_STAGE_COMPLETE` (R39, R142, R143): the stages complete in order; a failure stops the boot. -/
def execBootStageComplete (s : State) : Host.Outcome State Fault Refusal :=
  let n := s.arg.n0
  let a := fun (i : Nat) => s.arg.ns.getD i 0
  .next (if n ≠ s.mil.stages ∨ 5 ≤ n ∨ s.mil.bootFail then s
    else match stageDigest n s.arg.bytes (a 0) (a 1) (a 2) with
      | some d => s.bootStage n d
      | none => ({ s with mil := { s.mil with bootFail := true, status := 4 } } : State).logIt (.bootFail n))

/-! ## Commands (R106, R107) -/

/-- R107: a command completes. -/
def State.finishCmd (s : State) (status : Nat) : State :=
  { s with mil := { s.mil with busy := false, op := 0, status := status, seq := (s.mil.seq + 1) % 2 ^ 32, waitPart := none } }
/-- R106: the Milliner runs one command at a time; `f` completes with a status at once, or goes on running. -/
def State.command (s : State) (op : Nat) (f : State → Option Nat × State) : State :=
  if s.mil.busy || !s.mil.served then s
  else
    match f { s with mil := { s.mil with busy := true, op := op, status := 1 } } with
    | (some st, s) => s.finishCmd st
    | (none, s) => s
/-- A command that changes nothing and completes with a status. -/
def answer (st : Nat) (s : State) : Option Nat × State := (some st, s)

/-! ## Power gating (R30 to R32) -/

/-- R31: a quarter's registers, stash and full/empty bits start empty. -/
def State.clearQuarter (s : State) (q : Nat) : State :=
  s.modCluster (q / 4) fun c =>
    let b := q % 4 * 2 ^ 19
    let g := fun (n : Nat) => decide (b / 16 ≤ n ∧ n < (b + 2 ^ 19) / 16)
    { c with stash := c.stash.filter fun x => !decide (b ≤ x.1 ∧ x.1 < b + 2 ^ 19), full := c.full.filter fun x => !g x.1
             spois := c.spois.filter fun x => !g x.1, scov := c.scov.filter fun x => !g x.1 }
/-- R31: a quarter begins to ungate. -/
def State.ungate (s : State) (q : Nat) : State := { s with power := { s.power with ungating := Tbl.put s.power.ungating q (s.now + 10500) } }
/-- R30: a quarter belongs to a partition. -/
def State.quarterOwned (s : State) (q : Nat) : Bool := s.parts.any fun p => p.2.cfg.quart.getLsbD q
/-- The quarters of a partition record. -/
def quarters (m : BitVec 384) : List Nat := (List.range 384).filter fun q => m.getLsbD q

/-- `q_gate` (R30, R31). -/
def State.qGate (s : State) (q : Nat) (gate : Bool) : Option Nat × State :=
  if s.fitting = .w9l then answer 6 s
  else if q ≥ 384 then answer 2 s
  else if gate then
    if s.quarterOwned q then answer 3 s
    else answer 0 { s with power := { s.power with gated := if q ∈ s.power.gated then s.power.gated else s.power.gated ++ [q] } }
  else if q ∈ s.power.gated then (none, s.ungate q)
  else answer 0 s
/-- `Q_GATE` (R30, R31). -/
def execQGate (s : State) : Host.Outcome State Fault Refusal := .next (s.command 0x0E fun s => s.qGate s.arg.n0 s.arg.flag)

/-- `QUARTER_UNGATE_DONE` (R31, R32): a quarter that a running `part_cfg` assigns joins its partition. -/
def execQuarterUngateDone (s : State) : Host.Outcome State Fault Refusal :=
  let q := s.arg.n0
  .next (match Tbl.get? s.power.ungating q with
    | some t =>
      if s.now < t then s
      else
        let s := ({ s with power := { s.power with gated := s.power.gated.filter (· ≠ q), ungating := Tbl.del s.power.ungating q } } : State).clearQuarter q
        match s.mil.waitPart with
        | some p => if s.mil.op = 0x01 then s.modPart p fun P => { P with cfg := { P.cfg with quart := P.cfg.quart ||| (1#384 <<< q) } } else s
        | none => s
    | none => s)

/-! ## Performance states and throttling (R34 to R38) -/

/-- R35: the enable count of a performance state. -/
def pEnable (p : Nat) : Nat := if p = 2 then 4 else if p = 1 then 3 else 1
/-- R36: a performance state is asked for. -/
def State.setPstate (s : State) (p : Nat) : Option Nat × State :=
  if p > 2 then answer 2 s
  else if p ≤ s.power.pstate then
    answer 0 { s with power := { s.power with nextP := if p = s.power.pstate then none else some p, ramp := none } }
  else answer 0 { s with power := { s.power with nextP := none, ramp := some (p, s.now + 21000 * (p - s.power.pstate)) } }
/-- `PSTATE` (R36). -/
def execPstate (s : State) : Host.Outcome State Fault Refusal := .next (s.command 0x0F fun s => s.setPstate s.arg.n0)

/-- R36: the ramp of the core voltage is over. -/
def State.rampOver (s : State) : Bool := match s.power.ramp with | some r => decide (r.2 ≤ s.now) | none => false
/-- `VDD_CORE_RAMP_DONE` (R36): the raising takes effect at the next frame boundary. -/
def execVddCoreRampDone (s : State) : Host.Outcome State Fault Refusal :=
  .next (match s.power.ramp with
    | some r => if r.2 ≤ s.now then { s with power := { s.power with ramp := none, nextP := some r.1 } } else s
    | none => s)

/-- `THERMAL_THROTTLE` (R37): cause 1 thermal, 2 power cap. -/
def execThermalThrottle (s : State) : Host.Outcome State Fault Refusal :=
  let n := s.arg.n0
  .next (if 1 ≤ n ∧ n ≤ 3 ∧ (s.arg.n1 = 1 ∨ s.arg.n1 = 2) then { s with power := { s.power with nextT := some (n, s.arg.n1) } } else s)
/-- `THROTTLE_RELEASE` (R37). -/
def execThrottleRelease (s : State) : Host.Outcome State Fault Refusal := .next { s with power := { s.power with nextT := some (4, s.power.tcause) } }

/-- Something takes effect at a frame boundary. -/
def State.frameDue (s : State) : Bool :=
  s.now % 1024 = 0 && (s.power.nextP.isSome || s.power.nextT.isSome || s.parts.any fun p => p.2.next.isSome)
/-- R36 to R38: the state and the throttle that take effect, the effective enable count, and the cause of its change. -/
def Power.atFrame (w : Power) : Power × Nat :=
  let p := w.nextP.getD w.pstate
  let t := w.nextT.getD (w.throttle, w.tcause)
  let w' := { w with pstate := p, nextP := none, throttle := t.1, tcause := t.2, nextT := none, enable := min (pEnable p) t.1 }
  (w', if w.nextT.isSome ∧ t.1 ≠ w.throttle then t.2 else 0)
/-- `FRAME_BOUNDARY` (R34 to R38, R103). -/
def execFrameBoundary (s : State) : Host.Outcome State Fault Refusal :=
  .next (if !s.frameDue then s
    else
      let old := s.power.enable
      let (w, cause) := s.power.atFrame
      let s := { s with
        power := w
        parts := Tbl.mapV s.parts fun _ P => match P.next with
          | some n => { P with cfg := { P.cfg with cal := n.1, slice := n.2 }, next := none }
          | none => P }
      if w.enable = old then s
      else (s.parts.map Prod.fst).foldl (fun s p => s.postTrace p wideRec 4 (BitVec.ofNat 128 (w.enable + cause * 256)) false) s)

/-! ## Freeze (R39 to R44) -/

/-- R39, R42: a request; the pin's in the same tick goes before the register's. -/
def State.askFreeze (s : State) (cause : Nat) : State :=
  match s.freeze.req with
  | none => { s with freeze := { s.freeze with req := some (cause, s.now) } }
  | some (0, _) => if cause = 1 then { s with freeze := { s.freeze with ctl := some (s.freeze.ctl.getD s.now) } } else s
  | some (_, t) => if cause = 0 ∧ t = s.now then { s with freeze := { s.freeze with req := some (0, s.now), ctl := some t } } else s
/-- `FREEZE_N_PIN` (R39): before the Milliner is up the pin's level stands, or no longer; a request by `frz_ctl` goes on standing. -/
def execFreezeNPin (s : State) : Host.Outcome State Fault Refusal :=
  let low := s.arg.flag
  .next (
    let s := { s with freeze := { s.freeze with pin := low } }
    if low then s.askFreeze 0
    else match s.freeze.req with
      | some (0, _) => if s.mil.up then s else { s with freeze := { s.freeze with req := s.freeze.ctl.map fun t => (1, t), ctl := none } }
      | _ => s)
/-- R40: `frz_ctl`. -/
def State.frzCtl (s : State) (v : Nat) : State := if bits v 31 16 = 0x5A17 ∧ bit v 0 then s.askFreeze 1 else s
/-- `FRZ_CTL_WRITE` (R40). -/
def execFrzCtlWrite (s : State) : Host.Outcome State Fault Refusal := .next (s.frzCtl s.arg.v.toNat)

/-- R39, R41: the freeze may take place at the end of this tick, and the last tick at which it does. -/
def State.mayFreeze (s : State) : Bool := s.mil.up && s.freeze.req.isSome && s.freeze.at_.isNone
def State.mustFreeze (s : State) : Bool := s.mayFreeze && (match s.freeze.req with | some q => decide (q.2 + 64 ≤ s.now) | none => false)
/-- `FREEZE` (R41 to R43): every clock but the debug port's stops at the end of this tick, and the links go to electrical idle. -/
def execFreeze (s : State) : Host.Outcome State Fault Refusal :=
  .next (match s.freeze.req with
    | some q =>
      if !s.mayFreeze then s
      else
        let s' := (s.ports.links.filter fun l => l.2.up).foldl (fun s l => s.emit (.linkIdle l.1)) s
        { s' with freeze := { s'.freeze with at_ := some (s.now, q.1), shifted := 0 }
                  ports := { s'.ports with links := Tbl.mapV s'.ports.links fun _ l => { l with up := false, ide := false } } }
    | none => s)

/-! ## The freeze image (R45 to R48) -/

/-- R48: the sections, by identifier and instance. -/
def freezeSections (f : Fitting) : List (Nat × Nat) :=
  let row := fun (sid n : Nat) => (List.range n).map fun i => (sid, i)
  row 0x0001 1 ++ row 0x0010 1 ++ row 0x0020 384 ++ row 0x0021 384 ++ row 0x0022 384 ++ row 0x0030 384 ++ row 0x0040 384 ++ row 0x0050 96 ++
    row 0x0051 96 ++ row 0x0060 96 ++ row 0x0061 96 ++ row 0x0070 64 ++ row 0x0080 1 ++ row 0x0090 4 ++ row 0x00A0 (if f = .w9l then 16 else 8)
/-- R47: the length of a section: 0 for a gated unit. -/
def State.sectionLen (s : State) (x : Nat × Nat) : Nat :=
  if 0x20 ≤ x.1 ∧ x.1 ≤ 0x40 ∧ x.2 ∈ s.power.gated then 0 else Config.freezeLen s.draws x.1 x.2 % 2 ^ 64
/-- The 32-bit words of a section, padded to 64 bytes. -/
def paddedWords (len : Nat) : Nat := (len + 63) / 64 * 16
/-- R46: the header. -/
def State.freezeHeader (s : State) : Nat :=
  let a := s.freeze.at_.getD (0, 0)
  a.2 * 2 ^ 208 + b2n (decide (s.fitting = .w9l)) * 2 ^ 200 + 0xA1 * 2 ^ 192 + Config.serial.toNat * 2 ^ 128 + a.1 % 2 ^ 64 * 2 ^ 64 +
    (freezeSections s.fitting).length * 2 ^ 48 + 1 * 2 ^ 32 + 0x4B465A31
/-- R47: a section's descriptor. -/
def State.freezeDesc (s : State) (x : Nat × Nat) : Nat :=
  s.sectionLen x * 2 ^ 64 + x.2 * 2 ^ 32 + (Config.freezeVer x.1).toNat * 2 ^ 16 + x.1
/-- Word n of the sections that follow the descriptors; zero past the end. -/
def State.sectionWord (s : State) : List (Nat × Nat) → Nat → Word32
  | [], _ => 0
  | x :: r, n =>
    let len := s.sectionLen x
    if n < paddedWords len then
      let w := Config.freezeWord s.draws x.1 x.2 n
      if 4 * n + 4 ≤ len then w else w &&& BitVec.ofNat 32 (2 ^ (8 * (len - 4 * n)) - 1)
    else s.sectionWord r (n - paddedWords len)
/-- R45: word n of the image. -/
def State.imageWord (s : State) (n : Nat) : Word32 :=
  let l := freezeSections s.fitting
  if n < 16 then BitVec.ofNat 32 (s.freezeHeader / 2 ^ (32 * n))
  else if n - 16 < 4 * l.length then
    match l[(n - 16) / 4]? with
    | some x => BitVec.ofNat 32 (s.freezeDesc x / 2 ^ (32 * ((n - 16) % 4)))
    | none => 0
  else s.sectionWord l (n - 16 - 4 * l.length)
/-- `FRZ_DUMP` (R45): the next word of the image, zero before freeze. -/
def execFrzDump (s : State) : Host.Outcome State Fault Refusal :=
  .next (if s.freeze.at_.isSome then
      ({ s with freeze := { s.freeze with shifted := s.freeze.shifted + 1 } } : State).emit (.dump (s.imageWord s.freeze.shifted))
    else s.emit (.dump 0))

/-- What must happen in this tick. -/
def State.powerDue (s : State) : List (Instr × Arg) :=
  ((s.power.ungating.filter fun q => decide (q.2 ≤ s.now)).map fun q => (Instr.quarterUngateDone, ({ n0 := q.1 } : Arg))) ++
    (if s.rampOver then [(Instr.vddCoreRampDone, ({} : Arg))] else []) ++ (if s.frameDue then [(Instr.frameBoundary, ({} : Arg))] else [])

end Sys2Proof.Machine
end

