-- ==== Sys2Proof/Machine/Debug.lean ====
section
/-! DEFINITION. The debug window's halt, resume, step and reads (R423, R424, R436 to R439, R96), and the sampling timers of the
Conformateur (R443, R447, R448). -/

namespace Sys2Proof.Machine

def State.modDbg (s : State) (c : Nat) (f : Dbg → Dbg) : State := s.modCtx c fun x => { x with dbg := f x.dbg }

/-! ## Halt (R438) -/

/-- R438: the teams of a context on this die, landed ones of its own launches among them. -/
def State.dbgTeams (s : State) (c : Nat) : List (Nat × Team) :=
  s.teams.filter fun t => t.2.id.ctx = c && !t.2.id.foreign && some t.2.id.part = (s.ctx c).part
/-- R437: a halt is asked for. -/
def State.askHalt (s : State) (c : Nat) : State :=
  if (s.ctx c).part.isNone || (s.ctx c).dbg.halted then s else s.modDbg c fun d => { d with halting := true }
/-- R96: while a VF is frozen its window ignores writes. -/
def State.unlessFrozen (s : State) (c : Nat) (f : State → State) : State := if (s.ctx c).vfFrozen then s else f s
/-- `DBGCTL_HALT` (R437, R438). -/
def execDbgctlHalt (s : State) : Host.Outcome State Fault Refusal := .next (s.unlessFrozen s.arg.n0 fun s => s.askHalt s.arg.n0)

/-- The cards of a context. -/
def State.isCardOf (s : State) (c : Nat) (k : Card) : Bool := k.ctx = c && some k.part = (s.ctx c).part
/-- R438: steps 1, 2, 4 and 5 of R259 are over for every team of the context. -/
def State.mayHaltDone (s : State) (c : Nat) : Bool :=
  (s.ctx c).dbg.halting && (s.dbgTeams c).all (fun t => !t.2.resident || t.2.sched.halted || s.quiet t.1 t.2 fun _ => false) &&
    s.cardsQuiet (s.isCardOf c) fun _ => true
/-- One team is debug-halted; what it has not finished becomes replay entries. -/
def State.haltTeam (s : State) (k : Nat) : State :=
  if (s.team k).sched.halted then s
  else
    let live := (s.team k).resident
    let s := if live then s.cutTeam k else s.forget k
    let t := if live then (s.team k).toReplay fun e => decide (e.stage = 3) && e.kept else s.team k
    s.setTeam k { t with sched := { t.sched with halted := true, stepping := false, stepped := false } }
/-- `DEBUG_HALT_DONE` (R438). -/
def execDebugHaltDone (s : State) : Host.Outcome State Fault Refusal :=
  let c := s.arg.n0
  .next (if !s.mayHaltDone c then s
    else (((s.dbgTeams c).foldl (fun s t => s.haltTeam t.1) s).dropGot (s.isCardOf c) fun _ => true).modDbg c fun d => { d with halting := false, halted := true })

/-! ## Resume and step (R437, R439) -/

/-- A halted team goes on: from its frame when a debug cause halted it, else where it stands. Dropped entries are gone. -/
def Team.goes (t : Team) (now : Nat) (skip : Bool) : Team :=
  let left := fun (l : List Entry) => l.filter fun e => !e.done && !e.drop
  let t := if t.sched.trapHalt then
      { t with flow := { t.flow with pc := t.sync.frame.tpc }, sync := { t.sync with reinj := left t.sync.frame.rq, park := .tretWait } }
    else { t with sync := { t.sync with reinj := left t.sync.reinj } }
  { t with sched := { t.sched with halted := false, trapHalt := false, stepping := false, stepped := false, skipBp := skip, readySince := now } }
/-- R437: debug halt ends. -/
def State.endHalt (s : State) (c : Nat) (skip : Bool) : State :=
  let s := s.modDbg c fun d => { d with halting := false, halted := false }
  ((s.dbgTeams c).filter fun t => t.2.sched.halted).foldl (fun s t => s.setTeam t.1 (t.2.goes s.now skip)) s
/-- `DBGCTL_RES` (R437). -/
def execDbgctlRes (s : State) : Host.Outcome State Fault Refusal := .next (s.unlessFrozen s.arg.n0 fun s => s.endHalt s.arg.n0 s.arg.flag)

/-- R436: the team that `dbgsel` selects. -/
def State.dbgTeam (s : State) (c : Nat) : Option (Nat × Team) :=
  let x := s.ctx c
  match x.part with
  | some p =>
    let k := teamKey p (bits x.dbg.sel.toNat 19 0)
    if bits x.dbg.sel.toNat 63 60 = 0 then (Tbl.get? s.teams k).bind fun t => if t.id.ctx = c then some (k, t) else none else none
  | none => none
/-- R439: the selected team, if it is halted, runs one instruction or entry. -/
def State.stepSel (s : State) (c : Nat) (skip : Bool) : State :=
  match s.dbgTeam c with
  | some (k, t) =>
    if t.sched.halted then
      let t := t.goes s.now skip
      (s.setTeam k { t with sched := { t.sched with stepping := true } }).modDbg c fun d => { d with stepped := false }
    else s
  | none => s
/-- `DBGCTL_STEP` (R437, R439). -/
def execDbgctlStep (s : State) : Host.Outcome State Fault Refusal := .next (s.unlessFrozen s.arg.n0 fun s => s.stepSel s.arg.n0 s.arg.flag)

/-- R439: the stepped instruction has run all its passes and returned its results. -/
def stepOver (t : Team) : Bool :=
  t.sched.stepping && t.sched.stepped && (headRaised t.sync.rq).isNone && t.sched.pendCause.isNone && t.sched.frozen.isNone && t.sync.rq.all fun e => e.done
/-- `STEP_COMPLETE` (R439). -/
def execStepComplete (s : State) : Host.Outcome State Fault Refusal :=
  let k := s.arg.n0
  .next (match Tbl.get? s.teams k with
    | some t =>
      if stepOver t then
        ((s.setTeam k { t with sched := { t.sched with halted := true, stepping := false, stepped := false } }).modDbg t.id.ctx fun d =>
          { d with stepped := true }).postEvent t.id.ctx 2 0xB3 0
      else s
    | none => s)

/-! ## `dbgdata` (R96, R423, R424, R436) -/

/-- What the state space shows of a team: a team that is neither in its handler nor halted by a debug cause shows its PC and its
replay entries in the frame's place. -/
def Team.shown (t : Team) : Team :=
  if t.sync.inHandler || t.sched.trapHalt then t
  else { t with sync := { t.sync with frame := { t.sync.frame with tpc := t.resumePc, rq := pruneRq t.sync.rq ++ t.sync.reinj } } }
/-- R424: the debugger writes a word of a team's state space. -/
def Team.poke (t : Team) (a : Nat) (v : Word) : Team :=
  if t.sync.inHandler || t.sched.trapHalt then spaceWrite t a v
  else
    let w := spaceWrite t.shown a v
    let n := (pruneRq t.sync.rq).length
    let same := decide (w.sync.frame.tpc = t.resumePc)
    { w with flow := { w.flow with pc := if same then t.flow.pc else w.sync.frame.tpc, hints := if same then t.flow.hints else [] }
             sync := { w.sync with rq := w.sync.frame.rq.take n, reinj := w.sync.frame.rq.drop n, frame := t.sync.frame } }
/-- R436: the word that a read of `dbgdata` delivers. -/
def State.dbgRead (s : State) (c : Nat) : Word :=
  let d := (s.ctx c).dbg
  match s.dbgTeam c with
  | some (_, t) => spaceRead t.shown d.addr.toNat
  | none => if bits d.sel.toNat 63 60 = 1 then Config.engineWord s.draws (bits d.sel.toNat 19 0 * 2 ^ 64 + d.addr.toNat) else 0
/-- An access to `dbgdata`: a write changes the word of a halted or frozen team; the address rises by one. -/
def State.dbgAccess (s : State) (c : Nat) (wr : Option Word) : State :=
  let d := (s.ctx c).dbg
  let s := match wr, s.dbgTeam c with
    | some v, some (k, t) => if t.sched.halted || t.sched.frozen.isSome then s.setTeam k (t.poke d.addr.toNat v) else s
    | _, _ => s
  { s.modDbg c fun d => { d with addr := d.addr + 1 } with draws := s.draws + 1 }
/-- `DBGDATA_ACCESS` (R436). -/
def execDbgdataAccess (s : State) : Host.Outcome State Fault Refusal := .next (s.unlessFrozen s.arg.n0 fun s => s.dbgAccess s.arg.n0 s.arg.optv)

/-! ## Timers (R448) -/

/-- R448: an exponent of a timer; outside its range it is none. -/
def timerExp (lo hi n : Nat) : Option Nat := if lo ≤ n ∧ n ≤ hi then some n else none
def Dbg.sexp (d : Dbg) : Option Nat := timerExp 10 20 (bits d.trctl.toNat 12 8)
def Dbg.cexp (d : Dbg) : Option Nat := timerExp 12 24 (bits d.trctl.toNat 20 16)
/-- A timer of a context fires in this tick. -/
def State.fires (s : State) (x : Ctx) (e : Option Nat) : Bool :=
  match e, x.part with
  | some n, some p => decide (s.now % 2 ^ n = 0) && decide ((s.part p).cfg.trsize ≠ 0)
  | _, _ => false

/-- R447: the state of a sampled team: 0 issued, 1 parked after S, 2 at a blocking point, 3 throttled, 4 stalled. -/
def State.sampleState (s : State) (t : Team) : Nat :=
  if t.sched.lastIssue = s.now ∧ s.now ≠ t.id.created then 0
  else match t.sync.park with
    | .switch => 1
    | _ => if t.blocked then 2 else if !t.sched.permitted then 3 else 4
/-- The oldest of a list of teams. -/
def oldestTeam : List (Nat × Team) → Option Team
  | [] => none
  | a :: r => match oldestTeam r with | some b => if b.id.created < a.2.id.created then some b else some a.2 | none => some a.2
/-- R448: the team that a core samples for a context. -/
def State.sampleCore (s : State) (c core : Nat) : Option Team :=
  let ts := (s.onCore core).filter fun t => t.2.id.ctx = c && !t.2.id.foreign
  match ts.find? fun t => s.sampleState t.2 = 0 with
  | some t => some t.2
  | none => oldestTeam ts
/-- `PC_SAMPLE_TIMER` (R448). -/
def execPcSampleTimer (s : State) : Host.Outcome State Fault Refusal :=
  let c := s.arg.n0
  .next (if !s.fires (s.ctx c) (s.ctx c).dbg.sexp ∨ s.marked 2 c then s
    else
      let cores := (((s.teams.filter fun t => t.2.id.ctx = c && !t.2.id.foreign && t.2.resident).map fun t => t.2.id.core)).dedup
      (cores.foldl (fun s k => match s.sampleCore c k with | some t => s.pcSample t t.flow.pc (s.sampleState t) | none => s) s).mark 2 c)

/-- R447: one counter's delta record. -/
def State.counterDelta (s : State) (c p i : Nat) : State :=
  let f := (s.ctx c).perf
  let v := Tbl.getD f.val i 0
  let d := v - Tbl.getD f.last i 0
  (s.postTrace p c 1 (BitVec.ofNat 128 (d.toNat + i * 2 ^ 48)) false).modCtx c fun x => { x with perf := { x.perf with last := Tbl.put x.perf.last i v } }
/-- `COUNTER_DELTA_TIMER` (R448): the counters that count. -/
def execCounterDeltaTimer (s : State) : Host.Outcome State Fault Refusal :=
  let c := s.arg.n0
  .next (if !s.fires (s.ctx c) (s.ctx c).dbg.cexp ∨ s.marked 3 c then s
    else match (s.ctx c).part with
      | some p => (((s.ctx c).perf.sel.filter fun q => bit q.2.toNat 15).foldl (fun s q => s.counterDelta c p q.1) s).mark 3 c
      | none => s)

/-- What must happen in this tick. -/
def State.debugDue (s : State) : List (Instr × Arg) :=
  (s.teams.filter fun t => stepOver t.2).map fun t => (Instr.stepComplete, ({ n0 := t.1 } : Arg))
/-- Halts that may be over. -/
def State.debugMay (s : State) : List (Instr × Arg) :=
  (s.ctxs.filter fun c => s.mayHaltDone c.1).map fun c => (Instr.debugHaltDone, ({ n0 := c.1 } : Arg))
/-- R448: what is sampled once every issue of the tick is over. -/
def State.timersDue (s : State) : List (Instr × Arg) :=
  ((s.ctxs.filter fun c => s.fires c.2 c.2.dbg.sexp && !s.marked 2 c.1).map fun c => (Instr.pcSampleTimer, ({ n0 := c.1 } : Arg))) ++
    (s.ctxs.filter fun c => s.fires c.2 c.2.dbg.cexp && !s.marked 3 c.1).map fun c => (Instr.counterDeltaTimer, ({ n0 := c.1 } : Arg))

end Sys2Proof.Machine
end

