-- ==== Sys2Proof/Machine/Command.lean ====
section
/-! DEFINITION. The Milliner's commands (R51, R67, R81, R86, R96, R99 to R108, R127, R136 to R146, R221, R508, R509): configuring
partitions and contexts, resets, keys, images, kills and releases. -/

namespace Sys2Proof.Machine

/-! ## What the commands ask of a partition -/

/-- R101: a partition number. -/
def partNo (p : Nat) : Bool := decide (p < 64)
/-- The uncommitted launches of a partition. -/
def State.uncommittedIn (s : State) (p : Nat) : Bool := s.launches.any fun l => l.2.head.part = p && l.2.uncommitted
/-- R141: a context of the partition has its TDI in CONFIG_LOCKED or RUN. -/
def State.tdiHeld (s : State) (p : Nat) : Bool := s.ctxs.any fun c => c.2.part = some p && (c.2.tdi = .locked || c.2.tdi = .run)
/-- R105, R139: the partition owns a granule or an extent. -/
def State.holdsMemory (s : State) (p : Nat) : Bool := s.xlat.own.any (fun g => g.2 = p) || s.ports.eown.any fun e => e.2 = p
/-- R64: memory online, in granules: 64 GiB for each stack, 1 TiB on a W9L. -/
def State.onlineGranules (s : State) : Nat := if s.fitting = .w9l then 2 ^ 19 else (8 - s.mil.offline.length) * 2 ^ 15

/-! ## `part_cfg`, `part_free` and `ways_shr` (R101 to R105) -/

/-- R101: the partition record. -/
def partRec (n : Nat) : PartCfg :=
  { quart := BitVec.ofNat 384 n, cal := BitVec.ofNat 256 (n / 2 ^ 384), mclus := BitVec.ofNat 96 (n / 2 ^ 672), quota := bits n 831 800
    shpool := bits n 863 832, ways := BitVec.ofNat 16 (n / 2 ^ 864), pvir := bit n 890, mdist := bits n 895 891, slice := bits n 919 896
    feat := BitVec.ofNat 7 (n / 2 ^ 920), trstall := bit n 927, trsize := bits n 943 928, trbase := bits n 1023 960
    lrights := (List.range 8).map fun i => BitVec.ofNat 16 (n / 2 ^ (1024 + 16 * i)) }
/-- R101, R102: the must-be-zero fields and the ranges of a record. -/
def partRecOk (n : Nat) : Bool :=
  bits n 2047 1152 = 0 && bits n 959 944 = 0 && bits n 889 880 = 0 && bits n 799 768 = 0 && bits n 671 640 = 0 &&
    decide (21000 ≤ bits n 919 896 ∧ bits n 919 896 ≤ 10500000) && decide (bits n 895 891 ≤ 18) && decide (bits n 863 832 ≤ 8192) &&
    bits n 1023 960 % 4096 = 0 && !bit n 384
/-- R101: the trace buffer lies inside the partition's memory. -/
def State.traceOk (s : State) (p : Nat) (r : PartCfg) : Bool :=
  r.trsize = 0 || (decide (r.trbase + r.trsize * 4096 ≤ s.localTop) &&
    (List.range (r.trsize * 4096 / 2 ^ 21 + 2)).all fun i => decide (r.trbase + r.trsize * 4096 ≤ (r.trbase / 2 ^ 21 + i) * 2 ^ 21) ||
      s.ownsAt p (max r.trbase ((r.trbase / 2 ^ 21 + i) * 2 ^ 21)))
/-- R102: what refuses a record with status 2. -/
def State.partCfgBad (s : State) (p n : Nat) : Bool :=
  let r := partRec n
  let others := (s.parts.filter fun q => q.1 ≠ p).map fun q => q.2.cfg
  !partRecOk n || r.quart = 0 || r.cal = 0 || r.ways = 0 || !s.traceOk p r ||
    others.any (fun o => o.quart &&& r.quart ≠ 0 || o.cal &&& r.cal ≠ 0 || o.ways &&& r.ways &&& ~~~s.xlat.shways ≠ 0) ||
    (s.parts.any fun q => q.1 ≠ p && match q.2.next with | some c => c.1 &&& r.cal ≠ 0 | none => false) ||
    (s.fitting = .w9h && s.power.gated.any fun q => r.quart.getLsbD q) ||
    decide (s.onlineGranules < r.quota + r.shpool + (others.map fun o => o.quota + o.shpool).sum)
/-- R103: a change that no uncommitted launch allows. -/
def cfgHeldChange (o r : PartCfg) : Bool := o.ways ≠ r.ways || o.quota ≠ r.quota || o.shpool ≠ r.shpool || o.trbase ≠ r.trbase
/-- Teams of a partition that are resident or saved. -/
def State.hasTeams (s : State) (p : Nat) : Bool := s.teams.any fun t => t.2.id.part = p
/-- A team that still stands on a quarter. -/
def State.standsOn (s : State) (q : Nat) : Bool := s.teams.any fun t => t.2.id.core = q && !t.2.id.loc.isSaved
/-- R32: a W9L gates quarters that belong to no partition. -/
def State.gateFree (s : State) (qs : List Nat) : State :=
  if s.fitting = .w9l then
    { s with power := { s.power with gated := s.power.gated ++ qs.filter fun q => q ∉ s.power.gated && !s.quarterOwned q } }
  else s
/-- R103: `part_cfg` takes effect; quarters that a W9L must ungate join later. Quarters that leave with teams on them are reclaimed. -/
def State.applyCfg (s : State) (p : Nat) (r : PartCfg) : Option Nat × State :=
  let old := (s.part p).cfg
  let gated := if s.fitting = .w9l then (quarters r.quart).filter fun q => q ∈ s.power.gated else []
  let now := r.quart &&& ~~~(gated.foldl (fun m q => m ||| (1#384 <<< q)) 0#384)
  let leave := quarters (old.quart &&& ~~~r.quart)
  let wait := leave.filter s.standsOn
  let later := s.hasTeams p
  let cfg := if later then { r with quart := now, cal := old.cal, slice := old.slice } else { r with quart := now }
  let s := { s with parts := Tbl.upd s.parts p { verNext := Tbl.getD s.mil.vers p 0 } fun P => { P with cfg := cfg, next := if later then some (r.cal, r.slice) else none } }
  let s := gated.foldl State.ungate s
  let s := s.gateFree (leave.filter fun q => q ∉ wait)
  if gated = [] ∧ wait = [] then (some 0, s)
  else
    let away := fun (s : State) => { s with mil := { s.mil with waitQ := wait, waitPart := some p } }
    (none, away (s.quiesceStart p ((away s).leavers p)))
/-- R101: what stands in PF memory, the die's own memory by its physical address (log 228). -/
def State.pfBytes (s : State) (a n : Nat) : Option (List Byte) := if a + n ≤ s.localTop then some (memBytes s.mem a n) else none
/-- `part_cfg` (R101 to R103, R141): the record of 256 bytes at an address in PF memory. -/
def State.doPartCfg (s : State) (p addr : Nat) : Option Nat × State :=
  let n := match s.pfBytes addr 256 with | some bs => leNat bs | none => 0
  if !partNo p then answer 2 s
  else if s.tdiHeld p then answer 3 s
  else if s.partCfgBad p n then answer 2 s
  else if s.hasPart p && s.uncommittedIn p && cfgHeldChange (s.part p).cfg (partRec n) then answer 3 s
  else s.applyCfg p (partRec n)
/-- `PART_CFG` (R101 to R103). -/
def execPartCfg (s : State) : Host.Outcome State Fault Refusal := .next (s.command 0x01 fun s => s.doPartCfg s.arg.n0 s.arg.n1)

/-- R103, R267: the removed quarters are reclaimed: tiles on them stand as images until they come back, and a W9L gates them. -/
def State.reclaimed (s : State) : State :=
  let qs := s.mil.waitQ
  let s := { s with clusters := Tbl.mapV s.clusters fun _ c =>
    { c with tiles := Tbl.mapV c.tiles fun _ t => if t.quads.any fun q => q ∈ qs then { t with saved := true, quads := [] } else t } }
  ({ s with mil := { s.mil with waitQ := [] } } : State).gateFree qs

/-- `part_free` (R105). -/
def State.doPartFree (s : State) (p : Nat) : Option Nat × State :=
  if !partNo p || !s.hasPart p then answer 2 s
  else if s.ctxs.any (fun c => c.2.part = some p) || s.uncommittedIn p || s.holdsMemory p then answer 3 s
  else
    let qs := quarters (s.part p).cfg.quart
    answer 0 (({ s with parts := Tbl.del s.parts p, mil := { s.mil with vers := Tbl.put s.mil.vers p (s.part p).verNext } } : State).gateFree qs)
/-- `PART_FREE` (R105). -/
def execPartFree (s : State) : Host.Outcome State Fault Refusal := .next (s.command 0x15 fun s => s.doPartFree s.arg.n0)

/-- `ways_shr` (R104). -/
def State.doWaysShr (s : State) (v : Nat) : Option Nat × State :=
  let m := BitVec.ofNat 16 v
  let old := s.xlat.shways
  let gone := old &&& ~~~m
  let any := old ^^^ m
  if v ≥ 2 ^ 16 then answer 2 s
  else if (List.range 16).any fun w => gone.getLsbD w && decide (2 ≤ (s.parts.filter fun p => p.2.cfg.ways.getLsbD w).length) then answer 2 s
  else if s.parts.any fun p => p.2.cfg.ways &&& any ≠ 0 && s.uncommittedIn p.1 then answer 3 s
  else answer 0 { s with xlat := { s.xlat with shways := m } }
/-- `WAYS_SHR` (R104). -/
def execWaysShr (s : State) : Host.Outcome State Fault Refusal := .next (s.command 0x14 fun s => s.doWaysShr s.arg.v.toNat)

/-! ## Contexts and resets (R100, R136 to R138, R153, R221, R261) -/

/-- `ctx_assign` (R100, R112, R153, R261). -/
def State.doCtxAssign (s : State) (c p : Nat) : Option Nat × State :=
  let x := s.ctx c
  if c ≥ 1024 || !partNo p || !s.hasPart p then answer 2 s
  else if x.part.isSome && !x.fresh then answer 3 s
  else
    let n := popc (s.part p).cfg.quart.toNat 384
    let s' := s.modCtx c fun x => { x with part := none, saveArea := 0 }
    if s'.charged p + n * 2 ^ 20 > (s.part p).cfg.quota * 2 ^ 21 then answer 5 s
    else
      let v := (s.part p).viral.filter Viral.active
      answer 0 (s'.modCtx c fun x => { x with
        part := some p, fresh := false, saveArea := n, ctab := none
        viral := v.isSome, vcause := (match v with | some v => v.cause | none => 0), vtime := (match v with | some v => v.tv | none => 0) })
/-- `CTX_ASSIGN` (R100). -/
def execCtxAssign (s : State) : Host.Outcome State Fault Refusal := .next (s.command 0x02 fun s => s.doCtxAssign s.arg.n0 s.arg.n1)

/-- R136, R137: launches that a reset kills; those whose commit prevails are let complete. -/
def State.killLaunches (s : State) (p : LHead → Bool) : State :=
  ((s.launches.filter fun l => l.2.uncommitted && p l.2.head).map Prod.fst).foldl State.killLaunch s
/-- R136, R137: a reset of a context takes hold: 0 a VF reset, 1 `ctx_unasg`. -/
def State.resetCtx (s : State) (c kind : Nat) : State :=
  (s.killLaunches fun h => h.ctx = c).modCtx c fun x => { x with resetting := some (max kind (x.resetting.getD 0)) }
/-- R137, R138: every flip, commit phase and completion record of the context is over. -/
def State.ctxQuiet (s : State) (c : Nat) : Bool :=
  s.launches.all (fun l => l.2.head.ctx ≠ c) && (s.ctx c).crecs = [] && (s.ctx c).clate = []
/-- Requests that a context's window made serve nobody. -/
def State.forgetCtx (s : State) (c : Nat) : State :=
  { s with xlat := { s.xlat with reqs := s.xlat.reqs.map fun (r : Req) =>
      match r.for_ with
      | .seq k _ => if k = c then ({ r with for_ := .nobody } : Req) else r
      | .aperture k _ => if k = c then ({ r with for_ := .nobody } : Req) else r
      | .crec k => if k = c then ({ r with for_ := .nobody } : Req) else r
      | _ => r } }
/-- R136: the context's handles are freed. -/
def State.freeHandles (s : State) (q : KvEnt → Bool) (p : Nat) : State :=
  s.modPart p fun P => ((P.kv.filter fun e => (e.2.kind = 1 || e.2.kind = 2) && q e.2).map Prod.fst).foldl Part.kvFree P
/-- R136, R138, R141, R153: the reset of a context completes: its window returns to reset values. What stays is its partition, unless it
is unassigned, its vectors (R127), save area and viral status, and the outcomes that the sequencer holds. -/
def State.endCtxReset (s : State) (c : Nat) : State :=
  let x := s.ctx c
  let un := x.resetting = some 1
  let s := match x.part with | some p => s.freeHandles (fun e => e.ctx = c) p | none => s
  let s := (s.forgetCtx c).tlbDrop fun e => e.ctx = c
  let y : Ctx := { part := if un then none else x.part, vecs := x.vecs, viral := !un && x.viral, vcause := if un then 0 else x.vcause
                   vtime := if un then 0 else x.vtime, saveArea := if un then 0 else x.saveArea, retired := if un then [] else x.retired }
  s.modCtx c fun _ => y
/-- `CTX_UNASG` (R108, R136). -/
def State.doCtxUnasg (s : State) (c : Nat) : Option Nat × State :=
  if c ≥ 1024 then answer 2 s
  else if (s.ctx c).part.isNone then answer 3 s
  else
    let s := s.resetCtx c 1
    (none, { s with mil := { s.mil with waitPart := some c } })
def execCtxUnasg (s : State) : Host.Outcome State Fault Refusal := .next (s.command 0x03 fun s => s.doCtxUnasg s.arg.n0)
/-- `VF_RESET` (R136): a function-level reset of a VF. -/
def execVfReset (s : State) : Host.Outcome State Fault Refusal := .next (if s.arg.n0 < 1024 ∧ (s.ctx s.arg.n0).resetting ≠ some 1 then s.resetCtx s.arg.n0 0 else s)

/-- R71, R86: the fence counters and epochs of a partition's sources begin anew; writes that have not left are dropped. -/
def State.clearSources (s : State) (p : Nat) : State :=
  let cores := quarters (s.part p).cfg.quart
  let mine := fun (src : Nat) => src = commitSrc p || (decide (src < 6144) && decide (src / 16 ∈ cores))
  { s with ports := { s.ports with
      fence := s.ports.fence.filter fun f => !mine (f.1 / 8), epoch := s.ports.epoch.filter fun f => !mine f.1
      drained := s.ports.drained.filter fun f => !mine f.1, q := s.ports.q.filter fun w => !mine w.src || w.commitUnit || w.left } }
/-- R221: locked entries of a reachable die in lines that a partition owns. -/
def State.lockedFor (s : State) (p : Nat) : List Foreign :=
  s.ports.foreign.filter fun f => f.locked && f.own = p && (Tbl.get? s.ports.unreach f.die).isNone
/-- R136, R137, R221: a partition reset takes hold. -/
def State.doPartReset (s : State) (p : Nat) : Option Nat × State :=
  if !partNo p || !s.hasPart p then answer 2 s
  else
    let s := (s.killLaunches fun h => h.part = p).modPart p fun P => { P with resetting := true }
    let s := (s.lockedFor p).foldl (fun s f => s.emit (.query f.die f.part f.ver)) s
    let s := { s with ports := { s.ports with foreign := s.ports.foreign.map fun f => if f ∈ s.lockedFor p then { f with asked := some s.now } else f } }
    (none, { s with mil := { s.mil with waitPart := some p } })
/-- `PART_RESET` (R136, R137). -/
def execPartReset (s : State) : Host.Outcome State Fault Refusal := .next (s.command 0x04 fun s => s.doPartReset s.arg.n0)
/-- R137, R138, R219, R221: nothing that a partition reset waits for is left. -/
def State.partQuiet (s : State) (p : Nat) : Bool :=
  s.launches.all (fun l => l.2.head.part ≠ p) && (s.ctxs.all fun c => c.2.part ≠ some p || (c.2.crecs = [] && c.2.clate = [])) && s.lockedFor p = []
/-- R136: a partition reset completes: viral mode, fence counters, epochs, handles, landed work and shadow-pool contents are gone. -/
def State.endPartReset (s : State) (p : Nat) : State :=
  let s := (s.ports.foreign.filter fun f => f.own = p && !f.locked).foldl (fun s f => s.endVersion f.die f.part f.ver) s
  let s := { s with teams := s.teams.filter fun t => t.2.id.part ≠ p
                    clusters := Tbl.mapV s.clusters fun _ c => { c with groups := c.groups.filter fun g => g.part ≠ p, cards := c.cards.filter fun k => k.part ≠ p } }
  let s := (s.freeHandles (fun _ => true) p).clearSources p
  let s := s.modPart p fun P => { P with resetting := false, viral := none, vblock := false, pfx := [], stms := [], tmTok := none, tmQ := [], saved := [] }
  let s := { s with ports := { s.ports with blocked := s.ports.blocked.filter fun b => b.2 % 64 ≠ p } }
  (s.ctxsOf p).foldl (fun s c => s.modCtx c fun x => { x with viral := false }) s

/-! ## Viral mode (R81, R86) -/

/-- `viral_set` (R81). -/
def State.doViralSet (s : State) (p : Nat) : Option Nat × State :=
  if !partNo p || !s.hasPart p then answer 2 s else answer 0 (s.viralDetect p 6)
def execViralSet (s : State) : Host.Outcome State Fault Refusal := .next (s.command 0x05 fun s => s.doViralSet s.arg.n0)
/-- `viral_clr` (R86): admission goes on with the next launch-register write. -/
def State.doViralClr (s : State) (p : Nat) : Option Nat × State :=
  if !partNo p || !s.hasPart p then answer 2 s
  else match (s.part p).viral with
    | some v =>
      if v.active then
        let s := (s.clearSources p).modPart p fun P => { P with viral := none, vblock := true }
        answer 0 ((s.ctxsOf p).foldl (fun s c => s.modCtx c fun x => { x with viral := false }) s)
      else answer 3 s
    | none => answer 0 s
def execViralClr (s : State) : Host.Outcome State Fault Refusal := .next (s.command 0x06 fun s => s.doViralClr s.arg.n0)

/-! ## Keys, measurements and TDIs (R139 to R143) -/

/-- `key_gen` (R139, R141). -/
def State.doKeyGen (s : State) (p : Nat) : Option Nat × State :=
  if !partNo p then answer 2 s
  else if s.holdsMemory p || s.tdiHeld p then answer 3 s
  else answer 0 { s with mil := { s.mil with slots := Tbl.put s.mil.slots p (Config.freshKey s.mil.keyGens), keyGens := s.mil.keyGens + 1 } }
def execKeyGen (s : State) : Host.Outcome State Fault Refusal := .next (s.command 0x07 fun s => s.doKeyGen s.arg.n0)
/-- `key_load` (R140, R141): the keys that the session has sent for the partition. -/
def State.doKeyLoad (s : State) (p sess : Nat) : Option Nat × State :=
  if !partNo p then answer 2 s
  else if s.holdsMemory p || s.tdiHeld p then answer 3 s
  else match Tbl.get? s.mil.sess sess with
    | none => answer 2 s
    | some false => answer 4 s
    | some true => match Tbl.get? s.mil.tkeys (64 * sess + p) with
      | some k => answer 0 { s with mil := { s.mil with slots := Tbl.put s.mil.slots p k } }
      | none => answer 3 s
def execKeyLoad (s : State) : Host.Outcome State Fault Refusal := .next (s.command 0x08 fun s => s.doKeyLoad s.arg.n0 s.arg.n1)

/-- R143: measurement registers 0 to 4 as bytes. -/
def measBytes (l : List (BitVec 256)) : Nat := l.foldr (fun m n => m.toNat + 2 ^ 256 * n) 0
/-- `SPDM_MESSAGE` (R140, R142, R143): signed measurements, the certificate chain, a session, or a tenant's keys, which go with the session that
sent them; served even after a boot failure. -/
def execSpdmMessage (s : State) : Host.Outcome State Fault Refusal :=
  .next (match s.arg.spdm with
    | .getMeasurements =>
      let l := (List.range 5).map fun i => s.mil.meas.getD i 0
      s.emit (.measurements l (Config.identitySign (Config.sha256 (measBytes l) 160)))
    | .getCertificate => s.emit (.certificates Config.certChain)
    | .establish n ok => ({ s with mil := { s.mil with sess := Tbl.put s.mil.sess n ok, tkeys := s.mil.tkeys.filter fun k => k.1 / 64 ≠ n } } : State).emit (.spdm 0)
    | .tenantKeys n p k =>
      if (Tbl.get? s.mil.sess n).isSome && partNo p then ({ s with mil := { s.mil with tkeys := Tbl.put s.mil.tkeys (64 * n + p) k } } : State).emit (.spdm 0)
      else s.emit (.spdm 1))
/-- `TDI_STATE_CHANGE` (R141, R431): ERROR is left by a VF reset alone. -/
def execTdiStateChange (s : State) : Host.Outcome State Fault Refusal :=
  let c := s.arg.n0
  .next (if c ≥ 1024 ∨ (s.ctx c).tdi = .error then s
    else
      let s' := s.modCtx c fun x => { x with tdi := s.arg.tdi }
      if s.arg.tdi = .error then s'.ctxFatal c 0x8E else s')

/-! ## Kernel images (R144 to R146, R508, R509) -/

/-- R509: no two of the sections overlap, and none runs past the length. -/
def sectionsOk (len : Nat) (l : List (Nat × Nat)) : Bool :=
  l.all (fun x => decide (x.1 + x.2 ≤ len)) && (l.zipIdx.all fun x => l.zipIdx.all fun y =>
    x.2 = y.2 || x.1.2 = 0 || y.1.2 = 0 || decide (x.1.1 + x.1.2 ≤ y.1.1 ∨ y.1.1 + y.1.2 ≤ x.1.1))
/-- R508, R509: the checks of an image's header. -/
def imageOk (h len : Nat) : Bool :=
  decide (64 ≤ len) && bits h 383 336 = 0 && bits h 63 48 = 0 && bits h 31 0 = 0x4B494D47 && bits h 47 32 = 1 &&
    decide (bits h 335 320 ≤ 16) && decide (bits h 255 240 ≤ 8) && decide (bits h 239 224 ≤ 256) &&
    bits h 127 96 ≠ 0 && bits h 127 96 % 4 = 0 && decide (bits h 127 96 ≤ 2 ^ 26) &&
    sectionsOk len [(0, 64), (bits h 95 64, bits h 127 96), (bits h 159 128, bits h 191 160), (bits h 223 192, 16 * bits h 239 224),
      (bits h 287 256, 32 * bits h 255 240), (bits h 319 288, 16 * bits h 335 320)]
/-- R144, R508: the image that bytes hold. -/
def imageOf (bs : List Byte) : Option Image :=
  let h := leNat (bs.take 64)
  if imageOk h bs.length then
    some { bytes := (bs.zipIdx.filter fun b => b.1 ≠ 0).map fun b => (b.2, b.1), len := bs.length, toff := bits h 95 64, tlen := bits h 127 96
           loff := bits h 223 192, lcnt := bits h 239 224, digest := Config.sha256 (leNat bs) bs.length }
  else none
/-- R146: an index is in use. -/
def State.imageInUse (s : State) (p i : Nat) : Bool :=
  s.launches.any (fun l => l.2.head.part = p && l.2.head.img = i && l.2.uncommitted) ||
    s.teams.any (fun t => t.2.id.landed && t.2.id.part = p && t.2.id.img = i) ||
    (s.clusters.any fun c => c.2.groups.any fun g => g.part = p && g.conts.any fun k => contImg k = i) ||
    s.net.any fun e => e.1 = .continuationArrival && e.2.opt = some p && contImg (e.2.wide.setWidth 1024) = i
/-- R144: an image enters the table, charged to the partition's quota. -/
def State.putImage (s : State) (p i : Nat) (bs : List Byte) (ok : Image → Bool) : Option Nat × State :=
  match imageOf bs with
  | none => answer 2 s
  | some m =>
    if !ok m then answer 4 s
    else
      let s' := s.modPart p fun P => { P with images := Tbl.del P.images i }
      if s'.quotaLeft p < m.len then answer 5 s
      else answer 0 (s'.modPart p fun P => { P with images := Tbl.put P.images i m })
/-- The partition and index of an image command. -/
def State.imageArgs (s : State) (p i : Nat) : Bool := partNo p && s.hasPart p && decide (i < 1024)
/-- `img_reg` (R141, R144, R146): the image at an address. -/
def State.doImgReg (s : State) (p i addr len : Nat) : Option Nat × State :=
  if s.fitting = .w9l then answer 6 s
  else if !s.imageArgs p i then answer 2 s
  else if s.tdiHeld p || s.imageInUse p i then answer 3 s
  else match s.pfBytes addr len with
    | some bs => s.putImage p i bs fun _ => true
    | none => answer 2 s
def execImgReg (s : State) : Host.Outcome State Fault Refusal := .next (s.command 0x09 fun s => s.doImgReg s.arg.n0 s.arg.n1 s.arg.n2 s.arg.n3)
/-- `img_inst` (R145, R146): from the partition's own memory, with a signature of 384 bytes that a tenant key verifies. -/
def State.doImgInst (s : State) (p i addr len sig key : Nat) : Option Nat × State :=
  let own := fun (a n : Nat) => decide (a + n ≤ s.localTop) && (List.range (n / 4096 + 2)).all fun j => s.ownsAt p (min (a + 4096 * j) (a + n - 1))
  if !s.imageArgs p i || key ≥ 4 || !own addr len || !own sig 384 then answer 2 s
  else if s.imageInUse p i then answer 3 s
  else
    let sg := memNat s.mem sig 384
    s.putImage p i (memBytes s.mem addr len) fun m =>
      match Tbl.get? (s.part p).tkeys key with | some k => Config.sigOk k m.digest sg | none => false
def execImgInst (s : State) : Host.Outcome State Fault Refusal :=
  .next (s.command 0x0A fun s => s.doImgInst s.arg.n0 s.arg.n1 s.arg.n2 s.arg.n3 s.arg.n4 s.arg.n5)
/-- `img_rm` (R141, R146). -/
def State.doImgRm (s : State) (p i : Nat) : Option Nat × State :=
  if !s.imageArgs p i then answer 2 s
  else if s.tdiHeld p || s.imageInUse p i then answer 3 s
  else answer 0 (s.modPart p fun P => { P with images := Tbl.del P.images i })
def execImgRm (s : State) : Host.Outcome State Fault Refusal := .next (s.command 0x0B fun s => s.doImgRm s.arg.n0 s.arg.n1)
/-- `tkey_reg` (R145): of a W9L, the key of 384 bytes at an address. -/
def State.doTkeyReg (s : State) (p n addr : Nat) : Option Nat × State :=
  if s.fitting ≠ .w9l then answer 6 s
  else if !partNo p || !s.hasPart p || n ≥ 4 then answer 2 s
  else match s.pfBytes addr 384 with
    | some bs => answer 0 (s.modPart p fun P => { P with tkeys := Tbl.put P.tkeys n (leNat bs) })
    | none => answer 2 s
def execTkeyReg (s : State) : Host.Outcome State Fault Refusal := .next (s.command 0x0C fun s => s.doTkeyReg s.arg.n0 s.arg.n1 s.arg.n2)

/-! ## Vectors, bifurcation and the pool decoder (R51, R67, R127) -/

/-- `vec_asg` (R127): vectors 32 to 2,047, the lowest free ones. -/
def State.doVecAsg (s : State) (c n : Nat) : Option Nat × State :=
  if c ≥ 1024 || n > 16 then answer 2 s
  else
    let used := (s.ctxs.filter fun x => x.1 ≠ c).flatMap fun x => x.2.vecs
    let free := ((List.range 2016).map (· + 32)).filter fun v => v ∉ used
    if free.length < n then answer 5 s else answer 0 (s.modCtx c fun x => { x with vecs := free.take n })
def execVecAsg (s : State) : Host.Outcome State Fault Refusal := .next (s.command 0x0D fun s => s.doVecAsg s.arg.n0 s.arg.n1)
/-- `bifurc` (R51): at the next device reset; port 0 of a W9H ignores it. -/
def State.doBifurc (s : State) (port : Nat) (two : Bool) : Option Nat × State :=
  if port ≥ 4 then answer 2 s
  else if s.fitting = .w9h && port = 0 then answer 0 s
  else
    let l := s.mil.bifNext.filter (· ≠ port)
    answer 0 { s with mil := { s.mil with bifNext := if two then l ++ [port] else l } }
def execBifurc (s : State) : Host.Outcome State Fault Refusal := .next (s.command 0x10 fun s => s.doBifurc s.arg.n0 s.arg.flag)
/-- `pool_map` (R67, R141). -/
def State.doPoolMap (s : State) (e base len link pbr dpa : Nat) (bulk : Bool) (p : Nat) : Option Nat × State :=
  if s.fitting = .w9l then answer 6 s
  else if e ≥ 64 || !partNo p then answer 2 s
  else if s.tdiHeld p then answer 3 s
  else if len = 0 then answer 0 { s with ports := { s.ports with pool := Tbl.del s.ports.pool e } }
  else if base % 2 ^ 28 ≠ 0 || len % 2 ^ 28 ≠ 0 || dpa % 2 ^ 28 ≠ 0 || !s.isPool base || !s.isPool (base + len - 1) || link ≥ 8 ||
      (s.ports.pool.any fun x => x.1 ≠ e && decide (base < x.2.base + x.2.len ∧ x.2.base < base + len)) then answer 2 s
  else answer 0 { s with ports := { s.ports with pool := Tbl.put s.ports.pool e { base := base, len := len, link := link, pbr := pbr, dpa := dpa, bulk := bulk, part := p } } }
def execPoolMap (s : State) : Host.Outcome State Fault Refusal :=
  let a := s.arg
  .next (s.command 0x11 fun s => s.doPoolMap a.n0 a.n1 a.n2 a.n3 a.n4 a.n5 a.flag a.n6)

/-! ## Kill and release (R96) -/

/-- The frozen team that a master number names: its team slot (R710). -/
def State.frozenTeam (s : State) (slot : Nat) : Option (Nat × Team) := s.teams.find? fun t => t.2.id.slot = slot && t.2.sched.frozen.isSome
/-- R96: a released team takes 0x90 itself; the violating entry raises it. -/
def State.releaseTeam (s : State) (k : Nat) (t : Team) : State :=
  match t.sched.frozen with
  | none => s
  | some r =>
    let sc := { t.sched with frozen := none }
    match t.sync.rq.findIdx? fun e => e.faulting && !e.done with
    | some i =>
      let s := s.setTeam k { t with sched := sc, sync := { t.sync with rq := t.sync.rq.modify i fun e => { e with raised := some r } } }
      if t.resident then s.settle k else s
    | none =>
      let s := s.setTeam k { t with sched := { sc with pendCause := some r } }
      if t.resident then s.trapNow k r else s
/-- `m_kill` (R96). -/
def State.doKill (s : State) : Master → Option Nat × State
  | .team n => match s.frozenTeam n with
    | some (k, t) => answer 0 (s.abortTeam k t 0x90)
    | none => answer 3 s
  | .engine cl tag => match (s.cluster cl).cards.find? fun k => k.tag = tag && k.frozen.isSome with
    | some k => answer 0 (if (Tbl.get? s.teams k.team).isSome then s.abortTeam k.team (s.team k.team) 0x90 else s.abortLaunch k.launch 0x90 1)
    | none => answer 3 s
  | .peer pbr p => if (pbr, p) ∈ s.ports.blocked then
      answer 0 { s with ports := { s.ports with blocked := if (pbr, p + 64) ∈ s.ports.blocked then s.ports.blocked else s.ports.blocked ++ [(pbr, p + 64)] } }
    else answer 3 s
  | .vf c => if (s.ctx c).vfFrozen then answer 0 (s.resetCtx c 0) else answer 3 s
/-- `M_KILL` (R96). -/
def execMKill (s : State) : Host.Outcome State Fault Refusal := .next (s.command 0x12 fun s => s.doKill s.arg.m)
/-- `m_rel` (R96): a peer that has been killed stays blocked until a partition reset. -/
def State.doRelease (s : State) : Master → Option Nat × State
  | .team n => match s.frozenTeam n with
    | some (k, t) => answer 0 (s.releaseTeam k t)
    | none => answer 3 s
  | .engine cl tag => match (s.cluster cl).cards.find? fun k => k.tag = tag && k.frozen.isSome with
    | some _ => answer 0 ((s.cardFault cl tag 0x90).modCard cl tag fun k => { k with frozen := none })
    | none => answer 3 s
  | .peer pbr p => if (pbr, p) ∈ s.ports.blocked && (pbr, p + 64) ∉ s.ports.blocked then
      answer 0 { s with ports := { s.ports with blocked := s.ports.blocked.filter (· ≠ (pbr, p)) } }
    else answer 3 s
  | .vf c => if (s.ctx c).vfFrozen then answer 0 (s.modCtx c fun x => { x with vfFrozen := false }) else answer 3 s
/-- `M_REL` (R96). -/
def execMRel (s : State) : Host.Outcome State Fault Refusal := .next (s.command 0x13 fun s => s.doRelease s.arg.m)

/-! ## The mailbox (R106, R108) -/

/-- R108: the master that a request names: kinds 0 team, 1 engine, 2 peer, 3 VF. -/
def mbxMaster (r : BitVec 512) : Master :=
  let a := fun n => Config.mbxArg n r
  match a 0 with | 0 => .team (a 1) | 1 => .engine (a 1) (a 2) | 2 => .peer (a 1) (a 2) | _ => .vf (a 1)
/-- R106, R108: the command that a request in the mailbox asks for; another opcode completes with status 2. -/
def State.mbxGo (s : State) : State :=
  let r := s.mil.req
  let a := fun n => Config.mbxArg n r
  let op := bits r.toNat 15 0
  s.command op fun s => match op with
    | 0x01 => s.doPartCfg (a 0) (a 1)
    | 0x02 => s.doCtxAssign (a 0) (a 1)
    | 0x03 => s.doCtxUnasg (a 0)
    | 0x04 => s.doPartReset (a 0)
    | 0x05 => s.doViralSet (a 0)
    | 0x06 => s.doViralClr (a 0)
    | 0x07 => s.doKeyGen (a 0)
    | 0x08 => s.doKeyLoad (a 0) (a 1)
    | 0x09 => s.doImgReg (a 0) (a 1) (a 2) (a 3)
    | 0x0A => s.doImgInst (a 0) (a 1) (a 2) (a 3) (a 4) (a 5)
    | 0x0B => s.doImgRm (a 0) (a 1)
    | 0x0C => s.doTkeyReg (a 0) (a 1) (a 2)
    | 0x0D => s.doVecAsg (a 0) (a 1)
    | 0x0E => s.qGate (a 0) (decide (a 1 ≠ 0))
    | 0x0F => s.setPstate (a 0)
    | 0x10 => s.doBifurc (a 0) (decide (a 1 ≠ 0))
    | 0x11 => s.doPoolMap (a 0) (a 1) (a 2) (a 3) (a 4) (a 5) (decide (a 6 ≠ 0)) (a 7)
    | 0x12 => s.doKill (mbxMaster r)
    | 0x13 => s.doRelease (mbxMaster r)
    | 0x14 => s.doWaysShr (a 0)
    | 0x15 => s.doPartFree (a 0)
    | _ => answer 2 s

/-! ## What goes on by itself -/

/-- A running command that has nothing more to wait for. -/
def State.cmdOver (s : State) : Bool :=
  s.mil.busy && match s.mil.op with
    | 0x01 => s.mil.waitQ.all (fun q => !s.standsOn q) && s.power.ungating = []
    | 0x0E => s.power.ungating = []
    | 0x03 => (match s.mil.waitPart with | some c => (s.ctx c).resetting.isNone | none => true)
    | 0x04 => (match s.mil.waitPart with | some p => !(s.part p).resetting | none => true)
    | _ => true
/-- A reset that completes, or a command that does. -/
def State.hostStep (s : State) : Option State :=
  match s.ctxs.find? fun c => c.2.resetting.isSome && s.ctxQuiet c.1 with
  | some c => some (s.endCtxReset c.1)
  | none => match s.parts.find? fun p => p.2.resetting && s.partQuiet p.1 with
    | some p => some (s.endPartReset p.1)
    | none =>
      if s.cmdOver then some ((if s.mil.op = 0x01 then s.reclaimed else s).finishCmd 0) else none

end Sys2Proof.Machine
end

