-- ==== Sys2Proof/Machine/VecFp.lean ====
section
/-! DEFINITION. Vector floating-point instructions and conversions (R550 to R560): majors 0x0C to 0x0F. -/

namespace Sys2Proof.Machine

/-- The rounding mode of an instruction: MOD override or `fmt` (R464). -/
def rndMode (t : Team) (c : Cur) : Nat := c.rov.getD (fmtRnd t.regs.fmt)
/-- R465, R551: the rounding of an instruction that does not honour `rsr`. -/
def rndOf (t : Team) (c : Cur) : Rnd :=
  { mode := if rndMode t c = 5 then 0 else rndMode t c, sat := fmtSat t.regs.fmt, ftz := fmtFtz t.regs.fmt }
/-- Rounding toward minus infinity is in force: exact zero sums are −0 (R551). -/
def isRdn (t : Team) (c : Cur) : Bool := rndMode t c = 2

/-- R470: a code that diverts its pass: a subnormal of an IEEE format without `ftz`. -/
def diverts (t : Team) (f : FFmt) (x : Nat) : Bool := !fmtFtz t.regs.fmt && !f.b8 && f.isSub x

/-- R470: finish a floating instruction: diverted passes make its result long. -/
def laneFp (s : State) (c : Cur) (t : Team) (z : BitVec 1) (d : Nat) (long : Bool) (f : Nat → Word) (div : Nat → Bool) : State :=
  let bad := (lanesOf (gov t c) t.regs.lanes).filter div
  let s := s.count t.id.ctx 4 (passCount (maskOf bad) (t.regs.lanes / 32))
  if long || bad ≠ [] then laneLong s c t z d f else laneShort s c t z d f

/-- The flushed source value (R469). -/
def fpSrc (t : Team) (f : FFmt) (x : Nat) : Fp := f.decode (f.flush (fmtFtz t.regs.fmt) x)

/-- R551 to R553: a lane-wise floating operation on codes of sources a, b and c (fourth register or old destination), each
flushed; `three` tells whether c is a source. -/
def fpOp (f : FFmt → Team → Cur → Nat → Nat → Nat → Nat) (n : Nat) (long isCode : Bool) (z : BitVec 1) (d a b : BitVec 6) (ty : BitVec 3) (s : State) :
    Host.Outcome State Fault Refusal :=
  withCur s fun c t =>
    let w := fltW ty.toNat
    let ff := fltFmt ty.toNat t.regs.fmt
    let fl := ff.flush (fmtFtz t.regs.fmt)
    let A := fun l => srcLane t c 0 a.toNat (64 / w) l (rdV t c d.toNat l)
    let B := fun l => srcLane t c 1 b.toNat (64 / w) l (rdV t c d.toNat l)
    let C := fun l => rdV t c (c.freg.getD d.toNat) l
    let r := fun l j => f ff t c (fl (sub (A l) w j)) (fl (sub (B l) w j)) (fl (sub (C l) w j))
    laneFp s c t z d.toNat long (fun l => mapSubs w (r l)) fun l =>
      (List.range (64 / w)).any fun j =>
        diverts t ff (sub (A l) w j) || (decide (n ≥ 2) && diverts t ff (sub (B l) w j)) ||
        (decide (n ≥ 3) && diverts t ff (sub (C l) w j)) || (isCode && diverts t ff (r l j))

/-- `vfadd` (R551). -/
def execVfadd (z : BitVec 1) (d a b : BitVec 6) (ty : BitVec 3) (s : State) : Host.Outcome State Fault Refusal :=
  fpOp (fun ff t c x y _ => ff.ofFp (rndOf t c) (Fp.add (isRdn t c) (ff.decode x) (ff.decode y))) 2 false true z d a b ty s
/-- `vfsub` (R551). -/
def execVfsub (z : BitVec 1) (d a b : BitVec 6) (ty : BitVec 3) (s : State) : Host.Outcome State Fault Refusal :=
  fpOp (fun ff t c x y _ => ff.ofFp (rndOf t c) (Fp.add (isRdn t c) (ff.decode x) (ff.decode y).neg)) 2 false true z d a b ty s
/-- `vfmul` (R551). -/
def execVfmul (z : BitVec 1) (d a b : BitVec 6) (ty : BitVec 3) (s : State) : Host.Outcome State Fault Refusal :=
  fpOp (fun ff t c x y _ => ff.ofFp (rndOf t c) (Fp.mul (ff.decode x) (ff.decode y))) 2 false true z d a b ty s
/-- `vfma` (R551). -/
def execVfma (z : BitVec 1) (d a b : BitVec 6) (ty : BitVec 3) (s : State) : Host.Outcome State Fault Refusal :=
  fpOp (fun ff t c x y k => ff.ofFp (rndOf t c) (Fp.fma (isRdn t c) (ff.decode x) (ff.decode y) (ff.decode k))) 3 false true z d a b ty s
/-- `vfms` (R551). -/
def execVfms (z : BitVec 1) (d a b : BitVec 6) (ty : BitVec 3) (s : State) : Host.Outcome State Fault Refusal :=
  fpOp (fun ff t c x y k => ff.ofFp (rndOf t c) (Fp.fma (isRdn t c) (ff.decode x) (ff.decode y) (ff.decode k).neg)) 3 false true z d a b ty s
/-- `vfnma` (R551). -/
def execVfnma (z : BitVec 1) (d a b : BitVec 6) (ty : BitVec 3) (s : State) : Host.Outcome State Fault Refusal :=
  fpOp (fun ff t c x y k => ff.ofFp (rndOf t c) (Fp.add (isRdn t c) (Fp.mul (ff.decode x) (ff.decode y)).neg (ff.decode k))) 3 false true z d a b ty s
/-- `vfdiv` (R551). -/
def execVfdiv (z : BitVec 1) (d a b : BitVec 6) (ty : BitVec 3) (s : State) : Host.Outcome State Fault Refusal :=
  fpOp (fun ff t c x y _ => ff.div (rndOf t c) (ff.decode x) (ff.decode y)) 2 true true z d a b ty s
/-- `vfmin` (R552). -/
def execVfmin (z : BitVec 1) (d a b : BitVec 6) (ty : BitVec 3) (s : State) : Host.Outcome State Fault Refusal :=
  fpOp (fun ff _ _ x y _ => fpMinMax ff false x y) 2 false true z d a b ty s
/-- `vfmax` (R552). -/
def execVfmax (z : BitVec 1) (d a b : BitVec 6) (ty : BitVec 3) (s : State) : Host.Outcome State Fault Refusal :=
  fpOp (fun ff _ _ x y _ => fpMinMax ff true x y) 2 false true z d a b ty s
/-- R552: a's magnitude with a sign; unsigned formats deliver a, and the binary8 zero has no sign. -/
def fpSetSign (f : FFmt) (x : Nat) (neg : Bool) : Nat :=
  if (f.decode x).isNan then f.nanBits
  else if f.uns then x
  else f.signed neg (x % 2 ^ (f.width - 1))
/-- The sign bit of a code; unsigned formats have none. -/
def fpSignBit (f : FFmt) (x : Nat) : Bool := !f.uns && bit x (f.width - 1)
/-- `vfsgn` (R552). -/
def fpCopySign (f : FFmt) (x y : Nat) : Nat := fpSetSign f x (fpSignBit f y)
/-- `vfneg` (R552): in an unsigned format a non-zero a gives 0 under `sat` and NaN otherwise. -/
def fpNegate (f : FFmt) (sat : Bool) (x : Nat) : Nat :=
  if (f.decode x).isNan then f.nanBits
  else if f.uns then (if x = 0 then 0 else if sat then 0 else f.nanBits)
  else fpSetSign f x (!fpSignBit f x)

/-- `vfsgn` (R552). -/
def execVfsgn (z : BitVec 1) (d a b : BitVec 6) (ty : BitVec 3) (s : State) : Host.Outcome State Fault Refusal :=
  fpOp (fun ff _ _ x y _ => fpCopySign ff x y) 2 false true z d a b ty s
/-- `vfsqrt` (R551). -/
def execVfsqrt (z : BitVec 1) (d a : BitVec 6) (ty : BitVec 3) (s : State) : Host.Outcome State Fault Refusal :=
  fpOp (fun ff t c x _ _ => ff.sqrt (rndOf t c) (ff.decode x)) 1 true true z d a 0 ty s
/-- `vfabs` (R552). -/
def execVfabs (z : BitVec 1) (d a : BitVec 6) (ty : BitVec 3) (s : State) : Host.Outcome State Fault Refusal :=
  fpOp (fun ff _ _ x _ _ => fpSetSign ff x false) 1 false true z d a 0 ty s
/-- `vfneg` (R552). -/
def execVfneg (z : BitVec 1) (d a : BitVec 6) (ty : BitVec 3) (s : State) : Host.Outcome State Fault Refusal :=
  fpOp (fun ff t _ x _ _ => fpNegate ff (fmtSat t.regs.fmt) x) 1 false true z d a 0 ty s
/-- `vfcmp.eq` (R553). -/
def execVfcmpEq (z : BitVec 1) (d a b : BitVec 6) (ty : BitVec 3) (s : State) : Host.Outcome State Fault Refusal :=
  fpOp (fun ff _ _ x y _ => boolSub ff.width (fpCompare 0 (ff.decode x) (ff.decode y))) 2 false false z d a b ty s
/-- `vfcmp.ne` (R553). -/
def execVfcmpNe (z : BitVec 1) (d a b : BitVec 6) (ty : BitVec 3) (s : State) : Host.Outcome State Fault Refusal :=
  fpOp (fun ff _ _ x y _ => boolSub ff.width (fpCompare 1 (ff.decode x) (ff.decode y))) 2 false false z d a b ty s
/-- `vfcmp.lt` (R553). -/
def execVfcmpLt (z : BitVec 1) (d a b : BitVec 6) (ty : BitVec 3) (s : State) : Host.Outcome State Fault Refusal :=
  fpOp (fun ff _ _ x y _ => boolSub ff.width (fpCompare 2 (ff.decode x) (ff.decode y))) 2 false false z d a b ty s
/-- `vfcmp.le` (R553). -/
def execVfcmpLe (z : BitVec 1) (d a b : BitVec 6) (ty : BitVec 3) (s : State) : Host.Outcome State Fault Refusal :=
  fpOp (fun ff _ _ x y _ => boolSub ff.width (fpCompare 3 (ff.decode x) (ff.decode y))) 2 false false z d a b ty s
/-- `vfcmp.gt` (R553). -/
def execVfcmpGt (z : BitVec 1) (d a b : BitVec 6) (ty : BitVec 3) (s : State) : Host.Outcome State Fault Refusal :=
  fpOp (fun ff _ _ x y _ => boolSub ff.width (fpCompare 4 (ff.decode x) (ff.decode y))) 2 false false z d a b ty s
/-- `vfcmp.ge` (R553). -/
def execVfcmpGe (z : BitVec 1) (d a b : BitVec 6) (ty : BitVec 3) (s : State) : Host.Outcome State Fault Refusal :=
  fpOp (fun ff _ _ x y _ => boolSub ff.width (fpCompare 5 (ff.decode x) (ff.decode y))) 2 false false z d a b ty s
/-- `vfcmp.ord` (R553). -/
def execVfcmpOrd (z : BitVec 1) (d a b : BitVec 6) (ty : BitVec 3) (s : State) : Host.Outcome State Fault Refusal :=
  fpOp (fun ff _ _ x y _ => boolSub ff.width (fpCompare 6 (ff.decode x) (ff.decode y))) 2 false false z d a b ty s
/-- `vfcmp.uno` (R553). -/
def execVfcmpUno (z : BitVec 1) (d a b : BitVec 6) (ty : BitVec 3) (s : State) : Host.Outcome State Fault Refusal :=
  fpOp (fun ff _ _ x y _ => boolSub ff.width (fpCompare 7 (ff.decode x) (ff.decode y))) 2 false false z d a b ty s
/-- `vfclass` (R554). -/
def execVfclass (z : BitVec 1) (d a : BitVec 6) (ty : BitVec 3) (s : State) : Host.Outcome State Fault Refusal :=
  fpOp (fun ff _ _ x _ _ => fpClass ff x) 1 false false z d a 0 ty s

/-! ## Conversions (R555 to R560) -/

/-- R471: the draw of a pass: `n` draws after the seed. -/
def drawN : Nat → Word32 → Word32
  | 0, x => x
  | n + 1, x => drawN n (xorshift x)
/-- R471: the word drawn by the pass of a lane: non-empty words of g draw in ascending order. -/
def rsrWord (t : Team) (c : Cur) (l : Nat) : Word32 := drawN (passCount (gov t c) (l / 32 + 1)) t.regs.srseed
/-- R465, R471: whether a conversion to `pd` significand bits from `ps` rounds stochastically. -/
def rsrOn (t : Team) (c : Cur) (pd ps : Nat) : Bool := rndMode t c = 5 && decide (pd < ps)
/-- The rounding of a conversion for lane l, result sub-element j (R472). -/
def rndConv (t : Team) (c : Cur) (on : Bool) (l j : Nat) : Rnd :=
  if on then { mode := 5, sat := fmtSat t.regs.fmt, ftz := fmtFtz t.regs.fmt, k := fmtSrk t.regs.fmt,
               rho := rsrBits (rsrWord t c l) l j (fmtSrk t.regs.fmt) }
  else rndOf t c
/-- R471: the team after the draws of an instruction that honours `rsr`. -/
def seedAfter (t : Team) (c : Cur) (on : Bool) : Team :=
  if on then { t with regs := { t.regs with srseed := drawN (lanePasses t c) t.regs.srseed } } else t

/-- R556: one floating value into another format. -/
def cvtFp (t : Team) (rd : Rnd) (fs fd : FFmt) (x : Nat) : Nat := fd.ofFp rd (fpSrc t fs x)

/-- R555: where destination sub-element k of a conversion from `ns` to `nd` sub-elements, part `p`, comes from: a source
sub-element, or none where it keeps its value. -/
def partSrc (ns nd p k : Nat) : Option Nat :=
  if ns < nd then (if p * ns ≤ k ∧ k < p * ns + ns then some (k - p * ns) else none) else some (p * nd + k)

/-- R555: a conversion of the lanes of g from sub-elements of width `ws` to width `wd`; `f` converts for lane and result
sub-element, `div` tells what diverts. -/
def convert (ws wd : Nat) (p : Nat) (on : Team → Cur → Bool) (f : Team → Cur → Nat → Nat → Nat → Nat)
    (div : Team → Nat → Nat → Bool) (z : BitVec 1) (d a : BitVec 6) (s : State) : Host.Outcome State Fault Refusal :=
  withCur s fun c t =>
    let ns := 64 / ws
    let nd := 64 / wd
    let A := fun l => srcLane t c 0 a.toNat ns l (rdV t c d.toNat l)
    let r := fun l j => match partSrc ns nd p j with
      | some i => f t c l j (sub (A l) ws i)
      | none => sub (rdV t c d.toNat l) wd j
    laneFp s c (seedAfter t c (on t c)) z d.toNat false (fun l => mapSubs wd (r l)) fun l =>
      (List.range nd).any fun j => match partSrc ns nd p j with
        | some i => div t (sub (A l) ws i) (r l j)
        | none => false

/-- `vcvt` (R556): source code `ty`, destination code `k`. -/
def execVcvt (z : BitVec 1) (d a : BitVec 6) (p : BitVec 2) (k ty : BitVec 3) (s : State) : Host.Outcome State Fault Refusal :=
  let fs := fun (t : Team) => fltFmt ty.toNat t.regs.fmt
  let fd := fun (t : Team) => fltFmt k.toNat t.regs.fmt
  convert (fltW ty.toNat) (fltW k.toNat) p.toNat (fun t c => rsrOn t c (fd t).p (fs t).p)
    (fun t c l j x => cvtFp t (rndConv t c (rsrOn t c (fd t).p (fs t).p) l j) (fs t) (fd t) x)
    (fun t x y => diverts t (fs t) x || diverts t (fd t) y) z d a s

/-- `vcvti` (R557): `r` 0 from floating code `ty` to integer code `k`, 1 from integer to floating. -/
def execVcvti (z : BitVec 1) (d a : BitVec 6) (r : BitVec 1) (p : BitVec 2) (k ty : BitVec 3) (s : State) : Host.Outcome State Fault Refusal :=
  let ff := fun (t : Team) => fltFmt ty.toNat t.regs.fmt
  let w := intW k.toNat
  if r = 0 then
    convert (fltW ty.toNat) w p.toNat (fun _ _ => false)
      (fun t c _ _ x => fpToInt (rndMode t c) w (isSigned k.toNat) (fpSrc t (ff t) x))
      (fun t x _ => diverts t (ff t) x) z d a s
  else
    convert w (fltW ty.toNat) p.toNat (fun t c => rsrOn t c (ff t).p w)
      (fun t c l j x => (ff t).ofFp (rndConv t c (rsrOn t c (ff t).p w) l j) (fpOfInt (intVal k.toNat x)))
      (fun t _ y => diverts t (ff t) y) z d a s

/-- R558: the source code of `vpack`. -/
def packSrc (k : Nat) : Nat := match k with | 1 => 0 | 4 => 2 | _ => 1

/-- `vpack` (R558). -/
def execVpack (z : BitVec 1) (d a b : BitVec 6) (ty : BitVec 3) (s : State) : Host.Outcome State Fault Refusal :=
  withCur s fun c t =>
    let fd := fltFmt ty.toNat t.regs.fmt
    let fs := fltFmt (packSrc ty.toNat) t.regs.fmt
    let wd := fltW ty.toNat
    let ws := 2 * wd
    let h := 64 / ws
    let on := rsrOn t c fd.p fs.p
    let src := fun l j =>
      if j < h then sub (srcLane t c 0 a.toNat h l (rdV t c d.toNat l)) ws j
      else sub (srcLane t c 1 b.toNat h l (rdV t c d.toNat l)) ws (j - h)
    let r := fun l j => cvtFp t (rndConv t c on l j) fs fd (src l j)
    laneFp s c (seedAfter t c on) z d.toNat false (fun l => mapSubs wd (r l)) fun l =>
      (List.range (64 / wd)).any fun j => diverts t fs (src l j) || diverts t fd (r l j)

/-- R559: the destination code of `vunpack`. -/
def unpackDst (k : Nat) : Nat := match k with | 1 => 0 | 4 => 2 | _ => 1

/-- `vunpack` (R559): `rsr` rounds as `rne` (R465). -/
def execVunpack (z : BitVec 1) (d a : BitVec 6) (h : BitVec 1) (ty : BitVec 3) (s : State) : Host.Outcome State Fault Refusal :=
  withCur s fun c t =>
    let fs := fltFmt ty.toNat t.regs.fmt
    let fd := fltFmt (unpackDst ty.toNat) t.regs.fmt
    let ws := fltW ty.toNat
    let wd := 2 * ws
    let n := 64 / wd
    let src := fun l j => sub (srcLane t c 0 a.toNat (64 / ws) l (rdV t c d.toNat l)) ws (h.toNat * n + j)
    let r := fun l j => cvtFp t (rndOf t c) fs fd (src l j)
    laneFp s c t z d.toNat false (fun l => mapSubs wd (r l)) fun l =>
      (List.range n).any fun j => diverts t fs (src l j) || diverts t fd (r l j)

/-- `vscale` (R560): each sub-element times 2^(e − 127), e a byte of vb. -/
def execVscale (z : BitVec 1) (d a b : BitVec 6) (ty : BitVec 3) (s : State) : Host.Outcome State Fault Refusal :=
  withCur s fun c t =>
    let w := fltW ty.toNat
    let ff := fltFmt ty.toNat t.regs.fmt
    let A := fun l => srcLane t c 0 a.toNat (64 / w) l (rdV t c d.toNat l)
    let B := fun l => srcLane t c 1 b.toNat (64 / w) l (rdV t c d.toNat l)
    let r := fun l j => ff.ofFp (rndOf t c) (Fp.mul (fpSrc t ff (sub (A l) w j)) (fpOfE8m0 (sub (B l) 8 j)))
    laneFp s c t z d.toNat false (fun l => mapSubs w (r l)) fun l =>
      (List.range (64 / w)).any fun j => diverts t ff (sub (A l) w j) || diverts t ff (r l j)

end Sys2Proof.Machine
end

