-- ==== Sys2Proof/Machine/Cross.lean ====
section
/-! DEFINITION. Cross-lane instructions (R563 to R568): major 0x11. -/

namespace Sys2Proof.Machine

/-- R563: lanes of a segment: with MODX, 2^k lanes, otherwise the team's. -/
def segLanes (t : Team) (c : Cur) : Nat := if c.hasModx then 2 ^ bits c.parm 3 0 else t.regs.lanes
/-- First lane of l's segment. -/
def segStart (w l : Nat) : Nat := l - l % w

/-- R564: sub-element j delivered to lane l from element `i` of its segment: zero, or with `keep` the old one, where the
element lies outside. -/
def segElem (t : Team) (c : Cur) (a d b l j i : Nat) : Nat :=
  let n := 64 / b
  let w := segLanes t c
  let src := segStart w l + i / n
  if i / n ≥ w ∨ src ≥ t.regs.lanes then (if c.keep then sub (rdV t c d l) b j else 0)
  else sub (rdV t c a src) b (i % n)

/-- `vshfl` (R564). -/
def execVshfl (z : BitVec 1) (d a b : BitVec 6) (ty : BitVec 3) (s : State) : Host.Outcome State Fault Refusal :=
  withCur s fun c t =>
    let w := intW ty.toNat
    laneLong s c t z d.toNat fun l => mapSubs w fun j => segElem t c a.toNat d.toNat w l j (sub (rdV t c b.toNat l) w j)

/-- `vbcast` (R564). -/
def execVbcast (z : BitVec 1) (d a b : BitVec 6) (ty : BitVec 3) (s : State) : Host.Outcome State Fault Refusal :=
  withCur s fun c t =>
    let w := intW ty.toNat
    laneLong s c t z d.toNat fun l => mapSubs w fun j => segElem t c a.toNat d.toNat w l j (rdS t c b.toNat).toNat

/-- R565: the identity of an operation. -/
def scanId (op ty : Nat) (ff : FFmt) : Nat :=
  match op with
  | 0 | 4 | 5 => 0
  | 1 => if isSigned ty then 2 ^ (intW ty - 1) - 1 else 2 ^ intW ty - 1
  | 2 => if isSigned ty then 2 ^ (intW ty - 1) else 0
  | 3 => 2 ^ intW ty - 1
  | 6 => ff.signed true 0
  | _ => ff.nanBits

/-- R565: one step of an operation on sub-elements. -/
def scanStep (op ty : Nat) (ff : FFmt) (t : Team) (c : Cur) (x y : Nat) : Nat :=
  let fl := ff.flush (fmtFtz t.regs.fmt)
  match op with
  | 0 => wrap (intW ty) (intVal ty x + intVal ty y)
  | 1 => wrap (intW ty) (min (intVal ty x) (intVal ty y))
  | 2 => wrap (intW ty) (max (intVal ty x) (intVal ty y))
  | 3 => x &&& y
  | 4 => x ||| y
  | 5 => x ^^^ y
  | 6 => ff.ofFp (rndOf t c) (Fp.add (isRdn t c) (ff.decode (fl x)) (ff.decode (fl y)))
  | 7 => fpMinMax ff false (fl x) (fl y)
  | _ => fpMinMax ff true (fl x) (fl y)

/-- The lanes of g in l's segment, ascending. -/
def segG (t : Team) (c : Cur) (l : Nat) : List Nat :=
  let w := segLanes t c
  (lanesOf (gov t c) t.regs.lanes).filter fun k => segStart w k = segStart w l

/-- R565: the accumulated sub-element j over some lanes, left to right. -/
def scanFold (op ty b : Nat) (ff : FFmt) (t : Team) (c : Cur) (a j : Nat) (ls : List Nat) : Nat :=
  ls.foldl (fun acc k => scanStep op ty ff t c acc (sub (rdV t c a k) b j)) (scanId op ty ff)

/-- R565: `vscan` and `vred`: `upTo` picks the lanes whose values lane l takes. -/
def scanOp (upTo : Nat → List Nat → List Nat) (z : BitVec 1) (d a : BitVec 6) (op ty : Nat) (s : State) : Host.Outcome State Fault Refusal :=
  withCur s fun c t =>
    let ff := fltFmt ty t.regs.fmt
    let b := if op ≥ 6 then fltW ty else intW ty
    let r := fun l j => scanFold op ty b ff t c a.toNat j (upTo l (segG t c l))
    laneFp s c t z d.toNat true (fun l => mapSubs b (r l)) fun l =>
      decide (op ≥ 6) && (List.range (64 / b)).any fun j => diverts t ff (sub (rdV t c a.toNat l) b j) || diverts t ff (r l j)

/-- `vscan` (R565). -/
def execVscan (z : BitVec 1) (d a : BitVec 6) (o : BitVec 4) (e : BitVec 1) (ty : BitVec 3) (s : State) : Host.Outcome State Fault Refusal :=
  scanOp (fun l ls => ls.filter fun k => if e = 1 then decide (k < l) else decide (k ≤ l)) z d a o.toNat ty.toNat s
/-- `vred` (R565). -/
def execVred (z : BitVec 1) (d a : BitVec 6) (o : BitVec 4) (ty : BitVec 3) (s : State) : Host.Outcome State Fault Refusal :=
  scanOp (fun _ ls => ls) z d a o.toNat ty.toNat s

/-- The segments of the team, by first lane. -/
def segStarts (t : Team) (c : Cur) : List Nat := (List.range t.regs.lanes).filter fun l => segStart (segLanes t c) l = l

/-- `vcompress` (R566). -/
def execVcompress (z : BitVec 1) (d a : BitVec 6) (s : State) : Host.Outcome State Fault Refusal :=
  withCur s fun c t =>
    let w := segLanes t c
    let L := t.regs.lanes
    let ws : List RegWrite := (segStarts t c).flatMap fun st =>
      let g := segG t c st
      let moved := (List.range g.length).filterMap fun k =>
        if t.flow.pres.getLsbD (st + k) then some (RegWrite.v d.toNat (st + k) (rdV t c a.toNat (g.getD k 0))) else none
      let zeros := ((List.range L).filter fun l => c.zero && decide (st + g.length ≤ l ∧ l < st + w) && t.flow.pres.getLsbD l).map
        fun l => RegWrite.v d.toNat l 0
      moved ++ zeros
    let ws := if gov t c &&& ones L = 0 then [] else ws
    (finishLong s c t z ws (lanePasses t c)).countSkips t c

/-- `vexpand` (R567): the k-th lane of g in a segment takes lane s + k. -/
def execVexpand (z : BitVec 1) (d a : BitVec 6) (s : State) : Host.Outcome State Fault Refusal :=
  withCur s fun c t =>
    laneLong s c t z d.toNat fun l =>
      let k := ((segG t c l).filter fun x => decide (x < l)).length
      rdV t c a.toNat (segStart (segLanes t c) l + k)

end Sys2Proof.Machine
end

