-- ==== Sys2Proof/Machine/Ports.lean ====
section
/-! DEFINITION. Edge ports and pool memory: writes that leave, completions that arrive, dynamic capacity, and requests of hosts and peers on
a W9L (R54, R57 to R74, R80, R83, R96, R149, R309, R713). -/

namespace Sys2Proof.Machine

/-! ## Outbound writes (R70 to R73, R83) -/

/-- R72: the oldest epoch of which a source has an outstanding write, or its present one. -/
def State.oldestEpoch (s : State) (src : Nat) : Nat :=
  ((s.ports.q.filter fun w => w.src = src).map PoolW.epoch).foldl (fun m e => if epochBelow e m then e else m) (Tbl.getD s.ports.epoch src 0)
/-- A report for a source would tell the other ports something new. -/
def State.reportDue (s : State) (src : Nat) : Bool := decide (Tbl.getD s.ports.drained src 0 ≠ s.oldestEpoch src)
/-- `EPOCH_DRAIN_REPORT` (R72). -/
def execEpochDrainReport (s : State) : Host.Outcome State Fault Refusal :=
  .next { s with ports := { s.ports with drained := Tbl.putD s.ports.drained s.arg.n0 (s.oldestEpoch s.arg.n0) 0 } }

/-- R70: no earlier write of the source to the same line is outstanding. -/
def lineClear (w : PoolW) : List PoolW → Bool
  | [] => true
  | x :: r => x.id = w.id || (!(x.src = w.src && x.link = w.link && x.pbr = w.pbr && x.dpa / 64 = w.dpa / 64 && x.cont.isNone && !x.commitUnit) && lineClear w r)
/-- R90: the W9L a write goes to is lost. -/
def State.lostW (s : State) (w : PoolW) : Bool := s.ports.pool.any fun e => e.2.pbr = w.pbr && e.2.lost
/-- R70 to R74, R76, R223, R293: the order in which writes leave lets one go. -/
def State.inTurn (s : State) (w : PoolW) : Bool :=
  !w.left && (w.stall = [] || s.oneEnded w.stall) && (w.after = 0 || decide (w.after < s.now)) &&
    (w.cont.isSome || w.commitUnit || (lineClear w s.ports.q && s.relPassed w.src w.part w.epoch none && s.slotDrained w.src w.part w.id)) &&
    s.epochDrained w.src w.epoch && (List.range 8).all fun l => decide (Tbl.getD s.ports.fence (w.src * 8 + l) 0 < 65535)
/-- R54, R56: a write may leave its edge port; one that is dropped or lost needs no link. -/
def State.mayLeave (s : State) (w : PoolW) : Bool :=
  s.inTurn w && (s.viaFree w.link || s.lostW w || (s.part w.part).drops s.now)
/-- R83, R364: a dropped write of a card completes with error toward its barrier. -/
def State.dropCard (s : State) (w : PoolW) : State := match w.serves with | .card cl tag => s.cardFault cl tag 0x27 | _ => s
/-- `POOL_WRITE_LEAVE` (R71, R72, R83, R90): it leaves, or a viral partition's, or one to a lost W9L, is dropped and completes with error. -/
def execPoolWriteLeave (s : State) : Host.Outcome State Fault Refusal :=
  .next (match s.ports.q.find? fun w => w.id = s.arg.n0 with
    | none => s
    | some w =>
      if !s.mayLeave w then s
      else if s.lostW w then s.portDone w
      else if (s.part w.part).drops s.now then (s.portDone w).dropCard w
      else
        let key := w.src * 8 + w.link
        let s := { s with ports := { s.ports with q := s.ports.q.map fun (x : PoolW) => if x.id = w.id then ({ x with left := true, since := s.now, timed := false, stall := [] } : PoolW) else x
                                                  fence := Tbl.put s.ports.fence key (Tbl.getD s.ports.fence key 0 + 1) } }
        let s := { s with teams := Tbl.mapV s.teams fun _ t => if t.id.slot = w.src && t.resident && t.id.part = w.part && w.cont.isNone then
          { t with sync := { t.sync with prels := t.sync.prels.filter fun p => p.1 ≠ w.epoch } } else t }
        match w.cont with
        | some c => s.emit (.cont w.link c)
        | none => s.emit (.poolReq w.link w.id w.dpa w.op))

/-- R89: an agent has answered, which breaks a row of timeouts. -/
def State.answered (s : State) (pbr : Option Nat) (status : Nat) : State :=
  match pbr with
  | some p => if status = 9 then s else { s with mil := { s.mil with timeouts := Tbl.del s.mil.timeouts p } }
  | none => s
/-- R223: the older launches that a launch under WAIT waits for when a W9L has no room; none when it aborts instead. -/
def State.roomAfter (s : State) (lk : Option Nat) : Option (List Nat) :=
  match lk with
  | some k => if (s.launch k).head.abortOvf || s.olderOnes k = [] then none else some (s.olderOnes k)
  | none => none
/-- A launch of this die, or none, aborts. -/
def State.abortOf (s : State) (lk : Option Nat) (cause : Nat) : State := match lk with | some k => s.abortLaunch k cause 1 | none => s
/-- R223: a write that a W9L had no room for waits at its port until one of some launches has ended, and leaves again. -/
def State.stallW (s : State) (w : PoolW) (ls : List Nat) : State :=
  let key := w.src * 8 + w.link
  { s with ports := { s.ports with q := s.ports.q.map fun (x : PoolW) => if x.id = w.id then ({ x with left := false, stall := ls } : PoolW) else x,
                                    fence := Tbl.putD s.ports.fence key (Tbl.getD s.ports.fence key 0 - 1) 0 } }
/-- R66, R149, R713: what a completion status other than success does to the writer: the W9L's own refusal 0x4D, or 0x27. -/
def State.writeRefused (s : State) (w : PoolW) (status : Nat) : State :=
  if status = 0x4F then s.abortOf w.launch 0x4F
  else if w.commitUnit then s.abortOf w.launch 0x52
  else if w.cont.isSome then s.abortOf w.launch 0x60
  else
    let cause := if status = 0x4D then 0x4D else 0x27
    match w.serves with
    | .card cl tag => s.cardFault cl tag cause
    | .compl k id =>
      (match Tbl.get? s.teams k with
       | some t =>
         let c := (t.sync.compls.find? fun c => c.id = id).getD { id := 0, time := none }
         let a : Acc := { kind := .store, va := c.va, esz := 1, lane := c.lane }
         s.trapNow k { cause := cause, lane := c.lane, info := if status = 0x4D then a.infoT0 else a.infoTs status }
       | none => s)
    | _ => s
/-- R55: a write whose turn it is meets a link without an IDE stream: unsupported request. -/
def State.unsupported (s : State) (w : PoolW) : Bool := s.inTurn w && (s.link w.link).up && !(s.link w.link).ide
/-- `POOL_WRITE_COMPLETION` (R55, R71, R149, R223). -/
def execPoolWriteCompletion (s : State) : Host.Outcome State Fault Refusal :=
  .next (match s.ports.q.find? fun w => w.id = s.arg.n0 with
    | none => s
    | some w =>
      if !w.left && !(s.unsupported w && s.arg.n1 = 1) then s
      else
        let s := s.answered (some w.pbr) s.arg.n1
        match (if s.arg.n1 = 0x4F then s.roomAfter w.launch else none) with
        | some ls => (s.stallW w ls).sendHeld
        | none =>
          let s := if s.arg.n1 = 0 then s else s.writeRefused w s.arg.n1
          (if s.ports.q.any fun x => x.id = w.id then s.portDone w else s).sendHeld)

/-- Values of 8 bytes each. -/
def words : Nat → List Byte → List Nat
  | 0, _ => []
  | n + 1, l => if l = [] then [] else leNat (l.take 8) :: words n (l.drop 8)
/-- R66, R205, R223: a W9L's own refusals of a launch's request reach the launch as their causes; one for want of room, under WAIT, waits for an older
launch to end. -/
def State.reqRefused (s : State) (r : Req) (status : Nat) : Option State :=
  match r.for_ with
  | .acc k eid lane =>
    (match ((s.team k).sync.rq.find? fun e => e.id = eid).bind fun e => (e.accs.find? fun a => a.lane = lane).map fun a => (e, a) with
     | some (e, a) =>
       let all := match a.kind with | .atomic _ => e.group a | _ => [a]
       if status = 0x4F then
         some (match s.roomAfter (if (s.team k).id.foreign then none else some (s.team k).id.launch) with
           | some ls => all.foldl (fun s b => s.modAcc k eid b.lane fun b => { b with wait := .older ls }) s
           | none => s.abortTeam k (s.team k) 0x4F)
       else if status = 0x4D ∨ status = 0x4E then some (all.foldl (fun s b => s.accRaise k eid b status b.infoT0) s)
       else none
     | none => none)
  | .card cl tag =>
    (match (s.cluster cl).cards.find? fun k => k.tag = tag with
     | some k =>
       if status = 0x4F then
         some (match s.roomAfter (some k.launch) with
           | some ls => s.modCard cl tag fun k => { k with wait := .older ls, got := k.got.filter fun g => g.2.1 ≠ [] }
           | none => s.abortLaunch k.launch 0x4F 1)
       else if status = 0x4D ∨ status = 0x4E then some (s.cardFault cl tag status)
       else none
     | none => none)
  | _ => none
/-- R55: a request that has not left meets a link without an IDE stream: unsupported request. -/
def State.refusedHere (s : State) (r : Req) : Bool :=
  r.msg.isSome && (match r.via with | some v => (s.link (viaLink v)).up && !(s.link (viaLink v)).ide | none => false)
/-- `CXL_COMPLETION` (R55, R80, R149, R178). -/
def execCxlCompletion (s : State) : Host.Outcome State Fault Refusal :=
  .next (match s.xlat.reqs.find? fun r => r.tag = s.arg.n0 with
    | none => s
    | some r =>
      let a := s.arg
      match r.for_ with
      | .ats _ => s
      | _ =>
        if r.msg.isSome && !(s.refusedHere r && a.n1 = 1) then s
        else
          let s := ({ s with xlat := { s.xlat with reqs := s.xlat.reqs.filter fun x => x.tag ≠ r.tag } } : State).answered r.pbr a.n1
          ((s.reqRefused r a.n1).getD (s.serve r a.n1 a.flag (a.wide.setWidth 512) (words 1024 a.bytes))).sweep.sendHeld)

/-- `H2D_SNOOP` (R54). -/
def execH2dSnoop (s : State) : Host.Outcome State Fault Refusal :=
  .next (if portOffers s.fitting 0 .cache && (s.link hostLink).carries then s.emit (.snoopReply s.arg.n0) else s)

/-! ## Dynamic capacity (R57, R64 to R66) -/

/-- `DC_REGION_CONFIGURATION` (R57). -/
def execDcRegionConfiguration (s : State) : Host.Outcome State Fault Refusal :=
  let a := s.arg
  .next (if s.fitting = .w9l ∧ a.n0 < 8 then
    { s with ports := { s.ports with regions := Tbl.put s.ports.regions a.n0 { first := a.n1, count := a.n2, bulk := a.flag } } } else s)
/-- `TENANT_TAG_MAPPING` (R64). -/
def execTenantTagMapping (s : State) : Host.Outcome State Fault Refusal :=
  let tag : BitVec 128 := s.arg.wide.setWidth 128
  let rest := s.ports.tags.filter fun x => x.1 ≠ tag
  .next (if s.fitting = .w9l then { s with ports := { s.ports with tags := match s.arg.opt with | some p => rest ++ [(tag, p)] | none => rest } } else s)

/-- R64: an extent is free. -/
def State.extentFree (s : State) (k : Nat) : Bool :=
  (Tbl.get? s.ports.eown k).isNone && s.ports.emap.all (fun x => x.2 ≠ k) && decide (k ∉ s.ports.rescrub) && s.xlat.own.all fun g => g.1 / 128 ≠ k
/-- R64: the lowest free extent of the 4,095 that are offered. -/
def State.freeExtent (s : State) : Option Nat := (List.range 4095).find? s.extentFree
/-- FM API return codes, as CXL numbers them. -/
def fmSuccess : Nat := 0
def fmInvalidInput : Nat := 0x0002
def fmInvalidAddress : Nat := 0x000F
def fmExhausted : Nat := 0x001D

/-- `ADD_CAPACITY` (R64). -/
def execAddCapacity (s : State) : Host.Outcome State Fault Refusal :=
  let k := s.arg.n0
  let tag : BitVec 128 := s.arg.wide.setWidth 128
  .next (if s.fitting ≠ .w9l then s
    else match s.ports.tags.find? fun x => x.1 = tag with
      | none => s.emit (.fmReply fmInvalidInput)
      | some (_, p) =>
        if k ≥ 4096 ∨ (Tbl.get? s.ports.emap k).isSome then s.emit (.fmReply fmInvalidAddress)
        else match s.freeExtent with
          | none => s.emit (.fmReply fmExhausted)
          | some e => { s with ports := { s.ports with emap := Tbl.put s.ports.emap k e, eown := Tbl.put s.ports.eown e p, scrub := s.ports.scrub ++ [k] } })
/-- Memory of a range reads zero, without poison. -/
def State.zeroRange (s : State) (base len : Nat) : State :=
  { s with mem := s.mem.filter fun c => !decide (base ≤ c.1 ∧ c.1 < base + len)
           poison := s.poison.filter fun x => !decide (base ≤ 64 * x.1 ∧ 64 * x.1 < base + len) }
/-- `ADD_CAPACITY_COMPLETE` (R65). -/
def execAddCapacityComplete (s : State) : Host.Outcome State Fault Refusal :=
  let k := s.arg.n0
  .next (if k ∉ s.ports.scrub then s
    else match Tbl.get? s.ports.emap k with
      | some e => (({ s with ports := { s.ports with scrub := s.ports.scrub.filter (· ≠ k) } } : State).zeroRange (e * 2 ^ 28) (2 ^ 28)).emit (.fmReply fmSuccess)
      | none => s)
/-- `RELEASE_CAPACITY` (R66). -/
def execReleaseCapacity (s : State) : Host.Outcome State Fault Refusal :=
  let k := s.arg.n0
  .next (if s.fitting ≠ .w9l then s
    else if (Tbl.get? s.ports.emap k).isNone ∨ k ∈ s.ports.scrub then s.emit (.fmReply fmInvalidAddress)
    else if k ∈ s.ports.releasing then s
    else { s with ports := { s.ports with releasing := s.ports.releasing ++ [k] } })
/-- R66: no launch of any die holds an entry in a slot's extent. -/
def State.slotClear (s : State) (k : Nat) : Bool :=
  match Tbl.get? s.ports.emap k with
  | some e =>
    let out := fun (sh : Tbl Shadow) (ds : Tbl Delta) => sh.all (fun x => extentOf (64 * x.1) ≠ e) && ds.all fun d => extentOf d.1 ≠ e
    (s.launches.all fun l => out l.2.shadow l.2.deltas) && s.ports.foreign.all fun f => out f.shadow f.deltas
  | none => false
def State.mayRelease (s : State) (k : Nat) : Bool := decide (k ∈ s.ports.releasing) && s.slotClear k
/-- `RELEASE_CAPACITY_COMPLETE` (R66). -/
def execReleaseCapacityComplete (s : State) : Host.Outcome State Fault Refusal :=
  let k := s.arg.n0
  .next (if !s.mayRelease k then s
    else match Tbl.get? s.ports.emap k with
      | some e => ({ s with ports := { s.ports with emap := Tbl.del s.ports.emap k, eown := Tbl.del s.ports.eown e
                                                    releasing := s.ports.releasing.filter (· ≠ k)
                                                    rescrub := if e ∈ s.ports.rescrub then s.ports.rescrub else s.ports.rescrub ++ [e]
                                                    mons := s.ports.mons.filter fun m => extentOf m.pa ≠ e } } : State).emit (.fmReply fmSuccess)
      | none => s)
/-- R66: the scrub of a released extent has ended; R65 does not fix its time. -/
def State.rescrubbed (s : State) (e : Nat) : State :=
  ({ s with ports := { s.ports with rescrub := s.ports.rescrub.filter (· ≠ e) } } : State).zeroRange (e * 2 ^ 28) (2 ^ 28)

/-! ## The snoop filter (R58 to R63) -/

/-- R60: requests before which every other holder answers. -/
def opExclusive : MemOp → Bool
  | .read => false
  | .viewRead _ _ _ => false
  | .prepare _ _ => false
  | .takeEntry _ _ => false
  | .arm _ _ _ _ _ _ => false
  | .disarm _ => false
  | .signal _ => false
  | _ => true
/-- R60, R61: back-invalidate the holders of a line; the request waits for their answers. -/
def State.snoopFor (s : State) (w : SnoopWait) : State :=
  let s := s.backInvalidate w.bi w.line
  { s with ports := { s.ports with swait := s.ports.swait ++ [{ w with since := s.now }] } }
/-- Holders of a line other than one. -/
def State.holders (s : State) (ln : Nat) (but : Option Nat) : BitVec 16 :=
  match Tbl.get? s.ports.snoop ln with
  | some x => (match but with | some b => x.bi &&& ~~~((1 : BitVec 16) <<< b) | none => x.bi)
  | none => 0
/-- R58, R60: a request before which holders answer: one that writes, or a read of a line that one of them may have changed. -/
def State.asksHolders (s : State) (op : MemOp) (ln : Nat) (but : Option Nat) : Bool :=
  s.holders ln but ≠ 0 && (opExclusive op || s.hostExcl ln)
/-- R61: the entry of a full set that makes room for a line. -/
def State.snoopVictim (s : State) (ln : Nat) : Option (Nat × Snoop) :=
  let mine := s.ports.snoop.filter fun x => snoopSet x.1 = snoopSet ln
  if (Tbl.get? s.ports.snoop ln).isSome ∨ mine.length < 16 then none
  else mine.foldl (fun m x => match m with | some y => if x.2.order < y.2.order then some x else m | none => some x) none
/-- R59: a host holds a line now. -/
def State.hold (s : State) (ln bi : Nat) (ex : Bool) : State :=
  let (n, s) := (s.lookSet ln).take
  let x := (Tbl.get? s.ports.snoop ln).getD { ex := ex, bi := 0, order := n }
  { s with ports := { s.ports with snoop := Tbl.put s.ports.snoop ln { x with ex := ex, bi := x.bi ||| ((1 : BitVec 16) <<< bi) } } }

/-! ## Requests at their home (R58, R190 to R192, R205, R308) -/

/-- What a request comes to at its home on this W9L: status, poison, the line, old values. -/
def State.homeOp (s : State) (pbr pa : Nat) (own : Nat) (op : MemOp) : (Nat × Bool × Line × List Nat) × State :=
  let view := fun (s : State) (p v : Nat) (ch : List Nat) => s.modForeign pbr p v fun f => { f with own := own, chain := if ch = [] then f.chain else ch }
  let (tok, s) := s.take
  match op with
  | .read => ((0, s.poisoned pa, memLine s.mem pa, []), s)
  | .readExcl => ((0, s.poisoned pa, memLine s.mem pa, []), s)
  | .write m d pois => ((0, false, 0, []), (s.recallAll (lineNo pa)).commitLine pa m d pois (decide (m = BitVec.allOnes 64)))
  | .atomic fn ty off x e =>
    if s.poisoned pa then ((0, true, 0, []), s)
    else
      let n := atomicW fn ty / 8
      let s := s.recallAll (lineNo pa)
      let at_ := lineBase pa + off
      let m := memNat s.mem at_ n
      ((0, false, 0, [m]), { s with mem := memPuts s.mem at_ (leBytes n (atomicNew fn ty 0 m (x.toNat % 256 ^ n) (e.toNat % 256 ^ n))) })
  | .shadowWrite p v m d pois =>
    -- R227: what arrives late for a version that has ended is discarded
    if (pbr, p, v) ∈ s.ports.ended then ((0, false, 0, []), s) else
    let s := view s p v []
    let w := View.foreign pbr p v
    if !s.hasRoom w (lineNo pa) then ((0x4F, false, 0, []), s)
    else
      let (e, s) := s.entryFor w (lineNo pa)
      let full := decide (m = BitVec.allOnes 64)
      let data := (List.range 64).foldl (fun a i => if m.getLsbD i then setLineByte a i (lineByte d i) else a) e.data
      ((0, false, 0, []), s.putShadow w (lineNo pa) { e with
        mask := e.mask ||| m, data := data, poison := pois || (e.poison && !full), clean := full || (e.clean && !pois), tok := tok + 2 ^ 80, cover := m })
  | .viewRead p v ch =>
    let r := (if ch = [] then s else view s p v ch).viewRead (.foreign pbr p v) (lineBase pa) 64
    ((0, r.2, BitVec.ofNat 512 (leNat r.1), []), s)
  | .arm p v id cmp x ch =>
    -- R349, R350: the word as the view holds it, and an entry of the slice where the comparison does not hold and the share has room
    let r := (if ch = [] then s else view s p v ch).viewRead (.foreign pbr p v) (lineBase pa) 64
    let d : Line := BitVec.ofNat 512 (leNat r.1)
    let holds := monHolds cmp (BitVec.ofNat 64 (leNat (partBytes d { len := 8, pa := pa }))) x
    if r.2 || holds then ((0, r.2, d, [2]), s)
    else if (pbr, p, v) ∈ s.ports.ended || decide (s.monShare own ≤ s.monUsed own (homeSlice pa)) then ((0, false, d, [0]), s)
    else ((0, false, d, [1]), { s with ports := { s.ports with mons :=
      s.ports.mons ++ [{ die := pbr, part := p, ver := v, own := own, id := id, pa := pa, cmp := cmp, v := x }] } })
  | .disarm id => ((0, false, 0, []), { s with ports := { s.ports with mons := s.ports.mons.filter fun m => !(m.die = pbr && m.id = id) } })
  | .signal p => ((0, false, 0, []), s.signalFar pbr p pa)
  | .takeEntry p v =>
    -- R183 step 4: the entry and deltas of the line go with its page
    let w := View.foreign pbr p v
    let x := Tbl.getD (s.shadowsOf w) (lineNo pa) {}
    let ds := (s.deltasOf w).filter fun d => lineNo d.1 = lineNo pa
    if !s.holdsOf pbr p v then ((0, false, 0, [0]), s)
    else ((0, x.poison, x.data, x.mask.toNat :: deltaWords ds), s.modForeign pbr p v fun f =>
      { f with shadow := Tbl.del f.shadow (lineNo pa), deltas := f.deltas.filter fun d => lineNo d.1 ≠ lineNo pa })
  | .commit _ _ => ((0, false, 0, []), s)
  | .viewAtomic p v fn ty off ops fmt delta ch =>
    if (pbr, p, v) ∈ s.ports.ended then ((0, false, 0, ops.map fun _ => 0), s) else
    let s := view s p v ch
    let w := View.foreign pbr p v
    if !s.hasRoom w (lineNo pa) then ((0x4F, false, 0, []), s)
    else match s.atomicLocal w none (lineBase pa + off) fn ty fmt delta ops (tok + 2 ^ 80) with
      | .ok (l, _, s) => ((0, false, 0, l), s)
      | .error c => if c = 0x88 then ((0, true, 0, []), s) else ((c, false, 0, []), s)
  | .prepare p v =>
    if s.holdsOf pbr p v then ((0, false, 0, []), s.modForeign pbr p v fun f => { f with locked := true }) else ((1, false, 0, []), s)

/-- R58 to R63: a host's request to a slot of a W9L. -/
def State.hostReq (s : State) (bi dpa : Nat) (op : MemOp) : State :=
  let refuse := fun (s : State) => s.emit (.hostReply bi false false 0)
  match s.dpaPa dpa with
  | none => refuse s
  | some pa =>
    if s.adding pa || s.releasing pa then refuse s
    else
      let ln := lineNo pa
      let own := (Tbl.get? s.ports.eown (extentOf pa)).getD 0
      let go := fun (s : State) => let (r, s) := s.homeOp (2 ^ 12 + bi) pa own op; s.emit (.hostReply bi (decide (r.1 = 0)) r.2.1 r.2.2.1)
      let wait := fun (s : State) (line : Nat) (b : BitVec 16) => s.snoopFor { line := line, bi := b, host := some bi, pbr := none, dpa := dpa, op := op }
      if s.bulkSlot (dpa / 2 ^ 28) then go s
      else if s.asksHolders op ln (some bi) then wait s ln (s.holders ln (some bi))
      else match op with
        | .read | .readExcl =>
          (match s.snoopVictim ln with
           | some v => wait s v.1 v.2.bi
           | none => (go s).hold ln bi (op = .readExcl))
        | _ => go s
/-- `HOST_MEM_REQUEST` (R53 to R55, R58, R714): over a link with an established IDE stream, which shows that the host is reachable. -/
def execHostMemRequest (s : State) : Host.Outcome State Fault Refusal :=
  let l := linkNo s.arg.n2 s.arg.n3
  .next (if portOffers s.fitting s.arg.n2 .memHdmDb ∧ s.arg.n0 < 16 ∧ (s.link l).ide then (s.heard (4096 + s.arg.n0) l).hostReq s.arg.n0 s.arg.n1 s.arg.op
    else s.emit (.hostReply s.arg.n0 false false 0))

/-- In whose view a peer's request is, if in a launch's. -/
def opView (op : MemOp) (pbr : Nat) : Option View :=
  match op with
  | .shadowWrite p v _ _ _ => some (.foreign pbr p v)
  | .viewRead p v _ => some (.foreign pbr p v)
  | .arm p v _ _ _ _ => some (.foreign pbr p v)
  | .viewAtomic p v _ _ _ _ _ _ _ => some (.foreign pbr p v)
  | .takeEntry p v => some (.foreign pbr p v)
  | _ => none
/-- R66, R94 to R96, R149, R713: a peer's request to a slot of a W9L. -/
def State.peerReq (s : State) (pbr dpa : Nat) (op : MemOp) : State :=
  let refuse := fun (s : State) (st : Nat) => s.emit (.peerReply pbr st false 0 [])
  let drop := fun (s : State) => (s.logIt (.peerRefused pbr dpa s.now)).emit (.peerReply pbr 4 false 0 [])
  match op with
  | .prepare _ _ => let (r, s) := s.homeOp pbr 0 0 op; refuse s r.1
  | .commit p v => s.commitFar pbr p v
  | _ =>
  match s.dpaPa dpa with
  | none => drop s
  | some pa =>
    match Tbl.get? s.ports.eown (extentOf pa) with
    | none => drop s
    | some own =>
      if s.adding pa then drop s
      else if (pbr, own) ∈ s.ports.blocked then refuse s 4
      else if !Config.peerReach pbr own then
        let s := { s with ports := { s.ports with blocked := s.ports.blocked ++ [(pbr, own)] } }
        let s := s.logIt (.violation 6 pbr dpa 1 s.now)
        refuse ((s.ctxsOf own).foldl (fun s c => s.postEvent c 0 0x90 (BitVec.ofNat 32 (6 * 2 ^ 16 + pbr))) s) 4
      else if (match opView op pbr with | some v => s.releaseRefuses v pa | none => false) then refuse s 0x4D
      else if s.releasing pa && (opView op pbr).isNone then refuse s 4
      else if !s.bulkSlot (dpa / 2 ^ 28) && s.asksHolders op (lineNo pa) none then
        s.snoopFor { line := lineNo pa, bi := s.holders (lineNo pa) none, host := none, pbr := some pbr, dpa := dpa, op := op }
      else
        let (r, s) := s.homeOp pbr pa own op
        s.emit (.peerReply pbr r.1 r.2.1 r.2.2.1 r.2.2.2)
/-- `PEER_REQUEST` (R54, R55, R713); a PBR ID has 12 bits. -/
def execPeerRequest (s : State) : Host.Outcome State Fault Refusal :=
  let a := s.arg
  let l := linkNo a.n1 a.n3
  .next (if s.fitting = .w9h || !(s.link l).ide then s.emit (.peerReply a.n0 1 false 0 []) else (s.heard (a.n0 % 4096) l).peerReq (a.n0 % 4096) a.n2 a.op)

/-- R60, R61: the requests whose back-invalidations have all been answered go on. -/
def State.runWaits (s : State) : State :=
  let ws := s.ports.swait.filter fun w => w.bi = 0
  let s := { s with ports := { s.ports with swait := s.ports.swait.filter fun w => w.bi ≠ 0 } }
  ws.foldl (fun s w =>
    match w.host, w.pbr with
    | some b, _ => s.hostReq b w.dpa w.op
    | none, some p => s.peerReq p w.dpa w.op
    | none, none => s) s
/-- `BIRSP` (R60, R61). -/
def execBirsp (s : State) : Host.Outcome State Fault Refusal :=
  let bi := s.arg.n0
  let ln := s.arg.n1
  let clear := fun (b : BitVec 16) => b &&& ~~~((1 : BitVec 16) <<< bi)
  .next (if s.ports.swait.all fun w => w.line ≠ ln then s
    else
      let snoop := match Tbl.get? s.ports.snoop ln with
        | some x => if clear x.bi = 0 then Tbl.del s.ports.snoop ln else Tbl.put s.ports.snoop ln { x with bi := clear x.bi }
        | none => s.ports.snoop
      let ws := s.ports.swait.map fun (w : SnoopWait) => if w.line = ln then ({ w with bi := clear w.bi } : SnoopWait) else w
      ({ s with ports := { s.ports with snoop := snoop, swait := ws } } : State).runWaits)

/-- `FOOTPRINT_TABLE_ARRIVAL` (R192, R309, R714): of a launch that has not ended. -/
def execFootprintTableArrival (s : State) : Host.Outcome State Fault Refusal :=
  let a := s.arg
  .next (if s.fitting = .w9l then s.fromDie a.n0 a.n3 fun s =>
      if (a.n0, a.n1, a.n2) ∈ s.ports.ended then s else s.modForeign a.n0 a.n1 a.n2 fun f => { f with foot := a.foot, chain := a.ns }
    else s)

/-- Events of the ports that may happen now. -/
def State.portsMay (s : State) : List (Instr × Arg) :=
  ((s.ports.q.filter s.mayLeave).map fun w => (Instr.poolWriteLeave, ({ n0 := w.id } : Arg))) ++
    ((((s.ports.q.map PoolW.src) ++ s.ports.epoch.map Prod.fst).dedup.filter s.reportDue).map fun k => (Instr.epochDrainReport, ({ n0 := k } : Arg))) ++
    ((s.ports.q.filter s.unsupported).map fun w => (Instr.poolWriteCompletion, ({ n0 := w.id, n1 := 1 } : Arg))) ++
    ((s.xlat.reqs.filter s.refusedHere).map fun r => match r.for_ with
      | .ats _ => (Instr.atsTranslationCompletion, ({ n0 := r.tag, ats := .error } : Arg))
      | _ => (Instr.cxlCompletion, ({ n0 := r.tag, n1 := 1 } : Arg))) ++
    (s.ports.scrub.map fun k => (Instr.addCapacityComplete, ({ n0 := k } : Arg))) ++
    (s.ports.releasing.filter s.mayRelease).map fun k => (Instr.releaseCapacityComplete, ({ n0 := k } : Arg))

end Sys2Proof.Machine
end

