-- ==== Sys2Proof/Machine/Loss.lean ====
section
/-! DEFINITION. The loss of links, expanders, peers and hosts (R56, R89, R221, R714). -/

namespace Sys2Proof.Machine

/-- R60, R89: a lost host holds no line and answers no back-invalidation. -/
def State.dropHolder (s : State) (bi : Nat) : State :=
  let clear := fun (b : BitVec 16) => b &&& ~~~((1 : BitVec 16) <<< bi)
  let held := (s.ports.snoop.filter fun x => x.2.bi.getLsbD bi).map Prod.fst
  { s with ports := { s.ports with
    snoop := (Tbl.mapV s.ports.snoop fun _ x => { x with bi := clear x.bi }).filter fun x => !(decide (x.1 ∈ held) && x.2.bi = 0)
    swait := s.ports.swait.map fun w => { w with bi := clear w.bi } } }
/-- R89, R221, R714: a W9L loses a peer or a host (4,096 + BI-ID): its locked entries go at once, the others after 10 ms. Requests that waited for a lost
host's answers alone go on. -/
def State.losePeer (s : State) (pbr : Nat) : State :=
  let s := (s.ports.foreign.filter fun f => f.die = pbr && f.locked).foldl (fun s f => s.endVersion f.die f.part f.ver) s
  (if pbr < 4096 then s else (s.dropHolder (pbr - 4096)).runWaits).unreachable pbr

/-- R89: what is behind a link that went down. -/
def State.linkDown (s : State) (l : Nat) : State :=
  if !(s.link l).up then s
  else
    let s := s.modLink l fun x => { x with up := false, ide := false }
    if s.fitting = .w9h then (((s.ports.pool.filter fun e => e.2.link = l && !e.2.lost).map fun e => e.2.pbr).dedup).foldl State.loseDie s
    else ((s.ports.peers.filter fun p => p.2 = l).map Prod.fst).foldl State.losePeer s
/-- `LINK_DOWN` (R89). -/
def execLinkDown (s : State) : Host.Outcome State Fault Refusal := .next (s.linkDown (linkNo s.arg.n0 s.arg.n1))
/-- R89: an agent is lost. -/
def State.loseAgent (s : State) (pbr : Nat) : State := if s.fitting = .w9h then s.loseDie pbr else s.losePeer pbr
/-- `SURPRISE_REMOVAL` (R89). -/
def execSurpriseRemoval (s : State) : Host.Outcome State Fault Refusal := .next (s.loseAgent s.arg.n0)
/-- `IDE_INTEGRITY_FAILURE` (R56): the standard IDE error, and the link drops. -/
def execIdeIntegrityFailure (s : State) : Host.Outcome State Fault Refusal :=
  let l := linkNo s.arg.n0 s.arg.n1
  .next (if (s.link l).ide then ((s.modLink l fun x => { x with insecure := true }).emit (.ideError l)).linkDown l else s)
/-- R89: an unordered-I/O request to an agent that has been outstanding for 1 ms: a read or atomic by its tag, a write by its number. -/
def State.uioLate (s : State) (pbr id : Nat) : Bool :=
  (s.xlat.reqs.any fun r => r.tag = id && r.pbr = some pbr && r.via.isSome && r.msg.isNone && !r.timed && decide (r.since + msTicks ≤ s.now)) ||
    s.ports.q.any fun w => w.id = id && w.pbr = pbr && w.left && !w.timed && decide (w.since + msTicks ≤ s.now)
/-- `UIO_REQUEST_TIMEOUT` (R89): the third in a row loses the agent. -/
def execUioRequestTimeout (s : State) : Host.Outcome State Fault Refusal :=
  let p := s.arg.n0
  let n := Tbl.getD s.mil.timeouts p 0 + 1
  .next (if !s.uioLate p s.arg.n1 then s
    else
      let s := { s with xlat := { s.xlat with reqs := s.xlat.reqs.map fun (r : Req) => if r.tag = s.arg.n1 then ({ r with timed := true } : Req) else r }
                        ports := { s.ports with q := s.ports.q.map fun (w : PoolW) => if w.id = s.arg.n1 then ({ w with timed := true } : PoolW) else w } }
      if n < 3 then { s with mil := { s.mil with timeouts := Tbl.put s.mil.timeouts p n } }
      else ({ s with mil := { s.mil with timeouts := Tbl.del s.mil.timeouts p } } : State).loseAgent p)
/-- R714: a message of a W9L to a die or host has had no answer for 1 ms: an outcome query, or a BISnp. -/
def State.unanswered (s : State) (pbr : Nat) : Bool :=
  (s.ports.foreign.any fun f => f.die = pbr && match f.asked with | some t => decide (t + msTicks ≤ s.now) | none => false) ||
    (decide (4096 ≤ pbr) && s.ports.swait.any fun w => w.bi.getLsbD (pbr - 4096) && decide (w.since + msTicks ≤ s.now))
/-- `DIE_UNREACHABLE_TIMEOUT` (R714): the port tells of a completion that was not delivered. -/
def execDieUnreachableTimeout (s : State) : Host.Outcome State Fault Refusal :=
  .next (if s.fitting = .w9l && (s.arg.flag || s.unanswered s.arg.n0) then s.unreachable s.arg.n0 else s)
end Sys2Proof.Machine
end

