-- ==== Sys2Proof/Machine/MaskMove.lean ====
section
/-! DEFINITION. Mask and move instructions (R533 to R537): majors 0x12 and 0x13. -/

namespace Sys2Proof.Machine

/-- R534: a mask written as a whole; bits outside the valid lanes are zero. -/
def maskWrite (s : State) (c : Cur) (t : Team) (z : BitVec 1) (d : Nat) (m : Mask) : State :=
  finishShort s c { t with regs := t.regs.setK d m } z [] 1

/-- R534: a mask of two masks. -/
def mask2 (f : Mask → Mask → Mask) (z : BitVec 1) (d a b : BitVec 3) (s : State) : Host.Outcome State Fault Refusal :=
  withCur s fun c t => maskWrite s c t z d.toNat (f (rdK t c a.toNat) (rdK t c b.toNat))
/-- R534: a mask of one mask. -/
def mask1 (f : Mask → Mask) (z : BitVec 1) (d a : BitVec 3) (s : State) : Host.Outcome State Fault Refusal :=
  withCur s fun c t => maskWrite s c t z d.toNat (f (rdK t c a.toNat))

/-- `kand` (R534). -/
def execKand (z : BitVec 1) (d a b : BitVec 3) (s : State) : Host.Outcome State Fault Refusal := mask2 (fun a b => a &&& b) z d a b s
/-- `kor` (R534). -/
def execKor (z : BitVec 1) (d a b : BitVec 3) (s : State) : Host.Outcome State Fault Refusal := mask2 (fun a b => a ||| b) z d a b s
/-- `kxor` (R534). -/
def execKxor (z : BitVec 1) (d a b : BitVec 3) (s : State) : Host.Outcome State Fault Refusal := mask2 (fun a b => a ^^^ b) z d a b s
/-- `kandn` (R534). -/
def execKandn (z : BitVec 1) (d a b : BitVec 3) (s : State) : Host.Outcome State Fault Refusal := mask2 (fun a b => a &&& ~~~b) z d a b s
/-- `knot` (R534). -/
def execKnot (z : BitVec 1) (d a : BitVec 3) (s : State) : Host.Outcome State Fault Refusal := mask1 (fun a => ~~~a) z d a s
/-- `kmov` (R534). -/
def execKmov (z : BitVec 1) (d a : BitVec 3) (s : State) : Host.Outcome State Fault Refusal := mask1 (fun a => a) z d a s

/-- `kpop` (R534). -/
def execKpop (z : BitVec 1) (d : BitVec 6) (a : BitVec 3) (s : State) : Host.Outcome State Fault Refusal :=
  withCur s fun c t => finishShort s c t z [.s d.toNat (BitVec.ofNat 64 (lanesOf (rdK t c a.toNat) t.regs.lanes).length)] 1
/-- `kffs` (R534). -/
def execKffs (z : BitVec 1) (d : BitVec 6) (a : BitVec 3) (s : State) : Host.Outcome State Fault Refusal :=
  withCur s fun c t =>
    finishShort s c t z [.s d.toNat (match lanesOf (rdK t c a.toNat) t.regs.lanes with
      | l :: _ => BitVec.ofNat 64 l | [] => BitVec.allOnes 64)] 1

/-- `vmov` (R536), the general permutation with MODX (R537). -/
def execVmov (z : BitVec 1) (d a : BitVec 6) (s : State) : Host.Outcome State Fault Refusal :=
  withCur s fun c t => laneShort s c t z d.toNat fun l => srcLane t c 0 a.toNat 1 l (rdV t c d.toNat l)
/-- `vsplat` (R536). -/
def execVsplat (z : BitVec 1) (d a : BitVec 6) (ty : BitVec 3) (s : State) : Host.Outcome State Fault Refusal :=
  withCur s fun c t =>
    let b := intW ty.toNat
    laneShort s c t z d.toNat fun _ => mapSubs b fun _ => (rdS t c a.toNat).toNat
/-- `vext` (R536): it reads the lane whatever its state. -/
def execVext (z : BitVec 1) (d a b : BitVec 6) (ty : BitVec 3) (s : State) : Host.Outcome State Fault Refusal :=
  withCur s fun c t =>
    let w := intW ty.toNat
    let n := 64 / w
    let e := (rdS t c b.toNat).toNat
    finishShort s c t z [.s d.toNat (if e ≥ t.regs.lanes * n then 0
      else extend ty.toNat (sub (rdV t c a.toNat (e / n)) w (e % n)))] 1
/-- `vins` (R536): one sub-element of one lane of g. -/
def execVins (z : BitVec 1) (d a b : BitVec 6) (ty : BitVec 3) (s : State) : Host.Outcome State Fault Refusal :=
  withCur s fun c t =>
    let w := intW ty.toNat
    let n := 64 / w
    let e := (rdS t c b.toNat).toNat
    let ws : List RegWrite :=
      if e < t.regs.lanes * n ∧ (gov t c).getLsbD (e / n) then
        [.v d.toNat (e / n) (setSub (rdV t c d.toNat (e / n)) w (e % n) (rdS t c a.toNat).toNat)]
      else []
    finishShort s c t z ws (lanePasses t c)
/-- `vsel` (R536). -/
def execVsel (z : BitVec 1) (d a b : BitVec 6) (k : BitVec 3) (s : State) : Host.Outcome State Fault Refusal :=
  withCur s fun c t =>
    let m := rdK t c k.toNat
    laneShort s c t z d.toNat fun l =>
      if m.getLsbD l then srcLane t c 0 a.toNat 1 l (rdV t c d.toNat l) else srcLane t c 1 b.toNat 1 l (rdV t c d.toNat l)
/-- `kvec` (R536). -/
def execKvec (z : BitVec 1) (d : BitVec 6) (a : BitVec 3) (s : State) : Host.Outcome State Fault Refusal :=
  withCur s fun c t =>
    let m := rdK t c a.toNat
    laneShort s c t z d.toNat fun l => if m.getLsbD l then BitVec.allOnes 64 else 0
/-- `veck` (R536): under `zero` the bits of present lanes outside g are cleared, otherwise they are kept (R537). -/
def execVeck (z : BitVec 1) (d : BitVec 3) (a : BitVec 6) (s : State) : Host.Outcome State Fault Refusal :=
  withCur s fun c t =>
    let g := gov t c &&& ones t.regs.lanes
    let set := maskOf ((lanesOf g t.regs.lanes).filter fun l => srcLane t c 0 a.toNat 1 l (boolW ((rdK t c d.toNat).getLsbD l)) ≠ 0)
    let clear := if g = 0 then 0 else if c.zero then g ||| t.flow.pres else g
    let m := (t.regs.getK d.toNat &&& ~~~clear) ||| set
    finishShort s c { t with regs := t.regs.setK d.toNat m } z [] (lanePasses t c)

end Sys2Proof.Machine
end

