-- ==== Sys2Proof/Machine/Scalar.lean ====
section
/-! DEFINITION. Scalar integer instructions (R527 to R532): majors 0x04 to 0x07. -/

namespace Sys2Proof.Machine

/-- R527: a short scalar operation of two operands. -/
def scalar2 (f : Word → Word → Word) (z : BitVec 1) (d a b : BitVec 6) (i : BitVec 1) (s : State) : Host.Outcome State Fault Refusal :=
  withCur s fun c t => finishShort s c t z [.s d.toNat (f (rdS t c a.toNat) (srB t c b i))] 1

/-- R530, R531: a divide or remainder form: a long result 36 ticks later, and 0x12 for a zero divisor. -/
def scalarDiv (f : Word → Word → Word) (z : BitVec 1) (d a b : BitVec 6) (i : BitVec 1) (s : State) : Host.Outcome State Fault Refusal :=
  withCur s fun c t =>
    if srB t c b i = 0 then s.raiseX c t 0x12
    else finishLong s { c with entry := { c.entry with due := s.now + 36 } } t z [.s d.toNat (f (rdS t c a.toNat) (srB t c b i))] 1

/-- R532: a short scalar operation of one operand. -/
def scalar1 (f : Word → Word) (z : BitVec 1) (d a : BitVec 6) (s : State) : Host.Outcome State Fault Refusal :=
  withCur s fun c t => finishShort s c t z [.s d.toNat (f (rdS t c a.toNat))] 1

/-- R532: the bits of a word mirrored. -/
def mirror (a : Word) : Word := BitVec.ofNat 64 ((List.range 64).foldl (fun n j => n + b2n (a.getLsbD j) * 2 ^ (63 - j)) 0)
/-- R532: the bytes of a word mirrored. -/
def swapBytes (a : Word) : Word := BitVec.ofNat 64 ((List.range 8).foldl (fun n j => n + sub a 8 j * 2 ^ (8 * (7 - j))) 0)

/-- `sadd` (R528). -/
def execSadd (z : BitVec 1) (d a b : BitVec 6) (i : BitVec 1) (s : State) : Host.Outcome State Fault Refusal :=
  scalar2 (fun a b => a + b) z d a b i s
/-- `ssub` (R528). -/
def execSsub (z : BitVec 1) (d a b : BitVec 6) (i : BitVec 1) (s : State) : Host.Outcome State Fault Refusal :=
  scalar2 (fun a b => a - b) z d a b i s
/-- `sand` (R528). -/
def execSand (z : BitVec 1) (d a b : BitVec 6) (i : BitVec 1) (s : State) : Host.Outcome State Fault Refusal :=
  scalar2 (fun a b => a &&& b) z d a b i s
/-- `sor` (R528). -/
def execSor (z : BitVec 1) (d a b : BitVec 6) (i : BitVec 1) (s : State) : Host.Outcome State Fault Refusal :=
  scalar2 (fun a b => a ||| b) z d a b i s
/-- `sxor` (R528). -/
def execSxor (z : BitVec 1) (d a b : BitVec 6) (i : BitVec 1) (s : State) : Host.Outcome State Fault Refusal :=
  scalar2 (fun a b => a ^^^ b) z d a b i s
/-- `sandn` (R528). -/
def execSandn (z : BitVec 1) (d a b : BitVec 6) (i : BitVec 1) (s : State) : Host.Outcome State Fault Refusal :=
  scalar2 (fun a b => a &&& ~~~b) z d a b i s
/-- `sshl` (R528). -/
def execSshl (z : BitVec 1) (d a b : BitVec 6) (i : BitVec 1) (s : State) : Host.Outcome State Fault Refusal :=
  scalar2 (fun a b => a <<< (b.toNat % 64)) z d a b i s
/-- `sshr` (R528). -/
def execSshr (z : BitVec 1) (d a b : BitVec 6) (i : BitVec 1) (s : State) : Host.Outcome State Fault Refusal :=
  scalar2 (fun a b => a >>> (b.toNat % 64)) z d a b i s
/-- `ssra` (R528). -/
def execSsra (z : BitVec 1) (d a b : BitVec 6) (i : BitVec 1) (s : State) : Host.Outcome State Fault Refusal :=
  scalar2 (fun a b => a.sshiftRight (b.toNat % 64)) z d a b i s
/-- `sseq` (R528). -/
def execSseq (z : BitVec 1) (d a b : BitVec 6) (i : BitVec 1) (s : State) : Host.Outcome State Fault Refusal :=
  scalar2 (fun a b => boolW (a = b)) z d a b i s
/-- `ssne` (R528). -/
def execSsne (z : BitVec 1) (d a b : BitVec 6) (i : BitVec 1) (s : State) : Host.Outcome State Fault Refusal :=
  scalar2 (fun a b => boolW (a ≠ b)) z d a b i s
/-- `sslt` (R528). -/
def execSslt (z : BitVec 1) (d a b : BitVec 6) (i : BitVec 1) (s : State) : Host.Outcome State Fault Refusal :=
  scalar2 (fun a b => boolW (a.toInt < b.toInt)) z d a b i s
/-- `ssltu` (R528). -/
def execSsltu (z : BitVec 1) (d a b : BitVec 6) (i : BitVec 1) (s : State) : Host.Outcome State Fault Refusal :=
  scalar2 (fun a b => boolW (a.toNat < b.toNat)) z d a b i s
/-- `ssle` (R528). -/
def execSsle (z : BitVec 1) (d a b : BitVec 6) (i : BitVec 1) (s : State) : Host.Outcome State Fault Refusal :=
  scalar2 (fun a b => boolW (a.toInt ≤ b.toInt)) z d a b i s
/-- `ssleu` (R528). -/
def execSsleu (z : BitVec 1) (d a b : BitVec 6) (i : BitVec 1) (s : State) : Host.Outcome State Fault Refusal :=
  scalar2 (fun a b => boolW (a.toNat ≤ b.toNat)) z d a b i s
/-- `smin` (R528). -/
def execSmin (z : BitVec 1) (d a b : BitVec 6) (i : BitVec 1) (s : State) : Host.Outcome State Fault Refusal :=
  scalar2 (fun a b => if a.toInt ≤ b.toInt then a else b) z d a b i s
/-- `smax` (R528). -/
def execSmax (z : BitVec 1) (d a b : BitVec 6) (i : BitVec 1) (s : State) : Host.Outcome State Fault Refusal :=
  scalar2 (fun a b => if a.toInt ≥ b.toInt then a else b) z d a b i s
/-- `smul` (R530). -/
def execSmul (z : BitVec 1) (d a b : BitVec 6) (i : BitVec 1) (s : State) : Host.Outcome State Fault Refusal :=
  scalar2 (fun a b => a * b) z d a b i s
/-- `smulh` (R530). -/
def execSmulh (z : BitVec 1) (d a b : BitVec 6) (i : BitVec 1) (s : State) : Host.Outcome State Fault Refusal :=
  scalar2 (fun a b => wordOf (a.toInt * b.toInt / 2 ^ 64)) z d a b i s
/-- `smulhu` (R530). -/
def execSmulhu (z : BitVec 1) (d a b : BitVec 6) (i : BitVec 1) (s : State) : Host.Outcome State Fault Refusal :=
  scalar2 (fun a b => BitVec.ofNat 64 (a.toNat * b.toNat / 2 ^ 64)) z d a b i s
/-- `srotl` (R532). -/
def execSrotl (z : BitVec 1) (d a b : BitVec 6) (i : BitVec 1) (s : State) : Host.Outcome State Fault Refusal :=
  scalar2 (fun a b => a.rotateLeft (b.toNat % 64)) z d a b i s
/-- `srotr` (R532). -/
def execSrotr (z : BitVec 1) (d a b : BitVec 6) (i : BitVec 1) (s : State) : Host.Outcome State Fault Refusal :=
  scalar2 (fun a b => a.rotateRight (b.toNat % 64)) z d a b i s

/-- `saddi` (R529). -/
def execSaddi (z : BitVec 1) (d a : BitVec 6) (i : BitVec 13) (s : State) : Host.Outcome State Fault Refusal :=
  withCur s fun c t => finishShort s c t z [.s d.toNat (rdS t c a.toNat + wordOf (immOf c 13 i.toNat))] 1

/-- `sdiv` (R530, R531). -/
def execSdiv (z : BitVec 1) (d a b : BitVec 6) (i : BitVec 1) (s : State) : Host.Outcome State Fault Refusal :=
  scalarDiv (fun a b => wordOf (Int.tdiv a.toInt b.toInt)) z d a b i s
/-- `sdivu` (R530, R531). -/
def execSdivu (z : BitVec 1) (d a b : BitVec 6) (i : BitVec 1) (s : State) : Host.Outcome State Fault Refusal :=
  scalarDiv (fun a b => BitVec.ofNat 64 (a.toNat / b.toNat)) z d a b i s
/-- `srem` (R530, R531). -/
def execSrem (z : BitVec 1) (d a b : BitVec 6) (i : BitVec 1) (s : State) : Host.Outcome State Fault Refusal :=
  scalarDiv (fun a b => wordOf (Int.tmod a.toInt b.toInt)) z d a b i s
/-- `sremu` (R530, R531). -/
def execSremu (z : BitVec 1) (d a b : BitVec 6) (i : BitVec 1) (s : State) : Host.Outcome State Fault Refusal :=
  scalarDiv (fun a b => BitVec.ofNat 64 (a.toNat % b.toNat)) z d a b i s

/-- `sclz` (R532). -/
def execSclz (z : BitVec 1) (d a : BitVec 6) (s : State) : Host.Outcome State Fault Refusal :=
  scalar1 (fun a => BitVec.ofNat 64 (clz 64 a.toNat)) z d a s
/-- `sctz` (R532). -/
def execSctz (z : BitVec 1) (d a : BitVec 6) (s : State) : Host.Outcome State Fault Refusal :=
  scalar1 (fun a => BitVec.ofNat 64 (ctzFrom a.toNat 0 64)) z d a s
/-- `spopc` (R532). -/
def execSpopc (z : BitVec 1) (d a : BitVec 6) (s : State) : Host.Outcome State Fault Refusal :=
  scalar1 (fun a => BitVec.ofNat 64 (popc a.toNat 64)) z d a s
/-- `sbrev` (R532). -/
def execSbrev (z : BitVec 1) (d a : BitVec 6) (s : State) : Host.Outcome State Fault Refusal :=
  scalar1 (fun a => mirror a) z d a s
/-- `sbswap` (R532). -/
def execSbswap (z : BitVec 1) (d a : BitVec 6) (s : State) : Host.Outcome State Fault Refusal :=
  scalar1 (fun a => swapBytes a) z d a s

end Sys2Proof.Machine
end

