-- ==== Sys2Proof/Machine/Sfu.lean ====
section
/-! DEFINITION. The special function unit (R561, R562): major 0x10. The spec bounds the FP32 result and leaves the value
within the bound free; the value here is `Config.sfu` wherever that lies inside the bound. -/

namespace Sys2Proof.Machine

/-! Reals stand as integers with 300 fraction bits; every error made here is below 2^-190. -/

def fixOne : Int := 2 ^ 300

/-- ln 2 with 300 fraction bits: 2 Σ (1/3)^(2k+1) / (2k+1). -/
def fixLn2 : Int := 2 * (List.range 96).foldl (fun (a : Int) (k : Nat) => a + fixOne / ((3 : Int) ^ (2 * k + 1) * (2 * (k : Int) + 1))) 0

/-- arctan (1/n) with 300 fraction bits. -/
def fixAtan (n : Int) : Int :=
  (List.range 140).foldl (fun (a : Int) (k : Nat) => a + (if k % 2 = 0 then 1 else -1) * (fixOne / (n ^ (2 * k + 1) * (2 * (k : Int) + 1)))) 0
/-- π with 300 fraction bits, by Machin's formula. -/
def fixPi : Int := 16 * fixAtan 5 - 4 * fixAtan 239

/-- e^x for 0 ≤ x with 300 fraction bits, x below 2^9. -/
def fixExp (x : Nat) : Nat :=
  fixPow (expTerms (2 ^ 300) 80 1 (2 ^ 300) 0) (x / 2 ^ 300) * expTerms (x % 2 ^ 300) 80 1 (2 ^ 300) 0 / 2 ^ 300

/-- 2^x with 300 fraction bits, for x between −300 and 200. -/
def fixExp2 (x : Int) : Int :=
  let i := x / fixOne
  let f := (x % fixOne) * fixLn2 / fixOne
  let m : Int := fixExp f.toNat
  if i ≥ 0 then m * 2 ^ i.toNat else m / 2 ^ (-i).toNat

/-- Fraction bits of log2 of m in [1, 2) by repeated squaring. -/
def log2Bits : Nat → Nat → Nat → Nat
  | 0, _, acc => acc
  | k + 1, m, acc =>
    let q := m * m / 2 ^ 300
    if q ≥ 2 ^ 301 then log2Bits k (q / 2) (2 * acc + 1) else log2Bits k q (2 * acc)

/-- log2 of s × 2^e, s > 0, to 100 fraction bits, scaled by 2^300. -/
def fixLog2 (s : Nat) (e : Int) : Int :=
  let n := Nat.log2 s
  let m := s * 2 ^ 300 / 2 ^ n
  (e + n) * fixOne + (log2Bits 100 m 0 : Nat) * 2 ^ 200

/-- Σ (−1)^k r^(2k+o) / (2k+o)!, the sine (o = 1) or cosine (o = 0) of r in [0, 2π). -/
def fixTrig : Nat → Nat → Int → Int → Int → Int
  | 0, _, _, _, acc => acc
  | n + 1, i, r, term, acc => fixTrig n (i + 2) r (-(term * r / fixOne * r / fixOne) / ((i + 1 : Nat) * (i + 2 : Nat))) (acc + term)
/-- sin x or cos x. -/
def fixSin (x : Int) : Int := let r := x % (2 * fixPi); fixTrig 60 1 r r 0
def fixCos (x : Int) : Int := let r := x % (2 * fixPi); fixTrig 60 0 r fixOne 0

/-- tanh x. -/
def fixTanh (x : Int) : Int :=
  let a := x.natAbs
  if a ≥ 50 * 2 ^ 300 then (if x < 0 then -fixOne else fixOne)
  else
    let t : Int := fixExp (2 * a)
    let v := (t - fixOne) * fixOne / (t + fixOne)
    if x < 0 then -v else v

/-- The exact function of a finite FP32 source ±s × 2^e that is not zero, with 300 fraction bits (R561); `none` where the
result overflows FP32. -/
def sfuExact (fn : Nat) (neg : Bool) (s : Nat) (e : Int) : Option Int :=
  let m : Int := s * 2 ^ (e + 300).toNat
  let x := if neg then -m else m
  match fn with
  | 0 => some (2 ^ 600 / x)
  | 1 => let q := 2 ^ 900 / m.toNat; some (isqrt (Nat.log2 q / 2 + 1) q 0 : Nat)
  | 2 => if e + Nat.log2 s ≥ 8 then (if neg then some 0 else none)
         else if x ≥ 128 * fixOne then none else some (fixExp2 x)
  | 3 => some (fixLog2 s e)
  | 4 => some (fixSin x)
  | 5 => some (fixCos x)
  | _ => some (fixTanh x)

/-- An FP32 code as an integer with 300 fraction bits. -/
def fixOf (v : Nat) : Option Int :=
  match fp32.decode v with
  | .fin n s e => some (let m : Int := s * 2 ^ (e + 300).toNat; if n then -m else m)
  | _ => none

/-- One unit in the last place of FP32 at a value. -/
def fixUlp (a : Int) : Int := 2 ^ (max (Nat.log2 a.natAbs) 174 - 23)

/-- R561: the bound of a function at exact value `a` of source value x. -/
def sfuBound (fn : Nat) (x a : Int) : Int :=
  match fn with
  | 0 => fixUlp a
  | 1 => fixUlp a
  | 2 => if x % fixOne = 0 ∧ -149 * fixOne ≤ x then 0 else 2 * fixUlp a
  | 3 => if x = fixOne then 0 else if fixOne / 2 ≤ x ∧ x ≤ 2 * fixOne then max (2 * fixUlp a) (2 ^ 278) else 2 * fixUlp a
  | 6 => 2 ^ 278
  | _ => 2 ^ 279

/-- The FP32 value nearest to one with 300 fraction bits. -/
def fixRound (a : Int) : Nat := fp32.round {} (decide (a < 0)) a.natAbs (-300) false

/-- R561, R562: the FP32 code of a special function: `src` tells the source code, type and `ftz` for the free value. -/
def sfuValue (fn : Nat) (ty : Nat) (ftz : Bool) (src : Nat) (v : Fp) : Nat :=
  let inf (n : Bool) := fp32.infBits n
  let zero (n : Bool) := fp32.signed n 0
  let nan := fp32.nanBits
  match v with
  | .nan => nan
  | .inf n =>
    match fn with
    | 0 => zero n
    | 1 => if n then nan else zero false
    | 2 => if n then zero false else inf false
    | 3 => if n then nan else inf false
    | 6 => if n then 0xBF800000 else 0x3F800000
    | _ => nan
  | .fin n s e =>
    if s = 0 then
      match fn with
      | 0 | 1 => inf n
      | 2 | 5 => 0x3F800000
      | 3 => inf true
      | _ => zero n
    else if n ∧ (fn = 1 ∨ fn = 3) then nan
    else if (fn = 4 ∨ fn = 5) ∧ e + Nat.log2 s ≥ 15 then nan
    else
      match sfuExact fn n s e with
      | none => inf false
      | some a =>
        let x : Int := let m : Int := s * 2 ^ (e + 300).toNat; if n then -m else m
        let w := (Config.sfu fn ty ftz src).toNat
        match fixOf w with
        | some b => if sfuBound fn x a ≠ 0 ∧ |b - a| ≤ sfuBound fn x a then w else fixRound a
        | none => fixRound a

/-- R561: the result in the type: rounded once under `rne`; a finite value beyond the range follows `sat`. -/
def sfuResult (fn : Nat) (f : FFmt) (ty : Nat) (sat ftz : Bool) (src : Nat) : Nat :=
  let code := f.flush ftz src
  let v := f.decode code
  let r := sfuValue fn ty ftz src v
  let exactInf := match v with
    | .inf _ => true
    | .fin _ s _ => s = 0
    | .nan => false
  match fp32.decode r with
  | .inf n => if sat && !exactInf then f.signed n f.maxCode else f.infBits n
  | x => f.ofFp { sat := sat, ftz := ftz } x

/-- R561: a special function instruction: a long result. -/
def sfuOp (fn : Nat) (z : BitVec 1) (d a : BitVec 6) (ty : BitVec 3) (s : State) : Host.Outcome State Fault Refusal :=
  withCur s fun c t =>
    let f := fltFmt ty.toNat t.regs.fmt
    let w := fltW ty.toNat
    let A := fun l => srcLane t c 0 a.toNat (64 / w) l (rdV t c d.toNat l)
    let r := fun l j => sfuResult fn f ty.toNat (fmtSat t.regs.fmt) (fmtFtz t.regs.fmt) (sub (A l) w j)
    laneFp s c t z d.toNat true (fun l => mapSubs w (r l)) fun l =>
      (List.range (64 / w)).any fun j => diverts t f (sub (A l) w j) || diverts t f (r l j)

/-- `vrcp` (R561, R562). -/
def execVrcp (z : BitVec 1) (d a : BitVec 6) (ty : BitVec 3) (s : State) : Host.Outcome State Fault Refusal := sfuOp 0 z d a ty s
/-- `vrsqrt` (R561, R562). -/
def execVrsqrt (z : BitVec 1) (d a : BitVec 6) (ty : BitVec 3) (s : State) : Host.Outcome State Fault Refusal := sfuOp 1 z d a ty s
/-- `vexp2` (R561, R562). -/
def execVexp2 (z : BitVec 1) (d a : BitVec 6) (ty : BitVec 3) (s : State) : Host.Outcome State Fault Refusal := sfuOp 2 z d a ty s
/-- `vlog2` (R561, R562). -/
def execVlog2 (z : BitVec 1) (d a : BitVec 6) (ty : BitVec 3) (s : State) : Host.Outcome State Fault Refusal := sfuOp 3 z d a ty s
/-- `vsin` (R561, R562). -/
def execVsin (z : BitVec 1) (d a : BitVec 6) (ty : BitVec 3) (s : State) : Host.Outcome State Fault Refusal := sfuOp 4 z d a ty s
/-- `vcos` (R561, R562). -/
def execVcos (z : BitVec 1) (d a : BitVec 6) (ty : BitVec 3) (s : State) : Host.Outcome State Fault Refusal := sfuOp 5 z d a ty s
/-- `vtanh` (R561, R562). -/
def execVtanh (z : BitVec 1) (d a : BitVec 6) (ty : BitVec 3) (s : State) : Host.Outcome State Fault Refusal := sfuOp 6 z d a ty s

end Sys2Proof.Machine
end

