-- ==== Sys2Proof/Machine/VecInt.lean ====
section
/-! DEFINITION. Vector integer instructions (R538 to R549): majors 0x08 to 0x0B. -/

namespace Sys2Proof.Machine

/-- R545: a lane-wise operation of two sources, sub-element by sub-element: `f` on the raw sub-elements of type `ty`. -/
def vint2 (f : Nat → Nat → Nat) (z : BitVec 1) (d a b : BitVec 6) (ty : BitVec 3) (s : State) : Host.Outcome State Fault Refusal :=
  withCur s fun c t =>
    let w := intW ty.toNat
    laneShort s c t z d.toNat fun l =>
      let x := srcLane t c 0 a.toNat (64 / w) l (rdV t c d.toNat l)
      let y := srcLane t c 1 b.toNat (64 / w) l (rdV t c d.toNat l)
      mapSubs w fun j => f (sub x w j) (sub y w j)

/-- R545: a lane-wise operation of one source. -/
def vint1 (f : Nat → Nat) (z : BitVec 1) (d a : BitVec 6) (ty : BitVec 3) (s : State) : Host.Outcome State Fault Refusal :=
  withCur s fun c t =>
    let w := intW ty.toNat
    laneShort s c t z d.toNat fun l =>
      let x := srcLane t c 0 a.toNat (64 / w) l (rdV t c d.toNat l)
      mapSubs w fun j => f (sub x w j)

/-- An integer operation on the values a type gives its sub-elements, modulo 2^b. -/
def onInt (t : Nat) (f : Int → Int → Int) (x y : Nat) : Nat := wrap (intW t) (f (intVal t x) (intVal t y))

/-- `vadd` (R546). -/
def execVadd (z : BitVec 1) (d a b : BitVec 6) (ty : BitVec 3) (s : State) : Host.Outcome State Fault Refusal :=
  vint2 (onInt ty.toNat fun a b => a + b) z d a b ty s
/-- `vsub` (R546). -/
def execVsub (z : BitVec 1) (d a b : BitVec 6) (ty : BitVec 3) (s : State) : Host.Outcome State Fault Refusal :=
  vint2 (onInt ty.toNat fun a b => a - b) z d a b ty s
/-- `vadds` (R546). -/
def execVadds (z : BitVec 1) (d a b : BitVec 6) (ty : BitVec 3) (s : State) : Host.Outcome State Fault Refusal :=
  vint2 (fun x y => satInt ty.toNat (intVal ty.toNat x + intVal ty.toNat y)) z d a b ty s
/-- `vsubs` (R546). -/
def execVsubs (z : BitVec 1) (d a b : BitVec 6) (ty : BitVec 3) (s : State) : Host.Outcome State Fault Refusal :=
  vint2 (fun x y => satInt ty.toNat (intVal ty.toNat x - intVal ty.toNat y)) z d a b ty s
/-- `vmin` (R546). -/
def execVmin (z : BitVec 1) (d a b : BitVec 6) (ty : BitVec 3) (s : State) : Host.Outcome State Fault Refusal :=
  vint2 (onInt ty.toNat min) z d a b ty s
/-- `vmax` (R546). -/
def execVmax (z : BitVec 1) (d a b : BitVec 6) (ty : BitVec 3) (s : State) : Host.Outcome State Fault Refusal :=
  vint2 (onInt ty.toNat max) z d a b ty s
/-- `vsll` (R546). -/
def execVsll (z : BitVec 1) (d a b : BitVec 6) (ty : BitVec 3) (s : State) : Host.Outcome State Fault Refusal :=
  vint2 (fun x y => x * 2 ^ (y % intW ty.toNat)) z d a b ty s
/-- `vsrl` (R546). -/
def execVsrl (z : BitVec 1) (d a b : BitVec 6) (ty : BitVec 3) (s : State) : Host.Outcome State Fault Refusal :=
  vint2 (fun x y => x / 2 ^ (y % intW ty.toNat)) z d a b ty s
/-- `vsra` (R546). -/
def execVsra (z : BitVec 1) (d a b : BitVec 6) (ty : BitVec 3) (s : State) : Host.Outcome State Fault Refusal :=
  vint2 (fun x y => wrap (intW ty.toNat) (sext (intW ty.toNat) x / 2 ^ (y % intW ty.toNat))) z d a b ty s
/-- `vcmpeq` (R546). -/
def execVcmpeq (z : BitVec 1) (d a b : BitVec 6) (ty : BitVec 3) (s : State) : Host.Outcome State Fault Refusal :=
  vint2 (fun x y => boolSub (intW ty.toNat) (x = y)) z d a b ty s
/-- `vcmplt` (R546). -/
def execVcmplt (z : BitVec 1) (d a b : BitVec 6) (ty : BitVec 3) (s : State) : Host.Outcome State Fault Refusal :=
  vint2 (fun x y => boolSub (intW ty.toNat) (intVal ty.toNat x < intVal ty.toNat y)) z d a b ty s
/-- `vcmple` (R546). -/
def execVcmple (z : BitVec 1) (d a b : BitVec 6) (ty : BitVec 3) (s : State) : Host.Outcome State Fault Refusal :=
  vint2 (fun x y => boolSub (intW ty.toNat) (intVal ty.toNat x ≤ intVal ty.toNat y)) z d a b ty s
/-- `vmul` (R548). -/
def execVmul (z : BitVec 1) (d a b : BitVec 6) (ty : BitVec 3) (s : State) : Host.Outcome State Fault Refusal :=
  vint2 (onInt ty.toNat fun a b => a * b) z d a b ty s
/-- `vmulh` (R548). -/
def execVmulh (z : BitVec 1) (d a b : BitVec 6) (ty : BitVec 3) (s : State) : Host.Outcome State Fault Refusal :=
  vint2 (onInt ty.toNat fun a b => a * b / 2 ^ intW ty.toNat) z d a b ty s
/-- `vand` (R549). -/
def execVand (z : BitVec 1) (d a b : BitVec 6) (ty : BitVec 3) (s : State) : Host.Outcome State Fault Refusal :=
  vint2 (fun x y => x &&& y) z d a b ty s
/-- `vor` (R549). -/
def execVor (z : BitVec 1) (d a b : BitVec 6) (ty : BitVec 3) (s : State) : Host.Outcome State Fault Refusal :=
  vint2 (fun x y => x ||| y) z d a b ty s
/-- `vxor` (R549). -/
def execVxor (z : BitVec 1) (d a b : BitVec 6) (ty : BitVec 3) (s : State) : Host.Outcome State Fault Refusal :=
  vint2 (fun x y => x ^^^ y) z d a b ty s
/-- `vabs` (R546). -/
def execVabs (z : BitVec 1) (d a : BitVec 6) (ty : BitVec 3) (s : State) : Host.Outcome State Fault Refusal :=
  vint1 (fun x => wrap (intW ty.toNat) |intVal ty.toNat x|) z d a ty s
/-- `vneg` (R546). -/
def execVneg (z : BitVec 1) (d a : BitVec 6) (ty : BitVec 3) (s : State) : Host.Outcome State Fault Refusal :=
  vint1 (fun x => wrap (intW ty.toNat) (-intVal ty.toNat x)) z d a ty s
/-- `vnot` (R549). -/
def execVnot (z : BitVec 1) (d a : BitVec 6) (ty : BitVec 3) (s : State) : Host.Outcome State Fault Refusal :=
  vint1 (fun x => 2 ^ intW ty.toNat - 1 - x) z d a ty s
/-- `vpopc` (R549). -/
def execVpopc (z : BitVec 1) (d a : BitVec 6) (ty : BitVec 3) (s : State) : Host.Outcome State Fault Refusal :=
  vint1 (fun x => popc x (intW ty.toNat)) z d a ty s

/-- `vaddi` (R547). -/
def execVaddi (z : BitVec 1) (d a : BitVec 6) (i : BitVec 10) (ty : BitVec 3) (s : State) : Host.Outcome State Fault Refusal :=
  withCur s fun c t =>
    let w := intW ty.toNat
    let imm := wrap w (immOf c 10 i.toNat)
    laneShort s c t z d.toNat fun l =>
      let x := srcLane t c 0 a.toNat (64 / w) l (rdV t c d.toNat l)
      mapSubs w fun j => sub x w j + imm

/-- R548: a lane-wise operation with a third operand, the fourth register or the old destination: `f` on two source lanes
and that one. -/
def vint3 (f : Word → Word → Word → Word) (n : Nat) (z : BitVec 1) (d a b : BitVec 6) (s : State) : Host.Outcome State Fault Refusal :=
  withCur s fun c t =>
    laneShort s c t z d.toNat fun l =>
      let old := rdV t c d.toNat l
      f (srcLane t c 0 a.toNat n l old) (srcLane t c 1 b.toNat n l old) (rdV t c (c.freg.getD d.toNat) l)

/-- `vmadd` (R548). -/
def execVmadd (z : BitVec 1) (d a b : BitVec 6) (ty : BitVec 3) (s : State) : Host.Outcome State Fault Refusal :=
  let w := intW ty.toNat
  vint3 (fun x y k => mapSubs w fun j => sub x w j * sub y w j + sub k w j) (64 / w) z d a b s

/-- `vdot4` (R548): codes 1 and 5 only. -/
def execVdot4 (z : BitVec 1) (d a b : BitVec 6) (ty : BitVec 3) (s : State) : Host.Outcome State Fault Refusal :=
  let bt := if ty = 1 then 3 else 7
  vint3 (fun x y k => mapSubs 32 fun j =>
    wrap 32 (sub k 32 j + (List.range 4).foldl (fun n i => n + intVal bt (sub x 8 (4 * j + i)) * intVal bt (sub y 8 (4 * j + i))) 0))
    2 z d a b s

/-- `vwmul` (R548): the low half of each lane. -/
def execVwmul (z : BitVec 1) (d a b : BitVec 6) (ty : BitVec 3) (s : State) : Host.Outcome State Fault Refusal :=
  let w := intW ty.toNat
  withCur s fun c t =>
    laneShort s c t z d.toNat fun l =>
      let old := rdV t c d.toNat l
      let x := srcLane t c 0 a.toNat (64 / w) l old
      let y := srcLane t c 1 b.toNat (64 / w) l old
      mapSubs (2 * w) fun j => wrap (2 * w) (intVal ty.toNat (sub x w j) * intVal ty.toNat (sub y w j))

end Sys2Proof.Machine
end

