-- ==== Sys2Proof/Machine/Window.lean ====
section
/-! DEFINITION. What a host reads and writes: launch registers, the register windows of VFs and PF, and the memory aperture (R99, R106,
R107, R109 to R116, R124, R126, R127, R129 to R134, R151, R436, R437, R442 to R449). -/

namespace Sys2Proof.Machine

/-! ## Launching (R113 to R115) -/

/-- R113, R114: a write to a launch register; R100, R96, R137: one of an unassigned, frozen or resetting VF is dropped. The first one
after `viral_clr` lets the partition admit again (R86). DESIGN CHOICE (log 220): a queued launch and `ctx_assign` alone end that a VF is freshly
reset, of which R100 does not say when it ends. -/
def State.lregWrite (s : State) (c i : Nat) (v : Word) (bytes : Nat) : State :=
  let x := s.ctx c
  match x.part with
  | none => s
  | some p =>
    if !s.mil.served || c ≥ 1024 || i ≥ 16 || x.vfFrozen || x.resetting.isSome || (s.part p).resetting then s
    else if bytes < 8 then s.modStream c i fun q => { q with werr := true }
    else if 64 ≤ (x.stream i).pend.length then s.modStream c i fun q => { q with ovf := true }
    else ((s.enqueue c i v none).modCtx c fun x => { x with fresh := false }).modPart p fun P => { P with vblock := false }
/-- `LREG_WRITE` (R113, R114). -/
def execLregWrite (s : State) : Host.Outcome State Fault Refusal := .next (s.lregWrite s.arg.n0 s.arg.n1 s.arg.v s.arg.n2)

/-- R124: `cbase`. -/
def State.cbaseWrite (s : State) (c : Nat) (v : Word) : State :=
  if !s.mil.served || c ≥ 1024 || (s.ctx c).vfFrozen || s.launches.any (fun l => l.2.head.ctx = c && l.2.uncommitted) then s
  else s.modCtx c fun x => { x with cbase := v &&& 0x01FFFFFFFFFFF00F, cprod := 0, ccons := 0 }
/-- `CBASE_WRITE` (R124). -/
def execCbaseWrite (s : State) : Host.Outcome State Fault Refusal := .next (s.cbaseWrite s.arg.n0 s.arg.v)

/-! ## Traces (R446, R449) -/

/-- R449: room has come back: first a loss summary, then the held records in order. -/
def State.drainTrace (s : State) (p : Nat) : Nat → State
  | 0 => s
  | n + 1 =>
    let P := s.part p
    if !P.traceRoom then s
    else if P.conf.lost ≠ 0 then
      ((s.writeTrace p wideRec 6 s.now (BitVec.ofNat 128 P.conf.lost)).modPart p fun P => { P with conf := { P.conf with lost := 0 } }).drainTrace p n
    else match P.conf.hold with
      | [] => s
      | r :: l =>
        let w := r.toNat
        ((s.modPart p fun P => { P with conf := { P.conf with hold := l } }).writeTrace p (bits w 39 30) (bits w 7 0) (bits w 127 64) (BitVec.ofNat 128 (w / 2 ^ 128))).drainTrace p n
/-- `trcons`. -/
def State.trconsWrite (s : State) (p v : Nat) : State :=
  let s := s.modPart p fun P => { P with conf := { P.conf with trcons := v } }
  s.drainTrace p ((s.part p).conf.hold.length + 2)

/-! ## The VF window (R109 to R112, R127, R129) and the debug window (R436, R437, R441, R444, R448) -/

/-- R437: `dbgctl`. -/
def State.dbgctlWrite (s : State) (c v : Nat) : State :=
  let s := s.modDbg c fun d => { d with att := bit v 8 }
  let s := if bit v 2 then s.endHalt c (bit v 4) else s
  let s := if bit v 3 then s.stepSel c (bit v 4) else s
  if bit v 1 then s.askHalt c else s
/-- R436: a write to the debug window, by offset. -/
def State.dbgWrite (s : State) (c off : Nat) (v : Word) : State :=
  let n := v.toNat
  let i := fun (b k : Nat) => (off - b) / k
  if off = 0x1000 then s.dbgctlWrite c n
  else if off = 0x1010 then s.modDbg c fun d => { d with sel := v &&& 0xF0000000000FFFFF }
  else if off = 0x1018 then s.modDbg c fun d => { d with addr := v }
  else if off = 0x1020 then s.dbgAccess c (some v)
  else if off = 0x1028 then s.modDbg c fun d => { d with tvec := v &&& 0x80000000FFFFFFFC }
  else if off = 0x1038 then s.modDbg c fun d => { d with evcons := n }
  else if off = 0x1040 then s.modDbg c fun d => { d with evirq := v &&& 0xF1, evovf := d.evovf && !bit n 63 }
  else if off = 0x1050 then (match (s.ctx c).part with | some p => s.trconsWrite p n | none => s)
  else if off = 0x1058 then s.modDbg c fun d => { d with trctl := v &&& 0x1F1F07 }
  else if 0x1080 ≤ off ∧ off < 0x10C0 then s.modDbg c fun d => { d with bpt := Tbl.put d.bpt (i 0x1080 8) (v &&& 0x800003FFFFFFFFFF) }
  else if 0x10C0 ≤ off ∧ off < 0x1100 then
    if (off / 8) % 2 = 0 then s.modDbg c fun d => { d with wpta := Tbl.put d.wpta (i 0x10C0 16) (v &&& 0x01FFFFFFFFFFFFFF) }
    else s.modDbg c fun d => { d with wptc := Tbl.put d.wptc (i 0x10C8 16) (v &&& 0x8000000000000007), wptAt := Tbl.put d.wptAt (i 0x10C8 16) s.now }
  else if 0x1100 ≤ off ∧ off < 0x1180 then
    s.modCtx c fun x =>
      let k := i 0x1100 8
      let old := (Tbl.getD x.perf.sel k 0).toNat
      let ovf := bit old 63 && !bit n 63
      { x with perf := { x.perf with sel := Tbl.put x.perf.sel k ((v &&& 0x803F) ||| BitVec.ofNat 64 (b2n ovf * 2 ^ 63)) } }
  else if 0x1180 ≤ off ∧ off < 0x1200 then s.modCtx c fun x => { x with perf := x.perf.setVal (i 0x1180 8) (v.setWidth 48) }
  else s
/-- R109: a write of 64 bits to a VF's window. -/
def State.vfWrite (s : State) (c off : Nat) (v : Word) : State :=
  let n := v.toNat
  let st := fun (b : Nat) => (off - b) / 8
  if c ≥ 1024 || off % 8 ≠ 0 || (s.ctx c).vfFrozen || !s.mil.served then s
  else if off < 0x80 then s.lregWrite c (off / 8) v 8
  else if off < 0x100 then s.modStream c (st 0x80) fun q => { q with werr := q.werr && !bit n 1, ovf := q.ovf && !bit n 0 }
  else if off = 0x100 then s.cbaseWrite c v
  else if off = 0x110 then s.modCtx c fun x => { x with ccons := n }
  else if 0x180 ≤ off ∧ off < 0x200 then s.modStream c (st 0x180) fun q => { q with sirq := v &&& 0xF3 }
  else if off = 0x200 then s.modCtx c fun x => { x with vlost := x.vlost && !bit n 1 }
  else if off = 0x210 then s.modCtx c fun x => { x with aperr := x.aperr && !bit n 7, cerr := x.cerr && !bit n 1 }
  else if 0x400 ≤ off ∧ off < 0x600 then s.modCtx c fun x => { x with apt := Tbl.put x.apt (st 0x400) (v &&& 0x01FFFFFFC0000001) }
  else if 0x1000 ≤ off ∧ off < 0x2000 then s.dbgWrite c off v
  else s

/-! ## The PF window (R40, R106, R107, R151) -/

/-- What a meaning comes to with operands of its own. -/
def State.having (s : State) (a : Arg) (f : State → Host.Outcome State Fault Refusal) : State :=
  match f { s with arg := a } with | .next t => t | _ => s
/-- R106, R151: a write of 64 bits to the PF's window. -/
def State.pfWrite (s : State) (off : Nat) (v : Word) : State :=
  let n := v.toNat
  if off = 0x0F00 then s.frzCtl n
  else if off % 8 ≠ 0 || !s.mil.served then s
  else if off < 0x40 then
    { s with mil := { s.mil with req := (s.mil.req &&& ~~~((0xFFFFFFFFFFFFFFFF : BitVec 512) <<< (8 * off))) ||| (v.setWidth 512 <<< (8 * off)) } }
  else if off = 0x40 then (if bit n 0 then s.mbxGo else s)
  else if off = 0x0E00 then { s with xlat := { s.xlat with ctab := v &&& 0x000FFFFFFFFFC000 } }
  else if off = 0x0E08 then s.having { v := v } execGownWrite
  else if off = 0x0E20 then { s with xlat := { s.xlat with tmva := v &&& 0x01FFFFFFFFFFF000 } }
  else if off = 0x0E28 then s.having { v := v } execTmvdWrite
  else if off = 0x0E40 then { s with xlat := { s.xlat with tiva := v &&& 0x01FFFFFFFFFFF03F } }
  else if off = 0x0E48 then s.having { v := v } execTictlWrite
  else s
/-- `REGISTER_WRITE` (R99, R106, R109): to a VF's window, or to the PF's. -/
def execRegisterWrite (s : State) : Host.Outcome State Fault Refusal :=
  .next (match s.arg.opt with | some c => s.vfWrite c s.arg.n0 s.arg.v | none => s.pfWrite s.arg.n0 s.arg.v)

/-! ## Reads -/

/-- R132: the Kyevelos DVSEC in configuration space: its ID, and the BAR index and the offset of the capability block that it gives. -/
def capDvsec : Nat × Nat × Nat := (0x0001, 0, 0x3000)
/-- R132, R133: the quadwords of the capability block of a context, or of the PF. DESIGN CHOICE (log 37): R134 gives an unassigned VF no list, and
it shows the PF's. -/
def State.capBlock (s : State) (p : Option Nat) : List Nat :=
  let l := match p with
    | some p => capList s p
    | none => capQuads ((capEntries s 64).map fun (e : Nat × List Nat) => if e.1 = 2 then (2, [64, 1024, 0, 0]) else e) 0
  l.flatMap Prod.snd
/-- R111: a master of the context is frozen. -/
def State.ctxFrozen (s : State) (c : Nat) : Bool :=
  (s.ctx c).vfFrozen || s.teams.any (fun t => t.2.id.ctx = c && !t.2.id.foreign && t.2.sched.frozen.isSome) ||
    s.clusters.any fun x => x.2.cards.any fun k => k.ctx = c && k.frozen.isSome
/-- R111: `ctxstat`. -/
def State.ctxstat (s : State) (c : Nat) : Nat :=
  let x := s.ctx c
  b2n x.aperr * 128 + b2n (s.ctxFrozen c) * 64 + b2n (x.crecs ≠ [] && !x.roomFor) * 32 + b2n (decide (64 ≤ x.crecs.length)) * 16 +
    b2n (x.tdi = .locked || x.tdi = .run) * 8 + b2n x.cerr * 2 + b2n x.part.isNone
/-- R437: `dbgstat`. -/
def State.dbgstat (s : State) (c : Nat) : Nat :=
  let d := (s.ctx c).dbg
  let all := (s.dbgTeams c).all fun t => t.2.sched.halted
  d.fcause % 256 * 256 + b2n d.fatal * 8 + b2n d.stepped * 4 + b2n (d.halted && all) * 2 + b2n d.halting
/-- R436: a read of the debug window. -/
def State.dbgWinRead (s : State) (c off : Nat) : Nat :=
  let x := s.ctx c
  let d := x.dbg
  let f := fun (t : Tbl (BitVec 64)) (k : Nat) => (Tbl.getD t k 0).toNat
  match off with
  | 0x1000 => b2n d.att * 256
  | 0x1008 => s.dbgstat c
  | 0x1010 => d.sel.toNat
  | 0x1018 => d.addr.toNat
  | 0x1020 => (s.dbgRead c).toNat
  | 0x1028 => d.tvec.toNat
  | 0x1030 => d.evprod
  | 0x1038 => d.evcons
  | 0x1040 => d.evirq.toNat + b2n d.evovf * 2 ^ 63
  | 0x1048 => (match x.part with | some p => (s.part p).conf.trprod | none => 0)
  | 0x1050 => (match x.part with | some p => (s.part p).conf.trcons | none => 0)
  | 0x1058 => d.trctl.toNat
  | _ =>
    if 0x1080 ≤ off ∧ off < 0x10C0 then f d.bpt ((off - 0x1080) / 8)
    else if 0x10C0 ≤ off ∧ off < 0x1100 then (if off / 8 % 2 = 0 then f d.wpta ((off - 0x10C0) / 16) else f d.wptc ((off - 0x10C8) / 16))
    else if 0x1100 ≤ off ∧ off < 0x1180 then f x.perf.sel ((off - 0x1100) / 8)
    else if 0x1180 ≤ off ∧ off < 0x1200 then s.perfRead c ((off - 0x1180) / 8)
    else if 0x1200 ≤ off ∧ off < 0x1300 then (Tbl.getD d.ring ((off - 0x1200) / 16) 0).toNat / 2 ^ (64 * (off / 8 % 2))
    else 0
/-- R109 to R112: a read of 64 bits of a VF's window. -/
def State.vfRead (s : State) (c off : Nat) : Word :=
  let x := s.ctx c
  if x.vfFrozen then BitVec.allOnes 64
  else if off % 8 ≠ 0 then 0
  else BitVec.ofNat 64 (
    if 0x80 ≤ off ∧ off < 0x100 then
      let q := x.stream ((off - 0x80) / 8)
      q.adm % 65536 * 2 ^ 48 + q.done % 65536 * 2 ^ 32 + q.pend.length * 2 ^ 8 + b2n q.werr * 2 + b2n q.ovf
    else if off = 0x100 then x.cbase.toNat
    else if off = 0x108 then x.cprod
    else if off = 0x110 then x.ccons
    else if 0x180 ≤ off ∧ off < 0x200 then (x.stream ((off - 0x180) / 8)).sirq.toNat
    else if off = 0x200 then x.vcause % 256 * 256 + b2n x.vlost * 2 + b2n x.viral
    else if off = 0x208 then x.vtime
    else if off = 0x210 then s.ctxstat c
    else if off = 0x218 then 0x3000
    else if off = 0x220 then c % 1024 + (x.part.getD 0) * 2 ^ 16 + b2n (decide (s.fitting = .w9l)) * 2 ^ 24
    else if 0x400 ≤ off ∧ off < 0x600 then (Tbl.getD x.apt ((off - 0x400) / 8) 0).toNat
    else if 0x1000 ≤ off ∧ off < 0x2000 then s.dbgWinRead c off
    else if capDvsec.2.2 ≤ off ∧ off < 0x4000 then (s.capBlock x.part).getD ((off - capDvsec.2.2) / 8) 0
    else 0)
/-- R107, R151: a read of 64 bits of the PF's window. -/
def State.pfRead (s : State) (off : Nat) : Word :=
  let m := s.mil
  if off % 8 ≠ 0 then 0
  else BitVec.ofNat 64 (
    if off < 0x40 then m.req.toNat / 2 ^ (8 * off)
    else if off = 0x48 then m.seq % 2 ^ 32 * 2 ^ 32 + m.status % 256 * 256 + b2n m.busy
    else if 0x50 ≤ off ∧ off < 0x90 then m.resp.toNat / 2 ^ (8 * (off - 0x50))
    else if off = 0x0E00 then s.xlat.ctab.toNat
    else if off = 0x0E10 then s.xlat.gstat % 256 * 256 + b2n (s.xlat.gbusy ≠ [])
    else if off = 0x0E20 then s.xlat.tmva.toNat
    else if off = 0x0E30 then s.xlat.tmdone % 2 ^ 32 * 2 ^ 32 + s.xlat.tmcause % 256 * 256 + b2n (s.xlat.moves.any fun m => m.kv.isNone && m.pf)
    else if off = 0x0E40 then s.xlat.tiva.toNat
    else if off = 0x0E50 then s.xlat.tidone % 2 ^ 32 * 2 ^ 32 + b2n (s.xlat.invs.any fun i => !i.ats)
    else if capDvsec.2.2 ≤ off ∧ off < 0x4000 then (s.capBlock none).getD ((off - capDvsec.2.2) / 8) 0
    else 0)

/-! ## The aperture (R96, R129 to R131) -/

/-- R129: the virtual address that an enabled window shows at an offset of the aperture. -/
def Ctx.apVa (x : Ctx) (off : Nat) : Option Nat :=
  let e := (Tbl.getD x.apt (off / 2 ^ 30) 0).toNat
  if off < 2 ^ 36 ∧ bit e 0 then some (bits e 56 30 * 2 ^ 30 + off % 2 ^ 30) else none
/-- R131: an access that delivers nothing: a read returns all ones. -/
def State.apFail (s : State) (c len : Nat) (write : Bool) : State := if write then s else s.emit (.aperture c (List.replicate len 0xFF))
/-- An access arrives: through an enabled window of an assigned VF it is queued. -/
def State.apAccess (s : State) (c off len : Nat) (data : Option (List Byte)) : State :=
  let x := s.ctx c
  if c ≥ 1024 || !s.mil.served || len = 0 || off / 4096 ≠ (off + len - 1) / 4096 then s
  else if x.vfFrozen then s.apFail c len data.isSome
  else match x.apVa off with
    | some va =>
      if x.part.isNone then (s.modCtx c fun x => { x with aperr := true }).apFail c len data.isSome
      else
        let (n, s) := s.take
        s.modCtx c fun x => { x with aps := x.aps ++ [{ id := n, va := va, len := len, write := data }] }
    | none => (s.modCtx c fun x => { x with aperr := true }).apFail c len data.isSome
/-- `APERTURE_READ` (R130, R131). -/
def execApertureRead (s : State) : Host.Outcome State Fault Refusal := .next (s.apAccess s.arg.n0 s.arg.n1 s.arg.n2 none)
/-- `APERTURE_WRITE` (R130, R131). -/
def execApertureWrite (s : State) : Host.Outcome State Fault Refusal :=
  .next (s.apAccess s.arg.n0 s.arg.n1 s.arg.bytes.length (some s.arg.bytes))

/-- The first access of a context leaves the aperture. -/
def State.apPop (s : State) (c : Nat) : State := s.modCtx c fun x => { x with aps := x.aps.tail }
/-- What a translation of an aperture access that fails comes to. -/
def State.apEnd (s : State) (c : Nat) (a : ApAcc) (frozen : Option (Nat × Nat)) : State :=
  let s := (s.apPop c).apFail c a.len a.write.isSome
  match frozen with
  | some (va, r) => (s.modCtx c fun x => { x with vfFrozen := true }).violate c 7 c va r
  | none => s.modCtx c fun x => { x with aperr := true }
/-- R130: an aperture access goes on: its first in the order of arrival. -/
def State.apStep (s : State) (c : Nat) : Option State :=
  match (s.ctx c).aps with
  | [] => none
  | a :: _ =>
    let who := Serves.aperture c a.id
    let g := s.agent who c none
    if !s.fetchFree who then none
    else if (s.ctx c).vfFrozen then some ((s.apPop c).apFail c a.len a.write.isSome)
    else match a.write with
      | none => match s.unitRead g a.va a.len with
        | .ok x s => some ((s.apPop c).emit (.aperture c x.1 x.2))
        | .wait w s => some (s.modFetch who fun f => { f with wait := w })
        | .fault _ s => some (s.apEnd c a none)
        | .freeze va r s => some (s.apEnd c a (some (va, r)))
      | some bs =>
        let va := a.va + a.done.length
        let part := (bs.drop a.done.length).take (64 - va % 64)
        match s.unitWrite g none va part with
        | .ok _ s =>
          if bs.length ≤ a.done.length + part.length then some (s.apPop c)
          else some (s.modCtx c fun x => { x with aps := x.aps.map fun b => if b.id = a.id then { b with done := b.done ++ part, fetch := {} } else b })
        | .wait w s => some (s.modFetch who fun f => { f with wait := w })
        | .fault _ s => some (s.apEnd c a none)
        | .freeze va r s => some (s.apEnd c a (some (va, r)))

end Sys2Proof.Machine
end

