-- ==== Sys2Proof/Machine/Dispatch.lean ====
section
/-! DEFINITION. One arm per constructor of `Instr`, each one direct call of that instruction's meaning. -/

namespace Sys2Proof.Machine

/-- The effect of one instruction or event on a state. -/
def exec (i : Instr) (s : State) : Host.Outcome State Fault Refusal :=
  match i with
  | .nop z => Sys2Proof.Machine.execNop z s
  | .exit z => Sys2Proof.Machine.execExit z s
  | .trap z n => Sys2Proof.Machine.execTrap z n s
  | .tret z => Sys2Proof.Machine.execTret z s
  | .tabort z => Sys2Proof.Machine.execTabort z s
  | .brk z => Sys2Proof.Machine.execBrk z s
  | .getc z d c => Sys2Proof.Machine.execGetc z d c s
  | .getcF z d a => Sys2Proof.Machine.execGetcF z d a s
  | .setc z c b => Sys2Proof.Machine.execSetc z c b s
  | .setcF z a b => Sys2Proof.Machine.execSetcF z a b s
  | .setfmt z b => Sys2Proof.Machine.execSetfmt z b s
  | .setfmtM z a b => Sys2Proof.Machine.execSetfmtM z a b s
  | .setfmtI z => Sys2Proof.Machine.execSetfmtI z s
  | .widf z d f => Sys2Proof.Machine.execWidf z d f s
  | .widfAll z d => Sys2Proof.Machine.execWidfAll z d s
  | .capq z d a => Sys2Proof.Machine.execCapq z d a s
  | .now z d => Sys2Proof.Machine.execNow z d s
  | .b z o => Sys2Proof.Machine.execB z o s
  | .bal z o => Sys2Proof.Machine.execBal z o s
  | .bcAny z k o => Sys2Proof.Machine.execBcAny z k o s
  | .bcNone z k o => Sys2Proof.Machine.execBcNone z k o s
  | .bcAll z k o => Sys2Proof.Machine.execBcAll z k o s
  | .bcNall z k o => Sys2Proof.Machine.execBcNall z k o s
  | .bcEq z r o => Sys2Proof.Machine.execBcEq z r o s
  | .bcNe z r o => Sys2Proof.Machine.execBcNe z r o s
  | .bcLt z r o => Sys2Proof.Machine.execBcLt z r o s
  | .bcGe z r o => Sys2Proof.Machine.execBcGe z r o s
  | .bcGt z r o => Sys2Proof.Machine.execBcGt z r o s
  | .bcLe z r o => Sys2Proof.Machine.execBcLe z r o s
  | .jr z r => Sys2Proof.Machine.execJr z r s
  | .jalr z r => Sys2Proof.Machine.execJalr z r s
  | .vif z k o => Sys2Proof.Machine.execVif z k o s
  | .velse z o => Sys2Proof.Machine.execVelse z o s
  | .vendif z => Sys2Proof.Machine.execVendif z s
  | .vdo z k o => Sys2Proof.Machine.execVdo z k o s
  | .vwhile z k => Sys2Proof.Machine.execVwhile z k s
  | .vbrk z k => Sys2Proof.Machine.execVbrk z k s
  | .vany z k d => Sys2Proof.Machine.execVany z k d s
  | .vall z k d => Sys2Proof.Machine.execVall z k d s
  | .sadd z d a b imm => Sys2Proof.Machine.execSadd z d a b imm s
  | .ssub z d a b imm => Sys2Proof.Machine.execSsub z d a b imm s
  | .sand z d a b imm => Sys2Proof.Machine.execSand z d a b imm s
  | .sor z d a b imm => Sys2Proof.Machine.execSor z d a b imm s
  | .sxor z d a b imm => Sys2Proof.Machine.execSxor z d a b imm s
  | .sandn z d a b imm => Sys2Proof.Machine.execSandn z d a b imm s
  | .sshl z d a b imm => Sys2Proof.Machine.execSshl z d a b imm s
  | .sshr z d a b imm => Sys2Proof.Machine.execSshr z d a b imm s
  | .ssra z d a b imm => Sys2Proof.Machine.execSsra z d a b imm s
  | .sseq z d a b imm => Sys2Proof.Machine.execSseq z d a b imm s
  | .ssne z d a b imm => Sys2Proof.Machine.execSsne z d a b imm s
  | .sslt z d a b imm => Sys2Proof.Machine.execSslt z d a b imm s
  | .ssltu z d a b imm => Sys2Proof.Machine.execSsltu z d a b imm s
  | .ssle z d a b imm => Sys2Proof.Machine.execSsle z d a b imm s
  | .ssleu z d a b imm => Sys2Proof.Machine.execSsleu z d a b imm s
  | .smin z d a b imm => Sys2Proof.Machine.execSmin z d a b imm s
  | .smax z d a b imm => Sys2Proof.Machine.execSmax z d a b imm s
  | .saddi z d a imm => Sys2Proof.Machine.execSaddi z d a imm s
  | .smul z d a b imm => Sys2Proof.Machine.execSmul z d a b imm s
  | .smulh z d a b imm => Sys2Proof.Machine.execSmulh z d a b imm s
  | .smulhu z d a b imm => Sys2Proof.Machine.execSmulhu z d a b imm s
  | .sdiv z d a b imm => Sys2Proof.Machine.execSdiv z d a b imm s
  | .sdivu z d a b imm => Sys2Proof.Machine.execSdivu z d a b imm s
  | .srem z d a b imm => Sys2Proof.Machine.execSrem z d a b imm s
  | .sremu z d a b imm => Sys2Proof.Machine.execSremu z d a b imm s
  | .sclz z d a => Sys2Proof.Machine.execSclz z d a s
  | .sctz z d a => Sys2Proof.Machine.execSctz z d a s
  | .spopc z d a => Sys2Proof.Machine.execSpopc z d a s
  | .sbrev z d a => Sys2Proof.Machine.execSbrev z d a s
  | .sbswap z d a => Sys2Proof.Machine.execSbswap z d a s
  | .srotl z d a b imm => Sys2Proof.Machine.execSrotl z d a b imm s
  | .srotr z d a b imm => Sys2Proof.Machine.execSrotr z d a b imm s
  | .vadd z d a b t => Sys2Proof.Machine.execVadd z d a b t s
  | .vsub z d a b t => Sys2Proof.Machine.execVsub z d a b t s
  | .vadds z d a b t => Sys2Proof.Machine.execVadds z d a b t s
  | .vsubs z d a b t => Sys2Proof.Machine.execVsubs z d a b t s
  | .vmin z d a b t => Sys2Proof.Machine.execVmin z d a b t s
  | .vmax z d a b t => Sys2Proof.Machine.execVmax z d a b t s
  | .vabs z d a t => Sys2Proof.Machine.execVabs z d a t s
  | .vneg z d a t => Sys2Proof.Machine.execVneg z d a t s
  | .vsll z d a b t => Sys2Proof.Machine.execVsll z d a b t s
  | .vsrl z d a b t => Sys2Proof.Machine.execVsrl z d a b t s
  | .vsra z d a b t => Sys2Proof.Machine.execVsra z d a b t s
  | .vcmpeq z d a b t => Sys2Proof.Machine.execVcmpeq z d a b t s
  | .vcmplt z d a b t => Sys2Proof.Machine.execVcmplt z d a b t s
  | .vcmple z d a b t => Sys2Proof.Machine.execVcmple z d a b t s
  | .vaddi z d a imm t => Sys2Proof.Machine.execVaddi z d a imm t s
  | .vmul z d a b t => Sys2Proof.Machine.execVmul z d a b t s
  | .vmulh z d a b t => Sys2Proof.Machine.execVmulh z d a b t s
  | .vmadd z d a b t => Sys2Proof.Machine.execVmadd z d a b t s
  | .vdot4 z d a b t => Sys2Proof.Machine.execVdot4 z d a b t s
  | .vwmul z d a b t => Sys2Proof.Machine.execVwmul z d a b t s
  | .vand z d a b t => Sys2Proof.Machine.execVand z d a b t s
  | .vor z d a b t => Sys2Proof.Machine.execVor z d a b t s
  | .vxor z d a b t => Sys2Proof.Machine.execVxor z d a b t s
  | .vnot z d a t => Sys2Proof.Machine.execVnot z d a t s
  | .vpopc z d a t => Sys2Proof.Machine.execVpopc z d a t s
  | .vfadd z d a b t => Sys2Proof.Machine.execVfadd z d a b t s
  | .vfsub z d a b t => Sys2Proof.Machine.execVfsub z d a b t s
  | .vfmin z d a b t => Sys2Proof.Machine.execVfmin z d a b t s
  | .vfmax z d a b t => Sys2Proof.Machine.execVfmax z d a b t s
  | .vfabs z d a t => Sys2Proof.Machine.execVfabs z d a t s
  | .vfneg z d a t => Sys2Proof.Machine.execVfneg z d a t s
  | .vfsgn z d a b t => Sys2Proof.Machine.execVfsgn z d a b t s
  | .vfmul z d a b t => Sys2Proof.Machine.execVfmul z d a b t s
  | .vfma z d a b t => Sys2Proof.Machine.execVfma z d a b t s
  | .vfms z d a b t => Sys2Proof.Machine.execVfms z d a b t s
  | .vfnma z d a b t => Sys2Proof.Machine.execVfnma z d a b t s
  | .vfdiv z d a b t => Sys2Proof.Machine.execVfdiv z d a b t s
  | .vfsqrt z d a t => Sys2Proof.Machine.execVfsqrt z d a t s
  | .vfcmpEq z d a b t => Sys2Proof.Machine.execVfcmpEq z d a b t s
  | .vfcmpNe z d a b t => Sys2Proof.Machine.execVfcmpNe z d a b t s
  | .vfcmpLt z d a b t => Sys2Proof.Machine.execVfcmpLt z d a b t s
  | .vfcmpLe z d a b t => Sys2Proof.Machine.execVfcmpLe z d a b t s
  | .vfcmpGt z d a b t => Sys2Proof.Machine.execVfcmpGt z d a b t s
  | .vfcmpGe z d a b t => Sys2Proof.Machine.execVfcmpGe z d a b t s
  | .vfcmpOrd z d a b t => Sys2Proof.Machine.execVfcmpOrd z d a b t s
  | .vfcmpUno z d a b t => Sys2Proof.Machine.execVfcmpUno z d a b t s
  | .vfclass z d a t => Sys2Proof.Machine.execVfclass z d a t s
  | .vcvt z d a p c t => Sys2Proof.Machine.execVcvt z d a p c t s
  | .vcvti z d a r p c t => Sys2Proof.Machine.execVcvti z d a r p c t s
  | .vpack z d a b t => Sys2Proof.Machine.execVpack z d a b t s
  | .vunpack z d a h t => Sys2Proof.Machine.execVunpack z d a h t s
  | .vscale z d a b t => Sys2Proof.Machine.execVscale z d a b t s
  | .vrcp z d a t => Sys2Proof.Machine.execVrcp z d a t s
  | .vrsqrt z d a t => Sys2Proof.Machine.execVrsqrt z d a t s
  | .vexp2 z d a t => Sys2Proof.Machine.execVexp2 z d a t s
  | .vlog2 z d a t => Sys2Proof.Machine.execVlog2 z d a t s
  | .vsin z d a t => Sys2Proof.Machine.execVsin z d a t s
  | .vcos z d a t => Sys2Proof.Machine.execVcos z d a t s
  | .vtanh z d a t => Sys2Proof.Machine.execVtanh z d a t s
  | .vshfl z d a b t => Sys2Proof.Machine.execVshfl z d a b t s
  | .vbcast z d a b t => Sys2Proof.Machine.execVbcast z d a b t s
  | .vscan z d a o e t => Sys2Proof.Machine.execVscan z d a o e t s
  | .vred z d a o t => Sys2Proof.Machine.execVred z d a o t s
  | .vcompress z d a => Sys2Proof.Machine.execVcompress z d a s
  | .vexpand z d a => Sys2Proof.Machine.execVexpand z d a s
  | .kand z d a b => Sys2Proof.Machine.execKand z d a b s
  | .kor z d a b => Sys2Proof.Machine.execKor z d a b s
  | .kxor z d a b => Sys2Proof.Machine.execKxor z d a b s
  | .knot z d a => Sys2Proof.Machine.execKnot z d a s
  | .kandn z d a b => Sys2Proof.Machine.execKandn z d a b s
  | .kmov z d a => Sys2Proof.Machine.execKmov z d a s
  | .kpop z d a => Sys2Proof.Machine.execKpop z d a s
  | .kffs z d a => Sys2Proof.Machine.execKffs z d a s
  | .vmov z d a => Sys2Proof.Machine.execVmov z d a s
  | .vsplat z d a t => Sys2Proof.Machine.execVsplat z d a t s
  | .vext z d a b t => Sys2Proof.Machine.execVext z d a b t s
  | .vins z d a b t => Sys2Proof.Machine.execVins z d a b t s
  | .vsel z d a b k => Sys2Proof.Machine.execVsel z d a b k s
  | .kvec z d a => Sys2Proof.Machine.execKvec z d a s
  | .veck z d a => Sys2Proof.Machine.execVeck z d a s
  | .ld z d b p m t => Sys2Proof.Machine.execLd z d b p m t s
  | .pf z b p m t => Sys2Proof.Machine.execPf z b p m t s
  | .st z d b p m t => Sys2Proof.Machine.execSt z d b p m t s
  | .sld z d b p m t => Sys2Proof.Machine.execSld z d b p m t s
  | .sldFePeek z d b p m t => Sys2Proof.Machine.execSldFePeek z d b p m t s
  | .sldFeConsume z d b p m t => Sys2Proof.Machine.execSldFeConsume z d b p m t s
  | .sst z d b p m t => Sys2Proof.Machine.execSst z d b p m t s
  | .sstFull z d b p m t => Sys2Proof.Machine.execSstFull z d b p m t s
  | .aadd z d b p t => Sys2Proof.Machine.execAadd z d b p t s
  | .afadd z d b p t => Sys2Proof.Machine.execAfadd z d b p t s
  | .amin z d b p t => Sys2Proof.Machine.execAmin z d b p t s
  | .amax z d b p t => Sys2Proof.Machine.execAmax z d b p t s
  | .aand z d b p t => Sys2Proof.Machine.execAand z d b p t s
  | .aor z d b p t => Sys2Proof.Machine.execAor z d b p t s
  | .axor z d b p t => Sys2Proof.Machine.execAxor z d b p t s
  | .axch z d b p t => Sys2Proof.Machine.execAxch z d b p t s
  | .acas z d b p t => Sys2Proof.Machine.execAcas z d b p t s
  | .ainc z d b p t => Sys2Proof.Machine.execAinc z d b p t s
  | .saadd z d b p w m => Sys2Proof.Machine.execSaadd z d b p w m s
  | .samin z d b p w m => Sys2Proof.Machine.execSamin z d b p w m s
  | .samax z d b p w m => Sys2Proof.Machine.execSamax z d b p w m s
  | .saxch z d b p w m => Sys2Proof.Machine.execSaxch z d b p w m s
  | .fenceRel z x => Sys2Proof.Machine.execFenceRel z x s
  | .fenceAcq z x => Sys2Proof.Machine.execFenceAcq z x s
  | .fenceAr z x => Sys2Proof.Machine.execFenceAr z x s
  | .binit z a b => Sys2Proof.Machine.execBinit z a b s
  | .barr z d a b => Sys2Proof.Machine.execBarr z d a b s
  | .bexp z a b => Sys2Proof.Machine.execBexp z a b s
  | .bwait z a b v => Sys2Proof.Machine.execBwait z a b v s
  | .btry z d a b v => Sys2Proof.Machine.execBtry z d a b v s
  | .waitc z d b p c => Sys2Proof.Machine.execWaitc z d b p c s
  | .wmon z d b p c => Sys2Proof.Machine.execWmon z d b p c s
  | .wtest z d => Sys2Proof.Machine.execWtest z d s
  | .tmbegin z a b => Sys2Proof.Machine.execTmbegin z a b s
  | .tmend z => Sys2Proof.Machine.execTmend z s
  | .tmabort z => Sys2Proof.Machine.execTmabort z s
  | .tmstat z d => Sys2Proof.Machine.execTmstat z d s
  | .salloc z d a b w k => Sys2Proof.Machine.execSalloc z d a b w k s
  | .sfree z a => Sys2Proof.Machine.execSfree z a s
  | .smap z a b w k => Sys2Proof.Machine.execSmap z a b w k s
  | .sunmap z a => Sys2Proof.Machine.execSunmap z a s
  | .sflush z a => Sys2Proof.Machine.execSflush z a s
  | .lds z d b p t => Sys2Proof.Machine.execLds z d b p t s
  | .sts z d b p t => Sys2Proof.Machine.execSts z d b p t s
  | .enqCopy z d a => Sys2Proof.Machine.execEnqCopy z d a s
  | .enqMatw z d a => Sys2Proof.Machine.execEnqMatw z d a s
  | .enqMata z d a => Sys2Proof.Machine.execEnqMata z d a s
  | .enqMdrain z d a => Sys2Proof.Machine.execEnqMdrain z d a s
  | .enqGather z d a => Sys2Proof.Machine.execEnqGather z d a s
  | .enqScat z d a => Sys2Proof.Machine.execEnqScat z d a s
  | .enqMerge z d a => Sys2Proof.Machine.execEnqMerge z d a s
  | .enqKscan z d a => Sys2Proof.Machine.execEnqKscan z d a s
  | .chain z a => Sys2Proof.Machine.execChain z a s
  | .cstat z d a n c => Sys2Proof.Machine.execCstat z d a n c s
  | .kvopen z d a => Sys2Proof.Machine.execKvopen z d a s
  | .kvopenDs z d a => Sys2Proof.Machine.execKvopenDs z d a s
  | .kvclose z a => Sys2Proof.Machine.execKvclose z a s
  | .kvapp z d a b => Sys2Proof.Machine.execKvapp z d a b s
  | .kvtrunc z d a b => Sys2Proof.Machine.execKvtrunc z d a b s
  | .kvfork z d a b => Sys2Proof.Machine.execKvfork z d a b s
  | .kvlook z d a b => Sys2Proof.Machine.execKvlook z d a b s
  | .kvlookIns z d a b => Sys2Proof.Machine.execKvlookIns z d a b s
  | .kvallocGrow z d a b => Sys2Proof.Machine.execKvallocGrow z d a b s
  | .kvallocGrant z d a b => Sys2Proof.Machine.execKvallocGrant z d a b s
  | .kvallocRsv z d a b => Sys2Proof.Machine.execKvallocRsv z d a b s
  | .kvallocDem z d a b => Sys2Proof.Machine.execKvallocDem z d a b s
  | .dsin z d a b => Sys2Proof.Machine.execDsin z d a b s
  | .dsgen z d a b => Sys2Proof.Machine.execDsgen z d a b s
  | .dstrunc z d a b => Sys2Proof.Machine.execDstrunc z d a b s
  | .dssnap z a b => Sys2Proof.Machine.execDssnap z a b s
  | .dsplay z a b => Sys2Proof.Machine.execDsplay z a b s
  | .launch z d a b => Sys2Proof.Machine.execLaunch z d a b s
  | .launchWait z d a => Sys2Proof.Machine.execLaunchWait z d a s
  | .role z d a b => Sys2Proof.Machine.execRole z d a b s
  | .roleAsk z d a => Sys2Proof.Machine.execRoleAsk z d a s
  | .qpush z a b => Sys2Proof.Machine.execQpush z a b s
  | .qpop z d a b => Sys2Proof.Machine.execQpop z d a b s
  | .qtry z d a b => Sys2Proof.Machine.execQtry z d a b s
  | .mig z a => Sys2Proof.Machine.execMig z a s
  | .migTrap z a => Sys2Proof.Machine.execMigTrap z a s
  | .mret z => Sys2Proof.Machine.execMret z s
  | .mjoin z => Sys2Proof.Machine.execMjoin z s
  | .mstat z d => Sys2Proof.Machine.execMstat z d s
  | .signalQ z a => Sys2Proof.Machine.execSignalQ z a s
  | .signalM z a => Sys2Proof.Machine.execSignalM z a s
  | .msig z a => Sys2Proof.Machine.execMsig z a s
  | .pcmark z a => Sys2Proof.Machine.execPcmark z a s
  | .pcsample z => Sys2Proof.Machine.execPcsample z s
  | .pcread z d a => Sys2Proof.Machine.execPcread z d a s
  | .immWord imm => Sys2Proof.Machine.execImmWord imm s
  | .modWord m z r n v f => Sys2Proof.Machine.execModWord m z r n v f s
  | .modxWord m z k o f p => Sys2Proof.Machine.execModxWord m z k o f p s
  | .hintStream n => Sys2Proof.Machine.execHintStream n s
  | .hintYield => Sys2Proof.Machine.execHintYield s
  | .deviceReset => Sys2Proof.Machine.execDeviceReset s
  | .bootStageComplete => Sys2Proof.Machine.execBootStageComplete s
  | .flitTagFailure => Sys2Proof.Machine.execFlitTagFailure s
  | .freezeNPin => Sys2Proof.Machine.execFreezeNPin s
  | .frzCtlWrite => Sys2Proof.Machine.execFrzCtlWrite s
  | .freeze => Sys2Proof.Machine.execFreeze s
  | .frzDump => Sys2Proof.Machine.execFrzDump s
  | .qGate => Sys2Proof.Machine.execQGate s
  | .quarterUngateDone => Sys2Proof.Machine.execQuarterUngateDone s
  | .pstate => Sys2Proof.Machine.execPstate s
  | .vddCoreRampDone => Sys2Proof.Machine.execVddCoreRampDone s
  | .thermalThrottle => Sys2Proof.Machine.execThermalThrottle s
  | .frameBoundary => Sys2Proof.Machine.execFrameBoundary s
  | .linkTraining => Sys2Proof.Machine.execLinkTraining s
  | .linkDown => Sys2Proof.Machine.execLinkDown s
  | .surpriseRemoval => Sys2Proof.Machine.execSurpriseRemoval s
  | .ideIntegrityFailure => Sys2Proof.Machine.execIdeIntegrityFailure s
  | .uioRequestTimeout => Sys2Proof.Machine.execUioRequestTimeout s
  | .dieUnreachableTimeout => Sys2Proof.Machine.execDieUnreachableTimeout s
  | .shadowDiscardTimeout => Sys2Proof.Machine.execShadowDiscardTimeout s
  | .viralIndicationReceived => Sys2Proof.Machine.execViralIndicationReceived s
  | .uncorrectableError => Sys2Proof.Machine.execUncorrectableError s
  | .viralTakesEffect => Sys2Proof.Machine.execViralTakesEffect s
  | .homeSliceTagParity => Sys2Proof.Machine.execHomeSliceTagParity s
  | .shadowEntryLost => Sys2Proof.Machine.execShadowEntryLost s
  | .partCfg => Sys2Proof.Machine.execPartCfg s
  | .ctxAssign => Sys2Proof.Machine.execCtxAssign s
  | .ctxUnasg => Sys2Proof.Machine.execCtxUnasg s
  | .partReset => Sys2Proof.Machine.execPartReset s
  | .viralSet => Sys2Proof.Machine.execViralSet s
  | .viralClr => Sys2Proof.Machine.execViralClr s
  | .keyGen => Sys2Proof.Machine.execKeyGen s
  | .keyLoad => Sys2Proof.Machine.execKeyLoad s
  | .imgReg => Sys2Proof.Machine.execImgReg s
  | .imgInst => Sys2Proof.Machine.execImgInst s
  | .imgRm => Sys2Proof.Machine.execImgRm s
  | .tkeyReg => Sys2Proof.Machine.execTkeyReg s
  | .vecAsg => Sys2Proof.Machine.execVecAsg s
  | .bifurc => Sys2Proof.Machine.execBifurc s
  | .poolMap => Sys2Proof.Machine.execPoolMap s
  | .mKill => Sys2Proof.Machine.execMKill s
  | .mRel => Sys2Proof.Machine.execMRel s
  | .waysShr => Sys2Proof.Machine.execWaysShr s
  | .partFree => Sys2Proof.Machine.execPartFree s
  | .vfReset => Sys2Proof.Machine.execVfReset s
  | .spdmMessage => Sys2Proof.Machine.execSpdmMessage s
  | .tdiStateChange => Sys2Proof.Machine.execTdiStateChange s
  | .lregWrite => Sys2Proof.Machine.execLregWrite s
  | .cbaseWrite => Sys2Proof.Machine.execCbaseWrite s
  | .registerWrite => Sys2Proof.Machine.execRegisterWrite s
  | .apertureRead => Sys2Proof.Machine.execApertureRead s
  | .apertureWrite => Sys2Proof.Machine.execApertureWrite s
  | .gownWrite => Sys2Proof.Machine.execGownWrite s
  | .granuleScrubDone => Sys2Proof.Machine.execGranuleScrubDone s
  | .tmvdWrite => Sys2Proof.Machine.execTmvdWrite s
  | .tierMoveTa => Sys2Proof.Machine.execTierMoveTa s
  | .tierMoveCopyStart => Sys2Proof.Machine.execTierMoveCopyStart s
  | .tierMoveCopyDone => Sys2Proof.Machine.execTierMoveCopyDone s
  | .tierMoveEnd => Sys2Proof.Machine.execTierMoveEnd s
  | .tictlWrite => Sys2Proof.Machine.execTictlWrite s
  | .invalidationTa => Sys2Proof.Machine.execInvalidationTa s
  | .invalidationDrained => Sys2Proof.Machine.execInvalidationDrained s
  | .atsInvalidationRequest => Sys2Proof.Machine.execAtsInvalidationRequest s
  | .atsInvalidationCompletion => Sys2Proof.Machine.execAtsInvalidationCompletion s
  | .atsTranslationCompletion => Sys2Proof.Machine.execAtsTranslationCompletion s
  | .prgResponse => Sys2Proof.Machine.execPrgResponse s
  | .walkComplete => Sys2Proof.Machine.execWalkComplete s
  | .addCapacity => Sys2Proof.Machine.execAddCapacity s
  | .addCapacityComplete => Sys2Proof.Machine.execAddCapacityComplete s
  | .releaseCapacity => Sys2Proof.Machine.execReleaseCapacity s
  | .releaseCapacityComplete => Sys2Proof.Machine.execReleaseCapacityComplete s
  | .hostMemRequest => Sys2Proof.Machine.execHostMemRequest s
  | .birsp => Sys2Proof.Machine.execBirsp s
  | .h2dSnoop => Sys2Proof.Machine.execH2dSnoop s
  | .peerRequest => Sys2Proof.Machine.execPeerRequest s
  | .poolWriteLeave => Sys2Proof.Machine.execPoolWriteLeave s
  | .poolWriteCompletion => Sys2Proof.Machine.execPoolWriteCompletion s
  | .epochDrainReport => Sys2Proof.Machine.execEpochDrainReport s
  | .cxlCompletion => Sys2Proof.Machine.execCxlCompletion s
  | .launchAdmission => Sys2Proof.Machine.execLaunchAdmission s
  | .launchStart => Sys2Proof.Machine.execLaunchStart s
  | .placementGroupPlaced => Sys2Proof.Machine.execPlacementGroupPlaced s
  | .commitSchedule => Sys2Proof.Machine.execCommitSchedule s
  | .commitNotice => Sys2Proof.Machine.execCommitNotice s
  | .commitReportsIn => Sys2Proof.Machine.execCommitReportsIn s
  | .commitFlip => Sys2Proof.Machine.execCommitFlip s
  | .poolPrepare => Sys2Proof.Machine.execPoolPrepare s
  | .prepareAcknowledged => Sys2Proof.Machine.execPrepareAcknowledged s
  | .prepareTimeout => Sys2Proof.Machine.execPrepareTimeout s
  | .poolCommitMessage => Sys2Proof.Machine.execPoolCommitMessage s
  | .poolAbortMessage => Sys2Proof.Machine.execPoolAbortMessage s
  | .outcomeQuery => Sys2Proof.Machine.execOutcomeQuery s
  | .heldHostWritesSend => Sys2Proof.Machine.execHeldHostWritesSend s
  | .completionRecordWrite => Sys2Proof.Machine.execCompletionRecordWrite s
  | .balancerInspection => Sys2Proof.Machine.execBalancerInspection s
  | .postingLapse => Sys2Proof.Machine.execPostingLapse s
  | .throttleInterval => Sys2Proof.Machine.execThrottleInterval s
  | .agingPromotion => Sys2Proof.Machine.execAgingPromotion s
  | .turnEnd => Sys2Proof.Machine.execTurnEnd s
  | .quiescenceSave => Sys2Proof.Machine.execQuiescenceSave s
  | .teamEviction => Sys2Proof.Machine.execTeamEviction s
  | .wakeConditionMet => Sys2Proof.Machine.execWakeConditionMet s
  | .teamRestore => Sys2Proof.Machine.execTeamRestore s
  | .longResultWrite => Sys2Proof.Machine.execLongResultWrite s
  | .trapFrameForm => Sys2Proof.Machine.execTrapFrameForm s
  | .lanePack => Sys2Proof.Machine.execLanePack s
  | .continuationArrival => Sys2Proof.Machine.execContinuationArrival s
  | .continuationRefused => Sys2Proof.Machine.execContinuationRefused s
  | .landingTimeout => Sys2Proof.Machine.execLandingTimeout s
  | .landedTeamCreation => Sys2Proof.Machine.execLandedTeamCreation s
  | .returnArrival => Sys2Proof.Machine.execReturnArrival s
  | .retireNotice => Sys2Proof.Machine.execRetireNotice s
  | .cardComplete => Sys2Proof.Machine.execCardComplete s
  | .cardStart => Sys2Proof.Machine.execCardStart s
  | .cardLineTransfer => Sys2Proof.Machine.execCardLineTransfer s
  | .matrixRowIssue => Sys2Proof.Machine.execMatrixRowIssue s
  | .monitorWake => Sys2Proof.Machine.execMonitorWake s
  | .waitcPoll => Sys2Proof.Machine.execWaitcPoll s
  | .tmCommitResult => Sys2Proof.Machine.execTmCommitResult s
  | .streamFrameTake => Sys2Proof.Machine.execStreamFrameTake s
  | .snapshotRestoreDone => Sys2Proof.Machine.execSnapshotRestoreDone s
  | .pcSampleTimer => Sys2Proof.Machine.execPcSampleTimer s
  | .counterDeltaTimer => Sys2Proof.Machine.execCounterDeltaTimer s
  | .dbgctlHalt => Sys2Proof.Machine.execDbgctlHalt s
  | .debugHaltDone => Sys2Proof.Machine.execDebugHaltDone s
  | .dbgctlRes => Sys2Proof.Machine.execDbgctlRes s
  | .dbgctlStep => Sys2Proof.Machine.execDbgctlStep s
  | .stepComplete => Sys2Proof.Machine.execStepComplete s
  | .dbgdataAccess => Sys2Proof.Machine.execDbgdataAccess s
  | .teamRetirement => Sys2Proof.Machine.execTeamRetirement s
  | .throttleRelease => Sys2Proof.Machine.execThrottleRelease s
  | .ideKmKeyProgramming => Sys2Proof.Machine.execIdeKmKeyProgramming s
  | .dcRegionConfiguration => Sys2Proof.Machine.execDcRegionConfiguration s
  | .tenantTagMapping => Sys2Proof.Machine.execTenantTagMapping s
  | .footprintTableArrival => Sys2Proof.Machine.execFootprintTableArrival s
  | .writeCompletionReturn => Sys2Proof.Machine.execWriteCompletionReturn s
  | .releaseWaitEnd => Sys2Proof.Machine.execReleaseWaitEnd s

end Sys2Proof.Machine
end

