-- ==== Sys2Proof/Machine/Events.lean ====
section
/-! DEFINITION. What happens next: the event that is due, the input at a port, or one of the enabled events and issues
(R2, R34, R69, R252, R324, R480), chosen freely where the spec fixes no order. -/

namespace Sys2Proof.Machine

/-- An event with its operands, as something to perform. -/
def State.event (s : State) (e : Instr × Arg) : Issue := .run e.1 { s with arg := e.2 }

/-- Events due in this tick, in order. -/
def dueEvents (s : State) : List (Instr × Arg) :=
  s.monDue ++ s.commitDue ++ s.linksDue ++ s.powerDue ++ s.debugDue ++ s.pagingDue ++ s.schedDue ++ s.balanceEvents
/-- Events that may happen now. -/
def mayEvents (s : State) : List (Instr × Arg) :=
  s.cardEvents ++ s.migEvents ++ s.streamEvents ++ s.pagingMay ++ s.admitEvents ++ s.commitMay ++ s.schedMay ++ s.portsMay ++ s.debugMay

/-! ## What the edge ports admit (R34, R55, R56, R143) -/

/-- How an event comes: from the die itself and its debug port; in configuration space, the DOE mailbox or IDE_KM; as another request at the
host's port, or one of the fabric manager's (log 219); or as a flit of a peer, an expander or a host, whose own meaning looks at its link. -/
inductive Inlet
  | die
  | config
  | host
  | fabric
deriving DecidableEq, Repr
/-- Where an event of the outside comes in. -/
def inlet : Instr → Inlet
  | .vfReset | .spdmMessage | .tdiStateChange | .ideKmKeyProgramming => .config
  | .frzCtlWrite | .qGate | .pstate | .partCfg | .ctxAssign | .ctxUnasg | .partReset | .viralSet | .viralClr | .keyGen | .keyLoad | .imgReg
  | .imgInst | .imgRm | .tkeyReg | .vecAsg | .bifurc | .poolMap | .mKill | .mRel | .waysShr | .partFree | .lregWrite | .cbaseWrite
  | .registerWrite | .apertureRead | .apertureWrite | .gownWrite | .tmvdWrite | .tictlWrite | .atsInvalidationRequest | .prgResponse
  | .addCapacity | .releaseCapacity | .h2dSnoop | .dbgctlHalt | .dbgctlRes | .dbgctlStep | .dbgdataAccess | .dcRegionConfiguration
  | .tenantTagMapping => .host
  | .atsTranslationCompletion | .hostMemRequest | .birsp | .peerRequest | .poolWriteCompletion | .cxlCompletion | .poolPrepare
  | .prepareAcknowledged | .poolCommitMessage | .poolAbortMessage | .outcomeQuery | .continuationArrival | .continuationRefused
  | .returnArrival | .retireNotice | .footprintTableArrival | .viralIndicationReceived => .fabric
  | _ => .die
/-- R55, R56, R143: a stopped boot serves configuration space and the DOE mailbox alone (`mbx_stat` is only read), and a link without an
established IDE stream brings nothing else either. -/
def State.serves (s : State) (i : Instr) : Bool :=
  match inlet i with
  | .die => true
  | .config => true
  | .host => !s.mil.bootFail && (s.link hostLink).carries
  | .fabric => !s.mil.bootFail
/-- R55: the completion of a request that is not served. -/
def State.turnAway (s : State) (i : Instr) (a : Arg) : State :=
  match i with
  | .hostMemRequest => s.emit (.hostReply a.n0 false false 0)
  | .peerRequest => s.emit (.peerReply (a.n0 % 4096) 1 false 0 [])
  | _ => s.emit (.unsupported hostLink)
/-- R34: an event by which a network link, a home-slice port, a memory controller or an edge port admits a flit, or a quadrant steps. -/
def admitsFlit : Instr → Bool
  | .lanePack | .continuationArrival | .continuationRefused | .returnArrival | .retireNotice | .commitNotice | .commitReportsIn
  | .cardLineTransfer | .matrixRowIssue | .writeCompletionReturn | .epochDrainReport | .poolWriteLeave | .heldHostWritesSend
  | .completionRecordWrite | .walkComplete | .poolWriteCompletion | .atsTranslationCompletion | .cxlCompletion => true
  | _ => false

/-- R445: what one tick counts for a team: ticks parked after S, throttled, stalled on `gwct`, or at a full replay queue. -/
def State.tickCounts (s : State) (t : Team) : State :=
  let c := t.id.ctx
  let s := s.count c 6 (match t.sync.park with | .switch => 1 | _ => 0)
  let s := s.count c 23 (b2n !t.sched.permitted)
  let s := s.count c 28 (match t.sync.park with | .rel => 1 | .bdev _ => 1 | _ => 0)
  s.count c 30 (b2n (decide (24 ≤ t.sync.rq.length)))
/-- The device time passes by one tick (R2); a yield lasts enabled ticks (R675). -/
def State.tick (s : State) : State :=
  let on := s.enabledTick
  let res := s.teams.filter fun t => t.2.resident
  let s := if s.ctxs.all fun c => c.2.perf.sel = [] then s
    else
      let s := res.foldl (fun s t => s.tickCounts t.2) s
      if on then ((res.map fun t => t.2.id.ctx).dedup).foldl (fun s c => s.count c 0 1) s else s
  let s := if on && s.teams.any fun t => t.2.sched.yield ≠ 0 then
      { s with teams := Tbl.mapV s.teams fun _ t => { t with sched := { t.sched with yield := t.sched.yield - 1 } } }
    else s
  { s.sweep with now := s.now + 1, ticked := []
                 issued := if on then s.issued.filterMap fun p => if p.2 ≤ 1 then none else some (p.1, p.2 - 1) else s.issued }

/-- What may end the tick once every core has issued: first the samples of the tick (R448), then the freeze (R41) or the next tick. -/
def State.tickEnds (s : State) : List (State → Issue) :=
  match s.timersDue with
  | e :: _ => [fun s => s.event e]
  | [] =>
    if s.mustFreeze then [fun s => s.event (.freeze, {})]
    else (fun s => .done s.tick) :: (if s.mayFreeze then [fun s => s.event (.freeze, {})] else [])

/-- Everything that may happen next, when nothing is due: an enabled event, an access that may be performed, an access through the
aperture, the end of a released extent's scrub (R66), an issue, or the end of the tick once every core has issued. In a withheld tick the links,
slices and ports admit nothing (R34). -/
def choices (s : State) : List (State → Issue) :=
  (((mayEvents s).filter fun e => s.enabledTick || !admitsFlit e.1).map fun e => fun s => s.event e) ++
    (if s.enabledTick then
      (s.performable.map fun a => fun s => .done (s.perform a.1 a.2.1 a.2.2)) ++
        ((s.ctxs.filter fun c => (s.apStep c.1).isSome).map fun c => fun s => .done ((s.apStep c.1).getD s)) ++
        s.ports.rescrub.map fun e => fun s => .done (s.rescrubbed e)
     else []) ++
    (match issuers s with
     | [] => s.tickEnds
     | l => l.map fun k => fun s => issueTeam s k)

/-- R41, R44: the events a frozen device still takes: reset and the dump. -/
def frozenTakes : Instr → Bool
  | .deviceReset => true
  | .frzDump => true
  | _ => false

/-- A freely chosen one of the choices. -/
def State.choose (s : State) : List (State → Issue) → Issue
  | [] => .done s.tick
  | [a] => a s
  | a :: r => (((a :: r)[Config.pick s.draws % (r.length + 1)]?).getD a) { s with draws := s.draws + 1 }

/-- What the device does by itself when nothing is due and nothing arrives. -/
def onward (s : State) : Issue :=
  match wakeTeam s with
  | some s' => .done s'
  | none => match s.hostStep with
    | some s' => .done s'
    | none => s.choose (choices s)
/-- What the next step does; none when the clocks have stopped and no event is at the ports. What is due in a tick comes before what
arrives in it; what arrives at an edge port waits for an enabled tick (R34). -/
def plan (s : State) : Option Issue :=
  if s.freeze.at_.isSome then
    match s.inputs with
    | (i, a) :: r => let s := { s with inputs := r }
                     some (if frozenTakes i then s.event (i, a) else .done s)
    | [] => none
  else match dueEvents s with
    | e :: _ => some (s.event e)
    | [] => match s.inputs with
      | (i, a) :: r =>
        if !s.enabledTick && inlet i ≠ .die then some (onward s)
        else
          let s' := { s with inputs := r }
          some (if s.serves i then s'.event (i, a) else .done (s'.turnAway i a))
      | [] => some (onward s)

end Sys2Proof.Machine
end

