-- ==== Sys2Proof/Machine/Step.lean ====
section
/-! DEFINITION. One step of the machine, and how an instruction is put where the next step runs it. -/

namespace Sys2Proof.Machine

/-- One step: the next event or instruction is performed. -/
def step (s : State) : Host.Outcome State Fault Refusal :=
  match plan s with
  | none => .fault .clockStopped
  | some (.done s') => .next s'
  | some (.run i s') => exec i s'

/-- The state with an instruction (its word is the low 32 bits of `w`, the bits above `nbits` zero) placed so that the next
step fetches and runs it: partition 0 configured, context 0 running, an image whose text begins with the word, and one
started launch with one resident team whose PC is there. -/
def State.withFetchWord (s : State) (nbits w : Nat) : State :=
  let bytes := (leBytes 4 (w % 2 ^ nbits)).zipIdx.map fun p => (64 + p.2, p.1)
  let img : Image := { bytes := bytes, len := 128, toff := 64, tlen := 64 }
  let part : Part := { cfg := { quart := 0xF, cal := 2, mclus := 1, quota := 64, ways := 0xFFFF }
                       running := some 0, turnEnd := s.now + 21000, images := [(0, img)] }
  let launch : Launch := { head := { stages := [{ vregs := 64 }], wwid := [5, 0, 0, 0, 0, 0], wcnt := [1, 1, 1, 1, 1] }
                           st := .started, nextGang := 1, gangs := 1, live := 1 }
  let team : Team := { id := { ready := true }, regs := { allot := 64 }
                       flow := { D := ones 32, pres := ones 32, wid := (List.range 32).filterMap fun l => if l = 0 then none else some (l, BitVec.ofNat 64 l) } }
  { s with mil := { s.mil with booted := true, stages := 5 }
           parts := Tbl.put s.parts 0 part
           ctxs := Tbl.put s.ctxs 0 { part := some 0, fresh := false }
           launches := [(0, launch)], teams := [(0, team)]
           inputs := [], net := [], cur := none, freeze := {}, issued := Tbl.del s.issued 0, ticked := [tickKey 1 0] }

end Sys2Proof.Machine
end

