-- ==== Sys2Proof/Safety.lean ====
section
/-! DEFINITION. The terms in which the statements speak: the instruction being performed, what completing an issue changes and
what it leaves, the change of one register, and what a trap leaves. -/

namespace Sys2Proof.Machine

/-- The instruction being performed is `c`, and its team is `t`. -/
structure Performs (s : State) (c : Cur) (t : Team) : Prop where
  cur : s.cur = some c
  team : Tbl.get? s.teams c.team = some t

/-- `s'` is `s` but for one team, the instruction being performed, the issue slots and the performance counters: every
other team, all of memory, every stash, table, port and context register is as before. -/
structure OnlyTeam (s s' : State) (k : Nat) : Prop where
  others : ∀ j, j ≠ k → Tbl.get? s'.teams j = Tbl.get? s.teams j
  ctxs : ∀ j, (Tbl.get? s'.ctxs j).map (fun x => ({ x with perf := {} } : Ctx)) = (Tbl.get? s.ctxs j).map fun x => ({ x with perf := {} } : Ctx)
  rest : { s' with teams := s.teams, ctxs := s.ctxs, cur := s.cur, issued := s.issued } = s

/-- Two states that differ in performance counters alone. -/
def SameButCounters (s s' : State) : Prop := ∃ x, s' = { s with ctxs := x } ∧
    ∀ j, (Tbl.get? x j).map (fun y => ({ y with perf := {} } : Ctx)) = (Tbl.get? s.ctxs j).map fun y => ({ y with perf := {} } : Ctx)

/-- What leaving the issue slot comes to (R419, R479, R483, R254): from the state `s` and team `t`, which hold the
instruction's own effect already, the entry `e` joins the replay queue, the program counter moves to `next` (a re-injected
entry leaves it), the hint words are used up, the team parks after a word with S set while a long result is outstanding, and
the core is taken for the passes. Registers, masks, stack, frame, allocations, monitor and transaction stay. -/
structure Leaves (s s' : State) (c : Cur) (t : Team) (z : BitVec 1) (next : Word) (e : Entry) (passes : Nat) (t' : Team) : Prop where
  only : OnlyTeam s s' c.team
  team : Tbl.get? s'.teams c.team = some t'
  cur : s'.cur = none
  slot : Tbl.get? s'.issued t.id.core = some (max 1 passes)
  id : t'.id = t.id
  regs : t'.regs = t.regs
  flow : t'.flow = { t.flow with pc := if c.inj then t.flow.pc else next, hints := [] }
  sync : { t'.sync with park := t.sync.park } =
    { t.sync with rq := pruneRq (t.sync.rq ++ [{ e with id := t.sync.nextEntry }]), nextEntry := t.sync.nextEntry + 1 }
  parked : t.sync.park ≠ .run → t'.sync.park = t.sync.park
  switch : t.sync.park = .run → t'.sync.park = if z = 1 ∧ t'.sync.longOut = true then .switch else .run
  sched : t'.sched = { t.sched with lastIssue := s.now, readySince := s.now, waited := 0, aged := false, retry := false, skipBp := false, stepped := t.sched.stepping }

/-- Scalar register `d` takes `v`, a write to `s0` being discarded (R487), and no other register changes. -/
structure WritesS (r r' : TeamRegs) (d : Nat) (v : Word) : Prop where
  dest : r'.getS d = if d = 0 then 0 else v
  kept : ∀ n, n ≠ d → r'.getS n = r.getS n
  rest : { r' with s := r.s } = r

/-- Mask register `d` takes the valid lanes of `m`, a written `k0` being discarded (R487, R534), and no other register
changes. -/
structure WritesK (r r' : TeamRegs) (d : Nat) (m : Mask) : Prop where
  dest : d ≠ 0 → r'.getK d = m &&& ones r.lanes
  kept : ∀ n, n ≠ d ∨ d = 0 → r'.getK n = r.getK n
  rest : { r' with k := r.k } = r

/-- Vector register `d` takes `f` in the valid lanes of `g`; with `zero` set the other present lanes take zero unless no
lane is governed (R273, R492); every other lane and register stays. -/
structure WritesV (r r' : TeamRegs) (g pres : Mask) (zero : Bool) (d : Nat) (f : Nat → Word) : Prop where
  dest : ∀ l, l < 1024 → r'.getV d l =
    if l < r.lanes ∧ g.getLsbD l = true then f l
    else if zero = true ∧ g &&& ones r.lanes ≠ 0 ∧ l < r.lanes ∧ pres.getLsbD l = true then 0
    else r.getV d l
  kept : ∀ n l, n ≠ d → l < 1024 → r'.getV n l = r.getV n l
  rest : { r' with v := r.v } = r

/-- An instruction of a team completes with a scalar result, written at once (R481). -/
def ShortS (i : Instr) (s : State) (c : Cur) (t : Team) (z : BitVec 1) (d : Nat) (v : Word) : Prop :=
  ∃ s' t' r, exec i s = .next s' ∧ WritesS t.regs r d v ∧
    Leaves s s' c { t with regs := r } z c.next { c.entry with done := true } 1 t'

/-- An instruction completes with a scalar result that a later event writes (R480): its entry holds the write. -/
def LongS (i : Instr) (s : State) (c : Cur) (t : Team) (z : BitVec 1) (d : Nat) (v : Word) : Prop :=
  ∃ s' t', exec i s = .next s' ∧ Leaves s s' c t z c.next { c.entry with res := [.s d v], dest := [(0, d)] } 1 t'

/-- An instruction completes by changing its team to `t1`, with no register result. -/
def Becomes (i : Instr) (s : State) (c : Cur) (t1 : Team) (z : BitVec 1) : Prop :=
  ∃ s' t', exec i s = .next s' ∧ Leaves s s' c t1 z c.next { c.entry with done := true } 1 t'

/-- An instruction waits where it stands (R251): the team's PC stays at it, and it is not performed. -/
structure Waits (s s' : State) (c : Cur) (t : Team) (p : Park) (t' : Team) : Prop where
  only : OnlyTeam s s' c.team
  team : Tbl.get? s'.teams c.team = some t'
  cur : s'.cur = none
  park : t'.sync.park = p
  pc : c.inj = false → t'.flow.pc = c.entry.pc
  regs : t'.regs = t.regs
  masks : t'.flow.D = t.flow.D ∧ t'.flow.pres = t.flow.pres ∧ t'.flow.stack = t.flow.stack
  rq : t'.sync.rq = t.sync.rq

/-- A team has nothing outstanding, its partition traces nothing, and its context has a handler at `h` with no debugger
attached: a recoverable cause enters the handler at once (R420, R425, R427). -/
structure TakesTraps (s : State) (t : Team) (h : Word) : Prop where
  idle : t.sync.rq = [] ∧ t.sync.reinj = []
  plain : t.sync.inHandler = false ∧ t.id.landed = false ∧ t.sched.stepping = false ∧ t.sched.frozen = none
  untraced : (s.part t.id.part).cfg.trsize = 0 ∧ (s.part t.id.part).cfg.trstall = false
  handler : bit (s.ctx t.id.ctx).dbg.tvec.toNat 63 = true ∧ (s.ctx t.id.ctx).dbg.att = false
  entry : h = BitVec.ofNat 64 (bits (s.ctx t.id.ctx).dbg.tvec.toNat 31 0)

/-- The instruction is issued for the first time: its entry holds nothing but its words and its address. -/
structure Fresh (c : Cur) : Prop where
  inj : c.inj = false
  empty : c.entry.done = false ∧ c.entry.accs = [] ∧ c.entry.res = [] ∧ c.entry.raised = none

/-- What taking a recoverable cause leaves (R420, R421, R427, R428): the frame holds the cause, the address `tpc`, D, FMT and the
stack depth at the trap, and one entry, that of the instruction, which is done or else faults for its governing mask; the team runs
its handler at `h` with D set to the present lanes; its registers, FMT, present lanes and stack are as they were, and nothing
outside the team has changed. -/
structure TookTrap (s s' : State) (c : Cur) (t : Team) (cause : Nat) (done : Bool) (tpc h : Word) (t' : Team) : Prop where
  only : OnlyTeam s s' c.team
  team : Tbl.get? s'.teams c.team = some t'
  cur : s'.cur = none
  valid : t'.sync.frame.valid = true
  cause : t'.sync.frame.cause = cause
  cls : t'.sync.frame.cls = 0
  tpc : t'.sync.frame.tpc = tpc
  saved : t'.sync.frame.dent = t.flow.D ∧ t'.sync.frame.tfmt = t.regs.fmt ∧ t'.sync.frame.tdepth = t.flow.stack.length
  entries : ∃ e, t'.sync.frame.rq = [e] ∧ e.pc = c.entry.pc ∧ e.word = c.entry.word ∧ e.done = done ∧
    (done = false → e.faulting = true ∧ e.gov = gov t c)
  pc : t'.flow.pc = h
  d : t'.flow.D = t.flow.pres
  inHandler : t'.sync.inHandler = true
  run : t'.sync.park = .run
  regs : t'.regs = t.regs
  kept : t'.flow.pres = t.flow.pres ∧ t'.flow.stack = t.flow.stack

/-! ## Results of the scalar and mask instructions, as the rules' tables give them -/

/-- R528, R530, R532: the short scalar forms of two operands, with their results on a and b. -/
def scalarRules (z : BitVec 1) (d a b : BitVec 6) (i : BitVec 1) : List (Instr × (Word → Word → Word)) :=
  [ (.sadd z d a b i, fun x y => BitVec.ofNat 64 (x.toNat + y.toNat)),
    (.ssub z d a b i, fun x y => BitVec.ofInt 64 ((x.toNat : Int) - y.toNat)),
    (.sand z d a b i, fun x y => x &&& y),
    (.sor z d a b i, fun x y => x ||| y),
    (.sxor z d a b i, fun x y => x ^^^ y),
    (.sandn z d a b i, fun x y => x &&& ~~~y),
    (.sshl z d a b i, fun x y => BitVec.ofNat 64 (x.toNat * 2 ^ (y.toNat % 64))),
    (.sshr z d a b i, fun x y => BitVec.ofNat 64 (x.toNat / 2 ^ (y.toNat % 64))),
    (.ssra z d a b i, fun x y => BitVec.ofInt 64 (x.toInt / 2 ^ (y.toNat % 64))),
    (.sseq z d a b i, fun x y => if x = y then 1 else 0),
    (.ssne z d a b i, fun x y => if x = y then 0 else 1),
    (.sslt z d a b i, fun x y => if x.toInt < y.toInt then 1 else 0),
    (.ssltu z d a b i, fun x y => if x.toNat < y.toNat then 1 else 0),
    (.ssle z d a b i, fun x y => if x.toInt ≤ y.toInt then 1 else 0),
    (.ssleu z d a b i, fun x y => if x.toNat ≤ y.toNat then 1 else 0),
    (.smin z d a b i, fun x y => BitVec.ofInt 64 (min x.toInt y.toInt)),
    (.smax z d a b i, fun x y => BitVec.ofInt 64 (max x.toInt y.toInt)),
    (.smul z d a b i, fun x y => BitVec.ofNat 64 (x.toNat * y.toNat)),
    (.smulh z d a b i, fun x y => BitVec.ofInt 64 (x.toInt * y.toInt / 2 ^ 64)),
    (.smulhu z d a b i, fun x y => BitVec.ofNat 64 (x.toNat * y.toNat / 2 ^ 64)),
    (.srotl z d a b i, fun x y => x <<< (y.toNat % 64) ||| x >>> (64 - y.toNat % 64)),
    (.srotr z d a b i, fun x y => x >>> (y.toNat % 64) ||| x <<< (64 - y.toNat % 64)) ]

/-- R530: the divide and remainder forms, with their results on a and b. -/
def divideRules (z : BitVec 1) (d a b : BitVec 6) (i : BitVec 1) : List (Instr × (Word → Word → Word)) :=
  [ (.sdiv z d a b i, fun x y => BitVec.ofInt 64 (Int.tdiv x.toInt y.toInt)),
    (.sdivu z d a b i, fun x y => BitVec.ofNat 64 (x.toNat / y.toNat)),
    (.srem z d a b i, fun x y => BitVec.ofInt 64 (x.toInt - y.toInt * Int.tdiv x.toInt y.toInt)),
    (.sremu z d a b i, fun x y => BitVec.ofNat 64 (x.toNat - y.toNat * (x.toNat / y.toNat))) ]

/-- R532: the unary scalar forms, with what their result r says of a. -/
def unaryRules (z : BitVec 1) (d a : BitVec 6) : List (Instr × (Word → Word → Prop)) :=
  [ (.sclz z d a, fun x r => r.toNat ≤ 64 ∧ (∀ j, j < r.toNat → x.getLsbD (63 - j) = false) ∧ (r.toNat < 64 → x.getLsbD (63 - r.toNat) = true)),
    (.sctz z d a, fun x r => r.toNat ≤ 64 ∧ (∀ j, j < r.toNat → x.getLsbD j = false) ∧ (r.toNat < 64 → x.getLsbD r.toNat = true)),
    (.spopc z d a, fun x r => r.toNat = ((List.range 64).filter fun j => x.getLsbD j).length),
    (.sbrev z d a, fun x r => ∀ j, j < 64 → r.getLsbD (63 - j) = x.getLsbD j),
    (.sbswap z d a, fun x r => ∀ j, j < 8 → r.extractLsb' (8 * (7 - j)) 8 = x.extractLsb' (8 * j) 8) ]

/-- R534: the mask forms with a mask result, on the masks ka and kb. -/
def maskRules (z : BitVec 1) (d a b : BitVec 3) : List (Instr × (Mask → Mask → Mask)) :=
  [ (.kand z d a b, fun x y => x &&& y),
    (.kor z d a b, fun x y => x ||| y),
    (.kxor z d a b, fun x y => x ^^^ y),
    (.knot z d a, fun x _ => ~~~x),
    (.kandn z d a b, fun x y => x &&& ~~~y),
    (.kmov z d a, fun x _ => x) ]

/-- R529: the immediate of `saddi`: 13 bits, or 38 bits with an IMM word before it, signed. -/
def addImmediate (c : Cur) (i : BitVec 13) : Word :=
  if c.entry.immw = 0 then i.signExtend 64 else ((c.entry.immw.extractLsb' 0 25) ++ i).signExtend 64

/-! ## Lane-wise results -/

/-- A lane-wise instruction completes with a short result: vector register `d` takes `f` in the governed lanes (R273, R481, R492),
one pass being taken for each word of the mask that is not empty (R254). -/
def ShortV (i : Instr) (s : State) (c : Cur) (t : Team) (z : BitVec 1) (d : Nat) (f : Nat → Word) : Prop :=
  ∃ s' t' r, exec i s = .next s' ∧ WritesV t.regs r (gov t c) t.flow.pres c.zero d f ∧
    Leaves s s' c { t with regs := r } z c.next { c.entry with done := true } (lanePasses t c) t'

/-- A lane-wise instruction completes with a long result (R480): its entry holds the writes, whose performance gives register
`d` the values of `f` in the governed lanes; with no lane governed there is nothing to write. -/
def LongV (i : Instr) (s : State) (c : Cur) (t : Team) (z : BitVec 1) (d : Nat) (f : Nat → Word) : Prop :=
  ∃ s' t' ws, exec i s = .next s' ∧ WritesV t.regs (t.regs.writes ws) (gov t c) t.flow.pres c.zero d f ∧
    Leaves s s' c t z c.next (if ws = [] then { c.entry with done := true } else { c.entry with res := ws, dest := destsOf ws })
      (lanePasses t c) t'

/-- A floating instruction's result is short, or long when the form is or a governed lane diverts its pass (R470, R480). -/
def FloatV (long : Bool) (div : Nat → Bool) (i : Instr) (s : State) (c : Cur) (t : Team) (z : BitVec 1) (d : Nat) (f : Nat → Word) : Prop :=
  if long = true ∨ ∃ l, l < t.regs.lanes ∧ (gov t c).getLsbD l = true ∧ div l = true then LongV i s c t z d f else ShortV i s c t z d f

/-! ## Results of the vector instructions, as the rules' tables give them -/

/-- R488, R545: the width of a sub-element of an integer type code. -/
def elemBits (ty : BitVec 3) : Nat := 64 / 2 ^ (ty.toNat % 4)
/-- R275: sub-element `j` of width `w` of a lane. -/
def elem (w : Nat) (x : Word) (j : Nat) : BitVec w := x.extractLsb' (w * j) w
/-- R453, R545: codes 0 to 3 are signed. -/
def elemInt (ty : BitVec 3) {w : Nat} (x : BitVec w) : Int := if ty.toNat < 4 then x.toInt else x.toNat
/-- R546: an integer clamped to the range of a type code. -/
def clampTo (ty : BitVec 3) (w : Nat) (v : Int) : Int :=
  if ty.toNat < 4 then max (-(2 ^ (w - 1))) (min (2 ^ (w - 1) - 1) v) else max 0 (min (2 ^ w - 1) v)
/-- R545: what a comparison writes. -/
def elemBool (w : Nat) (p : Bool) : BitVec w := if p then BitVec.allOnes w else 0

/-- R545, R546, R548, R549: the integer forms of two sources, with their result on sub-elements a and b. -/
def integerRules (z : BitVec 1) (d a b : BitVec 6) (ty : BitVec 3) (w : Nat) : List (Instr × (BitVec w → BitVec w → BitVec w)) :=
  [ (.vadd z d a b ty, fun x y => x + y),
    (.vsub z d a b ty, fun x y => x - y),
    (.vadds z d a b ty, fun x y => BitVec.ofInt w (clampTo ty w (elemInt ty x + elemInt ty y))),
    (.vsubs z d a b ty, fun x y => BitVec.ofInt w (clampTo ty w (elemInt ty x - elemInt ty y))),
    (.vmin z d a b ty, fun x y => if elemInt ty x ≤ elemInt ty y then x else y),
    (.vmax z d a b ty, fun x y => if elemInt ty x ≤ elemInt ty y then y else x),
    (.vsll z d a b ty, fun x y => x <<< (y.toNat % w)),
    (.vsrl z d a b ty, fun x y => x >>> (y.toNat % w)),
    (.vsra z d a b ty, fun x y => x.sshiftRight (y.toNat % w)),
    (.vcmpeq z d a b ty, fun x y => elemBool w (x = y)),
    (.vcmplt z d a b ty, fun x y => elemBool w (elemInt ty x < elemInt ty y)),
    (.vcmple z d a b ty, fun x y => elemBool w (elemInt ty x ≤ elemInt ty y)),
    (.vmul z d a b ty, fun x y => x * y),
    (.vmulh z d a b ty, fun x y => BitVec.ofInt w (elemInt ty x * elemInt ty y / 2 ^ w)),
    (.vand z d a b ty, fun x y => x &&& y),
    (.vor z d a b ty, fun x y => x ||| y),
    (.vxor z d a b ty, fun x y => x ^^^ y) ]

/-- R546, R549: the integer forms of one source. -/
def integerUnary (z : BitVec 1) (d a : BitVec 6) (ty : BitVec 3) (w : Nat) : List (Instr × (BitVec w → BitVec w)) :=
  [ (.vabs z d a ty, fun x => if elemInt ty x < 0 then -x else x),
    (.vneg z d a ty, fun x => -x),
    (.vnot z d a ty, fun x => ~~~x),
    (.vpopc z d a ty, fun x => BitVec.ofNat w (((List.range w).filter fun i => x.getLsbD i).length)) ]

/-- The source operand `va` (0) or `vb` (1) in a lane, as the instruction reads it (R539, R543). -/
def srcOf (t : Team) (c : Cur) (which : Nat) (r d : BitVec 6) (n l : Nat) : Word := srcLane t c which r.toNat n l (rdV t c d.toNat l)
/-- R548, R551: the third operand: the fourth register of MOD, or the old destination. -/
def thirdOf (t : Team) (c : Cur) (d : BitVec 6) (l : Nat) : Word := rdV t c (c.freg.getD d.toNat) l

/-- R464, R465, R551: the rounding in force for an instruction: `fmt.rnd` or the MOD override, `rsr` acting as `rne`. -/
def roundingOf (t : Team) (c : Cur) : Rnd :=
  let m := c.rov.getD (fmtRnd t.regs.fmt)
  { mode := if m = 5 then 0 else m, sat := fmtSat t.regs.fmt, ftz := fmtFtz t.regs.fmt }
/-- R551: rounding toward minus infinity is in force. -/
def downward (t : Team) (c : Cur) : Bool := c.rov.getD (fmtRnd t.regs.fmt) = 2

/-- A floating form: how many of a, b and c it reads, whether its result is always long, whether the result is a floating
code, and the result on the flushed codes. -/
structure FloatRule where
  i : Instr
  reads : Nat
  long : Bool := false
  code : Bool := true
  result : FFmt → Team → Cur → Nat → Nat → Nat → Nat

/-- R551: an exact result rounded once. -/
def rounded (r : Bool → Fp → Fp → Fp → Fp) (f : FFmt) (t : Team) (c : Cur) (x y k : Nat) : Nat :=
  f.ofFp (roundingOf t c) (r (downward t c) (f.decode x) (f.decode y) (f.decode k))
/-- R553: a comparison of two values. -/
def compared (r : Fp → Fp → Bool) (f : FFmt) (_t : Team) (_c : Cur) (x y _k : Nat) : Nat :=
  if r (f.decode x) (f.decode y) then 2 ^ f.width - 1 else 0
/-- R553: one value is a NaN. -/
def unordered (x y : Fp) : Bool := x.isNan || y.isNan

/-- R551 to R554: the floating forms. -/
def floatRules (z : BitVec 1) (d a b : BitVec 6) (ty : BitVec 3) : List FloatRule :=
  [ { i := .vfadd z d a b ty, reads := 2, result := rounded fun m x y _ => Fp.add m x y },
    { i := .vfsub z d a b ty, reads := 2, result := rounded fun m x y _ => Fp.add m x y.neg },
    { i := .vfmul z d a b ty, reads := 2, result := rounded fun _ x y _ => Fp.mul x y },
    { i := .vfma z d a b ty, reads := 3, result := rounded fun m x y k => Fp.add m (Fp.mul x y) k },
    { i := .vfms z d a b ty, reads := 3, result := rounded fun m x y k => Fp.add m (Fp.mul x y) k.neg },
    { i := .vfnma z d a b ty, reads := 3, result := rounded fun m x y k => Fp.add m (Fp.mul x y).neg k },
    { i := .vfdiv z d a b ty, reads := 2, long := true, result := fun f t c x y _ => f.div (roundingOf t c) (f.decode x) (f.decode y) },
    { i := .vfmin z d a b ty, reads := 2, result := fun f _ _ x y _ => fpMinMax f false x y },
    { i := .vfmax z d a b ty, reads := 2, result := fun f _ _ x y _ => fpMinMax f true x y },
    { i := .vfsgn z d a b ty, reads := 2, result := fun f _ _ x y _ => fpCopySign f x y },
    { i := .vfcmpEq z d a b ty, reads := 2, code := false, result := compared fun x y => !unordered x y && decide (Fp.cmp x y = 0) },
    { i := .vfcmpNe z d a b ty, reads := 2, code := false, result := compared fun x y => unordered x y || decide (Fp.cmp x y ≠ 0) },
    { i := .vfcmpLt z d a b ty, reads := 2, code := false, result := compared fun x y => !unordered x y && decide (Fp.cmp x y < 0) },
    { i := .vfcmpLe z d a b ty, reads := 2, code := false, result := compared fun x y => !unordered x y && decide (Fp.cmp x y ≤ 0) },
    { i := .vfcmpGt z d a b ty, reads := 2, code := false, result := compared fun x y => !unordered x y && decide (0 < Fp.cmp x y) },
    { i := .vfcmpGe z d a b ty, reads := 2, code := false, result := compared fun x y => !unordered x y && decide (0 ≤ Fp.cmp x y) },
    { i := .vfcmpOrd z d a b ty, reads := 2, code := false, result := compared fun x y => !unordered x y },
    { i := .vfcmpUno z d a b ty, reads := 2, code := false, result := compared fun x y => unordered x y } ]

/-- R551, R552, R554: the floating forms of one source. -/
def floatUnary (z : BitVec 1) (d a : BitVec 6) (ty : BitVec 3) : List FloatRule :=
  [ { i := .vfsqrt z d a ty, reads := 1, long := true, result := fun f t c x _ _ => f.sqrt (roundingOf t c) (f.decode x) },
    { i := .vfabs z d a ty, reads := 1, result := fun f _ _ x _ _ => fpSetSign f x false },
    { i := .vfneg z d a ty, reads := 1, result := fun f t _ x _ _ => fpNegate f (fmtSat t.regs.fmt) x },
    { i := .vfclass z d a ty, reads := 1, code := false, result := fun f _ _ x _ _ => fpClass f x } ]

/-- R469, R550: a source code of a floating type, flushed. -/
def flushed (t : Team) (f : FFmt) (x : Nat) : Nat := f.flush (fmtFtz t.regs.fmt) x
/-- R470: a code that diverts its pass: a subnormal of a format other than binary8, without `ftz`. -/
def divertedCode (t : Team) (f : FFmt) (x : Nat) : Bool := !fmtFtz t.regs.fmt && !f.b8 && f.isSub x

/-! ## Conversions and cross-lane results -/

/-- R555: where destination sub-element `j` of part `q` comes from: a source sub-element, or none where it keeps its value. -/
def convertedPart (ns nd q j : Nat) : Option Nat :=
  if nd ≤ ns then some (q * nd + j) else if j / ns = q then some (j % ns) else none

/-- A conversion from sub-elements of `ws` bits to `wd` bits completes: `val` gives the value for lane, destination sub-element and
source code, `dv` tells what diverts, and with `on` the seed advances one draw a pass (R470, R471, R555). -/
def Converts (i : Instr) (on : Bool) (ws wd q : Nat) (s : State) (c : Cur) (t : Team) (z : BitVec 1) (d a : BitVec 6)
    (val : Nat → Nat → Nat → Nat) (dv : Nat → Nat → Bool) : Prop :=
  ∃ f div, FloatV false div i s c (seedAfter t c on) z d.toNat f ∧ ∀ l,
    let x := srcOf t c 0 a d (64 / ws) l
    (∀ j, j < 64 / wd → elem wd (f l) j = match convertedPart (64 / ws) (64 / wd) q j with
      | some i => BitVec.ofNat wd (val l j (sub x ws i))
      | none => elem wd (rdV t c d.toNat l) j) ∧
    (div l = true ↔ ∃ j i, j < 64 / wd ∧ convertedPart (64 / ws) (64 / wd) q j = some i ∧
      dv (sub x ws i) (val l j (sub x ws i)) = true)

/-- R558: the source code a `vpack` destination code fixes. -/
def narrowedFrom (ty : BitVec 3) : BitVec 3 := if ty = 1 then 0 else if ty = 4 then 2 else 1
/-- R559: the destination code a `vunpack` source code converts to. -/
def widenedTo (ty : BitVec 3) : BitVec 3 := if ty = 1 then 0 else if ty = 4 then 2 else 1

/-- R561: the special functions, by number. -/
def specialForms (z : BitVec 1) (d a : BitVec 6) (ty : BitVec 3) : List (Instr × Nat) :=
  [(.vrcp z d a ty, 0), (.vrsqrt z d a ty, 1), (.vexp2 z d a ty, 2), (.vlog2 z d a ty, 3), (.vsin z d a ty, 4), (.vcos z d a ty, 5),
   (.vtanh z d a ty, 6)]

/-- R563: the lanes of a segment. -/
def segmentWidth (t : Team) (c : Cur) : Nat := if c.hasModx = true then 2 ^ bits c.parm 3 0 else t.regs.lanes
/-- R563: the first lane of a lane's segment. -/
def segmentOf (t : Team) (c : Cur) (l : Nat) : Nat := l - l % segmentWidth t c
/-- R563, R564: element `i` of lane l's segment, or what is delivered beyond it. -/
def segmentElem (t : Team) (c : Cur) (a d : BitVec 6) (w l j i : Nat) : BitVec w :=
  let e := i / (64 / w)
  if e < segmentWidth t c ∧ segmentOf t c l + e < t.regs.lanes then elem w (rdV t c a.toNat (segmentOf t c l + e)) (i % (64 / w))
  else if c.keep = true then elem w (rdV t c d.toNat l) j else 0
/-- The governed lanes of lane l's segment, ascending. -/
def segmentLanes (t : Team) (c : Cur) (l : Nat) : List Nat :=
  (List.range t.regs.lanes).filter fun k => (gov t c).getLsbD k && decide (segmentOf t c k = segmentOf t c l)

/-- R565: the width of the sub-elements of an operation's type row. -/
def scanBits (o : BitVec 4) (ty : BitVec 3) : Nat := if o.toNat < 6 then elemBits ty else fltW ty.toNat
/-- R565: an operation on sub-elements. -/
def scanRule (o : BitVec 4) (ty : BitVec 3) (t : Team) (c : Cur) (x y : Nat) : Nat :=
  let w := elemBits ty
  let ff := fltFmt ty.toNat t.regs.fmt
  let X := BitVec.ofNat w x
  let Y := BitVec.ofNat w y
  match o.toNat with
  | 0 => (X + Y).toNat
  | 1 => if elemInt ty X ≤ elemInt ty Y then X.toNat else Y.toNat
  | 2 => if elemInt ty X ≤ elemInt ty Y then Y.toNat else X.toNat
  | 3 => (X &&& Y).toNat
  | 4 => (X ||| Y).toNat
  | 5 => (X ^^^ Y).toNat
  | 6 => ff.ofFp (roundingOf t c) (Fp.add (downward t c) (ff.decode (flushed t ff x)) (ff.decode (flushed t ff y)))
  | 7 => fpMinMax ff false (flushed t ff x) (flushed t ff y)
  | _ => fpMinMax ff true (flushed t ff x) (flushed t ff y)
/-- R565: the identity of an operation. -/
def scanIdentity (o : BitVec 4) (ty : BitVec 3) (t : Team) : Nat :=
  let w := elemBits ty
  let ff := fltFmt ty.toNat t.regs.fmt
  match o.toNat with
  | 0 | 4 | 5 => 0
  | 1 => if ty.toNat < 4 then 2 ^ (w - 1) - 1 else 2 ^ w - 1
  | 2 => if ty.toNat < 4 then 2 ^ (w - 1) else 0
  | 3 => 2 ^ w - 1
  | 6 => if ff.b8 = true ∨ ff.uns = true then 0 else 2 ^ (ff.width - 1)
  | _ => ff.nanBits
/-- R565: the values of some lanes combined left to right from the identity. -/
def scanned (o : BitVec 4) (ty : BitVec 3) (t : Team) (c : Cur) (a : BitVec 6) (j : Nat) (ls : List Nat) : Nat :=
  ls.foldl (fun x k => scanRule o ty t c x (sub (rdV t c a.toNat k) (scanBits o ty) j)) (scanIdentity o ty t)

/-! ## Causes, jumps and the reconvergence stack -/

/-- A form raises a cause for its governing mask, with no information (R420, R430). -/
def Raises (i : Instr) (s : State) (c : Cur) (t : Team) (cause : Nat) : Prop :=
  exec i s = .next (s.raise c t { cause := cause } (gov t c))

/-- R489: a signed offset of `w` bits, or of 25 + w bits with an IMM word. -/
def wideOffset (c : Cur) {w : Nat} (o : BitVec w) : Int :=
  if c.entry.immw = 0 then o.toInt else ((c.entry.immw.extractLsb' 0 25) ++ o).toInt
/-- R514, R517: the target of an offset: four bytes a word from the instruction word. -/
def jumpTarget (c : Cur) {w : Nat} (o : BitVec w) : Int := (c.entry.pc.toNat : Int) + 4 * wideOffset c o
/-- R514: a target inside the text, at a word. -/
def TextTarget (s : State) (t : Team) (tgt : Int) : Prop := 0 ≤ tgt ∧ tgt < s.tlen t ∧ tgt % 4 = 0

/-- A branch: whether it is taken, its target, and whether it writes the link register. -/
structure BranchRule where
  i : Instr
  taken : Prop
  tgt : Int
  link : Bool := false

/-- R514: the branches, over mask register k, scalar register r and their offsets. -/
def branchRules (t : Team) (c : Cur) (z : BitVec 1) (k : BitVec 3) (r : BitVec 6) (o : BitVec 18) (q : BitVec 12) : List BranchRule :=
  let m := rdK t c k.toNat
  let a := t.flow.active
  let x := rdS t c r.toNat
  [ { i := .b z o, taken := True, tgt := jumpTarget c o },
    { i := .bal z o, taken := True, tgt := jumpTarget c o, link := true },
    { i := .bcAny z k o, taken := m &&& a ≠ 0, tgt := jumpTarget c o },
    { i := .bcNone z k o, taken := m &&& a = 0, tgt := jumpTarget c o },
    { i := .bcAll z k o, taken := a &&& ~~~m = 0, tgt := jumpTarget c o },
    { i := .bcNall z k o, taken := a &&& ~~~m ≠ 0, tgt := jumpTarget c o },
    { i := .bcEq z r q, taken := x = 0, tgt := jumpTarget c q },
    { i := .bcNe z r q, taken := x ≠ 0, tgt := jumpTarget c q },
    { i := .bcLt z r q, taken := x.toInt < 0, tgt := jumpTarget c q },
    { i := .bcGe z r q, taken := 0 ≤ x.toInt, tgt := jumpTarget c q },
    { i := .bcGt z r q, taken := 0 < x.toInt, tgt := jumpTarget c q },
    { i := .bcLe z r q, taken := x.toInt ≤ 0, tgt := jumpTarget c q },
    { i := .jr z r, taken := True, tgt := x.toInt },
    { i := .jalr z r, taken := True, tgt := x.toInt, link := true } ]

/-- An instruction leaves its team as `t1` and the rest of the machine as `s1`, and the program counter at `next`. -/
def Goes (i : Instr) (s s1 : State) (c : Cur) (t1 : Team) (z : BitVec 1) (next : Word) : Prop :=
  ∃ s' t', exec i s = .next s' ∧ Leaves s1 s' c t1 z next { c.entry with done := true } 1 t'

/-- R516, R517: what a form of major 0x03 does that jumps when `jumps` holds: the team goes on as `tn` at the next word, or as `tj` at
a target inside the text, or the target raises 0x0E and nothing changes. -/
def Continues (i : Instr) (s s1 : State) (c : Cur) (t tn tj : Team) (z : BitVec 1) (jumps : Prop) (tgt : Int) : Prop :=
  (¬ jumps → Goes i s s1 c tn z c.next) ∧
  (jumps → TextTarget s t tgt → Goes i s s1 c tj z (BitVec.ofInt 64 tgt)) ∧
  (jumps → ¬ TextTarget s t tgt → Raises i s c t 0x0E)

/-- R281, R282: an entry can be pushed: at most 256 deep, and the slot of the entry that it spills lies in the allotment, off
every allocated granule. -/
def StackFits (t : Team) : Prop :=
  t.flow.stack.length < 256 ∧
  (16 ≤ t.flow.stack.length →
    144 * (t.flow.stack.length - 15) ≤ t.sync.stashLen ∧
    ∀ a ∈ t.sync.allocs, a.joined = false →
      t.sync.stashBase + t.sync.stashLen - 144 * (t.flow.stack.length - 15) + 144 ≤ a.base ∨
      a.base + a.len ≤ t.sync.stashBase + t.sync.stashLen - 144 * (t.flow.stack.length - 15))

/-- R281: the ticks of the spill that a push causes. -/
def pushTicks (t : Team) : Nat := if 16 ≤ t.flow.stack.length then 9 else 0
/-- R281: the ticks of the fill that a pop causes. -/
def popTicks (t : Team) : Nat := if 17 ≤ t.flow.stack.length then 9 else 0

/-- R518, R521: the team after a push of `e`, with its divergence mask narrowed to `m`. -/
def pushed (t : Team) (e : StackEnt) (m : Mask) : Team :=
  { t with flow := { t.flow with stack := e :: t.flow.stack, D := t.flow.D &&& m } }
/-- R280, R520: the team after a pop of `e`, `r` being left. -/
def popped (t : Team) (e : StackEnt) (r : List StackEnt) : Team :=
  { t with flow := { t.flow with stack := r, D := e.mask }, regs := { t.regs with fmt := e.fmt } }

/-- R641: the team after its lanes `x` have exited. -/
def exited (t : Team) (x : Mask) : Team :=
  { t with flow := { t.flow with stack := t.flow.stack.map (fun e => { e with mask := e.mask &&& ~~~x }), D := t.flow.D &&& ~~~x,
                                 pres := t.flow.pres &&& ~~~x, exited := t.flow.exited ||| x } }

/-! ## The state space -/

/-- R423, R649: the team state space, word by word: what a read gives and what a write changes. -/
structure StateSpace (t : Team) : Prop where
  tpc : spaceRead t 0 = t.sync.frame.tpc ∧ ∀ v, spaceWrite t 0 v = { t with sync := { t.sync with frame := { t.sync.frame with tpc := v &&& ~~~3 } } }
  tcause : spaceRead t 1 = if t.sync.frame.valid = true then BitVec.ofNat 64
    (t.sync.frame.cause + 2 ^ 8 * t.sync.frame.cls + (if t.sync.inHandler = true then 2 ^ 16 else 0) + if t.sync.frame.noPc = true then 2 ^ 17 else 0) else 0
  rqlen : spaceRead t 2 = BitVec.ofNat 64 t.sync.frame.rq.length
  tstate : spaceRead t 3 = if t.sched.frozen.isSome = true then 4 else if t.sched.halted = true then 3 else if t.sync.inHandler = true then 2 else if t.sync.park = .run then 0 else 1
  tent : spaceRead t 4 = BitVec.ofNat 64 (t.sync.frame.tfmt.toNat + 2 ^ 32 * t.sync.frame.tdepth)
  tid : spaceRead t 5 = BitVec.ofNat 64 (t.id.index + 2 ^ 20 * t.id.img + 2 ^ 32 * t.id.stage + 2 ^ 40 * t.id.core + 2 ^ 52 * (t.id.slot % 16))
  info : ∀ n, n < 8 → spaceRead t (8 + n) = t.sync.frame.info.getD n 0
  lanes : ∀ (i : BitVec 4) (j : BitVec 6), let l := 64 * i.toNat + j.toNat
    (spaceRead t (0x40 + i.toNat)).getLsbD j.toNat = t.sync.frame.dent.getLsbD l ∧ (spaceRead t (0x50 + i.toNat)).getLsbD j.toNat = t.flow.pres.getLsbD l ∧
    (spaceRead t (0x60 + i.toNat)).getLsbD j.toNat = t.flow.away.getLsbD l ∧ (spaceRead t (0x70 + i.toNat)).getLsbD j.toNat = t.flow.exited.getLsbD l
  readK : ∀ n, 1 ≤ n → n ≤ 7 → ∀ (i : BitVec 4) (j : BitVec 6), (spaceRead t (0x80 + 16 * (n - 1) + i.toNat)).getLsbD j.toNat = (t.regs.getK n).getLsbD (64 * i.toNat + j.toNat)
  writeK : ∀ n, 1 ≤ n → n ≤ 7 → ∀ (i : BitVec 4) (v : Word), ∃ m : Mask, spaceWrite t (0x80 + 16 * (n - 1) + i.toNat) v = { t with regs := t.regs.setK n m } ∧
    ∀ l, l < 1024 → m.getLsbD l = if l / 64 = i.toNat then v.getLsbD (l % 64) else (t.regs.getK n).getLsbD l
  scalars : ∀ n : BitVec 6, spaceRead t (0x100 + n.toNat) = t.regs.getS n.toNat ∧ ∀ v, spaceWrite t (0x100 + n.toNat) v = { t with regs := t.regs.setS n.toNat v }
  stack : ∀ d i, 1 ≤ d → d ≤ 256 → i < 18 → spaceRead t (0x200 + 18 * (d - 1) + i) = match t.flow.stack.reverse[d - 1]? with | some e => stackWord e i | none => 0
  layout : ∀ (e : StackEnt) (i : BitVec 4) (j : BitVec 6), stackWord e 0 = BitVec.ofNat 64 (e.kind + 2 ^ 32 * (e.pc.toNat % 2 ^ 32)) ∧
    stackWord e 1 = BitVec.ofNat 64 (e.fmt.toNat + 2 ^ 32 * (summary e.mask).toNat) ∧ (stackWord e (2 + i.toNat)).getLsbD j.toNat = e.mask.getLsbD (64 * i.toNat + j.toNat)
  entry : ∀ n e, n < 24 → t.sync.frame.rq[n]? = some e → ∀ o, o < 0x2000 → spaceRead t (0x10000 + 0x2000 * n + o) = e.word64 o
  noEntry : ∀ n o, n < 24 → t.sync.frame.rq.length ≤ n → o < 0x2000 → spaceRead t (0x10000 + 0x2000 * n + o) = 0 ∧ ∀ v, spaceWrite t (0x10000 + 0x2000 * n + o) v = t
  writeEntry : ∀ n o, n < 24 → o < 0x2000 → ∀ v, spaceWrite t (0x10000 + 0x2000 * n + o) v = { t with sync := { t.sync with frame := { t.sync.frame with
    rq := t.sync.frame.rq.modify n fun e => e.setWord64 o v } } }
  vectors : ∀ (r : BitVec 6) (l : BitVec 10), spaceRead t (0x80000 + 0x400 * r.toNat + l.toNat) = (if r.toNat < t.regs.allot then t.regs.getV r.toNat l.toNat else 0) ∧
    ∀ v, spaceWrite t (0x80000 + 0x400 * r.toNat + l.toNat) v = if r.toNat < t.regs.allot then { t with regs := t.regs.setV r.toNat l.toNat v } else t
  readOnly : ∀ a v, (1 ≤ a ∧ a < 0x80) ∨ (0x200 ≤ a ∧ a < 0x1400) → spaceWrite t a v = t
  unlisted : ∀ a, (a = 6 ∨ a = 7 ∨ (0x10 ≤ a ∧ a < 0x40) ∨ (0xF0 ≤ a ∧ a < 0x100) ∨ (0x140 ≤ a ∧ a < 0x200) ∨ (0x1400 ≤ a ∧ a < 0x10000) ∨
    (0x40000 ≤ a ∧ a < 0x80000) ∨ 0x90000 ≤ a) → spaceRead t a = 0 ∧ ∀ v, spaceWrite t a v = t
  header : ∀ e : Entry, e.word64 0 = BitVec.ofNat 64 (e.word.toNat + 2 ^ 32 * e.modw.toNat) ∧ e.word64 1 = BitVec.ofNat 64 (e.immw.toNat + 2 ^ 32 * (e.pc.toNat % 2 ^ 32)) ∧
    (e.word64 2).getLsbD 0 = e.done ∧ (e.word64 2).getLsbD 1 = e.faulting ∧ (e.word64 2).getLsbD 2 = e.drop ∧
    ∀ v, e.setWord64 0 v = e ∧ e.setWord64 1 v = e ∧ e.setWord64 2 v = { e with drop := v.getLsbD 2 }
  governing : ∀ (e : Entry) (i : BitVec 4) (v : Word), (∀ j : BitVec 6, (e.word64 (3 + i.toNat)).getLsbD j.toNat = e.gov.getLsbD (64 * i.toNat + j.toNat)) ∧
    ∃ m : Mask, e.setWord64 (3 + i.toNat) v = { e with gov := m } ∧
      ∀ l, l < 1024 → m.getLsbD l = (e.gov.getLsbD l && (decide (l / 64 ≠ i.toNat) || v.getLsbD (l % 64)))
  operand : ∀ (e : Entry) (o : BitVec 2) (l : BitVec 10), (e.word64 (0x400 * (o.toNat + 1) + l.toNat) = match e.ops[o.toNat]? with | some p => Tbl.getD p.vals l.toNat 0 | none => 0) ∧
    ∀ v, e.setWord64 (0x400 * (o.toNat + 1) + l.toNat) v = { e with ops := e.ops.modify o.toNat fun p =>
      if p.vec = true ∨ l = 0 then { p with vals := Tbl.put p.vals l.toNat v } else p }

/-! ## Control registers -/

/-- R494: what the control registers below the counters read, by number, in a team that has not landed from elsewhere. -/
def controlRules (s : State) (t : Team) : List (BitVec 6 × Word) :=
  let h := (s.launch t.id.launch).head
  [ (0x00, t.regs.fmt.setWidth 64), (0x01, BitVec.ofNat 64 s.now), (0x02, BitVec.ofNat 64 t.regs.gwct), (0x03, t.regs.srseed.setWidth 64),
    (0x04, if t.regs.hazchk = true then 1 else 0), (0x05, BitVec.ofNat 64 t.sync.tcause), (0x06, t.sync.frame.tpc), (0x07, BitVec.ofNat 64 t.sync.frame.rq.length),
    (0x08, BitVec.ofNat 64 t.id.ctx), (0x09, BitVec.ofNat 64 t.id.part), (0x0A, BitVec.ofNat 64 t.id.stage), (0x0B, BitVec.ofNat 64 t.id.prio),
    (0x0C, BitVec.ofNat 64 t.regs.lanes), (0x0D, BitVec.ofNat 64 h.args), (0x0E, BitVec.ofNat 64 h.lid), (0x0F, BitVec.ofNat 64 h.ver) ]

/-- R463: a value that `fmt` may hold. -/
def FmtValid (v : Word32) : Prop :=
  v.extractLsb' 0 3 < 6 ∧ v.extractLsb' 5 3 ≠ 0 ∧ v.extractLsb' 10 3 ≠ 0 ∧ v.extractLsb' 17 3 < 4 ∧ v.extractLsb' 24 8 = 0

/-- R463, R650: a form that writes `fmt` with `v`: a valid value is in force at the next instruction, another raises 0x10 for its rounding
mode or 0x11 and changes nothing. -/
def WritesFmt (i : Instr) (s : State) (c : Cur) (t : Team) (z : BitVec 1) (v : Word32) : Prop :=
  (FmtValid v → Becomes i s c { t with regs := { t.regs with fmt := v } } z) ∧
  (¬ v.extractLsb' 0 3 < 6 → Raises i s c t 0x10) ∧
  (v.extractLsb' 0 3 < 6 → ¬ FmtValid v → Raises i s c t 0x11)

/-! ## Aborting a launch -/

/-- The team `t` has a launch `l` that an abort event takes effect on, with no pool part and nothing chained to it; neither the
team nor the launch came from elsewhere, and the partition traces nothing. -/
structure CanAbort (s : State) (t : Team) (l : Launch) : Prop where
  launch : Tbl.get? s.launches t.id.launch = some l
  home : t.id.foreign = false ∧ t.id.landed = false
  open_ : l.abortable s.now = true ∧ l.dies = []
  alone : ∀ p ∈ s.launches, p.2.head.chain ≠ some t.id.launch
  untraced : (s.part l.head.part).cfg.trsize = 0 ∧ (s.part t.id.part).cfg.trsize = 0 ∧ (s.part t.id.part).cfg.trstall = false

/-- What an abort of a launch leaves (R225, R227): the launch and its teams are gone, the teams of the others stay, no byte of memory
has changed, and a completion record holds the cause and the status. -/
structure AbortedLaunch (s s' : State) (lk : Nat) (l : Launch) (cause status : Nat) : Prop where
  gone : Tbl.get? s'.launches lk = none
  teams : ∀ p ∈ s'.teams, p.2.id.launch ≠ lk
  others : ∀ j t, Tbl.get? s.teams j = some t → t.id.launch ≠ lk → Tbl.get? s'.teams j = some t
  mem : s'.mem = s.mem
  poison : s'.poison = s.poison
  cards : ∀ p ∈ s'.clusters, ∀ k ∈ p.2.cards, k.launch ≠ lk
  record : let r : CRec := { pid := l.head.pid, time := s.now, ver := l.head.ver, lid := l.head.lid, cause := cause, status := status, stream := l.head.stream, waits := [] }
    let x := s.ctx l.head.ctx
    let x' := s'.ctx l.head.ctx
    if x.crecs.length < 64 ∧ x.clate = [] then x'.crecs = x.crecs ++ [r] ∧ x'.clate = x.clate else x'.crecs = x.crecs ∧ x'.clate = x.clate ++ [r]

/-- R427, R425: the context has neither a handler nor a debugger. -/
def NoHandler (s : State) (t : Team) : Prop :=
  bit (s.ctx t.id.ctx).dbg.tvec.toNat 63 = false ∧ (s.ctx t.id.ctx).dbg.att = false

/-- R491: a hint word joins the words that wait for the instruction word of its group, and the program counter moves on. -/
def HintJoins (i : Instr) (s : State) (c : Cur) (t : Team) : Prop :=
  ∃ s' t', exec i s = .next s' ∧ OnlyTeam s s' c.team ∧ Tbl.get? s'.teams c.team = some t' ∧ s'.cur = none ∧
    t'.regs = t.regs ∧ t'.sync = t.sync ∧ t'.id = t.id ∧
    t'.flow = { t.flow with pc := c.next, gpc := if t.flow.hints = [] then c.entry.pc else t.flow.gpc, hints := t.flow.hints ++ [c.entry.word] }

/-! ## Memory instructions -/

/-- R570: the displacement of an IMM word. -/
def displacement (c : Cur) : Word := if c.entry.immw = 0 then 0 else (c.entry.immw.extractLsb' 0 25).signExtend 64
/-- R570, R390: the address of lane l by mode, and under handle addressing its handle. -/
def laneAddress (t : Team) (c : Cur) (m : Nat) (b : BitVec 6) (pol : Word32) (l : Nat) : Nat × Option Word :=
  if m = 0 then ((rdS t c b.toNat + displacement c + BitVec.ofNat 64 (8 * l)).toNat, none)
  else if m = 1 then ((rdV t c b.toNat l).toNat, none)
  else
    let o := rdV t c (c.freg.getD 0) l
    if pol.extractLsb' 26 2 = 1 then (o.toNat, some (rdS t c b.toNat)) else ((rdS t c b.toNat + o + displacement c).toNat, none)
/-- R570: the address of a scalar access. -/
def scalarAddress (t : Team) (c : Cur) (b : BitVec 6) : Nat := (rdS t c b.toNat + displacement c).toNat
/-- The governed lanes, ascending (R273). -/
def governed (t : Team) (c : Cur) : List Nat := (List.range t.regs.lanes).filter fun l => (gov t c).getLsbD l

/-- A memory instruction: what it allows of its policy word (R573), the policy word its accesses carry, the accesses of its lanes, the
team as it issues, whether it writes memory, and the registers whose results arrive later, with what `zero` writes first. -/
structure MemForm where
  i : Instr
  rule : PolRule
  pol : Word32 → Word32 := fun w => w
  accs : Word32 → List Acc
  prep : List Acc → Team
  writes : Bool := false
  dest : Word32 → List Acc → List (Nat × Nat) := fun _ _ => []
  zeroed : Option Nat := none
  passes : Nat

/-- R496, R597: the policy word of an access of majors 0x14, 0x15 and 0x1F. -/
def globalPol (t : Team) (w : Word32) : Word32 := streamPol t (tmPol t w)
/-- R496: the stream count falls by one with each access. -/
def streamStep (t : Team) : Team := { t with sched := { t.sched with stream := t.sched.stream - 1 } }
/-- R575: the register a load writes, and under `pflag` the flag mask; nothing when no lane is governed. -/
def loadRegs (cls : Nat) (d : BitVec 6) (w : Word32) (accs : List Acc) : List (Nat × Nat) :=
  if accs = [] then [] else if w.getLsbD 25 = true then [(cls, d.toNat), (2, 7)] else [(cls, d.toNat)]

/-- R570, R573, R576 to R579: the global loads and stores. -/
def globalForms (t : Team) (c : Cur) (z : BitVec 1) (d b p : BitVec 6) (m ty : BitVec 3) : List MemForm :=
  let e := elemBits ty / 8
  let n := if m = 0 then 8 / e else 1
  let at_ := fun w l => (laneAddress t c m.toNat b w l).1
  let h := fun w l => (laneAddress t c m.toNat b w l).2
  [ { i := .ld z d b p m ty, rule := { acq := true, rel := false, aspcOk := decide (m = 2), pflagOk := true }, pol := globalPol t
      accs := fun w => (governed t c).map fun l =>
        { kind := .load, lane := l, va := at_ w l, hnd := h w l, esz := e, cnt := n, ty := ty.toNat, pol := w, d := d.toNat }
      prep := fun _ => streamStep t, dest := loadRegs 1 d, zeroed := some d.toNat, passes := lanePasses t c },
    { i := .pf z b p m ty, rule := { acq := false, rel := false }, pol := globalPol t
      accs := fun w => (governed t c).map fun l => { kind := .pf, lane := l, va := at_ w l, esz := e, cnt := n, ty := ty.toNat, pol := w }
      prep := fun _ => streamStep t, passes := lanePasses t c },
    { i := .st z d b p m ty, rule := { acq := false, rel := true, aspcOk := decide (m = 2) }, pol := globalPol t, writes := true
      accs := fun w => (governed t c).map fun l =>
        { kind := .store, lane := l, va := at_ w l, hnd := h w l, esz := e, cnt := n, ty := ty.toNat, pol := w, x := rdV t c d.toNat l }
      prep := fun _ => streamStep t, passes := lanePasses t c },
    { i := .lds z d b p ty, rule := { acq := true, rel := false, pflagOk := true }, pol := globalPol t
      accs := fun w => [{ kind := .loadS, va := scalarAddress t c b, esz := e, ty := ty.toNat, pol := w, d := d.toNat }]
      prep := fun _ => streamStep t, dest := loadRegs 0 d, passes := 1 },
    { i := .sts z d b p ty, rule := { acq := false, rel := true }, pol := globalPol t, writes := true
      accs := fun w => [{ kind := .store, va := scalarAddress t c b, esz := e, ty := ty.toNat, pol := w, x := rdS t c d.toNat, stay := true }]
      prep := fun _ => streamStep t, passes := 1 } ]

/-- R570, R573, R585, R586, R588: the stash loads, stores and atomics. -/
def stashForms (t : Team) (c : Cur) (z : BitVec 1) (d b p : BitVec 6) (m : BitVec 2) (ty : BitVec 3) (q : BitVec 1) : List MemForm :=
  let e := elemBits ty / 8
  let n := if m = 0 then 8 / e else 1
  let acc := fun (k : AccKind) (w : Word32) (l : Nat) =>
    ({ kind := k, lane := l, va := (laneAddress t c m.toNat b w l).1, esz := e, cnt := n, ty := ty.toNat, pol := w, stash := true } : Acc)
  let ld := { acq := true, rel := false, leaseOk := false, migOk := false, pflagOk := true }
  let stalled := fun (a : List Acc) => if a = [] ∨ c.inj = true then t else { t with sync := { t.sync with park := .fe } }
  let load := fun (i : Instr) (k : AccKind) (prep : List Acc → Team) =>
    ({ i := i, rule := ld, accs := fun w => (governed t c).map fun l => { acc k w l with d := d.toNat }, prep := prep, dest := loadRegs 1 d
       zeroed := some d.toNat, passes := lanePasses t c } : MemForm)
  let store := fun (i : Instr) (full : Bool) =>
    ({ i := i, rule := { acq := false, rel := true, leaseOk := false, migOk := false }, writes := true
       accs := fun w => (governed t c).map fun l => { acc .store w l with x := rdV t c d.toNat l, setf := full }, prep := fun _ => t
       passes := lanePasses t c } : MemForm)
  let atom := fun (i : Instr) (op : Nat) =>
    ({ i := i, rule := { acq := true, rel := true, leaseOk := false, migOk := false }, writes := true
       accs := fun w => (governed t c).map fun l =>
         { kind := .satomic op, lane := l, va := (laneAddress t c m.toNat b w (if m = 0 then 0 else l)).1, esz := if q = 1 then 8 else 4
           ty := if q = 1 then 0 else 1, pol := w, d := d.toNat, x := rdV t c d.toNat l, stash := true }
       prep := fun _ => t, dest := fun _ a => if a = [] then [] else [(1, d.toNat)], zeroed := some d.toNat, passes := lanePasses t c } : MemForm)
  [ load (.sld z d b p m ty) .load fun _ => t, load (.sldFePeek z d b p m ty) (.fe false) stalled, load (.sldFeConsume z d b p m ty) (.fe true) stalled,
    store (.sst z d b p m ty) false, store (.sstFull z d b p m ty) true,
    atom (.saadd z d b p q m) 0, atom (.samin z d b p q m) 1, atom (.samax z d b p q m) 2, atom (.saxch z d b p q m) 3 ]

/-- R570, R573, R580, R581: the global atomics, by function. -/
def atomicForms (t : Team) (c : Cur) (z : BitVec 1) (d b p : BitVec 6) (ty : BitVec 3) : List MemForm :=
  let f : Word := match c.freg with | some r => rdS t c r | none => 0
  let fmt : Word32 := match c.rov with | some r => (t.regs.fmt &&& 0xFFFFFFF8) ||| BitVec.ofNat 32 r | none => t.regs.fmt
  [ (Instr.aadd z d b p ty, 0), (.afadd z d b p ty, 1), (.amin z d b p ty, 2), (.amax z d b p ty, 3), (.aand z d b p ty, 4),
    (.aor z d b p ty, 5), (.axor z d b p ty, 6), (.axch z d b p ty, 7), (.acas z d b p ty, 8), (.ainc z d b p ty, 9) ].map fun x =>
    { i := x.1, rule := { acq := true, rel := true, aspcOk := true }, pol := tmPol t, writes := true
      accs := fun w => (governed t c).map fun l =>
        let v := rdV t c b.toNat l
        let handle := w.extractLsb' 26 2 = 1
        { kind := .atomic x.2, lane := l, va := if handle then v.toNat else (v + f).toNat, hnd := if handle then some f else none
          esz := (if x.2 = 1 then fltW ty.toNat else elemBits ty) / 8, ty := ty.toNat, pol := w, d := d.toNat, x := rdV t c d.toNat l
          e := if x.2 = 8 then rdV t c (d.toNat + 1) l else 0, fmt := fmt }
      prep := fun _ => t, dest := fun _ a => if a = [] then [] else [(1, d.toNat)], zeroed := some d.toNat, passes := lanePasses t c }

/-- R574: the accesses of an entry go to their checks, in lane order. -/
def State.checkAll (s : State) (k eid : Nat) (accs : List Acc) : State :=
  (accs.foldl (fun s a => (s.checkAcc k (s.team k) a).2.settleAcc k eid a (s.checkAcc k (s.team k) a).1) s).settle k

/-- R492: under `zero` the present lanes outside the governing mask take zero. -/
def zeroLanes (t : Team) (c : Cur) (d : Nat) : List RegWrite :=
  if c.zero = true ∧ c.entry.stage = 0 then ((List.range t.regs.lanes).filter fun l => t.flow.pres.getLsbD l && !(gov t c).getLsbD l).map fun l => .v d l 0 else []

/-- A memory instruction issues: its policy word is allowed, its team leaves the slot with an entry that holds the accesses of its lanes
and awaits its registers, and the accesses go to their checks (R574); a policy word that is not allowed raises 0x07 with the word, or
0x05 for an absent feature (R497, R573). -/
def Issues (f : MemForm) (s : State) (c : Cur) (t : Team) (z : BitVec 1) (p : BitVec 6) : Prop :=
  let w : Word32 := (rdS t c p.toNat).setWidth 32
  (polCause f.rule (s.featOf t) w = none →
    let pol := f.pol w
    let accs : List Acc := (f.accs pol).map fun a => ({ a with nowatch := t.sched.skipBp || t.sync.inHandler } : Acc)
    let o := if f.writes = true then relOpen s (f.prep accs) pol accs else (s, f.prep accs)
    let dest : List (Nat × Nat) := f.dest pol accs
    let res : List RegWrite := match f.zeroed with | some d => if accs = [] then [] else zeroLanes t c d | none => []
    ∃ s1 t' s', exec f.i s = .next s' ∧
      Leaves o.1 s1 c o.2 z c.next { c.entry with accs := accs, res := res, dest := dest, stage := 1, gov := maskOf (accs.map Acc.lane)
                                                  done := decide (accs = [] ∧ res = [] ∧ dest = []) } f.passes t' ∧
      SameButCounters (s1.checkAll c.team t.sync.nextEntry accs) s') ∧
  (polCause f.rule (s.featOf t) w = some 0x07 → exec f.i s = .next (s.raiseQ c t 0x07 0 w.toNat)) ∧
  (polCause f.rule (s.featOf t) w = some 0x05 → Raises f.i s c t 0x05)

/-! ## Synchronisation -/

/-- The team is inside its transaction, and not in its handler (R597, R598). -/
def InTransaction (t : Team) : Prop := t.sync.tm.active = true ∧ t.sync.inHandler = false

/-- An instruction goes on from `s1` with a scalar result that a later event writes (R480). -/
def GoesLong (i : Instr) (s s1 : State) (c : Cur) (t1 : Team) (z : BitVec 1) (d : Nat) (v : Word) : Prop :=
  ∃ s' t', exec i s = .next s' ∧ Leaves s1 s' c t1 z c.next { c.entry with res := [.s d v], dest := [(0, d)] } 1 t'
/-- An instruction waits where it stands. -/
def Stands (i : Instr) (s : State) (c : Cur) (t : Team) (p : Park) : Prop := ∃ s' s2 t', exec i s = .next s' ∧ Waits s s2 c t p t' ∧ SameButCounters s2 s'

/-- R594, R595: the form of `wmon`: an access that arms the team's monitor, any armed one being dropped. -/
def monitorForm (i : Instr) (t : Team) (c : Cur) (d b : BitVec 6) (cmp : BitVec 3) (park : Park) (dest : List (Nat × Nat)) : MemForm :=
  { i := i, rule := { acq := true, rel := false }
    accs := fun w => [{ kind := .arm, va := scalarAddress t c b, esz := 8, ty := cmp.toNat, pol := w, x := rdS t c d.toNat, d := d.toNat }]
    prep := fun _ => { t with sync := { t.sync with mon := none, park := park } }, dest := fun _ _ => dest, passes := 1 }

/-- R590: the barrier object at a stash address. -/
def barrierAt (s : State) (t : Team) (a : Nat) : Bar := s.barGet t.id.cluster a
/-- R592: a barrier instruction's object is aligned and lies inside an allocation of its team. -/
def ObjectOk (t : Team) (a : Nat) : Prop := a % 64 = 0 ∧ ∃ x, t.stashPlace a 64 = .at_ x
/-- R590: `s1` is `s` with a barrier object written: 64 bytes of one cluster's stash hold it, and no other byte of any stash or anything else changes. -/
structure BarWritten (s s1 : State) (cl a : Nat) (b : Bar) : Prop where
  object : s1.barGet cl a = b
  stash : ∀ j x, j ≠ cl ∨ x < a ∨ a + 64 ≤ x → stashGet (s1.cluster j) x = stashGet (s.cluster j) x
  rest : { s1 with clusters := s.clusters } = s
/-- R591: the object after an arrival of `n`, no more than it still expects. -/
def arrived (b : Bar) (n : Nat) : Bar :=
  if b.cnt + n < b.exp then { b with cnt := b.cnt + n } else { b with cst := b.ust, ust := 0, cnt := 0, exp := b.init, ph := !b.ph }

/-- R346, R347: a transaction ends without its log: the team goes on at the abort target with D, FMT and the stack of `tmbegin`. -/
structure TxAborted (s s' : State) (k : Nat) (t : Team) (st n : Nat) : Prop where
  only : OnlyTeam s s' k
  team : ∃ t', Tbl.get? s'.teams k = some t' ∧
    t'.flow.pc = t.sync.tm.target ∧ t'.flow.D = t.sync.tm.D ∧ t'.flow.stack = t.flow.stack.drop (t.flow.stack.length - t.sync.tm.depth) ∧
    t'.regs = { t.regs with fmt := t.sync.tm.fmt } ∧ t'.flow.pres = t.flow.pres ∧
    t'.sync.tm = { t.sync.tm with active := false, committing := false, reads := [], writes := [], acnt := n, st := st }

/-- R600, R601: an allocation of `len` bytes at `a` and its guards end below the spilled stack entries and lie off every other one. -/
def FreePlace (t : Team) (a len : Nat) : Prop :=
  a + len + 64 ≤ t.sync.stashBase + t.sync.stashLen - 144 * (t.flow.stack.length - 16) ∧
  ∀ x ∈ t.sync.allocs, x.joined = false → a + len + 128 ≤ x.base ∨ x.base + x.len + 128 ≤ a

/-- R60, R74, R223: nothing holds the write-backs of mappings back: no pool write among them must wait, no host holds a line of theirs, and
the launch's shadow has room. -/
def MayFlush (s : State) (t : Team) (ms : List (Nat × Mapping)) : Prop := s.backStalled t ms = false ∧ s.backHeld ms = [] ∧ s.roomBack t ms = true

/-- R327, R328: a release at device scope, by an instruction that stalls for it: it waits for the team's earlier stores, atomics and stash
accesses, then writes back the dirty lines of the mappings that the team has joined (where a pool write must wait or hosts hold a line it waits
first), and then stalls until every write-back has returned its time and device time has passed `gwct`; `go` says what the instruction comes to
when the release is over, from what state and team. -/
structure DeviceRelease (i : Instr) (s : State) (c : Cur) (t : Team) (go : State → Team → Prop) : Prop where
  earlier : t.sched.relActive = false → t.sync.earlierDone t.sync.nextEntry = false → Stands i s c t .rel
  port : t.sched.relActive = false → t.sync.earlierDone t.sync.nextEntry = true → s.backStalled t (s.joined c.team t) = true → Stands i s c t .port
  hosts : t.sched.relActive = false → t.sync.earlierDone t.sync.nextEntry = true → s.backStalled t (s.joined c.team t) = false →
    s.backHeld (s.joined c.team t) ≠ [] → ∃ s' t', exec i s = .next s' ∧ Waits ((s.backHeld (s.joined c.team t)).foldl State.snoopOut s) s' c t .port t'
  back : t.sched.relActive = false → t.sync.earlierDone t.sync.nextEntry = true → MayFlush s t (s.joined c.team t) →
    let s2 := s.writeBackAll c.team t t.sync.nextEntry true
    let t2 := s2.team c.team
    s2.teamGoes c.team = true →
    (t2.sync.compls = [] → t2.regs.gwct < s2.now → go s2 { t2 with sched := { t2.sched with relActive := false } }) ∧
    (¬ (t2.sync.compls = [] ∧ t2.regs.gwct < s2.now) → ∃ s' t', exec i s = .next s' ∧ Waits s2 s' c { t2 with sched := { t2.sched with relActive := true } } .rel t')
  unmapped : s.joined c.team t = [] → MayFlush s t [] ∧ s.writeBackAll c.team t t.sync.nextEntry true = s
  again : t.sched.relActive = true →
    (t.sync.compls = [] → t.regs.gwct < s.now → go s { t with sched := { t.sched with relActive := false } }) ∧
    (¬ (t.sync.compls = [] ∧ t.regs.gwct < s.now) → Stands i s c t .rel)

/-! ## Cards, KV entries, streams, roles and queues -/

/-- A form raises a cause with its information words, for its governing mask (R430). -/
def RaisesW (i : Instr) (s : State) (c : Cur) (t : Team) (cause : Nat) (info : List Word) : Prop :=
  exec i s = .next (s.raise c t { cause := cause, info := info } (gov t c))
/-- An instruction goes on from `s1` with scalar results that a later event writes (R480), and then the machine changes by `f`. -/
def LongThen (i : Instr) (s s1 : State) (c : Cur) (t1 : Team) (z : BitVec 1) (ws : List (Nat × Word)) (f : State → State) : Prop :=
  ∃ s2 t', exec i s = .next (f s2) ∧
    Leaves s1 s2 c t1 z c.next { c.entry with res := ws.map fun w => .s w.1 w.2, dest := ws.map fun w => (0, w.1) } 1 t'
/-- An instruction goes on from `s1` without a result, and then the machine changes by `f`. -/
def GoesThen (i : Instr) (s s1 : State) (c : Cur) (t1 : Team) (z : BitVec 1) (f : State → State) : Prop :=
  ∃ s2 t', exec i s = .next (f s2) ∧ Leaves s1 s2 c t1 z c.next { c.entry with done := true } 1 t'
/-- R621: the two results of a pair: a status, and a second word in the next register. -/
def pairOf (d : BitVec 6) (status : Nat) (w : Word) : List (Nat × Word) := [(d.toNat, BitVec.ofNat 64 status), (d.toNat + 1, w)]
/-- One status word. -/
def oneOf (d : BitVec 6) (status : Nat) : List (Nat × Word) := [(d.toNat, BitVec.ofNat 64 status)]

/-- R604: `enq`, with its kinds. -/
def enqForms (z : BitVec 1) (d a : BitVec 6) : List (Instr × Nat) :=
  [(.enqCopy z d a, 0), (.enqMatw z d a, 1), (.enqMata z d a, 2), (.enqMdrain z d a, 3), (.enqGather z d a, 4), (.enqScat z d a, 5),
   (.enqMerge z d a, 6), (.enqKscan z d a, 7)]
/-- R604: `b` is the card that eight scalar registers hold from `a` up. -/
def CardIn (t : Team) (c : Cur) (a : Nat) (b : BitVec 512) : Prop := ∀ w, w < 8 → b.extractLsb' (64 * w) 64 = rdS t c (a + w)

/-- R607, R354, R356: a card of a kind is accepted: it ends its cluster's queue under the next tag with its team, launch, partition,
context, FMT and pending predecessor; but for the tile of a matrix card nothing else changes, the performance counters apart. -/
structure CardAccepted (s s1 : State) (c : Cur) (t : Team) (kind : Nat) (b : BitVec 512) : Prop where
  card : ∃ k : Card, (s1.cluster t.id.cluster).cards = (s.cluster t.id.cluster).cards ++ [k] ∧
    k.tag = (s.cluster t.id.cluster).nextTag % 65536 ∧ k.kind = kind ∧ k.bits = b ∧ k.team = c.team ∧ k.launch = t.id.launch ∧
    k.part = t.id.part ∧ k.ctx = t.id.ctx ∧ k.fmt = t.regs.fmt ∧ k.pred2 = t.sync.chain ∧ k.entry = t.sync.nextEntry ∧ k.st = .queued ∧
    k.tile = tileNo b ∧ k.pos = 0
  tag : (s1.cluster t.id.cluster).nextTag = (s.cluster t.id.cluster).nextTag + 1 ∧
    (s1.cluster t.id.cluster).open_ = (s.cluster t.id.cluster).open_ ++ [(s.cluster t.id.cluster).nextTag % 65536]
  cluster : { s1.cluster t.id.cluster with cards := (s.cluster t.id.cluster).cards, nextTag := (s.cluster t.id.cluster).nextTag
                                           open_ := (s.cluster t.id.cluster).open_, tiles := (s.cluster t.id.cluster).tiles } = s.cluster t.id.cluster
  tiles : ∀ j, j ≠ tileKey t.id.launch b ∨ isMatrix kind = false →
    Tbl.get? (s1.cluster t.id.cluster).tiles j = Tbl.get? (s.cluster t.id.cluster).tiles j
  others : ∀ j, j ≠ t.id.cluster → s1.cluster j = s.cluster j
  rest : SameButCounters { s with clusters := s1.clusters } s1

/-- What reading memory for an instruction leaves of the state: its reading is over. -/
def afterRead (s : State) (c : Cur) : State := s.modFetch (.unit c.team) fun _ => {}
/-- Its team then. -/
def readTeam (s : State) (c : Cur) : Team := { s.team c.team with sync := { (s.team c.team).sync with fetch := {} } }

/-- An instruction waits where it stands for what it reads or translates: `s1` holds what it has asked for. -/
def WaitsRead (i : Instr) (s : State) (c : Cur) (w : AccWait) (s1 : State) : Prop :=
  let q := s1.modFetch (.unit c.team) fun (f : Fetch) => { f with wait := w }
  ∃ s' t', exec i s = .next s' ∧ Waits q s' c (q.team c.team) .fetch t'

/-- What an instruction that reads or translates where it stands does when that does not end well: it waits there, raises the cause that was
met with what the walk tells, or freezes its team (R94, R167). -/
structure ReadFails {α : Type} (i : Instr) (s : State) (c : Cur) (t : Team) (u : Use) (va : Nat) (x : CardGo α) : Prop where
  wait : ∀ w s1, x = .wait w s1 → WaitsRead i s c w s1
  fault : ∀ e s1, x = .fault e s1 → exec i s =
    .next ((afterRead s1 c).raise c { t with sync := { t.sync with fetch := {} } } { cause := e, info := s1.walkInfo c.team u va } (gov t c))
  freeze : ∀ a r s1, x = .freeze a r s1 → exec i s = .next (s1.freezeAt c t a r)

/-- R391, R621, R623: the parameter word of `kvopen` is in range. -/
def OpenWord (n : Nat) : Prop :=
  n < 2 ^ 22 ∧ bit n 19 = false ∧ bits n 21 20 ≠ 3 ∧ bits n 18 12 ≤ 64 ∧ 4 ≤ bits n 11 8 ∧ bits n 11 8 ≤ 8
/-- R626: the source word of `kvapp` is in range. -/
def AppendWord (n : Nat) : Prop := n < 2 ^ 45 ∧ bits n 31 21 = 0 ∧ bits n 20 0 % 16 = 0 ∧ 1 ≤ bits n 44 32 ∧ bits n 44 32 ≤ 4096
/-- R630: the string word of a lookup is in range. -/
def StringWord (n : Nat) : Prop := n < 2 ^ 57 ∧ bits n 31 21 = 0 ∧ bits n 20 0 % 16 = 0 ∧ 1 ≤ bits n 56 32
/-- R630: the token ids of a lookup, from its team's stash. -/
def tokenIds (s : State) (t : Team) (src m : Nat) : List (BitVec 32) :=
  (List.range m).map fun i => BitVec.ofNat 32 (leNat (stashBytes (s.cluster t.id.cluster) (src + 4 * i) 4))

/-- R632, R412: the handle passes R389 and names the stream that the team's launch binds. -/
def StreamBound (s : State) (t : Team) (h : Word) : Prop :=
  t.id.foreign = false ∧ ∃ e, s.kvDeref t.view t.id.part t.id.ctx h 2 false none = .ok e ∧ (s.launch t.id.launch).head.ds = some (hIdx h, e.gen)
/-- The eight words of a line. -/
def lineWords (n : Nat) : List Word := (List.range 8).map fun i => BitVec.ofNat 64 (bits n (64 * i + 63) (64 * i))
/-- R635: the handles of a stream whose generations have not passed. -/
def liveHandles (s : State) (p : Nat) (ds : Stm) : List Word :=
  (ds.kvh.take ds.nkv).filter fun h => ((s.part p).kvEnt (hIdx h)).kind = 1 && ((s.part p).kvEnt (hIdx h)).gen = hGen h

/-- R662: an instance of stage `st` stands on the team's cluster. -/
structure QueueAt (s : State) (t : Team) (st : Nat) (q : QInst) (g : Stage) : Prop where
  here : t.id.landed = false
  stage : s.stageOf t st = some g
  inst : (s.launch t.id.launch).inst t.id.cluster st = some q
/-- R662: a stage has no instance for the team. -/
def NoQueue (s : State) (t : Team) (st : Nat) : Prop :=
  t.id.landed = true ∨ s.stageOf t st = none ∨ (s.launch t.id.launch).inst t.id.cluster st = none
/-- R662: the checks of a queue instruction on an instance, in order, each with its cause. -/
def QueueChecked (i : Instr) (s : State) (c : Cur) (t : Team) (q : QInst) (g : Stage) (adr n : Nat) (p : Prop) : Prop :=
  (n = 0 ∨ 64 < n ∨ g.depth < n → exec i s = .next (s.raiseQ c t 0xA7 q.stage n)) ∧
  (0 < n → n ≤ 64 → n ≤ g.depth →
    (adr % 8 ≠ 0 → RaisesW i s c t 0x3A (infoSt t.id.cluster adr 1)) ∧
    (adr % 8 = 0 → t.inStash adr (n * g.elsz * 8) = false → RaisesW i s c t 0x38 (infoSt t.id.cluster adr 1)) ∧
    (adr % 8 = 0 → t.inStash adr (n * g.elsz * 8) = true → p))
/-- One instance of the team's launch changes; of the rest of the machine, only stash. -/
structure InstChanged (s s1 : State) (t : Team) (st : Nat) (f : QInst → QInst) : Prop where
  inst : ∀ l, Tbl.get? s.launches t.id.launch = some l →
    s1.launch t.id.launch = { l with qs := l.qs.map fun q => if q.cluster = t.id.cluster ∧ q.stage = st then f q else q }
  others : ∀ j, j ≠ t.id.launch → s1.launch j = s.launch j
  rest : { s1 with clusters := s.clusters, launches := s.launches } = s

/-- R285: the exchanged team keeps vector registers below `k` and loses the others; its scalar and mask registers and FMT stay. -/
structure Exchanged (t t1 : Team) (n : Nat) (g : Stage) (k : Nat) : Prop where
  vector : ∀ r l, l < 1024 → t1.regs.getV r l = if r < k then t.regs.getV r l else 0
  others : { t1.regs with v := t.regs.v, allot := t.regs.allot } = t.regs ∧ t1.regs.allot = g.vregs
  stage : t1.id = { t.id with stage := n, prio := g.prio }
  flow : t1.flow = { t.flow with pc := BitVec.ofNat 64 g.entry }
  rest : t1.sync = t.sync ∧ t1.sched = t.sched
/-- R660: the exchange of an instruction may take place, rows apart. -/
def ExchangeOk (t : Team) (g : Stage) (k : Nat) : Prop :=
  g.lanes = t.regs.lanes ∧ t.flow.stack = [] ∧ t.flow.away = 0 ∧ t.flow.ret = 0 ∧ k ≤ min t.regs.allot g.vregs
/-- R243: a posting that the team takes. -/
def Posted (s : State) (t : Team) (p : Posting) (g : Stage) : Prop := s.postingFor t = some (p, g)

/-- R667: a lane of an `mret`, its registers captured by the live set in force. -/
def returning (s : State) (t : Team) (l : Nat) : Leaving :=
  { lane := l, entry := t.sync.nextEntry, cluster := t.id.cluster, pbr := if t.id.foreign = true then some (t.id.oteam / 2 ^ 20) else none, dpa := 0
    cont := (s.contOf t l 0 true).getD 0, ok := (s.contOf t l 0 true).isSome }

/-! ## Events and commands -/

/-- An event leaves the state `s'`. -/
def Does (i : Instr) (s s' : State) : Prop := exec i s = .next s'
/-- A command of the mailbox is taken: none runs and the boot is over (R106, R142). -/
def Idle (s : State) : Prop := s.mil.busy = false ∧ s.mil.served = true
/-- R107: the machine `s1` with its running command ended with a status. -/
def ended (s1 : State) (seq st : Nat) : State :=
  { s1 with mil := { s1.mil with busy := false, op := 0, status := st, seq := (seq + 1) % 2 ^ 32, waitPart := none } }
/-- A command completes with a status, having made `s1` of the machine. -/
def Answers (i : Instr) (s : State) (st : Nat) (s1 : State) : Prop := Does i s (ended s1 s.mil.seq st)
/-- A command goes on running as `op`, having made `s1` of the machine. -/
def Runs (i : Instr) (op : Nat) (s1 : State) : State → Prop := fun s => Does i s { s1 with mil := { s1.mil with busy := true, op := op, status := 1 } }
/-- R106: a command that comes while another runs, or before the boot is over, changes nothing. -/
def TurnedAway (i : Instr) (s : State) : Prop := s.mil.busy = true ∨ s.mil.served = false → Does i s s
/-- No launch is admitted, and no message waits at a port or for an answer. -/
structure Quiet (s : State) : Prop where
  launches : s.launches = []
  queue : s.ports.q = []
  requests : s.xlat.reqs = []
  foreign : s.ports.foreign = []
  snoops : s.ports.swait = []
/-- R82: the viral state of a partition after a detection of `cause`, one that stands staying. -/
def detected (s : State) (P : Part) (cause : Nat) : Viral := P.viral.getD { td := s.now, tv := s.now + 64, cause := cause }
/-- The machine while a command of the mailbox runs (R106). -/
def busied (s : State) (op : Nat) : State := { s with mil := { s.mil with busy := true, op := op, status := 1 } }
/-- R145: a range of the die's memory lies in a partition's own pages. -/
def ownsRange (s : State) (p addr len : Nat) : Prop :=
  addr + len ≤ s.localTop ∧ ∀ j, j < len / 4096 + 2 → s.ownsAt p (min (addr + 4096 * j) (addr + len - 1)) = true
/-- One context changes, and of the rest of the machine nothing. -/
def CtxChanged (s s1 : State) (c : Nat) : Prop := (∀ j, j ≠ c → Tbl.get? s1.ctxs j = Tbl.get? s.ctxs j) ∧ { s1 with ctxs := s.ctxs } = s
/-- R144: an image enters a partition's table. -/
def ImagePut (s s1 : State) (p i : Nat) (m : Image) : Prop :=
  (∀ P, Tbl.get? s.parts p = some P → Tbl.get? (s1.part p).images i = some m ∧ ∀ j, j ≠ i → Tbl.get? (s1.part p).images j = Tbl.get? P.images j) ∧
  (∀ q, q ≠ p → s1.part q = s.part q) ∧ { s1 with parts := s.parts } = s
/-- A VF whose window takes writes (R96, R109, R142). -/
def TakesWrites (s : State) (c : Nat) : Prop := c < 1024 ∧ (s.ctx c).vfFrozen = false ∧ s.mil.served = true
/-- R129, R130: an access that the aperture takes: bytes of one 4 KiB page. -/
def ApertureOk (s : State) (c off len : Nat) : Prop := c < 1024 ∧ s.mil.served = true ∧ 0 < len ∧ off / 4096 = (off + len - 1) / 4096
/-- The memory of a range reads zero without poison, and no other byte has changed (R65, R156). -/
def Zeroed (s s1 : State) (base len : Nat) : Prop :=
  (∀ x, base ≤ x → x < base + len → memGet s1.mem x = 0) ∧ (∀ x, x < base ∨ base + len ≤ x → memGet s1.mem x = memGet s.mem x)
/-- The translations that `hit` picks are in no TLB. -/
def Dropped (s1 : State) (hit : TlbEnt → Bool) : Prop :=
  (∀ c, ∀ e ∈ (s1.cluster c).tlb, hit e = false) ∧ ∀ c, ∀ e ∈ (s1.core c).tlb, hit e = false

/-! ## Steps and the frozen device -/

/-- Nothing is due, nothing waits at a port, and the issue of team `k` is all that may happen (R252). -/
structure OnlyIssues (s : State) (k : Nat) : Prop where
  running : s.freeze.at_ = none
  due : dueEvents s = []
  inputs : s.inputs = []
  waits : wakeTeam s = none
  hosts : s.hostStep = none
  events : mayEvents s = []
  accesses : s.performable = []
  aperture : s.ctxs.filter (fun c => (s.apStep c.1).isSome) = []
  scrubs : s.ports.rescrub = []
  issue : issuers s = [k]
/-- The instruction at a team's PC, with its hint words, as its issue performs it. -/
def issuedCur (k : Nat) (t : Team) (n : Nat) : Cur :=
  { team := k
    entry := { pc := t.flow.pc, word := BitVec.ofNat 32 n, modw := (t.flow.hints.find? fun h => !isImm h).getD 0
               immw := (t.flow.hints.find? isImm).getD 0 } }
/-- R498: an instruction word and its hint words pass every check, and the registers they name are within the allotment. -/
structure Passes (s : State) (t : Team) (c : Cur) (n : Nat) (i : Instr) : Prop where
  decoded : decode (bytesOfWord n) = .ok (i, [])
  placed : placementOk t.flow.hints = true
  used : hintUseOk n t.flow.hints = true
  fields : hintFieldsOk n t.flow.hints = true
  rounding : hintRndOk t.flow.hints = true
  feature : featureOk n (s.featOf t) = true
  allotment : ∀ v ∈ vregsOf i c.freg, v < t.regs.allot
  control : match i with | .getc _ _ k => ctlKnown k.toNat = true | .setc _ k _ => ctlKnown k.toNat = true | _ => True
/-- R41, R43, R44, R45: `s` is the frozen device `s0` but for the words of the image shifted out and what arrived at its ports, none of it a
device reset. -/
structure Frozen (s0 s : State) : Prop where
  stopped : s.freeze.at_.isSome = true
  tf : s.freeze.at_ = s0.freeze.at_
  noReset : ∀ e ∈ s.inputs, e.1 ≠ .deviceReset
  image : { s with inputs := s0.inputs, outbox := s0.outbox, arg := s0.arg, freeze := s0.freeze } = s0

/-- A team that stops with nothing half done (R259, R264): no lane being packed, no results that have
arrived of an entry to be performed again, no stalled push to capture. -/
def Team.StopsWhole (t : Team) : Prop :=
  t.sync.leaving = [] ∧ (∀ e ∈ t.sync.rq, e.accs = [] ∨ e.res = []) ∧ t.sync.park ≠ .qpush ∧ t.sync.park ≠ .enqRoom
/-- Every saved tile was saved by this matrix capability version (R377, R378). -/
def State.tilesFit (s : State) : Prop := ∀ c ∈ s.clusters, ∀ y ∈ c.2.tiles, y.2.saved = true → imageMcv y.2.hdr = matrixVersion

end Sys2Proof.Machine
end

