-- ==== Sys2Proof/Certificates/Slice0/Obligations.lean ====
section
/-! DEFINITION. The statements for the provers: what the rules of the spec say of the instructions, the events and the commands of the
machine. -/

section

open Sys2Proof Sys2Proof.Machine

/-- O1. For every state, team and operand fields, each of the 22 short scalar forms of two operands completes in its issue:
the destination takes the result of the rule's table on the two operands as the instruction reads them, a write to s0 is
discarded, the program counter moves to the next word, and every other register, mask, special register, byte of memory and
team is as before. sclz and sctz write the number of zero bits above or below the first one bit, 64 for zero, spopc the
number of one bits, sbrev the bits and sbswap the bytes in reverse order; each completes in its issue and changes nothing
else but the program counter. -/
def Obligations.ScalarResults : Prop :=
  (∀ (s : State) (c : Cur) (t : Team) (z : BitVec 1) (d a b : BitVec 6) (i : BitVec 1), Performs s c t →
      ∀ p ∈ scalarRules z d a b i, ShortS p.1 s c t z d.toNat (p.2 (rdS t c a.toNat) (srB t c b i))) ∧
  (∀ (s : State) (c : Cur) (t : Team) (z : BitVec 1) (d a : BitVec 6), Performs s c t →
      ∀ p ∈ unaryRules z d a, ∃ v, p.2 (rdS t c a.toNat) v ∧ ShortS p.1 s c t z d.toNat v)

/-- O2. For every state, team and value of every field, saddi completes in its issue with a plus the signed immediate in its
destination, and changes nothing else but the program counter. -/
def Obligations.ScalarAddImmediate : Prop :=
  ∀ (s : State) (c : Cur) (t : Team) (z : BitVec 1) (d a : BitVec 6) (i : BitVec 13), Performs s c t →
    ShortS (.saddi z d a i) s c t z d.toNat (rdS t c a.toNat + addImmediate c i)

/-- O3. For a divisor that is not zero, each of sdiv, sdivu, srem and sremu completes; its entry holds the quotient
truncated toward zero or the remainder, to be written 36 ticks after issue, and every register, mask, byte of memory and
other team is as before. -/
def Obligations.DivideResults : Prop :=
  ∀ (s : State) (c : Cur) (t : Team) (z : BitVec 1) (d a b : BitVec 6) (i : BitVec 1), Performs s c t → srB t c b i ≠ 0 →
    ∀ p ∈ divideRules z d a b i, ∃ s' t', exec p.1 s = .next s' ∧
      Leaves s s' c t z c.next { c.entry with res := [.s d.toNat (p.2 (rdS t c a.toNat) (srB t c b i))], dest := [(0, d.toNat)], due := s.now + 36 } 1 t'

/-- O4. With a zero divisor, in a team with nothing outstanding whose context has a handler, each divide and remainder form
enters the handler with cause 0x12 and changes no register and no byte of memory; sdiv of the least number by minus one
completes with the least number and srem of the same operands completes with 0, and neither raises a cause. -/
def Obligations.DivideCorners : Prop :=
  (∀ (s : State) (c : Cur) (t : Team) (z : BitVec 1) (d a b : BitVec 6) (i : BitVec 1) (h : Word), Performs s c t → Fresh c →
    TakesTraps s t h → srB t c b i = 0 →
    ∀ p ∈ divideRules z d a b i, ∃ s' t', exec p.1 s = .next s' ∧ TookTrap s s' c t 0x12 false c.next h t') ∧
  ∀ (s : State) (c : Cur) (t : Team) (z : BitVec 1) (d a b : BitVec 6) (i : BitVec 1), Performs s c t →
    rdS t c a.toNat = BitVec.intMin 64 → srB t c b i = BitVec.allOnes 64 →
    (∃ s' t', exec (.sdiv z d a b i) s = .next s' ∧
      Leaves s s' c t z c.next { c.entry with res := [.s d.toNat (BitVec.intMin 64)], dest := [(0, d.toNat)], due := s.now + 36 } 1 t') ∧
    (∃ s' t', exec (.srem z d a b i) s = .next s' ∧
      Leaves s s' c t z c.next { c.entry with res := [.s d.toNat 0], dest := [(0, d.toNat)], due := s.now + 36 } 1 t')

/-- O5. kand, kor, kxor, knot, kandn and kmov complete in their issue: the destination mask takes the table's function of ka
and kb inside the valid lanes, bits outside are zero, a write to k0 is discarded, and no other register changes; kpop writes
the number of set bits of ka in the valid lanes and kffs the lowest of them, or all ones when there is none. -/
def Obligations.MaskResults : Prop :=
  ∀ (s : State) (c : Cur) (t : Team) (z : BitVec 1), Performs s c t →
    (∀ (d a b : BitVec 3), ∀ p ∈ maskRules z d a b, ∃ s' t' r, exec p.1 s = .next s' ∧
      WritesK t.regs r d.toNat (p.2 (rdK t c a.toNat) (rdK t c b.toNat)) ∧
      Leaves s s' c { t with regs := r } z c.next { c.entry with done := true } 1 t') ∧
    (∀ (d : BitVec 6) (a : BitVec 3),
      ShortS (.kpop z d a) s c t z d.toNat (BitVec.ofNat 64 ((List.range t.regs.lanes).countP fun l => (rdK t c a.toNat).getLsbD l)) ∧
      ∃ v, ShortS (.kffs z d a) s c t z d.toNat v ∧
        ((∀ l, l < t.regs.lanes → (rdK t c a.toNat).getLsbD l = false) → v = BitVec.allOnes 64) ∧
        ∀ l, l < t.regs.lanes → (rdK t c a.toNat).getLsbD l = true → (∀ j, j < l → (rdK t c a.toNat).getLsbD j = false) → v = BitVec.ofNat 64 l)

/-- O6. vany writes 1 when some active lane is in the mask and 0 otherwise, vall writes 1 when every active lane is in the
mask, which holds when none is active, and 0 otherwise; D, the stack and every other register stay. -/
def Obligations.MaskTests : Prop :=
  ∀ (s : State) (c : Cur) (t : Team) (z : BitVec 1) (k : BitVec 3) (d : BitVec 6), Performs s c t →
    ShortS (.vany z k d) s c t z d.toNat (if rdK t c k.toNat &&& t.flow.active = 0 then 0 else 1) ∧
    ShortS (.vall z k d) s c t z d.toNat (if t.flow.active &&& ~~~rdK t c k.toNat = 0 then 1 else 0)

/-- O7. For every type code and operand registers, each lane-wise integer form of one or two sources completes in its issue:
in every governed lane, every sub-element of the destination is the table's function of the sub-elements of the sources as
the instruction reads them, the other lanes keep or, under zero, clear; nothing else changes but the program counter. vaddi
adds its sign-extended immediate modulo 2^b. -/
def Obligations.VectorIntegerResults : Prop :=
  ∀ (s : State) (c : Cur) (t : Team) (z : BitVec 1) (d a b : BitVec 6) (ty : BitVec 3), Performs s c t →
    (∀ p ∈ integerRules z d a b ty (elemBits ty), ∃ f, ShortV p.1 s c t z d.toNat f ∧
      ∀ l j, j < 64 / elemBits ty → elem (elemBits ty) (f l) j =
        p.2 (elem (elemBits ty) (srcOf t c 0 a d (64 / elemBits ty) l) j) (elem (elemBits ty) (srcOf t c 1 b d (64 / elemBits ty) l) j)) ∧
    (∀ p ∈ integerUnary z d a ty (elemBits ty), ∃ f, ShortV p.1 s c t z d.toNat f ∧
      ∀ l j, j < 64 / elemBits ty → elem (elemBits ty) (f l) j = p.2 (elem (elemBits ty) (srcOf t c 0 a d (64 / elemBits ty) l) j)) ∧
    ∀ i : BitVec 10, ∃ f, ShortV (.vaddi z d a i ty) s c t z d.toNat f ∧
      ∀ l j, j < 64 / elemBits ty → elem (elemBits ty) (f l) j =
        elem (elemBits ty) (srcOf t c 0 a d (64 / elemBits ty) l) j +
          BitVec.ofInt (elemBits ty) (if c.entry.immw = 0 then i.toInt else ((c.entry.immw.extractLsb' 0 25) ++ i).toInt)

/-- O8. vmadd writes a times b plus c modulo 2^b, vdot4 (codes 1 and 5) adds four products of bytes to each 32-bit
sub-element of c, and vwmul (codes 1 to 3 and 5 to 7) writes the exact double-width products of the low half of the lane;
each completes in its issue and changes nothing else but the program counter. c is the fourth register of a MOD word, or the
old destination without one. -/
def Obligations.VectorMultiplyAdd : Prop :=
  ∀ (s : State) (c : Cur) (t : Team) (z : BitVec 1) (d a b : BitVec 6) (ty : BitVec 3), Performs s c t →
    (∃ f, ShortV (.vmadd z d a b ty) s c t z d.toNat f ∧
      ∀ l j, j < 64 / elemBits ty → elem (elemBits ty) (f l) j =
        elem (elemBits ty) (srcOf t c 0 a d (64 / elemBits ty) l) j * elem (elemBits ty) (srcOf t c 1 b d (64 / elemBits ty) l) j +
          elem (elemBits ty) (thirdOf t c d l) j) ∧
    (ty = 1 ∨ ty = 5 → ∃ f, ShortV (.vdot4 z d a b ty) s c t z d.toNat f ∧
      ∀ l j, j < 2 → elem 32 (f l) j = elem 32 (thirdOf t c d l) j +
        BitVec.ofInt 32 (((List.range 4).map fun i =>
          elemInt ty (elem 8 (srcOf t c 0 a d 2 l) (4 * j + i)) * elemInt ty (elem 8 (srcOf t c 1 b d 2 l) (4 * j + i))).sum)) ∧
    (ty.toNat % 4 ≠ 0 → ∃ f, ShortV (.vwmul z d a b ty) s c t z d.toNat f ∧
      ∀ l j, j < 32 / elemBits ty → elemInt ty (elem (2 * elemBits ty) (f l) j) =
        elemInt ty (elem (elemBits ty) (srcOf t c 0 a d (64 / elemBits ty) l) j) *
          elemInt ty (elem (elemBits ty) (srcOf t c 1 b d (64 / elemBits ty) l) j))

/-- O9. For every valid floating type code, each of the 22 floating forms completes: in every governed lane, every
sub-element of the destination takes the table's result on the flushed sources; the result is long for vfdiv and vfsqrt and
where a source or a result in a governed lane is a subnormal of an IEEE format without ftz, and short otherwise; nothing
else changes but the program counter. -/
def Obligations.VectorFloatResults : Prop :=
  ∀ (s : State) (c : Cur) (t : Team) (z : BitVec 1) (d a b : BitVec 6) (ty : BitVec 3), Performs s c t → ty.toNat < 5 →
    ∀ p ∈ floatRules z d a b ty ++ floatUnary z d a ty, ∃ f div,
      FloatV p.long div p.i s c t z d.toNat f ∧
      ∀ l,
        let w := fltW ty.toNat
        let ff := fltFmt ty.toNat t.regs.fmt
        let x := fun j => sub (srcOf t c 0 a d (64 / w) l) w j
        let y := fun j => sub (srcOf t c 1 b d (64 / w) l) w j
        let k := fun j => sub (thirdOf t c d l) w j
        let r := fun j => p.result ff t c (flushed t ff (x j)) (flushed t ff (y j)) (flushed t ff (k j))
        (∀ j, j < 64 / w → elem w (f l) j = BitVec.ofNat w (r j)) ∧
        (div l = true ↔ ∃ j, j < 64 / w ∧ (divertedCode t ff (x j) = true ∨ (p.reads ≥ 2 ∧ divertedCode t ff (y j) = true) ∨
          (p.reads ≥ 3 ∧ divertedCode t ff (k j) = true) ∨ (p.code = true ∧ divertedCode t ff (r j) = true)))

/-- O10. For every pair of type codes, part and direction, vcvt and vcvti complete: each destination sub-element that R555
selects takes its source sub-element converted with one rounding, the others keep their value; when rsr is in force and the
destination has fewer significand bits the team's seed advances one draw for each pass and nothing else of the team but the
destination register changes. vpack takes the lower half of its destination sub-elements from va and the upper half from vb,
vunpack takes the half of va that hi names, and vscale multiplies sub-element j of va by the power of two of byte j of vb,
NaN for 0xFF; each value is rounded once, and each instruction changes nothing else but the program counter (and the seed,
for a vpack under rsr). -/
def Obligations.VectorConversions : Prop :=
  (∀ (s : State) (c : Cur) (t : Team) (z : BitVec 1) (d a : BitVec 6) (q : BitVec 2) (k ty : BitVec 3), Performs s c t →
      let rnd := c.rov.getD (fmtRnd t.regs.fmt)
      let fs := fltFmt ty.toNat t.regs.fmt
      let fd := fltFmt k.toNat t.regs.fmt
      let narrow := decide (rnd = 5 ∧ fd.p < fs.p)
      let fromInt := decide (rnd = 5 ∧ fs.p < elemBits k)
      Converts (.vcvt z d a q k ty) narrow (fltW ty.toNat) (fltW k.toNat) q.toNat s c t z d a
        (fun l j x => fd.ofFp (rndConv t c narrow l j) (fs.decode (flushed t fs x)))
        (fun x y => divertedCode t fs x || divertedCode t fd y) ∧
      Converts (.vcvti z d a 0 q k ty) false (fltW ty.toNat) (elemBits k) q.toNat s c t z d a
        (fun _ _ x => fpToInt rnd (elemBits k) (decide (k.toNat < 4)) (fs.decode (flushed t fs x)))
        (fun x _ => divertedCode t fs x) ∧
      Converts (.vcvti z d a 1 q k ty) fromInt (elemBits k) (fltW ty.toNat) q.toNat s c t z d a
        (fun l j x => fs.ofFp (rndConv t c fromInt l j) (fpOfInt (elemInt k (BitVec.ofNat (elemBits k) x))))
        (fun _ y => divertedCode t fs y)) ∧
  (∀ (s : State) (c : Cur) (t : Team) (z : BitVec 1) (d a b : BitVec 6) (ty : BitVec 3), Performs s c t →
      let f := fltFmt ty.toNat t.regs.fmt
      let w := fltW ty.toNat
      (ty.toNat ≠ 0 → ty.toNat < 5 →
        let g := fltFmt (narrowedFrom ty).toNat t.regs.fmt
        let on := decide (c.rov.getD (fmtRnd t.regs.fmt) = 5 ∧ f.p < g.p)
        let x := fun l j => if j < 32 / w then sub (srcOf t c 0 a d (32 / w) l) (2 * w) j else sub (srcOf t c 1 b d (32 / w) l) (2 * w) (j - 32 / w)
        let r := fun l j => f.ofFp (rndConv t c on l j) (g.decode (flushed t g (x l j)))
        ∃ v div, FloatV false div (.vpack z d a b ty) s c (seedAfter t c on) z d.toNat v ∧
          ∀ l, (∀ j, j < 64 / w → elem w (v l) j = BitVec.ofNat w (r l j)) ∧
            (div l = true ↔ ∃ j, j < 64 / w ∧ (divertedCode t g (x l j) = true ∨ divertedCode t f (r l j) = true))) ∧
      (ty.toNat ≠ 0 → ty.toNat < 5 → ∀ hi : BitVec 1,
        let g := fltFmt (widenedTo ty).toNat t.regs.fmt
        let x := fun l j => sub (srcOf t c 0 a d (64 / w) l) w (hi.toNat * (32 / w) + j)
        let r := fun l j => g.ofFp (roundingOf t c) (f.decode (flushed t f (x l j)))
        ∃ v div, FloatV false div (.vunpack z d a hi ty) s c t z d.toNat v ∧
          ∀ l, (∀ j, j < 32 / w → elem (2 * w) (v l) j = BitVec.ofNat (2 * w) (r l j)) ∧
            (div l = true ↔ ∃ j, j < 32 / w ∧ (divertedCode t f (x l j) = true ∨ divertedCode t g (r l j) = true))) ∧
      (ty.toNat < 5 →
        let x := fun l j => sub (srcOf t c 0 a d (64 / w) l) w j
        let e := fun l j => sub (srcOf t c 1 b d (64 / w) l) 8 j
        let r := fun l j => f.ofFp (roundingOf t c)
          (if e l j = 255 then .nan else Fp.mul (f.decode (flushed t f (x l j))) (.fin false 1 ((e l j : Int) - 127)))
        ∃ v div, FloatV false div (.vscale z d a b ty) s c t z d.toNat v ∧
          ∀ l, (∀ j, j < 64 / w → elem w (v l) j = BitVec.ofNat w (r l j)) ∧
            (div l = true ↔ ∃ j, j < 64 / w ∧ (divertedCode t f (x l j) = true ∨ divertedCode t f (r l j) = true))))

/-- O11. Each of the seven special functions completes with a long result that depends on the source sub-element, the type,
sat and ftz alone; the FP32 value behind it is NaN for NaN, and at the zeros, the infinities, below zero and from 2^15 up
what R562's table gives. The value at other sources is bounded by R561 and left open; the model's is a free value within the
bound (log entry on the special function unit). -/
def Obligations.SpecialFunctions : Prop :=
  (∀ (s : State) (c : Cur) (t : Team) (z : BitVec 1) (d a : BitVec 6) (ty : BitVec 3), Performs s c t → ty.toNat ∈ [1, 2, 3] →
    ∀ p ∈ specialForms z d a ty, ∃ f div, FloatV true div p.1 s c t z d.toNat f ∧ ∀ l j, j < 64 / fltW ty.toNat →
      elem (fltW ty.toNat) (f l) j = BitVec.ofNat (fltW ty.toNat)
        (sfuResult p.2 (fltFmt ty.toNat t.regs.fmt) ty.toNat (fmtSat t.regs.fmt) (fmtFtz t.regs.fmt)
          (sub (srcOf t c 0 a d (64 / fltW ty.toNat) l) (fltW ty.toNat) j))) ∧
  (∀ (fn ty : Nat) (ftz : Bool) (x : Nat), fn < 7 → sfuValue fn ty ftz x .nan = 0x7FC00000) ∧
  (∀ (ty : Nat) (ftz : Bool) (x : Nat) (n : Bool) (e : Int),
    (List.range 7).map (fun fn => sfuValue fn ty ftz x (.fin n 0 e)) =
      if n then [0xFF800000, 0xFF800000, 0x3F800000, 0xFF800000, 0x80000000, 0x3F800000, 0x80000000]
      else [0x7F800000, 0x7F800000, 0x3F800000, 0xFF800000, 0, 0x3F800000, 0]) ∧
  (∀ (ty : Nat) (ftz : Bool) (x : Nat) (n : Bool),
    (List.range 7).map (fun fn => sfuValue fn ty ftz x (.inf n)) =
      if n then [0x80000000, 0x7FC00000, 0, 0x7FC00000, 0x7FC00000, 0x7FC00000, 0xBF800000]
      else [0, 0, 0x7F800000, 0x7F800000, 0x7FC00000, 0x7FC00000, 0x3F800000]) ∧
  (∀ (fn ty : Nat) (ftz : Bool) (x m : Nat) (e : Int), fn = 1 ∨ fn = 3 → m ≠ 0 → sfuValue fn ty ftz x (.fin true m e) = 0x7FC00000) ∧
  (∀ (fn ty : Nat) (ftz : Bool) (x m : Nat) (n : Bool) (e : Int), fn = 4 ∨ fn = 5 → m ≠ 0 → 15 ≤ e + Nat.log2 m → sfuValue fn ty ftz x (.fin n m e) = 0x7FC00000)

/-- O12. vshfl and vbcast deliver the named element of the lane's segment, or zero or the old value beyond it; vscan and
vred combine the governed lanes of the segment left to right from the identity, vscan up to the lane (excluded under excl),
vred all of them. Each result is long, goes to the governed lanes only, and nothing else changes but the program counter.
What an instruction receives in a lane for a source operand: its own register, or with a MODX word that names the operand
the value of the lane that the form gives, zero (or the old destination under keep) for a lane outside the team. -/
def Obligations.CrossLaneResults : Prop :=
  (∀ (s : State) (c : Cur) (t : Team) (z : BitVec 1) (d a b : BitVec 6) (ty : BitVec 3), Performs s c t →
      (∃ f, LongV (.vshfl z d a b ty) s c t z d.toNat f ∧ ∀ l j, j < 64 / elemBits ty →
        elem (elemBits ty) (f l) j = segmentElem t c a d (elemBits ty) l j (elem (elemBits ty) (rdV t c b.toNat l) j).toNat) ∧
      (∃ f, LongV (.vbcast z d a b ty) s c t z d.toNat f ∧ ∀ l j, j < 64 / elemBits ty →
        elem (elemBits ty) (f l) j = segmentElem t c a d (elemBits ty) l j (rdS t c b.toNat).toNat) ∧
      (∀ o : BitVec 4, o.toNat < 9 → (6 ≤ o.toNat → ty.toNat < 5) →
        (∀ e : BitVec 1, ∃ f div, FloatV true div (.vscan z d a o e ty) s c t z d.toNat f ∧ ∀ l j, j < 64 / scanBits o ty →
          elem (scanBits o ty) (f l) j = BitVec.ofNat _ (scanned o ty t c a j
            ((segmentLanes t c l).filter fun k => decide (k < l ∨ e = 0 ∧ k = l)))) ∧
        ∃ f div, FloatV true div (.vred z d a o ty) s c t z d.toNat f ∧ ∀ l j, j < 64 / scanBits o ty →
          elem (scanBits o ty) (f l) j = BitVec.ofNat _ (scanned o ty t c a j (segmentLanes t c l)))) ∧
  (∀ (t : Team) (c : Cur) (which reg n l : Nat) (old : Word),
      (c.hasModx = false ∨ c.opnd ≠ which → srcLane t c which reg n l old = rdV t c reg l) ∧
      (c.hasModx = true → c.opnd = which →
        let out := if c.keep = true then old else 0
        (c.form = 0 → srcLane t c which reg n l old =
          (if 0 ≤ (l : Int) + sext 11 c.parm ∧ (l : Int) + sext 11 c.parm < t.regs.lanes then rdV t c reg ((l : Int) + sext 11 c.parm).toNat else out)) ∧
        (c.form = 1 → n ∈ [1, 2, 4, 8] → bits c.parm 2 0 < n →
          if bits c.parm 12 3 < t.regs.lanes then
            ∀ j, j < n → elem (64 / n) (srcLane t c which reg n l old) j = elem (64 / n) (rdV t c reg (bits c.parm 12 3)) (bits c.parm 2 0)
          else srcLane t c which reg n l old = out) ∧
        (c.form = 2 → srcLane t c which reg n l old =
          (if l ^^^ bits c.parm 9 0 < t.regs.lanes then rdV t c reg (l ^^^ bits c.parm 9 0) else out)) ∧
        (c.form = 3 → srcLane t c which reg n l old = rdV t c reg (l - l % 2 ^ bits c.parm 3 0))))

/-- O13. In each segment the k-th governed lane's value goes to the k-th lane of the segment if that lane is present; under
zero the present lanes of the segment behind them are zeroed; every other lane and register stays, and with no lane governed
nothing is written. vexpand gives the k-th governed lane of a segment the value of the segment's k-th lane. The results are
long. -/
def Obligations.CompressExpand : Prop :=
  ∀ (s : State) (c : Cur) (t : Team) (z : BitVec 1) (d a : BitVec 6), Performs s c t → 0 < segmentWidth t c → t.regs.lanes ≤ 1024 →
    (∃ s' t' ws, exec (.vcompress z d a) s = .next s' ∧
      (∀ n l, n < 64 → l < 1024 → (t.regs.writes ws).getV n l =
        let g := segmentLanes t c l
        let k := l - segmentOf t c l
        if n = d.toNat ∧ l < t.regs.lanes ∧ t.flow.pres.getLsbD l = true ∧ gov t c &&& ones t.regs.lanes ≠ 0 then
          if k < g.length then rdV t c a.toNat (g.getD k 0) else if c.zero = true then 0 else t.regs.getV n l
        else t.regs.getV n l) ∧
      { t.regs.writes ws with v := t.regs.v } = t.regs ∧
      Leaves s s' c t z c.next (if ws = [] then { c.entry with done := true } else { c.entry with res := ws, dest := destsOf ws }) (lanePasses t c) t') ∧
    (∃ f, LongV (.vexpand z d a) s c t z d.toNat f ∧ ∀ l, f l =
      rdV t c a.toNat (segmentOf t c l + ((segmentLanes t c l).filter fun k => decide (k < l)).length))

/-- O14. vmov, vsplat, vsel and kvec write the governed lanes as their table gives; vext reads one element, 0 beyond the
team; vins writes one sub-element of a governed lane and nothing else; veck writes the mask bits of the governed lanes. Each
completes in its issue and changes nothing else but the program counter. -/
def Obligations.VectorMoves : Prop :=
  ∀ (s : State) (c : Cur) (t : Team) (z : BitVec 1), Performs s c t →
    (∀ d a : BitVec 6, ShortV (.vmov z d a) s c t z d.toNat (srcOf t c 0 a d 1)) ∧
    (∀ (d a : BitVec 6) (ty : BitVec 3), ∃ f, ShortV (.vsplat z d a ty) s c t z d.toNat f ∧
      ∀ l j, j < 64 / elemBits ty → elem (elemBits ty) (f l) j = (rdS t c a.toNat).setWidth (elemBits ty)) ∧
    (∀ (d a b : BitVec 6) (k : BitVec 3), ShortV (.vsel z d a b k) s c t z d.toNat fun l =>
      if (rdK t c k.toNat).getLsbD l = true then srcOf t c 0 a d 1 l else srcOf t c 1 b d 1 l) ∧
    (∀ (d : BitVec 6) (k : BitVec 3), ShortV (.kvec z d k) s c t z d.toNat fun l =>
      if (rdK t c k.toNat).getLsbD l = true then BitVec.allOnes 64 else 0) ∧
    (∀ (d a b : BitVec 6) (ty : BitVec 3),
      let n := 64 / elemBits ty
      let e := (rdS t c b.toNat).toNat
      ShortS (.vext z d a b ty) s c t z d.toNat (if t.regs.lanes * n ≤ e then 0
        else BitVec.ofInt 64 (elemInt ty (elem (elemBits ty) (rdV t c a.toNat (e / n)) (e % n)))) ∧
      ∃ s' t' r, exec (.vins z d a b ty) s = .next s' ∧
        (∀ m l, l < 1024 → m < 64 → ∀ j, j < n → elem (elemBits ty) (r.getV m l) j =
          if m = d.toNat ∧ e < t.regs.lanes * n ∧ (gov t c).getLsbD (e / n) = true ∧ l = e / n then
            (if j = e % n then (rdS t c a.toNat).setWidth (elemBits ty) else elem (elemBits ty) (rdV t c d.toNat l) j)
          else elem (elemBits ty) (t.regs.getV m l) j) ∧
        { r with v := t.regs.v } = t.regs ∧
        Leaves s s' c { t with regs := r } z c.next { c.entry with done := true } (lanePasses t c) t') ∧
    (∀ (d : BitVec 3) (a : BitVec 6), ∃ s' t' m, exec (.veck z d a) s = .next s' ∧
      (∀ l, l < t.regs.lanes → l < 1024 → m.getLsbD l =
        if (gov t c).getLsbD l = true then decide (srcLane t c 0 a.toNat 1 l (boolW ((rdK t c d.toNat).getLsbD l)) ≠ 0)
        else if c.zero = true ∧ gov t c &&& ones t.regs.lanes ≠ 0 ∧ t.flow.pres.getLsbD l = true then false
        else (t.regs.getK d.toNat).getLsbD l) ∧
      Leaves s s' c { t with regs := t.regs.setK d.toNat m } z c.next { c.entry with done := true } (lanePasses t c) t')

/-- O15. For each of the fourteen branches, every state, team and offset: not taken, the team goes on at the next word and
nothing else changes; taken with a target at a word of the text, the program counter is the target, bal and jalr write the
address of the next word into s63, and the team issues nothing for one more tick; taken with another target it raises 0x0E.
No branch changes D or the stack. -/
def Obligations.Branches : Prop :=
  ∀ (s : State) (c : Cur) (t : Team) (z : BitVec 1) (k : BitVec 3) (r : BitVec 6) (o : BitVec 18) (q : BitVec 12), Performs s c t →
    ∀ p ∈ branchRules t c z k r o q,
      (¬ p.taken → Becomes p.i s c t z) ∧
      (p.taken → TextTarget s t p.tgt → ∃ g, (if p.link = true then WritesS t.regs g 63 c.next else g = t.regs) ∧
        Goes p.i s s c { t with regs := g, sched := { t.sched with notBefore := s.now + 2 } } z (BitVec.ofInt 64 p.tgt)) ∧
      (p.taken → ¬ TextTarget s t p.tgt → Raises p.i s c t 0x0E)

/-- O16. vif pushes D, the target, FMT and kind 0 and narrows D to the mask; velse makes the other lanes of the top entry
active and restores FMT; vendif pops, restoring D and FMT. vif and velse jump when no present lane is left, one tick later.
A full stack raises 0x0C, an entry of the wrong kind or none raises 0x0D. While at most 16 entries stand, nothing outside
the team changes; a deeper push writes only the spilled entries. -/
def Obligations.DivergenceForms : Prop :=
  ∀ (s : State) (c : Cur) (t : Team) (z : BitVec 1) (k : BitVec 3) (o : BitVec 18), Performs s c t →
    (StackFits t →
      let t1 := pushed t { mask := t.flow.D, pc := BitVec.ofInt 64 (jumpTarget c o), fmt := t.regs.fmt, kind := 0 } (rdK t c k.toNat)
      (t.flow.stack.length < 16 → s.spillOut t1 = s) ∧
      Continues (.vif z k o) s (s.spillOut t1) c t (t1.delay s.now (pushTicks t)) (t1.delay s.now (pushTicks t + 1)) z (t1.flow.active = 0) (jumpTarget c o)) ∧
    (¬ StackFits t → Raises (.vif z k o) s c t 0x0C) ∧
    (∀ e r, t.flow.stack = e :: r → e.kind = 0 →
      let t1 : Team := { t with flow := { t.flow with stack := { e with kind := 1, pc := BitVec.ofInt 64 (jumpTarget c o) } :: r, D := e.mask &&& ~~~t.flow.D }
                                regs := { t.regs with fmt := e.fmt } }
      Continues (.velse z o) s s c t t1 (t1.delay s.now 1) z (t1.flow.active = 0) (jumpTarget c o)) ∧
    ((∀ e r, t.flow.stack = e :: r → e.kind ≠ 0) → Raises (.velse z o) s c t 0x0D) ∧
    (∀ e r, t.flow.stack = e :: r → e.kind ≠ 2 → Becomes (.vendif z) s c ((popped t e r).delay s.now (popTicks t)) z) ∧
    ((∀ e r, t.flow.stack = e :: r → e.kind = 2) → Raises (.vendif z) s c t 0x0D)

/-- O17. vdo pushes D, the next word, FMT and kind 2; vwhile narrows D and goes back while a present lane is left, else
pops, restoring D and FMT; vbrk clears its lanes from D and from every entry above the topmost loop entry, which keeps them.
Wrong or missing entries raise 0x0D, a full stack 0x0C. -/
def Obligations.LoopForms : Prop :=
  ∀ (s : State) (c : Cur) (t : Team) (z : BitVec 1) (k : BitVec 3) (o : BitVec 18), Performs s c t →
    (StackFits t →
      let t1 := pushed t { mask := t.flow.D, pc := c.next, fmt := t.regs.fmt, kind := 2 } (rdK t c k.toNat)
      Continues (.vdo z k o) s (s.spillOut t1) c t (t1.delay s.now (pushTicks t)) (t1.delay s.now (pushTicks t + 1)) z (t1.flow.active = 0) (jumpTarget c o)) ∧
    (¬ StackFits t → Raises (.vdo z k o) s c t 0x0C) ∧
    (∀ e r, t.flow.stack = e :: r → e.kind = 2 →
      let t1 : Team := { t with flow := { t.flow with D := t.flow.D &&& rdK t c k.toNat } }
      (t1.flow.active = 0 → Becomes (.vwhile z k) s c ((popped t e r).delay s.now (popTicks t)) z) ∧
      (t1.flow.active ≠ 0 → TextTarget s t e.pc.toNat → Goes (.vwhile z k) s s c (t1.delay s.now 1) z e.pc) ∧
      (t1.flow.active ≠ 0 → ¬ TextTarget s t e.pc.toNat → Raises (.vwhile z k) s c t 0x0E)) ∧
    ((∀ e r, t.flow.stack = e :: r → e.kind ≠ 2) → Raises (.vwhile z k) s c t 0x0D) ∧
    (∀ above e below, t.flow.stack = above ++ e :: below → e.kind = 2 → (∀ x ∈ above, x.kind ≠ 2) →
      let b := rdK t c k.toNat &&& t.flow.active
      let st := above.map (fun x => { x with mask := x.mask &&& ~~~b }) ++ e :: below
      let t1 : Team := { t with flow := { t.flow with stack := st, D := t.flow.D &&& ~~~b } }
      (st.length ≤ 16 → s.spillOut { t with flow := { t.flow with stack := st } } = s) ∧
      Goes (.vbrk z k) s (s.spillOut { t with flow := { t.flow with stack := st } }) c (t1.delay s.now (9 * spilledChanged t.flow.stack st)) z c.next) ∧
    ((∀ e ∈ t.flow.stack, e.kind ≠ 2) → Raises (.vbrk z k) s c t 0x0D)

/-- O18. In a team with no pending guard fault that has not landed, exit clears the active lanes from D, the present lanes
and every stack entry and marks them exited; with a present lane left the team goes on at the next word, and with none it
waits to retire (or for its away lanes), its replay queue discarded when it was in its handler. With a pending guard fault
it raises 0x39 for the active lanes and no lane exits. -/
def Obligations.ExitForm : Prop :=
  ∀ (s : State) (c : Cur) (t : Team) (z : BitVec 1), Performs s c t →
    (t.sync.guard = none → t.id.landed = false →
      let t1 := exited t t.flow.active
      (t.flow.stack.length ≤ 16 → s.spillOut t1 = s) ∧
      (t1.flow.pres ≠ 0 → Goes (.exit z) s (s.spillOut t1) c t1 z c.next) ∧
      (t1.flow.pres = 0 → Goes (.exit z) s (s.spillOut t1) c
        { t1 with sync := { t.sync with park := if t.flow.away = 0 then .retire else .exitJoin, reinj := [],
                                        frame := if t.sync.inHandler = true then { t.sync.frame with rq := [] } else t.sync.frame } } 0 c.next)) ∧
    (∀ g, t.sync.guard = some g → exec (.exit z) s = .next
      (s.raise c { t with sync := { t.sync with guard := none } }
        { cause := 0x39, info := [BitVec.ofNat 64 g.1, BitVec.ofNat 64 g.2.1, BitVec.ofNat 64 g.2.2] } t.flow.active))

/-- O19. In a team with nothing outstanding, raising a cause of the launch-aborting class, or a recoverable one in a context
with neither handler nor debugger, aborts the launch with that cause; raising either in the team's handler aborts it with
0xB5. The launch and its teams are gone, a completion record holds the cause with status 1, the other launches' teams stay,
and no byte of memory changes. -/
def Obligations.AbortCauses : Prop :=
  ∀ (s : State) (c : Cur) (t : Team) (l : Launch) (r : Raised), Performs s c t → Fresh c → t.sync.rq = [] → CanAbort s t l →
    (t.sync.inHandler = false → causeClass r.cause = 1 → AbortedLaunch s (s.raise c t r (gov t c)) t.id.launch l r.cause 1) ∧
    (t.sync.inHandler = false → causeClass r.cause = 0 → NoHandler s t → AbortedLaunch s (s.raise c t r (gov t c)) t.id.launch l r.cause 1) ∧
    (t.sync.inHandler = true → causeClass r.cause = 0 ∨ causeClass r.cause = 1 → AbortedLaunch s (s.raise c t r (gov t c)) t.id.launch l 0xB5 1)

/-- O20. In a team with nothing outstanding whose context has a handler, trap n enters it with cause 0xB8 + n, its entry
done and the resume address at the next word: D becomes the present lanes, the frame keeps D, FMT and the stack depth, and
registers, stack and memory stay. Without a handler or a debugger the launch aborts with that cause. In a team with nothing
outstanding whose context has a handler and no debugger, brk enters the handler with cause 0xB4, its entry faulting for the
governing mask; without a handler the launch aborts with 0xB4. -/
def Obligations.TrapEntry : Prop :=
  (∀ (s : State) (c : Cur) (t : Team) (z : BitVec 1) (n : BitVec 3), Performs s c t → Fresh c →
      (∀ h, TakesTraps s t h → ∃ s' t', exec (.trap z n) s = .next s' ∧ TookTrap s s' c t (0xB8 + n.toNat) true c.next h t') ∧
      (∀ l, t.sync.rq = [] → t.sync.inHandler = false → NoHandler s t → CanAbort s t l →
        ∃ s', exec (.trap z n) s = .next s' ∧ AbortedLaunch s s' t.id.launch l (0xB8 + n.toNat) 1)) ∧
  (∀ (s : State) (c : Cur) (t : Team) (z : BitVec 1), Performs s c t → Fresh c →
      (∀ h, TakesTraps s t h → ∃ s' t', exec (.brk z) s = .next s' ∧ TookTrap s s' c t 0xB4 false c.next h t') ∧
      (∀ l, t.sync.rq = [] → t.sync.inHandler = false → NoHandler s t → CanAbort s t l →
        ∃ s', exec (.brk z) s = .next s' ∧ AbortedLaunch s s' t.id.launch l 0xB4 1))

/-- O21. Outside a transaction, tabort aborts the launch: it and its teams are gone, no byte of memory changes, and the
completion record carries 0x50, or inside a handler the cause of the frame. Inside a transaction and outside its handler it
raises 0xA2. -/
def Obligations.AbortForm : Prop :=
  ∀ (s : State) (c : Cur) (t : Team) (z : BitVec 1), Performs s c t →
    (∀ l, t.sync.tm.active = false ∨ t.sync.inHandler = true → CanAbort s t l →
      ∃ s', exec (.tabort z) s = .next s' ∧ AbortedLaunch s s' t.id.launch l (if t.sync.inHandler = true then t.sync.frame.cause else 0x50) 1) ∧
    (t.sync.tm.active = true → t.sync.inHandler = false → Raises (.tabort z) s c t 0xA2)

/-- O22. In a handler with the stack as deep as at the trap, tret restores D and FMT from the frame, clears the in-handler
flag, queues for re-injection in order every entry that is neither done nor marked drop, and resumes at tpc once they have
returned; with another stack depth it raises 0xB5, and outside a handler 0xB0. In a handler getc.f gives the word of the
team's state space that bits 19 to 0 of its source address and setc.f writes it, as the table of R423 lays the space out
(`StateSpace`); outside a handler both raise 0xB0. -/
def Obligations.HandlerReturn : Prop :=
  (∀ (s : State) (c : Cur) (t : Team) (z : BitVec 1), Performs s c t →
      (t.sync.inHandler = true → t.flow.stack.length = t.sync.frame.tdepth →
        Goes (.tret z) s s c { t with
          regs := { t.regs with fmt := t.sync.frame.tfmt }
          flow := { t.flow with D := t.sync.frame.dent }
          sync := { t.sync with inHandler := false, park := .tretWait, reinj := t.sync.frame.rq.filter fun e => !e.done && !e.drop } } z t.sync.frame.tpc) ∧
      (t.sync.inHandler = true → t.flow.stack.length ≠ t.sync.frame.tdepth → Raises (.tret z) s c t 0xB5) ∧
      (t.sync.inHandler = false → Raises (.tret z) s c t 0xB0)) ∧
  (∀ (s : State) (c : Cur) (t : Team) (z : BitVec 1) (a b : BitVec 6), Performs s c t →
      (t.sync.inHandler = true → ShortS (.getcF z a b) s c t z a.toNat (spaceRead t ((rdS t c b.toNat).toNat % 2 ^ 20)) ∧
        Becomes (.setcF z a b) s c (spaceWrite t ((rdS t c a.toNat).toNat % 2 ^ 20) (rdS t c b.toNat)) z) ∧
      (t.sync.inHandler = false → Raises (.getcF z a b) s c t 0xB0 ∧ Raises (.setcF z a b) s c t 0xB0)) ∧
  ∀ t, StateSpace t

/-- O23. In a team that has not landed from elsewhere, getc of a control register below the counters writes what R494's
table gives, and of a counter a value that is at most 256 ticks of its events behind; now writes device time. Nothing else
changes but the program counter (and the model's count of free values drawn). setc of fmt writes a valid value and raises
0x10 or 0x11 for another; of srseed it stores the low half, 0x6D2B79F5 for a zero one; of hazchk bit 0; of tpc the frame's,
in a handler only; of a counter its value; of every other number nothing. setfmt writes the low half of a register, setfmt.m
its bits under the mask, setfmt.i the immediate of the IMM word; an invalid value raises 0x10 or 0x11 and changes nothing.
-/
def Obligations.ControlForms : Prop :=
  ((∀ (s : State) (c : Cur) (t : Team) (z : BitVec 1) (d : BitVec 6), Performs s c t → t.id.landed = false →
        (∀ p ∈ controlRules s t, ∃ s' t' r, exec (.getc z d p.1) s = .next s' ∧ WritesS t.regs r d.toNat p.2 ∧
          Leaves { s with draws := s.draws + 1 } s' c { t with regs := r } z c.next { c.entry with done := true } 1 t') ∧
        (∀ n : BitVec 4, ∃ s' t' r v, exec (.getc z d (0x10 + n.setWidth 6)) s = .next s' ∧ WritesS t.regs r d.toNat v ∧
          v.toNat ≤ (Tbl.getD (s.ctx t.id.ctx).perf.val n.toNat 0).toNat ∧
          (Tbl.getD (s.ctx t.id.ctx).perf.val n.toNat 0).toNat ≤ v.toNat + (s.ctx t.id.ctx).perf.late s.now n.toNat ∧
          Leaves { s with draws := s.draws + 1 } s' c { t with regs := r } z c.next { c.entry with done := true } 1 t') ∧
        ShortS (.now z d) s c t z d.toNat (BitVec.ofNat 64 s.now)) ∧
    (∀ (s : State) (c : Cur) (t : Team) (z : BitVec 1) (b : BitVec 6), Performs s c t →
        let v := rdS t c b.toNat
        WritesFmt (.setc z 0x00 b) s c t z (v.setWidth 32) ∧
        Becomes (.setc z 0x03 b) s c { t with regs := { t.regs with srseed := if v.setWidth 32 = 0#32 then 0x6D2B79F5 else v.setWidth 32 } } z ∧
        Becomes (.setc z 0x04 b) s c { t with regs := { t.regs with hazchk := v.getLsbD 0 } } z ∧
        Becomes (.setc z 0x06 b) s c (if t.sync.inHandler = true then { t with sync := { t.sync with frame := { t.sync.frame with tpc := v &&& ~~~3 } } } else t) z ∧
        (∀ n : BitVec 6, n.toNat ∈ [0x01, 0x02, 0x05, 0x07, 0x08, 0x09, 0x0A, 0x0B, 0x0C, 0x0D, 0x0E, 0x0F] → Becomes (.setc z n b) s c t z) ∧
        ∀ n : BitVec 4, Goes (.setc z (0x10 + n.setWidth 6) b)
          s (s.modCtx t.id.ctx fun x => { x with perf := x.perf.setVal n.toNat (v.setWidth 48) }) c t z c.next)) ∧
  (∀ (s : State) (c : Cur) (t : Team) (z : BitVec 1) (a b : BitVec 6), Performs s c t →
      let m : Word32 := (rdS t c b.toNat).setWidth 32
      WritesFmt (.setfmt z b) s c t z m ∧
      WritesFmt (.setfmtM z a b) s c t z ((t.regs.fmt &&& ~~~m) ||| ((rdS t c a.toNat).setWidth 32 &&& m)) ∧
      (c.entry.immw ≠ 0 → WritesFmt (.setfmtI z) s c t z ((c.entry.immw.extractLsb' 0 25).setWidth 32)) ∧
      (c.entry.immw = 0 → Raises (.setfmtI z) s c t 0x02))

/-- O24. nop changes no register, mask or byte of memory. hint.stream sets the team's stream count and hint.yield its
yielding for 16 ticks. Each hint word joins the words waiting for the instruction word of its group and moves the program
counter one word on. In every governed lane widf writes the field of the lane's work identifier that its number names and
widf.all the whole; capq gives the quadword of the entry that its operand names, the clusters powered being those of this
moment, and zero when there is none. Nothing else changes but the program counter. -/
def Obligations.PlainAndCapabilityForms : Prop :=
  (∀ (s : State) (c : Cur) (t : Team), Performs s c t →
      (∀ z, Becomes (.nop z) s c t z) ∧
      (∀ n, Becomes (.hintStream n) s c { t with sched := { t.sched with stream := n.toNat } } 0) ∧
      (Becomes .hintYield s c { t with sched := { t.sched with yield := 16 } } 0) ∧
      (∀ n, HintJoins (.immWord n) s c t) ∧
      (∀ k z r q f g, HintJoins (.modWord k z r q f g) s c t) ∧
      (∀ k z e o f p, HintJoins (.modxWord k z e o f p) s c t)) ∧
  (∀ (s : State) (c : Cur) (t : Team) (z : BitVec 1) (d a : BitVec 6) (f : BitVec 3), Performs s c t → t.id.foreign = false →
      let w := (s.launch t.id.launch).head.wwid
      (ShortV (.widf z d f) s c t z d.toNat fun l => BitVec.ofNat 64
        ((Tbl.getD t.flow.wid l 0).toNat / 2 ^ (w.take f.toNat).sum % 2 ^ w.getD f.toNat 0)) ∧
      (ShortV (.widfAll z d) s c t z d.toNat fun l => Tbl.getD t.flow.wid l 0) ∧
      ∃ v, LongS (.capq z d a) s c t z d.toNat v ∧
        (∀ e, (s.launch t.id.launch).head.caps.find? (fun e => e.1 = (rdS t c a.toNat).toNat % 2 ^ 16) = some e →
          v = BitVec.ofNat 64 (if e.1 = 1 ∧ (rdS t c a.toNat).toNat / 2 ^ 16 % 2 ^ 8 = 4 then s.powered else e.2.getD ((rdS t c a.toNat).toNat / 2 ^ 16 % 2 ^ 8) 0)) ∧
        ((∀ e ∈ (s.launch t.id.launch).head.caps, e.1 ≠ (rdS t c a.toNat).toNat % 2 ^ 16) → v = 0))

/-- O25. msig appends one event record of kind 1 with its 32-bit argument when the context's ring has room, and sets the
overflow flag otherwise; pcmark and pcsample post their records where the partition traces (pcmark where its context marks),
and do nothing else; pcread gives the counter's 48-bit value, 0x09 beyond 15. No register but pcread's destination changes.
-/
def Obligations.TelemetryForms : Prop :=
  ∀ (s : State) (c : Cur) (t : Team) (z : BitVec 1) (d a : BitVec 6), Performs s c t →
    (∃ s1 t', Leaves s s1 c t z c.next { c.entry with done := true } 1 t' ∧
      exec (.msig z a) s = .next (s1.postEvent t.id.ctx 1 0 ((rdS t c a.toNat).setWidth 32))) ∧
    ((s.part t.id.part).cfg.trsize = 0 → Becomes (.pcmark z a) s c t z ∧ Becomes (.pcsample z) s c t z) ∧
    (s.traces t.id.ctx 2 = false → Becomes (.pcmark z a) s c t z) ∧
    ((s.part t.id.part).cfg.trsize ≠ 0 → s.traces t.id.ctx 2 = true →
      ((s.part t.id.part).traceRoom = true ∨ (s.part t.id.part).cfg.trstall = false → ∃ s1 t', Leaves s s1 c t z c.next { c.entry with done := true } 1 t' ∧
        exec (.pcmark z a) s = .next (s1.postTrace t.id.part t.id.ctx 5
          (BitVec.ofNat 128 ((rdS t c a.toNat).toNat + c.entry.pc.toNat % 2 ^ 32 * 2 ^ 64 + t.id.index * 2 ^ 96)) false)) ∧
      ((s.part t.id.part).traceRoom = false → (s.part t.id.part).cfg.trstall = true → ∃ s' t', exec (.pcmark z a) s = .next s' ∧ Waits s s' c t .pcmark t')) ∧
    ((s.part t.id.part).cfg.trsize ≠ 0 → ∃ s1 t', Leaves s s1 c t z c.next { c.entry with done := true } 1 t' ∧
      exec (.pcsample z) s = .next (s1.postTrace t.id.part t.id.ctx 0
        (BitVec.ofNat 128 (c.entry.pc.toNat % 2 ^ 32 + t.id.index * 2 ^ 32 + t.id.img * 2 ^ 64)) false)) ∧
    ((rdS t c a.toNat).toNat < 16 → LongS (.pcread z d a) s c t z d.toNat ((Tbl.getD (s.ctx t.id.ctx).perf.val (rdS t c a.toNat).toNat 0).setWidth 64)) ∧
    (16 ≤ (rdS t c a.toNat).toNat → Raises (.pcread z d a) s c t 0x09)

/-- O26. Under an allowed policy word, ld, st and pf issue with one access for each governed lane and lds and sts with one
for the team: at the address of R570's table, of its size, with the lane's data for a store; the entry awaits the load's
registers; the accesses go to the checks of R574 in lane order. No register, mask or byte of memory changes by the issue
itself. Another policy word raises 0x07, or 0x05. -/
def Obligations.GlobalAccesses : Prop :=
  ∀ (s : State) (c : Cur) (t : Team) (z : BitVec 1) (d b p : BitVec 6) (m ty : BitVec 3), Performs s c t → m.toNat < 3 →
    ∀ f ∈ globalForms t c z d b p m ty, Issues f s c t z p

/-- O27. As for the global accesses, with stash addresses: sld, its two full/empty forms, whose team stalls, sst, sst.full
and the four stash atomics, which in mode 0 all name the first lane's element. -/
def Obligations.StashAccesses : Prop :=
  ∀ (s : State) (c : Cur) (t : Team) (z : BitVec 1) (d b p : BitVec 6) (m : BitVec 2) (ty : BitVec 3) (q : BitVec 1), Performs s c t → m.toNat < 3 →
    ∀ f ∈ stashForms t c z d b p m ty q, Issues f s c t z p

/-- O28. As for the global accesses, for the ten functions of major 0x18 with a type code that R580 lists for the function:
the operand is the lane of the destination register, the comparand of acas the lane of the next one, the format of afadd FMT
with the rounding override. acas with destination 63 raises 0x02. A combined update of an element with value m hands lane i
the value that the first i lanes leave, and leaves the value after them all; the step from one to the next is the table of
R580, the sum of afadd being rounded once, rsr as rne, its inputs flushed under ftz. -/
def Obligations.AtomicAccesses : Prop :=
  (∀ (s : State) (c : Cur) (t : Team) (z : BitVec 1) (d b p : BitVec 6) (ty : BitVec 3), Performs s c t →
      (∀ f ∈ atomicForms t c z d b p ty, wellFormed f.i = true → Issues f s c t z p) ∧
      (∀ f ∈ atomicForms t c z d b p ty, wellFormed f.i = true ↔
        (if f.i = .afadd z d b p ty then ty.toNat < 4 else ty = 0 ∨ ty = 1 ∨ ty = 4 ∨ ty = 5) ∧ (f.i = .acas z d b p ty → d ≠ 63)) ∧
      Raises (.acas z 63 b p ty) s c t 0x02) ∧
  ((∀ (fn ty : Nat) (fmt : Word32) (m : Nat) (ops : List (Word × Word)),
      let after := fun n => (ops.take n).foldl (fun v o => atomicNew fn ty fmt v (o.1.toNat % 2 ^ atomicW fn ty) (o.2.toNat % 2 ^ atomicW fn ty)) m
      (atomicFold fn ty fmt m ops).2 = after ops.length ∧ (atomicFold fn ty fmt m ops).1 = (List.range ops.length).map after) ∧
    (∀ (ty : BitVec 3) (fmt : Word32) (m x e : Nat), ty.toNat < 4 →
      let f := fltFmt ty.toNat 0
      let r : Rnd := { mode := if fmtRnd fmt = 5 then 0 else fmtRnd fmt, sat := fmtSat fmt, ftz := fmtFtz fmt }
      atomicNew 1 ty.toNat fmt m x e = f.ofFp r (Fp.add (r.mode = 2) (f.decode (f.flush r.ftz m)) (f.decode (f.flush r.ftz x)))) ∧
    (∀ (ty : BitVec 3) (fmt : Word32) (m x e : BitVec (elemBits ty)), ty = 0 ∨ ty = 1 ∨ ty = 4 ∨ ty = 5 →
      (List.range 10).map (fun fn => if fn = 1 then 0 else atomicNew fn ty.toNat fmt m.toNat x.toNat e.toNat) =
        [(m + x).toNat, 0, (if elemInt ty m ≤ elemInt ty x then m else x).toNat, (if elemInt ty m ≤ elemInt ty x then x else m).toNat,
         (m &&& x).toNat, (m ||| x).toNat, (m ^^^ x).toNat, x.toNat, (if m = e then x else m).toNat, (m + 1).toNat]))

/-- O29. Outside a transaction, wmon drops any armed monitor and sends one access of 8 bytes at s[b] plus displacement that
arms a new one; waitc does the same and parks, its register to be written when the monitor is satisfied; wtest gives the
status: 0 without a monitor, 1 from the arming on, then what the monitor has come to. Another policy word raises 0x07, or
0x05; inside a transaction each raises 0xA2. -/
def Obligations.MonitorForms : Prop :=
  ∀ (s : State) (c : Cur) (t : Team) (z : BitVec 1) (d b p : BitVec 6) (cmp : BitVec 3), Performs s c t →
    (¬ InTransaction t →
      Issues (monitorForm (.wmon z d b p cmp) t c d b cmp t.sync.park []) s c t z p ∧
      (let f := monitorForm (.waitc z d b p cmp) t c d b cmp (if c.inj = true then t.sync.park else .waitc) [(0, d.toNat)]
       let w : Word32 := (rdS t c p.toNat).setWidth 32
       (polCause f.rule (s.featOf t) w = none →
         let accs : List Acc := (f.accs w).map fun a => ({ a with nowatch := t.sched.skipBp || t.sync.inHandler } : Acc)
         ∃ s1 t' s', exec f.i s = .next s' ∧
           Leaves s s1 c (f.prep accs) z c.next { c.entry with accs := accs, res := [], dest := [(0, d.toNat)], stage := 1, gov := maskOf (accs.map Acc.lane), done := false } 1 t' ∧
           SameButCounters ((s1.checkAll c.team t.sync.nextEntry accs).modEntry c.team t.sync.nextEntry fun e => { e with stage := 2 }) s') ∧
       (polCause f.rule (s.featOf t) w = some 0x07 → exec f.i s = .next (s.raiseQ c t 0x07 0 w.toNat)) ∧
       (polCause f.rule (s.featOf t) w = some 0x05 → Raises f.i s c t 0x05)) ∧
      (∀ m, t.sync.mon = some m → LongS (.wtest z d) s c t z d.toNat (BitVec.ofNat 64 m.status)) ∧
      (t.sync.mon = none → (∀ e ∈ t.sync.rq, ∀ a ∈ e.accs, a.kind ≠ .arm) → LongS (.wtest z d) s c t z d.toNat 0) ∧
      (t.sync.mon = none → (∃ e ∈ t.sync.rq, ∃ a ∈ e.accs, a.kind = .arm) → LongS (.wtest z d) s c t z d.toNat 1)) ∧
    (InTransaction t → Raises (.wmon z d b p cmp) s c t 0xA2 ∧ Raises (.waitc z d b p cmp) s c t 0xA2 ∧ Raises (.wtest z d) s c t 0xA2)

/-- O30. Up to cluster scope fence.rel completes once every earlier store, atomic and stash access has returned, fence.acq
once every earlier load has, fence.ar once both have; until then the team stalls where it stands. At device scope a release
first writes back the dirty lines of the mappings that the team has joined, waiting where a pool write must wait or hosts
hold a line, and then stalls until every write-back has returned its time and device time has passed gwct. At pool and
system scope a release fence opens an epoch and does not stall, and an acquire discards bulk-tensor copies. A scope of 5 to
7 raises 0x07, and any fence inside a transaction 0xA2. -/
def Obligations.FenceForms : Prop :=
  ∀ (s : State) (c : Cur) (t : Team) (z : BitVec 1) (x : BitVec 3), Performs s c t →
    (InTransaction t → Raises (.fenceRel z x) s c t 0xA2 ∧ Raises (.fenceAcq z x) s c t 0xA2 ∧ Raises (.fenceAr z x) s c t 0xA2) ∧
    (¬ InTransaction t → 5 ≤ x.toNat → ∀ i ∈ [Instr.fenceRel z x, .fenceAcq z x, .fenceAr z x], exec i s = .next (s.raiseQ c t 0x07 0 x.toNat)) ∧
    (¬ InTransaction t → x.toNat < 5 →
      let early := t.sync.earlierDone t.sync.nextEntry = true
      let s1 := if 3 ≤ x.toNat then s.bulkDiscard t.id.part else s
      (t.sync.loadsDone = true → Goes (.fenceAcq z x) s s1 c t z c.next) ∧
      (t.sync.loadsDone = false → Stands (.fenceAcq z x) s c t .acq ∧ Stands (.fenceAr z x) s c t .acq) ∧
      (x.toNat < 2 → t.sched.relActive = false → (early → Becomes (.fenceRel z x) s c t z) ∧ (¬ early → Stands (.fenceRel z x) s c t .rel) ∧
        (t.sync.loadsDone = true → (early → Becomes (.fenceAr z x) s c t z) ∧ (¬ early → Stands (.fenceAr z x) s c t .rel))) ∧
      (x = 2 → ∀ i ∈ [Instr.fenceRel z x, .fenceAr z x], (i = .fenceAr z x → t.sync.loadsDone = true) →
        DeviceRelease i s c t fun s2 t2 => Goes i s s2 c t2 z c.next) ∧
      (3 ≤ x.toNat →
        let a : Acc := { kind := .fence, va := 0, esz := 1, pol := BitVec.ofNat 32 (2 * 2 ^ 19 + x.toNat * 2 ^ 16), wait := .ready }
        (∃ s' t', exec (.fenceRel z x) s = .next s' ∧ Leaves (s.openEpoch t).1 s' c (s.openEpoch t).2 z c.next { c.entry with accs := [a] } 1 t') ∧
        (t.sync.loadsDone = true → ∃ s' t', exec (.fenceAr z x) s = .next s' ∧
          Leaves (s1.openEpoch t).1 s' c (s1.openEpoch t).2 z c.next { c.entry with accs := [a] } 1 t')))

/-- O31. Outside a transaction, with no guard fault pending, on an object of the team that is aligned and inside an
allocation: binit writes a fresh object; on a valid one barr gives the phase and counts, flipping the phase when the count is
complete, bexp raises the expected count, bwait goes on when its phase is over and parks otherwise, and btry says which. A
count that is out of range, an object on which teams wait and one that is not valid raise 0xA0, a count above what is
expected 0xA1, another address 0x3A or 0x38, a transaction 0xA2; a pending guard fault is raised first. Only the object's 64
bytes of stash change. -/
def Obligations.BarrierForms : Prop :=
  ∀ (s : State) (c : Cur) (t : Team) (z : BitVec 1) (d a b : BitVec 6) (v : BitVec 1), Performs s c t →
    let adr := (rdS t c a.toNat).toNat
    let n := (rdS t c b.toNat).toNat
    let o := barrierAt s t adr
    let all := [Instr.binit z a b, .barr z d a b, .bexp z a b, .bwait z a b v, .btry z d a b v]
    (InTransaction t → ∀ i ∈ all, Raises i s c t 0xA2) ∧
    (¬ InTransaction t → ∀ g, t.sync.guard = some g → ∀ i ∈ all, exec i s = .next (guardRaise s c t g)) ∧
    (¬ InTransaction t → t.sync.guard = none →
    (adr % 64 ≠ 0 → ∀ i ∈ all, exec i s = .next (s.raise c t { cause := 0x3A, info := infoSt t.id.cluster adr 1 } (gov t c))) ∧
    (adr % 64 = 0 → ¬ ObjectOk t adr → ∀ i ∈ all, exec i s = .next (s.raise c t { cause := 0x38, info := infoSt t.id.cluster adr 1 } (gov t c))) ∧
    (ObjectOk t adr →
    (0 < n → n < 2 ^ 32 → s.waitsOn t.id.cluster adr = false → ∃ s1, Goes (.binit z a b) s s1 c t z c.next ∧
      BarWritten s s1 t.id.cluster adr { cst := 0, ust := 0, bgwct := 0, exp := n, cnt := 0, init := n, ph := false, val := true }) ∧
    (n = 0 ∨ 2 ^ 32 ≤ n ∨ s.waitsOn t.id.cluster adr = true → exec (.binit z a b) s = .next (s.raiseQ c t 0xA0 adr n)) ∧
    (o.val = false → ∀ i ∈ [Instr.barr z d a b, .bexp z a b, .bwait z a b v, .btry z d a b v], exec i s = .next (s.raiseQ c t 0xA0 adr 0)) ∧
    (o.val = true →
      (let q := (if b = 0 then 1 else n);
        (o.cnt + q ≤ o.exp → t.sched.relActive = false →
          (t.sync.earlierDone t.sync.nextEntry = true → ∃ s' s1 t', exec (.barr z d a b) s = .next s' ∧
            Leaves s s1 c t z c.next { c.entry with res := [.s d.toNat (if o.ph = true then 1 else 0)], dest := [(0, d.toNat)] } 1 t' ∧
            BarWritten s1 s' t.id.cluster adr (arrived o q)) ∧
          (t.sync.earlierDone t.sync.nextEntry = false → Stands (.barr z d a b) s c t .rel)) ∧
        (o.exp < o.cnt + q → exec (.barr z d a b) s = .next (s.raiseQ c t 0xA1 adr q))) ∧
      (o.exp + n < 2 ^ 32 → ∃ s1, Goes (.bexp z a b) s s1 c t z c.next ∧ BarWritten s s1 t.id.cluster adr { o with exp := o.exp + n }) ∧
      (2 ^ 32 ≤ o.exp + n → exec (.bexp z a b) s = .next (s.raiseQ c t 0xA1 adr n)) ∧
      let past := o.ph = true ↔ n % 2 = 0
      (¬ past → Stands (.bwait z a b v) s c t (.barrier adr (n % 2)) ∧ LongS (.btry z d a b v) s c t z d.toNat 0) ∧
      (past → v = 0 → Becomes (.bwait z a b v) s c t z ∧ LongS (.btry z d a b v) s c t z d.toNat 1) ∧
      (past → v = 1 →
        let t1 : Team := { t with regs := { t.regs with gwct := max t.regs.gwct o.bgwct } }
        (o.bgwct < s.now → Becomes (.bwait z a b v) s c t1 z ∧ LongS (.btry z d a b v) s c t1 z d.toNat 1) ∧
        (s.now ≤ o.bgwct → Stands (.bwait z a b v) s c t (.bdev o.bgwct) ∧ LongS (.btry z d a b v) s c t z d.toNat 0)))))

/-- O32. tmbegin on an aligned log inside an allocation records the abort target, D, FMT and the stack depth and opens the
transaction, after eight counted aborts of the same tmbegin only with the partition's commit token, for which it waits in
first-come order; inside a transaction it raises 0xA2, on another log 0xA5. tmend waits for the transaction's accesses and
then parks with the log committing, its pool reads being read again; tmabort goes to the abort target with D, FMT and the stack of tmbegin and status 4, memory unchanged;
both raise 0xA3 outside. tmstat writes the status word. -/
def Obligations.TransactionForms : Prop :=
  ∀ (s : State) (c : Cur) (t : Team) (z : BitVec 1) (d a b : BitVec 6), Performs s c t →
    let base := (rdS t c a.toNat).toNat
    let size := (rdS t c b.toNat).toNat
    let logOk := base % 16 = 0 ∧ size % 16 = 0 ∧ 96 ≤ size ∧ ∃ x, t.stashPlace base size = .at_ x
    let n := if t.sync.tm.pc = c.entry.pc then t.sync.tm.acnt else 0
    let x : Tm := { active := true, base := base, size := size, pc := c.entry.pc, target := c.entry.pc + 4 * displacement c, D := t.flow.D, fmt := t.regs.fmt,
                    depth := t.flow.stack.length, ent := t.sync.nextEntry, acnt := n, st := t.sync.tm.st, ser := decide (8 ≤ n), token := decide (8 ≤ n) }
    let t1 : Team := { t with sync := { t.sync with tm := x } }
    (logOk → t.sync.tm.active = false →
      (n < 8 → Becomes (.tmbegin z a b) s c t1 z) ∧
      (8 ≤ n → (s.part t.id.part).tmTok = some c.team → Becomes (.tmbegin z a b) s c t1 z) ∧
      (8 ≤ n → (s.part t.id.part).tmTok = none → Goes (.tmbegin z a b) s (s.modPart t.id.part fun P => { P with tmTok := some c.team }) c t1 z c.next) ∧
      (8 ≤ n → ∀ j, j ≠ c.team → (s.part t.id.part).tmTok = some j → ∃ s' t', exec (.tmbegin z a b) s = .next s' ∧
        Waits (s.modPart t.id.part fun P => { P with tmQ := if c.team ∈ P.tmQ then P.tmQ else P.tmQ ++ [c.team] }) s' c t .tmToken t')) ∧
    (logOk → t.sync.tm.active = true → Raises (.tmbegin z a b) s c t 0xA2) ∧
    (¬ logOk → exec (.tmbegin z a b) s = .next (s.raiseQ c t 0xA5 base size)) ∧
    (InTransaction t →
      (t.sync.tmDone = false → Stands (.tmend z) s c t .tmEnd) ∧
      (t.sync.tmDone = true →
        let t1 : Team := { t with sync := { t.sync with tm := { t.sync.tm with committing := true, asked := [], bad := false }, park := .tmEnd } }
        (∃ s1 t', Leaves s s1 c t1 z c.next { c.entry with done := true } 1 t' ∧ exec (.tmend z) s = .next (s1.txAsk c.team t1)) ∧
        (t.sync.tm.ser = true ∨ (∀ r ∈ t.sync.tm.reads, s.isLocal r.1 = true) → Goes (.tmend z) s s c t1 z c.next)) ∧
      ∃ s', exec (.tmabort z) s = .next s' ∧ TxAborted s s' c.team t 4 (t.sync.tm.acnt + 1)) ∧
    (¬ InTransaction t → Raises (.tmend z) s c t 0xA3 ∧ Raises (.tmabort z) s c t 0xA3) ∧
    LongS (.tmstat z d) s c t z d.toNat (BitVec.ofNat 64 ((if t.sync.tm.ser = true then 512 else 0) + (if t.sync.tm.active = true then 256 else 0) +
      16 * min t.sync.tm.acnt 8 + t.sync.tm.st))

/-- O33. For a plain allocation of 1 byte to 2 MiB: when a place exists salloc gives the lowest one, records it and clears
its bytes, full bits and poison; when none exists it gives all ones and changes nothing; another length raises 0x38. The
place lies with its guards at the bottom of the allotment or behind another allocation, below the spilled stack entries and
off every allocation. A mapped salloc opens a mapping over its fresh place, or joins the mapping of the same range; smap
turns a plain allocation into a mapped one; a range that fails a check of R601 raises that check's cause. With every stash
access performed, sflush writes the dirty lines of the mapping back, sunmap does so and makes the allocation plain again,
and sfree does so and removes it, its mapping ending with its last team; where hosts hold a line or a pool write must wait
the team stalls first. An address that is no allocation raises 0x3C; outstanding stash accesses make the team stall. -/
def Obligations.StashForms : Prop :=
  (∀ (s : State) (c : Cur) (t : Team) (z : BitVec 1) (d a b : BitVec 6), Performs s c t →
      let n := (rdS t c a.toNat).toNat
      let va := (rdS t c b.toNat).toNat
      let len := (n + 63) / 64 * 64
      (0 < n → n ≤ 2 ^ 21 →
        (∀ base, t.firstFit len = some base → FreePlace t base len ∧ (∀ x, t.sync.stashBase + 64 ≤ x → FreePlace t x len → base ≤ x) ∧
          (base = t.sync.stashBase + 64 ∨ ∃ y ∈ t.sync.allocs, y.joined = false ∧ base = y.base + y.len + 128) ∧
          ∃ s1, GoesLong (.salloc z d a b 0 0) s s1 c { t with sync := { t.sync with allocs := t.sync.allocs ++ [{ base := base, len := len, kind := 0 }] } } z d.toNat (BitVec.ofNat 64 base) ∧
            { s1 with clusters := s.clusters } = s ∧
            (∀ i, i < len → stashGet (s1.cluster t.id.cluster) (base + i) = 0) ∧
            (∀ j x, j ≠ t.id.cluster ∨ x < base ∨ base + len ≤ x → stashGet (s1.cluster j) x = stashGet (s.cluster j) x) ∧
            ∀ g ∈ granules base len, isFull (s1.cluster t.id.cluster) g = false ∧ stashPois (s1.cluster t.id.cluster) g = false) ∧
        (t.firstFit len = none → (∀ x, t.sync.stashBase + 64 ≤ x → ¬ FreePlace t x len) ∧ LongS (.salloc z d a b 0 0) s c t z d.toNat (BitVec.allOnes 64))) ∧
      (∀ (w : BitVec 1) (kd : BitVec 2), kd = 3 ∨ (kd = 0 ∧ w = 1) → Raises (.salloc z d a b w kd) s c t 0x02) ∧
      (∀ (w : BitVec 1) (kd : BitVec 2), ¬ (kd = 3 ∨ (kd = 0 ∧ w = 1)) → n = 0 ∨ 2 ^ 21 < n → ∃ info, RaisesW (.salloc z d a b w kd) s c t 0x38 info) ∧
      (∀ (w : BitVec 1) (kd : BitVec 2), kd = 1 ∨ kd = 2 → 0 < n → n ≤ 2 ^ 21 → let i := Instr.salloc z d a b w kd
        (∀ x info, s.checkMap t va len (decide (w = 1)) true = .raise x info → RaisesW i s c t x info) ∧
        (s.checkMap t va len (decide (w = 1)) true = .fresh →
          (t.firstFit len = none → LongS i s c t z d.toNat (BitVec.allOnes 64)) ∧
          (∀ base, t.firstFit len = some base →
            let s1 := (s.modCluster t.id.cluster fun q => clearStash q base len).newMap c.team t va len kd.toNat base (decide (w = 1))
            GoesLong i s s1.2 c
              { t with sync := { t.sync with allocs := t.sync.allocs ++ [{ base := base, len := len, kind := kd.toNat, va := va, w := decide (w = 1), map := s.fresh }] } } z d.toNat (BitVec.ofNat 64 base))) ∧
        (∀ mn m, s.checkMap t va len (decide (w = 1)) true = .join mn m →
          (c.team ∈ m.teams → LongS i s c t z d.toNat (BitVec.ofNat 64 m.base)) ∧
          (c.team ∉ m.teams →
            GoesLong i s (s.modCluster t.id.cluster fun q => { q with maps := Tbl.put q.maps mn { m with teams := m.teams ++ [c.team] } }) c
              { t with sync := { t.sync with allocs := t.sync.allocs ++ [{ base := m.base, len := m.len, kind := m.kind, va := m.va, w := m.w, map := mn, joined := true }] } } z
              d.toNat (BitVec.ofNat 64 m.base))))) ∧
  (∀ (s : State) (c : Cur) (t : Team) (z : BitVec 1) (a b : BitVec 6) (w : BitVec 1) (kd : BitVec 2), Performs s c t →
      let adr := (rdS t c a.toNat).toNat
      let va := (rdS t c b.toNat).toNat
      (t.allocAt adr = none → ∀ i ∈ [Instr.sfree z a, .sunmap z a, .sflush z a], exec i s = .next (s.raiseQ c t 0x3C adr 0)) ∧
      (kd = 1 ∨ kd = 2 → t.allocAt adr = none → exec (.smap z a b w kd) s = .next (s.raiseQ c t 0x3C adr 0)) ∧
      (kd = 0 ∨ kd = 3 → Raises (.smap z a b w kd) s c t 0x02) ∧
      (∀ x, t.allocAt adr = some x →
        (t.sync.stashDone = false → x.kind ≠ 0 → ∀ i ∈ [Instr.sunmap z a, .sflush z a], Stands i s c t .bank) ∧
        (t.sync.stashDone = false ∨ s.cardOn t.id.cluster x.base x.len = true → Stands (.sfree z a) s c t (.sfree x.base)) ∧
        (x.kind = 0 → ∀ i ∈ [Instr.sunmap z a, .sflush z a], exec i s = .next (s.raiseQ c t 0x3C adr 0)) ∧
        (kd = 1 ∨ kd = 2 →
          (x.kind ≠ 0 → exec (.smap z a b w kd) s = .next (s.raiseQ c t 0x3C adr 0)) ∧
          (x.kind = 0 → t.sync.stashDone = false → Stands (.smap z a b w kd) s c t .bank) ∧
          (x.kind = 0 → t.sync.stashDone = true →
            (∀ e info, s.checkMap t va x.len (decide (w = 1)) false = .raise e info → RaisesW (.smap z a b w kd) s c t e info) ∧
            (s.checkMap t va x.len (decide (w = 1)) false = .fresh →
              let y : Alloc := { x with kind := kd.toNat, va := va, w := decide (w = 1), map := s.fresh }
              Goes (.smap z a b w kd) s (s.newMap c.team t va x.len kd.toNat x.base (decide (w = 1))).2 c
                { t with sync := { t.sync with allocs := t.sync.allocs.map fun q => if q = x then y else q } } z c.next))) ∧
        (t.sync.stashDone = true →
          let ms := s.mapOf t x
          let drop := fun t : Team => { t with sync := { t.sync with allocs :=
            (if x.joined = true then t.sync.allocs.filter (fun y => y ≠ x) else t.sync.allocs.map (fun y => if y = x then { x with kind := 0 } else y)) } }
          let forms := if x.kind = 0 then [] else [Instr.sflush z a, .sunmap z a]
          ((∀ m ∈ ms, ∀ y ∈ m.2.lines, y.2.dirty = false) → MayFlush s t ms ∧ ∀ s1 : State, s1.clusters = s.clusters → s1.flushMaps c.team t t.sync.nextEntry ms = s1) ∧
          (∀ i ∈ forms ++ (if s.cardOn t.id.cluster x.base x.len = true then [] else [.sfree z a]),
            (s.backStalled t ms = true → Stands i s c t .port) ∧
            (s.backStalled t ms = false → s.backHeld ms ≠ [] → ∃ s' t', exec i s = .next s' ∧ Waits ((s.backHeld ms).foldl State.snoopOut s) s' c t .port t')) ∧
          (MayFlush s t ms → ∃ s1 t', Leaves s s1 c t z c.next { c.entry with done := true } 1 t' ∧
            let s2 := s1.flushMaps c.team t t.sync.nextEntry ms
            (x.kind ≠ 0 → exec (.sflush z a) s = .next s2 ∧ exec (.sunmap z a) s = .next (ms.foldl (fun s m => s.leaveMap c.team t m.1 true) (s2.modTeam c.team drop))) ∧
            (s.cardOn t.id.cluster x.base x.len = false → exec (.sfree z a) s = .next (s2.freeAlloc c.team x))))))

/-- O34. For each kind: inside a transaction enq raises 0xA2 and outside registers 1 to 56 0x02; a card that fails a check
of R606 raises that check's cause with its information, the team waiting where the check needs a translation; one that
passes waits for the team's earlier stash accesses and for room, and is then accepted: it joins its cluster's queue and its
tag is the result; a drain to registers also holds those registers back. chain names the next card's predecessor, 0x7D for
one above 65,535. cstat gives the completed status of a barrier object and may clear it, 0x7C where it tells an error and nt
is not set; 0x3A, 0x38 or 0xA0 for an object that is not aligned, not in an allocation or not valid. -/
def Obligations.CardForms : Prop :=
  ∀ (s : State) (c : Cur) (t : Team) (z : BitVec 1) (d a : BitVec 6), Performs s c t →
    (∀ p ∈ enqForms z d a,
      (InTransaction t → Raises p.1 s c t 0xA2) ∧
      (¬ InTransaction t → a.toNat < 1 ∨ 56 < a.toNat → Raises p.1 s c t 0x02) ∧
      (∀ b, ¬ InTransaction t → 1 ≤ a.toNat → a.toNat ≤ 56 → CardIn t c a.toNat b →
        let y : Team := { t with sync := { t.sync with fetch := {} } }
        (∀ x, s.cardCheck t p.2 b = some x → x.1 ≠ 0x4D → RaisesW p.1 s c y x.1 x.2) ∧
        (∀ x s0, s.cardJudge c.team t p.2 b = (.ok (some x), s0) → exec p.1 s = .next (s0.raise c y { cause := x.1, info := x.2 } (gov t c))) ∧
        (∀ w s0, s.cardJudge c.team t p.2 b = (.error w, s0) → ∃ s' t', exec p.1 s = .next s' ∧
          Waits s0 s' c { s0.team c.team with sync := { (s0.team c.team).sync with fetch := { (s0.team c.team).sync.fetch with wait := w } } } .fetch t') ∧
        (s.cardCheck t p.2 b = none → s.cardJudge c.team t p.2 b = (.ok none, s)) ∧
        (∀ s0, s.cardJudge c.team t p.2 b = (.ok none, s0) →
          (t.sync.stashDone = false → ∃ s' t', exec p.1 s = .next s' ∧ Waits s0 s' c t .bank t') ∧
          (t.sync.stashDone = true → s0.cardRoom c.team t = false → ∃ s' s1 t', exec p.1 s = .next s' ∧ Waits s0 s1 c t .enqRoom t' ∧ SameButCounters s1 s') ∧
          (t.sync.stashDone = true → s0.cardRoom c.team t = true →
            let w : Word := BitVec.ofNat 64 ((s0.cluster t.id.cluster).nextTag % 65536)
            let t1 : Team := { t with sync := { t.sync with chain := none } }
            ∃ s1, CardAccepted s0 s1 c t p.2 b ∧
              (p.2 ≠ 3 ∨ drainReg b = false → GoesLong p.1 s s1 c t1 z d.toNat w) ∧
              (p.2 = 3 → drainReg b = true → ∃ s' t', exec p.1 s = .next s' ∧
                Leaves s1 s' c t1 z c.next { c.entry with
                  res := [.s d.toNat w], stage := 3
                  dest := (0, d.toNat) :: (List.range (drainRegs b t.regs.lanes)).map fun i => (1, cb b 90 85 + i) } 1 t'))))) ∧
    (let v := (rdS t c a.toNat).toNat
     (v < 2 ^ 16 → Becomes (.chain z a) s c { t with sync := { t.sync with chain := some v } } z) ∧
     (2 ^ 16 ≤ v → RaisesW (.chain z a) s c t 0x7D (infoE 0))) ∧
    (∀ (nt clr : BitVec 1),
      let adr := (rdS t c a.toNat).toNat
      let o := barrierAt s t adr
      let i := Instr.cstat z d a nt clr
      (adr % 64 ≠ 0 → RaisesW i s c t 0x3A (infoSt t.id.cluster adr 1)) ∧
      (adr % 64 = 0 → ¬ ObjectOk t adr → RaisesW i s c t 0x38 (infoSt t.id.cluster adr 1)) ∧
      (ObjectOk t adr → o.val = false → exec i s = .next (s.raiseQ c t 0xA0 adr 0)) ∧
      (ObjectOk t adr → o.val = true → bit o.cst 0 = true → nt = 0 → ∃ w, RaisesW i s c t 0x7C [0, BitVec.ofNat 64 o.cst, w]) ∧
      (ObjectOk t adr → o.val = true → bit o.cst 0 = false ∨ nt = 1 →
        (clr = 0 → LongS i s c t z d.toNat (BitVec.ofNat 64 o.cst)) ∧
        (clr = 1 → ∃ s1, BarWritten s s1 t.id.cluster adr { o with cst := 0 } ∧ GoesLong i s s1 c t z d.toNat (BitVec.ofNat 64 o.cst))))

/-- O35. With a pair of destinations that R621 admits: a parameter word out of range raises 0x72, centroids on a part without
them 0x05; a page above 64 KiB gives status 2 and a full table status 5; else kvopen makes an empty entry of the word's shape
with one reference and gives its handle. kvopen.ds reads a descriptor image in the launch's view, waiting for what it reads;
poison raises 0x88, an image or a handle that breaks a rule 0x72; with its ranges translated and its snapshot table zeroed
it makes a stream and gives its handle, or status 5. kvclose lowers the reference count, and the last close frees the entry.
-/
def Obligations.EntryOpening : Prop :=
  ∀ (s : State) (c : Cur) (t : Team) (z : BitVec 1) (d a : BitVec 6), Performs s c t →
    let w := rdS t c a.toNat
    let n := w.toNat
    let i := Instr.kvopen z d a
    (wellFormed i = true ↔ 1 ≤ d.toNat ∧ d.toNat ≤ 62) ∧ (wellFormed (.kvopenDs z d a) = true ↔ 1 ≤ d.toNat ∧ d.toNat ≤ 62) ∧
    (wellFormed i = true →
    let ptok := bits n 11 8
    let rowg := bits n 7 0 + 1
    let ncent := bits n 18 12
    (¬ OpenWord n → exec i s = .next (s.raiseQ c t 0x72 0 n)) ∧
    (OpenWord n → 0 < ncent → bit (s.featOf t).toNat 4 = true → Raises i s c t 0x05) ∧
    (OpenWord n → ncent = 0 ∨ bit (s.featOf t).toNat 4 = false →
      (65536 < 2 ^ ptok * 2 * rowg * 16 → LongThen i s s c t z (pairOf d 2 0) id) ∧
      (2 ^ ptok * 2 * rowg * 16 ≤ 65536 →
        (s.newIdx t.id.part 1 = none → LongThen i s s c t z (pairOf d 5 0) id) ∧
        (∀ x s1, s.newIdx t.id.part 1 = some (x, s1) →
          let gen := ((s1.part t.id.part).kvEnt x).gen
          LongThen i s s1 c t z (pairOf d 0 (mkHandle t.id.part gen x true 0x1FFFFFF)) fun q => q.putKv t.id.part x
            { kind := 1, gen := gen, ctx := t.id.ctx, ref := 1, len := 0, cap := 0, pages := [], rowg := rowg, ptok := ptok, ncent := ncent, kfmt := bits n 21 20 })))) ∧
    (wellFormed (.kvopenDs z d a) = true →
    (n % 64 ≠ 0 → exec (.kvopenDs z d a) s = .next (s.raiseQ c t 0x72 n 0)) ∧
    (n % 64 = 0 → bit (s.featOf t).toNat 2 = true → Raises (.kvopenDs z d a) s c t 0x05) ∧
    (n % 64 = 0 → bit (s.featOf t).toNat 2 = false →
      (∀ x, footCheck (s.footOf t.view) .load false n 256 = .error x → RaisesW (.kvopenDs z d a) s c t x (({ kind := .load, va := n, esz := 1 } : Acc).infoT0)) ∧
      (∀ g, footCheck (s.footOf t.view) .load false n 256 = .ok g →
        let ag := teamAgent c t
        ReadFails (.kvopenDs z d a) s c t .load n (s.unitRead ag n 256) ∧
        ∀ bs p s1, s.unitRead ag n 256 = .ok (bs, p) s1 →
          let s0 := afterRead s1 c
          let t1 := readTeam s1 c
          let q := t1.id.part
          let f := dsFields (leNat bs)
          let hok := ∀ h ∈ f.kvh.take f.nkv, ∃ e, s0.kvDeref0 q t1.id.ctx h 1 true none = .ok e
          (p = true → exec (.kvopenDs z d a) s = .next (s0.raise c t1 { cause := 0x88, info := s0.infoP { kind := .load, va := n, esz := 1 } 0 0 } (gov t1 c))) ∧
          (p = false → ¬ (f.shapeOk (leNat bs) = true ∧ hok) → exec (.kvopenDs z d a) s = .next (s0.raise c t1 { cause := 0x72, info := infoQ n 0 0 } (gov t1 c))) ∧
          (p = false → f.shapeOk (leNat bs) = true → hok → ∀ l s2 u s3,
            s0.xlatAll ag (f.ranges.flatMap fun r => (pagesOf r.1 r.2.1).map fun p => (p, r.2.2)) = .ok l s2 →
            (if (s2.newIdx q 4).isSome = true then s2.zeroTable ag f else .ok () s2) = .ok u s3 →
            let s4 := afterRead s3 c
            (s4.newIdx q 4 = none → LongThen (.kvopenDs z d a) s s4 c t1 z (pairOf d 5 0) id) ∧
            (∀ x s5, s4.newIdx q 4 = some (x, s5) →
              LongThen (.kvopenDs z d a) s s5 c t1 z (pairOf d 0 (mkHandle q ((s5.part q).kvEnt x).gen x true 0x1FFFFFF)) fun y => y.newStream q x t1 f))))) ∧
    (∀ kind, kind = (if ((s.part t.id.part).kvEnt (hIdx w)).kind = 2 then 2 else 1) →
      (∀ x k, s.kvDeref t.view t.id.part t.id.ctx w kind false none = .error (x, k) → RaisesW (.kvclose z a) s c t x (infoH w 0 0 k)) ∧
      (∀ e, s.kvDeref t.view t.id.part t.id.ctx w kind false none = .ok e →
        (1 < e.ref → GoesThen (.kvclose z a) s s c t z fun q => q.modKv t.id.part (hIdx w) fun e => { e with ref := e.ref - 1, closing := decide (e.ref ≤ 1) }) ∧
        (e.ref ≤ 1 → GoesThen (.kvclose z a) s s c t z fun q => (q.modKv t.id.part (hIdx w) fun e => { e with ref := e.ref - 1, closing := decide (e.ref ≤ 1) }).kvSettle t.id.part)))

/-- O36. With a pair of destinations that R621 admits, each checks its operand word (0x72) and its handle. kvapp and kvtrunc
give status 4 while another launch holds the append claim; kvapp gives status 6 past the capacity, raises 0x88 for a poisoned
row, waits for what a rebuild of its centroids, a moving page, a pool write or a host needs, and else writes the rows, takes
the claim, raises the view's length and gives the first position; kvtrunc takes the claim, cuts the view's length and gives the handle of the next generation.
kvfork makes a copy-on-write entry of a prefix, its pages shared, or gives status 5. -/
def Obligations.EntryLengths : Prop :=
  ∀ (s : State) (c : Cur) (t : Team) (z : BitVec 1) (d a b : BitVec 6), Performs s c t →
    let w := rdS t c b.toNat
    let n := w.toNat
    let h := rdS t c a.toNat
    let p := t.id.part
    let x := hIdx h
    let app := Instr.kvapp z d a b
    let trunc := Instr.kvtrunc z d a b
    let fork := Instr.kvfork z d a b
    (∀ i ∈ [app, trunc, fork], wellFormed i = true ↔ 1 ≤ d.toNat ∧ d.toNat ≤ 62) ∧ (1 ≤ d.toNat → d.toNat ≤ 62 →
    (¬ AppendWord n → exec app s = .next (s.raiseQ c t 0x72 0 n)) ∧
    (2 ^ 25 ≤ n → exec trunc s = .next (s.raiseQ c t 0x72 0 n) ∧ exec fork s = .next (s.raiseQ c t 0x72 0 n)) ∧
    (∀ y k, s.kvDeref t.view p t.id.ctx h 1 true none = .error (y, k) →
      (AppendWord n → RaisesW app s c t y (infoH h 0 0 k)) ∧ (n < 2 ^ 25 → RaisesW trunc s c t y (infoH h 0 0 k))) ∧
    (∀ e, s.kvDeref t.view p t.id.ctx h 1 true none = .ok e →
      let src := bits n 20 0
      let m := bits n 44 32
      let rb := 16 * e.rowg
      let len := s.kvLen t.view x e
      (AppendWord n →
        (t.inStash src (2 * m * rb) = false → RaisesW app s c t 0x38 (infoSt t.id.cluster src 1)) ∧
        (t.inStash src (2 * m * rb) = true → t.sync.stashDone = false → Stands app s c t .bank) ∧
        (t.inStash src (2 * m * rb) = true → t.sync.stashDone = true →
          (s.mayClaim t e = false → LongThen app s s c t z (pairOf d 4 0) id) ∧
          (s.mayClaim t e = true → e.cap < len + m → LongThen app s s c t z (pairOf d 6 0) id) ∧
          (s.mayClaim t e = true → len + m ≤ e.cap → (granules src (2 * m * rb)).any (stashPois (s.cluster t.id.cluster)) = true →
            RaisesW app s c t 0x88 (s.infoP { kind := .load, va := src, esz := 1 } src 3)) ∧
          (s.mayClaim t e = true → len + m ≤ e.cap → (granules src (2 * m * rb)).any (stashPois (s.cluster t.id.cluster)) = false →
           let cs := if e.ncent = 0 then CardGo.ok ({}, none) s else s.freshCset c t x e
           ReadFails app s c t .load src cs ∧
           ∀ y s1, cs = .ok (y, none) s1 →
            let t1 := readTeam s1 c
            let rows := (List.range (2 * m)).map fun i => stashBytes ((afterRead s1 c).cluster t1.id.cluster) (src + i * rb) rb
            (∀ id s0, (afterRead s1 c).rowsWait c.team t1 h rb (2 * len) (2 * m) = (some id, s0) → WaitsRead app s c (.move id) s0) ∧
            (∀ s0, (afterRead s1 c).rowsWait c.team t1 h rb (2 * len) (2 * m) = (none, s0) →
             let go := s0.rowsWrite c t1 h rb s0.now (2 * len) rows
             (go = .stall → ∃ s' t', exec app s = .next s' ∧ Waits s0 s' c t1 .port t') ∧
             (∀ ln, go = .held ln → WaitsRead app s c .snoop (s0.snoopOut ln)) ∧
             (∀ r, go = .raise r → exec app s = .next (s0.raise c t1 r (gov t1 c))) ∧
             (∀ time s2, go = .ok time s2 →
            ∃ s3 : State, LongThen app s s3 c (s3.team c.team) z (pairOf d 0 (BitVec.ofNat 64 len)) id ∧ s3.mem = s2.mem ∧ s3.clusters = s2.clusters ∧
              (∀ k, Tbl.get? (s2.part t1.id.part).kv x = some k → ((s3.part t1.id.part).kvEnt x).claim = some t1.id.launch) ∧
              (∀ l, Tbl.get? s2.launches t1.id.launch = some l → ((Tbl.get? (s3.launch t1.id.launch).kv x).bind KvView.len) = some (len + m))))))) ∧
      (n < 2 ^ 25 →
        (s.mayClaim t e = false → LongThen trunc s s c t z (pairOf d 4 0) id) ∧
        (s.mayClaim t e = true →
          LongThen trunc s ((s.claim t x).modView t.id.launch x fun v =>
            { v with len := some (min len n), cut := some (match v.cut with | some y => min y n | none => n), stale := some true })
            c t z (pairOf d 0 (mkHandle (hPart h) (e.gen + 1) x (hWr h) (hBound h))) id))) ∧
    (n < 2 ^ 25 →
      (∀ y k, s.kvDeref t.view p t.id.ctx h 1 false none = .error (y, k) → RaisesW fork s c t y (infoH h 0 0 k)) ∧
      (∀ e, s.kvDeref t.view p t.id.ctx h 1 false none = .ok e →
        (s.kvLen t.view x e < n → RaisesW fork s c t 0x6C (infoH h n 0 7)) ∧
        (n ≤ s.kvLen t.view x e →
          (s.newIdx p 1 = none → LongThen fork s s c t z (pairOf d 5 0) id) ∧
          (∀ y s1, s.newIdx p 1 = some (y, s1) →
            let k := (n + 2 ^ e.ptok - 1) / 2 ^ e.ptok
            let gen := ((s1.part p).kvEnt y).gen
            LongThen fork s s1 c t z (pairOf d 0 (mkHandle p gen y true 0x1FFFFFF)) fun q =>
              (((q.putKv p y { kind := 1, gen := gen, ctx := t.id.ctx, len := n, cap := k * 2 ^ e.ptok, ref := 1, rowg := e.rowg, ptok := e.ptok,
                               ncent := e.ncent, kfmt := e.kfmt, cstale := true, cow := true, pages := e.pages.take k }).modKv p x fun e => { e with cow := true })).modPart p
                fun P => (e.pages.take k).foldl (fun P pa => P.modPage pa fun g => { g with share := g.share + 1 }) P)))))

/-- O37. With a pair of destinations that R621 admits, kvlook gives 0 with no way under the hash, 3 with ways that disagree, else 1 or 2 with a bounded handle and one
more reference; kvlook.ins stores the string in a free way, or says that it is there, that another is, or that the bucket is
full. kvalloc.grow adds pages from a tier's free ones, or gives 1 to 3; grant makes pages of local and bulk-tensor blocks;
rsv sets the reserves; dem starts a move to the remote tier, or gives 2 or 6. -/
def Obligations.EntryPages : Prop :=
  ∀ (s : State) (c : Cur) (t : Team) (z : BitVec 1) (d a b : BitVec 6), Performs s c t →
    let w := rdS t c b.toNat
    let n := w.toNat
    let h := rdS t c a.toNat
    let p := t.id.part
    let P := s.part p
    let look := Instr.kvlook z d a b
    let ins := Instr.kvlookIns z d a b
    let src := bits n 20 0
    let len := bits n 56 32
    let ids := tokenIds s t src (min len 4096)
    (∀ i ∈ [look, ins], wellFormed i = true ↔ 1 ≤ d.toNat ∧ d.toNat ≤ 62) ∧ (1 ≤ d.toNat → d.toNat ≤ 62 →
    (¬ StringWord n → exec look s = .next (s.raiseQ c t 0x72 0 n) ∧ exec ins s = .next (s.raiseQ c t 0x72 0 n)) ∧
    (StringWord n → t.inStash src (4 * min len 4096) = false → RaisesW look s c t 0x38 (infoSt t.id.cluster src 1) ∧ RaisesW ins s c t 0x38 (infoSt t.id.cluster src 1)) ∧
    (StringWord n → t.inStash src (4 * min len 4096) = true → t.sync.stashDone = false → Stands look s c t .bank ∧ Stands ins s c t .bank) ∧
    (StringWord n → t.inStash src (4 * min len 4096) = true → t.sync.stashDone = true →
      (granules src (4 * min len 4096)).any (stashPois (s.cluster t.id.cluster)) = true →
      ∀ i ∈ [look, ins], RaisesW i s c t 0x88 (s.infoP { kind := .load, va := src, esz := 1 } src 3)) ∧
    (StringWord n → t.inStash src (4 * min len 4096) = true → t.sync.stashDone = true →
      (granules src (4 * min len 4096)).any (stashPois (s.cluster t.id.cluster)) = false →
      (P.waysAt h = [] → LongThen look s s c t z (pairOf d 0 0) id) ∧
      (P.waysAt h ≠ [] → (∀ y ∈ P.waysAt h, y.agrees len ids = false) → LongThen look s s c t z (pairOf d 3 0) id) ∧
      (∀ y, (P.waysAt h).find? (fun y => y.agrees len ids) = some y →
        LongThen look s s c t z (pairOf d (if 4096 < y.len ∧ 4096 < len then 2 else 1) (mkHandle p y.gen y.idx false (min len y.len)))
          fun q => q.modKv p y.idx fun e => { e with ref := e.ref + 1 }) ∧
      (let hd := rdS t c (d.toNat + 1)
       (∀ y k, s.kvDeref0 p t.id.ctx hd 1 false none = .error (y, k) → RaisesW ins s c t y (infoH hd 0 0 k)) ∧
       (∀ e, s.kvDeref0 p t.id.ctx hd 1 false none = .ok e →
         (e.len < len → RaisesW ins s c t 0x6C (infoH hd len 0 7)) ∧
         (len ≤ e.len →
           ((∃ y ∈ P.waysAt h, ¬ (y.len = len ∧ y.ids = ids)) → LongThen ins s s c t z (oneOf d 3) id) ∧
           ((∀ y ∈ P.waysAt h, y.len = len ∧ y.ids = ids) → P.waysAt h ≠ [] → LongThen ins s s c t z (oneOf d 0) id) ∧
           (P.waysAt h = [] → (∀ k, k < 4 → Tbl.get? P.pfx (4 * (h.toNat % 65536) + k) ≠ none) → LongThen ins s s c t z (oneOf d 5) id) ∧
           (∀ k, P.waysAt h = [] → k < 4 → Tbl.get? P.pfx (4 * (h.toNat % 65536) + k) = none → (∀ j, j < k → Tbl.get? P.pfx (4 * (h.toNat % 65536) + j) ≠ none) →
             LongThen ins s s c t z (oneOf d 0) fun q => (q.modPart p fun P =>
               { P with pfx := Tbl.put P.pfx (4 * (h.toNat % 65536) + k) { hash := h, idx := hIdx hd, gen := hGen hd, len := len, ids := ids } }).modKv p (hIdx hd)
                 fun e => { e with pidx := some (h.toNat % 65536, k) })))))) ∧
    (let i := Instr.kvallocGrow z d a b
     let m := bits n 31 0
     (bits n 61 32 ≠ 0 ∨ m = 0 → exec i s = .next (s.raiseQ c t 0x72 0 n)) ∧
     (bits n 61 32 = 0 → m ≠ 0 →
      (∀ y k, s.kvDeref t.view p t.id.ctx h 1 true none = .error (y, k) → RaisesW i s c t y (infoH h 0 0 k)) ∧
      (∀ e, s.kvDeref t.view p t.id.ctx h 1 true none = .ok e →
       let rem := bit n 62
       let k := (e.cap + m + 2 ^ e.ptok - 1) / 2 ^ e.ptok
       let free := P.freePages rem
       let need := k - e.pages.length
       (0x1FFFFFF < k * 2 ^ e.ptok → LongThen i s s c t z (oneOf d 3) id) ∧
       (k * 2 ^ e.ptok ≤ 0x1FFFFFF → free.length < need → LongThen i s s c t z (oneOf d 2) id) ∧
       (k * 2 ^ e.ptok ≤ 0x1FFFFFF → need ≤ free.length → free.length - need < P.reserve rem → bit n 63 = false → LongThen i s s c t z (oneOf d 1) id) ∧
       (k * 2 ^ e.ptok ≤ 0x1FFFFFF → need ≤ free.length → P.reserve rem ≤ free.length - need ∨ bit n 63 = true →
         LongThen i s s c t z (oneOf d 0) fun q => (q.modKv p (hIdx h) fun e => { e with cap := k * 2 ^ e.ptok, pages := e.pages ++ free.take need }).modPart p
           fun P => (free.take need).foldl (fun P pa => P.modPage pa fun x => { x with share := 1, priv := false }) P)))) ∧
    (let i := Instr.kvallocGrant z d a b
     let va := h.toNat
     let none_ := ({ kind := .store, va := va, esz := 1 } : Acc).infoT0
     (va % 65536 ≠ 0 → RaisesW i s c t 0x24 none_) ∧
     (va % 65536 = 0 → n = 0 ∨ n % 65536 ≠ 0 → exec i s = .next (s.raiseQ c t 0x72 0 n)) ∧
     (va % 65536 = 0 → n ≠ 0 → n % 65536 = 0 → 2 ^ 57 < va + n → RaisesW i s c t 0x20 none_) ∧
     (va % 65536 = 0 → n ≠ 0 → n % 65536 = 0 → va + n ≤ 2 ^ 57 →
      (∀ g, footCheck (s.footOf t.view) .store false va n = .ok g → ReadFails i s c t .store va (s.xlatAll (teamAgent c t) ((pagesOf va n).map fun p => (p, true)))) ∧
      (∀ x, footCheck (s.footOf t.view) .store false va n = .error x → RaisesW i s c t x none_) ∧
      (∀ g l s1 bs, footCheck (s.footOf t.view) .store false va n = .ok g →
        s.xlatAll (teamAgent c t) ((pagesOf va n).map fun p => (p, true)) = .ok l s1 → (∀ x ∈ l, x.host = false) →
        (blocksOf l.length (l.map fun x => x.pa)).bind (fun bs => bs.mapM fun pa => ((afterRead s1 c).tierOf pa).map fun r => (pa, r)) = some bs →
        LongThen i s (afterRead s1 c) c (readTeam s1 c) z (oneOf d 0) fun q => q.modPart (readTeam s1 c).id.part fun P =>
          { P with pages := bs.foldl (fun q x => if (Tbl.get? q x.1).isSome = true then q else Tbl.put q x.1 { remote := x.2, share := 0 }) P.pages }))) ∧
    (h.toNat < 2 ^ 32 → n < 2 ^ 32 → LongThen (.kvallocRsv z d a b) s s c t z (oneOf d 0) fun q => q.modPart p fun P => { P with resL := h.toNat, resR := n }) ∧
    (2 ^ 32 ≤ h.toNat → exec (.kvallocRsv z d a b) s = .next (s.raiseQ c t 0x72 0 h.toNat)) ∧
    (h.toNat < 2 ^ 32 → 2 ^ 32 ≤ n → exec (.kvallocRsv z d a b) s = .next (s.raiseQ c t 0x72 0 n)) ∧
    (let i := Instr.kvallocDem z d a b
     (∀ y k, s.kvDeref t.view p t.id.ctx h 1 true none = .error (y, k) → RaisesW i s c t y (infoH h 0 0 k)) ∧
     (∀ e, s.kvDeref t.view p t.id.ctx h 1 true none = .ok e →
      (e.cap / 2 ^ e.ptok ≤ n → RaisesW i s c t 0x6C (infoH h (n * 2 ^ e.ptok) 0 7)) ∧
      (n < e.cap / 2 ^ e.ptok →
       let old := e.pageAt n
       let busy := (Tbl.getD P.pages old { remote := false, share := 0 }).remote = true ∨ ∃ m ∈ s.xlat.moves, m.kv.isSome = true ∧ m.old = old
       (busy → LongThen i s s c t z (oneOf d 6) id) ∧
       (¬ busy → P.freePages true = [] → LongThen i s s c t z (oneOf d 2) id) ∧
       (∀ new r, ¬ busy → P.freePages true = new :: r → LongThen i s s c t z (oneOf d 0) fun q =>
         ({ q with fresh := q.fresh + 1, xlat := { q.xlat with moves := q.xlat.moves ++ [{ id := q.fresh, pf := false, ctx := t.id.ctx, va := 0, lg := 16, old := old, new := new,
                                                                                             phase := 2, ta := q.now, stamp := q.fresh, kv := some (p, hIdx h, n) }] } } : State).modPart p
           fun P => P.modPage new fun x => { x with moving := true }))))

/-- O38. On the stream that the launch binds, n being s[b]: dsin waits for a frame, writes its 64 bytes into the stash with full bits set
and gives its number; a late frame under latep 0 it consumes and raises 0x71 once every earlier instruction of the team
is done, for which it waits (log 254); dsgen raises the view's G; dstrunc takes the claims and cuts G, or gives status 4; dssnap appends a copy card and stalls for it, raising 0x75 without a ring and 0x88 for a poisoned
table; dsplay writes the cursor window outside any shadow, once what the write needs is there. An operand out of range raises
its cause, an unbound stream 0x70. -/
def Obligations.StreamForms : Prop :=
  ∀ (s : State) (c : Cur) (t : Team) (z : BitVec 1) (d a b : BitVec 6), Performs s c t →
    let h := rdS t c a.toNat
    let x := hIdx h
    let p := t.id.part
    let n := (rdS t c b.toNat).toNat
    let ds := (s.part p).stm x
    let G := s.streamG t.view p x
    let dsin := Instr.dsin z d a b
    let all := [dsin, .dsgen z d a b, .dstrunc z d a b, .dssnap z a b]
    (∀ y k, s.kvDeref t.view p t.id.ctx h 2 false none = .error (y, k) → ∀ i ∈ all, RaisesW i s c t y (infoH h 0 0 k)) ∧
    (∀ e, s.kvDeref t.view p t.id.ctx h 2 false none = .ok e → ¬ StreamBound s t h → ∀ i ∈ all, Raises i s c t 0x70) ∧
    (StreamBound s t h →
      (n % 64 ≠ 0 → RaisesW dsin s c t 0x3A (infoSt t.id.cluster n 1)) ∧
      (n % 64 = 0 → t.inStash n 64 = false → RaisesW dsin s c t 0x38 (infoSt t.id.cluster n 1)) ∧
      (n % 64 = 0 → t.inStash n 64 = true → t.sync.stashDone = false → Stands dsin s c t .bank) ∧
      (n % 64 = 0 → t.inStash n 64 = true → t.sync.stashDone = true →
        (ds.queue = [] → Stands dsin s c t .dsin) ∧
        (∀ f r, ds.queue = f :: r → f.late = true → ds.latep = 0 → (∃ e ∈ t.sync.rq, e.done = false) → Stands dsin s c t .late) ∧
        (∀ f r, ds.queue = f :: r →
          let s0 := s.frameTaken p x
          (((s0.part p).stm x).queue = r ∧ ((s0.part p).stm x).dseq = (ds.dseq + 1) % 2 ^ 32) ∧
          (f.late = true → ds.latep = 0 → (∀ e ∈ t.sync.rq, e.done = true) → exec dsin s = .next (s0.raise c t { cause := 0x71, info := lineWords f.bits } (gov t c))) ∧
          (f.late = false ∨ ds.latep ≠ 0 → ∃ s1, GoesLong dsin s s1 c t z d.toNat (BitVec.ofNat 64 (bits f.bits 31 0)) ∧
            { s1 with clusters := s0.clusters, cores := s0.cores } = s0 ∧
            (∀ k, k < 64 → stashGet (s1.cluster t.id.cluster) (n + k) = BitVec.ofNat 8 (f.bits / 256 ^ k)) ∧
            (∀ j y, j ≠ t.id.cluster ∨ y < n ∨ n + 64 ≤ y → stashGet (s1.cluster j) y = stashGet (s0.cluster j) y) ∧
            ∀ y ∈ granules n 64, isFull (s1.cluster t.id.cluster) y = true ∧ stashPois (s1.cluster t.id.cluster) y = false))) ∧
      (2 ^ 25 ≤ n → ∀ i ∈ [Instr.dsgen z d a b, .dstrunc z d a b, .dssnap z a b], exec i s = .next (s.raiseQ c t 0x72 0 n)) ∧
      (n < 2 ^ 25 →
        (0x1FFFFFF < G + n → RaisesW (.dsgen z d a b) s c t 0x6B (infoH h (G + n) 0 6)) ∧
        (G + n ≤ 0x1FFFFFF → LongThen (.dsgen z d a b) s s c t z [(d.toNat, BitVec.ofNat 64 (G + n))] fun q => q.modView t.id.launch x fun v => { v with g := some (G + n) }) ∧
        (G < n → RaisesW (.dstrunc z d a b) s c t 0x6B (infoH h n 0 6)) ∧
        (n ≤ G →
          ((∃ k ∈ liveHandles s p ds, s.mayClaim t ((s.part p).kvEnt (hIdx k)) = false) → LongThen (.dstrunc z d a b) s s c t z (oneOf d 4) id) ∧
          ((∀ k ∈ liveHandles s p ds, s.mayClaim t ((s.part p).kvEnt (hIdx k)) = true) → LongThen (.dstrunc z d a b) s s c t z (oneOf d 0) fun q =>
            ((liveHandles s p ds).foldl (fun q k => q.claim t (hIdx k)) q).modView t.id.launch x fun v =>
              { v with g := some n, gcut := some (match v.gcut with | some y => min y n | none => n) })) ∧
        (ds.snn = 0 → Raises (.dssnap z a b) s c t 0x75) ∧
        (ds.snn ≠ 0 → G < n → RaisesW (.dssnap z a b) s c t 0x6B (infoH h n 0 6)) ∧
        (ds.snn ≠ 0 → n ≤ G → t.sync.earlierDone t.sync.nextEntry = false → Stands (.dssnap z a b) s c t .rel) ∧
        (ds.snn ≠ 0 → n ≤ G → t.sync.earlierDone t.sync.nextEntry = true → s.cardRoom c.team t = false → Stands (.dssnap z a b) s c t .enqRoom) ∧
        (ds.snn ≠ 0 → n ≤ G → t.sync.earlierDone t.sync.nextEntry = true → s.cardRoom c.team t = true →
          ReadFails (.dssnap z a b) s c t .load ds.snbase (s.unitRead (teamAgent c t) ds.snbase (8 * ds.snn)) ∧
          ∀ r p s0, s.unitRead (teamAgent c t) ds.snbase (8 * ds.snn) = .ok (r, p) s0 →
          let t1 := readTeam s0 c
          let tag := ((afterRead s0 c).cluster t1.id.cluster).nextTag % 65536
          let slot := snapSlot (wordsOf r) n
          (p = true → exec (.dssnap z a b) s = .next ((afterRead s0 c).raise c t1 { cause := 0x88, info := (afterRead s0 c).infoP { kind := .load, va := ds.snbase, esz := 1 } 0 0 } (gov t1 c))) ∧
          (p = false → Goes (.dssnap z a b) s ((afterRead s0 c).modCluster t1.id.cluster fun q => { q with
              nextTag := q.nextTag + 1, open_ := q.open_ ++ [tag]
              cards := q.cards ++ [{ tag := tag, kind := 0, bits := 0, team := c.team, launch := t1.id.launch, part := t1.id.part, ctx := t1.id.ctx, fmt := t1.regs.fmt,
                                     entry := t1.sync.nextEntry, work := [ds.stbase, ds.snbase + 512 + slot * ds.stlen, ds.stlen / 64, ds.snbase + 8 * slot, 2 ^ 63 + n] }] })
            c { t1 with sync := { t1.sync with park := if ds.stlen = 0 then t1.sync.park else .snap tag } } z c.next)))) ∧
    (∀ y k, s.kvDeref t.view p t.id.ctx h 2 true none = .error (y, k) → RaisesW (.dsplay z a b) s c t y (infoH h 0 0 k)) ∧
    (∀ e, s.kvDeref t.view p t.id.ctx h 2 true none = .ok e →
      ReadFails (.dsplay z a b) s c t .store ds.cwin (s.unitWrite (teamAgent c t) (some t.id.core) ds.cwin (leBytes 4 (n % 2 ^ 32))) ∧
      ∀ time s0, s.unitWrite (teamAgent c t) (some t.id.core) ds.cwin (leBytes 4 (n % 2 ^ 32)) = .ok time s0 →
      let s1 := ((afterRead s0 c).addCompl c.team (readTeam s0 c).sync.nextEntry ds.cwin (some time)).2
      Goes (.dsplay z a b) s s1 c (s1.team c.team) z c.next)

/-- O39. Inside a transaction launch raises 0xA2; outside one it stalls for a release at device scope; then it gives status 3 in a landed team, 2 for a bad address or stream, 1 on a full
stream, else queues the header and gives 0. launch.wait raises 0xA2 inside a transaction (the model's reading of R597,
log 253); outside one it gives the version or refusal of the latest launch of that identifier, or that there is none, and stalls while it is pending. -/
def Obligations.LaunchForms : Prop :=
  ∀ (s : State) (c : Cur) (t : Team) (z : BitVec 1) (d a b : BitVec 6), Performs s c t →
    let adr := (rdS t c a.toNat).toNat
    let i := Instr.launch z d a b
    (InTransaction t → Raises i s c t 0xA2) ∧
    (¬ InTransaction t → DeviceRelease i s c t fun s2 t2 =>
      let adr := (rdS t2 c a.toNat).toNat
      let q := (rdS t2 c b.toNat).toNat
      let bad := 15 < q ∨ adr % 256 ≠ 0 ∨ 2 ^ 57 ≤ adr
      let n := ((s2.ctx t2.id.ctx).stream q).pend.length
      (t2.id.landed = true → LongThen i s s2 c t2 z (oneOf d 3) id) ∧
      (t2.id.landed = false → bad → LongThen i s s2 c t2 z (oneOf d 2) id) ∧
      (t2.id.landed = false → ¬ bad → 64 ≤ n → LongThen i s s2 c t2 z (oneOf d 1) id) ∧
      (t2.id.landed = false → ¬ bad → n < 64 → LongThen i s s2 c t2 z (oneOf d 0) fun y => y.enqueue t2.id.ctx q (rdS t2 c a.toNat) (some t2.id.launch))) ∧
    (∀ (y : State) (x : Nat) (w : Word) (l : Option Nat), ∃ p : Pend, p.addr = w ∧ p.issuer = l ∧ p.at_ = y.now ∧ p.dead = none ∧
      ((y.enqueue t.id.ctx x w l).ctx t.id.ctx).stream x = { (y.ctx t.id.ctx).stream x with pend := ((y.ctx t.id.ctx).stream x).pend ++ [p] }) ∧
    (let w := Instr.launchWait z d a
     let none_ : Word := 0x4000000000000000
     (InTransaction t → Raises w s c t 0xA2) ∧
     (¬ InTransaction t →
     (t.id.landed = true ∨ s.waitTarget t.id.ctx (adr % 2 ^ 24) = none → LongThen w s s c t z [(d.toNat, none_)] id) ∧
     (t.id.landed = false → s.waitTarget t.id.ctx (adr % 2 ^ 24) = some none → Stands w s c t (.launchWait 0)) ∧
     (∀ pid, t.id.landed = false → s.waitTarget t.id.ctx (adr % 2 ^ 24) = some (some pid) →
       let pending := ∃ k x, (k, x) ∈ (s.ctx t.id.ctx).streams ∧ ∃ p ∈ x.pend, p.id = pid
       (pending → Stands w s c t (.launchWait (pid + 1))) ∧
       (¬ pending →
         (∀ l, s.launches.find? (fun l => l.2.head.ctx = t.id.ctx && l.2.head.pid = pid) = some l → LongThen w s s c t z (oneOf d l.2.head.ver) id) ∧
         (s.launches.find? (fun l => l.2.head.ctx = t.id.ctx && l.2.head.pid = pid) = none →
           (∀ r, (s.ctx t.id.ctx).retired.find? (fun r => r.pid = pid) = some r →
             LongThen w s s c t z (oneOf d (if r.refused = true then 2 ^ 63 + r.cause * 256 else r.ver)) id) ∧
           ((s.ctx t.id.ctx).retired.find? (fun r => r.pid = pid) = none → LongThen w s s c t z [(d.toNat, none_)] id))))))

/-- O40. role raises 0xA9 for a missing stage or in a landed team and 0xAA for a team that may not be exchanged, gives 1
without rows, and else exchanges: the stage's allotment, priority and entry, vector registers below k kept and the others
zero, the rest as before, and 0. role.ask does so with a posting, which it takes, and gives 1; without one it gives 0. -/
def Obligations.RoleForms : Prop :=
  ∀ (s : State) (c : Cur) (t : Team) (z : BitVec 1) (d a b : BitVec 6), Performs s c t →
    let n := (rdS t c a.toNat).toNat
    let k := (rdS t c b.toNat).toNat
    let i := Instr.role z d a b
    let ask := Instr.roleAsk z d a
    (t.id.landed = true ∨ s.stageOf t n = none → Raises i s c t 0xA9) ∧
    (∀ g, t.id.landed = false → s.stageOf t n = some g →
      (¬ ExchangeOk t g k → Raises i s c t 0xAA) ∧
      (ExchangeOk t g k → s.rowsFor t g = false → LongThen i s s c t z (oneOf d 1) id) ∧
      (ExchangeOk t g k → s.rowsFor t g = true → ∃ t1 s' t', Exchanged t t1 n g k ∧ exec i s = .next s' ∧
        Leaves s s' c t1 z (BitVec.ofNat 64 g.entry) { c.entry with res := [.s d.toNat 0], dest := [(0, d.toNat)] } 1 t')) ∧
    (s.postingFor t = none → LongThen ask s s c t z (oneOf d 0) id) ∧
    (∀ p g, Posted s t p g →
      (p ∈ (s.launch t.id.launch).posts ∧ p.cluster = t.id.cluster ∧ p.b = t.id.stage ∧ s.now < p.at_ + 4096 ∧ s.stageOf t p.a = some g) ∧
      (min t.regs.allot g.vregs < n → Raises ask s c t 0xAA) ∧
      (n ≤ min t.regs.allot g.vregs → ∃ t1 s' t', Exchanged t t1 p.a g n ∧ exec ask s = .next s' ∧
        Leaves (s.modLaunch t.id.launch fun l => { l with posts := l.posts.filter fun q => q ≠ p }) s' c t1 z (BitVec.ofNat 64 g.entry)
          { c.entry with res := [.s d.toNat 1], dest := [(0, d.toNat)] } 1 t'))

/-- O41. With the checks of R662 passed and every stash access performed: qpush with room, its earlier accesses done, copies
n elements behind the last and raises the count, and stalls without room; qpop parks on an empty instance that has no wake
bit, else takes up to n elements from the head, in order, sets their full bits and gives the count, or clears the wake bit
and says so; qtry never parks. signal.q sets the wake bit, and signal.m sends an access that wakes monitors. -/
def Obligations.QueueForms : Prop :=
  ∀ (s : State) (c : Cur) (t : Team) (z : BitVec 1) (d a b : BitVec 6), Performs s c t →
    let adr := (rdS t c a.toNat).toNat
    let n := (rdS t c b.toNat).toNat
    let push := Instr.qpush z a b
    let pop := Instr.qpop z d a b
    let try_ := Instr.qtry z d a b
    (s.stageOf t t.id.stage = none → exec push s = .next (s.raiseQ c t 0xA6 15 n)) ∧
    (∀ g, s.stageOf t t.id.stage = some g → g.outq = 15 → exec push s = .next (s.raiseQ c t 0xA6 15 n)) ∧
    (∀ g, s.stageOf t t.id.stage = some g → g.outq ≠ 15 → NoQueue s t g.outq → exec push s = .next (s.raiseQ c t 0xA6 g.outq n)) ∧
    (NoQueue s t t.id.stage → exec pop s = .next (s.raiseQ c t 0xA6 t.id.stage n) ∧ exec try_ s = .next (s.raiseQ c t 0xA6 t.id.stage n)) ∧
    (∀ own q g, s.stageOf t t.id.stage = some own → own.outq ≠ 15 → QueueAt s t own.outq q g → QueueChecked push s c t q g adr n (
      (g.depth < q.cnt + n → Stands push s c t .qpush) ∧
      (q.cnt + n ≤ g.depth → t.sync.stashDone = false → Stands push s c t .bank) ∧
      (q.cnt + n ≤ g.depth → t.sync.stashDone = true → t.sched.relActive = false →
        (t.sync.earlierDone t.sync.nextEntry = false → Stands push s c t .rel) ∧
        (t.sync.earlierDone t.sync.nextEntry = true → ∃ s1, Goes push s s1 c t z c.next ∧ InstChanged s s1 t q.stage (fun q => { q with cnt := q.cnt + n }) ∧
          let w := g.elsz * 8
          let dst_ := fun j => q.base + (q.head + q.cnt + j) % g.depth * w
          (∀ j x, j ≠ t.id.cluster ∨ (∀ e, e < n → x < dst_ e ∨ dst_ e + w ≤ x) → stashGet (s1.cluster j) x = stashGet (s.cluster j) x) ∧
          ((∀ e, e < n → dst_ e + w ≤ adr ∨ adr + n * w ≤ dst_ e) →
            ∀ e y, e < n → y < w → stashGet (s1.cluster t.id.cluster) (dst_ e + y) = stashGet (s.cluster t.id.cluster) (adr + e * w + y)))))) ∧
    (∀ q g, QueueAt s t t.id.stage q g →
      let w := g.elsz * 8
      let m := min n q.cnt
      let from_ := fun j => q.base + (q.head + j) % g.depth * w
      let takes := fun (i : Instr) (sig : Bool) => ∃ s1, GoesLong i s s1 c t z d.toNat (BitVec.ofNat 64 (m + if sig = true then 2 ^ 63 else 0)) ∧
        InstChanged s s1 t q.stage (fun q => { q with cnt := q.cnt - m, head := (q.head + m) % g.depth, wake := q.wake && !sig }) ∧
        (∀ j x, j ≠ t.id.cluster ∨ x < adr ∨ adr + m * w ≤ x → stashGet (s1.cluster j) x = stashGet (s.cluster j) x) ∧
        ((∀ e, e < m → from_ e + w ≤ adr ∨ adr + m * w ≤ from_ e) →
          ∀ e y, e < m → y < w → stashGet (s1.cluster t.id.cluster) (adr + e * w + y) = stashGet (s.cluster t.id.cluster) (from_ e + y)) ∧
        ∀ x ∈ granules adr (m * w), isFull (s1.cluster t.id.cluster) x = true
      QueueChecked pop s c t q g adr n (
        (t.sync.stashDone = false → Stands pop s c t .bank) ∧
        (t.sync.stashDone = true → q.cnt = 0 → q.wake = false → Stands pop s c t .qpop) ∧
        (t.sync.stashDone = true → q.cnt = 0 → q.wake = true → takes pop true) ∧
        (t.sync.stashDone = true → 0 < q.cnt → takes pop false)) ∧
      QueueChecked try_ s c t q g adr n (
        (t.sync.stashDone = false → Stands try_ s c t .bank) ∧ (t.sync.stashDone = true → takes try_ false))) ∧
    (t.id.landed = true ∨ (s.launch t.id.launch).inst t.id.cluster adr = none → exec (.signalQ z a) s = .next (s.raiseQ c t 0xA8 adr 0)) ∧
    (∀ q, t.id.landed = false → (s.launch t.id.launch).inst t.id.cluster adr = some q →
      ∃ s1, Goes (.signalQ z a) s s1 c t z c.next ∧ InstChanged s s1 t adr (fun q => { q with wake := true }) ∧ s1.clusters = s.clusters) ∧
    (t.id.landed = true → exec (.signalM z a) s = .next (s.raiseQ c t 0xA8 adr 0)) ∧
    (t.id.landed = false →
      let e : Acc := { kind := .sig, va := adr, esz := 8, nowatch := t.sched.skipBp || t.sync.inHandler }
      ∃ s1 t', exec (.signalM z a) s = .next (s1.checkAll c.team t.sync.nextEntry [e]) ∧
        Leaves s s1 c t z c.next { c.entry with accs := [e], res := [], dest := [], stage := 1, gov := maskOf [e.lane], done := false } 1 t')

/-- O42. mig and mig.trap set the live-set index of 8 bits and the fallback, and raise 0x5E for a larger value. mret raises
0x5D when a lane has never migrated; else each governed lane leaves with its captured registers, away from its own team or
exited from a landed one, which retires with its last lane. mjoin makes returned lanes present, or parks while a lane is
away. mstat gives the counts, the last refusal and the settings. -/
def Obligations.MigrationForms : Prop :=
  ∀ (s : State) (c : Cur) (t : Team) (z : BitVec 1) (d a : BitVec 6), Performs s c t →
    let v := (rdS t c a.toNat).toNat
    let g := gov t c
    let ls := governed t c
    let gone : Team := { t with sync := { t.sync with leaving := t.sync.leaving ++ ls.map (returning s t) } }
    (v < 256 →
      Becomes (.mig z a) s c { t with sync := { t.sync with lset := v, migTrap := false } } z ∧
      Becomes (.migTrap z a) s c { t with sync := { t.sync with lset := v, migTrap := true } } z) ∧
    (256 ≤ v → Raises (.mig z a) s c t 0x5E ∧ Raises (.migTrap z a) s c t 0x5E) ∧
    ((∃ l ∈ ls, t.hopOf l = 0) → Raises (.mret z) s c t 0x5D) ∧
    ((∀ l ∈ ls, t.hopOf l ≠ 0) →
      (t.id.landed = false → Goes (.mret z) s (s.modLaunch t.id.launch fun l => { l with conts := l.conts + ls.length }) c
        { gone with flow := { t.flow with pres := t.flow.pres &&& ~~~g, away := t.flow.away ||| g } } z c.next) ∧
      (t.id.landed = true →
        let t1 : Team := { gone with flow := { t.flow with pres := t.flow.pres &&& ~~~g, exited := t.flow.exited ||| g } }
        (t.flow.pres &&& ~~~g ≠ 0 → Becomes (.mret z) s c t1 z) ∧
        (t.flow.pres &&& ~~~g = 0 → Becomes (.mret z) s c { t1 with sync := { t1.sync with park := .retire } } 0))) ∧
    (t.flow.away = 0 → Becomes (.mjoin z) s c { t with flow := { t.flow with pres := t.flow.pres ||| t.flow.ret, ret := 0 } } z) ∧
    (t.flow.away ≠ 0 → Stands (.mjoin z) s c t .join) ∧
    LongS (.mstat z d) s c t z d.toNat (BitVec.ofNat 64 (lanesIn t.flow.away + lanesIn t.flow.ret * 2 ^ 16 + t.sync.lastRefusal * 2 ^ 32 + t.sync.lset * 2 ^ 40 +
      if t.sync.migTrap = true then 2 ^ 48 else 0))

/-- O43. Device reset loses every state but the fitting, the bifurcation, what stands at the ports and the freeze pin's level;
boot stages complete in order, one with an image only if its signature verifies under a fused key and its version is not
below the fused minimum, and a failure stops the boot with status 4. The freeze pin and register ask for a freeze, the pin's
request of the same tick going first; the freeze stops the device and brings the links down; the dump sends one word of the
image, zero before. A quarter without an owner is gated and ungates 10,500 ticks later, empty, joining the partition whose
configuration waits for it; performance states, throttling and partition calendars take effect at frame boundaries, a change
of the enable count being told to every partition. A command that comes while one runs changes nothing. -/
def Obligations.DeviceEvents : Prop :=
  ∀ (s : State), let a := s.arg
    (∃ s', Does .deviceReset s s' ∧ s'.fitting = s.fitting ∧ s'.inputs = s.inputs ∧ s'.mil.bifNow = s.mil.bifNext ∧ s'.mil.booted = false ∧ s'.mil.stages = 0 ∧ s'.freeze.at_ = none ∧
      { s' with fitting := State.reset.fitting, inputs := [], outbox := [], draws := 0, fresh := 1, mil := {}, power := {}, freeze := {} } = State.reset) ∧
    (a.n0 = s.mil.stages → a.n0 < 5 → s.mil.bootFail = false →
      let verified := stageDigest a.n0 a.bytes (a.ns.getD 0 0) (a.ns.getD 1 0) (a.ns.getD 2 0)
      (verified = if a.n0 = 0 ∨ 4 ≤ a.n0 then some (Config.bootDigest a.n0)
        else if Config.sha256 (a.ns.getD 1 0) 384 = Config.keyFuse ∧ Config.sigOk (a.ns.getD 1 0) (Config.sha256 (leNat a.bytes) a.bytes.length) (a.ns.getD 0 0) = true ∧
            Config.minVersion a.n0 ≤ a.ns.getD 2 0 then some (Config.sha256 (leNat a.bytes) a.bytes.length) else none) ∧
      (∀ x, verified = some x → ∃ s' m, Does .bootStageComplete s s' ∧ m = Config.sha256 (x.toNat * 2 ^ 256) 64 ∧ s'.mil.meas = s.mil.meas ++ [m] ∧ s'.mil.stages = s.mil.stages + 1 ∧ s'.mil.bootFail = false ∧
        s'.mil.booted = (s.mil.booted || decide (a.n0 = 1))) ∧
      (verified = none → Does .bootStageComplete s { s with mil := { s.mil with bootFail := true, status := 4, log := s.mil.log ++ [.bootFail a.n0] } })) ∧
    (a.n0 ≠ s.mil.stages ∨ 5 ≤ a.n0 ∨ s.mil.bootFail = true → Does .bootStageComplete s s) ∧
    (a.flag = true → ∃ s' q, Does .freezeNPin s s' ∧ { s' with freeze := s.freeze } = s ∧ s'.freeze.pin = true ∧ s'.freeze.req = some q ∧
      (s.freeze.req = none → q = (0, s.now)) ∧ (∀ r, s.freeze.req = some r → q = if r.2 = s.now then (0, s.now) else r)) ∧
    (a.flag = false → ∃ s', Does .freezeNPin s s' ∧ { s' with freeze := s.freeze } = s ∧ s'.freeze.pin = false ∧
      (s.mil.up = true → s'.freeze.req = s.freeze.req) ∧ ((∀ t, s.freeze.req ≠ some (0, t)) → s'.freeze.req = s.freeze.req) ∧
      (s.mil.up = false → ∀ t, s.freeze.req = some (0, t) → s'.freeze.req = s.freeze.ctl.map fun u => (1, u))) ∧
    (a.v.extractLsb' 16 16 = 0x5A17 → a.v.getLsbD 0 = true →
      (s.freeze.req = none → Does .frzCtlWrite s { s with freeze := { s.freeze with req := some (1, s.now) } }) ∧
      (∀ t, s.freeze.req = some (0, t) → Does .frzCtlWrite s { s with freeze := { s.freeze with ctl := some (s.freeze.ctl.getD s.now) } }) ∧
      (∀ q, s.freeze.req = some q → q.1 ≠ 0 → Does .frzCtlWrite s s)) ∧
    (a.v.extractLsb' 16 16 ≠ 0x5A17 ∨ a.v.getLsbD 0 = false → Does .frzCtlWrite s s) ∧
    (∀ q, s.freeze.req = some q → s.mil.up = true → s.freeze.at_ = none → ∃ s', Does .freeze s s' ∧ s'.freeze.at_ = some (s.now, q.1) ∧
      (∀ k x, Tbl.get? s'.ports.links k = some x → x.up = false ∧ x.ide = false) ∧ s'.mem = s.mem ∧ s'.teams = s.teams ∧ s'.launches = s.launches ∧ s'.now = s.now) ∧
    (s.freeze.req = none ∨ s.mil.up = false ∨ s.freeze.at_ ≠ none → Does .freeze s s) ∧
    (s.freeze.at_ ≠ none → Does .frzDump s { s with freeze := { s.freeze with shifted := s.freeze.shifted + 1 }, outbox := s.outbox ++ [.dump (s.imageWord s.freeze.shifted)] }) ∧
    (s.freeze.at_ = none → Does .frzDump s { s with outbox := s.outbox ++ [.dump 0] }) ∧
    TurnedAway .qGate s ∧ TurnedAway .pstate s ∧
    (Idle s →
      (s.fitting = .w9l → Answers .qGate s 6 s) ∧
      (s.fitting = .w9h → 384 ≤ a.n0 → Answers .qGate s 2 s) ∧
      (s.fitting = .w9h → a.n0 < 384 →
        (a.flag = true → s.quarterOwned a.n0 = true → Answers .qGate s 3 s) ∧
        (a.flag = true → s.quarterOwned a.n0 = false → ∃ g, Answers .qGate s 0 { s with power := { s.power with gated := g } } ∧ ∀ q, q ∈ g ↔ q = a.n0 ∨ q ∈ s.power.gated) ∧
        (a.flag = false → a.n0 ∈ s.power.gated → Runs .qGate 0x0E { s with power := { s.power with ungating := Tbl.put s.power.ungating a.n0 (s.now + 10500) } } s) ∧
        (a.flag = false → a.n0 ∉ s.power.gated → Answers .qGate s 0 s)) ∧
      (2 < a.n0 → Answers .pstate s 2 s) ∧
      (a.n0 = s.power.pstate → a.n0 ≤ 2 → Answers .pstate s 0 { s with power := { s.power with nextP := none, ramp := none } }) ∧
      (a.n0 < s.power.pstate → a.n0 ≤ 2 → Answers .pstate s 0 { s with power := { s.power with nextP := some a.n0, ramp := none } }) ∧
      (s.power.pstate < a.n0 → a.n0 ≤ 2 → Answers .pstate s 0 { s with power := { s.power with nextP := none, ramp := some (a.n0, s.now + 21000 * (a.n0 - s.power.pstate)) } })) ∧
    (∀ t, Tbl.get? s.power.ungating a.n0 = some t → s.now < t → Does .quarterUngateDone s s) ∧
    (∀ t, Tbl.get? s.power.ungating a.n0 = some t → t ≤ s.now → ∃ s', Does .quarterUngateDone s s' ∧ a.n0 ∉ s'.power.gated ∧
      Tbl.get? s'.power.ungating a.n0 = none ∧ (∀ x, a.n0 % 4 * 2 ^ 19 ≤ x → x < a.n0 % 4 * 2 ^ 19 + 2 ^ 19 → stashGet (s'.cluster (a.n0 / 4)) x = 0) ∧
      (∀ j x, j ≠ a.n0 / 4 ∨ x < a.n0 % 4 * 2 ^ 19 ∨ a.n0 % 4 * 2 ^ 19 + 2 ^ 19 ≤ x → stashGet (s'.cluster j) x = stashGet (s.cluster j) x) ∧ s'.mem = s.mem ∧ s'.teams = s.teams ∧
      (s.mil.waitPart = none → s'.parts = s.parts) ∧
      (∀ p P, s.mil.waitPart = some p → s.mil.op = 0x01 → Tbl.get? s.parts p = some P →
        s'.part p = { P with cfg := { P.cfg with quart := P.cfg.quart ||| (1#384 <<< a.n0) } })) ∧
    (∀ r, s.power.ramp = some r → r.2 ≤ s.now → Does .vddCoreRampDone s { s with power := { s.power with ramp := none, nextP := some r.1 } }) ∧
    (1 ≤ a.n0 → a.n0 ≤ 3 → a.n1 = 1 ∨ a.n1 = 2 → Does .thermalThrottle s { s with power := { s.power with nextT := some (a.n0, a.n1) } }) ∧
    Does .throttleRelease s { s with power := { s.power with nextT := some (4, s.power.tcause) } } ∧
    (s.now % 1024 = 0 → s.frameDue = true → ∃ s', Does .frameBoundary s s' ∧ s'.power.nextP = none ∧ s'.power.nextT = none ∧
      s'.power.pstate = s.power.nextP.getD s.power.pstate ∧ s'.power.throttle = (s.power.nextT.getD (s.power.throttle, s.power.tcause)).1 ∧
      s'.power.enable = min (if s'.power.pstate = 2 then 4 else if s'.power.pstate = 1 then 3 else 1) s'.power.throttle ∧ s'.teams = s.teams ∧ s'.now = s.now ∧
      (∀ p P, Tbl.get? s.parts p = some P → (s'.part p).next = none ∧
        (∀ n, P.next = some n → (s'.part p).cfg = { P.cfg with cal := n.1, slice := n.2 }) ∧ (P.next = none → (s'.part p).cfg = P.cfg)) ∧
      (s'.power.enable ≠ s.power.enable → ∃ s1 : State, s1.power = s'.power ∧ s1.parts.map Prod.fst = s.parts.map Prod.fst ∧
        s' = (s.parts.map Prod.fst).foldl (fun s p => s.postTrace p wideRec 4 (BitVec.ofNat 128
          (s'.power.enable + (if s.power.nextT ≠ none ∧ s'.power.throttle ≠ s.power.throttle then s'.power.tcause else 0) * 256)) false) s1)) ∧
    (s.frameDue = true ↔ s.now % 1024 = 0 ∧ (s.power.nextP ≠ none ∨ s.power.nextT ≠ none ∨ ∃ p ∈ s.parts, p.2.next ≠ none)) ∧
    (s.now % 1024 ≠ 0 → Does .frameBoundary s s)

/-- O44. A link that exists and is down comes up at 64, 32 or 16 GT/s under a protocol that its port presents, without IDE;
another rate is logged and leaves it down, as does a protocol or flit mode that the port does not take. Key programming
establishes the IDE stream of a link that is up and behind no hierarchy-routing switch, and what waited for it leaves. A link
that is up goes down, at its integrity failure with the IDE error sent and the stream insecure. With no launches, waiting
messages and foreign versions, a W9H then marks the decoder entries of the W9Ls behind it lost, as for a removed W9L and at
the third late unordered-I/O request to one in a row (a request that is not late counts for nothing); a W9L makes the dies
behind it, a removed die, and one that leaves a message unanswered unreachable, and discards their unlocked versions after 10
ms. A flit whose tag fails is noted, and at the failure of its retransmission its stack is offline. A viral indication makes
the partitions behind its link viral 64 ticks later; viral mode in effect aborts their launches with 0x89, every context
showing cause and time. An error poisons a local memory line; makes the owner of a home entry viral with cause 1, or all with
7 when it is the system's; aborts an uncommitted launch of a shadow entry with 0x53 or makes the partition of a scheduled one
viral with 2; makes a partition viral with 3 at a lost poison indication, and every partition with 7, CXL viral raised, in
system state; comes to a team as 0x8C, 0x3D or 0x0A; is fatal to a context with 0x8D; and marks or counts at a card or an
accumulator row. A way with bad parity aborts the launches of its partitions with 0x8B and is invalid. Where a condition does
not hold, nothing changes. -/
def Obligations.LinkEvents : Prop :=
  ∀ (s : State), let a := s.arg
    let l := linkNo a.n0 a.n1
    let proto : Proto := if a.n3 = 0 then .pcie else .cxl
    let down (insecure : Bool) (s' : State) := s'.link l = { s.link l with up := false, ide := false, insecure := insecure }
    (s.hasLink a.n0 a.n1 = true → (s.link l).up = false → a.flag = false → (portKind s.fitting a.n0 proto).isSome = true →
      (a.n2 = 64 ∨ a.n2 = 32 ∨ a.n2 = 16 → ∃ s', Does .linkTraining s s' ∧
        s'.link l = { up := true, proto := some proto, hbr := decide (a.opt.isSome = true ∧ a.n0 ≠ 0), gts := a.n2, ide := false, insecure := false } ∧
        (∀ j, j ≠ l → s'.link j = s.link j) ∧ { s' with ports := { s'.ports with links := s.ports.links } } = s) ∧
      (¬ (a.n2 = 64 ∨ a.n2 = 32 ∨ a.n2 = 16) → Does .linkTraining s { s with mil := { s.mil with log := s.mil.log ++ [.trainFail l] } })) ∧
    (s.hasLink a.n0 a.n1 = false ∨ (s.link l).up = true ∨ a.flag = true ∨ portKind s.fitting a.n0 proto = none → Does .linkTraining s s) ∧
    ((s.link l).up = true → (s.link l).hbr = false → ∃ s1 : State, Does .ideKmKeyProgramming s s1.sendHeld ∧
      s1.link l = { s.link l with ide := true, insecure := false } ∧ (∀ j, j ≠ l → s1.link j = s.link j) ∧ { s1 with ports := { s1.ports with links := s.ports.links } } = s ∧
      ((∀ r ∈ s.xlat.reqs, r.msg = none) → (∀ r ∈ s.xlat.pris, r.sent = true) → s1.sendHeld = s1)) ∧
    ((s.link l).up = false ∨ (s.link l).hbr = true → Does .ideKmKeyProgramming s s) ∧
    ((s.link l).up = true → (∀ e ∈ s.ports.pool, e.2.link ≠ l) → (∀ p ∈ s.ports.peers, p.2 ≠ l) →
      ∃ s', Does .linkDown s s' ∧ down (s.link l).insecure s' ∧ (∀ j, j ≠ l → s'.link j = s.link j) ∧ { s' with ports := { s'.ports with links := s.ports.links } } = s) ∧
    ((s.link l).up = true → s.fitting = .w9h → Quiet s → ∃ s', Does .linkDown s s' ∧ down (s.link l).insecure s' ∧
      ∀ k e, Tbl.get? s.ports.pool k = some e → e.link = l → ∃ e', Tbl.get? s'.ports.pool k = some e' ∧ e'.lost = true) ∧
    ((s.link l).up = true → s.fitting = .w9l → Quiet s → ∃ s', Does .linkDown s s' ∧ down (s.link l).insecure s' ∧
      ∀ d, (d, l) ∈ s.ports.peers → (Tbl.get? s.ports.unreach d).isNone = true → Tbl.get? s'.ports.unreach d = some s.now) ∧
    ((s.link l).up = false → Does .linkDown s s) ∧
    ((s.link l).ide = true → (s.link l).up = true → (∀ e ∈ s.ports.pool, e.2.link ≠ l) → (∀ p ∈ s.ports.peers, p.2 ≠ l) →
      ∃ s', Does .ideIntegrityFailure s s' ∧ down true s' ∧ (∀ j, j ≠ l → s'.link j = s.link j) ∧
        { s' with ports := { s'.ports with links := s.ports.links }, outbox := s.outbox } = s ∧ s'.outbox = s.outbox ++ [.ideError l]) ∧
    ((s.link l).ide = true → (s.link l).up = true → s.fitting = .w9h → Quiet s → ∃ s', Does .ideIntegrityFailure s s' ∧ down true s' ∧
      ∀ k e, Tbl.get? s.ports.pool k = some e → e.link = l → ∃ e', Tbl.get? s'.ports.pool k = some e' ∧ e'.lost = true) ∧
    ((s.link l).ide = false → Does .ideIntegrityFailure s s) ∧
    (s.fitting = .w9h → Quiet s → ∃ s', Does .surpriseRemoval s s' ∧
      ∀ k e, Tbl.get? s.ports.pool k = some e → e.pbr = a.n0 → ∃ e', Tbl.get? s'.ports.pool k = some e' ∧ e'.lost = true) ∧
    (s.fitting = .w9l → Quiet s → Tbl.get? s.ports.unreach a.n0 = none → ∃ s', Does .surpriseRemoval s s' ∧ Tbl.get? s'.ports.unreach a.n0 = some s.now) ∧
    (s.uioLate a.n0 a.n1 = true →
      (Tbl.getD s.mil.timeouts a.n0 0 + 1 < 3 → ∃ s', Does .uioRequestTimeout s s' ∧ Tbl.get? s'.mil.timeouts a.n0 = some (Tbl.getD s.mil.timeouts a.n0 0 + 1) ∧
        s'.ports.pool = s.ports.pool ∧ s'.ports.unreach = s.ports.unreach ∧ s'.mem = s.mem ∧ s'.teams = s.teams ∧ s'.launches = s.launches) ∧
      (2 ≤ Tbl.getD s.mil.timeouts a.n0 0 → ∃ s1 : State, Does .uioRequestTimeout s (s1.loseAgent a.n0) ∧ Tbl.get? s1.mil.timeouts a.n0 = none ∧
        s1.ports.pool = s.ports.pool ∧ s1.mem = s.mem ∧ s1.teams = s.teams ∧ s1.launches = s.launches)) ∧
    (s.uioLate a.n0 a.n1 = false → Does .uioRequestTimeout s s) ∧
    (s.fitting = .w9l → a.flag = true ∨ s.unanswered a.n0 = true → ∃ s', Does .dieUnreachableTimeout s s' ∧
      Tbl.get? s'.ports.unreach a.n0 = some (Tbl.getD s.ports.unreach a.n0 s.now) ∧ (∀ d, d ≠ a.n0 → Tbl.get? s'.ports.unreach d = Tbl.get? s.ports.unreach d) ∧
      { s' with ports := { s'.ports with unreach := s.ports.unreach } } = s) ∧
    (s.fitting = .w9h ∨ a.flag = false ∧ s.unanswered a.n0 = false → Does .dieUnreachableTimeout s s) ∧
    ((∀ t, Tbl.get? s.ports.unreach a.n0 = some t → s.now < t + 10 * msTicks) ∨ (∀ f ∈ s.ports.foreign, f.die = a.n0 → f.locked = true) → Does .shadowDiscardTimeout s s) ∧
    (∀ t, Tbl.get? s.ports.unreach a.n0 = some t → t + 10 * msTicks ≤ s.now → ∃ s', Does .shadowDiscardTimeout s s' ∧
      ∀ f ∈ s'.ports.foreign, f.die = a.n0 → f.locked = true) ∧
    (s.fitting = .w9h → a.n0 < 8 →
      (a.flag = false ∨ a.n0 ∉ s.mil.flitFail → ∃ s', Does .flitTagFailure s s' ∧ a.n0 ∈ s'.mil.flitFail ∧ s'.mil.offline = s.mil.offline) ∧
      (a.flag = true → a.n0 ∈ s.mil.flitFail → Quiet s → ∃ s', Does .flitTagFailure s s' ∧ a.n0 ∈ s'.mil.offline ∧ a.n0 ∉ s'.mil.flitFail)) ∧
    (s.fitting = .w9l ∨ 8 ≤ a.n0 → Does .flitTagFailure s s) ∧
    (∃ s', Does .viralIndicationReceived s s' ∧ (∀ p ∈ s.viralBehind l, ∀ P, Tbl.get? s.parts p = some P →
        (s'.part p).viral = some (detected s P 4)) ∧ (∀ p, p ∉ s.viralBehind l → s'.part p = s.part p) ∧ { s' with parts := s.parts } = s) ∧
    (∀ P v, Tbl.get? s.parts a.n0 = some P → P.viral = some v → v.active = false → v.tv ≤ s.now →
      let ls := (s.launches.filter fun x => x.2.head.part = a.n0).map Prod.fst
      let s1 := ls.foldl (fun s lk => s.abortLaunch lk 0x89 1) (s.modPart a.n0 fun P => { P with viral := some { v with active := true } })
      (∃ s', Does .viralTakesEffect s s' ∧ s'.launches = s1.launches ∧ s'.teams = s1.teams) ∧
      (s.launches = [] → ∃ s', Does .viralTakesEffect s s' ∧ (s'.part a.n0).viral = some { v with active := true } ∧
        ∀ c x, Tbl.get? s.ctxs c = some x → x.part = some a.n0 → (s'.ctx c).viral = true ∧ (s'.ctx c).vcause = v.cause ∧ (s'.ctx c).vtime = v.tv)) ∧
    ((∀ P v, Tbl.get? s.parts a.n0 = some P → P.viral = some v → v.active = true ∨ s.now < v.tv) → Does .viralTakesEffect s s) ∧
    (∀ pa, a.site = .memLine pa → s.isLocal pa = true → Does .uncorrectableError s { s with poison := Tbl.put s.poison (lineNo pa) true }) ∧
    (∀ pa p P, a.site = .homeEntry pa → s.ownerOf pa = some p → Tbl.get? s.parts p = some P → ∃ s', Does .uncorrectableError s s' ∧
      (s'.part p).viral = some (detected s P 1)) ∧
    (∀ pa, a.site = .homeEntry pa → s.ownerOf pa = none → s.granuleOwner (pa / 2 ^ 21) = 0x40 → ∃ s', Does .uncorrectableError s s' ∧
      (∀ p P, Tbl.get? s.parts p = some P → (s'.part p).viral = some (detected s P 7)) ∧ ∀ k x, (k, x) ∈ s.ports.links → x.up = true → Msg.cxlViral k ∈ s'.outbox) ∧
    (∀ p P, a.site = .lostPoison p → Tbl.get? s.parts p = some P → ∃ s', Does .uncorrectableError s s' ∧
      (s'.part p).viral = some (detected s P 3) ∧ (∀ q, q ≠ p → s'.part q = s.part q) ∧ { s' with parts := s.parts } = s) ∧
    (a.site = .systemState → ∃ s', Does .uncorrectableError s s' ∧ (∀ p P, Tbl.get? s.parts p = some P → (s'.part p).viral = some (detected s P 7)) ∧
      (∀ k x, (k, x) ∈ s.ports.links → x.up = true → Msg.cxlViral k ∈ s'.outbox)) ∧
    (∀ k t, Tbl.get? s.teams k = some t →
      (a.site = .regFile k → Does .uncorrectableError s (s.deliver k { tpc := t.flow.pc, cause := 0x8C, cls := causeClass 0x8C, info := [] })) ∧
      (∀ off, a.site = .stashBank k off → Does .uncorrectableError s
        (s.deliver k { tpc := t.flow.pc, cause := 0x3D, cls := causeClass 0x3D, info := infoS (4 * t.id.cluster + off / 2 ^ 19 % 4) (off % 2 ^ 19) 1 })) ∧
      (a.site = .imageFetch k → Does .uncorrectableError s (s.deliver k { tpc := t.flow.pc, cause := 0x0A, cls := causeClass 0x0A, info := [] }))) ∧
    (∀ c x, a.site = .saveArea c → Tbl.get? s.ctxs c = some x → Does .uncorrectableError s (s.ctxFatal c 0x8D)) ∧
    (∀ cl tag corr, a.site = .engineCell cl tag corr → Does .uncorrectableError s
      (s.modCard cl tag fun k => if corr = true then { k with cecc := k.cecc + 1 } else { k with uecc := true })) ∧
    (∀ cl tile r n x, a.site = .accWord cl tile r n → Tbl.get? (s.cluster cl).tiles tile = some x → ∃ s' y, Does .uncorrectableError s s' ∧ Tbl.get? (s'.cluster cl).tiles tile = some y ∧
      256 * r + n ∈ y.bad ∧ (∀ b, b ∈ y.bad ↔ b = 256 * r + n ∨ b ∈ x.bad) ∧ s'.mem = s.mem) ∧
    (∀ lk x, (a.site = .shadowEntry lk → Tbl.get? s.launches lk = some x → (x.st = .waiting ∨ x.st = .started → Does .uncorrectableError s (s.abortLaunch lk 0x53 1)) ∧
      (x.st = .done → Does .uncorrectableError s s) ∧
      (∀ P, Tbl.get? s.parts x.head.part = some P → x.st ≠ .waiting → x.st ≠ .started → x.st ≠ .done → ∃ s', Does .uncorrectableError s s' ∧
        (s'.part x.head.part).viral = some (detected s P 2) ∧ { s' with parts := s.parts } = s))) ∧
    (∀ d p v, a.site = .foreignEntry d p v → s.holdsOf d p v = true →
      ((s.foreignOf d p v).locked = false → Does .uncorrectableError s ((s.endVersion d p v).emit (.landedCause d p v 0x53))) ∧
      ((s.foreignOf d p v).locked = true → Does .uncorrectableError s (s.viralDetect (s.foreignOf d p v).own 2))) ∧
    (∀ x, Tbl.get? s.launches a.n0 = some x →
      (x.st = .done → Does .shadowEntryLost s s) ∧
      (x.st = .waiting ∨ x.st = .started → Does .shadowEntryLost s (s.abortLaunch a.n0 0x53 1)) ∧
      (∀ P, Tbl.get? s.parts x.head.part = some P → x.st ≠ .waiting → x.st ≠ .started → x.st ≠ .done → ∃ s', Does .shadowEntryLost s s' ∧
        (s'.part x.head.part).viral = some (detected s P 2) ∧ { s' with parts := s.parts } = s)) ∧
    (let ps := s.wayOwners a.n2
      let lks := (s.launches.filter fun x => decide (x.2.head.part ∈ ps)).map Prod.fst
      ∃ s', Does .homeSliceTagParity s s' ∧ s'.launches = (lks.foldl (fun (s : State) lk => s.abortLaunch lk 0x8B 1) { s with draws := s.draws + 1 }).launches ∧
        (s.launches = [] → s'.draws = s.draws + 1 ∧ s'.mem = s.mem ∧
          ∀ v, v ∈ (s.cluster a.n0).lines → Machine.setOf v.1 = a.n1 → v.2.way = a.n2 → Tbl.get? (s'.cluster a.n0).lines v.1 = none))

/-- O45. Each of these commands is turned away while another runs or before the boot is over. part_cfg writes the record of
256 bytes at its address in the die's memory: at once, or with the calendar and slice left for the next frame when the
partition has teams; it answers 2 for a partition that does not exist or a record that R102 refuses, 3 with a locked TDI or
for a change that R103 holds back, and it goes on running while quarters that it takes away have teams on them. part_free
removes a partition without contexts, uncommitted launches and memory, and answers 3 for any other. ways_shr sets the shared
ways; it answers 2 for a way that leaves the mask from two partitions, and 3 for a way of a partition with an uncommitted
launch. ctx_assign gives an unassigned or freshly reset context to a partition, with its save area and the partition's viral
mode; it answers 2, 3 and 5 as the rules say. ctx_unasg and a VF reset begin a context's reset and part_reset a
partition's, and each kills the uncommitted launches; viral_set makes a partition viral with cause 6, and viral_clr ends
viral mode in effect, answering 3 before it is. -/
def Obligations.PartitionCommands : Prop :=
  ∀ (s : State), let a := s.arg
    let p := a.n0
    let n := leNat (memBytes s.mem a.n1 256)
    let r := partRec n
    let m : BitVec 16 := BitVec.ofNat 16 a.v.toNat
    let P0 : Part := (Tbl.get? s.parts p).getD { verNext := Tbl.getD s.mil.vers p 0 }
    let goes := quarters ((s.part p).cfg.quart &&& ~~~r.quart)
    let cfg1 : PartCfg := if s.hasTeams p = true then { r with cal := (s.part p).cfg.cal, slice := (s.part p).cfg.slice } else r
    let next1 := if s.hasTeams p = true then some (r.cal, r.slice) else none
    (∀ i ∈ [Instr.partCfg, .partFree, .waysShr, .ctxAssign, .ctxUnasg, .partReset, .viralSet, .viralClr], TurnedAway i s) ∧
    (Idle s →
      (64 ≤ p → Answers .partCfg s 2 s) ∧
      (p < 64 → s.tdiHeld p = true → Answers .partCfg s 3 s) ∧
      (p < 64 → s.tdiHeld p = false → s.localTop < a.n1 + 256 → Answers .partCfg s 2 s) ∧
      (p < 64 → s.tdiHeld p = false → a.n1 + 256 ≤ s.localTop →
        (s.partCfgBad p n = true → Answers .partCfg s 2 s) ∧
        (s.partCfgBad p n = false → s.hasPart p = true → s.uncommittedIn p = true → cfgHeldChange (s.part p).cfg r = true → Answers .partCfg s 3 s) ∧
        (s.partCfgBad p n = false → s.hasPart p = false ∨ s.uncommittedIn p = false ∨ cfgHeldChange (s.part p).cfg r = false →
          ((s.fitting = .w9h ∨ ∀ q ∈ s.power.gated, r.quart.getLsbD q = false) → (∀ q ∈ goes, s.standsOn q = false) →
            ∃ s1, Answers .partCfg s 0 s1 ∧ s1.parts = Tbl.put s.parts p { P0 with cfg := cfg1, next := next1 } ∧
              (∀ q, q ∈ s1.power.gated ↔ q ∈ s.power.gated ∨ (s.fitting = .w9l ∧ q ∈ goes ∧ s1.quarterOwned q = false)) ∧
              { s1 with parts := s.parts, power := { s1.power with gated := s.power.gated } } = s) ∧
          (s.fitting = .w9h → (∃ q ∈ goes, s.standsOn q = true) → ∃ s', Does .partCfg s s' ∧ s'.mil.busy = true ∧ s'.mil.op = 1 ∧ s'.mil.status = 1 ∧
            s'.mil.waitQ = goes.filter s.standsOn ∧ s'.mil.waitPart = some p ∧ (s'.part p).cfg = cfg1 ∧ (s'.part p).next = next1) ∧
          (s.fitting = .w9l → (∃ q ∈ s.power.gated, q < 384 ∧ r.quart.getLsbD q = true) → ∃ s', Does .partCfg s s' ∧ s'.mil.busy = true ∧ s'.mil.op = 1 ∧ s'.mil.status = 1 ∧
            ∀ q ∈ s.power.gated, q < 384 → r.quart.getLsbD q = true → Tbl.get? s'.power.ungating q = some (s.now + 10500)))) ∧
      (64 ≤ p ∨ s.hasPart p = false → Answers .partFree s 2 s ∧ Answers .partReset s 2 s ∧ Answers .viralSet s 2 s ∧ Answers .viralClr s 2 s) ∧
      (∀ P, p < 64 → Tbl.get? s.parts p = some P →
        ((∃ c ∈ s.ctxs, c.2.part = some p) ∨ s.uncommittedIn p = true ∨ s.holdsMemory p = true → Answers .partFree s 3 s) ∧
        ((∀ c ∈ s.ctxs, c.2.part ≠ some p) → s.uncommittedIn p = false → s.holdsMemory p = false → ∃ s1, Answers .partFree s 0 s1 ∧
          s1.parts = Tbl.del s.parts p ∧ Tbl.get? s1.mil.vers p = some P.verNext ∧ (s.fitting = .w9h → s1.power = s.power) ∧
          (s.fitting = .w9l → ∀ q ∈ quarters P.cfg.quart, s1.quarterOwned q = false → q ∈ s1.power.gated) ∧
          { s1 with parts := s.parts, power := s.power, mil := s.mil } = s) ∧
        (let ls := (s.launches.filter fun l => l.2.uncommitted && decide (l.2.head.part = p)).map Prod.fst
          let s1 := (ls.foldl State.killLaunch (busied s 4)).modPart p fun P => { P with resetting := true }
          s1.lockedFor p = [] → Does .partReset s { s1 with mil := { s1.mil with waitPart := some p } }) ∧
        (s.launches = [] → ∃ s', Does .partReset s s' ∧ s'.mil.busy = true ∧ s'.mil.op = 4 ∧ s'.mil.waitPart = some p ∧
          (s'.part p).resetting = true ∧ (∀ q, q ≠ p → s'.part q = s.part q) ∧ s'.mem = s.mem ∧ s'.teams = s.teams ∧
          ∀ f ∈ s.lockedFor p, Msg.query f.die f.part f.ver ∈ s'.outbox) ∧
        Answers .viralSet s 0 { s with parts := Tbl.put s.parts p { P with viral := some (detected s P 6) } } ∧
        (P.viral = none → Answers .viralClr s 0 s) ∧
        (∀ v, P.viral = some v → v.active = false → Answers .viralClr s 3 s) ∧
        (∀ v, P.viral = some v → v.active = true → ∃ s1, Answers .viralClr s 0 s1 ∧ (s1.part p).viral = none ∧ (s1.part p).vblock = true ∧
          (∀ c x, Tbl.get? s.ctxs c = some x → x.part = some p → (s1.ctx c).viral = false) ∧
          (∀ f ∈ s1.ports.fence, f ∈ s.ports.fence ∧ f.1 / 8 ≠ commitSrc p) ∧ (∀ f ∈ s1.ports.epoch, f ∈ s.ports.epoch ∧ f.1 ≠ commitSrc p) ∧
          s1.mem = s.mem ∧ s1.teams = s.teams ∧ s1.launches = s.launches)) ∧
      (2 ^ 16 ≤ a.v.toNat → Answers .waysShr s 2 s) ∧
      (a.v.toNat < 2 ^ 16 → (∃ w, w < 16 ∧ s.xlat.shways.getLsbD w = true ∧ m.getLsbD w = false ∧ 2 ≤ (s.parts.filter fun p => p.2.cfg.ways.getLsbD w).length) → Answers .waysShr s 2 s) ∧
      (a.v.toNat < 2 ^ 16 → (∀ w, w < 16 → s.xlat.shways.getLsbD w = true → m.getLsbD w = false → (s.parts.filter fun p => p.2.cfg.ways.getLsbD w).length < 2) →
        ((∃ q ∈ s.parts, q.2.cfg.ways &&& (s.xlat.shways ^^^ m) ≠ 0 ∧ s.uncommittedIn q.1 = true) → Answers .waysShr s 3 s) ∧
        ((∀ q ∈ s.parts, q.2.cfg.ways &&& (s.xlat.shways ^^^ m) = 0 ∨ s.uncommittedIn q.1 = false) → Answers .waysShr s 0 { s with xlat := { s.xlat with shways := m } })) ∧
      (1024 ≤ a.n0 ∨ 64 ≤ a.n1 ∨ s.hasPart a.n1 = false → Answers .ctxAssign s 2 s) ∧
      (a.n0 < 1024 → a.n1 < 64 → s.hasPart a.n1 = true →
        ((s.ctx a.n0).part.isSome = true → (s.ctx a.n0).fresh = false → Answers .ctxAssign s 3 s) ∧
        ((s.ctx a.n0).part = none ∨ (s.ctx a.n0).fresh = true →
          let n := popc (s.part a.n1).cfg.quart.toNat 384
          let need := (s.modCtx a.n0 fun x => { x with part := none, saveArea := 0 }).charged a.n1 + n * 2 ^ 20
          let live := (s.part a.n1).viral.filter Viral.active
          ((s.part a.n1).cfg.quota * 2 ^ 21 < need → Answers .ctxAssign s 5 s) ∧
          (need ≤ (s.part a.n1).cfg.quota * 2 ^ 21 → ∃ s1, Answers .ctxAssign s 0 s1 ∧ CtxChanged s s1 a.n0 ∧
            s1.ctx a.n0 = { s.ctx a.n0 with
              part := some a.n1, fresh := false, saveArea := n, ctab := none
              viral := live.isSome, vcause := (live.map Viral.cause).getD 0, vtime := (live.map Viral.tv).getD 0 }))) ∧
      (1024 ≤ a.n0 → Answers .ctxUnasg s 2 s) ∧
      (a.n0 < 1024 → (s.ctx a.n0).part = none → Answers .ctxUnasg s 3 s) ∧
      (a.n0 < 1024 → (s.ctx a.n0).part.isSome = true →
        (let ls := (s.launches.filter fun l => l.2.uncommitted && decide (l.2.head.ctx = a.n0)).map Prod.fst
          let s1 := (ls.foldl State.killLaunch (busied s 3)).modCtx a.n0 fun x => { x with resetting := some (max 1 (x.resetting.getD 0)) }
          Does .ctxUnasg s { s1 with mil := { s1.mil with waitPart := some a.n0 } }) ∧
        ((s.ctx a.n0).resetting = none → s.launches = [] → ∃ s', Does .ctxUnasg s s' ∧ s'.mil.busy = true ∧ s'.mil.op = 3 ∧
          s'.mil.waitPart = some a.n0 ∧ s'.ctx a.n0 = { s.ctx a.n0 with resetting := some 1 } ∧ s'.mem = s.mem ∧ s'.teams = s.teams))) ∧
    (a.n0 < 1024 → (s.ctx a.n0).resetting ≠ some 1 →
      (let ls := (s.launches.filter fun l => l.2.uncommitted && decide (l.2.head.ctx = a.n0)).map Prod.fst;
        Does .vfReset s ((ls.foldl State.killLaunch s).modCtx a.n0 fun x => { x with resetting := some (max 0 (x.resetting.getD 0)) })) ∧
      ((s.ctx a.n0).resetting = none → s.launches = [] → ∃ s', Does .vfReset s s' ∧ CtxChanged s s' a.n0 ∧ s'.ctx a.n0 = { s.ctx a.n0 with resetting := some 0 })) ∧
    (1024 ≤ a.n0 ∨ (s.ctx a.n0).resetting = some 1 → Does .vfReset s s) ∧
    (∀ lk l, Tbl.get? s.launches lk = some l → s.killLaunch lk = if l.abortable s.now = true then s.abortOne lk 0x51 2 else s)

/-- O46. Each of these commands is turned away while another runs or before the boot is over. key_gen and key_load fill a
partition's key slot, with fresh keys and with the keys that the session sent for it; both answer 3 for a partition that owns
memory or has a locked TDI, and key_load 4 for a session that is not bound to the measurements. img_reg puts the image at its
address and img_inst the image in the partition's own memory whose signature a tenant key verifies; both charge it to the
quota and answer 2, 3, 4 and 5 as the rules say, and img_rm removes an image that is not in use. tkey_reg writes a tenant key
of a W9L, vec_asg gives a context the lowest free vectors, bifurc sets a port for the next reset, and pool_map writes or
clears a decoder entry. m_kill and m_rel answer 3 for a master that is not frozen, and kill or release a frozen team, engine
card, peer or context. SPDM answers with signed measurements, the certificates, a session or its keys; a TDI changes state,
ERROR being fatal to its context; and a W9L takes its regions and tags, which other fittings and region numbers leave alone. -/
def Obligations.ImageCommands : Prop :=
  ∀ (s : State), let a := s.arg
    let p := a.n0
    let i := a.n1
    (∀ i ∈ [Instr.keyGen, .keyLoad, .imgReg, .imgInst, .imgRm, .tkeyReg, .vecAsg, .bifurc, .poolMap, .mKill, .mRel], TurnedAway i s) ∧
    (Idle s →
      (64 ≤ p → Answers .keyGen s 2 s ∧ Answers .keyLoad s 2 s) ∧
      (p < 64 → s.holdsMemory p = true ∨ s.tdiHeld p = true → Answers .keyGen s 3 s ∧ Answers .keyLoad s 3 s) ∧
      (p < 64 → s.holdsMemory p = false → s.tdiHeld p = false →
        (∃ k, Answers .keyGen s 0 { s with mil := { s.mil with slots := Tbl.put s.mil.slots p k, keyGens := s.mil.keyGens + 1 } }) ∧
        (Tbl.get? s.mil.sess i = none → Answers .keyLoad s 2 s) ∧
        (Tbl.get? s.mil.sess i = some false → Answers .keyLoad s 4 s) ∧
        (Tbl.get? s.mil.sess i = some true → Tbl.get? s.mil.tkeys (64 * i + p) = none → Answers .keyLoad s 3 s) ∧
        (∀ k, Tbl.get? s.mil.sess i = some true → Tbl.get? s.mil.tkeys (64 * i + p) = some k → Answers .keyLoad s 0 { s with mil := { s.mil with slots := Tbl.put s.mil.slots p k } })) ∧
      (s.fitting = .w9l → Answers .imgReg s 6 s ∧ Answers .poolMap s 6 s) ∧
      (s.imageArgs p i = false → (s.fitting = .w9h → Answers .imgReg s 2 s) ∧ Answers .imgInst s 2 s ∧ Answers .imgRm s 2 s) ∧
      (s.imageArgs p i = true →
        (s.tdiHeld p = true ∨ s.imageInUse p i = true → (s.fitting = .w9h → Answers .imgReg s 3 s) ∧ Answers .imgRm s 3 s) ∧
        (s.tdiHeld p = false → s.imageInUse p i = false →
          (∃ s1, Answers .imgRm s 0 s1 ∧ Tbl.get? (s1.part p).images i = none ∧ (∀ q, q ≠ p → s1.part q = s.part q) ∧ { s1 with parts := s.parts } = s) ∧
          (s.fitting = .w9h →
            (s.localTop < a.n2 + a.n3 → Answers .imgReg s 2 s) ∧
            (a.n2 + a.n3 ≤ s.localTop → imageOf (memBytes s.mem a.n2 a.n3) = none → Answers .imgReg s 2 s) ∧
            (∀ x, a.n2 + a.n3 ≤ s.localTop → imageOf (memBytes s.mem a.n2 a.n3) = some x →
              let left := (s.modPart p fun P => { P with images := Tbl.del P.images i }).quotaLeft p
              (left < x.len → Answers .imgReg s 5 s) ∧ (x.len ≤ left → ∃ s1, Answers .imgReg s 0 s1 ∧ ImagePut s s1 p i x)))) ∧
        (4 ≤ a.n5 ∨ ¬ ownsRange s p a.n2 a.n3 ∨ ¬ ownsRange s p a.n4 384 → Answers .imgInst s 2 s) ∧
        (a.n5 < 4 → ownsRange s p a.n2 a.n3 → ownsRange s p a.n4 384 →
          (s.imageInUse p i = true → Answers .imgInst s 3 s) ∧
          (s.imageInUse p i = false →
            (imageOf (memBytes s.mem a.n2 a.n3) = none → Answers .imgInst s 2 s) ∧
            (∀ x, imageOf (memBytes s.mem a.n2 a.n3) = some x →
              let left := (s.modPart p fun P => { P with images := Tbl.del P.images i }).quotaLeft p
              (Tbl.get? (s.part p).tkeys a.n5 = none → Answers .imgInst s 4 s) ∧
              (∀ k, Tbl.get? (s.part p).tkeys a.n5 = some k →
                (Config.sigOk k x.digest (memNat s.mem a.n4 384) = false → Answers .imgInst s 4 s) ∧
                (Config.sigOk k x.digest (memNat s.mem a.n4 384) = true → left < x.len → Answers .imgInst s 5 s) ∧
                (Config.sigOk k x.digest (memNat s.mem a.n4 384) = true → x.len ≤ left → ∃ s1, Answers .imgInst s 0 s1 ∧ ImagePut s s1 p i x)))))) ∧
      (s.fitting = .w9h → Answers .tkeyReg s 6 s) ∧
      (s.fitting = .w9l → 64 ≤ p ∨ s.hasPart p = false ∨ 4 ≤ i ∨ s.localTop < a.n2 + 384 → Answers .tkeyReg s 2 s) ∧
      (∀ P, s.fitting = .w9l → p < 64 → i < 4 → a.n2 + 384 ≤ s.localTop → Tbl.get? s.parts p = some P →
        Answers .tkeyReg s 0 { s with parts := Tbl.put s.parts p { P with tkeys := Tbl.put P.tkeys i (leNat (memBytes s.mem a.n2 384)) } }) ∧
      (1024 ≤ p ∨ 16 < i → Answers .vecAsg s 2 s) ∧
      (p < 1024 → i ≤ 16 →
        let used := (s.ctxs.filter fun x => x.1 ≠ p).flatMap fun x => x.2.vecs
        let free := ((List.range 2016).map (· + 32)).filter fun v => v ∉ used
        (free.length < i → Answers .vecAsg s 5 s) ∧
        (i ≤ free.length → ∃ s1, Answers .vecAsg s 0 s1 ∧ CtxChanged s s1 p ∧ s1.ctx p = { s.ctx p with vecs := free.take i })) ∧
      (4 ≤ p → Answers .bifurc s 2 s) ∧
      (p = 0 → s.fitting = .w9h → Answers .bifurc s 0 s) ∧
      (p < 4 → p ≠ 0 ∨ s.fitting = .w9l → ∃ l, Answers .bifurc s 0 { s with mil := { s.mil with bifNext := l } } ∧ ∀ x, x ∈ l ↔ (x = p ∧ a.flag = true) ∨ (x ≠ p ∧ x ∈ s.mil.bifNext)) ∧
      (s.fitting = .w9h → 64 ≤ p ∨ 64 ≤ a.n6 → Answers .poolMap s 2 s) ∧
      (s.fitting = .w9h → p < 64 → a.n6 < 64 → s.tdiHeld a.n6 = false → a.n2 ≠ 0 →
        a.n1 % 2 ^ 28 ≠ 0 ∨ a.n2 % 2 ^ 28 ≠ 0 ∨ a.n5 % 2 ^ 28 ≠ 0 ∨ s.isPool a.n1 = false ∨ s.isPool (a.n1 + a.n2 - 1) = false ∨ 8 ≤ a.n3 ∨
          (∃ x ∈ s.ports.pool, x.1 ≠ p ∧ a.n1 < x.2.base + x.2.len ∧ x.2.base < a.n1 + a.n2) → Answers .poolMap s 2 s) ∧
      (s.fitting = .w9h → p < 64 → a.n6 < 64 → s.tdiHeld a.n6 = true → Answers .poolMap s 3 s) ∧
      (s.fitting = .w9h → p < 64 → a.n6 < 64 → s.tdiHeld a.n6 = false →
        (a.n2 = 0 → Answers .poolMap s 0 { s with ports := { s.ports with pool := Tbl.del s.ports.pool p } }) ∧
        (a.n2 ≠ 0 → a.n1 % 2 ^ 28 = 0 → a.n2 % 2 ^ 28 = 0 → a.n5 % 2 ^ 28 = 0 → s.isPool a.n1 = true → s.isPool (a.n1 + a.n2 - 1) = true → a.n3 < 8 →
          (∀ x ∈ s.ports.pool, x.1 = p ∨ x.2.base + x.2.len ≤ a.n1 ∨ a.n1 + a.n2 ≤ x.2.base) →
          Answers .poolMap s 0 { s with ports := { s.ports with pool := Tbl.put s.ports.pool p { base := a.n1, len := a.n2, link := a.n3, pbr := a.n4, dpa := a.n5, bulk := a.flag, part := a.n6 } } })) ∧
      (∀ n, a.m = .team n →
        (s.frozenTeam n = none → Answers .mKill s 3 s ∧ Answers .mRel s 3 s) ∧
        (∀ k t, s.frozenTeam n = some (k, t) →
          Does .mKill s (((busied s 0x12).abortTeam k t 0x90).finishCmd 0) ∧ Does .mRel s (((busied s 0x13).releaseTeam k t).finishCmd 0))) ∧
      (∀ cl tag, a.m = .engine cl tag →
        ((∀ k ∈ (s.cluster cl).cards, k.tag = tag → k.frozen = none) → Answers .mKill s 3 s ∧ Answers .mRel s 3 s) ∧
        (∀ k, (s.cluster cl).cards.find? (fun k => k.tag = tag && k.frozen.isSome) = some k →
          (∀ t, Tbl.get? s.teams k.team = some t → Does .mKill s (((busied s 0x12).abortTeam k.team t 0x90).finishCmd 0)) ∧
          (Tbl.get? s.teams k.team = none → Does .mKill s (((busied s 0x12).abortLaunch k.launch 0x90 1).finishCmd 0)) ∧
          Does .mRel s ((((busied s 0x13).cardFault cl tag 0x90).modCard cl tag fun k => { k with frozen := none }).finishCmd 0))) ∧
      (∀ pbr q, a.m = .peer pbr q →
        ((pbr, q) ∉ s.ports.blocked → Answers .mKill s 3 s ∧ Answers .mRel s 3 s) ∧
        ((pbr, q) ∈ s.ports.blocked →
          (∃ l, Answers .mKill s 0 { s with ports := { s.ports with blocked := l } } ∧ ∀ x, x ∈ l ↔ x = (pbr, q + 64) ∨ x ∈ s.ports.blocked) ∧
          ((pbr, q + 64) ∈ s.ports.blocked → Answers .mRel s 3 s) ∧
          ((pbr, q + 64) ∉ s.ports.blocked → Answers .mRel s 0 { s with ports := { s.ports with blocked := s.ports.blocked.filter (· ≠ (pbr, q)) } }))) ∧
      (∀ c, a.m = .vf c →
        ((s.ctx c).vfFrozen = false → Answers .mKill s 3 s ∧ Answers .mRel s 3 s) ∧
        ((s.ctx c).vfFrozen = true → ∃ s1, Answers .mRel s 0 s1 ∧ CtxChanged s s1 c ∧ s1.ctx c = { s.ctx c with vfFrozen := false }) ∧
        ((s.ctx c).vfFrozen = true →
          let ls := (s.launches.filter fun l => l.2.uncommitted && decide (l.2.head.ctx = c)).map Prod.fst
          Does .mKill s (((ls.foldl State.killLaunch (busied s 0x12)).modCtx c fun x => { x with resetting := some (max 0 (x.resetting.getD 0)) }).finishCmd 0)) ∧
        ((s.ctx c).vfFrozen = true → s.launches = [] → (s.ctx c).resetting = none → ∃ s1, Answers .mKill s 0 s1 ∧ CtxChanged s s1 c ∧ s1.ctx c = { s.ctx c with resetting := some 0 }))) ∧
    (a.spdm = .getMeasurements →
      let l := (List.range 5).map fun i => s.mil.meas.getD i 0
      Does .spdmMessage s { s with outbox := s.outbox ++ [.measurements l (Config.identitySign (Config.sha256 (measBytes l) 160))] }) ∧
    (a.spdm = .getCertificate → Does .spdmMessage s { s with outbox := s.outbox ++ [.certificates Config.certChain] }) ∧
    (∀ n ok, a.spdm = .establish n ok → Does .spdmMessage s { s with
      mil := { s.mil with sess := Tbl.put s.mil.sess n ok, tkeys := s.mil.tkeys.filter fun k => k.1 / 64 ≠ n }, outbox := s.outbox ++ [.spdm 0] }) ∧
    (∀ n q k, a.spdm = .tenantKeys n q k →
      (Tbl.get? s.mil.sess n ≠ none → q < 64 → Does .spdmMessage s { s with mil := { s.mil with tkeys := Tbl.put s.mil.tkeys (64 * n + q) k }, outbox := s.outbox ++ [.spdm 0] }) ∧
      (Tbl.get? s.mil.sess n = none ∨ 64 ≤ q → Does .spdmMessage s { s with outbox := s.outbox ++ [.spdm 1] })) ∧
    (p < 1024 → (s.ctx p).tdi ≠ .error →
      (a.tdi ≠ .error → ∃ s1, Does .tdiStateChange s s1 ∧ CtxChanged s s1 p ∧ s1.ctx p = { s.ctx p with tdi := a.tdi }) ∧
      (a.tdi = .error → Does .tdiStateChange s ((s.modCtx p fun x => { x with tdi := .error }).ctxFatal p 0x8E))) ∧
    (1024 ≤ p ∨ (s.ctx p).tdi = .error → Does .tdiStateChange s s) ∧
    (s.fitting = .w9l → p < 8 → Does .dcRegionConfiguration s { s with ports := { s.ports with regions := Tbl.put s.ports.regions p { first := i, count := a.n2, bulk := a.flag } } }) ∧
    (s.fitting = .w9h ∨ 8 ≤ p → Does .dcRegionConfiguration s s) ∧
    (s.fitting = .w9h → Does .tenantTagMapping s s) ∧
    (s.fitting = .w9l → ∃ l, Does .tenantTagMapping s { s with ports := { s.ports with tags := l } } ∧
      let tag : BitVec 128 := a.wide.setWidth 128
      ∀ x, x ∈ l ↔ (a.opt = some x.2 ∧ x.1 = tag) ∨ (x.1 ≠ tag ∧ x ∈ s.ports.tags))

/-- O47. A 64-bit write of a launch register of an assigned VF that is neither frozen nor resetting queues its address behind
the others of its stream, while fewer than 64 are pending; one that finds 64 sets ovf, a narrower one werr, and one of any
other VF changes nothing. A write of cbase keeps its defined bits and clears the record counters while no launch of the context
is uncommitted, and is ignored at any other time. A register write goes by its offset to a VF's window or to the PF's: each
register keeps the bits that its layout defines, W1C bits clear where ones are written, gown, tmvd and tictl do what their own
events do, and an offset that is not listed or not a multiple of 8 ignores the write. An aperture access of one page through an
enabled window of an assigned VF is queued; through any other it sets aperr, and a read of it, or of a frozen VF, gives all
ones. -/
def Obligations.WindowEvents : Prop :=
  ∀ (s : State), let a := s.arg
    let c := a.n0
    let i := a.n1
    (∀ p, TakesWrites s c → i < 16 → (s.ctx c).part = some p → (s.ctx c).resetting = none → (s.part p).resetting = false →
      (a.n2 < 8 → ∃ s1, Does .lregWrite s s1 ∧ CtxChanged s s1 c ∧ (s1.ctx c).stream i = { (s.ctx c).stream i with werr := true } ∧
        (∀ j, j ≠ i → (s1.ctx c).stream j = (s.ctx c).stream j) ∧ { s1.ctx c with streams := (s.ctx c).streams } = s.ctx c) ∧
      (8 ≤ a.n2 → 64 ≤ ((s.ctx c).stream i).pend.length → ∃ s1, Does .lregWrite s s1 ∧ CtxChanged s s1 c ∧ (s1.ctx c).stream i = { (s.ctx c).stream i with ovf := true } ∧
        (∀ j, j ≠ i → (s1.ctx c).stream j = (s.ctx c).stream j) ∧ { s1.ctx c with streams := (s.ctx c).streams } = s.ctx c) ∧
      (8 ≤ a.n2 → ((s.ctx c).stream i).pend.length < 64 → ∃ s1 x, Does .lregWrite s s1 ∧ ((s1.ctx c).stream i).pend = ((s.ctx c).stream i).pend ++ [x] ∧
        x.addr = a.v ∧ x.issuer = none ∧ x.at_ = s.now ∧ (s1.ctx c).fresh = false ∧ (∀ j, j ≠ i → (s1.ctx c).stream j = (s.ctx c).stream j) ∧
        (∀ j, j ≠ c → s1.ctx j = s.ctx j) ∧ (s1.part p).vblock = false ∧ s1.mem = s.mem ∧ s1.teams = s.teams ∧ s1.launches = s.launches)) ∧
    (¬ TakesWrites s c ∨ 16 ≤ i ∨ (s.ctx c).part = none ∨ (s.ctx c).resetting.isSome = true ∨ (∃ p, (s.ctx c).part = some p ∧ (s.part p).resetting = true) →
      Does .lregWrite s s) ∧
    (TakesWrites s c → (∀ l ∈ s.launches, l.2.head.ctx = c → l.2.uncommitted = false) →
      ∃ s1, Does .cbaseWrite s s1 ∧ CtxChanged s s1 c ∧ s1.ctx c = { s.ctx c with cbase := a.v &&& 0x01FFFFFFFFFFF00F, cprod := 0, ccons := 0 }) ∧
    (¬ TakesWrites s c ∨ (∃ l ∈ s.launches, l.2.head.ctx = c ∧ l.2.uncommitted = true) → Does .cbaseWrite s s) ∧
    (∀ x, a.opt = some x →
      (¬ TakesWrites s x ∨ c % 8 ≠ 0 → Does .registerWrite s s) ∧
      (TakesWrites s x → c % 8 = 0 →
        let X := s.ctx x
        let st := X.stream (c % 0x80 / 8)
        let sets (y : Ctx) := ∃ s1, Does .registerWrite s s1 ∧ CtxChanged s s1 x ∧ s1.ctx x = y
        let toStream (y : Stream) := ∃ s1, Does .registerWrite s s1 ∧ CtxChanged s s1 x ∧ (s1.ctx x).stream (c % 0x80 / 8) = y ∧
          (∀ j, j ≠ c % 0x80 / 8 → (s1.ctx x).stream j = X.stream j) ∧ { s1.ctx x with streams := X.streams } = X
        (c < 0x80 → Does .registerWrite s (s.lregWrite x (c / 8) a.v 8)) ∧
        (0x80 ≤ c → c < 0x100 → toStream { st with werr := st.werr && !a.v.getLsbD 1, ovf := st.ovf && !a.v.getLsbD 0 }) ∧
        (c = 0x100 → Does .registerWrite s (s.cbaseWrite x a.v)) ∧
        (c = 0x110 → sets { X with ccons := a.v.toNat }) ∧
        (0x180 ≤ c → c < 0x200 → toStream { st with sirq := a.v &&& 0xF3 }) ∧
        (c = 0x200 → sets { X with vlost := X.vlost && !a.v.getLsbD 1 }) ∧
        (c = 0x210 → sets { X with aperr := X.aperr && !a.v.getLsbD 7, cerr := X.cerr && !a.v.getLsbD 1 }) ∧
        (0x400 ≤ c → c < 0x600 → sets { X with apt := Tbl.put X.apt ((c - 0x400) / 8) (a.v &&& 0x01FFFFFFC0000001) }) ∧
        (c = 0x1000 → Does .registerWrite s (s.dbgctlWrite x a.v.toNat)) ∧
        (c = 0x1010 → sets { X with dbg := { X.dbg with sel := a.v &&& 0xF0000000000FFFFF } }) ∧
        (c = 0x1018 → sets { X with dbg := { X.dbg with addr := a.v } }) ∧
        (c = 0x1020 → Does .registerWrite s (s.dbgAccess x (some a.v))) ∧
        (c = 0x1028 → sets { X with dbg := { X.dbg with tvec := a.v &&& 0x80000000FFFFFFFC } }) ∧
        (c = 0x1038 → sets { X with dbg := { X.dbg with evcons := a.v.toNat } }) ∧
        (c = 0x1040 → sets { X with dbg := { X.dbg with evirq := a.v &&& 0xF1, evovf := X.dbg.evovf && !a.v.getLsbD 63 } }) ∧
        (∀ p, c = 0x1050 → X.part = some p → Does .registerWrite s (s.trconsWrite p a.v.toNat)) ∧
        (c = 0x1058 → sets { X with dbg := { X.dbg with trctl := a.v &&& 0x1F1F07 } }) ∧
        (0x1080 ≤ c → c < 0x10C0 → sets { X with dbg := { X.dbg with bpt := Tbl.put X.dbg.bpt ((c - 0x1080) / 8) (a.v &&& 0x800003FFFFFFFFFF) } }) ∧
        (0x10C0 ≤ c → c < 0x1100 → c % 16 = 0 → sets { X with dbg := { X.dbg with wpta := Tbl.put X.dbg.wpta ((c - 0x10C0) / 16) (a.v &&& 0x01FFFFFFFFFFFFFF) } }) ∧
        (0x10C0 ≤ c → c < 0x1100 → c % 16 = 8 → sets { X with dbg := { X.dbg with
          wptc := Tbl.put X.dbg.wptc ((c - 0x10C8) / 16) (a.v &&& 0x8000000000000007), wptAt := Tbl.put X.dbg.wptAt ((c - 0x10C8) / 16) s.now } }) ∧
        (0x1100 ≤ c → c < 0x1180 → ∃ s1 v, Does .registerWrite s s1 ∧ CtxChanged s s1 x ∧ s1.ctx x = { X with perf := { X.perf with sel := Tbl.put X.perf.sel ((c - 0x1100) / 8) v } } ∧
          v &&& 0x7FFFFFFFFFFFFFFF = a.v &&& 0x803F ∧
          (v.getLsbD 63 = true ↔ (Tbl.getD X.perf.sel ((c - 0x1100) / 8) 0).getLsbD 63 = true ∧ a.v.getLsbD 63 = false)) ∧
        (0x1180 ≤ c → c < 0x1200 → sets { X with perf := X.perf.setVal ((c - 0x1180) / 8) (a.v.setWidth 48) }) ∧
        (c = 0x108 ∨ (0x118 ≤ c ∧ c < 0x180) ∨ c = 0x208 ∨ (0x218 ≤ c ∧ c < 0x400) ∨ (0x600 ≤ c ∧ c < 0x1000) ∨ c = 0x1008 ∨ c = 0x1030 ∨ c = 0x1048 ∨
          (0x1060 ≤ c ∧ c < 0x1080) ∨ 0x1200 ≤ c → Does .registerWrite s s))) ∧
    (a.opt = none →
      (c % 8 ≠ 0 ∨ s.mil.served = false → c ≠ 0xF00 → Does .registerWrite s s) ∧
      (c = 0xF00 → Does .registerWrite s (s.frzCtl a.v.toNat)) ∧
      (s.mil.served = true →
        (c < 0x40 → c % 8 = 0 → ∃ r, Does .registerWrite s { s with mil := { s.mil with req := r } } ∧ r.extractLsb' (8 * c) 64 = a.v ∧
          ∀ j, j < 512 → (j < 8 * c ∨ 8 * c + 64 ≤ j) → r.getLsbD j = s.mil.req.getLsbD j) ∧
        (c = 0x40 → a.v.getLsbD 0 = true → Does .registerWrite s s.mbxGo) ∧
        (c = 0x40 → a.v.getLsbD 0 = false → Does .registerWrite s s) ∧
        (c = 0xE00 → Does .registerWrite s { s with xlat := { s.xlat with ctab := a.v &&& 0x000FFFFFFFFFC000 } }) ∧
        (c = 0xE20 → Does .registerWrite s { s with xlat := { s.xlat with tmva := a.v &&& 0x01FFFFFFFFFFF000 } }) ∧
        (c = 0xE40 → Does .registerWrite s { s with xlat := { s.xlat with tiva := a.v &&& 0x01FFFFFFFFFFF03F } }) ∧
        (∀ s1, c = 0xE08 → exec .gownWrite { s with arg := { v := a.v } } = .next s1 → Does .registerWrite s s1) ∧
        (∀ s1, c = 0xE28 → exec .tmvdWrite { s with arg := { v := a.v } } = .next s1 → Does .registerWrite s s1) ∧
        (∀ s1, c = 0xE48 → exec .tictlWrite { s with arg := { v := a.v } } = .next s1 → Does .registerWrite s s1) ∧
        ((0x48 ≤ c ∧ c < 0xE00) ∨ c = 0xE10 ∨ c = 0xE18 ∨ c = 0xE30 ∨ c = 0xE38 ∨ 0xE50 ≤ c ∧ c ≠ 0xF00 → Does .registerWrite s s))) ∧
    (∀ (w : Bool) (len : Nat), len = (if w = true then a.bytes.length else a.n2) →
      let ev := if w = true then Instr.apertureWrite else Instr.apertureRead
      let ans := if w = true then [] else [Msg.aperture c (List.replicate len 0xFF) false]
      (¬ ApertureOk s c i len → Does ev s s) ∧
      (ApertureOk s c i len → (s.ctx c).vfFrozen = true → Does ev s { s with outbox := s.outbox ++ ans }) ∧
      (ApertureOk s c i len → (s.ctx c).vfFrozen = false →
        (∀ va, (s.ctx c).apVa i = some va → (s.ctx c).part.isSome = true → ∃ s1, Does ev s s1 ∧ s1.fresh = s.fresh + 1 ∧
          s1.ctx c = { s.ctx c with aps := (s.ctx c).aps ++ [{ id := s.fresh, va := va, len := len, write := if w = true then some a.bytes else none }] } ∧
          (∀ j, j ≠ c → s1.ctx j = s.ctx j) ∧ s1.mem = s.mem ∧ s1.outbox = s.outbox) ∧
        ((s.ctx c).apVa i = none ∨ (s.ctx c).part = none → ∃ s1, Does ev s s1 ∧ s1.ctx c = { s.ctx c with aperr := true } ∧ (∀ j, j ≠ c → s1.ctx j = s.ctx j) ∧
          s1.mem = s.mem ∧ s1.outbox = s.outbox ++ ans)))

/-- O48. A gown write is ignored while a change is in progress, is refused with 2, 3 or 5 as R155 says, or marks the granules that
change owner busy, those that pass to nobody leaving their owner and the TLBs at once; when what used their translations is
performed, the scrub leaves their memory zero without poison, and they change owner. A tictl write while an invalidation runs
and a 33rd queued ATS invalidation are ignored; any other is queued for 32 ticks later, when the translations of its range are
dropped, and it ends, counted or answered, when what used them has been performed, and not before. A walk that waits for no
table word does what its tables give. A host translation fills the TLBs of what waited for it, an error raises 0x2E, and an
absent page is asked for by a page request, or raises 0x2B where none is sent for the PASID any more; success of a page
request lets its accesses go on, an invalid request raises 0x2A, and a failure ends the PASID's page requests and is
context-fatal with 0x2B. A tmvd write is ignored while a move runs, and refused with 0x21, 0x2C, 0x2D, 0x27 or 0x90 as R181 says
(where several apply, in the order of log 211), or accepted for 32 ticks later, when the translations of its page are dropped;
the copy starts when what used them is performed and no mapped-coherent stash holds a line, goes on line by line, is followed
by the shadow entries, the records and the leaves and the release of the queue, and the move ends, counted when the PF asked
for it, when every released access is performed; before its condition holds, no step of it does anything. -/
def Obligations.TranslationEvents : Prop :=
  ∀ (s : State), let a := s.arg
    let n := a.v.toNat
    let x := s.xlat
    let cnt := bits n 59 40 + 1
    let own := bits n 39 32
    let gs := (List.range cnt).map (bits n 19 0 + ·)
    let move := gs.filter fun g => s.granuleOwner g ≠ own
    let wordOk := bits n 63 60 = 0 ∧ bits n 31 20 = 0 ∧ (own < 64 ∨ own = 0x40 ∨ own = 0xFF) ∧ bits n 19 0 + cnt ≤ s.granules
    let held := ∃ g ∈ gs, s.inExtent g = true ∨ (own ≠ 0xFF ∧ s.granuleOwner g ≠ 0xFF ∧ s.granuleOwner g ≠ own)
    let over_ := own < 64 ∧ (s.part own).cfg.quota + (s.part own).cfg.shpool < s.ownedBy own + move.length
    let ended_ := fun (v : Nat) => ({ s with xlat := { x with gstat := v } } : State)
    let inv := fun (i : Inval) => ({ s with fresh := s.fresh + 1, xlat := { x with invs := x.invs ++ [i] } } : State)
    (x.gbusy ≠ [] → Does .gownWrite s s) ∧
    (x.gbusy = [] →
      (¬ wordOk → Does .gownWrite s (ended_ 2)) ∧
      (wordOk → held → Does .gownWrite s (ended_ 3)) ∧
      (wordOk → ¬ held → over_ → Does .gownWrite s (ended_ 5)) ∧
      (wordOk → ¬ held → ¬ over_ → own ≠ 0xFF → Does .gownWrite s { s with fresh := s.fresh + 1, xlat := { x with gstat := 0, gbusy := move.map fun g => (g, own + 256 * s.fresh) } }) ∧
      (wordOk → ¬ held → ¬ over_ → own = 0xFF → ∃ s1, Does .gownWrite s s1 ∧ s1.xlat.gstat = 0 ∧ s1.xlat.gbusy = move.map (fun g => (g, 0xFF + 256 * s.fresh)) ∧
        (∀ g ∈ move, Tbl.get? s1.xlat.own g = none) ∧
        Dropped s1 (fun e => !e.host && move.any fun g => decide (e.pa < g * 2 ^ 21 + 2 ^ 21 ∧ g * 2 ^ 21 < e.pa + 2 ^ (min e.lg 21))) ∧ s1.mem = s.mem ∧ s1.teams = s.teams)) ∧
    (s.mayScrub = true → ∃ s1, Does .granuleScrubDone s s1 ∧ s1.xlat.gbusy = [] ∧ s1.teams = s.teams ∧
      (∀ g ∈ x.gbusy, ∀ y, g.1 * 2 ^ 21 ≤ y → y < g.1 * 2 ^ 21 + 2 ^ 21 → memGet s1.mem y = 0 ∧ s1.poisoned y = false) ∧
      (∀ y, (∀ g ∈ x.gbusy, y / 2 ^ 21 ≠ g.1) → memGet s1.mem y = memGet s.mem y) ∧
      (∀ g v, x.gbusy = [(g, v)] → Tbl.get? s1.xlat.own g = if v % 256 = 0xFF then none else some (v % 256))) ∧
    (s.mayScrub = false → Does .granuleScrubDone s s) ∧
    ((∃ i ∈ x.invs, i.ats = false) → Does .tictlWrite s s) ∧
    ((∀ i ∈ x.invs, i.ats = true) → Does .tictlWrite s (inv { id := s.fresh, ats := false, ctx := bits n 9 0, va := bits x.tiva.toNat 56 12 * 4096, lg := max 12 (min 57 (bits x.tiva.toNat 5 0)), ta := s.now + 32, ctab := bit n 10 })) ∧
    ((x.invs.filter fun i => i.ats).length < 32 → Does .atsInvalidationRequest s (inv { id := s.fresh, ats := true, ctx := a.n0, va := a.n1, lg := max 12 (min 57 a.n2), ta := s.now + 32 })) ∧
    (32 ≤ (x.invs.filter fun i => i.ats).length → Does .atsInvalidationRequest s s) ∧
    (∀ i, x.invs.find? (fun i => i.id = a.n0 && i.phase = 1) = some i → ∃ s1, Does .invalidationTa s s1 ∧ Dropped s1 (s.invHits i) ∧
      (∃ j ∈ s1.xlat.invs, j = { i with phase := 2, ta := s.now, stamp := s.fresh }) ∧ s1.mem = s.mem ∧ s1.teams = s.teams) ∧
    (∀ i, x.invs.find? (fun i => i.id = a.n0 && !i.ats) = some i →
      (s.drained i = true → Does .invalidationDrained s { s with xlat := { x with invs := x.invs.filter (fun y => y.id ≠ i.id), tidone := (x.tidone + 1) % 2 ^ 32 } }) ∧
      (s.drained i = false → Does .invalidationDrained s s)) ∧
    (∀ i, x.invs.find? (fun i => i.id = a.n0 && i.ats) = some i →
      (s.drained i = true → Does .atsInvalidationCompletion s { s with xlat := { x with invs := x.invs.filter fun y => y.id ≠ i.id }, outbox := s.outbox ++ [.atsInvDone i.id] }) ∧
      (s.drained i = false → Does .atsInvalidationCompletion s s)) ∧
    (∀ r c, x.reqs.find? (fun r => r.tag = a.n0) = some r → r.for_ = .ats c →
      (∀ hpa lg rd wr sh, a.ats = .present hpa lg rd wr sh →
        Does .atsTranslationCompletion s ((s.dropReq r.tag).fillAll (fun y => y = .ats r.tag) (r.addr * 4096) (hostEntry c (r.addr * 4096) hpa lg rd wr sh))) ∧
      (a.ats = .error → Does .atsTranslationCompletion s ((s.dropReq r.tag).failAll (fun y => y = .ats r.tag) 0x2E none)) ∧
      (a.ats = .notPresent →
        let s1 := ((s.dropReq r.tag).unitsWaiting fun y => y = .ats r.tag).foldl (fun s u => match u with
          | .seq _ _ | .aperture _ _ => s.modFetch u fun y => { y with wait := .ready, bad := some { cause := 0x21 } }
          | _ => s) (s.dropReq r.tag)
        (s1.pasidDead c = true → Does .atsTranslationCompletion s (s1.failAll (fun y => y = .ats r.tag) 0x2B none)) ∧
        (s1.pasidDead c = false → Does .atsTranslationCompletion s
          (s1.waitFor (fun y => y = .ats r.tag) fun s w => (.pri (s.joinPri c (r.addr * 4096) w).1, (s.joinPri c (r.addr * 4096) w).2))))) ∧
    (∀ r, x.reqs.find? (fun r => r.tag = a.n0) = some r → (∀ c, r.for_ ≠ .ats c) → Does .atsTranslationCompletion s s) ∧
    (x.reqs.find? (fun r => r.tag = a.n0) = none → Does .atsTranslationCompletion s s) ∧
    (∀ g, x.pris.find? (fun r => r.id = a.n0 && r.sent) = some g →
      (a.prg = .success → Does .prgResponse s ((s.goOn fun y => y = .pri g.id).endPri g.id)) ∧
      (a.prg = .invalid → Does .prgResponse s ((s.failAll (fun y => y = .pri g.id) 0x2A none).endPri g.id)) ∧
      (a.prg = .failure → Does .prgResponse s ((((s.modCtx g.ctx fun y => { y with priDead := true }).failUnsent).endPri g.id).ctxFatal g.ctx 0x2B))) ∧
    (x.pris.find? (fun r => r.id = a.n0 && r.sent) = none → Does .prgResponse s s) ∧
    (∀ w, x.walks.find? (fun w => w.id = a.n0) = some w →
      (s.mayWalk w = true → Does .walkComplete s (s.walkDone w)) ∧ (s.mayWalk w = false → Does .walkComplete s s)) ∧
    ((∃ m ∈ x.moves, m.kv = none) → Does .tmvdWrite s s) ∧
    (let m : Move := { id := s.fresh, pf := true, ctx := bits n 61 52, va := bits x.tmva.toNat 56 12 * 4096, lg := 12, old := 0, new := bits n 51 12 * 4096, phase := 0 }
     let s1 : State := { s with fresh := s.fresh + 1, xlat := { x with moves := x.moves ++ [m], tmcause := 0 } }
     let p := ((s1.ctx m.ctx).part).getD 0
     let refused := fun (c : Nat) => Does .tmvdWrite s { s1 with xlat := { s1.xlat with tmcause := c, moves := s1.xlat.moves.filter fun y => y.id ≠ s.fresh } }
     (∀ m ∈ x.moves, m.kv ≠ none) →
       (s1.walk [] p m.ctx m.va = .host → refused 0x2D) ∧
       (∀ c lv e, s1.walk [] p m.ctx m.va = .fault c lv e → (c = 0x28 → refused 0x2D) ∧ (c ≠ 0x28 → refused 0x21)) ∧
       (∀ pa, s1.walk [] p m.ctx m.va = .violation pa → refused 0x21) ∧
       (∀ pa, s1.walk [] p m.ctx m.va = .need pa →
         Does .tmvdWrite s (s1.askTable p s.fresh pa fun s v => s.modMove m.id fun m => { m with fetched := Tbl.put m.fetched pa v })) ∧
       (∀ e, s1.walk [] p m.ctx m.va = .leaf e →
         (s1.ownsEnt p e = false → refused 0x21) ∧
         (s1.ownsEnt p e = true →
           (21 < e.lg → refused 0x2C) ∧
           (e.lg ≤ 21 → s1.sharedPage e.pa = true → refused 0x2D) ∧
           (e.lg ≤ 21 → s1.sharedPage e.pa = false → m.new % 2 ^ e.lg ≠ 0 ∨ s1.unmapped m.new = true → refused 0x27) ∧
           (e.lg ≤ 21 → s1.sharedPage e.pa = false → m.new % 2 ^ e.lg = 0 → s1.unmapped m.new = false →
             (s1.ownsPage p m.new (max 21 e.lg) = false → refused 0x90) ∧
             (s1.ownsPage p m.new (max 21 e.lg) = true → ∃ l, Does .tmvdWrite s (s1.modMove s.fresh fun m => { m with
               phase := 1, va := e.va, lg := e.lg, old := e.pa, leaves := l, ta := s.now + 32, ent := some e })))))) ∧
    (∀ m, x.moves.find? (fun m => m.id = a.n0 && decide (m.phase < 2)) = some m → m.phase = 0 →
      ((∀ r ∈ x.reqs, r.for_ ≠ .walk m.id) → Does .tierMoveTa s (s.decideMove m)) ∧ ((∃ r ∈ x.reqs, r.for_ = .walk m.id) → Does .tierMoveTa s s)) ∧
    (x.moves.find? (fun m => m.id = a.n0 && decide (m.phase < 2)) = none → Does .tierMoveTa s s) ∧
    (x.moves.find? (fun m => m.id = a.n0) = none → Does .tierMoveCopyStart s s ∧ Does .tierMoveCopyDone s s ∧ Does .tierMoveEnd s s) ∧
    (x.walks.find? (fun w => w.id = a.n0) = none → Does .walkComplete s s) ∧
    (x.invs.find? (fun i => i.id = a.n0 && i.phase = 1) = none → Does .invalidationTa s s) ∧
    (x.invs.find? (fun i => i.id = a.n0 && !i.ats) = none → Does .invalidationDrained s s) ∧
    (x.invs.find? (fun i => i.id = a.n0 && i.ats) = none → Does .atsInvalidationCompletion s s) ∧
    (∀ m, x.moves.find? (fun m => m.id = a.n0 && decide (m.phase < 2)) = some m → m.phase = 1 → ∃ s1, Does .tierMoveTa s s1 ∧ Dropped s1 (fun e => e.ctx = m.ctx && e.inRange m.va m.lg) ∧
      (∃ y ∈ s1.xlat.moves, y = { m with phase := 2, ta := s.now, stamp := s.fresh }) ∧ s1.mem = s.mem ∧ s1.teams = s.teams) ∧
    (∀ m, x.moves.find? (fun m => m.id = a.n0) = some m →
      (s.mayCopy m = true → (∀ c ∈ s.clusters, ∀ y ∈ c.2.maps, y.2.kind ≠ 1) → 
        let vers := match s.pageDie m.old with
          | some d => (s.launches.filter fun l => l.2.uncommitted && decide (d ∈ l.2.dies)).map Prod.fst
          | none => []
        Does .tierMoveCopyStart s ((s.modMove m.id fun m => { m with phase := 3, vers := vers }).moveOn m.id)) ∧
      (s.mayCopy m = true →
        let s1 := s.recallPage m
        let vers := match s1.pageDie m.old with
          | some d => (s1.launches.filter fun l => l.2.uncommitted && decide (d ∈ l.2.dies)).map Prod.fst
          | none => []
        (s1.pageBusy m = true → Does .tierMoveCopyStart s s1) ∧
        (s1.pageBusy m = false → Does .tierMoveCopyStart s ((s1.modMove m.id fun m => { m with phase := 3, vers := vers }).moveOn m.id))) ∧
      (s.mayCopy m = false → Does .tierMoveCopyStart s s) ∧
      (s.mayEndCopy m = true → m.pos < s.moveLines m → Does .tierMoveCopyDone s (s.moveOn m.id)) ∧
      (s.mayEndCopy m = true → s.moveLines m ≤ m.pos →
        let left := s.launches.any fun l => l.2.uncommitted && ((l.2.shadow.any fun y => m.has y.1) || l.2.deltas.any fun d => m.has (lineNo d.1))
        let out := if s.isLocal m.old && m.launch.isNone && !s.isLocal m.new then s.poolEnt m.new else none
        let s1 := if m.launch = none ∧ s.isLocal m.old = true ∧ s.isLocal m.new = true then s.moveShadows m else s
        let s2 := if m.launch = none then s1.moveRecords m else s1
        let s3 := match m.kv with | some k => s2.writeDirectory m k.1 k.2.1 k.2.2 | none => s2.writeLeaves m
        let s4 := s3.modMove m.id fun m => { m with phase := 4, ent := m.ent.map fun e => { e with pa := m.new, pte := e.pte - ptePa e.pte + m.new } }
        (∀ e, left = true → out = some e → Does .tierMoveCopyDone s (s.sendShadows m e)) ∧
        (∀ m4, left = false ∨ out = none → s4.xlat.moves.find? (fun y => y.id = m.id) = some m4 → Does .tierMoveCopyDone s (s4.releaseQueue m4))) ∧
      (s.mayEndCopy m = false → Does .tierMoveCopyDone s s) ∧
      (s.mayEndMove m = true → m.pf = true → Does .tierMoveEnd s { s with xlat := { x with moves := x.moves.filter (fun y => y.id ≠ m.id), tmdone := (x.tmdone + 1) % 2 ^ 32, tmcause := 0 } }) ∧
      (s.mayEndMove m = true → m.pf = false → Does .tierMoveEnd s { s with xlat := { x with moves := x.moves.filter fun y => y.id ≠ m.id } }) ∧
      (s.mayEndMove m = false → Does .tierMoveEnd s s))

/-- O49. A pool write whose turn it is leaves and raises its fence counter; one to a lost W9L, and one of a viral partition, ends
instead, a card's with error; one that may not leave stays. A completion ends a write that has left and lowers its counter, a
status other than 0 also doing what the status asks, and one without room waiting under WAIT; a completion of a read or atomic
serves what asked for it. A report tells the oldest outstanding epoch of a source. On a W9L capacity is added to the lowest free
extent, which reads zero when the add completes; a release completes once nothing holds an entry there, and the extent is then
to be scrubbed again; each error has its code. A host's or peer's request without an established IDE stream is refused as
unsupported; a host's to a slot that is not mapped, being added or released is refused, one to a bulk-tensor slot and one that
no holder stands against is performed at its home and answered, and any other sends BISnp to the holders and waits; a peer's to
no extent is refused with completer abort and logged, a blocked one is refused, one beyond its reach starts a block, and one
within its reach is performed or waits for holders. A BIRSP clears its holder, and requests with no holder left go on. A
footprint table is kept for a version that has not ended. A W9H does none of these on its own memory. -/
def Obligations.PortEvents : Prop :=
  ∀ (s : State), let a := s.arg
    let p := s.ports
    let out := fun (m : Msg) => ({ s with outbox := s.outbox ++ [m] } : State)
    let tag : BitVec 128 := a.wide.setWidth 128
    (s.fitting = .w9h → Does .addCapacity s s ∧ Does .releaseCapacity s s ∧ Does .footprintTableArrival s s) ∧
    (s.fitting = .w9l →
      (p.tags.find? (fun x => x.1 = tag) = none → Does .addCapacity s (out (.fmReply 2))) ∧
      (∀ t q, p.tags.find? (fun x => x.1 = tag) = some (t, q) →
        (4096 ≤ a.n0 ∨ Tbl.get? p.emap a.n0 ≠ none → Does .addCapacity s (out (.fmReply 0xF))) ∧
        (a.n0 < 4096 → Tbl.get? p.emap a.n0 = none → (∀ e, e < 4095 → s.extentFree e = false) → Does .addCapacity s (out (.fmReply 0x1D))) ∧
        (∀ e, a.n0 < 4096 → Tbl.get? p.emap a.n0 = none → e < 4095 → s.extentFree e = true → (∀ f, f < e → s.extentFree f = false) →
          Does .addCapacity s { s with ports := { p with emap := Tbl.put p.emap a.n0 e, eown := Tbl.put p.eown e q, scrub := p.scrub ++ [a.n0] } })) ∧
      (Tbl.get? p.emap a.n0 = none ∨ a.n0 ∈ p.scrub → Does .releaseCapacity s (out (.fmReply 0xF))) ∧
      (Tbl.get? p.emap a.n0 ≠ none → a.n0 ∉ p.scrub → a.n0 ∈ p.releasing → Does .releaseCapacity s s) ∧
      (Tbl.get? p.emap a.n0 ≠ none → a.n0 ∉ p.scrub → a.n0 ∉ p.releasing → Does .releaseCapacity s { s with ports := { p with releasing := p.releasing ++ [a.n0] } }) ∧
      ((s.link a.n3).carries = false → Does .footprintTableArrival s (out (.peerReply a.n0 1 false 0 []))) ∧
      ((s.link a.n3).carries = true → (a.n0, a.n1, a.n2) ∈ p.ended → Does .footprintTableArrival s (s.heard a.n0 a.n3)) ∧
      ((s.link a.n3).carries = true → (a.n0, a.n1, a.n2) ∉ p.ended → ∃ s1, Does .footprintTableArrival s s1 ∧
        ∃ f ∈ s1.ports.foreign, f.die = a.n0 ∧ f.part = a.n1 ∧ f.ver = a.n2 ∧ f.foot = a.foot ∧ f.chain = a.ns)) ∧
    (a.n0 ∉ p.scrub → Does .addCapacityComplete s s) ∧
    (∀ e, a.n0 ∈ p.scrub → Tbl.get? p.emap a.n0 = some e → ∃ s1, Does .addCapacityComplete s s1 ∧ Zeroed s s1 (e * 2 ^ 28) (2 ^ 28) ∧
      s1.ports = { p with scrub := p.scrub.filter (· ≠ a.n0) } ∧ s1.outbox = s.outbox ++ [.fmReply 0] ∧ s1.teams = s.teams) ∧
    (s.mayRelease a.n0 = false → Does .releaseCapacityComplete s s) ∧
    (∀ e, s.mayRelease a.n0 = true → Tbl.get? p.emap a.n0 = some e → ∃ l, Does .releaseCapacityComplete s { s with
      ports := { p with
        emap := Tbl.del p.emap a.n0, eown := Tbl.del p.eown e, releasing := p.releasing.filter (· ≠ a.n0), rescrub := l
        mons := p.mons.filter fun m => extentOf m.pa ≠ e }
      outbox := s.outbox ++ [.fmReply 0] } ∧ ∀ x, x ∈ l ↔ x = e ∨ x ∈ p.rescrub) ∧
    (let reach := s.fitting = .w9l ∧ a.n0 < 16 ∧ (s.link (linkNo a.n2 a.n3)).ide = true
     let s1 := s.heard (4096 + a.n0) (linkNo a.n2 a.n3)
     let refused := Does .hostMemRequest s (s1.emit (.hostReply a.n0 false false 0))
     (¬ reach → Does .hostMemRequest s (out (.hostReply a.n0 false false 0))) ∧
     (reach → s.dpaPa a.n1 = none → refused) ∧
     (∀ pa, reach → s.dpaPa a.n1 = some pa → s.adding pa = true ∨ s.releasing pa = true → refused) ∧
     (∀ pa, reach → s.dpaPa a.n1 = some pa → s.adding pa = false → s.releasing pa = false →
       let ln := lineNo pa
       let own := (Tbl.get? p.eown (extentOf pa)).getD 0
       let r := s1.homeOp (2 ^ 12 + a.n0) pa own a.op
       let go := r.2.emit (.hostReply a.n0 (decide (r.1.1 = 0)) r.1.2.1 r.1.2.2.1)
       let wait (line : Nat) (b : BitVec 16) := s1.snoopFor { line := line, bi := b, host := some a.n0, pbr := none, dpa := a.n1, op := a.op }
       let reads := a.op = .read ∨ a.op = .readExcl
       (s.bulkSlot (a.n1 / 2 ^ 28) = true → Does .hostMemRequest s go) ∧
       (s.bulkSlot (a.n1 / 2 ^ 28) = false →
         (s1.asksHolders a.op ln (some a.n0) = true → Does .hostMemRequest s (wait ln (s1.holders ln (some a.n0)))) ∧
         (s1.asksHolders a.op ln (some a.n0) = false →
           (¬ reads → Does .hostMemRequest s go) ∧
           (∀ v, reads → s1.snoopVictim ln = some v → Does .hostMemRequest s (wait v.1 v.2.bi)) ∧
           (reads → s1.snoopVictim ln = none → Does .hostMemRequest s (go.hold ln a.n0 (decide (a.op = .readExcl)))))) ∧
       (s.bulkSlot (a.n1 / 2 ^ 28) = true → a.op = .read → ∃ s2, Does .hostMemRequest s s2 ∧ s2.outbox = s.outbox ++ [.hostReply a.n0 true (s.poisoned pa) (memLine s.mem pa)] ∧ s2.mem = s.mem) ∧
       (∀ m d po, s.bulkSlot (a.n1 / 2 ^ 28) = true → a.op = .write m d po → s.launches = [] →
         ∃ s2, Does .hostMemRequest s s2 ∧ s2.mem = memPutLine s.mem pa m d ∧ s2.outbox = s.outbox ++ [.hostReply a.n0 true false 0]))) ∧
    (s.fitting = .w9h → (s.link 0).carries = true → Does .h2dSnoop s (out (.snoopReply a.n0))) ∧
    (s.fitting = .w9l ∨ (s.link 0).carries = false → Does .h2dSnoop s s) ∧
    (let l := linkNo a.n1 a.n3
     let d := a.n0 % 4096
     let s1 := s.heard d l
     let viewless := a.op = .read ∨ a.op = .readExcl ∨ (∃ m x po, a.op = .write m x po) ∨ ∃ fn ty off x e, a.op = .atomic fn ty off x e
     (s.fitting = .w9h ∨ (s.link l).ide = false → Does .peerRequest s (out (.peerReply a.n0 1 false 0 []))) ∧
     (s.fitting = .w9l → (s.link l).ide = true →
       Does .peerRequest s (s1.peerReq d a.n2 a.op) ∧
       (viewless →
         let drops := Does .peerRequest s ((s1.logIt (.peerRefused d a.n2 s.now)).emit (.peerReply d 4 false 0 []))
         (s.dpaPa a.n2 = none → drops) ∧
         (∀ pa, s.dpaPa a.n2 = some pa →
           (Tbl.get? p.eown (extentOf pa) = none → drops) ∧
           (∀ own, Tbl.get? p.eown (extentOf pa) = some own →
             (s.adding pa = true → drops) ∧
             (s.adding pa = false →
               ((d, own) ∈ p.blocked → Does .peerRequest s (s1.emit (.peerReply d 4 false 0 []))) ∧
               ((d, own) ∉ p.blocked → Config.peerReach d own = false → ∃ s2, Does .peerRequest s s2 ∧ (∀ x, x ∈ s2.ports.blocked ↔ x = (d, own) ∨ x ∈ p.blocked) ∧
                 s2.mil.log = s.mil.log ++ [.violation 6 d a.n2 1 s.now] ∧ Msg.peerReply d 4 false 0 [] ∈ s2.outbox ∧ s2.mem = s.mem) ∧
               ((d, own) ∉ p.blocked → Config.peerReach d own = true →
                 (s.releasing pa = true → Does .peerRequest s (s1.emit (.peerReply d 4 false 0 []))) ∧
                 (s.releasing pa = false →
                   (s.bulkSlot (a.n2 / 2 ^ 28) = false → s1.asksHolders a.op (lineNo pa) none = true → Does .peerRequest s
                     (s1.snoopFor { line := lineNo pa, bi := s1.holders (lineNo pa) none, host := none, pbr := some d, dpa := a.n2, op := a.op })) ∧
                   (s.bulkSlot (a.n2 / 2 ^ 28) = true ∨ s1.asksHolders a.op (lineNo pa) none = false →
                     let r := s1.homeOp d pa own a.op
                     Does .peerRequest s (r.2.emit (.peerReply d r.1.1 r.1.2.1 r.1.2.2.1 r.1.2.2.2))))))))))) ∧
    ((∀ w ∈ p.swait, w.line ≠ a.n1) → Does .birsp s s) ∧
    (let clear := fun (b : BitVec 16) => b &&& ~~~((1 : BitVec 16) <<< a.n0)
     (∃ w ∈ p.swait, w.line = a.n1) → ∃ s1 : State, Does .birsp s s1.runWaits ∧ { s1 with ports := { s1.ports with snoop := p.snoop, swait := p.swait } } = s ∧
       s1.ports.swait = p.swait.map (fun w => if w.line = a.n1 then { w with bi := clear w.bi } else w) ∧
       (∀ y, Tbl.get? p.snoop a.n1 = some y → Tbl.get? s1.ports.snoop a.n1 = if clear y.bi = 0 then none else some { y with bi := clear y.bi }) ∧
       (∀ j, j ≠ a.n1 → Tbl.get? s1.ports.snoop j = Tbl.get? p.snoop j) ∧
       ((∀ w ∈ s1.ports.swait, w.bi ≠ 0) → s1.runWaits = s1)) ∧
    (p.q.find? (fun w => w.id = a.n0) = none → Does .poolWriteLeave s s ∧ Does .poolWriteCompletion s s) ∧
    (∀ w, p.q.find? (fun w => w.id = a.n0) = some w →
      (s.mayLeave w = false → Does .poolWriteLeave s s) ∧
      (s.mayLeave w = true → s.lostW w = true → Does .poolWriteLeave s (s.portDone w)) ∧
      (s.mayLeave w = true → s.lostW w = false → (s.part w.part).drops s.now = true → Does .poolWriteLeave s ((s.portDone w).dropCard w)) ∧
      (s.mayLeave w = true → s.lostW w = false → (s.part w.part).drops s.now = false → ∃ s1, Does .poolWriteLeave s s1 ∧
        Tbl.get? s1.ports.fence (w.src * 8 + w.link) = some (Tbl.getD p.fence (w.src * 8 + w.link) 0 + 1) ∧
        s1.ports.q = p.q.map (fun x => if x.id = w.id then { x with left := true, since := s.now, timed := false, stall := [] } else x) ∧
        s1.outbox = s.outbox ++ [match w.cont with | some c => .cont w.link c | none => .poolReq w.link w.id w.dpa w.op] ∧ s1.mem = s.mem ∧ s1.launches = s.launches) ∧
      (w.left = false → s.unsupported w = false ∨ a.n1 ≠ 1 → Does .poolWriteCompletion s s) ∧
      (w.left = true ∨ (s.unsupported w = true ∧ a.n1 = 1) →
        let s1 := s.answered (some w.pbr) a.n1
        let ended (x : State) := if x.ports.q.any (fun y => y.id = w.id) = true then x.portDone w else x
        (a.n1 = 0 → Does .poolWriteCompletion s (s1.portDone w).sendHeld) ∧
        (a.n1 ≠ 0 → a.n1 ≠ 0x4F → Does .poolWriteCompletion s (ended (s1.writeRefused w a.n1)).sendHeld) ∧
        (∀ ls, a.n1 = 0x4F → s1.roomAfter w.launch = some ls → Does .poolWriteCompletion s (s1.stallW w ls).sendHeld) ∧
        (a.n1 = 0x4F → s1.roomAfter w.launch = none → Does .poolWriteCompletion s (ended (s1.writeRefused w a.n1)).sendHeld)) ∧
      (w.left = true → a.n1 = 0 → w.cont = none → ∃ s1, Does .poolWriteCompletion s s1 ∧ (∀ x ∈ s1.ports.q, x.id ≠ w.id) ∧
        Tbl.getD s1.ports.fence (w.src * 8 + w.link) 0 = Tbl.getD p.fence (w.src * 8 + w.link) 0 - 1 ∧ s1.mem = s.mem ∧ s1.launches = s.launches)) ∧
    Does .epochDrainReport s { s with ports := { p with drained := Tbl.putD p.drained a.n0 (s.oldestEpoch a.n0) 0 } } ∧
    (s.xlat.reqs.find? (fun r => r.tag = a.n0) = none → Does .cxlCompletion s s) ∧
    (∀ r, s.xlat.reqs.find? (fun r => r.tag = a.n0) = some r →
      ((∃ c, r.for_ = .ats c) ∨ (r.msg.isSome = true ∧ (s.refusedHere r = false ∨ a.n1 ≠ 1)) → Does .cxlCompletion s s) ∧
      ((∀ c, r.for_ ≠ .ats c) → r.msg = none ∨ (s.refusedHere r = true ∧ a.n1 = 1) →
        let s1 := ({ s with xlat := { s.xlat with reqs := s.xlat.reqs.filter fun x => x.tag ≠ r.tag } } : State).answered r.pbr a.n1
        (s1.reqRefused r a.n1 = none → Does .cxlCompletion s (s1.serve r a.n1 a.flag (a.wide.setWidth 512) (words 1024 a.bytes)).sweep.sendHeld) ∧
        (∀ s2, s1.reqRefused r a.n1 = some s2 → Does .cxlCompletion s s2.sweep.sendHeld)))

/-- O50. While its trace ring is full a partition admits nothing. Else a head whose issuing launch has ended leaves with its record;
a head that has just come up has its first line read; and when the partition may admit, the first head in the order of R234
is refused with its record, held, waits for its structures, or becomes a launch with its version and its edges, the version
counter advancing and the next admission 8 ticks later. A launch whose edges are met starts with its gangs counted, or aborts
with 0x54 when no cluster could hold a group of it; a placed group's teams stand at their entry points. A complete launch whose
commit may be scheduled gathers 96 reports, or the answers of its W9L homes first; it gets the time of R211 and flips when device
time reaches it: its lines and deltas become committed memory, and each home is told. A refused or late prepare aborts with
0x52. A W9L home locks, flips, or discards a version and answers; over a link without an IDE stream it answers that this is
unsupported. A query is answered with the outcome, an unprepared launch aborting with 0x52. Held host writes are translated again
and sent, dropped in viral mode, or end with 0x29 when they fault; a record is written at the producer's slot, and one that
faults is dropped with cerr. An event whose condition does not hold changes nothing. -/
def Obligations.LaunchEvents : Prop :=
  ∀ (s : State), let k := s.arg.n0
    let l := s.launch k
    let d := s.arg.n0
    let p := s.arg.n1
    let v := s.arg.n2
    ((s.part k).traceFull = true → Does .launchAdmission s s) ∧
    ((s.part k).traceFull = false →
      let hs := s.heads k
      let lined (h : Head) := (h.2.2.addrOk && (s.headLine h).isNone && s.headFree h) = true
      let sorted := hs.foldl (fun acc h =>
        if h.2.2.addrOk = false then headInsert (0, h) acc
        else match s.headLine h with
          | some (line, bad) => headInsert (if bad = true then 0 else bits (leNat line) 13 12, h) acc
          | none => acc) []
      (∀ h x y, hs.find? (fun h => h.2.2.dead.isSome) = some h → h.2.2.dead = some y → Tbl.get? s.ctxs h.1 = some x → x.crecs.length < 64 → x.clate = [] →
        ∃ s1, Does .launchAdmission s s1 ∧ CtxChanged s s1 h.1 ∧ ((s1.ctx h.1).stream h.2.1).pend = (x.stream h.2.1).pend.tail ∧ (s1.ctx h.1).clate = [] ∧
          (s1.ctx h.1).crecs = x.crecs ++ [{ pid := h.2.2.id, time := s.now, ver := 0, lid := y, cause := 0x4B, status := 1, stream := h.2.1 }]) ∧
      ((∀ h ∈ hs, h.2.2.dead = none) →
        (∀ h, hs.find? (fun h => h.2.2.addrOk && (s.headLine h).isNone && s.headFree h) = some h → Does .launchAdmission s (s.readHead h)) ∧
        ((∀ h ∈ hs, ¬ lined h) →
          (s.partAdmits k = false ∨ sorted = [] → Does .launchAdmission s s) ∧
          (∀ h r, s.partAdmits k = true → sorted = h :: r →
            (∀ y ∈ r, headBefore y h = false) ∧
            (s.headFree h.2 = false → Does .launchAdmission s s) ∧
            (s.headFree h.2 = true →
              (h.2.2.2.addrOk = false → Does .launchAdmission s (s.refuseHead h.2 0x48 0xFFFFFF)) ∧
              (∀ c i log s1, s.judge k h.2 = .refuse c i log s1 →
                Does .launchAdmission s ((if log = true then s1.logIt (.headerCheck h.2.1 h.2.2.2.addr.toNat s.now) else s1).refuseHead h.2 c i)) ∧
              (∀ s1, s.judge k h.2 = .hold s1 → r = [] → Does .launchAdmission s s) ∧
              (∀ s1, s.judge k h.2 = .wait s1 → Does .launchAdmission s s1) ∧
              (∀ x s1 P, s.judge k h.2 = .admits x s1 → Tbl.get? s1.parts k = some P →
                (P.viral = none → ∃ s2, Does .launchAdmission s s2 ∧
                  Tbl.get? s2.launches (launchKey k x.ver) = some { head := x, edges := (s1.launches.filter fun l => l.2.head.part = k && l.2.uncommitted && footClash l.2.head.foot x.foot).map Prod.fst } ∧
                  (s2.part k).verNext = (P.verNext + 1) % 2 ^ 24 ∧ (s2.part k).lastAdmit = s1.now + 8 ∧ s2.teams = s1.teams) ∧
                Does .launchAdmission s (s1.admitHead k h.2 x))))))) ∧
    (s.mayStart k = false → Does .launchStart s s) ∧
    (s.mayStart k = true → s.bestFit k true = none → Does .launchStart s (s.abortLaunch k 0x54 1)) ∧
    (s.mayStart k = true → (s.bestFit k true).isSome = true → ∃ s1, Does .launchStart s s1 ∧
      Tbl.get? s1.launches k = some { l with st := .started, gangs := (l.head.wcnt.drop 2).foldl (· * ·) 1, nextGang := 0 } ∧
      (∀ j, j ≠ k → Tbl.get? s1.launches j = Tbl.get? s.launches j) ∧ s1.teams = s.teams) ∧
    (s.mayPlace k = false → Does .placementGroupPlaced s s) ∧
    (∀ f, s.mayPlace k = true → s.bestFit k false = some f → ∃ s1 l1, Does .placementGroupPlaced s s1 ∧ Tbl.get? s1.launches k = some l1 ∧
      l1.nextGang = l.nextGang + 1 ∧ l1.live = l.live + f.teams.length ∧ l1.st = l.st ∧ s1.mem = s.mem ∧
      (∀ j t, Tbl.get? s.teams j = some t → Tbl.get? s1.teams j = some t) ∧
      (∀ a g core slot stash i, l.head.groupTeams = [(a, 0, g)] → f.teams = [(core, slot, stash)] → s.newIndex l.head.part = some i →
        ∃ t, Tbl.get? s1.teams (teamKey l.head.part i) = some t ∧ t.flow.pc = BitVec.ofNat 64 g.entry ∧ t.flow.D = ones g.lanes ∧ t.flow.pres = ones g.lanes ∧
          t.regs.lanes = g.lanes ∧ t.regs.allot = g.vregs ∧ t.regs.s = [] ∧ t.id.slot = 16 * core + slot ∧ t.id.launch = k ∧ t.id.gang = l.nextGang ∧
          t.sync.stashBase = stash ∧ t.sync.stashLen = 64 * g.stash)) ∧
    (s.mayCommit k = false → Does .commitSchedule s s) ∧
    (s.mayCommit k = true →
      let dies := l.dies.filter fun d => !s.goneDie d
      ∃ s1, Does .commitSchedule s s1 ∧ s1.teams = s.teams ∧ (∀ j, j ≠ k → Tbl.get? s1.launches j = Tbl.get? s.launches j) ∧ s1.ports.q.length = s.ports.q.length + dies.length ∧
        (∀ w ∈ s1.ports.q, w ∈ s.ports.q ∨ (w.op = .prepare l.head.part l.head.ver ∧ w.pbr ∈ dies ∧ w.launch = some k ∧ w.commitUnit = true ∧ w.after = l.gwctMax)) ∧
        (dies = [] → Tbl.get? s1.launches k = some { l with st := .notified s.now [], dies := [] }) ∧
        (dies ≠ [] → Tbl.get? s1.launches k = some { l with st := .preparing s.now dies [], dies := dies })) ∧
    (∀ ts hs, Tbl.get? s.launches k = some l → l.st = .notified ts hs →
      (p < 96 → Tbl.get? hs p = none → Does .commitNotice s (s.modLaunch k fun l => { l with st := .notified ts (Tbl.put hs p (s.homeExpiry l p)) })) ∧
      (96 ≤ p ∨ (Tbl.get? hs p).isSome = true → Does .commitNotice s s) ∧
      (hs.length ≠ 96 → Does .commitReportsIn s s) ∧
      (hs.length = 96 → ∃ s1 t, Does .commitReportsIn s s1 ∧ s1 = { s with launches := s1.launches } ∧ Tbl.get? s1.launches k = some { l with st := .timed ts t hs } ∧
        ts + 96 + 32 ≤ t ∧ (∀ x ∈ hs, x.2 + 32 ≤ t) ∧ (t = ts + 96 + 32 ∨ ∃ x ∈ hs, t = x.2 + 32))) ∧
    (∀ ts t hs, Tbl.get? s.launches k = some l → l.st = .timed ts t hs →
      (s.now < t → Does .commitFlip s s) ∧
      (t ≤ s.now → Does .commitFlip s (s.flip k t) ∧
        (∀ d ∈ l.dies, s.goneDie d = false → ∃ n, Msg.poolCommit n d l.head.part l.head.ver ∈ (s.flip k t).outbox) ∧
        (∀ pa d, l.kv = [] → l.shadow = [] → l.deltas = [(pa, d)] → s.lostAt pa = false → s.traces l.head.ctx 0 = false →
          (s.flip k t).mem = memPuts s.mem pa (leBytes d.esz (d.addTo (memNat s.mem pa d.esz)))) ∧
        (l.kv = [] → l.dies = [] → l.deltas = [] → s.traces l.head.ctx 0 = false →
          (s.flip k t).mem = (s.flipLines l.shadow []).mem ∧ (s.flip k t).teams = s.teams ∧
          (∃ l1, Tbl.get? (s.flip k t).launches k = some l1 ∧ l1.st = .flipped t ∧ l1.shadow = [] ∧ l1.held = l.held) ∧
          (∀ n x, l.shadow = [(n, x)] → s.lostAt (64 * n) = false → (s.flip k t).mem = memPutLine s.mem (64 * n) x.mask x.data)))) ∧
    (∀ since dies acked, Tbl.get? s.launches k = some l → l.st = .preparing since dies acked →
      (p ∉ dies → Does .prepareAcknowledged s s) ∧
      (p ∈ dies → s.arg.flag = false → Does .prepareAcknowledged s (s.abortLaunch k 0x52 1)) ∧
      (p ∈ dies → s.arg.flag = true → (∀ x ∈ dies, x = p ∨ x ∈ acked) → Does .prepareAcknowledged s (s.modLaunch k fun l => { l with st := .notified s.now [] })) ∧
      (p ∈ dies → s.arg.flag = true → p ∉ acked → (∃ x ∈ dies, x ≠ p ∧ x ∉ acked) → Does .prepareAcknowledged s (s.modLaunch k fun l => { l with st := .preparing since dies (acked ++ [p]) })) ∧
      (since + 1050000 ≤ s.now → Does .prepareTimeout s (s.abortLaunch k 0x52 1)) ∧
      (s.now < since + 1050000 → Does .prepareTimeout s s)) ∧
    ((∀ x, Tbl.get? s.launches k = some x → (∀ a b, x.st ≠ .notified a b)) → Does .commitNotice s s ∧ Does .commitReportsIn s s) ∧
    ((∀ x, Tbl.get? s.launches k = some x → (∀ a b c, x.st ≠ .timed a b c)) → Does .commitFlip s s) ∧
    ((∀ x, Tbl.get? s.launches k = some x → (∀ a b c, x.st ≠ .preparing a b c)) → Does .prepareAcknowledged s s) ∧
    ((∀ a b c, l.st ≠ .preparing a b c) → Does .prepareTimeout s s) ∧
    ((s.link s.arg.n3).carries = false →
      ∀ i ∈ [Instr.poolPrepare, .poolCommitMessage, .poolAbortMessage, .outcomeQuery], Does i s { s with outbox := s.outbox ++ [.peerReply d 1 false 0 []] }) ∧
    ((s.link s.arg.n3).carries = true →
      let sh := s.heard d s.arg.n3
      ((∃ f ∈ s.ports.foreign, f.is d p v = true) → ∃ s1, Does .poolPrepare s s1 ∧ s1.outbox = s.outbox ++ [.peerReply d 0 false 0 []] ∧ s1.mem = s.mem ∧
        ∀ f ∈ s1.ports.foreign, f.is d p v = true → f.locked = true) ∧
      ((∀ f ∈ s.ports.foreign, f.is d p v = false) → Does .poolPrepare s (sh.emit (.peerReply d 1 false 0 []))) ∧
      (s.flipHeld d p v = [] → ∃ s1, Does .poolCommitMessage s s1 ∧ Msg.peerReply d 0 false 0 [] ∈ s1.outbox ∧
        s1.mem = (s.flipLines (s.foreignOf d p v).shadow (s.foreignOf d p v).deltas).mem ∧
        s1.ports.foreign = s.ports.foreign.filter (fun f => !f.is d p v) ∧ s1.teams = s.teams ∧ s1.launches = s.launches) ∧
      (∀ ln r, s.flipHeld d p v = ln :: r → ∃ s1, Does .poolCommitMessage s s1 ∧ s1.mem = s.mem ∧ s1.ports.foreign = s.ports.foreign ∧
        ∃ w ∈ s1.ports.swait, w.line = ln ∧ w.pbr = some d ∧ w.op = .commit p v ∧ ∀ i, i < 16 → w.bi.getLsbD i = true → Msg.biSnp i ln ∈ s1.outbox) ∧
      (∃ s1, Does .poolAbortMessage s s1 ∧ s1.outbox = s.outbox ++ [.peerReply d 0 false 0 []] ∧ s1.mem = s.mem ∧ s1.ports.foreign = s.ports.foreign.filter (fun f => !f.is d p v) ∧
        (∀ t ∈ s1.teams, ¬ (t.2.id.foreign = true ∧ t.2.id.oteam / 2 ^ 20 = d ∧ t.2.id.opart = p ∧ t.2.id.lver = v)) ∧ (d, p, v) ∈ s1.ports.ended ∧ s1.launches = s.launches) ∧
      (∀ lk x, s.launches.find? (fun l => l.2.head.part = p && l.2.head.ver = v) = some (lk, x) →
        (x.st = .prepared ∨ (∃ a b, x.st = .notified a b) ∨ (∃ a b c, x.st = .timed a b c) ∨ (∃ a, x.st = .flipped a) → Does .outcomeQuery s { s with outbox := s.outbox ++ [.outcome d p v true] }) ∧
        (x.st = .waiting ∨ x.st = .started ∨ x.st = .done ∨ (∃ a b c, x.st = .preparing a b c) → Does .outcomeQuery s ((s.abortLaunch lk 0x52 1).emit (.outcome d p v false)))) ∧
      (s.launches.find? (fun l => l.2.head.part = p && l.2.head.ver = v) = none →
        Does .outcomeQuery s { s with outbox := s.outbox ++ [.outcome d p v (s.ctxs.any fun c => c.2.part = some p && c.2.retired.any fun r => r.ver = v && r.committed)] })) ∧
    (s.nextHeld k = none → Does .heldHostWritesSend s s) ∧
    (∀ h, s.nextHeld k = some h →
      ((s.part l.head.part).drops s.now = true → Does .heldHostWritesSend s (s.heldDone k h.va false)) ∧
      ((s.part l.head.part).drops s.now = false →
        let who := Serves.held k h.va
        let u := s.unitXlat (s.agent who l.head.ctx none) .store (h.va + (List.range 64).findIdx fun i => h.mask.getLsbD i) 1
        (∀ w s1, u = .wait w s1 → Does .heldHostWritesSend s (s1.modFetch who fun f => { f with wait := w })) ∧
        (∀ c s1, u = .fault c s1 → Does .heldHostWritesSend s (s1.heldDone k h.va true)) ∧
        (∀ y r s1, u = .freeze y r s1 → Does .heldHostWritesSend s (s1.heldDone k h.va true)) ∧
        (∀ sg s1, u = .ok sg s1 → sg.host = true →
          ∃ s2, Does .heldHostWritesSend s s2 ∧ (∃ q ∈ s2.xlat.reqs, q.tag = s1.fresh ∧ q.for_ = who ∧ q.write = true) ∧
            (s1.viaFree (hostVia sg.shared) = true → s2.outbox = s1.outbox ++ [.hostWrite s1.fresh (lineBase sg.pa) h.mask h.data h.pois sg.shared]) ∧ s2.mem = s1.mem ∧ s2.teams = s1.teams) ∧
        (∀ sg s1, u = .ok sg s1 → sg.host = false → s1.isLocal (lineBase sg.pa) = true →
          (s1.hostHolds (lineNo (lineBase sg.pa)) = true →
            Does .heldHostWritesSend s ((s1.snoopOut (lineNo (lineBase sg.pa))).modFetch who fun f => { f with wait := .snoop })) ∧
          (s1.hostHolds (lineNo (lineBase sg.pa)) = false → Does .heldHostWritesSend s
            (((s1.recallAll (lineNo (lineBase sg.pa))).commitLine (lineBase sg.pa) h.mask h.data h.pois (decide (h.mask = BitVec.allOnes 64))).heldDone k h.va false))))) ∧
    (s.nextRecord k = none → Does .completionRecordWrite s s) ∧
    (∀ r, s.nextRecord k = some r →
      ((s.ctx k).slots = none → Does .completionRecordWrite s (s.modCtx k Ctx.shiftRec)) ∧
      (∀ n, (s.ctx k).slots = some n →
        let x := s.ctx k
        let w := s.unitWrite (s.agent (.crec k) k none) none (bits x.cbase.toNat 56 12 * 4096 + x.cprod % n * 16) (leBytes 16 (r.word x.cprod n))
        (∀ t s1 y, w = .ok t s1 → Tbl.get? s1.ctxs k = some y → ∃ s2, Does .completionRecordWrite s s2 ∧ (s2.ctx k).cprod = y.cprod + 1 ∧ (s2.ctx k).crecs = y.shiftRec.crecs ∧
          ((s2.ctx k).stream r.stream).done = ((y.stream r.stream).done + 1) % 65536 ∧ s2.mem = s1.mem) ∧
        (∀ q s1, w = .wait q s1 → Does .completionRecordWrite s (s1.modFetch (.crec k) fun f => { f with wait := q })) ∧
        (∀ y q s1, w = .freeze y q s1 → Does .completionRecordWrite s (s1.modCtx k fun x => { x.shiftRec with cerr := true })) ∧
        (∀ c s1, w = .fault c s1 → Does .completionRecordWrite s (s1.modCtx k fun x => { x.shiftRec with cerr := true }))))

/-- O51. A cluster is inspected once at each multiple of 256 ticks, and a posting lapses after 4,096. The permitted set is renewed at
multiples of 4,096 ticks with scores halved, and a team ready all along keeps its wait; a team ready for 65,536 ticks ages. A turn
ends by R257: the next context begins, or the outgoing one stops issuing and its postings lapse; the save that follows, dirty
mapped lines first, gives the turn to the next context, and a landed team on a removed quarter moves to another. A team with
nothing half done keeps registers and flow over an eviction or a save; an evicted team whose wait is over may come back; a restore
takes a slot of the core of its own position, in another slot with a new epoch. A retirement frees its team's allocations, ends
it, lowers its launch's count and keeps its largest completion time. A release wait ends when its completions have returned and
their time is past. A long result is written to its registers, but where a later write decided otherwise, and a returned time
raises the team's completion time. An event whose condition does not hold changes nothing. -/
def Obligations.SchedulingEvents : Prop :=
  ∀ (s : State), let k := s.arg.n0
    let p := s.arg.n0
    let t := s.team k
    (s.now % 256 ≠ 0 ∨ s.marked 0 k = true → Does .balancerInspection s s) ∧
    (s.now % 256 = 0 → s.marked 0 k = false → Does .balancerInspection s ((s.balance k).mark 0 k) ∧
      (∀ lk l x y, s.launches = [(lk, l)] → (∀ q ∈ l.posts, q.cluster ≠ k) → balanceBest (s.balancePairs lk k) = some (x, y) →
        s.balance k = { s with launches := [(lk, { l with posts := l.posts ++ [{ cluster := k, b := y.1.stage, a := x.1.stage, at_ := s.now }] })] })) ∧
    (∃ s1, Does .postingLapse s s1 ∧ s1 = { s with launches := s1.launches } ∧
      (∀ l, Tbl.get? s.launches s.arg.n1 = some l → Tbl.get? s1.launches s.arg.n1 = some { l with posts := l.posts.filter fun q => !(q.cluster = k && decide (q.at_ + 4096 ≤ s.now)) }) ∧
      (∀ j, j ≠ s.arg.n1 → Tbl.get? s1.launches j = Tbl.get? s.launches j)) ∧
    (s.now % 4096 ≠ 0 ∨ s.marked 1 0 = true → Does .throttleInterval s s) ∧
    (s.now % 4096 = 0 → s.marked 1 0 = false →
      (∃ s1, Does .throttleInterval s s1 ∧ s1.marked 1 0 = true ∧ s1.mem = s.mem ∧ ∀ j x, Tbl.get? s.teams j = some x → ∃ y, Tbl.get? s1.teams j = some y ∧ y.regs = x.regs ∧ y.flow = x.flow ∧ y.sync = x.sync ∧ y.id = x.id) ∧
      (∀ j x, s.teams = [(j, x)] → x.resident = true → Does .throttleInterval s (({ s with teams := [(j, { x with sched := { x.sched with permitted := true, score := x.sched.score / 2, readySince := if s.barred x = true then s.now else x.sched.readySince } })] } : State).mark 1 0))) ∧
    (s.ages t = true → Tbl.get? s.teams k = some t → Does .agingPromotion s (s.setTeam k { t with sched := { t.sched with aged := true } })) ∧
    (s.ages t = false → Does .agingPromotion s s) ∧
    (s.turnOver p = false → Does .turnEnd s s) ∧
    (s.turnOver p = true →
      (∀ n, s.tilesFit → (s.part p).running = none → s.nextCtx p none = some n → ∃ s1, Does .turnEnd s s1 ∧ (s1.part p).running = some n ∧ (s1.part p).turnEnd = s.now + s.turnLen p n ∧ s1.mem = s.mem ∧ s1.teams = s.teams) ∧
      (∀ c, (s.part p).running = some c →
        (s.nextCtx p (some c) = none → Does .turnEnd s (s.modPart p fun P => { P with turnEnd := s.now + s.turnLen p c })) ∧
        (∀ n, s.tilesFit → s.nextCtx p (some c) = some n → s.ctxTeams p c = [] → s.uncreated p c = false → ∃ s1, Does .turnEnd s s1 ∧ (s1.part p).running = some n ∧ (s1.part p).turnEnd = s.now + s.turnLen p n ∧ s1.mem = s.mem ∧ s1.teams = s.teams) ∧
        (∀ n, s.nextCtx p (some c) = some n → s.ctxTeams p c ≠ [] ∨ s.uncreated p c = true → ∃ s1, Does .turnEnd s s1 ∧ (s1.part p).quiescing = true ∧ (s1.part p).running = some c ∧ s1.mem = s.mem ∧
          (∀ x ∈ s1.launches, x.2.head.part = p → x.2.head.ctx = c → x.2.posts = [])))) ∧
    (s.maySave p = false → Does .quiescenceSave s s) ∧
    (s.maySave p = true → s.unflushed (saveOrder (s.leavers p)) = true → Does .quiescenceSave s (s.flushTeams (saveOrder (s.leavers p)))) ∧
    (∀ c, s.maySave p = true → s.unflushed (saveOrder (s.leavers p)) = false → (s.part p).quiescing = true → (s.part p).running = some c → s.displaced p = [] → s.tilesFit →
      (∀ x ∈ s.leavers p, x.2.StopsWhole) →
      ∃ s1 n, Does .quiescenceSave s s1 ∧ (s1.part p).running = some n ∧ (s1.part p).quiescing = false ∧ (n = c ∨ s.nextCtx p (some c) = some n) ∧
        ∀ j x, s.leavers p = [(j, x)] → Tbl.get? s.teams j = some x → x.id.loc = .resident → ∃ y, Tbl.get? s1.teams j = some y ∧ y.id.loc = .saved ∧ y.regs = x.regs ∧ y.flow = x.flow) ∧
    (∀ j x core n, s.maySave p = true → s.leavers p = [] → (s.part p).quiescing = false → s.displaced p = [(j, x)] → Tbl.get? s.teams j = some x → x.StopsWhole →
      (s.refuges x).find? (fun c => s.coreRoom c x.rows) = some core → s.freeSlot core = some n →
      ∃ s1 y, Does .quiescenceSave s s1 ∧ Tbl.get? s1.teams j = some y ∧ y.id = { x.id with slot := 16 * core + n } ∧ y.regs = x.regs ∧ y.flow = x.flow ∧ s1.mem = s.mem) ∧
    (s.mayEvict k t = false → Does .teamEviction s s) ∧
    (s.mayEvict k t = true → t.StopsWhole → t.sync.tm.active = false → ∃ s1 y, Does .teamEviction s s1 ∧ Tbl.get? s1.teams k = some y ∧ y.id = { t.id with loc := .evicted, ready := false } ∧ y.regs = t.regs ∧ y.flow = t.flow ∧
      (∀ j, j ≠ k → Tbl.get? s1.teams j = Tbl.get? s.teams j) ∧ s1.mem = s.mem ∧ s1.launches = s.launches) ∧
    (s.wakes k t = false → Does .wakeConditionMet s s) ∧
    (s.wakes k t = true →
      ((t.sync.park = .exitJoin → t.flow.away ≠ 0) → (∀ a n, t.sync.park = .barrier a n → s.parkOver k t = false) → (∀ g, t.sync.park = .bdev g → s.now ≤ g) →
        ∃ s1 y, Does .wakeConditionMet s s1 ∧ Tbl.get? s1.teams k = some y ∧ y.id = { t.id with ready := true } ∧ y.regs = t.regs ∧ y.flow = t.flow ∧ (∀ j, j ≠ k → Tbl.get? s1.teams j = Tbl.get? s.teams j) ∧ s1.mem = s.mem) ∧
      (t.sync.park = .exitJoin → t.flow.away = 0 → Does .wakeConditionMet s (s.setTeam k { t with
        id := { t.id with ready := true }
        flow := { t.flow with exited := t.flow.exited ||| t.flow.ret, ret := 0 }
        sync := { t.sync with park := .retire, fetch := {} } })) ∧
      (∀ a n, t.sync.park = .barrier a n → s.parkOver k t = true → Does .wakeConditionMet s ((s.barWake k t a).modTeam k fun y => { y with
        id := { y.id with ready := (match y.sync.park with | .bdev _ => (s.barWake k t a).landRoom y | _ => true) }, sync := { y.sync with fetch := {} } })) ∧
      (∀ g, t.sync.park = .bdev g → g < s.now → Does .wakeConditionMet s ((s.barDone k (some g)).modTeam k fun y => { y with
        id := { y.id with ready := (match y.sync.park with | .bdev _ => (s.barDone k (some g)).landRoom y | _ => true) }, sync := { y.sync with fetch := {} } }))) ∧
    (s.mayRestoreTeam k t = false → Does .teamRestore s s) ∧
    (s.mayRestoreTeam k t = true →
      (∀ core n, t.id.loc = .evicted → s.evictCore t = some core → s.freeSlot core = some n →
        ∃ s1 y, Does .teamRestore s s1 ∧ Tbl.get? s1.teams k = some y ∧ y.id = { t.id with loc := .resident, ready := true, slot := 16 * core + n } ∧ y.regs = t.regs ∧ y.flow = t.flow ∧
          y.sync.lost = t.sync.lost ++ (s.ctx t.id.ctx).lost ∧
          (t.sync.prels = [] → t.id.slot ≠ 16 * core + n → y.sync.oldSlot = some t.id.slot ∧
            Tbl.getD s1.ports.epoch (16 * core + n) 0 = (Tbl.getD s.ports.epoch (16 * core + n) 0 + 1) % 65536) ∧
          (∀ j, j ≠ k → Tbl.get? s1.teams j = Tbl.get? s.teams j) ∧ s1.mem = s.mem) ∧
      (∀ cl, t.id.loc = .saved ∨ t.id.loc = .savedEvicted → s.unitPlace (s.unitOf t) (s.launch t.id.launch) t.id.cluster = some cl →
        Does .teamRestore s (let s1 := (s.moveUnit t.id.launch t.id.cluster cl).restoreUnits t.id.launch cl
          ((s1.part t.id.part).saved.filter fun j => (s.unitOf t).any fun x => x.1 = j).foldl (fun s j => s.restoreTeam j) s1)) ∧
      (∀ n, t.id.loc = .saved → s.unitOf t = [(k, t)] → s.unitPlace [(k, t)] (s.launch t.id.launch) t.id.cluster = some t.id.cluster →
        (s.cluster t.id.cluster).tiles = [] → (∀ q ∈ (s.launch t.id.launch).qs, q.saved = none) → s.freeSlot t.id.core = some n →
        ∃ s1 y, Does .teamRestore s s1 ∧ Tbl.get? s1.teams k = some y ∧ y.id = { t.id with loc := .resident, ready := true, slot := 16 * t.id.core + n } ∧ y.regs = t.regs ∧ y.flow = t.flow ∧ s1.mem = s.mem)) ∧
    (s.mayRetire k t = false → Does .teamRetirement s s) ∧
    (s.mayRetire k t = true → t.sync.allocs.filter (fun x => !x.freeing) = [] → ∃ s1, Does .teamRetirement s s1 ∧ Tbl.get? s1.teams k = none ∧ (∀ j, j ≠ k → Tbl.get? s1.teams j = Tbl.get? s.teams j) ∧ s1.mem = s.mem ∧
      (t.id.foreign = true → s1.launches = s.launches) ∧
      (∀ l, t.id.foreign = false → Tbl.get? s.launches t.id.launch = some l → Tbl.get? s1.launches t.id.launch = some { l with
        live := (if t.id.landed = true then l.live else l.live - 1), gwctMax := max l.gwctMax t.regs.gwct })) ∧
    (s.mayRetire k t = true → let s1 := s.freeAll k (t.sync.allocs.filter fun x => !x.freeing)
      (Tbl.get? s1.teams k = none → Does .teamRetirement s s1) ∧
      (Tbl.get? s1.teams k ≠ none → ∃ s2, Does .teamRetirement s s2 ∧ Tbl.get? s2.teams k = none ∧ s2.mem = s1.mem ∧ s2.clusters = s1.clusters)) ∧
    (s.relOver t = false → Does .releaseWaitEnd s s) ∧
    (s.relOver t = true →
      (t.sync.park = .rel → Does .releaseWaitEnd s (s.setTeam k { t with sync := { t.sync with park := t.onward }, sched := { t.sched with readySince := s.now, retry := true } })) ∧
      (∀ g, t.sync.park = .bdev g → Does .releaseWaitEnd s (s.barDone k (some g)))) ∧
    (∀ e, t.sync.rq.find? (fun e => e.id = s.arg.n1) = some e →
      (e.mayWrite = false ∨ s.now < e.due → Does .longResultWrite s s) ∧
      (e.mayWrite = true → e.due ≤ s.now → (∀ x ∈ t.sync.rq, x.raised = none) → ∃ s1 y, Does .longResultWrite s s1 ∧ Tbl.get? s1.teams k = some y ∧ y.regs = t.regs.writes ((e.writes t).filter (RegWrite.stays e.clob s.draws)) ∧
        y.flow = t.flow ∧ (∀ j, j ≠ k → Tbl.get? s1.teams j = Tbl.get? s.teams j) ∧ s1.mem = s.mem)) ∧
    (s.mayFrame t = true → Does .trapFrameForm s (s.takeTrap k)) ∧ (s.mayFrame t = false → Does .trapFrameForm s s) ∧
    (∀ x g, t.sync.compls.find? (fun c => c.id = s.arg.n1) = some x → x.time = some g →
      Does .writeCompletionReturn s (s.setTeam k { t with regs := { t.regs with gwct := max t.regs.gwct g }, sync := { t.sync with compls := t.sync.compls.filter fun c => c.id ≠ s.arg.n1 } })) ∧
    (∀ x, t.sync.compls.find? (fun c => c.id = s.arg.n1) = some x → x.time = none → Does .writeCompletionReturn s s) ∧
    (t.sync.rq.find? (fun e => e.id = s.arg.n1) = none → Does .longResultWrite s s) ∧
    (t.sync.compls.find? (fun c => c.id = s.arg.n1) = none → Does .writeCompletionReturn s s)

/-- O52. While a VF is frozen its halt, resume and step commands and its dbgdata accesses change nothing. Otherwise a halt asked for is
over when every team of the context is quiet, and then halts them all; a resume lets them go on; a step runs the selected halted
team and is reported when its instruction is over. An access to dbgdata advances the address, and a write goes to the word of a
halted or frozen team. A timer that fires posts its records once in its tick. -/
def Obligations.DebugEvents : Prop :=
  ∀ (s : State), let c := s.arg.n0
    let x := s.ctx c
    (x.vfFrozen = true → Does .dbgctlHalt s s ∧ Does .dbgctlRes s s ∧ Does .dbgctlStep s s ∧ Does .dbgdataAccess s s) ∧
    (x.part = none ∨ x.dbg.halted = true → Does .dbgctlHalt s s) ∧
    (x.vfFrozen = false → x.part.isSome = true → x.dbg.halted = false → ∃ s1, Does .dbgctlHalt s s1 ∧ CtxChanged s s1 c ∧ s1.ctx c = { x with dbg := { x.dbg with halting := true } }) ∧
    (s.mayHaltDone c = false → Does .debugHaltDone s s) ∧
    (s.mayHaltDone c = true → Does .debugHaltDone s ((((s.dbgTeams c).foldl (fun s t => s.haltTeam t.1) s).dropGot (s.isCardOf c) fun _ => true).modDbg c fun d => { d with halting := false, halted := true })) ∧
    (s.mayHaltDone c = true → (∀ t ∈ s.dbgTeams c, t.2.resident = true → t.2.sched.halted = false → t.2.StopsWhole) → ∃ s1, Does .debugHaltDone s s1 ∧ s1.ctx c = { x with dbg := { x.dbg with halting := false, halted := true } } ∧ s1.mem = s.mem ∧ s1.launches = s.launches ∧
      ∀ k t, Tbl.get? s1.teams k = some t → t.id.ctx = c → t.id.foreign = false → some t.id.part = x.part → t.sched.halted = true) ∧
    (x.vfFrozen = false → ∃ s1, Does .dbgctlRes s s1 ∧ s1.ctx c = { x with dbg := { x.dbg with halting := false, halted := false } } ∧ s1.mem = s.mem ∧ s1.launches = s.launches ∧
      (∀ k t, Tbl.get? s1.teams k = some t → t.id.ctx = c → t.id.foreign = false → some t.id.part = x.part → t.sched.halted = false) ∧
      (∀ k t, s.teams = [(k, t)] → t.id.ctx = c → t.id.foreign = false → some t.id.part = x.part → t.sched.halted = true → s1.teams = [(k, t.goes s.now s.arg.flag)])) ∧
    (s.dbgTeam c = none → Does .dbgctlStep s s) ∧
    (∀ k t, s.dbgTeam c = some (k, t) →
      (t.sched.halted = false → Does .dbgctlStep s s) ∧
      (x.vfFrozen = false → t.sched.halted = true → ∃ s1 y, Does .dbgctlStep s s1 ∧ Tbl.get? s1.teams k = some y ∧ y.sched.stepping = true ∧ y.sched.halted = false ∧ y.regs = t.regs ∧
        (t.sched.trapHalt = false → y.flow = t.flow) ∧ (t.sched.trapHalt = true → y.flow = { t.flow with pc := t.sync.frame.tpc }) ∧
        (s1.ctx c).dbg.stepped = false ∧ (∀ j, j ≠ k → Tbl.get? s1.teams j = Tbl.get? s.teams j) ∧ s1.mem = s.mem)) ∧
    (Tbl.get? s.teams c = none → Does .stepComplete s s) ∧
    (∀ t, Tbl.get? s.teams c = some t →
      (stepOver t = false → Does .stepComplete s s) ∧
      (stepOver t = true → (Tbl.get? s.ctxs t.id.ctx).isSome = true → ∃ s1, Does .stepComplete s s1 ∧ Tbl.get? s1.teams c = some { t with sched := { t.sched with halted := true, stepping := false, stepped := false } } ∧
        (s1.ctx t.id.ctx).dbg.stepped = true ∧ (∀ j, j ≠ c → Tbl.get? s1.teams j = Tbl.get? s.teams j) ∧ s1.launches = s.launches)) ∧
    (x.vfFrozen = false → (Tbl.get? s.ctxs c).isSome = true → ∃ s1, Does .dbgdataAccess s s1 ∧ (s1.ctx c).dbg = { x.dbg with addr := x.dbg.addr + 1 } ∧ s1.mem = s.mem ∧ s1.launches = s.launches ∧
      (s.arg.optv = none ∨ s.dbgTeam c = none → s1.teams = s.teams) ∧
      (∀ v k t, s.arg.optv = some v → s.dbgTeam c = some (k, t) →
        (t.sched.halted = true ∨ t.sched.frozen.isSome = true → s1.teams = Tbl.put s.teams k (t.poke x.dbg.addr.toNat v)) ∧
        (t.sched.halted = false → t.sched.frozen = none → s1.teams = s.teams))) ∧
    (s.fires x x.dbg.sexp = false ∨ s.marked 2 c = true → Does .pcSampleTimer s s) ∧
    (s.fires x x.dbg.sexp = true → s.marked 2 c = false → ∃ s1, Does .pcSampleTimer s s1 ∧ s1.marked 2 c = true ∧ s1.teams = s.teams ∧ s1.launches = s.launches ∧
      ((∀ t ∈ s.teams, t.2.id.ctx ≠ c) → s1 = s.mark 2 c) ∧
      (∀ k t, s.teams = [(k, t)] → t.id.ctx = c → t.id.foreign = false → t.resident = true → s1 = (s.pcSample t t.flow.pc (s.sampleState t)).mark 2 c)) ∧
    (s.fires x x.dbg.cexp = false ∨ s.marked 3 c = true → Does .counterDeltaTimer s s) ∧
    (s.fires x x.dbg.cexp = true → s.marked 3 c = false → ∃ s1, Does .counterDeltaTimer s s1 ∧ s1.marked 3 c = true ∧ s1.teams = s.teams ∧ s1.launches = s.launches ∧
      ((∀ q ∈ x.perf.sel, bit q.2.toNat 15 = false) → s1 = s.mark 3 c) ∧
      (∀ p i q, x.part = some p → x.perf.sel = [(i, q)] → bit q.toNat 15 = true → s1 = (s.counterDelta c p i).mark 3 c))

/-- O53. A packed lane's continuation goes to its home on the die or, after a release of its team, as a pool write to another; one whose
live set or home is bad ends its launch. The home takes it into a group or refuses it, over a link only with an IDE stream, from
no blocked peer and for no version that has ended. A group becomes a landed team at its first lane's registers and pc; a return
makes its away lane returned, a notice makes it exited, and both change no other lane. A refused lane, or one that waited 4,096
ticks, is present again. A card that may start runs, each transfer or row moves its unit, and a complete one leaves its tag. A
monitor takes the satisfying word, here or at the W9L that holds it; a poll goes on with twice its interval. A transaction whose
reads changed fails with 1; one with a lost line aborts its launch; a violation freezes it; else it waits for room and for hosts
or applies its lines and ends with status 0. A frame whose number has come enters its stream's queue, a barge-in first cutting the
stream; a slot that holds none is looked at again later. An event whose condition does not hold changes nothing. -/
def Obligations.MigrationCardEvents : Prop :=
  ∀ (s : State), let a := s.arg
    let k := a.n0
    let t := s.team k
    let c : BitVec 1024 := a.wide.setWidth 1024
    (Tbl.get? s.teams k = none → Does .lanePack s s) ∧
    (Tbl.get? s.teams k = some t → (∀ lv ∈ t.sync.leaving, s.mayPack k t lv = false) → Does .lanePack s (({ s with fresh := s.fresh + 1 } : State).landedEnd k)) ∧
    (∀ lv, Tbl.get? s.teams k = some t → t.sync.leaving = [lv] → s.mayPack k t lv = true →
      let m := packWct lv.cont t.regs.gwct
      let s0 : State := { s with fresh := s.fresh + 1 }
      (lv.ok = false → Does .lanePack s ((s0.deliver k { tpc := lv.orig.pc, cause := 0x5E, cls := 1 }).landedEnd k)) ∧
      (lv.ok = true → contRet lv.cont = false → s.lostDest lv = true → Does .lanePack s ((s0.lostWrite k t).landedEnd k)) ∧
      (lv.ok = true → contRet lv.cont = false → contRet m = false → s.lostDest lv = false → lv.pbr = none → ∃ s1 y, Does .lanePack s s1 ∧
        s1.net = s.net ++ [(.continuationArrival, { wide := m.setWidth 2048, n0 := lv.cluster, n1 := lv.dpa, flag := true, opt := some t.id.part, n2 := k, n3 := lv.lane, n4 := s.fresh + 1, n5 := lv.entry, n6 := lv.lane / 32 })] ∧
        Tbl.get? s1.teams k = some y ∧ y.sync.leaving = [{ lv with sent := true, cont := m }] ∧ y.regs = t.regs ∧ y.flow = t.flow ∧ s1.mem = s.mem) ∧
      (lv.ok = true → contRet lv.cont = true → contRet m = true → lv.pbr = none → ∃ s1 y, Does .lanePack s s1 ∧
        s1.net = s.net ++ [(.returnArrival, { wide := m.setWidth 2048 })] ∧
        Tbl.get? s1.teams k = some y ∧ y.sync.leaving = [] ∧ y.regs = t.regs ∧ y.flow = t.flow ∧ s1.mem = s.mem) ∧
      (∀ d, lv.ok = true → contRet m = contRet lv.cont → (contRet m = false → s.lostDest lv = false) → lv.pbr = some d → ∃ s1 y w, Does .lanePack s s1 ∧ s1.net = s.net ∧
        s1.ports.q = s.ports.q ++ [w] ∧ w.cont = some m ∧ w.pbr = d ∧ w.dpa = lv.dpa ∧ w.src = t.id.slot ∧ w.after = t.regs.gwct ∧ w.left = false ∧
        w.epoch = (Tbl.getD s.ports.epoch t.id.slot 0 + 1) % 65536 ∧
        Tbl.get? s1.teams k = some y ∧ y.sync.leaving = (if contRet m = true then [] else [{ lv with sent := true, cont := m }]) ∧ y.regs = t.regs ∧ y.flow = t.flow ∧ s1.mem = s.mem)) ∧
    (∀ p, a.opt = some p → Does .continuationArrival s ((s.packetOf a).foldl (fun s a => s.arriveOwn p a) s)) ∧
    (∀ p, a.opt = some p → s.packetOf a = [a] →
      (∀ x, s.landRefusal k p true c = some x → Does .continuationArrival s ((s.unpost .continuationArrival a).post .continuationRefused { n0 := a.n2, n1 := a.n3, n2 := x })) ∧
      (s.landRefusal k p true c = none → ∃ s1, Does .continuationArrival s s1 ∧ s1.mem = s.mem ∧ (∃ g ∈ (s1.cluster k).groups, g.part = p ∧ c ∈ g.conts) ∧
        ∀ y, Tbl.get? s.teams a.n2 = some y → y.id.landed = false → Tbl.get? s1.teams a.n2 = some { y with sync := { y.sync with leaving := y.sync.leaving.filter fun x => x.lane ≠ a.n3 } })) ∧
    (a.opt = none →
      let die := contTeam c / 2 ^ 20
      let h := s.heard die a.n2
      let back := fun (s1 : State) (x : Nat) => Does .continuationArrival s (s1.emit (.contBack die c x))
      let answer := fun (st : Nat) => Does .continuationArrival s (h.emit (.peerReply die st false 0 []))
      ((s.link a.n2).carries = false → back s 0x61) ∧
      ((s.link a.n2).carries = true → (die, contPart c, contVer c) ∈ h.ports.ended → answer 0) ∧
      ((s.link a.n2).carries = true → (die, contPart c, contVer c) ∉ h.ports.ended →
        (h.dpaPa a.n1 = none → back h 0x5B) ∧
        (∀ pa, h.dpaPa a.n1 = some pa →
          (Tbl.get? h.ports.eown (extentOf pa) = none → back h 0x5B) ∧
          (∀ p, Tbl.get? h.ports.eown (extentOf pa) = some p →
            ((die, p) ∈ h.ports.blocked → answer 4) ∧
            ((die, p) ∉ h.ports.blocked →
              (∀ x, h.landRefusal (homeSlice pa) p false c = some x → back h x) ∧
              (h.landRefusal (homeSlice pa) p false c = none → ∃ s1, Does .continuationArrival s s1 ∧ s1.mem = s.mem ∧
                s1.outbox = s.outbox ++ [.peerReply die 0 false 0 []] ∧ ∃ g ∈ (s1.cluster (homeSlice pa)).groups, g.part = p ∧ c ∈ g.conts)))))) ∧
    (a.n2 = 0 → Tbl.get? s.teams k = some t → ∃ s1, Does .continuationRefused s s1 ∧
      Tbl.get? s1.teams k = some { t with sync := { t.sync with leaving := t.sync.leaving.map fun (x : Leaving) => if x.lane = a.n1 then ({ x with sent := false, refusedAt := some (x.refusedAt.getD s.now) } : Leaving) else x } } ∧ s1.mem = s.mem) ∧
    (a.n2 ≠ 0 → Does .continuationRefused s (((s.unpost .continuationRefused a).dropCont k a.n1).refuseLane k a.n1 a.n2)) ∧
    ((∀ x ∈ t.sync.leaving, x.lane = a.n1 → x.timedOut s.now = false) → Does .landingTimeout s s) ∧
    ((∃ x ∈ t.sync.leaving, x.lane = a.n1 ∧ x.timedOut s.now = true) → Does .landingTimeout s (s.refuseLane k a.n1 0x59) ∧
      (∀ lv, t.sync.leaving.find? (fun x => x.lane = a.n1) = some lv → t.id.landed = false → t.resident = true → t.sync.migTrap = false → lv.orig.raised = none → (∀ e ∈ t.sync.rq, e.raised = none) →
        ∃ y, Tbl.get? (s.refuseLane k a.n1 0x59).teams k = some y ∧ y.flow = { t.flow with pres := t.flow.pres ||| bitM a.n1, away := t.flow.away &&& ~~~bitM a.n1 } ∧ y.regs = t.regs ∧ y.sync.lastRefusal = 0x59 ∧
          y.sync.leaving = t.sync.leaving.filter (fun x => x.lane ≠ a.n1) ∧ (∃ e ∈ y.sync.rq, e.id = lv.orig.id ∧ ∀ x ∈ lv.orig.accs, { x with stay := true, wait := .xlat } ∈ e.accs))) ∧
    ((s.cluster k).groups.find? (fun g => g.id = a.n1) = none → Does .landedTeamCreation s s) ∧
    (∀ g, (s.cluster k).groups.find? (fun g => g.id = a.n1) = some g →
      (s.mayLandTeam k g = false → Does .landedTeamCreation s s) ∧
      (∀ core slot, s.mayLandTeam k g = true → s.landCore k g.part = some core → s.freeSlot core = some slot → ∃ s1 y, Does .landedTeamCreation s s1 ∧ Tbl.get? s1.teams (landedKey s.fresh) = some y ∧
        y.regs.lanes = 32 ∧ y.regs.allot = 64 ∧ y.regs.fmt = BitVec.ofNat 32 (contFmt (g.conts.headD 0)) ∧ y.flow.pc = BitVec.ofNat 64 (contPc (g.conts.headD 0)) ∧ y.flow.stack = [] ∧
        y.flow.pres = ones g.conts.length ∧ y.flow.D = ones g.conts.length ∧ y.id.landed = true ∧ y.id.slot = 16 * core + slot ∧ y.id.cluster = k ∧ Tbl.getD s1.ports.epoch (16 * core + slot) 0 = (Tbl.getD s.ports.epoch (16 * core + slot) 0 + 1) % 65536 ∧
        (∀ x ∈ (s1.cluster k).groups, x.id ≠ a.n1) ∧ (∀ j, j ≠ landedKey s.fresh → Tbl.get? s1.teams j = Tbl.get? s.teams j) ∧ s1.mem = s.mem)) ∧
    (let inner := s.net.any fun x => x.1 = .returnArrival ∧ x.2 = a
     let takes := fun (y : Team) => y.flow.away.getLsbD (contLane c) = true ∧ (s.launch y.id.launch).head.ver = contVer c
     (inner = true → s.mayReturn c = false → Does .returnArrival s s) ∧ (inner = false → (s.link k).carries = false → Does .returnArrival s s) ∧
     ((inner = true ∧ s.mayReturn c = true) ∨ (inner = false ∧ (s.link k).carries = true) →
       ((∀ y, Tbl.get? s.teams (contOrigin c) = some y → ¬ takes y) → Does .returnArrival s (if inner = true then s.unpost .returnArrival a else s)) ∧
       (∀ y, Tbl.get? s.teams (contOrigin c) = some y → takes y → ∃ s1 z, Does .returnArrival s s1 ∧ Tbl.get? s1.teams (contOrigin c) = some z ∧
         z.flow.ret = y.flow.ret ||| bitM (contLane c) ∧ z.flow.away = y.flow.away &&& ~~~bitM (contLane c) ∧ z.flow.pc = y.flow.pc ∧
         z.flow.pres = y.flow.pres ∧ z.regs.s = y.regs.s ∧ z.regs.k = y.regs.k ∧ (∀ l, Tbl.get? s.launches y.id.launch = some l → Tbl.get? s1.launches y.id.launch = some { l with conts := l.conts - 1 }) ∧ s1.mem = s.mem))) ∧
    (let inner := s.net.any fun x => x.1 = .retireNotice ∧ x.2 = a
     let takes := fun (y : Team) => y.flow.away.getLsbD a.n1 = true ∧ ∀ v, a.opt = some v → (s.launch y.id.launch).head.ver = v
     (inner = true → s.mayNotice a = false → Does .retireNotice s s) ∧
     (inner = false ∨ s.mayNotice a = true →
       (a.n4 ≠ 0 → Does .retireNotice s ((s.unpost .retireNotice a).emit (.retire (a.n4 - 1) (k % 2 ^ 20) a.n1 (a.opt.getD 0)))) ∧
       (a.n4 = 0 → (∀ y, Tbl.get? s.teams k = some y → ¬ takes y) → Does .retireNotice s (s.unpost .retireNotice a)) ∧
       (a.n4 = 0 → Tbl.get? s.teams k = some t → takes t → ∃ s1 z, Does .retireNotice s s1 ∧ Tbl.get? s1.teams k = some z ∧ z.flow.exited = t.flow.exited ||| bitM a.n1 ∧
         z.flow.away = t.flow.away &&& ~~~bitM a.n1 ∧ z.flow.pres = t.flow.pres ∧ z.flow.pc = t.flow.pc ∧ z.regs = t.regs ∧ s1.mem = s.mem ∧
         (∀ l, Tbl.get? s.launches t.id.launch = some l → Tbl.get? s1.launches t.id.launch = some { l with conts := l.conts - 1 })))) ∧
    (s.card k a.n1 = none → Does .cardStart s s ∧ Does .cardLineTransfer s s ∧ Does .matrixRowIssue s s ∧ Does .cardComplete s s) ∧
    (∀ b, s.card k a.n1 = some b →
      (s.cardMayStart k b = false → Does .cardStart s s) ∧
      (s.cardMayStart k b = true → ∃ s1, Does .cardStart s s1 ∧ s1.card k a.n1 = some { b with st := .running, wait := .ready, got := [] } ∧ s1.teams = s.teams ∧ s1.mem = s.mem ∧ ∀ j, j ≠ k → s1.cluster j = s.cluster j) ∧
      (s.mayTransfer k b = false → Does .cardLineTransfer s s) ∧ (s.mayTransfer k b = true → Does .cardLineTransfer s (s.cardUnit k b)) ∧
      (s.mayIssueRow k b = false → Does .matrixRowIssue s s) ∧
      (s.mayIssueRow k b = true → Does .matrixRowIssue s (State.cardSettle k b ((s.cardFill k b (s.cardUnfilled k b)).bind fun _ s => s.mataUnit k b))) ∧
      (s.mayComplete k b = false → Does .cardComplete s s) ∧
      (s.mayComplete k b = true → ∃ s1, Does .cardComplete s s1 ∧ (∀ x ∈ (s1.cluster k).cards, x.tag ≠ a.n1) ∧ a.n1 ∉ (s1.cluster k).open_ ∧ s1.mem = s.mem ∧ s1.launches = s.launches)) ∧
    (a.flag = false → s.monWakes t = false → Does .monitorWake s s) ∧
    (∀ m w, a.flag = false → t.sync.mon = some m → m.slice.isSome = true → s.monNow t = some w → Does .monitorWake s (s.setTeam k { t with sync := { t.sync with mon := some { m with status := 2, word := w } } })) ∧
    (a.flag = true → s.ports.mons.find? (fun m => m.die = k && m.id = a.n1) = none → Does .monitorWake s s) ∧
    (∀ m, a.flag = true → s.ports.mons.find? (fun m => m.die = k && m.id = a.n1) = some m →
      (s.poolMonHolds m = false → Does .monitorWake s s) ∧ (s.poolMonHolds m = true → Does .monitorWake s (s.poolWake m 2))) ∧
    (s.pollDue t = false → Does .waitcPoll s s) ∧
    (∀ m, t.sync.mon = some m → s.pollDue t = true →
      let m1 : Monitor := { m with pollInt := min 4096 (2 * m.pollInt), pollAt := s.now + min 4096 (2 * m.pollInt) }
      let becomes := fun (m2 : Monitor) => ∃ s1, Does .waitcPoll s s1 ∧ Tbl.get? s1.teams k = some { t with sync := { t.sync with mon := some m2 } } ∧ (∀ j, j ≠ k → Tbl.get? s1.teams j = Tbl.get? s.teams j) ∧ s1.mem = s.mem
      (m.host = true → becomes m1) ∧
      (m.host = false → s.isLocal m.pa = true → s.hostExcl (lineNo m.pa) = true ∨ s.monNow t = none → becomes m1) ∧
      (∀ w, m.host = false → s.isLocal m.pa = true → s.hostExcl (lineNo m.pa) = false → s.monNow t = some w → becomes { m1 with status := 2, word := w }) ∧
      (m.host = false → s.isLocal m.pa = false → (s.poolFor t.id.part m.pa).isSome = true ∨ t.sched.frozen.isSome = true → becomes m1) ∧
      (m.host = false → s.isLocal m.pa = false → s.poolFor t.id.part m.pa = none → t.sched.frozen = none → ∃ s1 y, Does .waitcPoll s s1 ∧ Tbl.get? s1.teams k = some y ∧
        y.sync.mon = some m1 ∧ y.sched.frozen.isSome = true ∧ y.regs = t.regs ∧ y.flow = t.flow ∧ s1.mem = s.mem)) ∧
    (let x := t.sync.tm
     (x.committing = false ∨ x.asked ≠ [] ∨ x.lines.any (s.lockedBy k) = true → Does .tmCommitResult s s) ∧
     (x.committing = true → x.asked = [] → x.lines.any (s.lockedBy k) = false →
       (x.ser = false → s.tmValid t.view x = false → Does .tmCommitResult s (s.tmAbort k 1)) ∧
       (x.ser = true ∨ s.tmValid t.view x = true →
         let lost := x.writes.any fun w => s.lostAt (64 * w.1)
         let far := x.writes.find? fun w => !s.isLocal (64 * w.1) && (s.poolFor t.id.part (64 * w.1)).isNone
         let stalled := s.poolStalled t.id.slot && x.writes.any fun w => !s.isLocal (64 * w.1)
         let held := x.writes.filter fun w => s.isLocal (64 * w.1) && s.hostHolds w.1
         let room := x.writes.all fun w => !s.isLocal (64 * w.1) || s.hasRoom t.view w.1
         let waits := (match t.view with | .launch lk => !(s.launch lk).head.abortOvf | .foreign _ _ _ => false) && s.olderThan t.view
         (lost = true → Does .tmCommitResult s (s.lostWrite k t)) ∧
         (∀ w, lost = false → far = some w → Does .tmCommitResult s (if t.sched.frozen.isSome then s else s.freezeTeam k t 0 (64 * w.1) (s.rightAt (64 * w.1)))) ∧
         (lost = false → far = none → stalled = true → Does .tmCommitResult s s) ∧
         (lost = false → far = none → stalled = false → held ≠ [] → Does .tmCommitResult s (held.foldl (fun s w => s.snoopOut w.1) s)) ∧
         (lost = false → far = none → stalled = false → held = [] → room = false → Does .tmCommitResult s (if waits then s else s.abortTeam k t 0x4F)) ∧
         (lost = false → far = none → stalled = false → held = [] → room = true →
           let s1 := (x.writes.foldl (fun s w => s.tmApply k t w.1 w.2.1 w.2.2) s).modTeam k fun y => { y with
             sync := { y.sync with park := .run, tm := { y.sync.tm with active := false, committing := false, reads := [], writes := [], acnt := 0, st := 0 } } }
           Does .tmCommitResult s ((if x.token then s1.freeToken k else s1).count t.id.ctx 49 1)) ∧
         (x.writes = [] → ∃ s1 y, Does .tmCommitResult s s1 ∧ Tbl.get? s1.teams k = some y ∧ y.regs = t.regs ∧ y.flow = t.flow ∧ y.sync.park = .run ∧ y.sync.tm.active = false ∧ y.sync.tm.st = 0 ∧ y.sync.tm.acnt = 0 ∧
           (∀ j, j ≠ k → Tbl.get? s1.teams j = Tbl.get? s.teams j) ∧ s1.mem = s.mem)))) ∧
    (s.mayTake k a.n1 = false → Does .streamFrameTake s s) ∧
    (s.mayTake k a.n1 = true →
      let d := (s.part k).stm a.n1
      let g := s.stmAgent k a.n1
      let looksAgain := fun (s1 : State) => Does .streamFrameTake s (s1.modStm k a.n1 fun d1 => { d1 with fetch := {}, pollAt := s1.now + min 4096 (2 * d1.pollInt), pollInt := min 4096 (2 * d1.pollInt) })
      (∀ w s1, s.unitRead g d.slotVa 64 = .wait w s1 → Does .streamFrameTake s (s1.modFetch (.stream k a.n1) fun f => { f with wait := w })) ∧
      (∀ r s1, s.unitRead g d.slotVa 64 = .fault r s1 → looksAgain s1) ∧ (∀ va r s1, s.unitRead g d.slotVa 64 = .freeze va r s1 → looksAgain (s1.violate g.ctx 1 g.cl va r)) ∧
      (∀ x s1, s.unitRead g d.slotVa 64 = .ok x s1 →
        (x.2 = true ∨ bits (leNat x.1) 31 0 ≠ d.fseq → looksAgain s1) ∧
        (∀ P d1, Tbl.get? s1.parts k = some P → Tbl.get? P.stms a.n1 = some d1 → x.2 = false → bits (leNat x.1) 31 0 = d.fseq → bit (leNat x.1) 90 = false → ∃ s2 f, Does .streamFrameTake s s2 ∧ s2.mem = s1.mem ∧ s2.teams = s1.teams ∧
          ((s2.part k).stm a.n1).queue = d1.queue ++ [f] ∧ f.data = BitVec.ofNat 512 (leNat x.1) ∧ ((s2.part k).stm a.n1).fseq = (d1.fseq + 1) % 2 ^ 32) ∧
        (∀ w s2, x.2 = false → bits (leNat x.1) 31 0 = d.fseq → bit (leNat x.1) 90 = true → s1.unitRead g d.cwin 4 = .ok w s2 →
          let pcur := if w.2 = true then d.pcur else min (leNat w.1) maxPos
          (d.snn = 0 → Does .streamFrameTake s (s2.takeFrame k a.n1 (BitVec.ofNat 512 (leNat x.1)) pcur [])) ∧
          (∀ l s3, d.snn ≠ 0 → s2.unitRead g d.snbase (8 * d.snn) = .ok l s3 →
            Does .streamFrameTake s (s3.takeFrame k a.n1 (BitVec.ofNat 512 (leNat x.1)) pcur (if l.2 = true then [] else wordsOf l.1)))))) ∧
    (s.mayRestore k a.n1 = false → Does .snapshotRestoreDone s s) ∧
    (s.mayRestore k a.n1 = true → Does .snapshotRestoreDone s (s.restoreLines k a.n1 (((s.part k).stm a.n1).stlen / 64 + 1)) ∧
      ∀ f slot i, ((s.part k).stm a.n1).restoring = some (f, slot, i) → ((s.part k).stm a.n1).stlen / 64 ≤ i → Does .snapshotRestoreDone s (s.releaseFrame k a.n1 f))

/-- O54. The state after reset: device time zero, no partition, context, launch or team, no freeze requested, no boot stage
complete and every measurement register empty, every link down, and memory in its canonical form with nothing listed. -/
def Obligations.ResetValues : Prop :=
  State.reset.now = 0 ∧ State.reset.parts = [] ∧ State.reset.ctxs = [] ∧ State.reset.launches = [] ∧ State.reset.teams = [] ∧ State.reset.inputs = [] ∧
  State.reset.freeze.req = none ∧ State.reset.freeze.at_ = none ∧ State.reset.mil.booted = false ∧ State.reset.mil.stages = 0 ∧ State.reset.mil.meas = [] ∧
  (∀ l, (State.reset.link l).up = false ∧ (State.reset.link l).ide = false) ∧ (∀ p, State.reset.hasPart p = false) ∧ (∀ c, (State.reset.ctx c).part = none) ∧
  memWf State.reset.mem = true ∧ State.reset.mem = []

/-- O55. Outside a captured operand, reading s0 gives zero and reading k0 the team's active mask; a write to s0 or k0 leaves
every register as it was, and a written mask register holds no bit outside the valid lanes. -/
def Obligations.HardwiredRegisters : Prop :=
  ∀ (t : Team) (c : Cur) (r : TeamRegs),
    (c.ovr = [] → rdS t c 0 = 0 ∧ rdK t c 0 = t.flow.active ∧ (∀ n, rdS t c n = t.regs.getS n) ∧ (∀ n, n ≠ 0 → rdK t c n = t.regs.getK n)) ∧
    (∀ v, r.setS 0 v = r) ∧ (∀ m, r.setK 0 m = r) ∧ (∀ n v, n ≠ 0 → (r.setS n v).getS n = v ∧ ∀ j, j ≠ n → (r.setS n v).getS j = r.getS j) ∧
    (∀ n m, n ≠ 0 → (r.setK n m).getK n = m &&& ones r.lanes ∧ ∀ j, j ≠ n → (r.setK n m).getK j = r.getK j)

/-- O56. For a team with nothing to re-inject or report, without outstanding results, whose word at its PC is an instruction
word that passes the checks of R498 with the hint words before it, issuing performs exactly the decoded instruction, with
its operands captured and the hint words in force; and when that issue is all that may happen, step is exec of that
instruction. -/
def Obligations.StepRunsDecoded : Prop :=
  ∀ (s : State) (k : Nat) (t : Team) (n : Nat) (i : Instr), let c := issuedCur k t n
    Tbl.get? s.teams k = some t → t.sync.reinj = [] → t.sync.lost = [] → t.sync.rq = [] → (s.ctx t.id.ctx).dbg.att = false →
    (s.image t).word t.flow.pc.toNat = some n → isHint (BitVec.ofNat 32 n) = false → Passes s t c n i →
      let s' : State := { s.setTeam k t with cur := some { c with entry := { c.entry with ops := (sourcesOf i c).map (captureOp t c), gov := gov t c } } }
      issueTeam s k = .run i s' ∧ (OnlyIssues s k → step s = exec i s')

/-- O57. Words written out from the encodings, one of each of several formats, are read as the instructions of the spec's
own examples, and words with an unassigned major, an unassigned minor or a nonzero must-be-zero field are refused. -/
def Obligations.DecodeWords : Prop :=
  decodeTableWord 32 0x082081C6 = some (.sshl 0 4 4 3 1) ∧ decodeTableWord 32 0x0A2806A0 = some (.saddi 0 5 0 0x6A0) ∧ decodeTableWord 32 0x7C00000C = some (.immWord 12) ∧
  decodeTableWord 32 0x1A202109 = some (.vfma 0 4 1 2 1) ∧ decodeTableWord 32 0xA8088481 = some (.ld 1 1 4 9 0 1) ∧ decodeTableWord 32 0x10082081 = some (.vadd 0 1 1 1 1) ∧
  decodeTableWord 32 0x8 = some (.exit 0) ∧ decodeTableWord 32 0x14484199 = some (.vdot4 0 9 2 3 1) ∧ decodeTableWord 32 0x30184510 = some (.aadd 0 3 2 10 1) ∧
  decodeTableWord 32 0x38288480 = some (.waitc 0 5 4 9 0) ∧ decodeTableWord 32 0x3C61A286 = some (.salloc 0 12 13 5 1 2) ∧ decodeTableWord 32 0xC82A8A80 = some (.launch 1 5 20 21) ∧
  decodeTableWord 32 0x06640006 = some (.vdo 0 1 6) ∧ decodeTableWord 32 0x7F000000 = some .hintYield ∧
  decodeWord 0x52000000 = .error .major ∧ decodeWord 0x00000030 = .error .minor ∧ decodeWord 0x00000009 = .error .mustBeZero

/-- O58. For every instruction that has a word, with its operand fields at every value that the encoding admits, decoding
its bytes, whatever follows them, gives the instruction and the rest, and its word has 32 bits. -/
def Obligations.DecodeEncode : Prop :=
  ∀ (i : Instr) (rest : List Byte), hasWord i = true → wellFormed i = true → decode (encode i ++ rest) = .ok (i, rest) ∧ encodeNat i < 2 ^ 32

/-- O59. Of a frozen device no step changes anything but the words of the image already shifted out and what waits at or has
left the ports, for as long as no device reset arrives: memory, teams, launches, device time and the frozen time stay. The
step takes the oldest event at the ports, and with none waiting there is no next state. -/
def Obligations.FrozenStays : Prop :=
  ∀ (s0 s : State), Frozen s0 s →
    (∀ s', step s = .next s' → Frozen s0 s' ∧ s'.inputs = s.inputs.tail ∧ ∃ l, s'.outbox = s.outbox ++ l) ∧
    (∀ e r, s.inputs = e :: r → ∃ s', step s = .next s') ∧
    (s.inputs = [] → step s = .fault .clockStopped)

/-- O60. When the freeze event stops a device with no device reset waiting at its ports, the state it leaves is a frozen
device at that time; a state that is not frozen is none. -/
def Obligations.FrozenHolds : Prop :=
  ∀ (s : State), (∀ q, s.freeze.req = some q → s.mil.up = true → s.freeze.at_ = none → (∀ e ∈ s.inputs, e.1 ≠ .deviceReset) →
      ∃ s1, Does .freeze s s1 ∧ Frozen s1 s1 ∧ s1.freeze.at_ = some (s.now, q.1)) ∧
    (∀ s0, s.freeze.at_ = none → ¬ Frozen s0 s)

end
end

