-- ==== Sys2Proof/Laws/Elem.lean ====
section
/-! SUPPORT. Sub-elements of a lane: the arithmetic of `mapSubs`, `sub`, `sext` and `wrap` in terms of bit vectors. -/

namespace Sys2Proof.Machine

theorem sub_eq_elem (w : Nat) (x : Word) (j : Nat) : sub x w j = (elem w x j).toNat := by
  simp [sub, elem, BitVec.extractLsb'_toNat, Nat.shiftRight_eq_div_pow]

theorem packSubs_elem (w : Nat) (l : List Nat) (j : Nat) (hj : j < l.length) :
    packSubs w l / 2 ^ (w * j) % 2 ^ w = l.getD j 0 % 2 ^ w := by
  induction l generalizing j with
  | nil => simp at hj
  | cons v r ih =>
    cases j with
    | zero => simp [packSubs, Nat.add_mul_mod_self_left]
    | succ j =>
      have hp : 0 < 2 ^ w := Nat.two_pow_pos w
      have : packSubs w (v :: r) / 2 ^ w = packSubs w r := by
        rw [packSubs, Nat.add_mul_div_left _ _ hp, Nat.div_eq_of_lt (Nat.mod_lt _ hp), Nat.zero_add]
      rw [Nat.mul_add, Nat.mul_one, Nat.add_comm (w * j), Nat.pow_add, ← Nat.div_div_eq_div_mul, this]
      simpa using ih j (by simpa using hj)

/-- What sub-element `j` of a lane computed sub-element by sub-element is. -/
theorem elem_mapSubs (w : Nat) (f : Nat → Nat) (j : Nat) (hj : j < 64 / w) :
    elem w (mapSubs w f) j = BitVec.ofNat w (f j) := by
  apply BitVec.eq_of_toNat_eq
  have h := packSubs_elem w ((List.range (64 / w)).map f) j (by simpa using hj)
  have hg : ((List.range (64 / w)).map f).getD j 0 = f j := by simp [List.getD, hj]
  rw [hg] at h
  rw [elem, mapSubs, BitVec.extractLsb'_toNat, BitVec.toNat_ofNat, BitVec.toNat_ofNat, Nat.shiftRight_eq_div_pow, ← h]
  have hle : w * j + w ≤ 64 := by
    have h1 : w * (j + 1) ≤ w * (64 / w) := Nat.mul_le_mul_left w hj
    have h2 := Nat.mul_div_le 64 w
    rw [Nat.mul_add, Nat.mul_one] at h1
    omega
  generalize packSubs w ((List.range (64 / w)).map f) = p
  apply Nat.eq_of_testBit_eq
  intro i
  simp only [Nat.testBit_mod_two_pow, Nat.testBit_div_two_pow]
  by_cases hi : i < w
  · simp [hi]; intro; omega
  · simp [hi]

theorem sext_toInt (w : Nat) (hw : 0 < w) (x : BitVec w) : sext w x.toNat = x.toInt := by
  have hx := x.isLt
  have h2 : 2 ^ w = 2 * 2 ^ (w - 1) := by rw [← Nat.pow_succ', Nat.succ_eq_add_one, Nat.sub_add_cancel hw]
  rw [sext, Nat.mod_eq_of_lt hx, BitVec.toInt_eq_toNat_cond]
  by_cases h : x.toNat < 2 ^ (w - 1)
  · rw [if_pos h, if_pos (by omega)]
  · rw [if_neg h, if_neg (by omega)]

theorem wrap_ofInt (w : Nat) (i : Int) : BitVec.ofNat w (wrap w i) = BitVec.ofInt w i := by
  apply BitVec.eq_of_toNat_eq
  have hp : (0 : Int) < ((2 ^ w : Nat) : Int) := by exact_mod_cast Nat.two_pow_pos w
  rw [BitVec.toNat_ofNat, BitVec.toNat_ofInt, wrap]
  apply Nat.mod_eq_of_lt
  have h1 := Int.emod_lt_of_pos i hp
  have h2 := Int.emod_nonneg i (ne_of_gt hp)
  omega

theorem intW_eq (ty : BitVec 3) : intW ty.toNat = elemBits ty := by
  revert ty; decide

theorem elemBits_cases (ty : BitVec 3) : elemBits ty = 8 ∨ elemBits ty = 16 ∨ elemBits ty = 32 ∨ elemBits ty = 64 := by
  revert ty; decide

/-- R453: the value a type gives a sub-element. -/
theorem intVal_eq (ty : BitVec 3) (x : BitVec (elemBits ty)) : intVal ty.toNat x.toNat = elemInt ty x := by
  unfold intVal elemInt isSigned
  rw [intW_eq]
  by_cases h : ty.toNat < 4
  · simp only [h, decide_true, if_true]
    exact sext_toInt _ (by rcases elemBits_cases ty with e | e | e | e <;> omega) x
  · simp [h]

end Sys2Proof.Machine
end

