-- ==== Sys2Proof/Laws/Tbl.lean ====
section
/-! SUPPORT. The laws of the sparse table: read after write, removal, change, and the canonical form. -/

namespace Sys2Proof.Tbl

variable {α : Type}

theorem get?_put_self (t : Tbl α) (k : Nat) (a : α) : get? (put t k a) k = some a := by
  induction t with
  | nil => simp [put, get?]
  | cons p r ih =>
    obtain ⟨j, b⟩ := p
    simp only [put]
    split_ifs with h1 h2
    · simp [get?]
    · simp [get?]
    · simp [get?, h2, ih]

theorem get?_put_ne (t : Tbl α) (k m : Nat) (a : α) (h : m ≠ k) : get? (put t k a) m = get? t m := by
  induction t with
  | nil => simp [put, get?, Ne.symm h]
  | cons p r ih =>
    obtain ⟨j, b⟩ := p
    simp only [put]
    split_ifs with h1 h2
    · simp [get?, Ne.symm h]
    · subst h2; simp [get?, Ne.symm h]
    · simp [get?, ih]

@[simp] theorem get?_put (t : Tbl α) (k m : Nat) (a : α) : get? (put t k a) m = if m = k then some a else get? t m := by
  split_ifs with h
  · subst h; exact get?_put_self t m a
  · exact get?_put_ne t k m a h

@[simp] theorem get?_del (t : Tbl α) (k m : Nat) : get? (del t k) m = if m = k then none else get? t m := by
  induction t with
  | nil => simp [del, get?]
  | cons p r ih =>
    obtain ⟨j, b⟩ := p
    by_cases hj : j = k <;> by_cases hm : m = k <;> simp_all [del, get?, eq_comm]

@[simp] theorem getD_put (t : Tbl α) (k m : Nat) (a d : α) : getD (put t k a) m d = if m = k then a else getD t m d := by
  unfold getD; rw [get?_put]; split_ifs <;> rfl

@[simp] theorem getD_putD [DecidableEq α] (t : Tbl α) (k m : Nat) (a d : α) :
    getD (putD t k a d) m d = if m = k then a else getD t m d := by
  unfold putD
  split_ifs with h1 h2 h2
  · subst h2; simp [getD, h1]
  · simp [getD, h2]
  · simp [h2]
  · simp [h2]

@[simp] theorem get?_modify (t : Tbl α) (k m : Nat) (f : α → α) :
    get? (modify t k f) m = if m = k then (get? t k).map f else get? t m := by
  unfold modify
  cases hk : get? t k with
  | none => split_ifs with h
            · subst h; simp [hk]
            · rfl
  | some a => simp

@[simp] theorem get?_upd (t : Tbl α) (k m : Nat) (d : α) (f : α → α) :
    get? (upd t k d f) m = if m = k then some (f (getD t k d)) else get? t m := by
  simp [upd]

@[simp] theorem getD_upd (t : Tbl α) (k m : Nat) (d : α) (f : α → α) :
    getD (upd t k d f) m d = if m = k then f (getD t k d) else getD t m d := by
  simp [upd]

@[simp] theorem get?_mapV {β : Type} (t : Tbl α) (f : Nat → α → β) (m : Nat) : get? (mapV t f) m = (get? t m).map (f m) := by
  induction t with
  | nil => rfl
  | cons p r ih =>
    obtain ⟨j, b⟩ := p
    unfold mapV at ih ⊢
    by_cases h : j = m
    · subst h; simp [get?]
    · simp [get?, h, ih]

@[simp] theorem get?_nil (k : Nat) : get? ([] : Tbl α) k = none := rfl
@[simp] theorem getD_nil (k : Nat) (d : α) : getD ([] : Tbl α) k d = d := rfl

/-! ## The canonical form -/

/-- Every key of a table is above k. -/
def above (k : Nat) : Tbl α → Prop
  | [] => True
  | (j, _) :: _ => k < j

theorem sorted_cons (i : Nat) (a : α) (t : Tbl α) : sorted ((i, a) :: t) = true ↔ above i t ∧ sorted t = true := by
  cases t with
  | nil => simp [sorted, above]
  | cons p r => obtain ⟨j, b⟩ := p; simp [sorted, above]

theorem above_of_lt {i j : Nat} {t : Tbl α} (h : i < j) (ht : above j t) : above i t := by
  cases t with
  | nil => trivial
  | cons p r => exact Nat.lt_trans h ht

theorem above_put {i k : Nat} {a : α} {t : Tbl α} (h : i < k) (ht : above i t) : above i (put t k a) := by
  cases t with
  | nil => exact h
  | cons p r =>
    obtain ⟨j, b⟩ := p
    simp only [put]
    split_ifs with h1 h2
    · exact h
    · exact h
    · exact ht

/-- A write keeps the keys strictly rising. -/
theorem sorted_put {t : Tbl α} (k : Nat) (a : α) (h : sorted t = true) : sorted (put t k a) = true := by
  induction t with
  | nil => simp [put, sorted]
  | cons p r ih =>
    obtain ⟨j, b⟩ := p
    rw [sorted_cons] at h
    simp only [put]
    split_ifs with h1 h2
    · rw [sorted_cons, sorted_cons]; exact ⟨h1, h⟩
    · subst h2; rw [sorted_cons]; exact h
    · rw [sorted_cons]; exact ⟨above_put (by omega) h.1, ih h.2⟩

theorem above_trans {i : Nat} {t : Tbl α} (ht : above i t) (h : sorted t = true) (p : Nat × α) (hp : p ∈ t) : i < p.1 := by
  induction t generalizing i with
  | nil => cases hp
  | cons q r ih =>
    obtain ⟨j, b⟩ := q
    rw [sorted_cons] at h
    rcases List.mem_cons.1 hp with rfl | hp
    · exact ht
    · exact Nat.lt_trans ht (ih h.1 h.2 hp)

theorem above_del {i k : Nat} {t : Tbl α} (ht : above i t) (h : sorted t = true) : above i (del t k) := by
  induction t generalizing i with
  | nil => trivial
  | cons p r ih =>
    obtain ⟨j, b⟩ := p
    rw [sorted_cons] at h
    simp only [del]
    split_ifs with h1
    · exact ih (above_of_lt ht h.1) h.2
    · exact ht

/-- A removal keeps the keys strictly rising. -/
theorem sorted_del {t : Tbl α} (k : Nat) (h : sorted t = true) : sorted (del t k) = true := by
  induction t with
  | nil => rfl
  | cons p r ih =>
    obtain ⟨j, b⟩ := p
    rw [sorted_cons] at h
    simp only [del]
    split_ifs with h1
    · exact ih h.2
    · rw [sorted_cons]; exact ⟨above_del h.1 h.2, ih h.2⟩

theorem mem_put {t : Tbl α} {k : Nat} {a : α} {p : Nat × α} (h : p ∈ put t k a) : p = (k, a) ∨ p ∈ t := by
  induction t with
  | nil => simp [put] at h; exact .inl h
  | cons q r ih =>
    obtain ⟨j, b⟩ := q
    simp only [put] at h
    split_ifs at h with h1 h2
    · rcases List.mem_cons.1 h with rfl | h
      · exact .inl rfl
      · exact .inr h
    · rcases List.mem_cons.1 h with rfl | h
      · exact .inl rfl
      · exact .inr (List.mem_cons_of_mem _ h)
    · rcases List.mem_cons.1 h with rfl | h
      · exact .inr (List.mem_cons_self ..)
      · rcases ih h with h | h
        · exact .inl h
        · exact .inr (List.mem_cons_of_mem _ h)

theorem mem_del {t : Tbl α} {k : Nat} {p : Nat × α} (h : p ∈ del t k) : p ∈ t := by
  induction t with
  | nil => exact h
  | cons q r ih =>
    obtain ⟨j, b⟩ := q
    simp only [del] at h
    split_ifs at h with h1
    · exact List.mem_cons_of_mem _ (ih h)
    · rcases List.mem_cons.1 h with rfl | h
      · exact List.mem_cons_self ..
      · exact List.mem_cons_of_mem _ (ih h)

end Sys2Proof.Tbl
end

