-- ==== Sys2Proof/Laws/State.lean ====
section
/-! SUPPORT. One lemma per field and update: the named updates of the state, reads of the tables after them, and the register
file. -/

namespace Sys2Proof.Machine

/-! ## Tables of the state -/

@[simp] theorem setTeam_teams (s : State) (k : Nat) (t : Team) : (s.setTeam k t).teams = Tbl.put s.teams k t := rfl
@[simp] theorem setTeam_ctxs (s : State) (k : Nat) (t : Team) : (s.setTeam k t).ctxs = s.ctxs := rfl
@[simp] theorem setTeam_mem (s : State) (k : Nat) (t : Team) : (s.setTeam k t).mem = s.mem := rfl
@[simp] theorem setTeam_parts (s : State) (k : Nat) (t : Team) : (s.setTeam k t).parts = s.parts := rfl
@[simp] theorem setTeam_launches (s : State) (k : Nat) (t : Team) : (s.setTeam k t).launches = s.launches := rfl
@[simp] theorem setTeam_clusters (s : State) (k : Nat) (t : Team) : (s.setTeam k t).clusters = s.clusters := rfl
@[simp] theorem setTeam_now (s : State) (k : Nat) (t : Team) : (s.setTeam k t).now = s.now := rfl
@[simp] theorem setTeam_cur (s : State) (k : Nat) (t : Team) : (s.setTeam k t).cur = s.cur := rfl
@[simp] theorem setTeam_issued (s : State) (k : Nat) (t : Team) : (s.setTeam k t).issued = s.issued := rfl
@[simp] theorem setTeam_team (s : State) (k : Nat) (t : Team) : (s.setTeam k t).team k = t := by
  simp [State.team, State.setTeam]
@[simp] theorem setTeam_ctx (s : State) (k : Nat) (t : Team) (c : Nat) : (s.setTeam k t).ctx c = s.ctx c := rfl
@[simp] theorem setTeam_part (s : State) (k : Nat) (t : Team) (p : Nat) : (s.setTeam k t).part p = s.part p := rfl
@[simp] theorem modCluster_teams (s : State) (k : Nat) (f : Cluster → Cluster) : (s.modCluster k f).teams = s.teams := rfl
@[simp] theorem modCluster_now (s : State) (k : Nat) (f : Cluster → Cluster) : (s.modCluster k f).now = s.now := rfl
@[simp] theorem modCluster_mem (s : State) (k : Nat) (f : Cluster → Cluster) : (s.modCluster k f).mem = s.mem := rfl
@[simp] theorem modCluster_ctxs (s : State) (k : Nat) (f : Cluster → Cluster) : (s.modCluster k f).ctxs = s.ctxs := rfl
@[simp] theorem modCluster_cluster (s : State) (k : Nat) (f : Cluster → Cluster) : (s.modCluster k f).cluster k = f (s.cluster k) := by
  simp [State.modCluster, State.cluster]
@[simp] theorem modLaunch_teams (s : State) (k : Nat) (f : Launch → Launch) : (s.modLaunch k f).teams = s.teams := rfl
@[simp] theorem modPart_teams (s : State) (k : Nat) (f : Part → Part) : (s.modPart k f).teams = s.teams := rfl
@[simp] theorem modCtx_teams (s : State) (k : Nat) (f : Ctx → Ctx) : (s.modCtx k f).teams = s.teams := rfl
@[simp] theorem modCtx_ctx (s : State) (k : Nat) (f : Ctx → Ctx) : (s.modCtx k f).ctx k = f (s.ctx k) := by
  simp [State.modCtx, State.ctx]
@[simp] theorem emit_teams (s : State) (m : Msg) : (s.emit m).teams = s.teams := rfl
@[simp] theorem emit_outbox (s : State) (m : Msg) : (s.emit m).outbox = s.outbox ++ [m] := rfl

theorem team_of_get? {s : State} {k : Nat} {t : Team} (h : Tbl.get? s.teams k = some t) : s.team k = t := by
  simp [State.team, Tbl.getD, h]

/-! ## Registers -/

theorem writesS_setS (r : TeamRegs) (d : Nat) (v : Word) : WritesS r (r.setS d v) d v := by
  unfold TeamRegs.setS
  by_cases h : d = 0
  · subst h; exact ⟨by simp [TeamRegs.getS], fun n _ => by simp, by simp⟩
  · simp only [h, if_false]
    exact ⟨by simp [TeamRegs.getS, h], fun n hn => by simp [TeamRegs.getS, hn], rfl⟩

theorem writesK_setK (r : TeamRegs) (d : Nat) (m : Mask) : WritesK r (r.setK d m) d m := by
  unfold TeamRegs.setK
  by_cases h : d = 0
  · subst h; exact ⟨by simp, fun n _ => by simp, by simp⟩
  · simp only [h, if_false]
    exact ⟨fun _ => by simp [TeamRegs.getK], fun n hn => by simp [TeamRegs.getK, h] at hn ⊢; simp [hn], rfl⟩

@[simp] theorem writes_nil (r : TeamRegs) : r.writes [] = r := rfl
theorem writes_s (r : TeamRegs) (d : Nat) (v : Word) : r.writes [.s d v] = r.setS d v := rfl
@[simp] theorem setS_lanes (r : TeamRegs) (d : Nat) (v : Word) : (r.setS d v).lanes = r.lanes := by
  unfold TeamRegs.setS; split_ifs <;> rfl

end Sys2Proof.Machine
end

