-- ==== Sys2Proof/Laws/Issue.lean ====
section
/-! SUPPORT. What leaving the issue slot, waiting and raising can do, each said once: the lemmas that statements about team
instructions rest on. -/

namespace Sys2Proof.Machine

/-! ## Counting changes nothing but counters -/

theorem count_eq (s : State) (c ev n : Nat) : ∃ x, s.count c ev n = { s with ctxs := x } ∧
    ∀ j, (Tbl.get? x j).map (fun y => ({ y with perf := {} } : Ctx)) = (Tbl.get? s.ctxs j).map fun y => ({ y with perf := {} } : Ctx) := by
  unfold State.count
  split
  · next x hx =>
    split_ifs
    · exact ⟨s.ctxs, rfl, fun _ => rfl⟩
    · refine ⟨_, rfl, fun j => ?_⟩
      rw [Tbl.get?_put]
      split_ifs with h
      · subst h; simp [hx]
      · rfl
  · exact ⟨s.ctxs, rfl, fun _ => rfl⟩

theorem SameButCounters.refl (s : State) : SameButCounters s s := ⟨s.ctxs, rfl, fun _ => rfl⟩
theorem SameButCounters.trans {a b c : State} (h : SameButCounters a b) (g : SameButCounters b c) : SameButCounters a c := by
  obtain ⟨x, rfl, hx⟩ := h
  obtain ⟨y, rfl, hy⟩ := g
  exact ⟨y, rfl, fun j => (hy j).trans (hx j)⟩
theorem sameBut_count (s : State) (c ev n : Nat) : SameButCounters s (s.count c ev n) := count_eq s c ev n
theorem sameBut_countIssue (s : State) (c : Nat) (w : Word32) (p : Nat) : SameButCounters s (s.countIssue c w p) := by
  unfold State.countIssue
  have h := (sameBut_count s c 1 1).trans (sameBut_count (s.count c 1 1) c 2 p)
  dsimp only
  split
  · exact h.trans (sameBut_count _ _ _ _)
  · exact h
theorem sameBut_countSkips (s : State) (t : Team) (c : Cur) : SameButCounters s (s.countSkips t c) := sameBut_count ..

/-- Counting before or after keeps what leaving the slot says. -/
theorem Leaves.count {s s' s'' : State} {c : Cur} {t t' : Team} {z : BitVec 1} {next : Word} {e : Entry} {p : Nat}
    (h : Leaves s s' c t z next e p t') (g : SameButCounters s' s'') : Leaves s s'' c t z next e p t' := by
  obtain ⟨x, rfl, hx⟩ := g
  exact { h with only := { others := h.only.others, ctxs := fun j => (hx j).trans (h.only.ctxs j), rest := h.only.rest } }

theorem Leaves.countBefore {s s0 s' : State} {c : Cur} {t t' : Team} {z : BitVec 1} {next : Word} {e : Entry} {p : Nat}
    (h : Leaves s0 s' c t z next e p t') (g : SameButCounters s s0) : Leaves s s' c t z next e p t' := by
  obtain ⟨x, rfl, hx⟩ := g
  refine { h with only := { others := h.only.others, ctxs := fun j => (h.only.ctxs j).trans (hx j), rest := ?_ } }
  have hr := congrArg (fun y : State => { y with ctxs := s.ctxs }) h.only.rest
  exact hr

/-! ## Leaving the issue slot -/

/-- The team that `finishAt` leaves. -/
def leftTeam (s : State) (c : Cur) (t : Team) (z : BitVec 1) (next : Word) (e : Entry) : Team :=
  let rq := pruneRq (t.sync.rq ++ [{ e with id := t.sync.nextEntry }])
  let sy := { t.sync with rq := rq, nextEntry := t.sync.nextEntry + 1 }
  let park := if t.sync.park ≠ .run then t.sync.park else if z = 1 && sy.longOut then .switch else .run
  { t with
    flow := { t.flow with pc := (if c.inj then t.flow.pc else next), hints := [] }
    sync := { sy with park := park }
    sched := { t.sched with lastIssue := s.now, readySince := s.now, waited := 0, aged := false, retry := false, skipBp := false, stepped := t.sched.stepping } }

/-- Leaving the issue slot does what `Leaves` says, and nothing else. -/
theorem finishAt_leaves (s : State) (c : Cur) (t : Team) (z : BitVec 1) (next : Word) (e : Entry) (p : Nat) :
    Leaves s (finishAt s c t z next e p) c t z next e p (leftTeam s c t z next e) := by
  have base : Leaves s ({ s.setTeam c.team (leftTeam s c t z next e) with cur := none, issued := Tbl.put s.issued t.id.core (max 1 p) } : State)
      c t z next e p (leftTeam s c t z next e) := by
    refine ⟨⟨fun j hj => ?_, fun _ => rfl, rfl⟩, ?_, rfl, ?_, rfl, rfl, rfl, rfl, fun h => ?_, fun h => ?_, rfl⟩
    · simp [hj]
    · simp
    · simp
    · simp [leftTeam, h]
    · simp [leftTeam, h, TeamSync.longOut]
  exact base.count ((sameBut_countIssue _ _ _ _).trans (sameBut_count ..))

theorem finishShort_leaves (s : State) (c : Cur) (t : Team) (z : BitVec 1) (ws : List RegWrite) (p : Nat) :
    ∃ t', Leaves s (finishShort s c t z ws p) c { t with regs := t.regs.writes ws } z c.next { c.entry with done := true } p t' :=
  ⟨_, finishAt_leaves ..⟩

theorem finishJump_leaves (s : State) (c : Cur) (t : Team) (z : BitVec 1) (ws : List RegWrite) (next : Word) :
    ∃ t', Leaves s (finishJump s c t z ws next) c { t with regs := t.regs.writes ws } z next { c.entry with done := true } 1 t' :=
  ⟨_, finishAt_leaves ..⟩

theorem finishLong_leaves (s : State) (c : Cur) (t : Team) (z : BitVec 1) (d : Nat) (v : Word) :
    ∃ t', Leaves s (finishLong s c t z [.s d v] 1) c t z c.next { c.entry with res := [.s d v], dest := [(0, d)] } 1 t' := by
  have h : finishLong s c t z [.s d v] 1 = finishAt s c t z c.next { c.entry with res := [.s d v], dest := [(0, d)] } 1 := by
    simp [finishLong, destsOf]
  exact ⟨_, h ▸ finishAt_leaves ..⟩

/-! ## The form of a meaning -/

theorem withCur_eq {s : State} {c : Cur} {t : Team} (h : Performs s c t) (f : Cur → Team → State) : withCur s f = .next (f c t) := by
  unfold withCur; rw [h.cur]; simp only []; rw [h.team]

theorem shortS_of {i : Instr} {s : State} {c : Cur} {t : Team} {z : BitVec 1} {d : Nat} {v : Word}
    (h : exec i s = .next (finishShort s c t z [.s d v] 1)) : ShortS i s c t z d v := by
  obtain ⟨t', ht⟩ := finishShort_leaves s c t z [.s d v] 1
  exact ⟨_, t', _, h, writesS_setS t.regs d v, ht⟩

theorem longS_of {i : Instr} {s : State} {c : Cur} {t : Team} {z : BitVec 1} {d : Nat} {v : Word}
    (h : exec i s = .next (finishLong s c t z [.s d v] 1)) : LongS i s c t z d v := by
  obtain ⟨t', ht⟩ := finishLong_leaves s c t z d v
  exact ⟨_, t', h, ht⟩

theorem becomes_of {i : Instr} {s : State} {c : Cur} {t1 : Team} {z : BitVec 1}
    (h : exec i s = .next (finishShort s c t1 z [] 1)) : Becomes i s c t1 z := by
  obtain ⟨t', ht⟩ := finishShort_leaves s c t1 z [] 1
  exact ⟨_, t', h, ht⟩

/-! ## Waiting -/

theorem waitHere_waits (s : State) (c : Cur) (t : Team) (p : Park) : ∃ t', Waits s (waitHere s c t p) c t p t' := by
  let t1 : Team := { t with
    flow := { t.flow with pc := (if c.inj then t.flow.pc else c.entry.pc), hints := (if c.inj then [] else c.hintWords) }
    sync := { t.sync with park := p, reinj := (if c.inj then c.entry :: t.sync.reinj else t.sync.reinj) }
    sched := { t.sched with lastIssue := s.now } }
  refine ⟨t1, ⟨⟨fun j hj => ?_, fun _ => rfl, rfl⟩, ?_, rfl, rfl, fun h => ?_, rfl, ⟨rfl, rfl, rfl⟩, rfl⟩⟩
  · simp [waitHere, hj]
  · simp [waitHere, t1]
  · simp [t1, h]

end Sys2Proof.Machine
end

