-- ==== Sys2Proof/Laws/Lanes.lean ====
section
/-! SUPPORT. What the lane-wise finishes write, said once: register `d` in the governed lanes, zeros under `zero`, and nothing
else. -/

namespace Sys2Proof.Machine

theorem mem_lanesOf {m : Mask} {n l : Nat} : l ∈ lanesOf m n ↔ l < n ∧ m.getLsbD l = true := by
  simp [lanesOf]

theorem lanesOf_lt {m : Mask} {n l : Nat} (h : l ∈ lanesOf m n) : l < 1024 := by
  rw [mem_lanesOf] at h
  by_contra hl
  rw [BitVec.getLsbD_of_ge m l (by omega)] at h
  exact absurd h.2 (by decide)

theorem getV_setV (r : TeamRegs) (n l n' l' : Nat) (v : Word) (h : l < 1024) (h' : l' < 1024) :
    (r.setV n l v).getV n' l' = if n' = n ∧ l' = l then v else r.getV n' l' := by
  unfold TeamRegs.setV TeamRegs.getV
  dsimp only
  rw [Tbl.getD_putD]
  have : (1024 * n' + l' = 1024 * n + l) ↔ (n' = n ∧ l' = l) := by omega
  simp only [this]

/-- Writing a list of lanes of one register. -/
theorem writes_lanes (d : Nat) (f : Nat → Word) (L : List Nat) (hL : ∀ l ∈ L, l < 1024) (r : TeamRegs) :
    ({ r.writes (L.map fun l => .v d l (f l)) with v := r.v } : TeamRegs) = r ∧
    ∀ n l, l < 1024 → (r.writes (L.map fun l => .v d l (f l))).getV n l = if n = d ∧ l ∈ L then f l else r.getV n l := by
  induction L generalizing r with
  | nil => exact ⟨rfl, fun n l _ => by simp [TeamRegs.writes]⟩
  | cons a L ih =>
    have hr := ih (fun l hl => hL l (List.mem_cons_of_mem _ hl)) (r.setV d a (f a))
    have e : r.writes ((a :: L).map fun l => .v d l (f l)) = (r.setV d a (f a)).writes (L.map fun l => .v d l (f l)) := rfl
    rw [e]
    refine ⟨?_, fun n l hl => ?_⟩
    · have h1 := congrArg (fun x : TeamRegs => ({ x with v := r.v } : TeamRegs)) hr.1
      exact h1
    · rw [hr.2 n l hl, getV_setV _ _ _ _ _ _ (hL a (List.mem_cons_self ..)) hl]
      by_cases h1 : n = d <;> by_cases h2 : l = a <;> by_cases h3 : l ∈ L <;> simp [h1, h2, h3]

theorem writes_append (r : TeamRegs) (a b : List RegWrite) : r.writes (a ++ b) = (r.writes a).writes b := by
  simp [TeamRegs.writes]

/-- R273, R492: what the writes of a lane-wise instruction come to. -/
theorem laneWrites_writesV (t : Team) (c : Cur) (d : Nat) (f : Nat → Word) :
    WritesV t.regs (t.regs.writes (laneWrites t c d f)) (gov t c) t.flow.pres c.zero d f := by
  unfold laneWrites
  dsimp only
  have hempty : ∀ l, gov t c &&& ones t.regs.lanes = 0 → l < t.regs.lanes → l < 1024 → (gov t c).getLsbD l = false := by
    intro l h h1 h2
    have := congrArg (fun m : Mask => m.getLsbD l) h
    have ho : (ones t.regs.lanes).getLsbD l = true := by
      unfold ones
      rw [BitVec.getLsbD_ofNat, Nat.testBit_two_pow_sub_one]
      simp [h1, h2]
    simpa [ho] using this
  split_ifs with hg hz
  · refine ⟨fun l hl => ?_, fun n l _ _ => rfl, rfl⟩
    have h1 : ¬ (l < t.regs.lanes ∧ (gov t c).getLsbD l = true) := fun h => by simp [hempty l hg h.1 hl] at h
    have h2 : ¬ ((gov t c &&& ones t.regs.lanes) ≠ 0) := fun h => h hg
    simp only [h1, h2, false_and, and_false, if_false]; rfl
  · set A := lanesOf (gov t c) t.regs.lanes with hA
    set B := lanesOf (t.flow.pres &&& ~~~gov t c) t.regs.lanes with hB
    have wA := writes_lanes d f A (fun l h => lanesOf_lt h) t.regs
    have wB := writes_lanes d (fun _ => 0) B (fun l h => lanesOf_lt h) (t.regs.writes (A.map fun l => .v d l (f l)))
    rw [writes_append]
    refine ⟨fun l hl => ?_, fun n l hn hl => ?_, ?_⟩
    · rw [wB.2 d l hl, wA.2 d l hl]
      have mA : l ∈ A ↔ l < t.regs.lanes ∧ (gov t c).getLsbD l = true := mem_lanesOf
      have mB : l ∈ B ↔ l < t.regs.lanes ∧ (t.flow.pres &&& ~~~gov t c).getLsbD l = true := mem_lanesOf
      rw [BitVec.getLsbD_and, BitVec.getLsbD_not] at mB
      simp only [mA, mB]
      generalize (gov t c).getLsbD l = x
      generalize t.flow.pres.getLsbD l = y
      by_cases h1 : l < t.regs.lanes <;> cases x <;> cases y <;> simp [h1, hz, hl];
        exact fun h => absurd h hg
    · rw [wB.2 n l hl, wA.2 n l hl]; simp [hn]
    · have h1 := congrArg (fun x : TeamRegs => ({ x with v := t.regs.v } : TeamRegs)) wB.1
      exact h1.trans wA.1
  · set A := lanesOf (gov t c) t.regs.lanes with hA
    have wA := writes_lanes d f A (fun l h => lanesOf_lt h) t.regs
    rw [List.append_nil]
    refine ⟨fun l hl => ?_, fun n l hn hl => ?_, wA.1⟩
    · rw [wA.2 d l hl]
      have mA : l ∈ A ↔ l < t.regs.lanes ∧ (gov t c).getLsbD l = true := mem_lanesOf
      simp [mA, hz]
    · rw [wA.2 n l hl]; simp [hn]

theorem laneShort_leaves (s : State) (c : Cur) (t : Team) (z : BitVec 1) (d : Nat) (f : Nat → Word) :
    ∃ t', Leaves s (laneShort s c t z d f) c { t with regs := t.regs.writes (laneWrites t c d f) } z c.next { c.entry with done := true } (lanePasses t c) t' := by
  obtain ⟨t', h⟩ := finishShort_leaves s c t z (laneWrites t c d f) (lanePasses t c)
  exact ⟨t', h.count (sameBut_countSkips ..)⟩

theorem laneLong_leaves (s : State) (c : Cur) (t : Team) (z : BitVec 1) (d : Nat) (f : Nat → Word) :
    ∃ t', Leaves s (laneLong s c t z d f) c t z c.next
      (if laneWrites t c d f = [] then { c.entry with done := true } else { c.entry with res := laneWrites t c d f, dest := destsOf (laneWrites t c d f) })
      (lanePasses t c) t' := by
  unfold laneLong finishLong
  split_ifs with h
  · exact ⟨_, (finishAt_leaves ..).count (sameBut_countSkips ..)⟩
  · exact ⟨_, (finishAt_leaves ..).count (sameBut_countSkips ..)⟩

/-- A meaning that finishes lane by lane with a short result. -/
theorem shortV_of {i : Instr} {s : State} {c : Cur} {t : Team} {z : BitVec 1} {d : Nat} {f : Nat → Word}
    (h : exec i s = .next (laneShort s c t z d f)) : ShortV i s c t z d f := by
  obtain ⟨t', ht⟩ := laneShort_leaves s c t z d f
  exact ⟨_, t', _, h, laneWrites_writesV t c d f, ht⟩

/-- A meaning that finishes lane by lane with a long result. -/
theorem longV_of {i : Instr} {s : State} {c : Cur} {t : Team} {z : BitVec 1} {d : Nat} {f : Nat → Word}
    (h : exec i s = .next (laneLong s c t z d f)) : LongV i s c t z d f := by
  obtain ⟨t', ht⟩ := laneLong_leaves s c t z d f
  exact ⟨_, t', _, h, laneWrites_writesV t c d f, ht⟩

/-- A floating meaning, whose diverted passes make its result long. -/
theorem floatV_of {i : Instr} {s : State} {c : Cur} {t : Team} {z : BitVec 1} {d : Nat} {f : Nat → Word} {long : Bool} {div : Nat → Bool}
    (h : exec i s = .next (laneFp s c t z d long f div)) : FloatV long div i s c t z d f := by
  have hbad : ((lanesOf (gov t c) t.regs.lanes).filter div ≠ []) ↔ ∃ l, l < t.regs.lanes ∧ (gov t c).getLsbD l = true ∧ div l = true := by
    rw [Ne, List.filter_eq_nil_iff]
    push Not
    simp only [mem_lanesOf, and_assoc]
  unfold FloatV laneFp at *
  dsimp only at h
  have hc := sameBut_count s t.id.ctx 4 (passCount (maskOf ((lanesOf (gov t c) t.regs.lanes).filter div)) (t.regs.lanes / 32))
  split_ifs with hl
  · rw [if_pos (by rcases hl with hl | hl; · simp [hl]
                   · simp only [Bool.or_eq_true, decide_eq_true_eq]; exact .inr (hbad.2 hl))] at h
    obtain ⟨t', ht⟩ := laneLong_leaves _ c t z d f
    exact ⟨_, t', _, h, laneWrites_writesV t c d f, ht.countBefore hc⟩
  · rw [if_neg (by
      simp only [Bool.or_eq_true, decide_eq_true_eq, not_or] at hl ⊢
      exact ⟨hl.1, fun hb => hl.2 (hbad.1 hb)⟩)] at h
    obtain ⟨t', ht⟩ := laneShort_leaves _ c t z d f
    refine ⟨_, t', _, h, laneWrites_writesV t c d f, ?_⟩
    exact ht.countBefore hc

end Sys2Proof.Machine
end

