-- ==== Sys2Proof/Laws/Mem.lean ====
section
/-! SUPPORT. The laws of memory: read after write, and that every memory operation keeps the canonical form. -/

namespace Sys2Proof.Machine

theorem memWf_iff (m : List Host.Cell) : memWf m = true ↔ Tbl.sorted (α := Byte) m = true ∧ ∀ c ∈ m, c.2 ≠ 0 := by
  simp [memWf, List.all_eq_true]

/-- The memory after reset has the canonical form. -/
theorem memWf_reset : memWf State.reset.mem = true := rfl

@[simp] theorem memGet_memPut (m : List Host.Cell) (a x : Nat) (b : Byte) : memGet (memPut m a b) x = if x = a then b else memGet m x :=
  Tbl.getD_putD (α := Byte) m a x b 0

/-- A byte written keeps the canonical form. -/
theorem memWf_memPut {m : List Host.Cell} (a : Nat) (b : Byte) (h : memWf m = true) : memWf (memPut m a b) = true := by
  rw [memWf_iff] at h ⊢
  unfold memPut Tbl.putD
  split_ifs with hb
  · exact ⟨Tbl.sorted_del (α := Byte) a h.1, fun c hc => h.2 c (Tbl.mem_del (α := Byte) hc)⟩
  · refine ⟨Tbl.sorted_put (α := Byte) a b h.1, fun c hc => ?_⟩
    rcases Tbl.mem_put (α := Byte) hc with rfl | hc
    · exact hb
    · exact h.2 c hc

/-- A run of bytes written keeps the canonical form. -/
theorem memWf_memPuts {m : List Host.Cell} (a : Nat) (bs : List Byte) (h : memWf m = true) : memWf (memPuts m a bs) = true := by
  induction bs generalizing m a with
  | nil => exact h
  | cons b r ih => exact ih _ (memWf_memPut a b h)

/-- Outside a written run every byte reads as before. -/
theorem memGet_memPuts_off (m : List Host.Cell) (a x : Nat) (bs : List Byte) (h : x < a ∨ a + bs.length ≤ x) :
    memGet (memPuts m a bs) x = memGet m x := by
  induction bs generalizing m a with
  | nil => rfl
  | cons b r ih =>
    simp only [List.length_cons] at h
    show memGet (memPuts (memPut m a b) (a + 1) r) x = _
    rw [ih _ _ (by omega), memGet_memPut, if_neg (by omega)]

/-- Inside a written run every byte reads as written. -/
theorem memGet_memPuts_at (m : List Host.Cell) (a j : Nat) (bs : List Byte) (h : j < bs.length) : memGet (memPuts m a bs) (a + j) = bs[j] := by
  induction bs generalizing m a j with
  | nil => cases h
  | cons b r ih =>
    show memGet (memPuts (memPut m a b) (a + 1) r) (a + j) = _
    cases j with
    | zero => rw [memGet_memPuts_off _ _ _ _ (by omega), memGet_memPut]; simp
    | succ j =>
      have := ih (memPut m a b) (a + 1) j (by simpa using h)
      rw [show a + (j + 1) = a + 1 + j by omega, this]
      rfl

/-- Bytes of a line written under a mask keep the canonical form. -/
theorem memWf_memPutLine {m : List Host.Cell} (a : Nat) (mask : BitVec 64) (d : Line) (h : memWf m = true) : memWf (memPutLine m a mask d) = true := by
  have go : ∀ (l : List Nat) (m : List Host.Cell), memWf m = true →
      memWf (l.foldl (fun m i => if mask.getLsbD i then memPut m (lineBase a + i) (lineByte d i) else m) m) = true := by
    intro l
    induction l with
    | nil => exact fun m h => h
    | cons i r ih =>
      intro m h
      refine ih _ ?_
      dsimp only
      split
      · exact memWf_memPut _ _ h
      · exact h
  exact go _ m h

/-- Outside its line a masked write changes no byte. -/
theorem memGet_memPutLine_off (m : List Host.Cell) (a x : Nat) (mask : BitVec 64) (d : Line) (h : x < lineBase a ∨ lineBase a + 64 ≤ x) :
    memGet (memPutLine m a mask d) x = memGet m x := by
  have go : ∀ (l : List Nat) (m : List Host.Cell), (∀ i ∈ l, i < 64) →
      memGet (l.foldl (fun m i => if mask.getLsbD i then memPut m (lineBase a + i) (lineByte d i) else m) m) x = memGet m x := by
    intro l
    induction l with
    | nil => exact fun m _ => rfl
    | cons i r ih =>
      intro m hl
      have hi := hl i (List.mem_cons_self ..)
      rw [List.foldl_cons, ih _ fun j hj => hl j (List.mem_cons_of_mem _ hj)]
      split
      · rw [memGet_memPut, if_neg (by omega)]
      · rfl
  exact go _ m fun i hi => List.mem_range.1 hi

theorem sorted_filter {α : Type} (p : Nat × α → Bool) (t : Tbl α) (h : Tbl.sorted t = true) : Tbl.sorted (t.filter p) = true := by
  induction t with
  | nil => rfl
  | cons q r ih =>
    obtain ⟨j, b⟩ := q
    rw [Tbl.sorted_cons] at h
    by_cases hq : p (j, b) = true
    · rw [List.filter_cons_of_pos hq, Tbl.sorted_cons]
      refine ⟨?_, ih h.2⟩
      cases hr : r.filter p with
      | nil => trivial
      | cons x y =>
        have hx : x ∈ r := (List.mem_filter.1 (by rw [hr]; exact List.mem_cons_self ..)).1
        exact Tbl.above_trans h.1 h.2 x hx
    · rw [List.filter_cons_of_neg hq]; exact ih h.2

/-- Bytes taken out of memory leave the canonical form. -/
theorem memWf_filter {m : List Host.Cell} (p : Host.Cell → Bool) (h : memWf m = true) : memWf (m.filter p) = true := by
  rw [memWf_iff] at h ⊢
  exact ⟨sorted_filter p m h.1, fun c hc => h.2 c (List.mem_filter.1 hc).1⟩

/-! ## The operations on the state's memory -/

theorem memWf_commitLine (s : State) (pa : Nat) (mask : BitVec 64) (d : Line) (pois full : Bool) (h : memWf s.mem = true) :
    memWf (s.commitLine pa mask d pois full).mem = true := memWf_memPutLine _ _ _ h
theorem memWf_writeTrace (s : State) (p ctx kind time : Nat) (data : BitVec 128) (h : memWf s.mem = true) :
    memWf (s.writeTrace p ctx kind time data).mem = true := memWf_memPuts _ _ h
theorem memWf_scrub (s : State) (base len : Nat) (h : memWf s.mem = true) : memWf (s.scrub base len).mem = true := memWf_filter _ h
theorem memWf_zeroRange (s : State) (base len : Nat) (h : memWf s.mem = true) : memWf (s.zeroRange base len).mem = true := memWf_filter _ h

theorem memWf_foldl {α : Type} (f : State → α → State) (hf : ∀ s a, memWf s.mem = true → memWf (f s a).mem = true) (l : List α) (s : State)
    (h : memWf s.mem = true) : memWf (l.foldl f s).mem = true := by
  induction l generalizing s with
  | nil => exact h
  | cons a r ih => exact ih _ (hf s a h)
/-- What a slice caches changes no byte of memory. -/
theorem touchLine_mem (s : State) (ln p cls : Nat) : (s.touchLine ln p cls).mem = s.mem := by
  unfold State.touchLine
  split
  · rfl
  · split
    · rfl
    · rename_i w _
      rcases w with ⟨w, _ | v⟩ <;> rfl
/-- Telling the hosts that hold a line changes no byte of memory. -/
theorem backInvalidate_mem (s : State) (bi : BitVec 16) (ln : Nat) : (s.backInvalidate bi ln).mem = s.mem :=
  (touchLine_mem _ _ _ _).trans (touchLine_mem _ _ _ _)
theorem snoopOut_mem (s : State) (ln : Nat) : (s.snoopOut ln).mem = s.mem := by
  unfold State.snoopOut
  split
  · rfl
  · split
    · rfl
    · rename_i x _ _
      exact backInvalidate_mem s x.bi ln
theorem memWf_flipLines (s : State) (sh : Tbl Shadow) (ds : Tbl Delta) (h : memWf s.mem = true) : memWf (s.flipLines sh ds).mem = true := by
  refine memWf_foldl _ (fun s d h => ?_) ds _ (memWf_foldl _ (fun s x h => ?_) sh _
    (memWf_foldl _ (fun s ln h => (congrArg memWf (snoopOut_mem s ln)).trans h) _ s h))
  · split
    · exact h
    · exact memWf_memPuts _ _ h
  · split
    · exact h
    · exact memWf_commitLine _ _ _ _ _ _ h

/-- Two memories in the canonical form that read the same everywhere are the same data. -/
theorem memWf_ext {m n : List Host.Cell} (hm : memWf m = true) (hn : memWf n = true) (h : ∀ x, memGet m x = memGet n x) : m = n := by
  rw [memWf_iff] at hm hn
  have low : ∀ {t : List Host.Cell} {i x : Nat}, Tbl.above (α := Byte) i t → Tbl.sorted (α := Byte) t = true → x ≤ i → memGet t x = 0 := by
    intro t
    induction t with
    | nil => intros; rfl
    | cons q r ih =>
      obtain ⟨j, b⟩ := q
      intro i x ha hs hx
      rw [Tbl.sorted_cons] at hs
      have hj : i < j := ha
      have : memGet ((j, b) :: r) x = memGet r x := by simp [memGet, Tbl.getD, Tbl.get?, show ¬ j = x by omega]
      rw [this]
      exact ih hs.1 hs.2 (by omega)
  have head : ∀ (j : Nat) (b : Byte) (r : List Host.Cell), memGet ((j, b) :: r) j = b := by intros; simp [memGet, Tbl.getD, Tbl.get?]
  have tail : ∀ (j x : Nat) (b : Byte) (r : List Host.Cell), x ≠ j → memGet ((j, b) :: r) x = memGet r x := by
    intro j x b r hx; simp [memGet, Tbl.getD, Tbl.get?, Ne.symm hx]
  induction m generalizing n with
  | nil =>
    cases n with
    | nil => rfl
    | cons q r => obtain ⟨j, b⟩ := q; exact absurd ((head j b r).symm.trans (h j).symm) (hn.2 (j, b) (List.mem_cons_self ..))
  | cons q r ih =>
    obtain ⟨j, b⟩ := q
    cases n with
    | nil => exact absurd ((head j b r).symm.trans (h j)) (hm.2 (j, b) (List.mem_cons_self ..))
    | cons q' r' =>
      obtain ⟨j', b'⟩ := q'
      have hs := (Tbl.sorted_cons j b r).1 hm.1
      have hs' := (Tbl.sorted_cons j' b' r').1 hn.1
      have e : j = j' := by
        rcases Nat.lt_trichotomy j j' with hlt | heq | hgt
        · have := h j
          rw [head, low (t := (j', b') :: r') (i := j) (show j < j' from hlt) hn.1 (Nat.le_refl _)] at this
          exact absurd this (hm.2 (j, b) (List.mem_cons_self ..))
        · exact heq
        · have := h j'
          rw [head, low (t := (j, b) :: r) (i := j') (show j' < j from hgt) hm.1 (Nat.le_refl _)] at this
          exact absurd this.symm (hn.2 (j', b') (List.mem_cons_self ..))
      subst e
      have eb : b = b' := by have := h j; rwa [head, head] at this
      subst eb
      have er : r = r' := by
        refine ih ⟨hs.2, fun c hc => hm.2 c (List.mem_cons_of_mem _ hc)⟩ ⟨hs'.2, fun c hc => hn.2 c (List.mem_cons_of_mem _ hc)⟩ fun x => ?_
        by_cases hx : x = j
        · subst hx
          rw [low hs.1 hs.2 (Nat.le_refl _), low hs'.1 hs'.2 (Nat.le_refl _)]
        · have := h x
          rwa [tail _ _ _ _ hx, tail _ _ _ _ hx] at this
      rw [er]

end Sys2Proof.Machine
end

