-- ==== Sys2Proof/Laws/Trap.lean ====
section
/-! SUPPORT. Taking a recoverable cause at once: what `State.raise` leaves in a team with nothing outstanding whose context has
a handler. -/

namespace Sys2Proof.Machine

theorem sameBut_traceTrap {s : State} {t : Team} {cause : Nat} {pc : Word} (h : (s.part t.id.part).cfg.trsize = 0) :
    SameButCounters s (s.traceTrap t cause pc) := by
  unfold State.traceTrap
  have h1 := sameBut_count s t.id.ctx 61 1
  obtain ⟨x, hx, hc⟩ := h1
  rw [hx]
  dsimp only
  split_ifs
  · have : State.postTrace ({ s with ctxs := x } : State) t.id.part t.id.ctx 3
      (BitVec.ofNat 128 (cause + causeClass cause * 256 + t.id.index * 2 ^ 32 + pc.toNat % 2 ^ 32 * 2 ^ 64)) true = { s with ctxs := x } := by
      unfold State.postTrace
      have : (({ s with ctxs := x } : State).part t.id.part).cfg.trsize = 0 := h
      simp [this]
    rw [this]
    exact ⟨x, rfl, hc⟩
  · exact ⟨x, rfl, hc⟩

/-- Counting keeps every register of a context but the counters. -/
theorem ctx_dbg_of_same {s s' : State} (h : SameButCounters s s') (k : Nat) : (s'.ctx k).dbg = (s.ctx k).dbg := by
  obtain ⟨x, rfl, hx⟩ := h
  have := hx k
  unfold State.ctx Tbl.getD
  revert this
  dsimp only
  cases Tbl.get? x k <;> cases Tbl.get? s.ctxs k <;> intro this <;> simp_all

/-- What a frame keeps of an entry. -/
theorem frameEntry_keeps (lanes hd : Nat) (e : Entry) :
    (frameEntry lanes hd false e).pc = e.pc ∧ (frameEntry lanes hd false e).word = e.word ∧ (frameEntry lanes hd false e).done = e.done ∧
    (frameEntry lanes hd false e).faulting = decide (e.id = hd) ∧ (e.done = false → (frameEntry lanes hd false e).gov = e.gov) := by
  unfold frameEntry
  cases h : e.done <;> simp [h]

theorem onlyTeam_setTeam (s : State) (k : Nat) (t : Team) (i : Tbl Nat) : OnlyTeam s { s.setTeam k t with cur := none, issued := i } k :=
  ⟨fun j hj => by simp [hj], fun _ => rfl, rfl⟩

theorem OnlyTeam.count {s s' s'' : State} {k : Nat} (h : OnlyTeam s s' k) (g : SameButCounters s' s'') : OnlyTeam s s'' k := by
  obtain ⟨x, rfl, hx⟩ := g
  exact ⟨h.others, fun j => (hx j).trans (h.ctxs j), h.rest⟩

theorem OnlyTeam.setTeam {s s' : State} {k : Nat} (h : OnlyTeam s s' k) (t : Team) : OnlyTeam s (s'.setTeam k t) k :=
  ⟨fun j hj => by simp [hj, h.others j hj], h.ctxs, h.rest⟩

/-- What a raised recoverable cause does in a team with nothing outstanding whose context has a handler. -/
theorem raise_tookTrap {s : State} {c : Cur} {t : Team} {h : Word} (ht : TakesTraps s t h) (hi : c.inj = false)
    (ha : c.entry.accs = [] ∧ c.entry.res = []) (r : Raised) (hr : causeClass r.cause = 0) (h39 : r.cause ≠ 0x39) :
    ∃ t', TookTrap s (s.raise c t r (gov t c)) c t r.cause c.entry.done c.next h t' := by
  let e : Entry := { c.entry with raised := some r, faulting := true, gov := gov t c, id := t.sync.nextEntry }
  let t1 : Team := { t with
    sync := { t.sync with rq := [e], nextEntry := t.sync.nextEntry + 1, park := .run }
    flow := { t.flow with pc := c.next, hints := [] }
    sched := { t.sched with lastIssue := s.now } }
  let s1 : State := { s.setTeam c.team t1 with cur := none, issued := Tbl.put s.issued t.id.core 1 }
  have hset : t1.sync.settled = true := by simp [t1, e, TeamSync.settled, ha]
  have hcan : s1.canTrap t1 = true := by
    have : (s1.part t1.id.part).cfg.trstall = false := ht.untraced.2
    have hf : t1.sched.frozen = none := ht.plain.2.2.2
    simp [State.canTrap, Part.traceFull, this, hf]
  have hraise : s.raise c t r (gov t c) = s1.takeTrap c.team := by
    have e1 : s.raise c t r (gov t c) = if t1.sync.settled && s1.canTrap t1 then s1.takeTrap c.team else s1 := by
      simp only [State.raise, hi, ht.idle.1]
      rfl
    rw [e1, hset, hcan]; rfl
  have hteam : s1.team c.team = t1 := by
    have : s1.team c.team = (s.setTeam c.team t1).team c.team := rfl
    rw [this, setTeam_team]
  let fr : Frame := { tpc := c.next, cause := r.cause, cls := 0, noPc := false, info := r.info, rq := [frameEntry t.regs.lanes e.id false e] }
  have htake : s1.takeTrap c.team = s1.deliver c.team fr := by
    simp only [State.takeTrap, hteam]
    have h1 : headRaised t1.sync.rq = some (e, r) := rfl
    rw [h1]
    have h2 : t1.resumePc = c.next := rfl
    have h3 : pruneRq t1.sync.rq = [e] := by simp [t1, pruneRq, e]
    simp only [h2, h3, hr, decide_eq_false h39]
    have h4 : t1.sync.reinj = [] := ht.idle.2
    rw [h4]; rfl
  let s2 : State := s1.traceTrap t1 r.cause c.next
  have hs2 : SameButCounters s1 s2 := sameBut_traceTrap (t := t1) ht.untraced.1
  have hctx : (s1.ctx t1.id.ctx).dbg = (s.ctx t.id.ctx).dbg := rfl
  let fr' : Frame := { fr with valid := true, dent := t.flow.D, tfmt := t.regs.fmt, tdepth := t.flow.stack.length }
  let t2 : Team := { t1 with
    sync := { t1.sync with rq := [], frame := fr', park := .run, reinj := [], inHandler := true }
    flow := { t1.flow with hints := [], D := t1.flow.pres, pc := BitVec.ofNat 64 (bits (s.ctx t.id.ctx).dbg.tvec.toNat 31 0) }
    sched := { t1.sched with halted := t1.sched.halted || false, stepping := false } }
  have hdel : s1.deliver c.team fr = s2.setTeam c.team t2 := by
    have p1 : t1.id.landed = false := ht.plain.2.1
    have p2 : t1.sync.inHandler = false := ht.plain.1
    have p3 : t1.sched.stepping = false := ht.plain.2.2.1
    have p4 : (s1.ctx t1.id.ctx).dbg.att = false := ht.handler.2
    have p5 : bit (s1.ctx t1.id.ctx).dbg.tvec.toNat 63 = true := ht.handler.1
    have q1 : ¬ causeClass fr.cause = 2 := by show ¬ causeClass r.cause = 2; rw [hr]; decide
    have q2 : ¬ causeClass fr.cause = 1 := by show ¬ causeClass r.cause = 1; rw [hr]; decide
    simp only [State.deliver, hteam, p1, p2, p3, p4, p5, if_neg q1, if_neg q2, Bool.and_false, Bool.false_eq_true, if_false, or_true, if_true]
    rfl
  rw [hraise, htake, hdel]
  have base : OnlyTeam s s2 c.team := (onlyTeam_setTeam s c.team t1 _).count hs2
  have hcur : s2.cur = none := by obtain ⟨x, hx, _⟩ := hs2; rw [hx]
  refine ⟨t2, base.setTeam t2, by simp, hcur, rfl, rfl, rfl, rfl, ⟨rfl, rfl, rfl⟩, ?_, ?_, rfl, rfl, rfl, rfl, ⟨rfl, rfl⟩⟩
  · refine ⟨_, rfl, (frameEntry_keeps _ _ e).1, (frameEntry_keeps _ _ e).2.1, (frameEntry_keeps _ _ e).2.2.1, fun hd => ?_⟩
    exact ⟨((frameEntry_keeps _ _ e).2.2.2.1).trans (decide_eq_true rfl), (frameEntry_keeps _ _ e).2.2.2.2 hd⟩
  · exact ht.entry.symm

end Sys2Proof.Machine
end

