-- ==== Sys2Proof/Tests/Slice0.lean ====
section
/-! SUPPORT. Tests: what the well-formedness check refuses, words written out from the spec's encodings, one step of a few
instructions, and for each statement with hypotheses a state and operands that meet them. -/

namespace Sys2Proof.Tests

set_option Elab.async false

open Sys2Proof.Machine

/-! ## Ill-formed terms, one for each check (R486 to R490, R498) -/

theorem test_refuses_types : [Instr.vdot4 0 1 2 3 0, .vwmul 0 1 2 3 4, .vfadd 0 1 2 3 5, .vfabs 0 1 2 5, .vcvt 0 1 2 0 5 0, .vcvti 0 1 2 0 0 0 5,
    .vpack 0 1 2 3 0, .vunpack 0 1 2 0 5, .vrcp 0 1 2 4, .vscan 0 1 2 6 0 5, .vred 0 1 2 7 6, .afadd 0 1 2 3 4, .aadd 0 1 2 3 2].map typeOk =
    List.replicate 13 false := by decide

theorem test_refuses_fields : [Instr.widf 0 1 6, .vcvt 0 1 2 1 0 0, .vcvt 0 1 2 2 0 1, .vcvti 0 1 2 0 2 0 1, .vcvti 0 1 2 1 1 0 0, .vscan 0 1 2 9 0 0,
    .vred 0 1 2 15 0, .ld 0 1 2 3 3 0, .st 0 1 2 3 7 0, .pf 0 2 3 4 0, .sld 0 1 2 3 3 0, .sldFePeek 0 1 2 3 3 0, .sstFull 0 1 2 3 3 0, .saadd 0 1 2 3 0 3,
    .acas 0 63 1 2 0, .salloc 0 1 2 3 0 3, .salloc 0 1 2 3 1 0, .smap 0 1 2 0 0, .smap 0 1 2 1 3, .enqCopy 0 1 0, .enqKscan 0 1 57].map fieldsOk =
    List.replicate 21 false := by decide

theorem test_refuses_pairs_and_parameters : [Instr.kvopen 0 0 1, .kvopenDs 0 63 1, .kvapp 0 63 1 2, .kvtrunc 0 0 1 2, .kvfork 0 63 1 2, .kvlook 0 0 1 2,
    .kvlookIns 0 63 1 2, .modxWord 0 0 0 2 0 0, .modxWord 0 0 0 0 0 2048, .modxWord 0 0 0 0 1 8192, .modxWord 0 0 0 0 2 1024, .modxWord 0 0 0 0 3 0,
    .modxWord 0 0 0 0 3 11].map fieldsOk = List.replicate 13 false := by decide

theorem test_accepts : [Instr.vdot4 0 1 2 3 5, .vwmul 0 1 2 3 7, .vcvt 0 1 2 1 1 0, .vcvti 0 1 2 1 0 1 1, .widf 0 1 5, .acas 0 62 1 2 1, .salloc 0 1 2 3 1 2,
    .smap 0 1 2 1 2, .enqCopy 0 1 56, .kvopen 0 62 1, .modxWord 0 0 0 1 3 10].map wellFormed = List.replicate 11 true := by decide

/-! ## Words written out from the encodings and the examples of the spec (R486 to R500, R685 to R709) -/

theorem test_decode_scalar : decodeTableWord 32 0x082081C6 = some (.sshl 0 4 4 3 1) ∧ decodeTableWord 32 0x08085FC0 = some (.sadd 0 1 2 0x3F 1) ∧
    decodeTableWord 32 0x0A2806A0 = some (.saddi 0 5 0 0x6A0) ∧ decodeTableWord 32 0x24104004 = some (.kandn 0 2 2 0) := by decide
theorem test_decode_vector : decodeTableWord 32 0x10082081 = some (.vadd 0 1 1 1 1) ∧ decodeTableWord 32 0x10082144 = some (.vsll 0 1 1 2 4) ∧
    decodeTableWord 32 0x14484199 = some (.vdot4 0 9 2 3 1) ∧ decodeTableWord 32 0x1A202109 = some (.vfma 0 4 1 2 1) ∧
    decodeTableWord 32 0x1E304501 = some (.vcvt 0 6 2 1 2 1) := by decide
theorem test_decode_cross : decodeTableWord 32 0x22282010 = some (.vscan 0 5 1 0 0 0) ∧ decodeTableWord 32 0x26400014 = some (.vext 0 8 0 0 4) ∧
    decodeTableWord 32 0x2611C00C = some (.vsplat 0 2 14 4) := by decide
theorem test_decode_control : decodeTableWord 32 0x8 = some (.exit 0) ∧ decodeTableWord 32 0x05007FFB = some (.bcLt 0 7 0xFFB) ∧
    decodeTableWord 32 0x06640006 = some (.vdo 0 1 6) ∧ decodeTableWord 32 0x06080002 = some (.vif 0 2 2) ∧ decodeTableWord 32 0x06200002 = some (.velse 0 2) ∧
    decodeTableWord 32 0x06400000 = some (.vendif 0) ∧ decodeTableWord 32 0x06800000 = some (.vwhile 0 0) ∧ decodeTableWord 32 0x06A00000 = some (.vbrk 0 0) := by decide
theorem test_decode_system : decodeTableWord 32 0x02204000 = some (.getc 0 4 2) ∧ decodeTableWord 32 0x02000012 = some (.setfmtI 0) ∧
    decodeTableWord 32 0x0200001A = some (.widf 0 0 2) := by decide
theorem test_decode_memory : decodeTableWord 32 0xA8088481 = some (.ld 1 1 4 9 0 1) ∧ decodeTableWord 32 0x2A420480 = some (.st 0 8 16 9 0 0) ∧
    decodeTableWord 32 0xBE288000 = some (.lds 1 5 4 0 0) ∧ decodeTableWord 32 0x30184510 = some (.aadd 0 3 2 10 1) ∧
    decodeTableWord 32 0x30288799 = some (.ainc 0 5 4 15 1) := by decide
theorem test_decode_sync : decodeTableWord 32 0x34000012 = some (.fenceAr 0 2) ∧ decodeTableWord 32 0x38288480 = some (.waitc 0 5 4 9 0) ∧
    decodeTableWord 32 0x3C61A286 = some (.salloc 0 12 13 5 1 2) := by decide
theorem test_decode_engine : decodeTableWord 32 0x40620000 = some (.enqCopy 0 12 16) ∧ decodeTableWord 32 0xC82A8A80 = some (.launch 1 5 20 21) ∧
    decodeTableWord 32 0xC832C008 = some (.launchWait 1 6 22) := by decide
theorem test_decode_hints : decodeTableWord 32 0x7C00000C = some (.immWord 12) ∧ decodeTableWord 32 0x7C705285 = some (.immWord 0x705285) ∧
    decodeTableWord 32 0x7E2CC300 = some (.modWord 2 1 1 1 1 3) ∧ decodeTableWord 32 0x7EB0C002 = some (.modxWord 3 0 0 0 3 2) ∧
    decodeTableWord 32 0x7F000000 = some .hintYield := by decide
theorem test_decode_refuses : decodeWord 0x52000000 = .error .major ∧ decodeWord 0x30 = .error .minor ∧ decodeWord 0x9 = .error .mustBeZero := by decide

/-! ## A word of every constructor, assembled by hand from the format tables (R486, R489, R490, R501, R517, R533, R535, R569, R589, R596,
R600, R604, R618, R621, R632, R639, R647, R654, R659, R665, R670, R672): S is set where the word has it, and the first three fields
of most words are 9, 18 and 36, so that no two fields hold one value -/

theorem test_decode_majors_00_01 :
    [0x80000000, 0x80000008, 0x80000015, 0x80000018, 0x80000020, 0x80000028, 0x824A4000, 0x824A4001, 0x82025208, 0x82025209, 0x82001210, 0x82025211,
    0x82000012, 0x8248001D, 0x8248001E, 0x824A4020, 0x82480028].map (decodeTableWord 32) = (
    [.nop 1, .exit 1, .trap 1 5, .tret 1, .tabort 1, .brk 1, .getc 1 9 18, .getcF 1 9 18, .setc 1 18 36, .setcF 1 18 36, .setfmt 1 36,
    .setfmtM 1 18 36, .setfmtI 1, .widf 1 9 5, .widfAll 1 9, .capq 1 9 18, .now 1 9] : List Instr).map some := by decide
theorem test_decode_majors_02_03 :
    [0x8402A5A5, 0x8422A5A5, 0x84555A5A, 0x84755A5A, 0x84955A5A, 0x84B55A5A, 0x84C09A53, 0x84E09A53, 0x85009A53, 0x85209A53, 0x85409A53, 0x85609A53,
    0x85C09000, 0x85E09000, 0x8616A5A5, 0x8622A5A5, 0x86400000, 0x8676A5A5, 0x86940000, 0x86B40000, 0x86D49000, 0x86F49000].map (decodeTableWord 32) = (
    [.b 1 0x2A5A5, .bal 1 0x2A5A5, .bcAny 1 5 0x15A5A, .bcNone 1 5 0x15A5A, .bcAll 1 5 0x15A5A, .bcNall 1 5 0x15A5A, .bcEq 1 9 0xA53, .bcNe 1 9 0xA53,
    .bcLt 1 9 0xA53, .bcGe 1 9 0xA53, .bcGt 1 9 0xA53, .bcLe 1 9 0xA53, .jr 1 9, .jalr 1 9, .vif 1 5 0x2A5A5, .velse 1 0x2A5A5, .vendif 1,
    .vdo 1 5 0x2A5A5, .vwhile 1 5, .vbrk 1 5, .vany 1 5 9, .vall 1 5 9] : List Instr).map some := by decide
theorem test_decode_majors_04_05 :
    [0x884A5240, 0x884A5241, 0x884A5242, 0x884A5243, 0x884A5244, 0x884A5245, 0x884A5246, 0x884A5247, 0x884A5248, 0x884A5249, 0x884A524A, 0x884A524B,
    0x884A524C, 0x884A524D, 0x884A524E, 0x884A524F, 0x884A5250, 0x8A4A5A5A].map (decodeTableWord 32) = (
    [.sadd 1 9 18 36 1, .ssub 1 9 18 36 1, .sand 1 9 18 36 1, .sor 1 9 18 36 1, .sxor 1 9 18 36 1, .sandn 1 9 18 36 1, .sshl 1 9 18 36 1,
    .sshr 1 9 18 36 1, .ssra 1 9 18 36 1, .sseq 1 9 18 36 1, .ssne 1 9 18 36 1, .sslt 1 9 18 36 1, .ssltu 1 9 18 36 1, .ssle 1 9 18 36 1,
    .ssleu 1 9 18 36 1, .smin 1 9 18 36 1, .smax 1 9 18 36 1, .saddi 1 9 18 0x1A5A] : List Instr).map some := by decide
theorem test_decode_majors_06_07 :
    [0x8C4A5240, 0x8C4A5241, 0x8C4A5242, 0x8C4A5243, 0x8C4A5244, 0x8C4A5245, 0x8C4A5246, 0x8E4A4000, 0x8E4A4001, 0x8E4A4002, 0x8E4A4003, 0x8E4A4004,
    0x8E4A5245, 0x8E4A5246].map (decodeTableWord 32) = (
    [.smul 1 9 18 36 1, .smulh 1 9 18 36 1, .smulhu 1 9 18 36 1, .sdiv 1 9 18 36 1, .sdivu 1 9 18 36 1, .srem 1 9 18 36 1, .sremu 1 9 18 36 1,
    .sclz 1 9 18, .sctz 1 9 18, .spopc 1 9 18, .sbrev 1 9 18, .sbswap 1 9 18, .srotl 1 9 18 36 1, .srotr 1 9 18 36 1] : List Instr).map some := by decide
theorem test_decode_majors_08_09 :
    [0x904A5206, 0x904A520E, 0x904A5216, 0x904A521E, 0x904A5226, 0x904A522E, 0x904A4036, 0x904A403E, 0x904A5246, 0x904A524E, 0x904A5256, 0x904A525E,
    0x904A5266, 0x904A526E, 0x924A552E].map (decodeTableWord 32) = (
    [.vadd 1 9 18 36 6, .vsub 1 9 18 36 6, .vadds 1 9 18 36 6, .vsubs 1 9 18 36 6, .vmin 1 9 18 36 6, .vmax 1 9 18 36 6, .vabs 1 9 18 6,
    .vneg 1 9 18 6, .vsll 1 9 18 36 6, .vsrl 1 9 18 36 6, .vsra 1 9 18 36 6, .vcmpeq 1 9 18 36 6, .vcmplt 1 9 18 36 6, .vcmple 1 9 18 36 6,
    .vaddi 1 9 18 0x2A5 6] : List Instr).map some := by decide
theorem test_decode_majors_0A_0B :
    [0x944A5206, 0x944A520E, 0x944A5216, 0x944A521D, 0x944A5226, 0x964A5206, 0x964A520E, 0x964A5216, 0x964A401E, 0x964A4026].map (decodeTableWord 32) = (
    [.vmul 1 9 18 36 6, .vmulh 1 9 18 36 6, .vmadd 1 9 18 36 6, .vdot4 1 9 18 36 5, .vwmul 1 9 18 36 6, .vand 1 9 18 36 6, .vor 1 9 18 36 6,
    .vxor 1 9 18 36 6, .vnot 1 9 18 6, .vpopc 1 9 18 6] : List Instr).map some := by decide
theorem test_decode_majors_0C_0D :
    [0x984A5203, 0x984A520B, 0x984A5213, 0x984A521B, 0x984A4023, 0x984A402B, 0x984A5233, 0x9A4A5203, 0x9A4A520B, 0x9A4A5213, 0x9A4A521B, 0x9A4A5223,
    0x9A4A402B].map (decodeTableWord 32) = (
    [.vfadd 1 9 18 36 3, .vfsub 1 9 18 36 3, .vfmin 1 9 18 36 3, .vfmax 1 9 18 36 3, .vfabs 1 9 18 3, .vfneg 1 9 18 3, .vfsgn 1 9 18 36 3,
    .vfmul 1 9 18 36 3, .vfma 1 9 18 36 3, .vfms 1 9 18 36 3, .vfnma 1 9 18 36 3, .vfdiv 1 9 18 36 3, .vfsqrt 1 9 18 3] : List Instr).map some := by decide
theorem test_decode_majors_0E_0F :
    [0x9C4A5203, 0x9C4A520B, 0x9C4A5213, 0x9C4A521B, 0x9C4A5223, 0x9C4A522B, 0x9C4A5233, 0x9C4A523B, 0x9C4A4043, 0x9E4A4501, 0x9E4A5509, 0x9E4A5213,
    0x9E4A409A, 0x9E4A5223].map (decodeTableWord 32) = (
    [.vfcmpEq 1 9 18 36 3, .vfcmpNe 1 9 18 36 3, .vfcmpLt 1 9 18 36 3, .vfcmpLe 1 9 18 36 3, .vfcmpGt 1 9 18 36 3, .vfcmpGe 1 9 18 36 3,
    .vfcmpOrd 1 9 18 36 3, .vfcmpUno 1 9 18 36 3, .vfclass 1 9 18 3, .vcvt 1 9 18 1 2 1, .vcvti 1 9 18 1 1 2 1, .vpack 1 9 18 36 3,
    .vunpack 1 9 18 1 2, .vscale 1 9 18 36 3] : List Instr).map some := by decide
theorem test_decode_majors_10_11 :
    [0xA04A4001, 0xA04A4009, 0xA04A4011, 0xA04A4019, 0xA04A4021, 0xA04A4029, 0xA04A4031, 0xA24A5206, 0xA24A520E, 0xA24A4B16, 0xA24A501A, 0xA24A4020,
    0xA24A4028].map (decodeTableWord 32) = (
    [.vrcp 1 9 18 1, .vrsqrt 1 9 18 1, .vexp2 1 9 18 1, .vlog2 1 9 18 1, .vsin 1 9 18 1, .vcos 1 9 18 1, .vtanh 1 9 18 1, .vshfl 1 9 18 36 6,
    .vbcast 1 9 18 36 6, .vscan 1 9 18 5 1 6, .vred 1 9 18 8 2, .vcompress 1 9 18, .vexpand 1 9 18] : List Instr).map some := by decide
theorem test_decode_majors_12_13 :
    [0xA4084200, 0xA4084201, 0xA4084202, 0xA4084003, 0xA4084204, 0xA4084005, 0xA4484006, 0xA4484007, 0xA64A4000, 0xA64A400E, 0xA64A5216, 0xA64A521E,
    0xA64A5225, 0xA6484028, 0xA60A4030].map (decodeTableWord 32) = (
    [.kand 1 1 2 4, .kor 1 1 2 4, .kxor 1 1 2 4, .knot 1 1 2, .kandn 1 1 2 4, .kmov 1 1 2, .kpop 1 9 2, .kffs 1 9 2, .vmov 1 9 18, .vsplat 1 9 18 6,
    .vext 1 9 18 36 6, .vins 1 9 18 36 6, .vsel 1 9 18 36 5, .kvec 1 9 2, .veck 1 1 18] : List Instr).map some := by decide
theorem test_decode_majors_14_17 :
    [0xA84A5226, 0xA802522E, 0xAA4A5226, 0xAC4A5226, 0xAC4A522E, 0xAC4A526E, 0xAE4A5226, 0xAE4A522E].map (decodeTableWord 32) = (
    [.ld 1 9 18 36 2 6, .pf 1 18 36 2 6, .st 1 9 18 36 2 6, .sld 1 9 18 36 2 6, .sldFePeek 1 9 18 36 2 6, .sldFeConsume 1 9 18 36 2 6,
    .sst 1 9 18 36 2 6, .sstFull 1 9 18 36 2 6] : List Instr).map some := by decide
theorem test_decode_majors_18_19 :
    [0xB04A5210, 0xB04A5211, 0xB04A5212, 0xB04A5213, 0xB04A5214, 0xB04A5215, 0xB04A5216, 0xB04A5217, 0xB04A5218, 0xB04A5219, 0xB24A5260, 0xB24A5264,
    0xB24A5268, 0xB24A526C].map (decodeTableWord 32) = (
    [.aadd 1 9 18 36 1, .afadd 1 9 18 36 1, .amin 1 9 18 36 1, .amax 1 9 18 36 1, .aand 1 9 18 36 1, .aor 1 9 18 36 1, .axor 1 9 18 36 1,
    .axch 1 9 18 36 1, .acas 1 9 18 36 1, .ainc 1 9 18 36 1, .saadd 1 9 18 36 1 2, .samin 1 9 18 36 1 2, .samax 1 9 18 36 1 2, .saxch 1 9 18 36 1 2] : List Instr).map some := by decide
theorem test_decode_majors_1A_1C :
    [0xB4000003, 0xB400000B, 0xB4000013, 0xB6025200, 0xB64A5208, 0xB6025210, 0xB6025219, 0xB64A5221, 0xB84A5250, 0xB84A5251, 0xB8480002].map (decodeTableWord 32) = (
    [.fenceRel 1 3, .fenceAcq 1 3, .fenceAr 1 3, .binit 1 18 36, .barr 1 9 18 36, .bexp 1 18 36, .bwait 1 18 36 1, .btry 1 9 18 36 1,
    .waitc 1 9 18 36 5, .wmon 1 9 18 36 5, .wtest 1 9] : List Instr).map some := by decide
theorem test_decode_majors_1D_1F :
    [0xBA025200, 0xBA000008, 0xBA000010, 0xBA480018, 0xBC4A5206, 0xBC024008, 0xBC025215, 0xBC024018, 0xBC024020, 0xBE4A5206, 0xBE4A520E].map (decodeTableWord 32) = (
    [.tmbegin 1 18 36, .tmend 1, .tmabort 1, .tmstat 1 9, .salloc 1 9 18 36 1 2, .sfree 1 18, .smap 1 18 36 1 1, .sunmap 1 18, .sflush 1 18,
    .lds 1 9 18 36 6, .sts 1 9 18 36 6] : List Instr).map some := by decide
theorem test_decode_majors_20_21 :
    [0xC04A4000, 0xC04A4008, 0xC04A4010, 0xC04A4018, 0xC04A4020, 0xC04A4028, 0xC04A4030, 0xC04A4038, 0xC2024000, 0xC24A400A].map (decodeTableWord 32) = (
    [.enqCopy 1 9 18, .enqMatw 1 9 18, .enqMata 1 9 18, .enqMdrain 1 9 18, .enqGather 1 9 18, .enqScat 1 9 18, .enqMerge 1 9 18, .enqKscan 1 9 18,
    .chain 1 18, .cstat 1 9 18 1 0] : List Instr).map some := by decide
theorem test_decode_major_22 :
    [0xC44A4000, 0xC44A4001, 0xC4024008, 0xC44A5210, 0xC44A5218, 0xC44A5220, 0xC44A5228, 0xC44A5229, 0xC44A5230, 0xC44A5231, 0xC44A5232, 0xC44A5233].map (decodeTableWord 32) = (
    [.kvopen 1 9 18, .kvopenDs 1 9 18, .kvclose 1 18, .kvapp 1 9 18 36, .kvtrunc 1 9 18 36, .kvfork 1 9 18 36, .kvlook 1 9 18 36,
    .kvlookIns 1 9 18 36, .kvallocGrow 1 9 18 36, .kvallocGrant 1 9 18 36, .kvallocRsv 1 9 18 36, .kvallocDem 1 9 18 36] : List Instr).map some := by decide
theorem test_decode_majors_23_24 :
    [0xC64A5200, 0xC64A5208, 0xC64A5210, 0xC6025218, 0xC6025220, 0xC84A5200, 0xC84A4008].map (decodeTableWord 32) = (
    [.dsin 1 9 18 36, .dsgen 1 9 18 36, .dstrunc 1 9 18 36, .dssnap 1 18 36, .dsplay 1 18 36, .launch 1 9 18 36, .launchWait 1 9 18] : List Instr).map some := by decide
theorem test_decode_majors_25_28 :
    [0xCA4A5200, 0xCA4A4008, 0xCA025210, 0xCA4A5218, 0xCA4A5220, 0xCC024000, 0xCC024001, 0xCC000008, 0xCC000010, 0xCC480018, 0xCE024000, 0xCE024001,
    0xCE024008, 0xD0024000, 0xD0000008, 0xD04A4010].map (decodeTableWord 32) = (
    [.role 1 9 18 36, .roleAsk 1 9 18, .qpush 1 18 36, .qpop 1 9 18 36, .qtry 1 9 18 36, .mig 1 18, .migTrap 1 18, .mret 1, .mjoin 1, .mstat 1 9,
    .signalQ 1 18, .signalM 1 18, .msig 1 18, .pcmark 1 18, .pcsample 1, .pcread 1 9 18] : List Instr).map some := by decide
theorem test_decode_majors_3E_3F :
    [0x7DA5A5A5, 0x7E5DE400, 0x7EDD5A5A, 0x7F000000, 0x7F4000A5].map (decodeTableWord 32) = (
    [.immWord 0x1A5A5A5, .modWord 5 1 1 3 1 36, .modxWord 5 1 1 1 1 0x1A5A, .hintYield, .hintStream 0xA5] : List Instr).map some := by decide

/-! ## One step of a few instructions on the small machine of `State.withFetchWord` -/

/-- The small machine at an instruction, its team changed by `f`. -/
def machine (i : Instr) (f : Team → Team) : State :=
  let s := State.reset.withFetchWord 32 (encodeNat i)
  { s with teams := s.teams.map fun x => (x.1, f x.2) }
/-- The team after one step. -/
def after (i : Instr) (f : Team → Team) : Option Team :=
  match step (machine i f) with | .next s => (s.teams.head?).map Prod.snd | _ => none
/-- A team with some scalar registers. -/
def withS (l : List (Nat × Word)) (t : Team) : Team := { t with regs := { t.regs with s := l } }
/-- Scalar register `d` and the PC after one step. -/
def resultS (i : Instr) (l : List (Nat × Word)) (d : Nat) : Option (Word × Word) := (after i (withS l)).map fun t => (t.regs.getS d, t.flow.pc)
/-- A long scalar result that the team's first entry holds after one step. -/
def pendingS (i : Instr) (l : List (Nat × Word)) : Option (List RegWrite) := (after i (withS l)).bind fun t => t.sync.rq.head?.map Entry.res

theorem test_add_wraps : resultS (.sadd 0 1 2 3 0) [(2, 0xFFFFFFFFFFFFFFFF), (3, 1)] 1 = some (0, 4) := by decide +kernel
theorem test_discards_s0 : resultS (.sor 0 0 2 3 0) [(2, 5), (3, 1)] 0 = some (0, 4) := by decide +kernel
theorem test_shift_takes_six_bits : resultS (.sshl 0 2 2 3 0) [(2, 1), (3, 65)] 2 = some (2, 4) := by decide +kernel
theorem test_arithmetic_shift : resultS (.ssra 0 1 2 3 0) [(2, 0x8000000000000000), (3, 63)] 1 = some (0xFFFFFFFFFFFFFFFF, 4) := by decide +kernel
theorem test_signed_high_product : resultS (.smulh 0 1 2 3 0) [(2, 0xFFFFFFFFFFFFFFFF), (3, 2)] 1 = some (0xFFFFFFFFFFFFFFFF, 4) := by decide +kernel
theorem test_leading_zeros : resultS (.sclz 0 1 2) [] 1 = some (64, 4) := by decide +kernel
theorem test_immediate_is_signed : resultS (.saddi 0 1 2 0x1FFF) [(2, 5)] 1 = some (4, 4) := by decide +kernel
theorem test_division_truncates : pendingS (.sdiv 0 1 2 3 0) [(2, 0xFFFFFFFFFFFFFFF9), (3, 2)] = some [.s 1 0xFFFFFFFFFFFFFFFD] := by decide +kernel
theorem test_remainder_sign : pendingS (.srem 0 1 2 3 0) [(2, 0xFFFFFFFFFFFFFFF9), (3, 2)] = some [.s 1 0xFFFFFFFFFFFFFFFF] := by decide +kernel
theorem test_branch_taken : resultS (.bcLt 0 2 4) [(2, 0x8000000000000000)] 2 = some (0x8000000000000000, 16) := by decide +kernel
theorem test_branch_links : resultS (.bal 0 2) [] 63 = some (4, 8) := by decide +kernel
theorem test_vif_pushes : (after (.vif 0 1 4) fun t => { t with regs := { t.regs with k := [(1, 3)] } }).map (fun t => (t.flow.D, t.flow.pc, t.flow.stack.map StackEnt.mask)) =
    some (3, 4, [0xFFFFFFFF]) := by decide +kernel
theorem test_vector_add_wraps_by_element : (after (.vadd 0 1 2 2 1) fun t => { t with regs := { t.regs with v := [(2048 + 3, 0x80000000_00000001)] } }).map
    (fun t => (t.regs.getV 1 3, t.regs.getV 1 2)) = some (2, 0) := by decide +kernel
theorem test_exit_waits_to_retire : (after (.exit 0) id).map (fun t => (t.flow.pres, t.sync.park)) = some (0, .retire) := by decide +kernel

/-! ## Witnesses: states and operands that meet the hypotheses of the statements

Each state of an instruction statement has the form `put s t c`, of which `wit_performs` shows the first hypothesis. A clause whose
hypothesis speaks of an opaque value alone (a signature that checks, a free value) has none: nothing can evaluate it. -/

/-- The small machine: partition 0, context 0, a launch with one team of 32 lanes, a text of 64 bytes. -/
def small : State := State.reset.withFetchWord 32 8
/-- A machine that performs the instruction `c` of the team `t`. -/
def put (s : State) (t : Team) (c : Cur) : State := { s with teams := [(c.team, t)], cur := some c }
theorem wit_performs (s : State) (t : Team) (c : Cur) : Performs (put s t c) c t := ⟨rfl, by simp [put, Tbl.get?]⟩
/-- An instruction of team 0 at address 0, with hint words. -/
def cur (modw immw : Word32) : Cur := { team := 0, entry := { modw := modw, immw := immw } }
theorem wit_fresh : Fresh (cur 0 0) := ⟨rfl, rfl, rfl, rfl, rfl⟩
/-- A team of 32 lanes, all present and active, with s1 the least number, s2 and s4 all ones, s3 sixteen. -/
def tm : Team := { regs := { s := [(1, 0x8000000000000000), (2, 0xFFFFFFFFFFFFFFFF), (3, 16), (4, 0xFFFFFFFFFFFFFFFF)], k := [(1, 1)], allot := 64 }
                   flow := { D := ones 32, pres := ones 32 } }
/-- The small machine with a trap handler at 16. -/
def handled : State := { small with ctxs := [(0, { part := some 0, fresh := false, dbg := { tvec := 0x8000000000000010 } })] }

theorem wit_DivideResults : srB tm (cur 0 0) 3 0 ≠ 0 := by decide +kernel
theorem wit_DivideCorners : Performs (put handled tm (cur 0 0)) (cur 0 0) tm ∧ Fresh (cur 0 0) ∧ TakesTraps (put handled tm (cur 0 0)) tm 16 ∧ srB tm (cur 0 0) 0 0 = 0 ∧
    rdS tm (cur 0 0) 1 = BitVec.intMin 64 ∧ srB tm (cur 0 0) 2 0 = BitVec.allOnes 64 :=
  ⟨wit_performs _ _ _, wit_fresh, ⟨⟨rfl, rfl⟩, ⟨rfl, rfl, rfl, rfl⟩, by decide +kernel, by decide +kernel, by decide +kernel⟩, by decide +kernel⟩
theorem wit_VectorMultiplyAdd : ((1 : BitVec 3) = 1 ∨ (1 : BitVec 3) = 5) ∧ ((5 : BitVec 3) = 1 ∨ (5 : BitVec 3) = 5) ∧ (7 : BitVec 3).toNat % 4 ≠ 0 := by decide
theorem wit_VectorFloatResults_VectorConversions : (4 : BitVec 3).toNat < 5 ∧ (1 : BitVec 3).toNat ≠ 0 ∧ (1 : BitVec 3).toNat < 5 := by decide
theorem wit_SpecialFunctions : (1 : BitVec 3).toNat ∈ [1, 2, 3] ∧ (3 : BitVec 3).toNat ∈ [1, 2, 3] ∧ 6 < 7 ∧ (1 : Nat) ≠ 0 ∧ (15 : Int) ≤ 15 + Nat.log2 1 := by decide
/-- A MODX word of a form: operand va, `parm` as given (R490). -/
def modx (form : BitVec 2) (parm : BitVec 14) : Cur := cur (BitVec.ofNat 32 (encodeNat (.modxWord 0 0 0 0 form parm))) 0
theorem wit_CrossLaneResults : (8 : BitVec 4).toNat < 9 ∧ (6 ≤ (8 : BitVec 4).toNat → (4 : BitVec 3).toNat < 5) ∧ (cur 0 0).hasModx = false ∧
    ([modx 0 2047, modx 1 257, modx 2 1023, modx 3 10].map fun c => (c.hasModx, c.opnd, c.form)) = [(true, 0, 0), (true, 0, 1), (true, 0, 2), (true, 0, 3)] ∧
    2 ∈ [1, 2, 4, 8] ∧ bits (modx 1 257).parm 2 0 < 2 ∧ bits (modx 1 248).parm 12 3 < tm.regs.lanes ∧ ¬ bits (modx 1 257).parm 12 3 < tm.regs.lanes := by decide +kernel
theorem wit_CompressExpand : 0 < segmentWidth tm (cur 0 0) ∧ segmentWidth tm (modx 3 1) = 2 ∧ ({ tm.regs with lanes := 1024 } : TeamRegs).lanes ≤ 1024 := by decide +kernel
theorem wit_Branches : rdK tm (cur 0 0) 1 &&& tm.flow.active ≠ 0 ∧ rdK tm (cur 0 0) 2 &&& tm.flow.active = 0 ∧ tm.flow.active &&& ~~~rdK tm (cur 0 0) 1 ≠ 0 ∧
    tm.flow.active &&& ~~~rdK tm (cur 0 0) 0 = 0 ∧ rdS tm (cur 0 0) 0 = 0 ∧ (rdS tm (cur 0 0) 1).toInt < 0 ∧ 0 < (rdS tm (cur 0 0) 3).toInt ∧
    TextTarget small tm 60 ∧ ¬ TextTarget small tm 64 ∧ ¬ TextTarget small tm (-4) ∧ ¬ TextTarget small tm 2 := by unfold TextTarget; decide +kernel
/-- A stack entry of a kind. -/
def ent (kind : Nat) (pc : Word) : StackEnt := { mask := ones 32, pc := pc, fmt := 0x00705280, kind := kind }
/-- `tm` with a stack, and some stash. -/
def deep (l : List StackEnt) : Team := { tm with flow := { tm.flow with stack := l }, sync := { stashLen := 4096 } }
theorem wit_DivergenceForms : StackFits (deep []) ∧ (deep []).flow.stack.length < 16 ∧ StackFits (deep (List.replicate 16 (ent 0 8))) ∧ ¬ StackFits (deep (List.replicate 256 (ent 0 8))) ∧
    (deep [ent 0 8]).flow.stack = ent 0 8 :: [] ∧ (ent 0 8).kind = 0 ∧ (ent 0 8).kind ≠ 2 ∧ (ent 2 8).kind = 2 ∧ (deep []).flow.stack = [] := by
  unfold StackFits; decide +kernel
theorem wit_LoopForms : (deep [ent 2 8]).flow.stack = [] ++ ent 2 8 :: [] ∧ (deep [ent 0 8, ent 2 8]).flow.stack = [ent 0 8] ++ ent 2 8 :: [] ∧ (∀ x ∈ [ent 0 8], x.kind ≠ 2) ∧
    ({ (deep [ent 2 8]).flow with D := (deep [ent 2 8]).flow.D &&& rdK (deep [ent 2 8]) (cur 0 0) 2 } : TeamFlow).active = 0 ∧
    ({ (deep [ent 2 8]).flow with D := (deep [ent 2 8]).flow.D &&& rdK (deep [ent 2 8]) (cur 0 0) 1 } : TeamFlow).active ≠ 0 ∧
    TextTarget small (deep [ent 2 8]) (ent 2 8).pc.toNat ∧ ¬ TextTarget small (deep [ent 2 64]) (ent 2 64).pc.toNat ∧ (∀ x ∈ (deep []).flow.stack, x.kind ≠ 2) := by
  unfold TextTarget; decide +kernel
theorem wit_ExitForm : tm.sync.guard = none ∧ tm.id.landed = false ∧ (exited tm tm.flow.active).flow.pres = 0 ∧ (exited { tm with flow := { tm.flow with D := 1 } } 1).flow.pres ≠ 0 ∧
    ({ tm.sync with guard := some (0, 0, 1) } : TeamSync).guard = some (0, 0, 1) := by decide +kernel
/-- The small machine's launch. -/
def lnch : Launch := small.launch 0
theorem wit_canAbort : CanAbort (put small tm (cur 0 0)) tm lnch :=
  ⟨by decide +kernel, ⟨rfl, rfl⟩, by decide +kernel, by decide +kernel, by decide +kernel⟩
theorem wit_AbortCauses : tm.sync.rq = [] ∧ tm.sync.inHandler = false ∧ causeClass 0x50 = 1 ∧ causeClass 0x12 = 0 ∧ NoHandler (put small tm (cur 0 0)) tm ∧
    ({ tm.sync with inHandler := true } : TeamSync).inHandler = true ∧ CanAbort (put small { tm with sync := { inHandler := true } } (cur 0 0)) { tm with sync := { inHandler := true } } lnch :=
  ⟨rfl, rfl, by decide +kernel, by decide +kernel, by unfold NoHandler; decide +kernel, rfl, by decide +kernel, ⟨rfl, rfl⟩, by decide +kernel, by decide +kernel, by decide +kernel⟩
theorem wit_TrapEntry_AbortForm : TakesTraps (put handled tm (cur 0 0)) tm 16 ∧ NoHandler (put small tm (cur 0 0)) tm ∧ CanAbort (put small tm (cur 0 0)) tm lnch ∧
    tm.sync.tm.active = false ∧ ({ active := true } : Tm).active = true := ⟨wit_DivideCorners.2.2.1, wit_AbortCauses.2.2.2.2.1, wit_canAbort, rfl, rfl⟩
/-- `tm` in its handler, its frame formed at stack depth `n`. -/
def handler (n : Nat) : Team := { tm with sync := { inHandler := true, frame := { valid := true, tdepth := n } } }
theorem wit_HandlerReturn : (handler 0).sync.inHandler = true ∧ (handler 0).flow.stack.length = (handler 0).sync.frame.tdepth ∧
    (handler 1).flow.stack.length ≠ (handler 1).sync.frame.tdepth ∧ tm.sync.inHandler = false ∧ 0x90000 ≤ 0x90000 := by decide +kernel
theorem wit_ControlForms : tm.id.landed = false ∧ FmtValid 0x00705280 ∧ FmtValid 0x00765EB5 ∧ ¬ (0x00705287 : Word32).extractLsb' 0 3 < 6 ∧ ¬ FmtValid 0 ∧ (0 : Word32).extractLsb' 0 3 < 6 ∧
    (cur 0 0x7C705285).entry.immw ≠ 0 ∧ (cur 0 0).entry.immw = 0 := by unfold FmtValid; decide +kernel
theorem wit_PlainAndCapabilityForms : tm.id.foreign = false ∧
    (({ small with launches := [(0, { lnch with head := { lnch.head with caps := [(16, [7])] } })] } : State).launch tm.id.launch).head.caps.find? (fun e => e.1 = (rdS tm (cur 0 0) 3).toNat % 2 ^ 16) = some (16, [7]) ∧
    (∀ e ∈ (small.launch tm.id.launch).head.caps, e.1 ≠ (rdS tm (cur 0 0) 3).toNat % 2 ^ 16) := by decide +kernel
/-- The small machine with a trace ring of 4 KiB, `n` records of which are not consumed, stalling or not; its context traces marks. -/
def traced (n : Nat) (stall : Bool) : State :=
  { small with parts := small.parts.map fun p => (p.1, { p.2 with cfg := { p.2.cfg with trsize := 1, trstall := stall }, conf := { trprod := n } })
               ctxs := [(0, { part := some 0, fresh := false, dbg := { trctl := 4 } })] }
theorem wit_TelemetryForms : (small.part tm.id.part).cfg.trsize = 0 ∧ small.traces tm.id.ctx 2 = false ∧ ((traced 0 true).part tm.id.part).cfg.trsize ≠ 0 ∧ (traced 0 true).traces tm.id.ctx 2 = true ∧
    ((traced 127 true).part tm.id.part).traceRoom = true ∧ ((traced 128 true).part tm.id.part).traceRoom = false ∧ ((traced 128 true).part tm.id.part).cfg.trstall = true ∧
    ((traced 128 false).part tm.id.part).cfg.trstall = false ∧ (rdS tm (cur 0 0) 0).toNat < 16 ∧ 16 ≤ (rdS tm (cur 0 0) 3).toNat := by decide +kernel

/-- A policy word is allowed, is refused by a reserved bit, and asks for a feature the part lacks. -/
def policies (r : PolRule) : List (Option Nat) := [polCause r 0 0, polCause r 0 0x10000000, polCause r 0x7F 0x00030000]
theorem wit_GlobalAccesses : (0 : BitVec 3).toNat < 3 ∧ (2 : BitVec 3).toNat < 3 ∧
    ∀ f ∈ globalForms tm (cur 0 0) 0 1 2 3 0 0, policies f.rule = [none, some 0x07, some 0x05] := by decide +kernel
theorem wit_StashAccesses : (0 : BitVec 2).toNat < 3 ∧ (2 : BitVec 2).toNat < 3 ∧
    ∀ f ∈ stashForms tm (cur 0 0) 0 1 2 3 0 0 0, policies f.rule = [none, some 0x07, some 0x05] := by decide +kernel
theorem wit_AtomicAccesses : (62 : BitVec 6) ≠ 63 ∧ ∀ f ∈ atomicForms tm (cur 0 0) 0 1 2 3 0, policies f.rule = [none, some 0x07, some 0x05] := by decide +kernel
/-- `tm` with some scalar registers and synchronisation state. -/
def team (l : List (Nat × Word)) (y : TeamSync) : Team := { tm with regs := { tm.regs with s := l }, sync := y }
def monitor : Monitor := { va := 0, pa := 0, cmp := 0, v := 0 }
theorem wit_MonitorForms : ¬ InTransaction tm ∧ InTransaction (team [] { tm := { active := true } }) ∧ (team [] { mon := some monitor }).sync.mon = some monitor ∧ tm.sync.mon = none ∧
    (∀ e ∈ tm.sync.rq, ∀ a ∈ e.accs, a.kind ≠ .arm) ∧ policies (monitorForm (.wmon 0 1 2 3 0) tm (cur 0 0) 1 2 0 .run []).rule = [none, some 0x07, some 0x05] := by
  unfold InTransaction; decide +kernel
/-- An entry with an access that has not been performed. -/
def busyWith (k : AccKind) (stash : Bool) : TeamSync := { rq := [{ accs := [{ kind := k, va := 0, esz := 4, stash := stash }] }], nextEntry := 1 }
theorem wit_FenceForms : tm.sched.relActive = false ∧ ¬ InTransaction tm ∧ 5 ≤ (5 : BitVec 3).toNat ∧ (4 : BitVec 3).toNat < 5 ∧ tm.sync.loadsDone = true ∧ (busyWith .load false).loadsDone = false ∧
    tm.sync.earlierDone tm.sync.nextEntry = true ∧ (busyWith .store false).earlierDone 1 ≠ true ∧ (1 : BitVec 3).toNat < 2 ∧ small.joined 0 tm = [] ∧ tm.sync.compls = [] ∧
    tm.regs.gwct < ({ small with now := 1 } : State).now ∧ ¬ (tm.sync.compls = [] ∧ tm.regs.gwct < small.now) ∧ 3 ≤ (3 : BitVec 3).toNat := by unfold InTransaction; decide +kernel
/-- A team with one allocation of 4 KiB at 64. -/
def alloc (k : Nat) : Alloc := { base := 64, len := 4096, kind := k }
def owner (l : List (Nat × Word)) (k : Nat) : Team := team l { allocs := [alloc k], stashLen := 16384 }
/-- The small machine with a barrier object at 64. -/
def barred (b : Bar) : State := small.barPut 0 64 b
def bar (cnt exp : Nat) (ph : Bool) (g : Nat) : Bar := { cst := 1, ust := 0, bgwct := g, exp := exp, cnt := cnt, init := exp, ph := ph, val := true }
theorem objectOk (l : List (Nat × Word)) : ObjectOk (owner l 0) 64 := ⟨by decide, alloc 0, rfl⟩
theorem notObject : ¬ ObjectOk (owner [] 0) 8192 := by
  rintro ⟨-, x, h⟩; exact absurd (show ((owner [] 0).inStash 8192 64) = true by rw [Team.inStash, h]) (by decide +kernel)
theorem wit_BarrierForms : ¬ InTransaction (owner [(1, 64), (2, 1)] 0) ∧ (owner [] 0).sync.guard = none ∧ (1 : Nat) % 64 ≠ 0 ∧ (8192 : Nat) % 64 = 0 ∧ ¬ ObjectOk (owner [] 0) 8192 ∧ ObjectOk (owner [(1, 64)] 0) 64 ∧
    0 < 1 ∧ 4294967295 < 2 ^ 32 ∧ small.waitsOn 0 64 = false ∧ ({ small with teams := [(0, team [] { park := .barrier 64 0 })] } : State).waitsOn 0 64 = true ∧
    (barrierAt small (owner [] 0) 64).val = false ∧ (barrierAt (barred (bar 1 2 false 0)) (owner [] 0) 64) = bar 1 2 false 0 ∧ (bar 2 2 true 0).cnt ≤ (bar 2 2 true 0).exp ∧
    ¬ ((bar 0 2 false 0).ph = true ↔ 0 % 2 = 0) ∧ ((bar 0 2 true 0).ph = true ↔ 0 % 2 = 0) ∧ (bar 0 2 true 0).bgwct < ({ small with now := 1 } : State).now ∧ small.now ≤ (bar 0 2 true 0).bgwct :=
  ⟨by unfold InTransaction; decide +kernel, rfl, by decide, by decide, notObject, objectOk _, by decide +kernel⟩
/-- A team in a transaction. -/
def txn (x : Tm) (y : TeamSync) : Team := team [] { y with tm := { x with active := true } }
theorem wit_TransactionForms : (64 : Nat) % 16 = 0 ∧ (96 : Nat) % 16 = 0 ∧ 96 ≤ 96 ∧ (∃ x, (owner [(1, 64), (2, 96)] 0).stashPlace 64 96 = .at_ x) ∧ (owner [] 0).sync.tm.active = false ∧ ¬ (8 : Nat) % 16 = 0 ∧
    (txn {} {}).sync.tm.active = true ∧ InTransaction (txn {} {}) ∧ (txn {} (busyWith .store false)).sync.tmDone = false ∧ (txn {} {}).sync.tmDone = true ∧ (∀ r ∈ (txn { reads := [(0, 0)] } {}).sync.tm.reads, small.isLocal r.1 = true) ∧
    (small.part 0).tmTok = none ∧ (({ small with parts := small.parts.map fun p => (p.1, { p.2 with tmTok := some 0 }) } : State).part 0).tmTok = some 0 ∧ ¬ InTransaction tm :=
  ⟨by decide, by decide, by decide, ⟨alloc 0, rfl⟩, by unfold InTransaction; decide +kernel⟩
/-- The small machine with a footprint of 1 MiB from 0, its first 2 MiB translated and owned, and one block of handle indices. -/
def mapped : State :=
  { small with launches := [(0, { lnch with head := { lnch.head with foot := [{ cls := 1, base := 0, len := 2 ^ 20 }], stages := [{ vregs := 64, outq := 1 }, { vregs := 64, depth := 4, elsz := 1 }], ds := some (2, 0) } })]
               clusters := [(0, { tlb := [{ ctx := 0, va := 0, lg := 21, pa := 0, r := true, w := true }] })]
               xlat := { small.xlat with own := [(0, 0)] }
               parts := small.parts.map fun p => (p.1, { p.2 with kvBlocks := 1, kv := [(1, { kind := 1, len := 8, cap := 16, ref := 1, rowg := 1, ptok := 4, pages := [0] }), (2, { kind := 2, ref := 2 })] }) }
theorem wit_StashForms : 0 < 2 ^ 21 ∧ 2 ^ 21 ≤ 2 ^ 21 ∧ (owner [] 0).firstFit 64 = some 4288 ∧ (team [] { stashLen := 16384 }).firstFit 4096 = some 64 ∧ (team [] { stashLen := 192 }).firstFit 128 = none ∧
    (owner [] 0).allocAt 64 = some (alloc 0) ∧ (owner [] 0).allocAt 0 = none ∧ (busyWith .store true).stashDone = false ∧ (owner [] 0).sync.stashDone = true ∧ (alloc 1).kind ≠ 0 ∧ (alloc 0).kind = 0 ∧
    (match mapped.checkMap (owner [] 0) 0 4096 true true with | .fresh => true | _ => false) = true ∧ mapped.cardOn 0 64 4096 = false ∧
    ({ mapped with clusters := [(0, { maps := [(0, { launch := 0, va := 0, len := 4096, kind := 1, w := true, base := 64, quarter := 0, owner := 0, teams := [0] })] })] } : State).mapOf (owner [] 1) (alloc 1) =
      [(0, { launch := 0, va := 0, len := 4096, kind := 1, w := true, base := 64, quarter := 0, owner := 0, teams := [0] })] ∧
    (mapped.cluster 0).maps.any (fun m => m.1 = (alloc 0).map && m.2.owner = 0) = false := by decide +kernel
/-- The card of eight scalar registers from s16 up. -/
def card (n : Nat) : List (Nat × Word) := (List.range 8).map fun i => (16 + i, BitVec.ofNat 64 (n / 2 ^ (64 * i)))
/-- A copy card of one granule from global address 0 to stash address 128. -/
def copyCard : Nat := 8 * 2 ^ 117
theorem wit_CardForms : 1 ≤ (16 : BitVec 6).toNat ∧ (57 : BitVec 6).toNat > 56 ∧ CardIn (owner (card copyCard) 0) (cur 0 0) 16 (BitVec.ofNat 512 copyCard) ∧ mapped.cardCheck (owner (card copyCard) 0) 0 (BitVec.ofNat 512 copyCard) = none ∧
    (mapped.cardCheck (owner (card 1) 0) 0 1).isSome = true ∧ mapped.cardRoom 0 (owner [] 0) = true ∧ (owner [] 0).sync.stashDone = true ∧ (busyWith .store true).stashDone = false ∧
    ({ mapped with clusters := [(0, { cards := List.replicate 32 { tag := 0, kind := 0, bits := 0, team := 0, launch := 0, part := 0, ctx := 0, fmt := 0 } })] } : State).cardRoom 0 (owner [] 0) = false ∧
    drainReg (BitVec.ofNat 512 (2 ^ 30)) = true ∧ drainReg 0 = false ∧ (rdS tm (cur 0 0) 3).toNat < 2 ^ 16 ∧ 2 ^ 16 ≤ (rdS tm (cur 0 0) 1).toNat ∧
    bit (barrierAt (barred (bar 1 2 false 0)) (owner [] 0) 64).cst 0 = true ∧ bit (barrierAt (barred { bar 1 2 false 0 with cst := 2 }) (owner [] 0) 64).cst 0 = false := by
  unfold CardIn; decide +kernel

def goOk {α : Type} : CardGo α → Bool | .ok _ _ => true | _ => false
def exOk {ε α : Type} : Except ε α → Bool | .ok _ => true | .error _ => false
/-- The checks of a handle operand of a team of partition 0, for an entry kind. -/
def handleOk (s : State) (t : Team) (h : Word) (kind : Nat) (w : Bool) : Bool := exOk (s.kvDeref t.view t.id.part t.id.ctx h kind w none)
/-- A handle of partition 0 to an entry. -/
def hand (i : Nat) : Word := mkHandle 0 0 i true 0x1FFFFFF
/-- `mapped`, its partition changed. -/
def mappedPart (f : Part → Part) : State := { mapped with parts := mapped.parts.map fun p => (p.1, f p.2) }
/-- A descriptor image of zeros but for a ring of 16 frames (R408). -/
def image : State := { mapped with mem := [(67, 4)] }
theorem wit_EntryOpening : ¬ OpenWord 0 ∧ OpenWord 0x400 ∧ OpenWord 0x408FF ∧ 0 < bits 0x408FF 18 12 ∧ bit (0x10 : BitVec 7).toNat 4 = true ∧ bit (mapped.featOf tm).toNat 4 = false ∧
    65536 < 2 ^ bits 0x8FF 11 8 * 2 * (bits 0x8FF 7 0 + 1) * 16 ∧ OpenWord 0x8FF ∧ 2 ^ bits 0x400 11 8 * 2 * (bits 0x400 7 0 + 1) * 16 ≤ 65536 ∧ (mapped.newIdx 0 1).isSome = true ∧
    ((mappedPart fun P => { P with kvBlocks := 0, cfg := { P.cfg with quota := 0 } }).newIdx 0 1).isNone = true ∧ (1 : Nat) % 64 ≠ 0 ∧ bit (mapped.featOf tm).toNat 2 = false ∧ bit (4 : BitVec 7).toNat 2 = true ∧
    exOk (footCheck (mapped.footOf tm.view) .load false (2 ^ 20) 256) = false ∧ exOk (footCheck (mapped.footOf tm.view) .load false 0 256) = true ∧ goOk (image.unitRead (teamAgent (cur 0 0) tm) 0 256) = true ∧
    (dsFields (4 * 2 ^ 536)).shapeOk (4 * 2 ^ 536) = true ∧ (dsFields (4 * 2 ^ 536)).kvh.take (dsFields (4 * 2 ^ 536)).nkv = [] ∧
    goOk (image.xlatAll (teamAgent (cur 0 0) tm) ((dsFields (4 * 2 ^ 536)).ranges.flatMap fun r => (pagesOf r.1 r.2.1).map fun p => (p, r.2.2))) = true ∧
    handleOk mapped tm (hand 3) 1 false = false ∧ handleOk mapped tm (hand 1) 1 false = true ∧ ((mapped.part 0).kvEnt 1).ref ≤ 1 ∧ handleOk mapped tm (hand 2) 2 false = true ∧ 1 < ((mapped.part 0).kvEnt 2).ref := by
  unfold OpenWord; decide +kernel
/-- A source word: `n` tokens from stash address 64. -/
def source (n : Nat) : Nat := n * 2 ^ 32 + 64
def entryOf (s : State) (i : Nat) : KvEnt := (s.part 0).kvEnt i
theorem wit_EntryLengths : ¬ AppendWord 0 ∧ AppendWord (source 1) ∧ AppendWord (4096 * 2 ^ 32) ∧ 2 ^ 25 ≤ 2 ^ 25 ∧ 2 ^ 25 - 1 < 2 ^ 25 ∧ handleOk mapped tm (hand 3) 1 true = false ∧ handleOk mapped tm (hand 1) 1 true = true ∧
    (owner [] 0).inStash 64 32 = true ∧ (owner [] 0).inStash 0 32 = false ∧ (busyWith .store true).stashDone = false ∧ (owner [] 0).sync.stashDone = true ∧ mapped.mayClaim tm (entryOf mapped 1) = true ∧
    mapped.mayClaim tm { entryOf mapped 1 with claim := some 5 } = false ∧ (entryOf mapped 1).cap < mapped.kvLen tm.view 1 (entryOf mapped 1) + 9 ∧ mapped.kvLen tm.view 1 (entryOf mapped 1) + 8 ≤ (entryOf mapped 1).cap ∧
    (granules 64 32).any (stashPois (mapped.cluster 0)) = false ∧ (entryOf mapped 1).ncent = 0 ∧
    (match mapped.rowsWrite (cur 0 0) tm (hand 1) 16 0 16 (List.replicate 2 (List.replicate 16 7)) with | .ok _ _ => true | _ => false) = true ∧
    mapped.kvLen tm.view 1 (entryOf mapped 1) < 9 ∧ 8 ≤ mapped.kvLen tm.view 1 (entryOf mapped 1) ∧ (mapped.newIdx 0 1).isSome = true := by
  unfold AppendWord; decide +kernel
theorem get_rangeTable (e : KvEnt) : ∀ n a k, a ≤ k → k < a + n → Tbl.get? ((List.range' a n).map fun i => (i, e)) k = some e
  | 0, a, k, h, h' => absurd h' (by omega)
  | n + 1, a, k, h, h' => by
    simp only [List.range'_succ, List.map_cons, Tbl.get?]
    split
    · rfl
    · exact get_rangeTable e n (a + 1) k (by omega) (by omega)
theorem newIdx_full (s : State) (p : Nat) (b : (s.part p).kvBlocks = 1) (q : (s.part p).cfg.quota = 0) (h : ∀ x, x < 4096 → ((s.part p).kvEnt x).kind ≠ 0) : s.newIdx p 1 = none := by
  have f : (s.part p).freeIdx 1 = none := by
    unfold Part.freeIdx
    rw [Option.map_eq_none_iff, List.find?_eq_none]
    intro i hi
    rw [b, List.mem_range] at hi
    have g : (List.range 1).all (fun j => decide (((s.part p).kvEnt (1 * i + j)).kind = 0)) = decide (((s.part p).kvEnt (1 * i + 0)).kind = 0) := by
      rw [show List.range 1 = [0] from rfl]; simp only [List.all_cons, List.all_nil, Bool.and_true]
    rw [g, decide_eq_true_eq]
    exact h _ (by omega)
  unfold State.newIdx
  rw [f]
  have l : (s.draw.2).quotaLeft p = 0 := by unfold State.quotaLeft; rw [show (s.draw.2).part p = s.part p from rfl, q]; omega
  simp [l]
/-- A handle table of one block that is full, in a partition without quota. -/
def fullTable : State := mappedPart fun P => { P with kv := (List.range' 0 4096).map fun i => (i, { kind := 1 }), cfg := { P.cfg with quota := 0 } }
theorem wit_EntryLengths_full : fullTable.newIdx 0 1 = none ∧ (fullTable.part 0).kvEnt 1 = { kind := 1 } := by
  have k : ∀ x, (fullTable.part 0).kvEnt x = (Tbl.get? ((List.range' 0 4096).map fun i => (i, ({ kind := 1 } : KvEnt))) x).getD {} := fun x => rfl
  have h : ∀ x, x < 4096 → (fullTable.part 0).kvEnt x = { kind := 1 } := fun x hx => by
    rw [k, get_rangeTable _ 4096 0 x (by omega) (by omega)]; rfl
  exact ⟨newIdx_full _ _ rfl rfl fun x hx => by rw [h x hx]; decide, h 1 (by omega)⟩
/-- A way of the prefix index for the hash 5. -/
def way (len : Nat) (ids : List (BitVec 32)) : Prefix := { hash := 5, idx := 1, gen := 0, len := len, ids := ids }
def looked (l : Tbl Prefix) : Part := { mapped.part 0 with pfx := l }
theorem wit_EntryPages : ¬ StringWord 0 ∧ StringWord (source 1) ∧ (owner [] 0).inStash 64 4 = true ∧ (owner [] 0).inStash 0 4 = false ∧ (mapped.part 0).waysAt 5 = [] ∧
    (looked [(20, way 1 [7])]).waysAt 5 = [way 1 [7]] ∧ (∀ y ∈ (looked [(20, way 1 [7])]).waysAt 5, y.agrees 1 [9] = false) ∧ ((looked [(20, way 1 [7])]).waysAt 5).find? (fun y => y.agrees 1 [7]) = some (way 1 [7]) ∧
    exOk (mapped.kvDeref0 0 0 (hand 3) 1 false none) = false ∧ exOk (mapped.kvDeref0 0 0 (hand 1) 1 false none) = true ∧ (entryOf mapped 1).len < 9 ∧ 8 ≤ (entryOf mapped 1).len ∧ ¬ ((way 1 [7]).len = 1 ∧ (way 1 [7]).ids = [9]) ∧
    (∀ k, k < 4 → Tbl.get? (looked ((List.range 4).map fun i => (20 + i, { way 1 [] with hash := 65541 }))).pfx (4 * 5 + k) ≠ none) ∧ Tbl.get? (looked []).pfx (4 * 5 + 0) = none ∧
    Tbl.get? (looked [(20, { way 1 [] with hash := 65541 })]).pfx (4 * 5 + 1) = none ∧ bits (2 ^ 32) 61 32 ≠ 0 ∧ bits 1 61 32 = 0 ∧ (1 : Nat) ≠ 0 ∧
    0x1FFFFFF < (16 + 0xFFFFFFFF + 15) / 16 * 16 ∧ (mapped.part 0).freePages false = [] ∧ (16 + 1 + 15) / 16 * 16 ≤ 0x1FFFFFF ∧
    (let P : Part := { mapped.part 0 with pages := [(0, { remote := false, share := 1 }), (65536, { remote := false, share := 0 })], resL := 1 }
     P.freePages false = [65536] ∧ 1 - 1 < P.reserve false ∧ P.reserve true ≤ 1 - 1 ∧ P.freePages true = []) ∧ bit (2 ^ 63) 63 = true ∧ bit 1 63 = false := by
  unfold StringWord; decide +kernel
theorem wit_EntryPages_grant : (1 : Nat) % 65536 ≠ 0 ∧ (0 : Nat) % 65536 = 0 ∧ (65536 : Nat) ≠ 0 ∧ 0 + 65536 ≤ 2 ^ 57 ∧ exOk (footCheck (mapped.footOf tm.view) .store false (2 ^ 20) 65536) = false ∧
    exOk (footCheck (mapped.footOf tm.view) .store false 0 65536) = true ∧
    (match mapped.xlatAll (teamAgent (cur 0 0) tm) ((pagesOf 0 65536).map fun p => (p, true)) with | .ok l s => (l.all fun x => !x.host) && ((blocksOf l.length (l.map fun x => x.pa)).bind (fun bs => bs.mapM fun pa => ((afterRead s (cur 0 0)).tierOf pa).map fun r => (pa, r))).isSome | _ => false) = true ∧
    (2 ^ 32 - 1 < 2 ^ 32) ∧ 2 ^ 32 ≤ 2 ^ 32 ∧ (entryOf mapped 1).cap / 2 ^ (entryOf mapped 1).ptok ≤ 1 ∧ 0 < (entryOf mapped 1).cap / 2 ^ (entryOf mapped 1).ptok ∧
    (Tbl.getD ({ mapped.part 0 with pages := [(0, { remote := true, share := 1 })] } : Part).pages ((entryOf mapped 1).pageAt 0) { remote := false, share := 0 }).remote = true ∧
    ¬ ((Tbl.getD (mapped.part 0).pages ((entryOf mapped 1).pageAt 0) { remote := false, share := 0 }).remote = true ∨ ∃ m ∈ mapped.xlat.moves, m.kv.isSome = true ∧ m.old = (entryOf mapped 1).pageAt 0) ∧
    ({ mapped.part 0 with pages := [(65536, { remote := true, share := 0 })] } : Part).freePages true = [65536] := by decide +kernel
/-- A stream with a frame in its queue. -/
def stream (late : Bool) (latep : Nat) : Stm := { queue := [{ data := 5, cut := 0, nosnap := false, late := late }], latep := latep, snn := 1, gcur := 8, stlen := 64 }
def streamed (d : Stm) : State := mappedPart fun P => { P with stms := [(2, d)] }
theorem streamBound (d : Stm) : StreamBound (streamed d) tm (hand 2) := ⟨rfl, { kind := 2, ref := 2 }, rfl, rfl⟩
theorem streamUnbound : ¬ StreamBound small tm (hand 2) := by
  rintro ⟨-, e, h, -⟩; exact absurd (show handleOk small tm (hand 2) 2 false = true by rw [handleOk, h]; rfl) (by decide +kernel)
theorem wit_StreamForms : handleOk mapped tm (hand 3) 2 false = false ∧ handleOk (streamed {}) tm (hand 2) 2 true = true ∧ ¬ StreamBound { mapped with launches := [] } tm (hand 2) ∧ StreamBound (streamed (stream false 0)) tm (hand 2) ∧
    (1 : Nat) % 64 ≠ 0 ∧ (owner [] 0).inStash 0 64 = false ∧ (owner [] 0).inStash 64 64 = true ∧ ((streamed {}).part 0 |>.stm 2).queue = [] ∧ ((streamed (stream true 0)).part 0 |>.stm 2).queue ≠ [] ∧
    (stream true 0).queue.head?.map FrameIn.late = some true ∧ (stream true 1).latep ≠ 0 ∧ 2 ^ 25 ≤ 2 ^ 25 ∧ 0x1FFFFFF < (streamed (stream false 0)).streamG tm.view 0 2 + 0x1FFFFF8 ∧
    (streamed (stream false 0)).streamG tm.view 0 2 + 0x1FFFFF7 ≤ 0x1FFFFFF ∧ (streamed (stream false 0)).streamG tm.view 0 2 < 9 ∧ 8 ≤ (streamed (stream false 0)).streamG tm.view 0 2 ∧ liveHandles (streamed (stream false 0)) 0 (stream false 0) = [] ∧
    liveHandles (mappedPart fun P => { P with kv := [(1, { kind := 1, claim := some 5 })] }) 0 { kvh := [hand 1], nkv := 1 } = [hand 1] ∧ mapped.mayClaim tm { kind := 1, claim := some 5 } = false ∧
    ((streamed {}).part 0 |>.stm 2).snn = 0 ∧ (stream false 0).snn ≠ 0 ∧ goOk ((streamed (stream false 0)).unitRead (teamAgent (cur 0 0) tm) 0 8) = true ∧ goOk ((streamed (stream false 0)).unitWrite (teamAgent (cur 0 0) tm) (some 0) 0 (leBytes 4 5)) = true :=
  ⟨by decide +kernel, by decide +kernel, by rintro ⟨-, e, -, h⟩; exact absurd h (by simp [State.launch, Tbl.getD, Tbl.get?]), streamBound _, by decide +kernel⟩

/-- The small machine with changed context and team lists, one tick after reset. -/
def ctxed (x : Ctx) : State := { small with now := 1, ctxs := [(0, { x with part := some 0, fresh := false })] }
def pend (id : Nat) (dead : Option Nat) : Pend := { id := id, addr := 256, at_ := 0, issuer := none, dead := dead }
def landed : Team := { tm with id := { landed := true } }
theorem wit_LaunchForms : InTransaction (txn {} {}) ∧ ¬ InTransaction tm ∧ (ctxed {}).joined 0 tm = [] ∧ tm.sync.earlierDone 0 = true ∧ ¬ (busyWith .store false).earlierDone 1 = true ∧ tm.sync.compls = [] ∧ tm.regs.gwct < (ctxed {}).now ∧
    landed.id.landed = true ∧ (15 < 16 ∨ 0 % 256 ≠ 0) ∧ ¬ (15 < 15 ∨ 256 % 256 ≠ 0 ∨ 2 ^ 57 ≤ 256) ∧ (((ctxed {}).ctx 0).stream 15).pend.length < 64 ∧
    64 ≤ (((ctxed { streams := [(15, { pend := List.replicate 64 (pend 0 none) })] }).ctx 0).stream 15).pend.length ∧
    (ctxed {}).waitTarget 0 5 = none ∧ (ctxed { streams := [(0, { pend := [pend 1 none] })] }).waitTarget 0 5 = some none ∧ (ctxed { streams := [(0, { pend := [pend 1 (some 5)] })] }).waitTarget 0 5 = some (some 1) ∧
    (ctxed {}).waitTarget 0 0 = some (some 0) ∧ ((ctxed {}).launches.find? fun l => l.2.head.ctx = 0 && l.2.head.pid = 0).isSome = true ∧
    (ctxed { retired := [{ pid := 7, lid := 5, committed := true, ver := 0, cause := 0, refused := false }] }).waitTarget 0 5 = some (some 7) ∧
    ((ctxed {}).launches.find? fun l => l.2.head.ctx = 0 && l.2.head.pid = 7) = none := by unfold InTransaction; decide +kernel
/-- Two stages of 32 lanes, and a team of 1,024 lanes beside a stage that finds no rows for it. -/
def wide : Team := { tm with regs := { tm.regs with lanes := 1024, allot := 8 } }
def posted (at_ : Nat) : State := { mapped with launches := mapped.launches.map fun l => (l.1, { l.2 with posts := [{ cluster := 0, b := 0, a := 1, at_ := at_ }] }) }
theorem wit_RoleForms : landed.id.landed = true ∧ mapped.stageOf tm 2 = none ∧ mapped.stageOf tm 1 = some { vregs := 64, depth := 4, elsz := 1 } ∧ ExchangeOk tm { vregs := 64 } 64 ∧ ¬ ExchangeOk tm { vregs := 64 } 65 ∧
    ¬ ExchangeOk (deep [ent 0 8]) { vregs := 64 } 0 ∧ ExchangeOk wide { lanes := 1024, vregs := 64 } 8 ∧ (put mapped wide (cur 0 0)).rowsFor wide { lanes := 1024, vregs := 64 } = false ∧ (put mapped tm (cur 0 0)).rowsFor tm { vregs := 64 } = true ∧
    (put mapped tm (cur 0 0)).postingFor tm = none ∧ Posted (put (posted 0) tm (cur 0 0)) tm { cluster := 0, b := 0, a := 1, at_ := 0 } { vregs := 64, depth := 4, elsz := 1 } ∧ min tm.regs.allot 64 < 65 ∧ 64 ≤ min tm.regs.allot 64 := by
  unfold ExchangeOk Posted; decide +kernel
/-- `mapped` with an instance of stage 1 on cluster 0 holding `n` elements of a queue of four. -/
def inst (n : Nat) (wake : Bool) : QInst := { cluster := 0, stage := 1, quarter := 0, base := 8192, cnt := n, wake := wake }
def queued (n : Nat) (wake : Bool) : State := { mapped with launches := mapped.launches.map fun l => (l.1, { l.2 with qs := [inst n wake] }) }
def later (k : Nat) : Team := { owner [] 0 with id := { stage := k } }
theorem queueAt (n : Nat) (w : Bool) : QueueAt (queued n w) tm 1 (inst n w) { vregs := 64, depth := 4, elsz := 1 } := ⟨rfl, rfl, rfl⟩
theorem wit_QueueForms : mapped.stageOf (later 1) 1 = some { vregs := 64, depth := 4, elsz := 1 } ∧ ({ vregs := 64, depth := 4, elsz := 1 } : Stage).outq = 15 ∧ mapped.stageOf tm 0 = some { vregs := 64, outq := 1 } ∧ NoQueue mapped tm 1 ∧
    QueueAt (queued 4 false) tm 1 (inst 4 false) { vregs := 64, depth := 4, elsz := 1 } ∧ (4 : Nat) < 65 ∧ (0 < 4 ∧ 4 ≤ 64 ∧ 4 ≤ 4) ∧ 4 % 8 ≠ 0 ∧ (owner [] 0).inStash 0 32 = false ∧ (owner [] 0).inStash 64 32 = true ∧ 4 < (inst 4 false).cnt + 1 ∧ (inst 0 false).cnt + 4 ≤ 4 ∧
    (inst 0 true).wake = true ∧ 0 < (inst 1 false).cnt ∧ (busyWith .store true).stashDone = false ∧ (busyWith .store false).earlierDone 1 = false ∧ (∀ e, e < 4 → 8192 + (0 + e) % 4 * 8 + 8 ≤ 64 ∨ 64 + 4 * 8 ≤ 8192 + (0 + e) % 4 * 8) ∧
    (mapped.launch 0).inst 0 1 = none ∧ ((queued 0 false).launch 0).inst 0 1 = some (inst 0 false) ∧ landed.id.landed = true :=
  ⟨by decide +kernel, rfl, by decide +kernel, .inr (.inr (by decide +kernel)), queueAt _ _, by decide +kernel⟩
/-- A team whose lanes have hopped. -/
def hopped (n : Nat) : Team := { tm with flow := { tm.flow with hop := (List.range 32).map fun l => (l, n) } }
theorem wit_MigrationForms : (rdS tm (cur 0 0) 3).toNat < 256 ∧ 256 ≤ (rdS tm (cur 0 0) 1).toNat ∧ (∃ l ∈ governed tm (cur 0 0), tm.hopOf l = 0) ∧ (∀ l ∈ governed (hopped 1) (cur 0 0), (hopped 1).hopOf l ≠ 0) ∧
    landed.id.landed = true ∧ tm.id.landed = false ∧ tm.flow.pres &&& ~~~gov tm (cur 0 0) = 0 ∧ tm.flow.pres &&& ~~~gov { tm with flow := { tm.flow with D := 1 } } (cur 0 0) ≠ 0 ∧ tm.flow.away = 0 ∧
    ({ tm.flow with away := 1 } : TeamFlow).away ≠ 0 := by decide +kernel

/-! ### Events and commands -/

/-- The small machine, its boot over, at an event with these operands; and as a W9L. -/
def ev (a : Arg) : State := { small with arg := a }
def w9l (a : Arg) : State := { ev a with fitting := .w9l }
/-- A machine without partitions, contexts, launches and teams. -/
def bare (a : Arg) : State := { small with arg := a, parts := [], ctxs := [], launches := [], teams := [] }
theorem wit_DeviceEvents : (0 = State.reset.mil.stages ∧ 0 < 5 ∧ State.reset.mil.bootFail = false) ∧ (0 ≠ small.mil.stages) ∧ small.freeze.req = none ∧ ({ small.freeze with req := some (0, 0) } : Freeze).req = some (0, small.now) ∧ small.mil.up = true ∧ State.reset.mil.up = false ∧
    ((0x5A170001 : BitVec 64).extractLsb' 16 16 = 0x5A17 ∧ (0x5A170001 : BitVec 64).getLsbD 0 = true) ∧ (0x5A160001 : BitVec 64).extractLsb' 16 16 ≠ 0x5A17 ∧ (0x5A170000 : BitVec 64).getLsbD 0 = false ∧
    ({ at_ := some (0, 1) } : Freeze).at_ ≠ none ∧ small.freeze.at_ = none ∧ (small.mil.busy = true ∨ State.reset.mil.served = false) := by decide +kernel
theorem wit_DeviceEvents_power : (small.mil.busy = false ∧ small.mil.served = true) ∧ (ev {}).fitting = .w9h ∧ (w9l {}).fitting = .w9l ∧ 384 ≤ 384 ∧ 383 < 384 ∧ small.quarterOwned 0 = true ∧ small.quarterOwned 383 = false ∧ 383 ∉ small.power.gated ∧
    383 ∈ ({ gated := [383] } : Power).gated ∧ 2 < 3 ∧ 2 = small.power.pstate ∧ 1 < small.power.pstate ∧ ({ pstate := 0 } : Power).pstate < 2 ∧ (Tbl.get? ([(383, 0)] : Tbl Nat) 383 = some 0 ∧ 0 ≤ small.now ∧ small.mil.waitPart = none) ∧
    (({ ramp := some (2, 0) } : Power).ramp = some (2, 0)) ∧ (1 ≤ 3 ∧ 3 ≤ 3) ∧ (1024 % 1024 = 0 ∧ ({ nextP := some 1 } : Power).nextP ≠ none) ∧ 1025 % 1024 ≠ 0 := by decide +kernel
/-- A machine whose link `l` is up, established, and with a pool slice of partition 0 behind it. -/
def linked (l : Nat) (a : Arg) : State :=
  { bare a with ports := { links := [(l, { up := true, ide := true })], pool := [(0, { base := 2 ^ 51, len := 2 ^ 28, link := l, pbr := 7, dpa := 0, bulk := false, part := 0 })] } }
theorem linked_quiet (l : Nat) (a : Arg) : Quiet (linked l a) := ⟨rfl, rfl, rfl, rfl, rfl⟩
theorem wit_LinkEvents_links : ((bare {}).hasLink 0 0 = true ∧ ((bare {}).link 0).up = false) ∧ (bare {}).hasLink 0 1 = false ∧ ((linked 0 {}).link 0).up = true ∧ ((linked 0 {}).link 0).ide = true ∧
    ((bare {}).ports.pool.all fun e => e.2.link ≠ 0) = true ∧ (bare {}).ports.peers = [] ∧ (linked 0 {}).fitting = .w9h ∧ (Tbl.get? (linked 0 {}).ports.pool 0).isSome = true ∧ Quiet (linked 0 {}) ∧
    Tbl.get? (w9l {}).ports.unreach 7 = none ∧ Tbl.getD (linked 0 {}).mil.timeouts 7 0 + 1 < 3 ∧ 2 ≤ Tbl.getD ([(7, 2)] : Tbl Nat) 7 0 ∧ (Tbl.get? ([(7, 0)] : Tbl Nat) 7 = some 0 ∧ 0 + 10 * msTicks ≤ 10 * msTicks) ∧
    7 < 8 ∧ 7 ∉ (linked 0 {}).mil.flitFail ∧ 7 ∈ ({ flitFail := [7] } : Milliner).flitFail :=
  ⟨by decide +kernel, by decide +kernel, by decide +kernel, by decide +kernel, by decide +kernel, rfl, rfl, by decide +kernel, linked_quiet _ _, by decide +kernel⟩
def viral (active : Bool) : Part := { viral := some { td := 0, tv := 0, cause := 4, active := active } }
theorem wit_LinkEvents_errors : ({ linked 4 {} with parts := [(0, {})] } : State).viralBehind 4 = [0] ∧ (Tbl.get? ([(0, viral false)] : Tbl Part) 0 = some (viral false) ∧ (viral false).viral = some { td := 0, tv := 0, cause := 4 } ∧ 0 ≤ (bare {}).now ∧ (bare {}).launches = []) ∧
    (viral true).viral = some { td := 0, tv := 0, cause := 4, active := true } ∧ ({ site := .memLine 0 } : Arg).site = .memLine 0 ∧ (bare {}).isLocal 0 = true ∧ mapped.ownerOf 0 = some 0 ∧
    (Tbl.get? ([(0, { launch := 0, m := 16, n := 16, quads := [] })] : Tbl Tile) 0).isSome = true ∧ (Tbl.get? small.launches 0).isSome = true ∧ lnch.st = .started ∧ ({ lnch with st := .done } : Launch).st = .done ∧
    ({ lnch with st := .prepared } : Launch).st ≠ .started ∧ (((bare {}).cluster 0).lines.filter fun x => Machine.setOf x.1 = 0) = [] := by decide +kernel
theorem wit_LinkEvents_parity : (0, ({ part := 0, way := 3, cls := 0, used := 0 } : HLine)) ∈ ({ lines := [(0, { part := 0, way := 3, cls := 0, used := 0 })] } : Cluster).lines ∧ Machine.setOf 0 = Machine.setOf 0 := by simp
/-- A partition record: quarter 4, time slot 0, way 8, quota 16, slice 21,000 (R101). -/
def record : Nat := 2 ^ 4 + 2 ^ (385) + 2 ^ 673 + 16 * 2 ^ 800 + 2 ^ (864 + 8) + 21000 * 2 ^ 896
/-- The bare machine with an empty partition 1 of that record, context 5 assigned to it or not. -/
def parted (n : Nat) (a : Arg) : State := { bare a with parts := [(1, { cfg := partRec n })], ctxs := [(5, { part := some 1, fresh := false }), (6, { part := some 1, fresh := true })] }
theorem wit_PartitionCommands_cfg : Idle small ∧ (64 ≤ 64 ∧ 63 < 64) ∧ ({ parted record {} with ctxs := [(5, { part := some 1, tdi := .locked })] } : State).tdiHeld 1 = true ∧ (parted record {}).tdiHeld 1 = false ∧ (parted record {}).partCfgBad 2 record = true ∧
    (bare {}).partCfgBad 2 0 = true ∧ (bare {}).partCfgBad 2 record = false ∧ small.uncommittedIn 0 = true ∧ cfgHeldChange (small.part 0).cfg (partRec record) = true ∧ (parted record {}).uncommittedIn 1 = false ∧
    (List.range 384).all (fun q => !((parted record {}).part 1).cfg.quart.getLsbD q || !(parted record {}).standsOn q) = true ∧ (parted record {}).hasTeams 1 = false ∧ small.hasTeams 0 = true := by unfold Idle; decide +kernel
theorem wit_PartitionCommands_rest : (parted record {}).hasPart 2 = false ∧ (parted record {}).hasPart 1 = true ∧ ((parted record {}).ctxs.any fun c => c.2.part = some 1) = true ∧ small.holdsMemory 0 = false ∧ mapped.holdsMemory 0 = true ∧
    ((bare {}).ctxs.all fun c => c.2.part ≠ some 1) = true ∧ (parted record {}).launches = [] ∧ (parted record {}).ports.foreign = [] ∧ ({} : Part).viral = none ∧ (viral false).viral.map Viral.active = some false ∧ (viral true).viral.map Viral.active = some true ∧
    2 ^ 16 ≤ (0x10000 : BitVec 64).toNat ∧ (0xFFFF : BitVec 64).toNat < 2 ^ 16 ∧ (List.range 16).all (fun w => !small.xlat.shways.getLsbD w) = true ∧ (small.part 0).cfg.ways &&& (small.xlat.shways ^^^ 1) ≠ 0 ∧ (small.part 0).cfg.ways &&& (small.xlat.shways ^^^ 0) = 0 ∧
    (1024 ≤ 1024 ∧ 1023 < 1024) ∧ ((parted record {}).ctx 5).fresh = false ∧ ((parted record {}).ctx 6).fresh = true ∧ ((parted record {}).ctx 7).part = none ∧
    ((parted (record - 16 * 2 ^ 800) {}).part 1).cfg.quota * 2 ^ 21 < ((parted (record - 16 * 2 ^ 800) {}).modCtx 7 fun x => { x with part := none, saveArea := 0 }).charged 1 + 1 * 2 ^ 20 ∧
    ((parted record {}).modCtx 7 fun x => { x with part := none, saveArea := 0 }).charged 1 + 1 * 2 ^ 20 ≤ ((parted record {}).part 1).cfg.quota * 2 ^ 21 ∧ popc ((parted record {}).part 1).cfg.quart.toNat 384 = 1 ∧
    ((parted record {}).ctx 5).resetting = none ∧ ({ resetting := some 1 } : Ctx).resetting = some 1 := by decide +kernel

/-- A kernel image of 128 bytes whose text is its last 64 (R508). -/
def imageBytes : List Byte := leBytes 64 (0x4B494D47 + 2 ^ 32 + 64 * 2 ^ 64 + 64 * 2 ^ 96) ++ List.replicate 64 0
/-- `mapped` with that image in memory at 0. -/
def imaged (a : Arg) : State := { mapped with mem := (imageBytes.zipIdx.filter fun b => b.1 ≠ 0).map (fun b => (b.2, b.1)), arg := a }
theorem wit_ImageCommands_keys : 64 ≤ 64 ∧ mapped.holdsMemory 0 = true ∧ small.holdsMemory 0 = false ∧ small.tdiHeld 0 = false ∧ Tbl.get? small.mil.sess 0 = none ∧ Tbl.get? ([(0, false), (1, true)] : Tbl Bool) 0 = some false ∧
    Tbl.get? ([(0, false), (1, true)] : Tbl Bool) 1 = some true ∧ Tbl.get? small.mil.tkeys (64 * 1 + 0) = none ∧ Tbl.get? ([(64, 5)] : Tbl (BitVec 256)) (64 * 1 + 0) = some 5 ∧ small.imageArgs 1 0 = false ∧ small.imageArgs 0 1024 = false ∧
    small.imageArgs 0 1023 = true ∧ small.imageInUse 0 0 = true ∧ small.imageInUse 0 1 = false ∧ imageOf [] = none ∧ (imageOf imageBytes).isSome = true ∧ ((small.modPart 0 fun P => { P with cfg := { P.cfg with quota := 0 } }).quotaLeft 0) < 128 ∧
    128 ≤ (small.modPart 0 fun P => { P with images := Tbl.del P.images 1 }).quotaLeft 0 := by decide +kernel
theorem wit_ImageCommands_inst : (4 ≤ 4 ∧ 3 < 4) ∧ ownsRange mapped 0 0 128 ∧ ownsRange mapped 0 (2 ^ 21 - 384) 384 ∧ ¬ ownsRange small 0 0 128 ∧ imageOf (memBytes mapped.mem 0 128) = none ∧ (imageOf (memBytes (imaged {}).mem 0 128)).isSome = true ∧
    Tbl.get? (mapped.part 0).tkeys 3 = none := by unfold ownsRange; decide +kernel
theorem wit_ImageCommands_rest : (w9l {}).fitting = .w9l ∧ (w9l {}).hasPart 1 = false ∧ (Tbl.get? (w9l {}).parts 0).isSome = true ∧ (1024 ≤ 1024 ∧ 16 < 17) ∧ (16 ≤ 16 ∧ 1023 < 1024) ∧ 2 ^ 28 % 2 ^ 28 = 0 ∧ small.isPool (2 ^ 51) = true ∧ small.isPool (2 ^ 51 + 2 ^ 28 - 1) = true ∧
    (linked 0 {}).ports.pool.all (fun x => decide (x.1 = 1 ∨ x.2.base + x.2.len ≤ 2 ^ 51 + 2 ^ 28 ∨ 2 ^ 51 + 2 ^ 29 ≤ x.2.base)) = true ∧ 7 < 8 ∧ small.frozenTeam 5 = none ∧
    (({ small with teams := [(0, { tm with sched := { frozen := some { cause := 0x90 } } })] } : State).frozenTeam 0).isSome = true ∧ (7, 3) ∉ small.ports.blocked ∧ (7, 3) ∈ ({ blocked := [(7, 3)] } : Ports).blocked ∧ (7, 3 + 64) ∉ ({ blocked := [(7, 3)] } : Ports).blocked ∧
    (7, 3 + 64) ∈ ({ blocked := [(7, 3), (7, 67)] } : Ports).blocked ∧ (small.ctx 0).vfFrozen = false ∧ ({ vfFrozen := true } : Ctx).vfFrozen = true ∧ (bare {}).launches = [] ∧ ((bare {}).ctx 0).resetting = none ∧
    ({ spdm := .getMeasurements } : Arg).spdm = .getMeasurements ∧ Tbl.get? ([(0, true)] : Tbl Bool) 0 ≠ none ∧ 63 < 64 ∧ (small.ctx 0).tdi ≠ .error ∧ ({ tdi := .error } : Ctx).tdi = .error := by decide +kernel
theorem wit_WindowEvents : TakesWrites small 0 ∧ ¬ TakesWrites small 1024 ∧ (small.ctx 0).part = some 0 ∧ (small.ctx 0).resetting = none ∧ (small.part 0).resetting = false ∧ 7 < 8 ∧ ((small.ctx 0).stream 15).pend.length < 64 ∧ 15 < 16 ∧
    64 ≤ (({ streams := [(0, { pend := List.replicate 64 (pend 0 none) })] } : Ctx).stream 0).pend.length ∧ (small.ctx 5).part = none ∧ (bare {}).launches.all (fun l => !(l.2.head.ctx = 0 && l.2.uncommitted)) = true ∧
    small.launches.any (fun l => l.2.head.ctx = 0 && l.2.uncommitted) = true ∧ 0x78 % 8 = 0 ∧ 0x78 < 0x80 ∧ 0x80 ≤ 0xF8 ∧ 0xF8 < 0x100 ∧ 0x400 ≤ 0x5F8 ∧ 0x5F8 < 0x600 ∧ State.reset.mil.served = false ∧ small.mil.served = true ∧ (1 : BitVec 64).getLsbD 0 = true ∧
    ApertureOk small 0 4095 1 ∧ ¬ ApertureOk small 0 4095 2 ∧ ({ apt := [(0, 1)] } : Ctx).apVa 4095 = some 4095 ∧ (small.ctx 0).apVa 4095 = none ∧ (small.ctx 0).part.isSome = true := by unfold TakesWrites ApertureOk; decide +kernel
def inval (phase : Nat) (ats : Bool) : Inval := { id := 0, ats := ats, ctx := 0, va := 0, lg := 12, ta := 0, phase := phase }
def move (phase : Nat) (pos : Nat) : Move := { id := 0, pf := true, ctx := 0, va := 0, lg := 12, old := 0, new := 4096, phase := phase, pos := pos }
def withX (x : Xlat) : State := { bare {} with xlat := x }
/-- An owner word: `n` granules from granule 5 to partition 0 (R154). -/
def ownWord (n own : Nat) : Nat := (n - 1) * 2 ^ 40 + own * 2 ^ 32 + 5
theorem wit_TranslationEvents_own : small.xlat.gbusy = [] ∧ (withX { gbusy := [(5, 0)] }).xlat.gbusy ≠ [] ∧ (bits (ownWord 1 0) 63 60 = 0 ∧ bits (ownWord 1 0) 31 20 = 0 ∧ bits (ownWord 1 0) 39 32 < 64 ∧ bits (ownWord 1 0) 19 0 + 1 ≤ small.granules) ∧
    bits (ownWord 1 0x80) 39 32 = 0x80 ∧ bits (ownWord 1 0xFF) 39 32 = 0xFF ∧ small.inExtent 5 = false ∧ small.granuleOwner 5 = 0xFF ∧ ({ w9l {} with ports := { eown := [(0, 0)] } } : State).inExtent 5 = true ∧
    (withX { own := [(5, 1)] }).granuleOwner 5 = 1 ∧ (small.part 0).cfg.quota + (small.part 0).cfg.shpool < small.ownedBy 0 + 65 ∧ ¬ (small.part 0).cfg.quota + (small.part 0).cfg.shpool < small.ownedBy 0 + 64 ∧
    (withX { gbusy := [(5, 0)] }).mayScrub = true ∧ small.mayScrub = false := by decide +kernel
theorem wit_TranslationEvents_drains : (withX { invs := [inval 1 false] }).xlat.invs.any (fun i => !i.ats) = true ∧ (withX { invs := [inval 1 true] }).xlat.invs.all Inval.ats = true ∧ ((withX { invs := List.replicate 31 (inval 1 true) }).xlat.invs.filter Inval.ats).length < 32 ∧
    32 ≤ ((withX { invs := List.replicate 32 (inval 1 true) }).xlat.invs.filter Inval.ats).length ∧ (withX { invs := [inval 1 false] }).xlat.invs.find? (fun i => i.id = 0 && i.phase = 1) = some (inval 1 false) ∧
    (withX { invs := [inval 2 false] }).drained (inval 2 false) = true ∧ (withX {}).drained (inval 1 false) = false ∧ (withX { invs := [inval 2 true] }).drained (inval 2 true) = true ∧
    ((withX { reqs := [{ tag := 0, for_ := .ats 0, addr := 1, write := false }] }).xlat.reqs.find? fun r => r.tag = 0).map Req.for_ = some (.ats 0) ∧ (withX {}).xlat.reqs.find? (fun r => r.tag = 0) = none ∧
    ((withX { pris := [{ id := 0, ctx := 0, page := 0, write := false, sent := true }] }).xlat.pris.find? fun r => r.id = 0 && r.sent).isSome = true ∧ (withX {}).xlat.pris.find? (fun r => r.id = 0 && r.sent) = none ∧
    (withX {}).mayWalk { id := 0, ctx := 0, page := 0, core := 0 } = true ∧ (withX { reqs := [{ tag := 0, for_ := .walk 0, addr := 0, write := false }] }).mayWalk { id := 0, ctx := 0, page := 0, core := 0 } = false := by decide +kernel
theorem wit_TranslationEvents_moves : (withX { moves := [move 1 0] }).xlat.moves.any (fun m => m.kv = none) = true ∧ (withX {}).xlat.moves = [] ∧ (match (withX {}).walk [] 0 0 0 with | .host => false | _ => true) = true ∧
    (withX { moves := [move 1 0] }).xlat.moves.find? (fun m => m.id = 0 && decide (m.phase < 2)) = some (move 1 0) ∧ (withX {}).mayCopy (move 2 0) = true ∧ (withX {}).clusters = [] ∧ (withX {}).mayCopy (move 3 0) = false ∧ (withX {}).mayEndCopy (move 3 0) = true ∧
    (move 3 0).pos < (withX {}).moveLines (move 3 0) ∧ (withX {}).moveLines (move 3 64) ≤ (move 3 64).pos ∧ (withX {}).mayEndCopy (move 2 0) = false ∧ (withX {}).mayEndMove (move 4 0) = true ∧ (move 4 0).pf = true ∧ (withX {}).mayEndMove (move 3 0) = false := by decide +kernel

/-- `mapped` with words of memory and its context's table entry, a context that queues launches at 256. -/
def cells (n a w : Nat) : List Host.Cell := ((leBytes n w).zipIdx.filter fun b => b.1 ≠ 0).map fun b => (a + b.2, b.1)
def tabled (m : List Host.Cell) (ctab : BitVec 128) (x : Ctx) : State := { mapped with mem := m, ctxs := [(0, { x with part := some 0, fresh := false, ctab := some ctab })] }
theorem wit_TranslationEvents_host : (tabled (cells 8 0 3) 3 {}).walk [] 0 0 0 = .host := by decide +kernel
/-- The W9L with capacity: region 0 from slot 0, one tag. -/
def capacity (p : Ports) : State := { w9l {} with ports := { p with tags := [(5, 0)], regions := [(0, { first := 0, count := 4096, bulk := true })], links := [(0, { up := true, ide := true })] } }
def poolW (left : Bool) : PoolW := { id := 0, src := 0, link := 1, epoch := 0, pbr := 7, dpa := 0, op := .read, part := 0, launch := some 0, left := left }
theorem wit_PortEvents_capacity : (capacity {}).ports.tags.find? (fun x => x.1 = 6) = none ∧ (capacity {}).ports.tags.find? (fun x => x.1 = 5) = some (5, 0) ∧ (4096 ≤ 4096 ∧ 4095 < 4096) ∧ Tbl.get? (capacity { emap := [(3, 1)] }).ports.emap 3 ≠ none ∧
    Tbl.get? (capacity {}).ports.emap 3 = none ∧ (0 < 4095 ∧ (capacity {}).extentFree 0 = true) ∧ (capacity { emap := [(3, 0)], eown := [(0, 0)] }).extentFree 0 = false ∧ 3 ∈ (capacity { scrub := [3] }).ports.scrub ∧ 3 ∉ (capacity {}).ports.scrub ∧
    3 ∈ (capacity { releasing := [3] }).ports.releasing ∧ (capacity { emap := [(3, 1)], releasing := [3] }).mayRelease 3 = true ∧ (capacity { emap := [(3, 1)] }).mayRelease 3 = false ∧ 15 < 16 ∧ ((capacity {}).link (linkNo 0 0)).ide = true ∧ (capacity {}).dpaPa 0 = none ∧
    (capacity { emap := [(0, 1)] }).dpaPa 64 = some (2 ^ 28 + 64) ∧ (capacity { emap := [(0, 1)], scrub := [0] }).adding (2 ^ 28 + 64) = true ∧ (capacity { emap := [(0, 1)] }).adding (2 ^ 28) = false ∧ (capacity { emap := [(0, 1)], releasing := [0] }).releasing (2 ^ 28) = true ∧
    (capacity { emap := [(0, 1)] }).releasing (2 ^ 28) = false ∧ (capacity {}).bulkSlot 4095 = true ∧ ({ op := .read } : Arg).op = .read := by decide +kernel
theorem wit_PortEvents_requests : (linked 0 {}).fitting = .w9h ∧ ((linked 0 {}).link 0).up = true ∧ ((bare {}).link 0).up = false ∧ (bare {}).ports.swait = [] ∧ (1 : BitVec 16) &&& ~~~((1 : BitVec 16) <<< 0) = 0 ∧ (3 : BitVec 16) &&& ~~~((1 : BitVec 16) <<< 0) ≠ 0 ∧ (3 : BitVec 16) ≠ 0 ∧
    ({ linked 1 {} with ports := { (linked 1 {}).ports with q := [poolW false] } } : State).mayLeave (poolW false) = true ∧ ({ bare {} with ports := { q := [poolW true] } } : State).mayLeave (poolW true) = false ∧ (viral true).drops 0 = true ∧ ({} : Part).drops 0 = false ∧ (poolW true).left = true ∧
    (poolW false).left = false ∧ ((withX {}).xlat.reqs.find? fun r => r.tag = 0) = none ∧ ((withX { reqs := [{ tag := 0, for_ := .walk 0, addr := 0, write := false }] }).xlat.reqs.find? fun r => r.tag = 0).isSome = true ∧
    ((bare {}).reqRefused { tag := 0, for_ := .walk 0, addr := 0, write := false } 0).isNone = true ∧ ((bare {}).reqRefused { tag := 0, for_ := .card 0 0, addr := 0, write := false } 0x4D).isNone = true := by decide +kernel
/-- A header with one stage (R118) at 256 and its stage table (R119) at 512; the header names the stream descriptor or none. -/
def header (ds : Nat) : Nat := 1 + 2 ^ 24 + 512 * 2 ^ 128 + 5 * 2 ^ 352 + ds * (2 ^ 17 + 2 * 2 ^ 288) + (2 ^ 480 + 2 ^ 512 + 2 ^ 544 + 2 ^ 576 + 2 ^ 608) + 8 * 2 ^ 640
def stage : Nat := 32 * 2 ^ 32 + 15 * 2 ^ 96 + 5 * 2 ^ 120 + 0xFFFFFF * 2 ^ 144
def admitting (hd : Nat) : State := tabled (cells 256 256 hd ++ cells 32 512 stage) 1 { streams := [(0, { pend := [pend 9 none], line := some (9, leBytes 64 hd, false) })] }
def verdict : Verdict → Nat | .refuse _ _ _ _ => 0 | .hold _ => 1 | .wait _ => 2 | .admits _ _ => 3
theorem wit_LaunchEvents_admission : ({ small.part 0 with cfg := { (small.part 0).cfg with trstall := true }, conf := { hold := List.replicate 64 0 } } : Part).traceFull = true ∧ ((admitting 0).part 0).traceFull = false ∧
    ((tabled [] 1 { streams := [(0, { pend := [pend 9 (some 4)] })] }).heads 0).find? (fun h => h.2.2.dead.isSome) = some (0, 0, pend 9 (some 4)) ∧ ((admitting 0).heads 0).find? (fun h => h.2.2.dead.isSome) = none ∧ (admitting 0).partAdmits 0 = true ∧
    (mappedPart fun P => { P with lastAdmit := 8 }).partAdmits 0 = false ∧ (admitting 0).heads 0 = [(0, 0, pend 9 none)] ∧ (pend 9 none).addrOk = true ∧ ({ pend 9 none with addr := 128 } : Pend).addrOk = false ∧
    (match (admitting 0).seqRead ((admitting 0).seqAgent 0 0 (pend 9 none)) 256 64 with | .ok _ _ => true | _ => false) = true ∧ verdict ((admitting 0).judge 0 (0, 0, pend 9 none)) = 0 ∧ verdict ((admitting (header 0)).judge 0 (0, 0, pend 9 none)) = 3 ∧
    verdict ((admitting (header 1)).judge 0 (0, 0, pend 9 none)) = 1 := by decide +kernel
/-- The small machine without teams, its launch in a state, of one gang of which `n` is the next. -/
def launched (st : LState) (n : Nat) (g : Stage) : State := { small with now := 1, teams := [], launches := [(0, { lnch with st := st, nextGang := n, live := 0, head := { lnch.head with stages := [g] } })] }
theorem wit_LaunchEvents_course : (launched .waiting 0 {}).mayStart 0 = true ∧ (launched .started 0 {}).mayStart 0 = false ∧ ((launched .waiting 0 {}).bestFit 0 true).isSome = true ∧ ((launched .waiting 0 { lanes := 1024, vregs := 64 }).bestFit 0 true).isNone = true ∧
    (launched .started 0 {}).mayPlace 0 = true ∧ (launched .started 1 {}).mayPlace 0 = false ∧ ((launched .started 0 {}).bestFit 0 false).map (fun f => f.teams.length) = some 1 ∧ ((launched .started 0 {}).launch 0).head.groupTeams.length = 1 ∧ (launched .started 0 {}).newIndex 0 = some 0 ∧
    (launched .started 1 {}).mayCommit 0 = true ∧ (launched .started 0 {}).mayCommit 0 = false ∧ ((launched .started 1 {}).launch 0).dies = [] ∧ (Tbl.get? (launched (.notified 0 []) 1 {}).launches 0).isSome = true ∧ 95 < 96 ∧ Tbl.get? ([] : Tbl Nat) 95 = none ∧
    ((List.range 96).map fun i => (i, 0)).length = 96 ∧ (0 < 128 ∧ 128 ≤ 128) ∧ ((launched (.timed 0 1 []) 1 {}).launch 0).kv = [] ∧ ((launched (.timed 0 1 []) 1 {}).launch 0).deltas = [] ∧ (launched (.timed 0 1 []) 1 {}).traces 0 0 = false ∧
    (launched (.timed 0 1 []) 1 {}).lostAt 64 = false ∧ (7 ∈ [7] ∧ 8 ∉ [7]) ∧ ([7].all fun x => decide (x = 7 ∨ x ∈ [])) = true ∧ ([7, 8].any fun x => decide (x ≠ 7 ∧ x ∉ [])) = true := by decide +kernel
def hold : Held := { va := 0, group := 0, mask := 1, data := 0 }
def flipped (l : List Held) : State :=
  { launched (.flipped 0) 1 {} with launches := [(0, { lnch with st := .flipped 0, held := l })], clusters := [(0, { tlb := [{ ctx := 0, va := 0, lg := 12, pa := 0, r := true, w := true, host := true }] })] }
def record0 : CRec := { pid := 1, time := 0, ver := 0, lid := 0, cause := 0x50, status := 1, stream := 0, waits := [] }
def recorded (cbase : BitVec 64) (w : Bool) : State := { tabled [] 1 { crecs := [record0], cbase := cbase } with clusters := [(0, { tlb := [{ ctx := 0, va := 0, lg := 21, pa := 0, r := true, w := w }] })] }
theorem wit_LaunchEvents_writes : (({ die := 7, part := 1, ver := 2 } : Foreign).is 7 1 2) = true ∧ ({ die := 7, part := 1, ver := 2 } : Foreign).is 7 1 3 = false ∧ (small.launches.find? fun l => l.2.head.part = 0 && l.2.head.ver = 0).isSome = true ∧
    (small.launches.find? fun l => l.2.head.part = 1 && l.2.head.ver = 0) = none ∧ (flipped []).nextHeld 0 = none ∧ (flipped [hold]).nextHeld 0 = some hold ∧ ((flipped [hold]).part 0).drops 1 = false ∧
    (match (flipped [hold]).unitXlat ((flipped [hold]).agent (.held 0 0) 0 none) .store 0 1 with | .ok g _ => g.host | _ => false) = true ∧ small.nextRecord 0 = none ∧ (recorded 0 true).nextRecord 0 = some record0 ∧ ((recorded 9 true).ctx 0).slots = none ∧
    ((recorded 8 true).ctx 0).slots = some 65536 ∧ goOk ((recorded 0 true).unitWrite ((recorded 0 true).agent (.crec 0) 0 none) none 0 (leBytes 16 0)) = true ∧
    (match (recorded 0 false).unitWrite ((recorded 0 false).agent (.crec 0) 0 none) none 0 (leBytes 16 0) with | .fault _ _ => true | _ => false) = true := by decide +kernel

/-- The small machine at time `n`, its team changed. -/
def teamed (n : Nat) (t : Team) : State := { small with now := n, teams := [(0, t)] }
def home : Team := { tm with id := { ready := true } }
/-- Two stages with a full queue and an empty one, and a team of the second stage: what the balancer posts. -/
def unbalanced : State :=
  { small with teams := [(0, { home with id := { stage := 1 } })]
               launches := [(0, { lnch with head := { lnch.head with stages := [{ depth := 4, elsz := 1, hiwm := 128, lowm := 64 }, { depth := 4, elsz := 1, hiwm := 128, lowm := 64 }] }
                                            qs := [{ cluster := 0, stage := 0, quarter := 0, base := 0, cnt := 4 }, { cluster := 0, stage := 1, quarter := 0, base := 64 }] })] }
theorem wit_SchedulingEvents_balance : 1 % 256 ≠ 0 ∧ small.marked 0 0 = false ∧ ({ small with ticked := [0] } : State).marked 0 0 = true ∧ 256 % 256 = 0 ∧ (balanceBest (unbalanced.balancePairs 0 0)).isSome = true ∧ small.marked 1 0 = true ∧
    ({ small with ticked := [] } : State).marked 1 0 = false ∧ 4096 % 4096 = 0 ∧ home.resident = true ∧ (teamed 65536 home).ages home = true ∧ (teamed 65535 home).ages home = false := by decide +kernel
/-- A partition with a saved team of context 1 beside context 0. -/
def turning (run : Option Nat) (l : List (Nat × Team)) (q : Bool) : State :=
  { small with now := 21000, teams := l, launches := [(0, { lnch with nextGang := 1 })], ctxs := [(0, { part := some 0, fresh := false }), (1, { part := some 0, fresh := false })]
               parts := small.parts.map fun p => (p.1, { p.2 with running := run, quiescing := q, saved := l.map Prod.fst }) }
def saved (c : Nat) : Team := { home with id := { home.id with ctx := c, loc := .saved } }
theorem wit_SchedulingEvents_turn : small.turnOver 0 = false ∧ (turning none [(1, saved 1)] false).turnOver 0 = true ∧ (turning none [(1, saved 1)] false).nextCtx 0 none = some 1 ∧ (turning (some 0) [(0, home)] false).turnOver 0 = true ∧
    (turning (some 0) [(0, home)] false).nextCtx 0 (some 0) = none ∧ (turning (some 0) [(1, saved 1)] false).turnOver 0 = true ∧ (turning (some 0) [(1, saved 1)] false).nextCtx 0 (some 0) = some 1 ∧ (turning (some 0) [(1, saved 1)] false).ctxTeams 0 0 = [] ∧
    (turning (some 0) [(1, saved 1)] false).uncreated 0 0 = false ∧ ((turning (some 0) [(0, home), (1, saved 1)] false).ctxTeams 0 0).length = 1 ∧ (turning (some 0) [(0, home), (1, saved 1)] false).turnOver 0 = true ∧
    small.maySave 0 = false ∧ (turning (some 0) [(0, home), (1, saved 1)] true).maySave 0 = true ∧ (turning (some 0) [(0, home), (1, saved 1)] true).unflushed (saveOrder ((turning (some 0) [(0, home), (1, saved 1)] true).leavers 0)) = false ∧
    (turning (some 0) [(0, home), (1, saved 1)] true).displaced 0 = [] ∧ (turning (some 0) [(0, home), (1, saved 1)] true).leavers 0 = [(0, home)] := by decide +kernel
/-- A machine whose quiescing team holds a dirty mapped line. -/
def dirty : State :=
  { turning (some 0) [(0, { home with sync := { allocs := [alloc 1], stashLen := 16384 } }), (1, saved 1)] true with
    xlat := mapped.xlat
    clusters := [(0, { maps := [(0, { launch := 0, va := 0, len := 4096, kind := 1, w := true, base := 64, quarter := 0, owner := 0, teams := [0], lines := [(0, { dirty := true, ln := 0 })] })] })] }
theorem wit_SchedulingEvents_flush : dirty.maySave 0 = true ∧ dirty.unflushed (saveOrder (dirty.leavers 0)) = true := by decide +kernel
def parkedAt (p : Park) (loc : Where) (ready : Bool) : Team := { home with id := { loc := loc, ready := ready }, sync := { park := p } }
def longEntry (due : Nat) : Entry := { res := [.s 1 5], dest := [(0, 1)], due := due }
theorem wit_SchedulingEvents_teams : (teamed 1 home).mayEvict 0 home = false ∧ (teamed 1 (parkedAt .dsin .resident false)).mayEvict 0 (parkedAt .dsin .resident false) = true ∧ (teamed 1 home).wakes 0 home = false ∧
    ([Park.run, .qpop, .dsin, .join, .tretWait].all fun p => (teamed 1 (parkedAt p .evicted false)).wakes 0 (parkedAt p .evicted false)) = true ∧ (teamed 1 home).mayRestoreTeam 0 home = false ∧
    (teamed 1 (parkedAt .run .evicted true)).mayRestoreTeam 0 (parkedAt .run .evicted true) = true ∧ (((small.part 0).coresOn 0).find? fun c => decide (c ∉ small.mil.waitQ) && (teamed 1 (parkedAt .run .evicted true)).coreRoom c 64) = some 0 ∧
    (teamed 1 (parkedAt .run .evicted true)).freeSlot 0 = some 0 ∧ (turning (some 0) [(0, saved 0)] false).mayRestoreTeam 0 (saved 0) = true ∧
    (turning (some 0) [(0, saved 0)] false).unitPlace ((turning (some 0) [(0, saved 0)] false).unitOf (saved 0)) ((turning (some 0) [(0, saved 0)] false).launch 0) 0 = some 0 ∧ (teamed 1 home).mayRetire 0 home = false ∧
    (teamed 1 (parkedAt .retire .resident false)).mayRetire 0 (parkedAt .retire .resident false) = true ∧ (teamed 1 home).relOver home = false ∧ (teamed 1 home).relOver { parkedAt .rel .resident false with sched := { relActive := true } } = true ∧
    (teamed 1 home).relOver (parkedAt (.bdev 0) .resident false) = true ∧ ({} : Entry).mayWrite = false ∧ 0 < (longEntry 36).due ∧ (longEntry 36).mayWrite = true ∧ (longEntry 36).due ≤ 36 ∧ (longEntry 36).clob = [] ∧ (longEntry 36).raised = none ∧
    (teamed 1 home).mayFrame (team [] { rq := [{ raised := some { cause := 0x12 } }] }) = true ∧ (teamed 1 home).mayFrame home = false ∧ (({ id := 0, time := some 5 } : Compl).time = some 5) ∧ ({ id := 0, time := none } : Compl).time = none := by decide +kernel
def debugged (d : Dbg) (t : Team) : State := { teamed 1024 t with ctxs := [(0, { part := some 0, fresh := false, dbg := d })], parts := (traced 0 false).parts }
def haltedTeam (frozen trap : Bool) : Team := { home with sched := { halted := !frozen, trapHalt := trap } }
theorem wit_DebugEvents : ((small.ctx 5).part = none ∧ ({ halted := true } : Dbg).halted = true ∧ (small.ctx 0).part.isSome = true ∧ (small.ctx 0).dbg.halted = false) ∧ small.mayHaltDone 0 = false ∧ (debugged { halting := true } home).mayHaltDone 0 = true ∧
    (home.id.ctx = 0 ∧ home.id.foreign = false ∧ some home.id.part = (small.ctx 0).part) ∧ (haltedTeam false false).sched.halted = true ∧ small.dbgTeam 5 = none ∧ (debugged {} home).dbgTeam 0 = some (0, home) ∧ home.sched.halted = false ∧ (haltedTeam false true).sched.trapHalt = true ∧
    Tbl.get? small.teams 5 = none ∧ stepOver home = false ∧ stepOver { home with sched := { stepping := true, stepped := true } } = true ∧ home.sched.frozen = none ∧ (debugged {} home).fires ((debugged {} home).ctx 0) ({} : Dbg).sexp = false ∧
    (debugged { trctl := 10 * 256 } home).fires ((debugged {} home).ctx 0) ({ trctl := 10 * 256 } : Dbg).sexp = true ∧ (debugged {} home).marked 2 0 = false ∧ ((bare {}).teams.all fun t => t.2.id.ctx ≠ 0) = true ∧
    ({ debugged {} home with now := 4096 } : State).fires ((debugged {} home).ctx 0) ({ trctl := 12 * 65536 } : Dbg).cexp = true ∧ (debugged {} home).marked 3 0 = false ∧ ((small.ctx 0).perf.sel.all fun q => !bit q.2.toNat 15) = true ∧
    bit (0x8000 : BitVec 64).toNat 15 = true := by decide +kernel
def leave (sent : Bool) (at_ : Option Nat) (ok : Bool) (pbr : Option Nat) : Leaving := { lane := 3, entry := 0, cluster := 0, pbr := pbr, dpa := 0, refusedAt := at_, sent := sent, ok := ok }
def groupOf (n : Nat) : Group := { id := 0, part := 0, since := 0, conts := List.replicate n 0, pas := [], wct := 0 }
theorem wit_MigrationCardEvents_lanes : Tbl.get? (bare {}).teams 0 = none ∧ (teamed 1 home).mayPack 0 home (leave false none true none) = true ∧ (leave false none false none).ok = false ∧ (contRet 0 = false ∧ contRet (packWct 0 0) = false ∧ small.lostDest (leave false none true none) = false) ∧
    (small.landRefusal 0 0 true (1 <<< 226)) = some 0x5A ∧ small.landRefusal 0 0 true 0 = none ∧ (small.landRefusal 0 1 false 0) = some 0x5B ∧ (capacity {}).dpaPa 0 = none ∧ (capacity { emap := [(0, 1)], eown := [] }).dpaPa 0 = some (2 ^ 28) ∧
    Tbl.get? (capacity { emap := [(0, 1)] }).ports.eown (extentOf (2 ^ 28)) = none ∧ Tbl.get? (capacity { emap := [(0, 1)], eown := [(1, 0)] }).ports.eown (extentOf (2 ^ 28)) = some 0 ∧ (leave false (some 0) true none).timedOut 4096 = true ∧ (leave false (some 0) true none).timedOut 4095 = false ∧
    (({ orig := {}, lane := 3, entry := 0, cluster := 0, pbr := none, dpa := 0 } : Leaving).orig.raised = none) ∧ ({ small with now := 1023 } : State).mayLandTeam 0 (groupOf 1) = false ∧ ({ small with now := 1024 } : State).mayLandTeam 0 (groupOf 1) = true ∧
    ({ small with now := 1 } : State).mayLandTeam 0 (groupOf 32) = true ∧ (small.landCore 0 0).isSome = true ∧ (small.freeSlot 0).isSome = true ∧ small.mayReturn 0 = false ∧ ({ small with now := 1 } : State).mayReturn 0 = true ∧ (Tbl.get? small.teams (contOrigin 0)).isSome = true := by
  decide +kernel
def cardAt (k pos : Nat) (st : CardSt) : Card := { tag := 0, kind := k, bits := BitVec.ofNat 512 copyCard, team := 0, launch := 0, part := 0, ctx := 0, fmt := 0x00705280, st := st, pos := pos }
def carded (k pos : Nat) (st : CardSt) : State := { small with clusters := [(0, { cards := [cardAt k pos st], nextTag := 1, open_ := [0] })] }
def monitored (m : Monitor) : Team := { home with sync := { mon := some m } }
theorem wit_MigrationCardEvents_units : (carded 0 0 .queued).card 0 0 = some (cardAt 0 0 .queued) ∧ (carded 0 0 .queued).cardMayStart 0 (cardAt 0 0 .queued) = true ∧ (carded 0 0 .running).cardMayStart 0 (cardAt 0 0 .running) = false ∧ (carded 0 0 .running).mayTransfer 0 (cardAt 0 0 .running) = true ∧
    (carded 0 0 .queued).mayTransfer 0 (cardAt 0 0 .queued) = false ∧ (carded 2 0 .running).mayIssueRow 0 (cardAt 2 0 .running) = true ∧ (carded 0 0 .running).mayIssueRow 0 (cardAt 0 0 .running) = false ∧ (carded 0 0 .stopped).mayComplete 0 (cardAt 0 0 .stopped) = true ∧
    (carded 0 0 .running).mayComplete 0 (cardAt 0 0 .running) = false ∧ small.monWakes home = false ∧ small.monNow (monitored { monitor with slice := some 0 }) = some 0 ∧ small.pollDue home = false ∧ small.pollDue (monitored { monitor with v := 1 }) = true ∧
    ({ monitor with host := true } : Monitor).host = true ∧ small.pollDue (monitored { monitor with host := true }) = true ∧ monitor.host = false ∧ small.isLocal monitor.pa = true ∧ small.monNow (monitored { monitor with v := 1 }) = none ∧ small.monNow (monitored monitor) = some 0 ∧
    ({ committing := true } : Tm).asked = [] ∧ (({ committing := true, writes := [(0, 1, 0)] } : Tm).lines.any (small.lockedBy 0)) = false ∧ small.tmValid home.view { committing := true, reads := [(0, 1)] } = false ∧ small.tmValid home.view { committing := true } = true ∧
    ({ small with mil := { small.mil with offline := [0] } } : State).lostAt 0 = true ∧ small.mayTake 0 2 = false ∧ ({ streamed {} with ctxs := [(0, { part := some 0, fresh := false, ctab := some 0 })] } : State).mayTake 0 2 = true ∧
    (small.mayRestore 0 2 = false) ∧ (streamed { restoring := some ({ data := 0, cut := 0, nosnap := false, late := false }, 0, 0) }).mayRestore 0 2 = true := by decide +kernel
theorem wit_HardwiredRegisters : (cur 0 0).ovr = [] ∧ (1 : Nat) ≠ 0 := by decide

/-! ### Further witnesses: clauses of the statements beyond those above -/

/-- One mapping over the first page, of team 0, with a line of memory in it. -/
def mapOf0 (line : MLine) (team : Nat) : Nat × Mapping := (0, { launch := 0, va := 0, len := 4096, kind := 1, w := true, base := 64, quarter := 0, owner := team, teams := [team], lines := [(0, line)] })
def holding (s : State) (m : Nat × Mapping) : State := { s with clusters := s.clusters.map fun c => (c.1, { c.2 with maps := [m] }) }
/-- A W9L, one line of which a host shares. -/
def hosted : State := { mapped with fitting := .w9l, ports := { mapped.ports with snoop := [(0, { ex := false, bi := 1, order := 0 })] } }
theorem wit_HandlerReturn_entries : ({ frame := { rq := [({} : Entry)] } } : TeamSync).frame.rq[0]? = some ({} : Entry) ∧ ({ frame := { rq := [{}] } } : TeamSync).frame.rq.length ≤ 1 := by decide +kernel
theorem wit_PlainAndCapabilityForms_live : let t := withS [(5, 0x40001)] tm
    (rdS t (cur 0 0) 5).toNat % 2 ^ 16 = 1 ∧ (rdS t (cur 0 0) 5).toNat / 2 ^ 16 % 2 ^ 8 = 4 ∧
    ([(1, [0, 0, 0, 0, 7])] : List (Nat × List Nat)).find? (fun e => e.1 = (rdS t (cur 0 0) 5).toNat % 2 ^ 16) = some (1, [0, 0, 0, 0, 7]) := by decide +kernel
theorem wit_AtomicAccesses_forms : (atomicForms tm (cur 0 0) 0 1 2 3 0).all (fun f => wellFormed f.i) = true ∧ ((atomicForms tm (cur 0 0) 0 1 2 3 5).filter fun f => !wellFormed f.i).length = 1 ∧
    ((atomicForms tm (cur 0 0) 0 63 2 3 0).filter fun f => !wellFormed f.i).length = 1 ∧ (3 : BitVec 3).toNat < 4 := by decide +kernel
theorem wit_MonitorForms_arming : (∃ e ∈ (busyWith .arm false).rq, ∃ a ∈ e.accs, a.kind = .arm) ∧ (busyWith .arm false).mon = none := by decide +kernel
theorem wit_DeviceRelease : (busyWith .store false).earlierDone 1 = false ∧ tm.sync.earlierDone 0 = true ∧ tm.sched.relActive = false ∧
    (let s := { holding mapped (mapOf0 { dirty := true, ln := 2 ^ 45 } 0) with ports := { fence := [(0, 65535)] } }; s.backStalled tm (s.joined 0 tm) = true) ∧
    (let s := holding hosted (mapOf0 { dirty := true, ln := 0 } 0); s.backStalled tm (s.joined 0 tm) = false ∧ s.backHeld (s.joined 0 tm) ≠ []) ∧
    (let s := put (holding mapped (mapOf0 { dirty := true, ln := 0 } 0)) tm (cur 0 0); MayFlush s tm (s.joined 0 tm) ∧ (s.writeBackAll 0 tm 0 true).teamGoes 0 = true ∧
      ((s.writeBackAll 0 tm 0 true).team 0).sync.compls ≠ []) ∧
    mapped.joined 0 tm = [] ∧ ({ tm with sched := { relActive := true } } : Team).sched.relActive = true := by unfold MayFlush; decide +kernel
theorem wit_BarrierForms_more : (team [] { guard := some (0, 0, 1) }).sync.guard = some (0, 0, 1) ∧ (bar 2 2 true 0).exp < (bar 2 2 true 0).cnt + 1 ∧ (bar 1 2 true 0).cnt + 1 ≤ (bar 1 2 true 0).exp ∧
    2 ^ 32 ≤ (bar 0 (2 ^ 32 - 1) false 0).exp + 1 ∧ (bar 0 (2 ^ 32 - 2) false 0).exp + 1 < 2 ^ 32 ∧ (0 : BitVec 1) ≠ 1 := by decide
theorem wit_TransactionForms_token : ({ pc := 0, acnt := 8 } : Tm).pc = (cur 0 0).entry.pc ∧ 8 ≤ ({ pc := 0, acnt := 8 } : Tm).acnt ∧ ({ pc := 0, acnt := 7 } : Tm).acnt < 8 ∧
    (({ small with parts := small.parts.map fun p => (p.1, { p.2 with tmTok := some 5 }) } : State).part 0).tmTok = some 5 ∧ (5 : Nat) ≠ (cur 0 0).team ∧ ({ ser := true } : Tm).ser = true := by decide +kernel
theorem wit_StashForms_more : (match small.checkMap tm 1 64 true true with | .raise x _ => x | _ => 0) = 0x24 ∧
    (match (holding mapped (mapOf0 { dirty := false, ln := 0 } 5)).checkMap tm 0 4096 true true with | .join _ m => decide (0 ∉ m.teams) | _ => false) = true ∧
    (match (holding mapped (mapOf0 { dirty := false, ln := 0 } 0)).checkMap tm 0 4096 true true with | .join _ m => decide (0 ∈ m.teams) | _ => false) = true ∧
    ({ mapped with clusters := [(0, { cards := [{ tag := 0, kind := 0, bits := BitVec.ofNat 512 copyCard, team := 0, launch := 0, part := 0, ctx := 0, fmt := 0, rd := [(64, 16)] }] })] } : State).cardOn 0 64 4096 = true ∧
    (∀ y ∈ (mapOf0 { dirty := false, ln := 0 } 0).2.lines, y.2.dirty = false) ∧ ((3 : BitVec 2) = 3 ∨ ((3 : BitVec 2) = 0 ∧ (0 : BitVec 1) = 1)) ∧ ((1 : BitVec 2) = 1 ∨ (1 : BitVec 2) = 2) := by decide +kernel
/-- The copy card whose page lies outside the footprint: whether it may be read depends on its page's translation (R200). -/
def farCard : BitVec 512 := BitVec.ofNat 512 (copyCard + 2 ^ 82)
theorem wit_CardForms_pages : (mapped.cardCheck (owner [] 0) 0 farCard).map Prod.fst = some 0x4D ∧ (match (mapped.cardJudge 0 (owner [] 0) 0 farCard).1 with | .error _ => true | _ => false) = true ∧
    (match (mapped.cardJudge 0 (owner [] 0) 0 0).1 with | .ok (some _) => true | _ => false) = true := by decide +kernel
theorem wit_EntryOpening_more : wellFormed (.kvopen 0 62 1) = true ∧ wellFormed (.kvopenDs 0 1 1) = true ∧
    (match ({ image with poison := [(0, true)] } : State).unitRead (teamAgent (cur 0 0) tm) 0 256 with | .ok x _ => x.2 | _ => false) = true ∧
    (match image.newIdx 0 4 with | some _ => true | none => false) = true := by decide +kernel
/-- Two rows of an append to position 8 of the mapped entry. -/
def rowsGo (s : State) : Nat :=
  match s.rowsWrite (cur 0 0) tm (hand 1) 16 0 16 (List.replicate 2 (List.replicate 16 7)) with | .ok _ _ => 0 | .stall => 1 | .held _ => 2 | .raise _ => 3 | _ => 4
theorem wit_EntryLengths_rows : (mapped.rowsWait 0 tm (hand 1) 16 16 2).1 = none ∧ rowsGo mapped = 0 ∧ rowsGo { mapped with fitting := .w9l, ports := { mapped.ports with snoop := [(((mapped.part 0).kvEnt 1).pageAt 0 / 64 + 2, { ex := false, bi := 1, order := 0 })] } } = 2 := by decide +kernel
theorem wit_StreamForms_more : (match ({ streamed (stream false 0) with poison := [(0, true)] } : State).unitRead (teamAgent (cur 0 0) tm) 0 8 with | .ok x _ => x.2 | _ => false) = true ∧ (busyWith .store false).earlierDone 1 = false ∧
    (streamed (stream false 0)).cardRoom 0 tm = true ∧ (busyWith .store false).rq.any (fun e => !e.done) = true ∧ (∀ e ∈ tm.sync.rq, e.done = true) := by decide +kernel

theorem wit_DeviceEvents_more : stageDigest 0 [] 0 0 0 = some (Config.bootDigest 0) ∧ (State.reset.mil.stages = 0 ∧ State.reset.mil.bootFail = false) ∧ ({ req := some (0, 3) } : Freeze).req = some (0, 3) ∧ ({ req := some (1, 3) } : Freeze).req = some (1, 3) ∧
    ({ small with power := { small.power with nextT := some (1, 2) } } : State).frameDue = true ∧ ({ small with now := 1, power := { small.power with nextT := some (1, 2) } } : State).frameDue = false ∧ small.frameDue = false ∧
    ({ small with parts := [(0, { next := some (1, 2) })] } : State).frameDue = true ∧ (383, 10500) ∈ ([(383, 10500)] : Tbl Nat) ∧ small.now < 10500 := by
  refine ⟨rfl, ⟨rfl, rfl⟩, rfl, rfl, ?_⟩; decide +kernel
/-- A port that has asked a W9L of agent 7 for a line. -/
def asking (now : Nat) (timed : Bool) : State := { linked 1 {} with now := now, xlat := { reqs := [{ tag := 5, for_ := .walk 0, addr := 0, write := false, pbr := some 7, via := some 1, timed := timed }] } }
/-- A W9L that holds a version of another die's launch. -/
def holder (f : Foreign) (now : Nat) : State := { w9l {} with now := now, ports := { foreign := [f] } }
def version (locked : Bool) (asked : Option Nat) : Foreign := { die := 7, part := 0, ver := 3, locked := locked, asked := asked }
theorem wit_LinkEvents_more : (portKind .w9h 0 .pcie).isSome = true ∧ portKind .w9l 0 .pcie = none ∧ portKind .w9h 1 .pcie = none ∧ (portKind .w9h 1 .cxl).isSome = true ∧ ({ hbr := true } : Link).hbr = true ∧ ((linked 0 {}).link 0).hbr = false ∧
    (asking msTicks false).uioLate 7 5 = true ∧ (asking (msTicks - 1) false).uioLate 7 5 = false ∧ (asking msTicks true).uioLate 7 5 = false ∧ (asking msTicks false).uioLate 7 4 = false ∧
    ({ linked 1 {} with now := msTicks, ports := { (linked 1 {}).ports with q := [poolW true] } } : State).uioLate 7 0 = true ∧ ({ linked 1 {} with now := msTicks, ports := { (linked 1 {}).ports with q := [poolW false] } } : State).uioLate 7 0 = false ∧
    (holder (version true (some 0)) msTicks).unanswered 7 = true ∧ (holder (version true (some 0)) (msTicks - 1)).unanswered 7 = false ∧ (holder (version true none) msTicks).unanswered 7 = false ∧
    (holder (version false none) 0).holdsOf 7 0 3 = true ∧ (holder (version false none) 0).holdsOf 7 0 4 = false ∧ ((holder (version false none) 0).foreignOf 7 0 3).locked = false ∧ ((holder (version true none) 0).foreignOf 7 0 3).locked = true ∧
    ({ site := .foreignEntry 7 0 3 } : Arg).site = .foreignEntry 7 0 3 ∧ ({ site := .accWord 0 0 15 255 } : Arg).site = .accWord 0 0 15 255 ∧ ({ site := .engineCell 0 0 true } : Arg).site = .engineCell 0 0 true ∧
    (∀ r ∈ (linked 1 {}).xlat.reqs, r.msg = none) ∧ (∀ r ∈ (linked 1 {}).xlat.pris, r.sent = true) ∧ small.granuleOwner (2 ^ 33 / 2 ^ 21) ≠ 0x40 ∧ (withX { own := [(5, 0x40)] }).granuleOwner 5 = 0x40 ∧ (withX { own := [(5, 0x40)] }).ownerOf (5 * 2 ^ 21) = none := by
  decide +kernel
/-- The small machine, its record for a partition at 2^30 in memory. -/
def recordAt (n : Nat) : State := { small with mem := cells 256 (2 ^ 30) n, arg := { n0 := 0, n1 := 2 ^ 30 } }
theorem wit_PartitionCommands_more : leNat (memBytes (recordAt record).mem (2 ^ 30) 256) = record ∧ 2 ^ 30 + 256 ≤ small.localTop ∧ small.localTop < small.localTop - 255 + 256 ∧ (recordAt record).partCfgBad 0 record = false ∧ (recordAt record).hasPart 0 = true ∧
    quarters ((small.part 0).cfg.quart &&& ~~~(partRec record).quart) = [0, 1, 2, 3] ∧ small.standsOn 0 = true ∧ (quarters (((parted record {}).part 1).cfg.quart &&& ~~~(partRec record).quart)) = [] ∧ (small.power.gated.all fun q => !(partRec record).quart.getLsbD q) = true ∧
    (4 ∈ ({ gated := [4] } : Power).gated ∧ (partRec record).quart.getLsbD 4 = true) ∧ (holder (version true none) 0).lockedFor 0 ≠ [] ∧ (holder (version true none) 0).lockedFor 1 = [] ∧ (holder (version false none) 0).lockedFor 0 = [] ∧
    ({ small with xlat := { small.xlat with shways := 1 } } : State).xlat.shways.getLsbD 0 = true ∧ (0 : BitVec 16).getLsbD 0 = false ∧ 2 ≤ (({ small with parts := [(0, small.part 0), (1, small.part 0)] } : State).parts.filter fun p => p.2.cfg.ways.getLsbD 0).length ∧
    lnch.abortable 0 = true ∧ ({ lnch with st := .done } : Launch).abortable 0 = false ∧ ({ resetting := some 0 } : Ctx).resetting ≠ some 1 := by decide +kernel
theorem wit_ImageCommands_more : imageOf (memBytes (imaged {}).mem 0 128) ≠ none ∧ 2 ^ 30 + 384 ≤ small.localTop ∧ small.localTop < small.localTop - 383 + 384 ∧ small.isPool 0 = false ∧ (2 ^ 28 + 1) % 2 ^ 28 ≠ 0 ∧ 8 ≤ 8 ∧
    ((linked 0 {}).ports.pool.any fun x => decide (x.1 ≠ 1 ∧ 2 ^ 51 < x.2.base + x.2.len ∧ x.2.base < 2 ^ 51 + 2 ^ 28)) = true ∧ (∀ k ∈ (small.cluster 0).cards, k.tag = 0 → k.frozen = none) ∧
    ((({ cards := [{ cardAt 0 0 .running with frozen := some { cause := 0x90 } }] } : Cluster).cards.find? fun k => k.tag = 0 && k.frozen.isSome).isSome) = true ∧ Tbl.get? small.teams 9 = none ∧
    ({ spdm := .establish 2 true } : Arg).spdm = .establish 2 true ∧ ({ spdm := .tenantKeys 2 63 5 } : Arg).spdm = .tenantKeys 2 63 5 ∧ ({ spdm := .getCertificate } : Arg).spdm = .getCertificate ∧ ({ m := .vf 0 } : Arg).m = .vf 0 := by decide +kernel
/-- A tmvd write's decision over the tables at 0: cause 0x21 with none of them valid; a table word whose page is in the pool is asked for. -/
theorem wit_TranslationEvents_more : (match (withX {}).walk [] 0 0 0 with | .fault _ _ _ => true | _ => false) = true ∧ (match (tabled [] 1 {}).walk [] 0 0 0 with | .fault c _ _ => decide (c ≠ 0x28) | _ => false) = true ∧
    (match (tabled (cells 8 (2 ^ 20) 1) (2 ^ 20 * 16) {}).walk [] 0 0 0 with | .leaf _ => false | _ => true) = true ∧ (linked 1 {}).sharedPage (2 ^ 51) = true ∧ (linked 1 {}).sharedPage 0 = false ∧ (linked 1 {}).unmapped (2 ^ 51) = false ∧ (linked 1 {}).unmapped (2 ^ 40) = true ∧
    mapped.ownsEnt 0 { ctx := 0, va := 0, lg := 21, pa := 0, r := true, w := true } = true ∧ mapped.ownsEnt 0 { ctx := 0, va := 0, lg := 21, pa := 2 ^ 21, r := true, w := true } = false ∧ mapped.ownsPage 0 0 21 = true ∧ mapped.ownsPage 0 (2 ^ 21) 21 = false ∧
    (linked 1 {}).pageBusy (move 2 0) = false ∧ ({ linked 1 {} with ports := { (linked 1 {}).ports with q := [poolW false] } } : State).pageBusy { move 2 0 with old := 2 ^ 51 } = true ∧ (∀ r ∈ (withX {}).xlat.reqs, r.for_ ≠ .walk 0) ∧
    (∃ r ∈ (asking 0 false).xlat.reqs, r.for_ = .walk 0) ∧ (∀ m ∈ (withX {}).xlat.moves, m.kv ≠ none) ∧ (withX {}).pasidDead 0 = false ∧ ({ withX {} with ctxs := [(0, { part := some 0, fresh := false, priDead := true, ctab := some 2 })] } : State).pasidDead 0 = true := by decide +kernel
/-- A W9L, its link trained with IDE, a host of which holds a line of extent 1 alone or with others. -/
def held (ex : Bool) (bi : BitVec 16) : State := capacity { emap := [(0, 1)], eown := [(1, 0)], snoop := [(2 ^ 22, { ex := ex, bi := bi, order := 0 })] }
/-- Sixteen lines of one set of the snoop filter (R59). -/
def fullSet : State := capacity { snoop := (List.range 16).map fun i => (i * (2 ^ 21 + 1), { ex := false, bi := 1, order := 16 - i }) }
def noIde : State := { linked 1 {} with ports := { links := [(1, { up := true })] } }
def lostPool : State := { linked 1 {} with ports := { (linked 1 {}).ports with pool := [(0, { base := 2 ^ 51, len := 2 ^ 28, link := 1, pbr := 7, dpa := 0, bulk := false, part := 0, lost := true })] } }
def elder (abort : Bool) : State := { small with launches := [(0, { lnch with head := { lnch.head with ver := 1, abortOvf := abort } }), (1, { lnch with head := { lnch.head with ver := 0 } })] }
theorem wit_PortEvents_more : ((linked 1 {}).link 1).carries = true ∧ ((bare {}).link 1).carries = false ∧ (held true 1).asksHolders .read (2 ^ 22) none = true ∧ (held false 1).asksHolders .read (2 ^ 22) none = false ∧ (held true 1).asksHolders .read (2 ^ 22) (some 0) = false ∧
    (held false 3).asksHolders .readExcl (2 ^ 22) (some 0) = true ∧ (held false 1).snoopVictim (2 ^ 22) = none ∧ fullSet.snoopVictim (16 * (2 ^ 21 + 1)) = some (15 * (2 ^ 21 + 1), { ex := false, bi := 1, order := 1 }) ∧
    (linked 1 {}).lostW (poolW false) = false ∧ lostPool.lostW (poolW false) = true ∧ lostPool.mayLeave (poolW false) = true ∧ noIde.unsupported (poolW false) = true ∧ (linked 1 {}).unsupported (poolW false) = false ∧
    (linked 1 {}).roomAfter none = none ∧ (elder true).roomAfter (some 0) = none ∧ (elder false).roomAfter (some 0) = some [1] ∧ (elder false).roomAfter (some 1) = none ∧
    (linked 1 {}).refusedHere { tag := 5, for_ := .walk 0, addr := 0, write := false, via := some 1, msg := some (.dump 0) } = false ∧ noIde.refusedHere { tag := 5, for_ := .walk 0, addr := 0, write := false, via := some 1, msg := some (.dump 0) } = true ∧
    (7, 0, 3) ∈ ({ ended := [(7, 0, 3)] } : Ports).ended ∧ (7, 0, 4) ∉ ({ ended := [(7, 0, 3)] } : Ports).ended := by decide +kernel
/-- A W9L that holds a version with one line, a host holding that line or not. -/
def farLine (snoop : Tbl Snoop) : State := { w9l {} with ports := { foreign := [{ version true none with shadow := [(2 ^ 22, { mask := 1, data := 5 })] }], snoop := snoop } }
theorem wit_LaunchEvents_more : (admitting 0).headLine (0, 0, pend 9 none) ≠ none ∧ (tabled [] 1 { streams := [(0, { pend := [pend 9 none] })] }).headLine (0, 0, pend 9 none) = none ∧ (admitting 0).headLine (0, 0, pend 8 none) = none ∧
    (admitting 0).headFree (0, 0, pend 9 none) = true ∧ headBefore (1, 0, 0, pend 1 none) (1, 0, 1, pend 1 none) = true ∧ headBefore (0, 0, 0, pend 1 none) (1, 0, 0, pend 1 none) = false ∧ (farLine []).flipHeld 7 0 3 = [] ∧
    (farLine [(2 ^ 22, { ex := true, bi := 1, order := 0 })]).flipHeld 7 0 3 = [2 ^ 22] ∧ (farLine [(2 ^ 22, { ex := true, bi := 1, order := 0 })]).hostHolds (2 ^ 22) = true ∧ (farLine []).hostHolds (2 ^ 22) = false ∧
    (small.launches.find? fun l => l.2.head.part = 0 && l.2.head.ver = 0).isSome = true ∧ lnch.st = .started := by decide +kernel
theorem wit_stopsWhole : home.StopsWhole ∧ (parkedAt .dsin .resident false).StopsWhole ∧ ¬ (parkedAt .qpush .resident false).StopsWhole := by unfold Team.StopsWhole; decide +kernel
theorem wit_tilesFit : small.tilesFit ∧ ({ small with clusters := [(0, { tiles := [(0, { launch := 0, m := 16, n := 16, quads := [] })] })] } : State).tilesFit := by unfold State.tilesFit; decide +kernel
/-- A landed team on quarter 0, which is being removed. -/
def moving (t : Team) : State := { teamed 1 t with mil := { small.mil with busy := true, op := 1, waitPart := some 0, waitQ := [0] } }
def landedOn : Team := { home with id := { home.id with landed := true } }
theorem wit_SchedulingEvents_more : (moving landedOn).displaced 0 = [(0, landedOn)] ∧ (moving home).displaced 0 = [] ∧ (moving landedOn).maySave 0 = true ∧ ((moving landedOn).refuges landedOn).find? (fun c => (moving landedOn).coreRoom c landedOn.rows) = some 1 ∧
    (moving landedOn).freeSlot 1 = some 0 ∧ (teamed 1 (parkedAt .run .evicted true)).evictCore (parkedAt .run .evicted true) = some 0 ∧ (turning (some 0) [(0, saved 0)] false).unitOf (saved 0) = [(0, saved 0)] ∧
    (teamed 1 (parkedAt .exitJoin .evicted false)).wakes 0 (parkedAt .exitJoin .evicted false) = true ∧ (parkedAt .exitJoin .evicted false).flow.away = 0 ∧
    ((teamed 1 (parkedAt (.barrier 64 1) .evicted false)).barPut 0 64 (bar 0 1 false 0)).parkOver 0 (parkedAt (.barrier 64 1) .evicted false) = true ∧
    ((teamed 1 (parkedAt (.barrier 64 0) .evicted false)).barPut 0 64 (bar 0 1 false 0)).parkOver 0 (parkedAt (.barrier 64 0) .evicted false) = false ∧ (teamed 1 (parkedAt (.bdev 0) .evicted false)).wakes 0 (parkedAt (.bdev 0) .evicted false) = true ∧
    (teamed 1 (parkedAt (.bdev 1) .evicted false)).wakes 0 (parkedAt (.bdev 1) .evicted false) = false ∧
    Tbl.get? ((teamed 1 (parkedAt .retire .resident false)).freeAll 0 []).teams 0 ≠ none ∧ home.sync.tm.active = false := by decide +kernel
theorem wit_DebugEvents_more : ({ vfFrozen := true } : Ctx).vfFrozen = true ∧ (small.ctx 0).vfFrozen = false ∧ (debugged {} { home with sched := { frozen := some { cause := 0x90 } } }).dbgTeam 0 ≠ none ∧ ({ home with sched := { frozen := some { cause := 0x90 } } } : Team).sched.halted = false ∧
    ({ home with sched := { halted := true } } : Team).sched.frozen = none ∧ ({ optv := some 5 } : Arg).optv = some 5 := by decide +kernel
/-- A W9L that holds a monitor entry of another die's team, on a line of extent 1 that holds its word. -/
def polled (v : Word) : State := capacity { emap := [(0, 1)], eown := [(1, 0)], mons := [{ die := 7, part := 0, ver := 3, own := 0, id := 9, pa := 2 ^ 28, cmp := 0, v := v }] }
def inTm (x : Tm) : Team := { home with sync := { tm := { x with active := true, committing := true } } }
theorem wit_MigrationCardEvents_more : (leave false none true (some 7)).pbr = some 7 ∧ lostPool.lostDest (leave false none true (some 7)) = true ∧ (linked 1 {}).lostDest (leave false none true (some 7)) = false ∧ contRet (BitVec.ofNat 1024 0) = false ∧
    small.packetOf { n0 := 3 } = [{ n0 := 3 }] ∧ ({ small with net := [(.continuationArrival, { n4 := 5, opt := some 0 }), (.continuationArrival, { n4 := 5, opt := some 0, n3 := 1 })] } : State).packetOf { n4 := 5, opt := some 0 } = [{ n4 := 5, opt := some 0 }, { n4 := 5, opt := some 0, n3 := 1 }] ∧
    (7, 0) ∉ (capacity {}).ports.blocked ∧ (polled 0).ports.mons.find? (fun m => m.die = 7 && m.id = 9) ≠ none ∧ (polled 0).ports.mons.find? (fun m => m.die = 7 && m.id = 8) = none ∧
    (∀ m ∈ (polled 0).ports.mons, (polled 0).poolMonHolds m = true) ∧ (∀ m ∈ (polled 1).ports.mons, (polled 1).poolMonHolds m = false) ∧
    (held true 1).hostExcl (2 ^ 22) = true ∧ (held false 1).hostExcl (2 ^ 22) = false ∧ (linked 1 {}).isLocal (2 ^ 51) = false ∧ ((linked 1 {}).poolFor 0 (2 ^ 51)).isSome = true ∧ (linked 1 {}).poolFor 1 (2 ^ 51) = none ∧
    (inTm { writes := [(0, 1, 0)] }).sync.tm.lines.any (small.lockedBy 0) = false ∧ (linked 1 {}).poolStalled 0 = false ∧ ({ linked 1 {} with ports := { fence := [(0, 65535)] } } : State).poolStalled 0 = true ∧ small.hasRoom home.view 0 = true ∧
    ({ small with clusters := [], arg := { n2 := 0, n4 := 1 } } : State).mayNotice { n2 := 0 } = true ∧ small.mayReturn 0 = false ∧
    ({ flow := { away := 8 } } : Team).flow.away.getLsbD 3 = true ∧ ({ flow := { away := 8 } } : Team).flow.away.getLsbD 4 = false ∧
    ((streamed { stlen := 0, restoring := some ({ data := 0, cut := 0, nosnap := false, late := false }, 0, 0) }).part 0).stm 2 ≠ {} ∧ bit (2 ^ 90) 90 = true ∧ bits (leNat (leBytes 64 5)) 31 0 = 5 := by decide +kernel

/-! ### Steps, encoding, and the frozen device -/

/-- The small machine at `sadd s1, s2, s3`. -/
def adding : State := State.reset.withFetchWord 32 (encodeNat (.sadd 0 1 2 3 0))
theorem wit_StepRunsDecoded : let t := adding.team 0
    let n := encodeNat (.sadd 0 1 2 3 0)
    Tbl.get? adding.teams 0 = some t ∧ t.sync.reinj = [] ∧ t.sync.lost = [] ∧ t.sync.rq = [] ∧ (adding.ctx t.id.ctx).dbg.att = false ∧ (adding.image t).word t.flow.pc.toNat = some n ∧ isHint (BitVec.ofNat 32 n) = false := by decide +kernel
theorem wit_passes : Passes adding (adding.team 0) (issuedCur 0 (adding.team 0) (encodeNat (.sadd 0 1 2 3 0))) (encodeNat (.sadd 0 1 2 3 0)) (.sadd 0 1 2 3 0) :=
  ⟨by decide +kernel, by decide +kernel, by decide +kernel, by decide +kernel, by decide +kernel, by decide +kernel, by decide +kernel, trivial⟩
theorem wit_onlyIssues : OnlyIssues adding 0 :=
  ⟨by decide +kernel, by decide +kernel, by decide +kernel, by decide +kernel, by decide +kernel, by decide +kernel, by decide +kernel, by decide +kernel, by decide +kernel, by decide +kernel⟩
theorem wit_DecodeEncode : hasWord (.acas 0 62 63 63 5) = true ∧ wellFormed (.acas 0 62 63 63 5) = true ∧ decodeWord (encodeNat (.acas 0 62 63 63 5)) = .ok (.acas 0 62 63 63 5) := by
  refine ⟨by decide +kernel, by decide +kernel, by decide +kernel⟩
/-- The small machine frozen at time 0, with an event at its ports. -/
def iced (l : List (Instr × Arg)) : State := { small with freeze := { at_ := some (0, 0) }, inputs := l }
theorem wit_FrozenStays : Frozen (iced []) (iced [(.frzDump, {})]) ∧ (iced [(.frzDump, {})]).inputs = (.frzDump, {}) :: [] ∧ (iced []).inputs = [] :=
  ⟨⟨rfl, rfl, by decide +kernel, rfl⟩, rfl, rfl⟩
theorem wit_FrozenHolds : ({ small with freeze := { req := some (0, 0) } } : State).freeze.req = some (0, 0) ∧ small.mil.up = true ∧ small.freeze.at_ = none ∧ (∀ e ∈ small.inputs, e.1 ≠ .deviceReset) := by decide +kernel

end Sys2Proof.Tests
end

section
/-! PROOFS. The freeze event, the dump and the frozen device (R41 to R45), and the state after a device reset (R136): O54, O59 and O60. -/

namespace Sys2Proof.Machine

/-! ## What leaves the ports -/

/-- Messages sent one after another are appended to the outbox, and nothing else changes. -/
theorem foldl_emit {α : Type} (f : α → Msg) (l : List α) (s : State) :
    l.foldl (fun s a => s.emit (f a)) s = { s with outbox := s.outbox ++ l.map f } := by
  induction l generalizing s with
  | nil => simp
  | cons a r ih => rw [List.foldl_cons, ih]; simp [State.emit]

/-! ## The freeze event (R41 to R43) -/

/-- R41, R43: the machine frozen at this time: the links that were up are announced idle, and every link is down. -/
def State.frozenBy (s : State) (cause : Nat) : State :=
  { s with
    outbox := s.outbox ++ (s.ports.links.filter fun l => l.2.up).map fun l => .linkIdle l.1
    freeze := { s.freeze with at_ := some (s.now, cause), shifted := 0 }
    ports := { s.ports with links := Tbl.mapV s.ports.links fun _ l => { l with up := false, ide := false } } }

theorem mayFreeze_iff {s : State} :
    s.mayFreeze = true ↔ s.mil.up = true ∧ s.freeze.req ≠ none ∧ s.freeze.at_ = none := by
  simp [State.mayFreeze, Option.isSome_iff_ne_none, and_assoc]

theorem freeze_takesPlace {s : State} {q : Nat × Nat} (hq : s.freeze.req = some q) (hup : s.mil.up = true) (hat : s.freeze.at_ = none) :
    Does .freeze s (s.frozenBy q.1) := by
  have hmay : s.mayFreeze = true := mayFreeze_iff.2 ⟨hup, by simp [hq], hat⟩
  change execFreeze s = _
  simp only [execFreeze, hq, hmay, foldl_emit, State.frozenBy, Bool.not_true, Bool.false_eq_true, if_false]

theorem freeze_ignored {s : State} (h : s.freeze.req = none ∨ s.mil.up = false ∨ s.freeze.at_ ≠ none) : Does .freeze s s := by
  have hmay : s.mayFreeze = false := by
    rw [Bool.eq_false_iff, Ne, mayFreeze_iff]
    rintro ⟨hup, hreq, hat⟩
    simp_all
  change execFreeze s = _
  unfold execFreeze
  cases s.freeze.req with
  | none => rfl
  | some q => simp [hmay]

/-- R43: no link is up after the freeze. -/
theorem frozenBy_links_down {s : State} {cause k : Nat} {x : Link} (h : Tbl.get? (s.frozenBy cause).ports.links k = some x) :
    x.up = false ∧ x.ide = false := by
  simp only [State.frozenBy, Tbl.get?_mapV, Option.map_eq_some_iff] at h
  obtain ⟨y, -, rfl⟩ := h
  exact ⟨rfl, rfl⟩

/-! ## The dump (R45) -/

theorem frzDump_frozen {s : State} (h : s.freeze.at_ ≠ none) :
    Does .frzDump s { s with freeze := { s.freeze with shifted := s.freeze.shifted + 1 }, outbox := s.outbox ++ [.dump (s.imageWord s.freeze.shifted)] } := by
  change execFrzDump s = _
  simp [execFrzDump, Option.isSome_iff_ne_none.2 h, State.emit]

theorem frzDump_running {s : State} (h : s.freeze.at_ = none) : Does .frzDump s { s with outbox := s.outbox ++ [.dump 0] } := by
  change execFrzDump s = _
  simp [execFrzDump, h, State.emit]

/-! ## Steps of a frozen device (R41, R44) -/

theorem frozenTakes_iff {i : Instr} : frozenTakes i = true ↔ i = .deviceReset ∨ i = .frzDump := by
  unfold frozenTakes
  split <;> simp_all

theorem step_frozen_idle {s : State} (h : s.freeze.at_.isSome = true) (hi : s.inputs = []) : step s = .fault .clockStopped := by
  simp [step, plan, h, hi]

/-- What a frozen device makes of the oldest event at its ports: a dump sends a word, and another event but reset is dropped. -/
theorem step_frozen_event {s : State} {i : Instr} {a : Arg} {r : List (Instr × Arg)} (h : s.freeze.at_.isSome = true)
    (hi : s.inputs = (i, a) :: r) (hreset : i ≠ .deviceReset) :
    ∃ n a' l, step s = .next { s with inputs := r, arg := a', freeze := { s.freeze with shifted := n }, outbox := s.outbox ++ l } := by
  by_cases hd : i = .frzDump
  · subst hd
    have hplan : step s = exec .frzDump { s with inputs := r, arg := a } := by simp [step, plan, h, hi, frozenTakes, State.event]
    exact ⟨_, _, _, hplan.trans (frzDump_frozen (Option.isSome_iff_ne_none.1 h))⟩
  · have hdrop : frozenTakes i = false := by rw [Bool.eq_false_iff, Ne, frozenTakes_iff]; exact not_or.2 ⟨hreset, hd⟩
    exact ⟨s.freeze.shifted, s.arg, [], by simp [step, plan, h, hi, hdrop]⟩

/-- Taking an event from the ports, counting the words shifted out and sending keep the frozen device. -/
theorem Frozen.keeps {s0 s : State} (hf : Frozen s0 s) {r : List (Instr × Arg)} (hr : r ⊆ s.inputs) (n : Nat) (a : Arg) (o : List Msg) :
    Frozen s0 { s with inputs := r, arg := a, freeze := { s.freeze with shifted := n }, outbox := o } where
  stopped := hf.stopped
  tf := hf.tf
  noReset e he := hf.noReset e (hr he)
  image := hf.image

/-- A device stopped with no reset at its ports is frozen, with itself as the image. -/
theorem Frozen.self {s : State} (h : s.freeze.at_.isSome = true) (hr : ∀ e ∈ s.inputs, e.1 ≠ .deviceReset) : Frozen s s :=
  ⟨h, rfl, hr, rfl⟩

/-- Settles O59: a step of a frozen device takes the oldest event, which is a dump or nothing to it. -/
theorem frozenStays : Obligations.FrozenStays := by
  unfold Obligations.FrozenStays
  intro s0 s hf
  have event : ∀ e r, s.inputs = e :: r →
      ∃ s1, step s = .next s1 ∧ Frozen s0 s1 ∧ s1.inputs = r ∧ ∃ l, s1.outbox = s.outbox ++ l := by
    rintro ⟨i, a⟩ r hi
    obtain ⟨n, a', l, hs⟩ := step_frozen_event hf.stopped hi (hf.noReset (i, a) (by simp [hi]))
    exact ⟨_, hs, hf.keeps (by simp [hi]) n a' _, rfl, l, rfl⟩
  refine ⟨fun s' hs' => ?_, fun e r hi => ?_, step_frozen_idle hf.stopped⟩
  · cases hi : s.inputs with
    | nil => rw [step_frozen_idle hf.stopped hi] at hs'; cases hs'
    | cons e r =>
      obtain ⟨s1, hs1, hkept⟩ := event e r hi
      cases hs1.symm.trans hs'
      exact hkept
  · obtain ⟨s1, hs1, -⟩ := event e r hi
    exact ⟨s1, hs1⟩

/-- Settles O60: the freeze stops the clocks and keeps the inputs; a running device has no frozen time. -/
theorem frozenHolds : Obligations.FrozenHolds := by
  unfold Obligations.FrozenHolds
  refine fun s => ⟨fun q hq hup hat hr => ⟨s.frozenBy q.1, freeze_takesPlace hq hup hat, Frozen.self rfl hr, rfl⟩, fun s0 hat hf => ?_⟩
  have := hf.stopped
  simp [hat] at this

/-! ## Reset (R136) -/

/-- Settles O54: each field of the state after reset has its default, and every table is empty. -/
theorem resetValues : Obligations.ResetValues := by
  unfold Obligations.ResetValues
  exact ⟨rfl, rfl, rfl, rfl, rfl, rfl, rfl, rfl, rfl, rfl, rfl, fun _ => ⟨rfl, rfl⟩, fun _ => rfl, fun _ => rfl, memWf_reset, rfl⟩

end Sys2Proof.Machine
end

section
/-! PROOFS. Commands of the mailbox (R106, R107), reset and boot (R39, R136, R142) and freeze requests (R39, R40): what each event of O43
does, said once. O43 itself fails in one clause of the frame boundary, and each other clause of it is a lemma of these proofs. -/

namespace Sys2Proof.Machine

/-! ## Commands of the mailbox (R106, R107) -/

theorem command_turnedAway {s : State} (h : s.mil.busy = true ∨ s.mil.served = false) (op : Nat) (f : State → Option Nat × State) :
    s.command op f = s := by
  rcases h with h | h <;> simp [State.command, h]

theorem command_idle {s : State} (h : Idle s) (op : Nat) (f : State → Option Nat × State) :
    s.command op f = match f (busied s op) with
      | (some st, s1) => s1.finishCmd st
      | (none, s1) => s1 := by
  obtain ⟨hbusy, hserved⟩ := h
  unfold State.command
  simp only [hbusy, hserved, Bool.not_true, Bool.or_self, Bool.false_eq_true, if_false]
  rfl

/-- A command that answers at once ends as `ended` says, whatever it has made of the machine. -/
theorem command_answers {s s1 : State} (h : Idle s) {op st : Nat} {f : State → Option Nat × State} (hseq : s1.mil.seq = s.mil.seq)
    (hf : f (busied s op) = answer st (busied s1 op)) : s.command op f = ended s1 s.mil.seq st := by
  rw [command_idle h, hf, ← hseq]
  rfl

/-- A command that goes on leaves the machine busy with it. -/
theorem command_runs {s s1 : State} (h : Idle s) {op : Nat} {f : State → Option Nat × State}
    (hf : f (busied s op) = (none, busied s1 op)) : s.command op f = busied s1 op := by
  rw [command_idle h, hf]

theorem does_qGate {s s' : State} (h : (s.command 0x0E fun s => s.qGate s.arg.n0 s.arg.flag) = s') : Does .qGate s s' :=
  congrArg Host.Outcome.next h
theorem does_pstate {s s' : State} (h : (s.command 0x0F fun s => s.setPstate s.arg.n0) = s') : Does .pstate s s' :=
  congrArg Host.Outcome.next h

theorem qGate_turnedAway (s : State) : TurnedAway .qGate s := fun h => does_qGate (command_turnedAway h ..)
theorem pstate_turnedAway (s : State) : TurnedAway .pstate s := fun h => does_pstate (command_turnedAway h ..)

/-! ## Reset and boot (R39, R136, R142) -/

/-- R136: what a reset keeps is listed; all else is as after power-on. -/
theorem deviceReset_keeps (s : State) :
    ∃ s', Does .deviceReset s s' ∧ s'.fitting = s.fitting ∧ s'.inputs = s.inputs ∧ s'.mil.bifNow = s.mil.bifNext ∧ s'.mil.booted = false ∧
      s'.mil.stages = 0 ∧ s'.freeze.at_ = none ∧
      { s' with fitting := State.reset.fitting, inputs := [], outbox := [], draws := 0, fresh := 1, mil := {}, power := {}, freeze := {} } = State.reset :=
  ⟨s.deviceReset, rfl, rfl, rfl, rfl, rfl, rfl, rfl, rfl⟩

theorem keyStacks_mil (s : State) :
    s.keyStacks.mil.meas = s.mil.meas ∧ s.keyStacks.mil.stages = s.mil.stages ∧ s.keyStacks.mil.bootFail = s.mil.bootFail ∧
      s.keyStacks.mil.booted = s.mil.booted := by
  unfold State.keyStacks
  split
  · exact ⟨rfl, rfl, rfl, rfl⟩
  · exact ⟨rfl, rfl, rfl, rfl⟩

/-- A verified stage is measured and counted, and stage 1 brings the Milliner up. -/
theorem bootStage_mil (s : State) (n : Nat) (d : BitVec 256) :
    (s.bootStage n d).mil.meas = s.mil.meas ++ [Config.sha256 (d.toNat * 2 ^ 256) 64] ∧ (s.bootStage n d).mil.stages = n + 1 ∧
      (s.bootStage n d).mil.bootFail = s.mil.bootFail ∧ (s.bootStage n d).mil.booted = (s.mil.booted || decide (n = 1)) := by
  by_cases h1 : n = 1
  · simp [State.bootStage, h1]
  · by_cases h3 : n = 3
    · simp only [State.bootStage, if_neg h1, if_pos h3]
      obtain ⟨hmeas, hstages, hfail, hbooted⟩ :=
        keyStacks_mil { s with mil := { s.mil with meas := s.mil.meas ++ [Config.sha256 (d.toNat * 2 ^ 256) 64], stages := n + 1 } }
      exact ⟨hmeas, hstages, hfail, hbooted.trans (by simp [h1])⟩
    · simp [State.bootStage, h1, h3]

/-- The digest that `BOOT_STAGE_COMPLETE` verifies, of the stage and image in its operands. -/
def State.verifiedDigest (s : State) : Option (BitVec 256) :=
  stageDigest s.arg.n0 s.arg.bytes (s.arg.ns.getD 0 0) (s.arg.ns.getD 1 0) (s.arg.ns.getD 2 0)

theorem exec_bootStageComplete {s : State} (hn : s.arg.n0 = s.mil.stages) (h5 : s.arg.n0 < 5) (hf : s.mil.bootFail = false) :
    exec .bootStageComplete s = .next (match s.verifiedDigest with
      | some d => s.bootStage s.arg.n0 d
      | none => ({ s with mil := { s.mil with bootFail := true, status := 4 } } : State).logIt (.bootFail s.arg.n0)) := by
  have hin : ¬ (s.arg.n0 ≠ s.mil.stages ∨ 5 ≤ s.arg.n0 ∨ s.mil.bootFail = true) := by
    rintro (h | h | h)
    · exact h hn
    · omega
    · simp [hf] at h
  exact congrArg Host.Outcome.next (if_neg hin)

theorem bootStage_completes {s : State} {d : BitVec 256} (hn : s.arg.n0 = s.mil.stages) (h5 : s.arg.n0 < 5) (hf : s.mil.bootFail = false)
    (hd : s.verifiedDigest = some d) :
    ∃ s' m, Does .bootStageComplete s s' ∧ m = Config.sha256 (d.toNat * 2 ^ 256) 64 ∧ s'.mil.meas = s.mil.meas ++ [m] ∧
      s'.mil.stages = s.mil.stages + 1 ∧ s'.mil.bootFail = false ∧ s'.mil.booted = (s.mil.booted || decide (s.arg.n0 = 1)) := by
  obtain ⟨hmeas, hstages, hfail, hbooted⟩ := bootStage_mil s s.arg.n0 d
  have hdoes : Does .bootStageComplete s (s.bootStage s.arg.n0 d) := by
    rw [Does, exec_bootStageComplete hn h5 hf, hd]
  exact ⟨_, _, hdoes, rfl, hmeas, hn ▸ hstages, hfail.trans hf, hbooted⟩

theorem bootStage_fails {s : State} (hn : s.arg.n0 = s.mil.stages) (h5 : s.arg.n0 < 5) (hf : s.mil.bootFail = false)
    (hd : s.verifiedDigest = none) :
    Does .bootStageComplete s { s with mil := { s.mil with bootFail := true, status := 4, log := s.mil.log ++ [.bootFail s.arg.n0] } } := by
  rw [Does, exec_bootStageComplete hn h5 hf, hd]
  rfl

theorem bootStage_ignored {s : State} (h : s.arg.n0 ≠ s.mil.stages ∨ 5 ≤ s.arg.n0 ∨ s.mil.bootFail = true) : Does .bootStageComplete s s :=
  congrArg Host.Outcome.next (if_pos h)

/-! ## Freeze requests (R39, R40) -/

/-- R39: the pin's request stands at once, goes before one by the register in the same tick, and leaves an earlier one standing. -/
theorem askFreeze_pin (s : State) :
    ∃ q c, s.askFreeze 0 = { s with freeze := { s.freeze with req := some q, ctl := c } } ∧ (s.freeze.req = none → q = (0, s.now)) ∧
      ∀ r, s.freeze.req = some r → q = if r.2 = s.now then (0, s.now) else r := by
  have same {q : Nat × Nat} (h : s.freeze.req = some q) : s = { s with freeze := { s.freeze with req := some q, ctl := s.freeze.ctl } } := by
    rw [← h]
  unfold State.askFreeze
  split
  next h => exact ⟨(0, s.now), s.freeze.ctl, rfl, by simp, by simp [h]⟩
  next t h =>
    refine ⟨(0, t), s.freeze.ctl, same h, by simp [h], fun r hr => ?_⟩
    cases h.symm.trans hr
    split_ifs with ht
    · exact congrArg (Prod.mk 0) ht
    · rfl
  next k t _ h =>
    by_cases ht : t = s.now
    · exact ⟨(0, s.now), some t, by simp [ht], by simp [h], fun r hr => by cases h.symm.trans hr; simp [ht]⟩
    · refine ⟨(k, t), s.freeze.ctl, ?_, by simp [h], fun r hr => by cases h.symm.trans hr; simp [ht]⟩
      simpa [ht] using same h

theorem freezeNPin_low {s : State} (hlow : s.arg.flag = true) :
    ∃ s' q, Does .freezeNPin s s' ∧ { s' with freeze := s.freeze } = s ∧ s'.freeze.pin = true ∧ s'.freeze.req = some q ∧
      (s.freeze.req = none → q = (0, s.now)) ∧ (∀ r, s.freeze.req = some r → q = if r.2 = s.now then (0, s.now) else r) := by
  obtain ⟨q, c, hask, hnone, hsome⟩ := askFreeze_pin { s with freeze := { s.freeze with pin := true } }
  refine ⟨{ s with freeze := { s.freeze with pin := true, req := some q, ctl := c } }, q, ?_, rfl, rfl, rfl, hnone, hsome⟩
  change execFreezeNPin s = _
  simp only [execFreezeNPin, hlow, if_true, hask]

/-- The requests that stand once the pin is no longer low. -/
def State.pinHigh (s : State) : Freeze :=
  match s.freeze.req with
  | some (0, _) => if s.mil.up then { s.freeze with pin := false }
      else { s.freeze with pin := false, req := s.freeze.ctl.map fun t => (1, t), ctl := none }
  | _ => { s.freeze with pin := false }

theorem freezeNPin_high_does {s : State} (hhigh : s.arg.flag = false) : Does .freezeNPin s { s with freeze := s.pinHigh } := by
  change execFreezeNPin s = _
  rcases hreq : s.freeze.req with _ | ⟨_ | k, t⟩
  · simp [execFreezeNPin, State.pinHigh, hhigh, hreq]
  · by_cases hup : s.mil.up = true
    · simp [execFreezeNPin, State.pinHigh, hhigh, hreq, hup]
    · simp [execFreezeNPin, State.pinHigh, hhigh, hreq, hup]
  · simp [execFreezeNPin, State.pinHigh, hhigh, hreq]

theorem freezeNPin_high {s : State} (hhigh : s.arg.flag = false) :
    ∃ s', Does .freezeNPin s s' ∧ { s' with freeze := s.freeze } = s ∧ s'.freeze.pin = false ∧
      (s.mil.up = true → s'.freeze.req = s.freeze.req) ∧ ((∀ t, s.freeze.req ≠ some (0, t)) → s'.freeze.req = s.freeze.req) ∧
      (s.mil.up = false → ∀ t, s.freeze.req = some (0, t) → s'.freeze.req = s.freeze.ctl.map fun u => (1, u)) := by
  refine ⟨_, freezeNPin_high_does hhigh, rfl, ?_, fun hup => ?_, fun hne => ?_, fun hup t ht => ?_⟩ <;> dsimp only [State.pinHigh]
  · split
    · split_ifs <;> rfl
    · rfl
  · simp only [hup, if_true]
    split <;> rfl
  · split
    next t h => exact absurd h (hne t)
    next => rfl
  · simp [ht, hup]

theorem bits_31_16 (v : Word) : bits v.toNat 31 16 = (v.extractLsb' 16 16).toNat := by
  simp [bits, BitVec.extractLsb'_toNat, Nat.shiftRight_eq_div_pow]
theorem bit_0 (v : Word) : bit v.toNat 0 = v.getLsbD 0 := by
  simp [bit, BitVec.getLsbD, Nat.testBit_zero]

/-- R40: the write asks for a freeze exactly when it holds the key and the bit. -/
theorem frzCtlWrite_does {s : State} : exec .frzCtlWrite s = .next (if s.arg.v.extractLsb' 16 16 = 0x5A17 ∧ s.arg.v.getLsbD 0 = true then s.askFreeze 1 else s) := by
  have hkey : bits s.arg.v.toNat 31 16 = 0x5A17 ↔ s.arg.v.extractLsb' 16 16 = 0x5A17 := by
    rw [bits_31_16, ← BitVec.toNat_inj]; rfl
  change Host.Outcome.next (s.frzCtl s.arg.v.toNat) = _
  simp only [State.frzCtl, hkey, bit_0]

theorem frzCtlWrite_ignored {s : State} (h : s.arg.v.extractLsb' 16 16 ≠ 0x5A17 ∨ s.arg.v.getLsbD 0 = false) : Does .frzCtlWrite s s := by
  rw [Does, frzCtlWrite_does, if_neg]
  rintro ⟨hkey, hbit⟩
  simp_all

/-- R39, R40: the register's request stands if none does, is noted beside the pin's, and is otherwise nothing new. -/
theorem frzCtlWrite_asks {s : State} (hkey : s.arg.v.extractLsb' 16 16 = 0x5A17) (hbit : s.arg.v.getLsbD 0 = true) :
    (s.freeze.req = none → Does .frzCtlWrite s { s with freeze := { s.freeze with req := some (1, s.now) } }) ∧
    (∀ t, s.freeze.req = some (0, t) → Does .frzCtlWrite s { s with freeze := { s.freeze with ctl := some (s.freeze.ctl.getD s.now) } }) ∧
    (∀ q, s.freeze.req = some q → q.1 ≠ 0 → Does .frzCtlWrite s s) := by
  have asks : exec .frzCtlWrite s = .next (s.askFreeze 1) := by rw [frzCtlWrite_does, if_pos ⟨hkey, hbit⟩]
  refine ⟨fun h => asks.trans ?_, fun t h => asks.trans ?_, fun q h hq => asks.trans ?_⟩
  · simp [State.askFreeze, h]
  · simp [State.askFreeze, h]
  · obtain ⟨k, t⟩ := q
    simp [State.askFreeze, h]

end Sys2Proof.Machine
end

section
/-! PROOFS. Power gating, performance states, throttling and frame boundaries (R30 to R38, R103), and what a trace record leaves as it was
(R446, R449). -/

namespace Sys2Proof.Machine

/-! ## Power gating (R30 to R32) -/

/-- R30: the machine with a quarter gated. -/
def State.gate (s : State) (q : Nat) : State :=
  { s with power := { s.power with gated := if q ∈ s.power.gated then s.power.gated else s.power.gated ++ [q] } }

theorem mem_gate (s : State) (q x : Nat) : x ∈ (s.gate q).power.gated ↔ x = q ∨ x ∈ s.power.gated := by
  unfold State.gate
  dsimp only
  split_ifs with hin
  · exact ⟨.inr, fun hx => hx.elim (· ▸ hin) id⟩
  · simp [or_comm]

theorem qGate_w9l {s : State} (hw : s.fitting = .w9l) (q : Nat) (g : Bool) : s.qGate q g = answer 6 s := if_pos hw
theorem qGate_w9h {s : State} (hw : s.fitting = .w9h) (q : Nat) (g : Bool) : s.qGate q g = if q ≥ 384 then answer 2 s
    else if g then (if s.quarterOwned q then answer 3 s else answer 0 (s.gate q))
    else if q ∈ s.power.gated then (none, s.ungate q) else answer 0 s :=
  if_neg (by simp [hw])

theorem answers_qGate {s s1 : State} {st : Nat} (h : Idle s) (hseq : s1.mil.seq = s.mil.seq)
    (hq : (busied s 0x0E).qGate s.arg.n0 s.arg.flag = answer st (busied s1 0x0E)) : Answers .qGate s st s1 :=
  does_qGate (command_answers h hseq hq)

/-- R30, R31: how `q_gate` ends for each fitting, quarter and owner. -/
theorem qGate_answers {s : State} (h : Idle s) :
    (s.fitting = .w9l → Answers .qGate s 6 s) ∧
    (s.fitting = .w9h → 384 ≤ s.arg.n0 → Answers .qGate s 2 s) ∧
    (s.fitting = .w9h → s.arg.n0 < 384 →
      (s.arg.flag = true → s.quarterOwned s.arg.n0 = true → Answers .qGate s 3 s) ∧
      (s.arg.flag = true → s.quarterOwned s.arg.n0 = false →
        ∃ g, Answers .qGate s 0 { s with power := { s.power with gated := g } } ∧ ∀ q, q ∈ g ↔ q = s.arg.n0 ∨ q ∈ s.power.gated) ∧
      (s.arg.flag = false → s.arg.n0 ∈ s.power.gated →
        Runs .qGate 0x0E { s with power := { s.power with ungating := Tbl.put s.power.ungating s.arg.n0 (s.now + 10500) } } s) ∧
      (s.arg.flag = false → s.arg.n0 ∉ s.power.gated → Answers .qGate s 0 s)) := by
  refine ⟨fun hw => answers_qGate h rfl (qGate_w9l (s := busied s 0x0E) hw ..), fun hw hn =>
    answers_qGate h rfl ((qGate_w9h (s := busied s 0x0E) hw ..).trans (if_pos hn)), fun hw hn => ?_⟩
  have gates := fun hg : s.arg.flag = true =>
    ((qGate_w9h (s := busied s 0x0E) hw s.arg.n0 s.arg.flag).trans (if_neg (Nat.not_le.2 hn))).trans (if_pos hg)
  have ungates := fun hg : s.arg.flag = false =>
    ((qGate_w9h (s := busied s 0x0E) hw s.arg.n0 s.arg.flag).trans (if_neg (Nat.not_le.2 hn))).trans (if_neg (by simp [hg]))
  refine ⟨fun hg ho => answers_qGate h rfl ((gates hg).trans (if_pos ho)), fun hg ho => ⟨_, ?_, mem_gate s s.arg.n0⟩,
    fun hg hin => does_qGate (command_runs h ((ungates hg).trans (if_pos hin))),
    fun hg hout => answers_qGate h rfl ((ungates hg).trans (if_neg hout))⟩
  exact answers_qGate (s1 := s.gate s.arg.n0) h rfl ((gates hg).trans (if_neg (Bool.eq_false_iff.1 ho)))

theorem get?_filter_key {α : Type} (p : Nat → Bool) (t : Tbl α) (k : Nat) :
    Tbl.get? (t.filter fun x => p x.1) k = if p k = true then Tbl.get? t k else none := by
  induction t with
  | nil => simp
  | cons x r ih =>
    obtain ⟨j, b⟩ := x
    by_cases hj : j = k
    · subst hj
      by_cases hp : p j = true
      · simp [hp, Tbl.get?]
      · simp [hp, ih]
    · by_cases hp : p j = true <;> simp [hp, hj, Tbl.get?, ih]

/-- R31: a cleared quarter's stash reads zero, and every other byte of stash as before. -/
theorem stashGet_clearQuarter (s : State) (q j x : Nat) :
    stashGet ((s.clearQuarter q).cluster j) x =
      if j = q / 4 ∧ q % 4 * 2 ^ 19 ≤ x ∧ x < q % 4 * 2 ^ 19 + 2 ^ 19 then 0 else stashGet (s.cluster j) x := by
  by_cases hj : j = q / 4
  · subst hj
    simp only [State.clearQuarter, modCluster_cluster, stashGet, Tbl.getD]
    rw [get?_filter_key (fun a => !decide (q % 4 * 2 ^ 19 ≤ a ∧ a < q % 4 * 2 ^ 19 + 2 ^ 19))]
    by_cases hx : q % 4 * 2 ^ 19 ≤ x ∧ x < q % 4 * 2 ^ 19 + 2 ^ 19
    · rw [decide_eq_true hx, if_neg (by decide), if_pos ⟨trivial, hx⟩]
      rfl
    · rw [decide_eq_false hx, if_pos (by decide), if_neg fun h => hx h.2]
  · simp [State.clearQuarter, State.modCluster, State.cluster, hj]

/-- R31: the machine once a quarter is ungated, before it joins a partition. -/
def State.ungated (s : State) (q : Nat) : State :=
  ({ s with power := { s.power with gated := s.power.gated.filter (· ≠ q), ungating := Tbl.del s.power.ungating q } } : State).clearQuarter q
/-- R32: the partition whose configuration waits takes the quarter. -/
def State.joinWaiting (s : State) (q : Nat) : State :=
  match s.mil.waitPart with
  | some p => if s.mil.op = 0x01 then s.modPart p fun P => { P with cfg := { P.cfg with quart := P.cfg.quart ||| (1#384 <<< q) } } else s
  | none => s

theorem joinWaiting_eq (s : State) (q : Nat) : ∃ x, s.joinWaiting q = { s with parts := x } := by
  unfold State.joinWaiting
  split
  · split_ifs
    · exact ⟨_, rfl⟩
    · exact ⟨_, rfl⟩
  · exact ⟨_, rfl⟩

theorem joinWaiting_none {s : State} (h : s.mil.waitPart = none) (q : Nat) : s.joinWaiting q = s := by simp [State.joinWaiting, h]

theorem joinWaiting_part {s : State} {p : Nat} {P : Part} (h : s.mil.waitPart = some p) (hop : s.mil.op = 0x01) (hP : Tbl.get? s.parts p = some P)
    (q : Nat) : (s.joinWaiting q).part p = { P with cfg := { P.cfg with quart := P.cfg.quart ||| (1#384 <<< q) } } := by
  simp [State.joinWaiting, h, hop, State.modPart, State.part, Tbl.getD, hP]

theorem quarterUngateDone_early {s : State} {t : Nat} (ht : Tbl.get? s.power.ungating s.arg.n0 = some t) (h : s.now < t) :
    Does .quarterUngateDone s s := by
  change execQuarterUngateDone s = _
  simp only [execQuarterUngateDone, ht, if_pos h]

theorem quarterUngateDone_due {s : State} {t : Nat} (ht : Tbl.get? s.power.ungating s.arg.n0 = some t) (h : t ≤ s.now) :
    Does .quarterUngateDone s ((s.ungated s.arg.n0).joinWaiting s.arg.n0) := by
  change execQuarterUngateDone s = _
  simp only [execQuarterUngateDone, ht, if_neg (Nat.not_lt.2 h)]
  rfl

/-- R31, R32: once due, the quarter is ungated and empty, and joins the partition that waits for it; nothing else of the stash changes. -/
theorem quarterUngateDone_joins {s : State} {t : Nat} (ht : Tbl.get? s.power.ungating s.arg.n0 = some t) (h : t ≤ s.now) :
    ∃ s', Does .quarterUngateDone s s' ∧ s.arg.n0 ∉ s'.power.gated ∧ Tbl.get? s'.power.ungating s.arg.n0 = none ∧
      (∀ x, s.arg.n0 % 4 * 2 ^ 19 ≤ x → x < s.arg.n0 % 4 * 2 ^ 19 + 2 ^ 19 → stashGet (s'.cluster (s.arg.n0 / 4)) x = 0) ∧
      (∀ j x, j ≠ s.arg.n0 / 4 ∨ x < s.arg.n0 % 4 * 2 ^ 19 ∨ s.arg.n0 % 4 * 2 ^ 19 + 2 ^ 19 ≤ x →
        stashGet (s'.cluster j) x = stashGet (s.cluster j) x) ∧
      s'.mem = s.mem ∧ s'.teams = s.teams ∧ (s.mil.waitPart = none → s'.parts = s.parts) ∧
      (∀ p P, s.mil.waitPart = some p → s.mil.op = 0x01 → Tbl.get? s.parts p = some P →
        s'.part p = { P with cfg := { P.cfg with quart := P.cfg.quart ||| (1#384 <<< s.arg.n0) } }) := by
  obtain ⟨x, hx⟩ := joinWaiting_eq (s.ungated s.arg.n0) s.arg.n0
  have stash := stashGet_clearQuarter s s.arg.n0
  refine ⟨_, quarterUngateDone_due ht h, ?_, ?_, fun y hlo hhi => ?_, fun j y hout => ?_, by rw [hx]; rfl, by rw [hx]; rfl, fun hw => ?_,
    fun p P hw hop hP => joinWaiting_part (s := s.ungated s.arg.n0) hw hop hP _⟩
  · rw [hx]
    simp [State.ungated, State.clearQuarter, State.modCluster]
  · rw [hx]
    exact (Tbl.get?_del ..).trans (if_pos rfl)
  · rw [hx]
    exact (stash _ y).trans (if_pos ⟨rfl, hlo, hhi⟩)
  · rw [hx]
    exact (stash j y).trans (if_neg (by omega))
  · rw [joinWaiting_none (s := s.ungated s.arg.n0) hw]
    rfl

/-! ## Performance states and throttling (R34 to R37) -/

theorem answers_pstate {s s1 : State} {st : Nat} (h : Idle s) (hseq : s1.mil.seq = s.mil.seq)
    (hp : (busied s 0x0F).setPstate s.arg.n0 = answer st (busied s1 0x0F)) : Answers .pstate s st s1 :=
  does_pstate (command_answers h hseq hp)

/-- R36: a lower state is taken at the next frame boundary, a higher one once its voltage has risen. -/
theorem pstate_answers {s : State} (h : Idle s) :
    (2 < s.arg.n0 → Answers .pstate s 2 s) ∧
    (s.arg.n0 = s.power.pstate → s.arg.n0 ≤ 2 → Answers .pstate s 0 { s with power := { s.power with nextP := none, ramp := none } }) ∧
    (s.arg.n0 < s.power.pstate → s.arg.n0 ≤ 2 → Answers .pstate s 0 { s with power := { s.power with nextP := some s.arg.n0, ramp := none } }) ∧
    (s.power.pstate < s.arg.n0 → s.arg.n0 ≤ 2 →
      Answers .pstate s 0 { s with power := { s.power with nextP := none, ramp := some (s.arg.n0, s.now + 21000 * (s.arg.n0 - s.power.pstate)) } }) := by
  refine ⟨fun hn => answers_pstate h rfl (if_pos hn), fun he hn => answers_pstate h rfl ?_, fun hlt hn => answers_pstate h rfl ?_,
    fun hgt hn => answers_pstate h rfl ((if_neg (Nat.not_lt.2 hn)).trans (if_neg (Nat.not_le.2 hgt)))⟩
  · refine ((if_neg (Nat.not_lt.2 hn)).trans (if_pos (Nat.le_of_eq he))).trans ?_
    rw [if_pos (show s.arg.n0 = (busied s 0x0F).power.pstate from he)]
    rfl
  · refine ((if_neg (Nat.not_lt.2 hn)).trans (if_pos (Nat.le_of_lt hlt))).trans ?_
    rw [if_neg (show s.arg.n0 ≠ (busied s 0x0F).power.pstate from Nat.ne_of_lt hlt)]
    rfl

theorem vddCoreRampDone_due {s : State} {r : Nat × Nat} (hr : s.power.ramp = some r) (h : r.2 ≤ s.now) :
    Does .vddCoreRampDone s { s with power := { s.power with ramp := none, nextP := some r.1 } } := by
  change execVddCoreRampDone s = _
  simp only [execVddCoreRampDone, hr, if_pos h]

theorem thermalThrottle_asks {s : State} (h1 : 1 ≤ s.arg.n0) (h3 : s.arg.n0 ≤ 3) (hc : s.arg.n1 = 1 ∨ s.arg.n1 = 2) :
    Does .thermalThrottle s { s with power := { s.power with nextT := some (s.arg.n0, s.arg.n1) } } :=
  congrArg Host.Outcome.next (if_pos ⟨h1, h3, hc⟩)

theorem throttleRelease_asks (s : State) : Does .throttleRelease s { s with power := { s.power with nextT := some (4, s.power.tcause) } } := rfl

/-! ## What a trace record changes (R446, R449) -/

/-- What a partition is configured to be, now and from the next frame boundary. -/
def Part.settings (P : Part) : PartCfg × Option (BitVec 256 × Nat) := (P.cfg, P.next)
/-- Power, time, teams and the settings of every partition are as they were. -/
structure SameSettings (s s' : State) : Prop where
  power : s'.power = s.power
  now : s'.now = s.now
  teams : s'.teams = s.teams
  parts : ∀ p, (Tbl.get? s'.parts p).map Part.settings = (Tbl.get? s.parts p).map Part.settings

theorem SameSettings.refl (s : State) : SameSettings s s := ⟨rfl, rfl, rfl, fun _ => rfl⟩
theorem SameSettings.trans {a b c : State} (h : SameSettings a b) (g : SameSettings b c) : SameSettings a c :=
  ⟨g.power.trans h.power, g.now.trans h.now, g.teams.trans h.teams, fun p => (g.parts p).trans (h.parts p)⟩
theorem SameSettings.of_sameBut {s s' : State} (h : SameButCounters s s') : SameSettings s s' := by
  obtain ⟨x, rfl, -⟩ := h
  exact ⟨rfl, rfl, rfl, fun _ => rfl⟩

theorem sameSettings_modPart (s : State) (p : Nat) {f : Part → Part} (hf : ∀ P, (f P).settings = P.settings) :
    SameSettings s (s.modPart p f) := by
  refine ⟨rfl, rfl, rfl, fun j => ?_⟩
  simp only [State.modPart, Tbl.get?_modify]
  split_ifs with hj
  · subst hj
    simp [Function.comp_def, hf]
  · rfl

theorem sameSettings_mem (s : State) (m : List Host.Cell) : SameSettings s { s with mem := m } := ⟨rfl, rfl, rfl, fun _ => rfl⟩

theorem sameSettings_writeTrace (s : State) (p ctx kind time : Nat) (data : BitVec 128) : SameSettings s (s.writeTrace p ctx kind time data) := by
  unfold State.writeTrace
  exact (sameSettings_mem s _).trans (sameSettings_modPart _ p fun _ => rfl)

/-- R446: the loss summary that goes before the next record. -/
def State.lossSummary (s : State) (p : Nat) : State :=
  if (s.part p).conf.lost ≠ 0 && (s.part p).traceRoom then
    (s.writeTrace p wideRec 6 s.now (BitVec.ofNat 128 (s.part p).conf.lost)).modPart p fun P => { P with conf := { P.conf with lost := 0 } }
  else s
/-- R446, R449: a record is written, held or lost. -/
def State.recordTrace (s : State) (p ctx kind : Nat) (data : BitVec 128) (holds : Bool) : State :=
  if (s.part p).traceRoom && (s.part p).conf.hold = [] then s.writeTrace p ctx kind s.now data
  else if (s.part p).cfg.trstall && holds && decide ((s.part p).conf.hold.length < 64) then
    s.modPart p fun P => { P with conf := { P.conf with hold := P.conf.hold ++ [traceRec ctx kind 0 s.now data] } }
  else (s.modPart p fun P => { P with conf := { P.conf with lost := P.conf.lost + 1 } }).count ctx 62 1

theorem postTrace_eq (s : State) (p ctx kind : Nat) (data : BitVec 128) (holds : Bool) :
    s.postTrace p ctx kind data holds =
      if (s.part p).cfg.trsize = 0 then s else (s.lossSummary p).recordTrace p ctx kind data holds := rfl

theorem sameSettings_lossSummary (s : State) (p : Nat) : SameSettings s (s.lossSummary p) := by
  unfold State.lossSummary
  split_ifs
  · exact (sameSettings_writeTrace ..).trans (sameSettings_modPart _ p fun _ => rfl)
  · exact .refl s

theorem sameSettings_recordTrace (s : State) (p ctx kind : Nat) (data : BitVec 128) (holds : Bool) :
    SameSettings s (s.recordTrace p ctx kind data holds) := by
  unfold State.recordTrace
  split_ifs
  · exact sameSettings_writeTrace ..
  · exact sameSettings_modPart s p fun _ => rfl
  · refine .trans ?_ (.of_sameBut (sameBut_count ..))
    exact sameSettings_modPart s p fun _ => rfl

theorem sameSettings_postTrace (s : State) (p ctx kind : Nat) (data : BitVec 128) (holds : Bool) :
    SameSettings s (s.postTrace p ctx kind data holds) := by
  rw [postTrace_eq]
  split_ifs
  · exact .refl s
  · exact (sameSettings_lossSummary s p).trans (sameSettings_recordTrace ..)

theorem sameSettings_foldl {α : Type} {f : State → α → State} (hf : ∀ s a, SameSettings s (f s a)) (l : List α) (s : State) :
    SameSettings s (l.foldl f s) := by
  induction l generalizing s with
  | nil => exact .refl s
  | cons a r ih => exact (hf s a).trans (ih _)

/-! ## Frame boundaries (R34 to R38, R103) -/

theorem frameDue_iff (s : State) :
    s.frameDue = true ↔ s.now % 1024 = 0 ∧ (s.power.nextP ≠ none ∨ s.power.nextT ≠ none ∨ ∃ p ∈ s.parts, p.2.next ≠ none) := by
  simp [State.frameDue, Option.isSome_iff_ne_none, or_assoc]

/-- R103: a partition with the calendar and slice that waited for the boundary. -/
def Part.atFrame (P : Part) : Part :=
  match P.next with
  | some n => { P with cfg := { P.cfg with cal := n.1, slice := n.2 }, next := none }
  | none => P
/-- The machine just past the boundary, before the partitions are told. -/
def State.pastFrame (s : State) : State := { s with power := s.power.atFrame.1, parts := Tbl.mapV s.parts fun _ P => P.atFrame }
/-- R38, R447: partitions are told of a change, in a record of no context. -/
def State.tellChange (s : State) (l : List Nat) (data : BitVec 128) : State := l.foldl (fun s p => s.postTrace p wideRec 4 data false) s
/-- R36 to R38, R103: the machine once a frame boundary has taken place. -/
def State.afterFrame (s : State) : State :=
  if s.pastFrame.power.enable = s.power.enable then s.pastFrame
  else s.pastFrame.tellChange (s.pastFrame.parts.map Prod.fst) (BitVec.ofNat 128 (s.pastFrame.power.enable + s.power.atFrame.2 * 256))

theorem pastFrame_keys (s : State) : s.pastFrame.parts.map Prod.fst = s.parts.map Prod.fst := by
  simp [State.pastFrame, Tbl.mapV, Function.comp_def]

theorem Part.atFrame_next (P : Part) : P.atFrame.next = none := by
  unfold Part.atFrame
  split
  next => rfl
  next h => exact h
theorem Part.atFrame_of_some {P : Part} {n : BitVec 256 × Nat} (h : P.next = some n) :
    P.atFrame = { P with cfg := { P.cfg with cal := n.1, slice := n.2 }, next := none } := by simp [Part.atFrame, h]
theorem Part.atFrame_of_none {P : Part} (h : P.next = none) : P.atFrame = P := by simp [Part.atFrame, h]

/-- R38: the record names the throttle's cause when it is the throttle that has changed. -/
theorem pastFrame_cause (s : State) : s.power.atFrame.2 =
    if s.power.nextT ≠ none ∧ s.pastFrame.power.throttle ≠ s.power.throttle then s.pastFrame.power.tcause else 0 := by
  simp [State.pastFrame, Power.atFrame, Option.isSome_iff_ne_none]

theorem sameSettings_afterFrame (s : State) : SameSettings s.pastFrame s.afterFrame := by
  unfold State.afterFrame
  split_ifs
  · exact .refl _
  · exact sameSettings_foldl (fun s p => sameSettings_postTrace s p ..) ..

/-- Past the boundary every partition has its new settings. -/
theorem afterFrame_settings {s : State} {p : Nat} {P : Part} (hP : Tbl.get? s.parts p = some P) :
    (s.afterFrame.part p).settings = P.atFrame.settings := by
  have h := (sameSettings_afterFrame s).parts p
  simp only [State.pastFrame, Tbl.get?_mapV, hP, Option.map_some, Option.map_eq_some_iff] at h
  obtain ⟨P', hP', hset⟩ := h
  simp [State.part, Tbl.getD, hP', hset]

theorem frameBoundary_due {s : State} (h : s.frameDue = true) : Does .frameBoundary s s.afterFrame := by
  change execFrameBoundary s = _
  simp only [execFrameBoundary, h, Bool.not_true, Bool.false_eq_true, if_false]
  rfl

theorem frameBoundary_early {s : State} (h : s.now % 1024 ≠ 0) : Does .frameBoundary s s := by
  have hdue : s.frameDue = false := by rw [Bool.eq_false_iff, Ne, frameDue_iff]; exact fun hd => h hd.1
  exact congrArg Host.Outcome.next (if_pos (by simp [hdue]))

/-- R36 to R38, R103: at a frame boundary the state, the throttle and the calendars that waited take effect, and every partition is told
of another enable count. -/
theorem frameBoundary_takesEffect {s : State} (h : s.frameDue = true) :
    ∃ s', Does .frameBoundary s s' ∧ s'.power.nextP = none ∧ s'.power.nextT = none ∧
      s'.power.pstate = s.power.nextP.getD s.power.pstate ∧ s'.power.throttle = (s.power.nextT.getD (s.power.throttle, s.power.tcause)).1 ∧
      s'.power.enable = min (if s'.power.pstate = 2 then 4 else if s'.power.pstate = 1 then 3 else 1) s'.power.throttle ∧
      s'.teams = s.teams ∧ s'.now = s.now ∧
      (∀ p P, Tbl.get? s.parts p = some P → (s'.part p).next = none ∧
        (∀ n, P.next = some n → (s'.part p).cfg = { P.cfg with cal := n.1, slice := n.2 }) ∧ (P.next = none → (s'.part p).cfg = P.cfg)) ∧
      (s'.power.enable ≠ s.power.enable → s' = s.pastFrame.tellChange (s.parts.map Prod.fst) (BitVec.ofNat 128
        (s'.power.enable + (if s.power.nextT ≠ none ∧ s'.power.throttle ≠ s.power.throttle then s'.power.tcause else 0) * 256))) := by
  obtain ⟨hpower, hnow, hteams, -⟩ := sameSettings_afterFrame s
  refine ⟨_, frameBoundary_due h, ?_⟩
  rw [hpower]
  refine ⟨rfl, rfl, rfl, rfl, rfl, hteams, hnow, fun p P hP => ?_, fun hne => ?_⟩
  · obtain ⟨hcfg, hnext⟩ := Prod.mk.inj (afterFrame_settings hP)
    exact ⟨hnext.trans P.atFrame_next, fun n hn => by rw [hcfg, Part.atFrame_of_some hn], fun hn => by rw [hcfg, Part.atFrame_of_none hn]⟩
  · rw [State.afterFrame, if_neg hne, pastFrame_cause, pastFrame_keys]

end Sys2Proof.Machine
end

section
/-! PROOFS. The refutation of O43: the record of a throttle's change carries its cause (R38, R447), which the statement leaves out. -/

namespace Sys2Proof.Machine

/-! ## A record that has been written (R446, R449) -/

theorem SameSettings.part {s s' : State} (h : SameSettings s s') (p : Nat) : (s'.part p).settings = (s.part p).settings := by
  have hp := h.parts p
  unfold State.part Tbl.getD
  cases hs' : Tbl.get? s'.parts p <;> cases hs : Tbl.get? s.parts p <;> simp_all

theorem hasPart_of_trsize {s : State} {p : Nat} (h : (s.part p).cfg.trsize ≠ 0) : s.hasPart p = true := by
  by_contra hno
  have hnone : Tbl.get? s.parts p = none := by simpa [State.hasPart] using hno
  exact h (by simp [State.part, Tbl.getD, hnone])

theorem part_modPart {s : State} {p : Nat} (h : s.hasPart p = true) (f : Part → Part) : (s.modPart p f).part p = f (s.part p) := by
  obtain ⟨P, hP⟩ := Option.isSome_iff_exists.1 h
  simp [State.modPart, State.part, Tbl.getD, hP]

theorem count_parts (s : State) (c ev n : Nat) : (s.count c ev n).parts = s.parts := by
  obtain ⟨x, hx, -⟩ := count_eq s c ev n
  rw [hx]

/-- R449: a record whose source does not hold it, after which no loss stands, has been written. -/
theorem postTrace_written {s : State} {p ctx kind : Nat} {data : BitVec 128}
    (hsize : ((s.postTrace p ctx kind data false).part p).cfg.trsize ≠ 0) (hlost : ((s.postTrace p ctx kind data false).part p).conf.lost = 0) :
    ∃ s2 : State, (s2.part p).cfg.trsize ≠ 0 ∧ s.postTrace p ctx kind data false = s2.writeTrace p ctx kind s2.now data := by
  have keeps {s1 : State} (h : SameSettings s s1) : (s1.part p).cfg.trsize ≠ 0 := by
    have hcfg := congrArg Prod.fst (((sameSettings_postTrace s p ctx kind data false).part p).trans (h.part p).symm)
    exact fun h0 => hsize ((congrArg PartCfg.trsize hcfg).trans h0)
  have hsummary := keeps (sameSettings_lossSummary s p)
  rw [postTrace_eq, if_neg (keeps (.refl s)), State.recordTrace] at hlost ⊢
  split_ifs at hlost ⊢ with hroom hhold
  · exact ⟨s.lossSummary p, hsummary, rfl⟩
  · simp at hhold
  · rw [State.part, count_parts] at hlost
    have hlast := congrArg (·.conf.lost) (part_modPart (hasPart_of_trsize hsummary) fun P => { P with conf := { P.conf with lost := P.conf.lost + 1 } })
    exact absurd (hlast.symm.trans hlost) (Nat.succ_ne_zero _)

theorem length_leBytes (k n : Nat) : (leBytes k n).length = k := by
  induction k generalizing n with
  | zero => rfl
  | succ k ih => simp [leBytes, ih]

theorem part_modPart_withMem {s : State} {p : Nat} (h : s.hasPart p = true) (m : List Host.Cell) (f : Part → Part) :
    (({ s with mem := m } : State).modPart p f).part p = f (s.part p) := part_modPart (s := { s with mem := m }) h f

theorem writeTrace_part {s : State} {p : Nat} (h : s.hasPart p = true) (ctx kind time : Nat) (data : BitVec 128) :
    (s.writeTrace p ctx kind time data).part p =
      { s.part p with conf := { (s.part p).conf with trprod := (s.part p).conf.trprod + 1, seq := (s.part p).conf.seq + 1 } } := by
  unfold State.writeTrace
  exact part_modPart_withMem h _ _

theorem writeTrace_mem (s : State) (p ctx kind time : Nat) (data : BitVec 128) :
    (s.writeTrace p ctx kind time data).mem =
      memPuts s.mem ((s.part p).cfg.trbase + (s.part p).conf.trprod % ((s.part p).cfg.trsize * 128) * 32)
        (leBytes 32 (traceRec ctx kind (s.part p).conf.seq time data).toNat) := rfl

/-- Bytes of the record just written, in the ring of a partition that stands at its first slot. -/
theorem memGet_writeTrace_first {s : State} {p ctx kind time j : Nat} {data : BitVec 128} (hprod : (s.part p).conf.trprod = 0) (hj : j < 32) :
    memGet (s.writeTrace p ctx kind time data).mem ((s.part p).cfg.trbase + j) =
      (leBytes 32 (traceRec ctx kind (s.part p).conf.seq time data).toNat).getD j 0 := by
  have hlen : j < (leBytes 32 (traceRec ctx kind (s.part p).conf.seq time data).toNat).length := by rwa [length_leBytes]
  rw [writeTrace_mem, hprod, Nat.zero_mod, Nat.zero_mul, Nat.add_zero, memGet_memPuts_at _ _ _ _ hlen, List.getD_eq_getElem _ _ hlen]

/-! ## The counterexample -/

/-- A frame boundary at which a thermal throttle to one enabled tick takes effect, of a partition that traces. -/
def throttling : State := { power := { nextT := some (1, 1) }, parts := [(0, { cfg := { trsize := 1 } })] }

theorem throttling_power : throttling.afterFrame.power.enable = 1 ∧ throttling.afterFrame.power.nextT = none := by decide +kernel
theorem throttling_part : throttling.afterFrame.now = 0 ∧ throttling.afterFrame.part 0 = { cfg := { trsize := 1 }, conf := { trprod := 1, seq := 1 } } := by
  decide +kernel
/-- R447: byte 17 of the record, the cause of the change, is 1. -/
theorem throttling_cause : memGet throttling.afterFrame.mem 17 = 1 := by decide +kernel

/-- A record with the enable count alone does not make the memory that the boundary leaves: its byte 17 is zero. -/
theorem throttling_not_causeless (s1 : State) : throttling.afterFrame ≠ s1.postTrace 0 wideRec 4 (BitVec.ofNat 128 1) false := by
  intro h
  obtain ⟨hnow, hpart⟩ := throttling_part
  have hcause := throttling_cause
  obtain ⟨s2, hsize, hs2⟩ : ∃ s2 : State, (s2.part 0).cfg.trsize ≠ 0 ∧ throttling.afterFrame = s2.writeTrace 0 wideRec 4 s2.now (BitVec.ofNat 128 1) :=
    h ▸ postTrace_written (by rw [← h, hpart]; decide) (by rw [← h, hpart])
  rw [hs2] at hnow hpart hcause
  rw [writeTrace_part (hasPart_of_trsize hsize)] at hpart
  have hcfg : (s2.part 0).cfg = { trsize := 1 } := congrArg Part.cfg hpart
  have hconf := congrArg Part.conf hpart
  have hprod : (s2.part 0).conf.trprod = 0 := Nat.succ.inj (congrArg Conf.trprod hconf)
  have hseq : (s2.part 0).conf.seq = 0 := Nat.succ.inj (congrArg Conf.seq hconf)
  have htime : s2.now = 0 := (sameSettings_writeTrace ..).now.symm.trans hnow
  have hbyte := memGet_writeTrace_first (s := s2) (ctx := wideRec) (kind := 4) (time := s2.now) (data := BitVec.ofNat 128 1) hprod (show 17 < 32 by decide)
  rw [hcfg, hseq, htime] at hbyte
  rw [htime] at hcause
  have hzero : (leBytes 32 (traceRec wideRec 4 0 0 (BitVec.ofNat 128 1)).toNat).getD 17 0 = 0 := by decide +kernel
  exact absurd (hcause.symm.trans (hbyte.trans hzero)) (by decide)

/-- Refutes O43: in the clause on the records that tell the partitions of another enable count, `s` is the state being folded over, whose
throttle no longer waits, so the clause asks for records without the cause that R38 gives them. The machine of `throttling`
writes cause 1. The clause as it is meant is the last one of `frameBoundary_takesEffect`. -/
theorem not_deviceEvents : ¬ Obligations.DeviceEvents := by
  unfold Obligations.DeviceEvents
  intro h
  obtain ⟨-, -, -, -, -, -, -, -, -, -, -, -, -, -, -, -, -, -, -, hframe, -, -⟩ := h throttling
  obtain ⟨s', hdoes, -, -, -, -, -, -, -, -, htold⟩ := hframe rfl (by decide)
  obtain rfl : throttling.afterFrame = s' := Host.Outcome.next.inj ((frameBoundary_due (by decide)).symm.trans hdoes)
  obtain ⟨henable, hnextT⟩ := throttling_power
  obtain ⟨s1, hpower, -, hrecord⟩ := htold (by rw [henable]; decide)
  have hkeys : throttling.parts.map Prod.fst = [0] := rfl
  rw [hkeys, List.foldl_cons, List.foldl_nil, hpower, hnextT, henable] at hrecord
  exact throttling_not_causeless s1 (by simpa using hrecord)

end Sys2Proof.Machine
end

section
/-! PROOFS. Commands that configure, free, reset and mend partitions and contexts (R81, R86, R100 to R105, R136, R137): O45. -/

namespace Sys2Proof.Machine

/-! ## Commands of the mailbox (R106, R107) -/

/-- R106: an event that is a command is turned away while another runs or before the boot is over. -/
theorem turnedAway_command {i : Instr} {s : State} {op : Nat} {f : State → Option Nat × State} (he : exec i s = .next (s.command op f)) :
    TurnedAway i s := fun h => he.trans (congrArg _ (command_turnedAway h op f))

/-- R107: a command that answers at once. -/
theorem answers_command {i : Instr} {s s1 : State} {op st : Nat} {f : State → Option Nat × State} (h : Idle s)
    (he : exec i s = .next (s.command op f)) (hf : f (busied s op) = answer st (busied s1 op)) (hseq : s1.mil.seq = s.mil.seq := by rfl) :
    Answers i s st s1 := he.trans (congrArg _ (command_answers h hseq hf))

/-- A command that goes on. -/
theorem does_command {i : Instr} {s s' : State} {op : Nat} {f : State → Option Nat × State} (h : Idle s)
    (he : exec i s = .next (s.command op f)) (hf : f (busied s op) = (none, s')) : Does i s s' := by
  rw [Does, he, command_idle h, hf]

/-- A command that answers with a status, the state it leaves not taken apart. -/
theorem does_command_finish {i : Instr} {s s1 : State} {op st : Nat} {f : State → Option Nat × State} (h : Idle s)
    (he : exec i s = .next (s.command op f)) (hf : f (busied s op) = answer st s1) : Does i s (s1.finishCmd st) := by
  rw [Does, he, command_idle h, hf]
  rfl

/-- R101: a partition that does not exist. -/
theorem partMissing {s : State} {p : Nat} (h : 64 ≤ p ∨ s.hasPart p = false) : (!partNo p || !s.hasPart p) = true := by
  rcases h with h | h
  · simp [partNo, h]
  · simp [h]

/-- A partition that does. -/
theorem partThere {s : State} {p : Nat} {P : Part} (hp : p < 64) (hP : Tbl.get? s.parts p = some P) : ¬ (!partNo p || !s.hasPart p) = true := by
  simp [partNo, hp, State.hasPart, hP]

theorem part_of_get? {s : State} {p : Nat} {P : Part} (h : Tbl.get? s.parts p = some P) : s.part p = P := by simp [State.part, Tbl.getD, h]
theorem ctx_of_get? {s : State} {c : Nat} {x : Ctx} (h : Tbl.get? s.ctxs c = some x) : s.ctx c = x := by simp [State.ctx, Tbl.getD, h]
theorem modPart_of_get? {s : State} {p : Nat} {P : Part} (h : Tbl.get? s.parts p = some P) (f : Part → Part) :
    s.modPart p f = { s with parts := Tbl.put s.parts p (f P) } := by simp [State.modPart, Tbl.modify, h]
theorem part_modPart_ne {s : State} {p q : Nat} (h : q ≠ p) (f : Part → Part) : (s.modPart p f).part q = s.part q := by
  simp [State.modPart, State.part, Tbl.getD, h]
theorem ctx_modCtx (s : State) (c j : Nat) (f : Ctx → Ctx) : (s.modCtx c f).ctx j = if j = c then f (s.ctx c) else s.ctx j := by
  simp [State.modCtx, State.ctx]

theorem mem_of_get? {α : Type} {t : Tbl α} {k : Nat} {a : α} (h : Tbl.get? t k = some a) : (k, a) ∈ t := by
  induction t with
  | nil => cases h
  | cons x r ih =>
    obtain ⟨j, b⟩ := x
    rw [Tbl.get?] at h
    split_ifs at h with hj
    · cases h
      exact hj ▸ List.mem_cons_self ..
    · exact List.mem_cons_of_mem _ (ih h)

theorem foldl_modCtx (f : Nat → Ctx → Ctx) (cs : List Nat) (s : State) :
    cs.foldl (fun s c => s.modCtx c (f c)) s = { s with ctxs := cs.foldl (fun t c => Tbl.upd t c {} (f c)) s.ctxs } := by
  induction cs generalizing s with
  | nil => rfl
  | cons c r ih => exact ih _

/-- A changed context is all that a change of a context changes. -/
theorem ctxChanged_modCtx (s : State) (c : Nat) (f : Ctx → Ctx) : CtxChanged s (s.modCtx c f) c :=
  ⟨fun j hj => by simp [State.modCtx, hj], rfl⟩

theorem CtxChanged.eq {s s1 : State} {c : Nat} (h : CtxChanged s s1 c) : s1 = { s with ctxs := s1.ctxs } :=
  congrArg (fun x : State => { x with ctxs := s1.ctxs }) h.2

/-! ## The partition record (R101, R102) -/

theorem pfBytes_inside {s : State} {a n : Nat} (h : a + n ≤ s.localTop) : s.pfBytes a n = some (memBytes s.mem a n) := if_pos h
theorem pfBytes_outside {s : State} {a n : Nat} (h : s.localTop < a + n) : s.pfBytes a n = none := if_neg (Nat.not_le.2 h)

/-- A record of zeros has no slice. -/
theorem partCfgBad_zero (s : State) (p : Nat) : s.partCfgBad p 0 = true := by
  have hslice : bits 0 919 896 = 0 := by rw [bits, Nat.zero_div, Nat.zero_mod]
  have hrec : partRecOk 0 = false := by simp [partRecOk, hslice]
  simp only [State.partCfgBad, hrec, Bool.not_false, Bool.true_or]

theorem doPartCfg_noPart {s : State} {p a : Nat} (hp : 64 ≤ p) : s.doPartCfg p a = answer 2 s := if_pos (by simp [partNo, hp])
theorem doPartCfg_held {s : State} {p a : Nat} (hp : p < 64) (ht : s.tdiHeld p = true) : s.doPartCfg p a = answer 3 s := by
  simp [State.doPartCfg, partNo, hp, ht]
theorem doPartCfg_outside {s : State} {p a : Nat} (hp : p < 64) (ht : s.tdiHeld p = false) (ha : s.localTop < a + 256) :
    s.doPartCfg p a = answer 2 s := by
  simp [State.doPartCfg, partNo, hp, ht, pfBytes_outside ha, partCfgBad_zero]

/-- R101: the number that the record of 256 bytes at an address makes. -/
def State.recordAt (s : State) (a : Nat) : Nat := leNat (memBytes s.mem a 256)

/-- R102, R103: the checks of a record that lies in the die's memory. -/
theorem doPartCfg_inside {s : State} {p a : Nat} (hp : p < 64) (ht : s.tdiHeld p = false) (ha : a + 256 ≤ s.localTop) :
    s.doPartCfg p a =
      if s.partCfgBad p (s.recordAt a) = true then answer 2 s
      else if (s.hasPart p && s.uncommittedIn p && cfgHeldChange (s.part p).cfg (partRec (s.recordAt a))) = true then answer 3 s
      else s.applyCfg p (partRec (s.recordAt a)) := by
  simp [State.doPartCfg, partNo, hp, ht, pfBytes_inside ha, State.recordAt]

/-! ## A configuration takes effect (R32, R103) -/

/-- The partition as a record makes it, the calendar and slice left for the next frame when it has teams. -/
def State.asConfigured (s : State) (p : Nat) (r : PartCfg) : Part :=
  { (Tbl.get? s.parts p).getD { verNext := Tbl.getD s.mil.vers p 0 } with
    cfg := if s.hasTeams p = true then { r with cal := (s.part p).cfg.cal, slice := (s.part p).cfg.slice } else r
    next := if s.hasTeams p = true then some (r.cal, r.slice) else none }
/-- The machine with that partition. -/
def State.withConfig (s : State) (p : Nat) (r : PartCfg) : State := { s with parts := Tbl.put s.parts p (s.asConfigured p r) }
/-- R32: the quarters of a record that a W9L holds gated. -/
def State.toUngate (s : State) (r : PartCfg) : List Nat := if s.fitting = .w9l then (quarters r.quart).filter fun q => q ∈ s.power.gated else []
/-- R103: the quarters that leave a partition. -/
def State.leaving (s : State) (p : Nat) (r : PartCfg) : List Nat := quarters ((s.part p).cfg.quart &&& ~~~r.quart)

theorem mem_quarters {m : BitVec 384} {q : Nat} : q ∈ quarters m ↔ q < 384 ∧ m.getLsbD q = true := by simp [quarters]

/-- Nothing is to be ungated on a W9H, nor where no gated quarter is in the record. -/
theorem toUngate_nil {s : State} {r : PartCfg} (h : s.fitting = .w9h ∨ ∀ q ∈ s.power.gated, r.quart.getLsbD q = false) : s.toUngate r = [] := by
  unfold State.toUngate
  rcases h with h | h
  · simp [h]
  · split_ifs
    · simp only [List.filter_eq_nil_iff, mem_quarters, decide_eq_true_eq]
      rintro q ⟨-, hq⟩ hg
      simp [h q hg] at hq
    · rfl

theorem mem_toUngate {s : State} {r : PartCfg} {q : Nat} (hw : s.fitting = .w9l) :
    q ∈ s.toUngate r ↔ q < 384 ∧ r.quart.getLsbD q = true ∧ q ∈ s.power.gated := by
  simp [State.toUngate, hw, mem_quarters, and_assoc]

/-- R32: the record as far as its quarters are not to be ungated first. -/
def State.joinsNow (s : State) (r : PartCfg) : PartCfg :=
  { r with quart := r.quart &&& ~~~((s.toUngate r).foldl (fun m q => m ||| (1#384 <<< q)) 0#384) }
/-- The quarters that leave a partition with teams on them. -/
def State.heldLeaving (s : State) (p : Nat) (r : PartCfg) : List Nat := (s.leaving p r).filter s.standsOn
/-- The machine once the record is written, and quarters that need not wait are ungated and gated. -/
def State.cfgWritten (s : State) (p : Nat) (r : PartCfg) : State :=
  ((s.toUngate r).foldl State.ungate (s.withConfig p (s.joinsNow r))).gateFree ((s.leaving p r).filter fun q => q ∉ s.heldLeaving p r)
/-- The machine while a configuration waits for quarters. -/
def State.awaiting (s : State) (p : Nat) (qs : List Nat) : State := { s with mil := { s.mil with waitQ := qs, waitPart := some p } }

theorem applyCfg_eq (s : State) (p : Nat) (r : PartCfg) : s.applyCfg p r =
    if s.toUngate r = [] ∧ s.heldLeaving p r = [] then answer 0 (s.cfgWritten p r)
    else (none, ((s.cfgWritten p r).quiesceStart p (((s.cfgWritten p r).awaiting p (s.heldLeaving p r)).leavers p)).awaiting p (s.heldLeaving p r)) := rfl

theorem joinsNow_all {s : State} {r : PartCfg} (h : s.toUngate r = []) : s.joinsNow r = r := by
  rw [State.joinsNow, h, List.foldl_nil, BitVec.not_zero, BitVec.and_allOnes]

/-- R260: what a quiescence begins with changes launches, teams and contexts alone. -/
theorem stopTm_eq (s : State) (k : Nat) : ∃ t c, s.stopTm k = { s with teams := t, ctxs := c } := by
  unfold State.stopTm
  dsimp only
  split_ifs
  · obtain ⟨x, hx, -⟩ := count_eq s (s.team k).id.ctx 50 1
    simp only [State.tmAbort, hx]
    exact ⟨_, _, rfl⟩
  · exact ⟨_, _, rfl⟩

theorem quiesceStart_eq (s : State) (p : Nat) (ts : List (Nat × Team)) :
    ∃ l t c, s.quiesceStart p ts = { s with launches := l, teams := t, ctxs := c } := by
  unfold State.quiesceStart
  dsimp only
  refine List.foldlRecOn (motive := fun s' => ∃ l t c, s' = ({ s with launches := l, teams := t, ctxs := c } : State)) ts _ ⟨_, _, _, rfl⟩ ?_
  rintro _ ⟨l, t, c, rfl⟩ x -
  have waited : ∃ t', (if ready s x.2 = true then ({ s with launches := l, teams := t, ctxs := c } : State).modTeam x.1 fun y =>
      { y with sched := { y.sched with waited := y.sched.waited + (s.now - y.sched.readySince) } } else { s with launches := l, teams := t, ctxs := c }) =
      { s with launches := l, teams := t', ctxs := c } := by
    split_ifs
    · exact ⟨_, rfl⟩
    · exact ⟨_, rfl⟩
  obtain ⟨t', ht'⟩ := waited
  rw [ht']
  split_ifs
  · obtain ⟨t2, c2, h2⟩ := stopTm_eq { s with launches := l, teams := t', ctxs := c } x.1
    exact ⟨_, _, _, h2⟩
  · exact ⟨_, _, _, rfl⟩

theorem foldl_ungate_eq (l : List Nat) (s : State) :
    ∃ u, l.foldl State.ungate s = { s with power := { s.power with ungating := u } } ∧ ∀ q ∈ l, Tbl.get? u q = some (s.now + 10500) := by
  induction l using List.reverseRecOn with
  | nil => exact ⟨_, rfl, by simp⟩
  | append_singleton l x ih =>
    obtain ⟨u, hu, hall⟩ := ih
    rw [List.foldl_append, hu]
    refine ⟨_, rfl, fun q hq => ?_⟩
    rw [Tbl.get?_put]
    split_ifs with hx
    · rfl
    · exact hall q (by simpa [hx] using hq)

theorem gateFree_eq (s : State) (qs : List Nat) : ∃ g, s.gateFree qs = { s with power := { s.power with gated := g } } ∧
    (s.fitting = .w9h → g = s.power.gated) ∧ ∀ q, q ∈ g ↔ q ∈ s.power.gated ∨ (s.fitting = .w9l ∧ q ∈ qs ∧ s.quarterOwned q = false) := by
  unfold State.gateFree
  split_ifs with hw
  · refine ⟨_, rfl, by simp [hw], fun q => ?_⟩
    by_cases hg : q ∈ s.power.gated
    · simp [hg]
    · simp [hg, hw]
  · exact ⟨_, rfl, fun _ => rfl, fun q => by simp [hw]⟩

/-- R103: what the written record leaves of the machine, from which quarters wait. -/
theorem cfgWritten_eq (s : State) (p : Nat) (r : PartCfg) : ∃ g u,
    s.cfgWritten p r = { s.withConfig p (s.joinsNow r) with power := { s.power with gated := g, ungating := u } } ∧
      (s.toUngate r = [] → u = s.power.ungating) ∧ (∀ q ∈ s.toUngate r, Tbl.get? u q = some (s.now + 10500)) ∧
      ∀ q, q ∈ g ↔ q ∈ s.power.gated ∨
        (s.fitting = .w9l ∧ q ∈ s.leaving p r ∧ q ∉ s.heldLeaving p r ∧ (s.withConfig p (s.joinsNow r)).quarterOwned q = false) := by
  obtain ⟨u, hu, hdue⟩ := foldl_ungate_eq (s.toUngate r) (s.withConfig p (s.joinsNow r))
  obtain ⟨g, hg, -, hmem⟩ := gateFree_eq ((s.toUngate r).foldl State.ungate (s.withConfig p (s.joinsNow r))) ((s.leaving p r).filter fun q => q ∉ s.heldLeaving p r)
  rw [hu] at hg hmem
  refine ⟨g, u, ?_, fun h => ?_, hdue, fun q => (hmem q).trans ?_⟩
  · rw [State.cfgWritten, hu, hg]
    rfl
  · rw [h] at hu
    exact (congrArg (fun x => x.power.ungating) hu).symm
  · rw [List.mem_filter, decide_eq_true_iff, and_assoc]
    rfl

/-- R103: with nothing to ungate, a record that takes quarters from no team takes effect at once. -/
theorem applyCfg_now {s : State} {p : Nat} {r : PartCfg} (hg : s.toUngate r = []) (hw : ∀ q ∈ s.leaving p r, s.standsOn q = false) :
    ∃ g, s.applyCfg p r = answer 0 { s.withConfig p r with power := { s.power with gated := g } } ∧
      ∀ q, q ∈ g ↔ q ∈ s.power.gated ∨ (s.fitting = .w9l ∧ q ∈ s.leaving p r ∧ (s.withConfig p r).quarterOwned q = false) := by
  have hheld : s.heldLeaving p r = [] := by simpa [State.heldLeaving, List.filter_eq_nil_iff] using hw
  obtain ⟨g, u, hs, hu, -, hmem⟩ := cfgWritten_eq s p r
  refine ⟨g, ?_, ?_⟩
  · rw [applyCfg_eq, if_pos ⟨hg, hheld⟩, hs, hu hg, joinsNow_all hg]
  · simpa [hheld, joinsNow_all hg] using hmem

/-- R32, R103, R267: with quarters to ungate, or teams on the quarters that leave, the command goes on running. -/
theorem applyCfg_waits {s : State} {p : Nat} {r : PartCfg} (h : ¬ (s.toUngate r = [] ∧ s.heldLeaving p r = [])) :
    ∃ s', s.applyCfg p r = (none, s') ∧ s'.mil = { s.mil with waitQ := s.heldLeaving p r, waitPart := some p } ∧
      (∀ q ∈ s.toUngate r, Tbl.get? s'.power.ungating q = some (s.now + 10500)) ∧ (s.toUngate r = [] → s'.part p = s.asConfigured p r) := by
  refine ⟨_, (applyCfg_eq s p r).trans (if_neg h), ?_⟩
  obtain ⟨g, u, hs, -, hdue, -⟩ := cfgWritten_eq s p r
  obtain ⟨l, t, c, hq⟩ := quiesceStart_eq (s.cfgWritten p r) p (((s.cfgWritten p r).awaiting p (s.heldLeaving p r)).leavers p)
  rw [hq, hs]
  refine ⟨rfl, hdue, fun hg => ?_⟩
  rw [joinsNow_all hg]
  exact part_of_get? (Tbl.get?_put_self ..)

/-! ## `part_cfg` (R101 to R103) -/

theorem partCfg_refused {s : State} (h : Idle s) :
    (64 ≤ s.arg.n0 → Answers .partCfg s 2 s) ∧ (s.arg.n0 < 64 → s.tdiHeld s.arg.n0 = true → Answers .partCfg s 3 s) ∧
    (s.arg.n0 < 64 → s.tdiHeld s.arg.n0 = false → s.localTop < s.arg.n1 + 256 → Answers .partCfg s 2 s) :=
  ⟨fun hp => answers_command h rfl (doPartCfg_noPart hp), fun hp ht => answers_command h rfl (doPartCfg_held (s := busied s 1) hp ht),
    fun hp ht ha => answers_command h rfl (doPartCfg_outside (s := busied s 1) hp ht ha)⟩

/-- R102, R103: the answers of a record that may not be written. -/
theorem partCfg_checked {s : State} (h : Idle s) (hp : s.arg.n0 < 64) (ht : s.tdiHeld s.arg.n0 = false) (ha : s.arg.n1 + 256 ≤ s.localTop) :
    (s.partCfgBad s.arg.n0 (s.recordAt s.arg.n1) = true → Answers .partCfg s 2 s) ∧
    (s.partCfgBad s.arg.n0 (s.recordAt s.arg.n1) = false → s.hasPart s.arg.n0 = true → s.uncommittedIn s.arg.n0 = true →
      cfgHeldChange (s.part s.arg.n0).cfg (partRec (s.recordAt s.arg.n1)) = true → Answers .partCfg s 3 s) := by
  refine ⟨fun hbad => answers_command h rfl ?_, fun hgood hpart hun hch => answers_command h rfl ?_⟩
  · exact (doPartCfg_inside (s := busied s 1) hp ht ha).trans (if_pos hbad)
  · refine ((doPartCfg_inside (s := busied s 1) hp ht ha).trans (if_neg (Bool.eq_false_iff.1 hgood))).trans (if_pos ?_)
    exact Bool.and_eq_true_iff.2 ⟨Bool.and_eq_true_iff.2 ⟨hpart, hun⟩, hch⟩

/-- R103: a record that may be written is applied. -/
theorem doPartCfg_applies {s : State} {p a : Nat} (hp : p < 64) (ht : s.tdiHeld p = false) (ha : a + 256 ≤ s.localTop)
    (hgood : s.partCfgBad p (s.recordAt a) = false)
    (hfree : s.hasPart p = false ∨ s.uncommittedIn p = false ∨ cfgHeldChange (s.part p).cfg (partRec (s.recordAt a)) = false) :
    s.doPartCfg p a = s.applyCfg p (partRec (s.recordAt a)) := by
  rw [doPartCfg_inside hp ht ha, if_neg (Bool.eq_false_iff.1 hgood), if_neg]
  rcases hfree with hf | hf | hf <;> simp [hf]

/-- R32, R103: an applied record takes effect at once, or waits for quarters. -/
theorem partCfg_applied {s : State} (h : Idle s) (r : PartCfg) (hdo : (busied s 1).doPartCfg s.arg.n0 s.arg.n1 = (busied s 1).applyCfg s.arg.n0 r) :
    ((s.fitting = .w9h ∨ ∀ q ∈ s.power.gated, r.quart.getLsbD q = false) → (∀ q ∈ s.leaving s.arg.n0 r, s.standsOn q = false) →
      ∃ s1, Answers .partCfg s 0 s1 ∧ s1.parts = Tbl.put s.parts s.arg.n0 (s.asConfigured s.arg.n0 r) ∧
        (∀ q, q ∈ s1.power.gated ↔ q ∈ s.power.gated ∨ (s.fitting = .w9l ∧ q ∈ s.leaving s.arg.n0 r ∧ s1.quarterOwned q = false)) ∧
        { s1 with parts := s.parts, power := { s1.power with gated := s.power.gated } } = s) ∧
    (s.fitting = .w9h → (∃ q ∈ s.leaving s.arg.n0 r, s.standsOn q = true) → ∃ s', Does .partCfg s s' ∧ s'.mil.busy = true ∧ s'.mil.op = 1 ∧
      s'.mil.status = 1 ∧ s'.mil.waitQ = s.heldLeaving s.arg.n0 r ∧ s'.mil.waitPart = some s.arg.n0 ∧ s'.part s.arg.n0 = s.asConfigured s.arg.n0 r) ∧
    (s.fitting = .w9l → (∃ q ∈ s.power.gated, q < 384 ∧ r.quart.getLsbD q = true) → ∃ s', Does .partCfg s s' ∧ s'.mil.busy = true ∧ s'.mil.op = 1 ∧
      s'.mil.status = 1 ∧ ∀ q ∈ s.power.gated, q < 384 → r.quart.getLsbD q = true → Tbl.get? s'.power.ungating q = some (s.now + 10500)) := by
  refine ⟨fun hg hw => ?_, fun hw hq => ?_, fun hw hq => ?_⟩
  · obtain ⟨g, hs, hmem⟩ := applyCfg_now (s := busied s 1) (p := s.arg.n0) (r := r) (toUngate_nil hg) hw
    exact ⟨{ s.withConfig s.arg.n0 r with power := { s.power with gated := g } }, answers_command h rfl (hdo.trans hs), rfl, hmem, rfl⟩
  · obtain ⟨q, hq, hon⟩ := hq
    have hheld : q ∈ s.heldLeaving s.arg.n0 r := List.mem_filter.2 ⟨hq, hon⟩
    obtain ⟨s', hs, hmil, -, hpart⟩ := applyCfg_waits (s := busied s 1) (p := s.arg.n0) (r := r) fun hn => List.ne_nil_of_mem hheld hn.2
    refine ⟨s', does_command h rfl (hdo.trans hs), ?_⟩
    rw [hmil]
    exact ⟨rfl, rfl, rfl, rfl, rfl, hpart (toUngate_nil (.inl hw))⟩
  · obtain ⟨q, hq, hlt, hbit⟩ := hq
    have mem {x : Nat} (hx : x ∈ s.power.gated) (hlt : x < 384) (hb : r.quart.getLsbD x = true) : x ∈ (busied s 1).toUngate r :=
      (mem_toUngate (s := busied s 1) hw).2 ⟨hlt, hb, hx⟩
    obtain ⟨s', hs, hmil, hdue, -⟩ := applyCfg_waits (s := busied s 1) (p := s.arg.n0) (r := r) fun hn => List.ne_nil_of_mem (mem hq hlt hbit) hn.1
    refine ⟨s', does_command h rfl (hdo.trans hs), ?_⟩
    rw [hmil]
    exact ⟨rfl, rfl, rfl, fun x hx hlt hb => hdue x (mem hx hlt hb)⟩

/-! ## `part_free` (R105) -/

theorem doPartFree_held {s : State} {p : Nat} {P : Part} (hp : p < 64) (hP : Tbl.get? s.parts p = some P)
    (h : (∃ c ∈ s.ctxs, c.2.part = some p) ∨ s.uncommittedIn p = true ∨ s.holdsMemory p = true) : s.doPartFree p = answer 3 s := by
  refine (if_neg (partThere hp hP)).trans (if_pos ?_)
  rcases h with ⟨c, hc, hcp⟩ | h | h
  · simp only [Bool.or_eq_true, List.any_eq_true]
    exact .inl (.inl ⟨c, hc, decide_eq_true hcp⟩)
  · simp [h]
  · simp [h]

/-- The machine without a partition. -/
def State.withoutPart (s : State) (p : Nat) : State :=
  { s with parts := Tbl.del s.parts p, mil := { s.mil with vers := Tbl.put s.mil.vers p (s.part p).verNext } }

theorem doPartFree_frees {s : State} {p : Nat} {P : Part} (hp : p < 64) (hP : Tbl.get? s.parts p = some P)
    (hc : ∀ c ∈ s.ctxs, c.2.part ≠ some p) (hu : s.uncommittedIn p = false) (hm : s.holdsMemory p = false) :
    s.doPartFree p = answer 0 ((s.withoutPart p).gateFree (quarters (s.part p).cfg.quart)) := by
  refine (if_neg (partThere hp hP)).trans (if_neg ?_)
  simp only [Bool.or_eq_true, List.any_eq_true, hu, hm, Bool.false_eq_true, or_false]
  rintro ⟨c, hin, hcp⟩
  exact hc c hin (of_decide_eq_true hcp)

/-- R105: what `part_free` answers for a partition, and what is left without it. -/
theorem partFree_answers {s : State} {P : Part} (h : Idle s) (hp : s.arg.n0 < 64) (hP : Tbl.get? s.parts s.arg.n0 = some P) :
    ((∃ c ∈ s.ctxs, c.2.part = some s.arg.n0) ∨ s.uncommittedIn s.arg.n0 = true ∨ s.holdsMemory s.arg.n0 = true → Answers .partFree s 3 s) ∧
    ((∀ c ∈ s.ctxs, c.2.part ≠ some s.arg.n0) → s.uncommittedIn s.arg.n0 = false → s.holdsMemory s.arg.n0 = false → ∃ s1, Answers .partFree s 0 s1 ∧
      s1.parts = Tbl.del s.parts s.arg.n0 ∧ Tbl.get? s1.mil.vers s.arg.n0 = some P.verNext ∧ (s.fitting = .w9h → s1.power = s.power) ∧
      (s.fitting = .w9l → ∀ q ∈ quarters P.cfg.quart, s1.quarterOwned q = false → q ∈ s1.power.gated) ∧
      { s1 with parts := s.parts, power := s.power, mil := s.mil } = s) := by
  refine ⟨fun hheld => answers_command h rfl (doPartFree_held (s := busied s 0x15) hp hP hheld), fun hc hu hm => ?_⟩
  have hdo := doPartFree_frees (s := busied s 0x15) hp hP hc hu hm
  obtain ⟨g, hg, hsame, hmem⟩ := gateFree_eq ((busied s 0x15).withoutPart s.arg.n0) (quarters ((busied s 0x15).part s.arg.n0).cfg.quart)
  have hpart : (busied s 0x15).part s.arg.n0 = P := part_of_get? hP
  refine ⟨{ s.withoutPart s.arg.n0 with power := { s.power with gated := g } }, answers_command h rfl (hdo.trans (congrArg (answer 0) hg)), rfl, ?_,
    fun hw => by rw [hsame hw]; rfl, fun hw q hq hfree => (hmem q).2 (.inr ⟨hw, hpart ▸ hq, hfree⟩), rfl⟩
  exact (Tbl.get?_put_self ..).trans (congrArg (fun x => some (Part.verNext x)) (part_of_get? hP))

/-! ## Resets (R136, R137) -/

theorem killLaunches_none {s : State} (h : s.launches = []) (p : LHead → Bool) : s.killLaunches p = s := by
  simp [State.killLaunches, h]

/-- R136, R225: a reset ends a launch as killed, unless its commit prevails. -/
theorem killLaunch_eq {s : State} {lk : Nat} {l : Launch} (h : Tbl.get? s.launches lk = some l) :
    s.killLaunch lk = if l.abortable s.now = true then s.abortOne lk 0x51 2 else s := by
  simp [State.killLaunch, h]

/-- The machine with a partition being reset, its uncommitted launches killed. -/
def State.resettingPart (s : State) (p : Nat) : State := (s.killLaunches fun h => h.part = p).modPart p fun P => { P with resetting := true }
/-- R221: each locked entry is asked about. -/
def State.askLocked (s : State) (p : Nat) : State :=
  { s with
    ports := { s.ports with foreign := s.ports.foreign.map fun f => if f ∈ s.lockedFor p then { f with asked := some s.now } else f }
    outbox := s.outbox ++ (s.lockedFor p).map fun f => .query f.die f.part f.ver }

/-- The machine while a reset is waited for, of a partition or a context. -/
def State.waitingFor (s : State) (n : Nat) : State := { s with mil := { s.mil with waitPart := some n } }

theorem askLocked_none {s : State} {p : Nat} (h : s.lockedFor p = []) : s.askLocked p = s := by
  simp [State.askLocked, h]

theorem doPartReset_resets {s : State} {p : Nat} {P : Part} (hp : p < 64) (hP : Tbl.get? s.parts p = some P) :
    s.doPartReset p = (none, ((s.resettingPart p).askLocked p).waitingFor p) := by
  refine (if_neg (partThere hp hP)).trans ?_
  simp only [foldl_emit]
  rfl

/-- R136, R137, R221: `part_reset` kills the uncommitted launches and asks about every locked entry. -/
theorem partReset_runs {s : State} {P : Part} (h : Idle s) (hp : s.arg.n0 < 64) (hP : Tbl.get? s.parts s.arg.n0 = some P) :
    (((busied s 4).resettingPart s.arg.n0).lockedFor s.arg.n0 = [] → 
      Does .partReset s (((busied s 4).resettingPart s.arg.n0).waitingFor s.arg.n0)) ∧
    (s.launches = [] → ∃ s', Does .partReset s s' ∧ s'.mil.busy = true ∧ s'.mil.op = 4 ∧ s'.mil.waitPart = some s.arg.n0 ∧
      (s'.part s.arg.n0).resetting = true ∧ (∀ q, q ≠ s.arg.n0 → s'.part q = s.part q) ∧ s'.mem = s.mem ∧ s'.teams = s.teams ∧
      ∀ f ∈ s.lockedFor s.arg.n0, Msg.query f.die f.part f.ver ∈ s'.outbox) := by
  have hdoes : Does .partReset s ((((busied s 4).resettingPart s.arg.n0).askLocked s.arg.n0).waitingFor s.arg.n0) :=
    does_command h rfl (doPartReset_resets (s := busied s 4) hp hP)
  refine ⟨fun hl => ?_, fun hl => ⟨_, hdoes, ?_⟩⟩
  · rwa [askLocked_none hl] at hdoes
  · have hs : (busied s 4).resettingPart s.arg.n0 = { busied s 4 with parts := Tbl.put s.parts s.arg.n0 { P with resetting := true } } := by
      rw [State.resettingPart, killLaunches_none (s := busied s 4) hl, modPart_of_get? (s := busied s 4) hP]
      rfl
    rw [hs]
    refine ⟨rfl, rfl, rfl, ?_, fun q hq => ?_, rfl, rfl, fun f hf => ?_⟩
    · exact congrArg (fun x => (Option.getD x ({} : Part)).resetting) (Tbl.get?_put_self s.parts s.arg.n0 _)
    · exact congrArg (Option.getD · ({} : Part)) (Tbl.get?_put_ne s.parts s.arg.n0 q _ hq)
    · exact List.mem_append_right _ (List.mem_map_of_mem hf)

/-- A context whose reset begins, no launch being admitted and no other reset under way. -/
theorem resetCtx_first {s : State} {c kind : Nat} (hl : s.launches = []) (hr : (s.ctx c).resetting = none) :
    CtxChanged s (s.resetCtx c kind) c ∧ (s.resetCtx c kind).ctx c = { s.ctx c with resetting := some kind } := by
  rw [State.resetCtx, killLaunches_none hl]
  exact ⟨ctxChanged_modCtx .., by simp [hr]⟩

theorem doCtxUnasg_noCtx {s : State} {c : Nat} (hc : 1024 ≤ c) : s.doCtxUnasg c = answer 2 s := if_pos hc
theorem doCtxUnasg_free {s : State} {c : Nat} (hc : c < 1024) (hp : (s.ctx c).part = none) : s.doCtxUnasg c = answer 3 s :=
  (if_neg (Nat.not_le.2 hc)).trans (if_pos (Option.isNone_iff_eq_none.2 hp))
theorem doCtxUnasg_resets {s : State} {c : Nat} (hc : c < 1024) (hp : (s.ctx c).part.isSome = true) :
    s.doCtxUnasg c = (none, (s.resetCtx c 1).waitingFor c) :=
  (if_neg (Nat.not_le.2 hc)).trans (if_neg (Bool.eq_false_iff.1 (Option.isNone_eq_false_iff.2 hp)))

/-- R108, R136: what `ctx_unasg` does of an assigned context. -/
theorem ctxUnasg_answers {s : State} (h : Idle s) :
    (1024 ≤ s.arg.n0 → Answers .ctxUnasg s 2 s) ∧ (s.arg.n0 < 1024 → (s.ctx s.arg.n0).part = none → Answers .ctxUnasg s 3 s) ∧
    (s.arg.n0 < 1024 → (s.ctx s.arg.n0).part.isSome = true →
      Does .ctxUnasg s (((busied s 3).resetCtx s.arg.n0 1).waitingFor s.arg.n0) ∧
      ((s.ctx s.arg.n0).resetting = none → s.launches = [] → ∃ s', Does .ctxUnasg s s' ∧ s'.mil.busy = true ∧ s'.mil.op = 3 ∧
        s'.mil.waitPart = some s.arg.n0 ∧ s'.ctx s.arg.n0 = { s.ctx s.arg.n0 with resetting := some 1 } ∧ s'.mem = s.mem ∧ s'.teams = s.teams)) := by
  refine ⟨fun hc => answers_command h rfl (doCtxUnasg_noCtx hc), fun hc hp => answers_command h rfl (doCtxUnasg_free (s := busied s 3) hc hp),
    fun hc hp => ?_⟩
  have hdoes : Does .ctxUnasg s (((busied s 3).resetCtx s.arg.n0 1).waitingFor s.arg.n0) :=
    does_command h rfl (doCtxUnasg_resets (s := busied s 3) hc hp)
  refine ⟨hdoes, fun hr hl => ⟨_, hdoes, ?_⟩⟩
  obtain ⟨hchanged, hctx⟩ := resetCtx_first (s := busied s 3) (kind := 1) hl hr
  have kept {α : Type} (f : State → α) := congrArg f hchanged.eq
  exact ⟨kept (·.mil.busy), kept (·.mil.op), rfl, hctx, kept State.mem, kept State.teams⟩

/-- R136: a VF reset begins unless the context is being unassigned. -/
theorem vfReset_begins {s : State} (hc : s.arg.n0 < 1024) (hr : (s.ctx s.arg.n0).resetting ≠ some 1) : Does .vfReset s (s.resetCtx s.arg.n0 0) :=
  congrArg Host.Outcome.next (if_pos ⟨hc, hr⟩)
theorem vfReset_ignored {s : State} (h : 1024 ≤ s.arg.n0 ∨ (s.ctx s.arg.n0).resetting = some 1) : Does .vfReset s s := by
  refine congrArg Host.Outcome.next (if_neg ?_)
  rintro ⟨hc, hr⟩
  exact h.elim (Nat.not_le.2 hc) hr

/-! ## Viral mode (R81, R82, R86) -/

/-- R82: a detection writes the state of `detected`. -/
theorem viralDetect_eq (s : State) (p cause : Nat) :
    s.viralDetect p cause = s.modPart p fun P => { P with viral := some (detected s P cause) } := by
  refine congrArg (s.modPart p) (funext fun P => ?_)
  cases hv : P.viral with
  | none => simp [detected, hv]
  | some v =>
    change P = { P with viral := some ((P.viral).getD _) }
    rw [hv, Option.getD_some, ← hv]

theorem doViralSet_sets {s : State} {p : Nat} {P : Part} (hp : p < 64) (hP : Tbl.get? s.parts p = some P) :
    s.doViralSet p = answer 0 { s with parts := Tbl.put s.parts p { P with viral := some (detected s P 6) } } := by
  refine (if_neg (partThere hp hP)).trans (congrArg (answer 0) ?_)
  rw [viralDetect_eq, modPart_of_get? hP]

/-- R86: contexts of a partition no longer show viral mode. -/
def notViral (t : Tbl Ctx) (cs : List Nat) : Tbl Ctx := cs.foldl (fun t c => Tbl.upd t c {} fun x => { x with viral := false }) t
/-- R86: the machine with a partition's viral mode ended. -/
def State.viralEnded (s : State) (p : Nat) : State :=
  { (s.clearSources p).modPart p fun P => { P with viral := none, vblock := true } with ctxs := notViral s.ctxs (s.ctxsOf p) }

theorem notViral_viral {cs : List Nat} {c : Nat} (hc : c ∈ cs) (t : Tbl Ctx) : (Tbl.getD (notViral t cs) c {}).viral = false := by
  induction cs using List.reverseRecOn with
  | nil => simp at hc
  | append_singleton l x ih =>
    rw [notViral, List.foldl_append, List.foldl_cons, List.foldl_nil, Tbl.getD_upd]
    split_ifs with hx
    · rfl
    · exact ih (by simpa [hx] using hc)

theorem doViralClr_eq {s : State} {p : Nat} {P : Part} (hp : p < 64) (hP : Tbl.get? s.parts p = some P) :
    s.doViralClr p = match P.viral with
      | some v => if v.active = true then answer 0 (s.viralEnded p) else answer 3 s
      | none => answer 0 s := by
  refine (if_neg (partThere hp hP)).trans ?_
  rw [part_of_get? hP]
  simp only [foldl_modCtx]
  rfl

theorem mem_ctxsOf {s : State} {p c : Nat} {x : Ctx} (hx : Tbl.get? s.ctxs c = some x) (hp : x.part = some p) : c ∈ s.ctxsOf p :=
  List.mem_map.2 ⟨(c, x), List.mem_filter.2 ⟨mem_of_get? hx, decide_eq_true hp⟩, rfl⟩

/-- R81, R86: what `viral_set` and `viral_clr` answer for a partition. -/
theorem viralCommands_answer {s : State} {P : Part} (h : Idle s) (hp : s.arg.n0 < 64) (hP : Tbl.get? s.parts s.arg.n0 = some P) :
    Answers .viralSet s 0 { s with parts := Tbl.put s.parts s.arg.n0 { P with viral := some (detected s P 6) } } ∧
    (P.viral = none → Answers .viralClr s 0 s) ∧ (∀ v, P.viral = some v → v.active = false → Answers .viralClr s 3 s) ∧
    (∀ v, P.viral = some v → v.active = true → ∃ s1, Answers .viralClr s 0 s1 ∧ (s1.part s.arg.n0).viral = none ∧ (s1.part s.arg.n0).vblock = true ∧
      (∀ c x, Tbl.get? s.ctxs c = some x → x.part = some s.arg.n0 → (s1.ctx c).viral = false) ∧
      (∀ f ∈ s1.ports.fence, f ∈ s.ports.fence ∧ f.1 / 8 ≠ commitSrc s.arg.n0) ∧
      (∀ f ∈ s1.ports.epoch, f ∈ s.ports.epoch ∧ f.1 ≠ commitSrc s.arg.n0) ∧ s1.mem = s.mem ∧ s1.teams = s.teams ∧ s1.launches = s.launches) := by
  have hdo := doViralClr_eq (s := busied s 6) hp hP
  refine ⟨answers_command h rfl (doViralSet_sets (s := busied s 5) hp hP), fun hv => answers_command h rfl ?_, fun v hv ha => answers_command h rfl ?_,
    fun v hv ha => ⟨s.viralEnded s.arg.n0, answers_command h rfl (hdo.trans ?_), ?_⟩⟩
  · exact hdo.trans (by rw [hv])
  · refine hdo.trans ?_
    rw [hv]
    exact if_neg (Bool.eq_false_iff.1 ha)
  · rw [hv]
    exact if_pos ha
  · have hpart : (s.viralEnded s.arg.n0).part s.arg.n0 = { P with viral := none, vblock := true } := by
      simp [State.viralEnded, State.part, Tbl.getD, State.modPart, State.clearSources, hP]
    rw [hpart]
    refine ⟨rfl, rfl, fun c x hx hxp => notViral_viral (mem_ctxsOf hx hxp) s.ctxs, fun f hf => ?_, fun f hf => ?_, rfl, rfl, rfl⟩
    · obtain ⟨hin, hmine⟩ := List.mem_filter.1 (show f ∈ s.ports.fence.filter _ from hf)
      exact ⟨hin, fun he => by simp [he] at hmine⟩
    · obtain ⟨hin, hmine⟩ := List.mem_filter.1 (show f ∈ s.ports.epoch.filter _ from hf)
      exact ⟨hin, fun he => by simp [he] at hmine⟩

/-! ## `ways_shr` (R104) -/

/-- R104: a way that leaves the mask belongs to two partitions. -/
def State.wayTorn (s : State) (m : BitVec 16) : Prop :=
  ∃ w, w < 16 ∧ s.xlat.shways.getLsbD w = true ∧ m.getLsbD w = false ∧ 2 ≤ (s.parts.filter fun p => p.2.cfg.ways.getLsbD w).length
/-- R104: a way whose sharing changes is one of a partition with an uncommitted launch. -/
def State.wayHeld (s : State) (m : BitVec 16) : Prop :=
  ∃ q ∈ s.parts, q.2.cfg.ways &&& (s.xlat.shways ^^^ m) ≠ 0 ∧ s.uncommittedIn q.1 = true

theorem wayTorn_iff (s : State) (m : BitVec 16) : s.wayTorn m ↔ ((List.range 16).any fun w => (s.xlat.shways &&& ~~~m).getLsbD w &&
    decide (2 ≤ (s.parts.filter fun p => p.2.cfg.ways.getLsbD w).length)) = true := by
  simp only [State.wayTorn, List.any_eq_true, List.mem_range, Bool.and_eq_true, decide_eq_true_eq, BitVec.getLsbD_and, BitVec.getLsbD_not, Bool.not_eq_true']
  exact ⟨fun ⟨w, h16, ho, hm, h2⟩ => ⟨w, h16, ⟨ho, h16, hm⟩, h2⟩, fun ⟨w, h16, ⟨ho, _, hm⟩, h2⟩ => ⟨w, h16, ho, hm, h2⟩⟩
theorem wayHeld_iff (s : State) (m : BitVec 16) :
    s.wayHeld m ↔ (s.parts.any fun p => decide (p.2.cfg.ways &&& (s.xlat.shways ^^^ m) ≠ 0) && s.uncommittedIn p.1) = true := by
  simp [State.wayHeld]

theorem doWaysShr_range {s : State} {v : Nat} (hv : 2 ^ 16 ≤ v) : s.doWaysShr v = answer 2 s := if_pos hv
theorem doWaysShr_torn {s : State} {v : Nat} (hv : v < 2 ^ 16) (ht : s.wayTorn (BitVec.ofNat 16 v)) : s.doWaysShr v = answer 2 s :=
  (if_neg (Nat.not_le.2 hv)).trans (if_pos ((wayTorn_iff ..).1 ht))
theorem doWaysShr_held {s : State} {v : Nat} (hv : v < 2 ^ 16) (ht : ¬ s.wayTorn (BitVec.ofNat 16 v)) (hh : s.wayHeld (BitVec.ofNat 16 v)) :
    s.doWaysShr v = answer 3 s :=
  ((if_neg (Nat.not_le.2 hv)).trans (if_neg (mt (wayTorn_iff ..).2 ht))).trans (if_pos ((wayHeld_iff ..).1 hh))
theorem doWaysShr_sets {s : State} {v : Nat} (hv : v < 2 ^ 16) (ht : ¬ s.wayTorn (BitVec.ofNat 16 v)) (hh : ¬ s.wayHeld (BitVec.ofNat 16 v)) :
    s.doWaysShr v = answer 0 { s with xlat := { s.xlat with shways := BitVec.ofNat 16 v } } :=
  ((if_neg (Nat.not_le.2 hv)).trans (if_neg (mt (wayTorn_iff ..).2 ht))).trans (if_neg (mt (wayHeld_iff ..).2 hh))

/-- R104: what `ways_shr` answers. -/
theorem waysShr_answers {s : State} (h : Idle s) :
    (2 ^ 16 ≤ s.arg.v.toNat → Answers .waysShr s 2 s) ∧
    (s.arg.v.toNat < 2 ^ 16 → s.wayTorn (BitVec.ofNat 16 s.arg.v.toNat) → Answers .waysShr s 2 s) ∧
    (s.arg.v.toNat < 2 ^ 16 → ¬ s.wayTorn (BitVec.ofNat 16 s.arg.v.toNat) →
      (s.wayHeld (BitVec.ofNat 16 s.arg.v.toNat) → Answers .waysShr s 3 s) ∧
      (¬ s.wayHeld (BitVec.ofNat 16 s.arg.v.toNat) →
        Answers .waysShr s 0 { s with xlat := { s.xlat with shways := BitVec.ofNat 16 s.arg.v.toNat } })) :=
  ⟨fun hv => answers_command h rfl (doWaysShr_range (s := busied s 0x14) hv),
    fun hv ht => answers_command h rfl (doWaysShr_torn (s := busied s 0x14) hv ht), fun hv ht =>
    ⟨fun hh => answers_command h rfl (doWaysShr_held (s := busied s 0x14) hv ht hh),
      fun hh => answers_command h rfl (doWaysShr_sets (s := busied s 0x14) hv ht hh)⟩⟩

/-! ## `ctx_assign` (R100, R112) -/

/-- R100, R261: the memory charged to a partition once a context has its save area there. -/
def State.saveNeed (s : State) (c p : Nat) : Nat :=
  (s.modCtx c fun x => { x with part := none, saveArea := 0 }).charged p + popc (s.part p).cfg.quart.toNat 384 * 2 ^ 20
/-- R100: a context of a partition, which shows its viral mode in effect. -/
def State.assigned (s : State) (c p : Nat) : Ctx :=
  let live := (s.part p).viral.filter Viral.active
  { s.ctx c with
    part := some p, fresh := false, saveArea := popc (s.part p).cfg.quart.toNat 384, ctab := none
    viral := live.isSome, vcause := (live.map Viral.cause).getD 0, vtime := (live.map Viral.tv).getD 0 }
/-- R100: the machine with a context assigned, first taken from where it was. -/
def State.assign (s : State) (c p : Nat) : State :=
  (s.modCtx c fun x => { x with part := none, saveArea := 0 }).modCtx c fun _ => s.assigned c p

theorem ctxChanged_assign (s : State) (c p : Nat) : CtxChanged s (s.assign c p) c ∧ (s.assign c p).ctx c = s.assigned c p :=
  ⟨⟨fun j hj => by simp [State.assign, State.modCtx, hj], rfl⟩, modCtx_ctx ..⟩

theorem modCtx_congr {s : State} {c : Nat} {f g : Ctx → Ctx} (h : f (s.ctx c) = g (s.ctx c)) : s.modCtx c f = s.modCtx c g :=
  congrArg (fun x => ({ s with ctxs := Tbl.put s.ctxs c x } : State)) h

theorem doCtxAssign_none {s : State} {c p : Nat} (h : 1024 ≤ c ∨ 64 ≤ p ∨ s.hasPart p = false) : s.doCtxAssign c p = answer 2 s := by
  refine if_pos ?_
  rcases h with h | h | h <;> simp [partNo, h]

theorem doCtxAssign_eq {s : State} {c p : Nat} (hc : c < 1024) (hp : p < 64) (hpart : s.hasPart p = true) : s.doCtxAssign c p =
    if ((s.ctx c).part.isSome && !(s.ctx c).fresh) = true then answer 3 s
    else if (s.part p).cfg.quota * 2 ^ 21 < s.saveNeed c p then answer 5 s
    else answer 0 (s.assign c p) := by
  refine (if_neg (by simp [partNo, hc, hp, hpart])).trans ?_
  refine ite_congr rfl (fun _ => rfl) fun _ => ite_congr rfl (fun _ => rfl) fun _ => congrArg (answer 0) (modCtx_congr ?_)
  rw [modCtx_ctx, State.assigned]
  cases (s.part p).viral.filter Viral.active <;> rfl

/-- R100, R112, R261: what `ctx_assign` answers. -/
theorem ctxAssign_answers {s : State} (h : Idle s) :
    (1024 ≤ s.arg.n0 ∨ 64 ≤ s.arg.n1 ∨ s.hasPart s.arg.n1 = false → Answers .ctxAssign s 2 s) ∧
    (s.arg.n0 < 1024 → s.arg.n1 < 64 → s.hasPart s.arg.n1 = true →
      ((s.ctx s.arg.n0).part.isSome = true → (s.ctx s.arg.n0).fresh = false → Answers .ctxAssign s 3 s) ∧
      ((s.ctx s.arg.n0).part = none ∨ (s.ctx s.arg.n0).fresh = true →
        ((s.part s.arg.n1).cfg.quota * 2 ^ 21 < s.saveNeed s.arg.n0 s.arg.n1 → Answers .ctxAssign s 5 s) ∧
        (s.saveNeed s.arg.n0 s.arg.n1 ≤ (s.part s.arg.n1).cfg.quota * 2 ^ 21 → ∃ s1, Answers .ctxAssign s 0 s1 ∧ CtxChanged s s1 s.arg.n0 ∧
          s1.ctx s.arg.n0 = s.assigned s.arg.n0 s.arg.n1))) := by
  refine ⟨fun hn => answers_command h rfl (doCtxAssign_none (s := busied s 2) hn), fun hc hp hpart => ?_⟩
  have hdo := doCtxAssign_eq (s := busied s 2) hc hp hpart
  refine ⟨fun hs hf => answers_command h rfl (hdo.trans (if_pos ?_)), fun hfree => ?_⟩
  · exact Bool.and_eq_true_iff.2 ⟨hs, (Bool.not_eq_true' _).mpr hf⟩
  · have hgo : ¬ (((busied s 2).ctx s.arg.n0).part.isSome && !((busied s 2).ctx s.arg.n0).fresh) = true := by
      change ¬ ((s.ctx s.arg.n0).part.isSome && !(s.ctx s.arg.n0).fresh) = true
      rcases hfree with hf | hf <;> simp [hf]
    exact ⟨fun hq => answers_command h rfl ((hdo.trans (if_neg hgo)).trans (if_pos hq)), fun hq =>
      ⟨s.assign s.arg.n0 s.arg.n1, answers_command h rfl ((hdo.trans (if_neg hgo)).trans (if_neg (Nat.not_lt.2 hq))), ctxChanged_assign ..⟩⟩

/-! ## The statement -/

theorem partMissing_answers {s : State} (h : Idle s) (hp : 64 ≤ s.arg.n0 ∨ s.hasPart s.arg.n0 = false) :
    Answers .partFree s 2 s ∧ Answers .partReset s 2 s ∧ Answers .viralSet s 2 s ∧ Answers .viralClr s 2 s :=
  have missing (op : Nat) : (!partNo s.arg.n0 || !(busied s op).hasPart s.arg.n0) = true := partMissing hp
  ⟨answers_command h rfl (if_pos (missing _)), answers_command h rfl (if_pos (missing _)), answers_command h rfl (if_pos (missing _)),
    answers_command h rfl (if_pos (missing _))⟩

theorem partitionCommands_turnedAway (s : State) :
    ∀ i ∈ [Instr.partCfg, .partFree, .waysShr, .ctxAssign, .ctxUnasg, .partReset, .viralSet, .viralClr], TurnedAway i s := by
  simp only [List.forall_mem_cons, List.not_mem_nil, false_imp_iff, implies_true, and_true]
  exact ⟨turnedAway_command rfl, turnedAway_command rfl, turnedAway_command rfl, turnedAway_command rfl, turnedAway_command rfl,
    turnedAway_command rfl, turnedAway_command rfl, turnedAway_command rfl⟩

/-- Settles O45: each command is one lemma above on what it answers. -/
theorem partitionCommands : Obligations.PartitionCommands := by
  unfold Obligations.PartitionCommands
  intro s
  refine ⟨partitionCommands_turnedAway s, fun h => ?_, fun hc hr => ⟨vfReset_begins hc hr, fun hn hl => ?_⟩, vfReset_ignored,
    fun lk l hl => killLaunch_eq hl⟩
  · obtain ⟨hno, hheld, hout⟩ := partCfg_refused h
    obtain ⟨hshr, htorn, hways⟩ := waysShr_answers h
    obtain ⟨hnone, hassign⟩ := ctxAssign_answers h
    obtain ⟨hnoctx, hfree, hunasg⟩ := ctxUnasg_answers h
    refine ⟨hno, hheld, hout, fun hp ht ha => ?_, partMissing_answers h, fun P hp hP => ?_, hshr, htorn, fun hv ht => ?_, hnone, hassign,
      hnoctx, hfree, hunasg⟩
    · obtain ⟨hbad, hch⟩ := partCfg_checked h hp ht ha
      refine ⟨hbad, hch, fun hgood hfree => ?_⟩
      obtain ⟨hnow, hwaits, hungates⟩ :=
        partCfg_applied h (partRec (s.recordAt s.arg.n1)) (doPartCfg_applies (s := busied s 1) hp ht ha hgood hfree)
      refine ⟨hnow, fun hw hq => ?_, hungates⟩
      obtain ⟨s', hdoes, hbusy, hop, hstatus, hwq, hwp, hpart⟩ := hwaits hw hq
      exact ⟨s', hdoes, hbusy, hop, hstatus, hwq, hwp, congrArg Part.cfg hpart, congrArg Part.next hpart⟩
    · obtain ⟨hf3, hf0⟩ := partFree_answers h hp hP
      obtain ⟨hreset, hreset0⟩ := partReset_runs h hp hP
      exact ⟨hf3, hf0, hreset, hreset0, viralCommands_answer h hp hP⟩
    · obtain ⟨hheld, hset⟩ := hways hv fun ⟨w, h16, ho, hm, h2⟩ => Nat.not_le.2 (ht w h16 ho hm) h2
      exact ⟨hheld, fun hall => hset fun ⟨q, hq, hne, hu⟩ => (hall q hq).elim hne (Bool.eq_false_iff.1 · hu)⟩
  · exact ⟨_, vfReset_begins hc hr, resetCtx_first hl hn⟩

end Sys2Proof.Machine
end

section
/-! PROOFS. Commands on keys, images, vectors, ports and masters (R51, R67, R96, R127, R139 to R146), SPDM and TDI events (R140 to R143),
regions and tags (R57, R64): O46. -/

namespace Sys2Proof.Machine

/-! ## `key_gen` and `key_load` (R139 to R141) -/

theorem doKeyGen_held {s : State} {p : Nat} (hp : p < 64) (h : s.holdsMemory p = true ∨ s.tdiHeld p = true) : s.doKeyGen p = answer 3 s :=
  (if_neg (by simp [partNo, hp])).trans (if_pos (Bool.or_eq_true_iff.2 h))
theorem doKeyGen_fills {s : State} {p : Nat} (hp : p < 64) (hm : s.holdsMemory p = false) (ht : s.tdiHeld p = false) :
    s.doKeyGen p = answer 0 { s with mil := { s.mil with
      slots := Tbl.put s.mil.slots p (Config.freshKey s.mil.keyGens), keyGens := s.mil.keyGens + 1 } } :=
  (if_neg (by simp [partNo, hp])).trans (if_neg (by simp [hm, ht]))

theorem doKeyLoad_held {s : State} {p n : Nat} (hp : p < 64) (h : s.holdsMemory p = true ∨ s.tdiHeld p = true) : s.doKeyLoad p n = answer 3 s :=
  (if_neg (by simp [partNo, hp])).trans (if_pos (Bool.or_eq_true_iff.2 h))
/-- R140: what a session has sent for a partition that may take keys. -/
theorem doKeyLoad_eq {s : State} {p n : Nat} (hp : p < 64) (hm : s.holdsMemory p = false) (ht : s.tdiHeld p = false) :
    s.doKeyLoad p n = match Tbl.get? s.mil.sess n with
      | none => answer 2 s
      | some false => answer 4 s
      | some true => match Tbl.get? s.mil.tkeys (64 * n + p) with
        | some k => answer 0 { s with mil := { s.mil with slots := Tbl.put s.mil.slots p k } }
        | none => answer 3 s :=
  ((if_neg (by simp [partNo, hp])).trans (if_neg (by simp [hm, ht]))).trans (by rfl)

theorem keys_refused {s : State} (h : Idle s) :
    (64 ≤ s.arg.n0 → Answers .keyGen s 2 s ∧ Answers .keyLoad s 2 s) ∧
    (s.arg.n0 < 64 → s.holdsMemory s.arg.n0 = true ∨ s.tdiHeld s.arg.n0 = true → Answers .keyGen s 3 s ∧ Answers .keyLoad s 3 s) := by
  refine ⟨fun hp => ?_, fun hp hh => ⟨answers_command h rfl (doKeyGen_held (s := busied s 7) hp hh),
    answers_command h rfl (doKeyLoad_held (s := busied s 8) hp hh)⟩⟩
  have hno : (!partNo s.arg.n0) = true := by simp [partNo, hp]
  exact ⟨answers_command h rfl (if_pos hno), answers_command h rfl (if_pos hno)⟩

/-- R139, R140: the key slot of a partition without memory and locked TDI is filled, unless the session lacks its keys. -/
theorem keys_fill {s : State} (h : Idle s) (hp : s.arg.n0 < 64) (hm : s.holdsMemory s.arg.n0 = false) (ht : s.tdiHeld s.arg.n0 = false) :
    (∃ k, Answers .keyGen s 0 { s with mil := { s.mil with slots := Tbl.put s.mil.slots s.arg.n0 k, keyGens := s.mil.keyGens + 1 } }) ∧
    (Tbl.get? s.mil.sess s.arg.n1 = none → Answers .keyLoad s 2 s) ∧ (Tbl.get? s.mil.sess s.arg.n1 = some false → Answers .keyLoad s 4 s) ∧
    (Tbl.get? s.mil.sess s.arg.n1 = some true → Tbl.get? s.mil.tkeys (64 * s.arg.n1 + s.arg.n0) = none → Answers .keyLoad s 3 s) ∧
    (∀ k, Tbl.get? s.mil.sess s.arg.n1 = some true → Tbl.get? s.mil.tkeys (64 * s.arg.n1 + s.arg.n0) = some k →
      Answers .keyLoad s 0 { s with mil := { s.mil with slots := Tbl.put s.mil.slots s.arg.n0 k } }) := by
  have hdo := doKeyLoad_eq (s := busied s 8) (n := s.arg.n1) hp hm ht
  have hsess : (busied s 8).mil.sess = s.mil.sess := rfl
  have htkeys : (busied s 8).mil.tkeys = s.mil.tkeys := rfl
  rw [hsess, htkeys] at hdo
  exact ⟨⟨_, answers_command h rfl (doKeyGen_fills (s := busied s 7) hp hm ht)⟩,
    fun hs => answers_command h rfl (hdo.trans (by rw [hs])), fun hs => answers_command h rfl (hdo.trans (by rw [hs])),
    fun hs hk => answers_command h rfl (hdo.trans (by rw [hs, hk])), fun k hs hk => answers_command h rfl (hdo.trans (by rw [hs, hk]; rfl))⟩

/-! ## Images (R144 to R146) -/

/-- The machine without an image of a partition. -/
def State.dropImage (s : State) (p i : Nat) : State := s.modPart p fun P => { P with images := Tbl.del P.images i }
/-- R144: the machine with an image in a partition's table. -/
def State.addImage (s : State) (p i : Nat) (m : Image) : State := (s.dropImage p i).modPart p fun P => { P with images := Tbl.put P.images i m }

theorem imagePut_addImage (s : State) (p i : Nat) (m : Image) : ImagePut s (s.addImage p i m) p i m := by
  refine ⟨fun P hP => ?_, fun q hq => (part_modPart_ne hq _).trans (part_modPart_ne hq _), rfl⟩
  have hpart : (s.addImage p i m).part p = { P with images := Tbl.put (Tbl.del P.images i) i m } := by
    simp [State.addImage, State.dropImage, State.part, Tbl.getD, State.modPart, hP]
  rw [hpart]
  exact ⟨Tbl.get?_put_self .., fun j hj => by simp [hj]⟩

theorem putImage_none {s : State} {p i : Nat} {bs : List Byte} {ok : Image → Bool} (h : imageOf bs = none) : s.putImage p i bs ok = answer 2 s := by
  unfold State.putImage
  rw [h]
/-- R144: an image is charged to what the quota has left without the one in its place. -/
theorem putImage_some {s : State} {p i : Nat} {bs : List Byte} {ok : Image → Bool} {m : Image} (h : imageOf bs = some m) :
    s.putImage p i bs ok = if (!ok m) = true then answer 4 s else if (s.dropImage p i).quotaLeft p < m.len then answer 5 s
      else answer 0 (s.addImage p i m) := by
  unfold State.putImage
  rw [h]
  rfl

theorem doImgReg_w9l {s : State} {p i a n : Nat} (hw : s.fitting = .w9l) : s.doImgReg p i a n = answer 6 s := if_pos hw
theorem doImgReg_w9h {s : State} {p i a n : Nat} (hw : s.fitting = .w9h) : s.doImgReg p i a n =
    if s.imageArgs p i = false then answer 2 s
    else if (s.tdiHeld p || s.imageInUse p i) = true then answer 3 s
    else (s.pfBytes a n).elim (answer 2 s) fun bs => s.putImage p i bs fun _ => true := by
  simp only [State.doImgReg, hw, reduceCtorEq, if_false, Bool.not_eq_true']
  cases s.pfBytes a n <;> rfl

theorem doImgRm_eq (s : State) (p i : Nat) : s.doImgRm p i =
    if s.imageArgs p i = false then answer 2 s
    else if (s.tdiHeld p || s.imageInUse p i) = true then answer 3 s
    else answer 0 (s.dropImage p i) := by
  simp only [State.doImgRm, State.dropImage, Bool.not_eq_true']

/-- R145: the partition's own pages, as `img_inst` checks them. -/
theorem ownsRange_iff (s : State) (p a n : Nat) : ownsRange s p a n ↔
    (decide (a + n ≤ s.localTop) && (List.range (n / 4096 + 2)).all fun j => s.ownsAt p (min (a + 4096 * j) (a + n - 1))) = true := by
  simp [ownsRange]

/-- R145: the image's signature is that of a tenant key. -/
def State.signed (s : State) (p key sig : Nat) (m : Image) : Bool :=
  match Tbl.get? (s.part p).tkeys key with | some k => Config.sigOk k m.digest (memNat s.mem sig 384) | none => false

theorem doImgInst_refused {s : State} {p i a n sig key : Nat} (h : s.imageArgs p i = false ∨ 4 ≤ key ∨ ¬ ownsRange s p a n ∨ ¬ ownsRange s p sig 384) :
    s.doImgInst p i a n sig key = answer 2 s := by
  simp only [ownsRange_iff] at h
  refine if_pos ?_
  simp only [Bool.or_eq_true, Bool.not_eq_true', ← Bool.not_eq_true, decide_eq_true_eq, or_assoc]
  simpa only [Bool.not_eq_true] using h

theorem doImgInst_eq {s : State} {p i a n sig key : Nat} (hi : s.imageArgs p i = true) (hk : key < 4) (ha : ownsRange s p a n)
    (hs : ownsRange s p sig 384) : s.doImgInst p i a n sig key =
      if s.imageInUse p i = true then answer 3 s else s.putImage p i (memBytes s.mem a n) (s.signed p key sig) := by
  rw [ownsRange_iff] at ha hs
  refine (if_neg ?_).trans rfl
  simp only [Bool.or_eq_true, Bool.not_eq_true', decide_eq_true_eq, hi, ha, hs, Nat.not_le.2 hk]
  decide

/-- R146: no image command takes a partition or an index that is not there. -/
theorem images_noArgs {s : State} (h : Idle s) (ha : s.imageArgs s.arg.n0 s.arg.n1 = false) :
    (s.fitting = .w9h → Answers .imgReg s 2 s) ∧ Answers .imgInst s 2 s ∧ Answers .imgRm s 2 s :=
  ⟨fun hw => answers_command h rfl ((doImgReg_w9h (s := busied s 9) hw).trans (if_pos ha)),
    answers_command h rfl (doImgInst_refused (s := busied s 0xA) (.inl ha)), answers_command h rfl ((doImgRm_eq (busied s 0xB) ..).trans (if_pos ha))⟩

/-- R141, R146: `img_reg` and `img_rm` answer 3 while the index is in use, or the partition's TDI is locked. -/
theorem images_held {s : State} (h : Idle s) (ha : s.imageArgs s.arg.n0 s.arg.n1 = true)
    (hheld : s.tdiHeld s.arg.n0 = true ∨ s.imageInUse s.arg.n0 s.arg.n1 = true) :
    (s.fitting = .w9h → Answers .imgReg s 3 s) ∧ Answers .imgRm s 3 s := by
  have hno (op : Nat) : ¬ (busied s op).imageArgs s.arg.n0 s.arg.n1 = false := (Bool.eq_false_iff.1 · ha)
  have hor := Bool.or_eq_true_iff.2 hheld
  exact ⟨fun hw => answers_command h rfl (((doImgReg_w9h (s := busied s 9) hw).trans (if_neg (hno 9))).trans (if_pos hor)),
    answers_command h rfl (((doImgRm_eq (busied s 0xB) ..).trans (if_neg (hno 0xB))).trans (if_pos hor))⟩

/-- R144, R146: what `img_rm` and `img_reg` do of an index that is free. -/
theorem images_free {s : State} (h : Idle s) (ha : s.imageArgs s.arg.n0 s.arg.n1 = true) (ht : s.tdiHeld s.arg.n0 = false)
    (hu : s.imageInUse s.arg.n0 s.arg.n1 = false) :
    (∃ s1, Answers .imgRm s 0 s1 ∧ Tbl.get? (s1.part s.arg.n0).images s.arg.n1 = none ∧ (∀ q, q ≠ s.arg.n0 → s1.part q = s.part q) ∧
      { s1 with parts := s.parts } = s) ∧
    (s.fitting = .w9h →
      (s.localTop < s.arg.n2 + s.arg.n3 → Answers .imgReg s 2 s) ∧
      (s.arg.n2 + s.arg.n3 ≤ s.localTop → imageOf (memBytes s.mem s.arg.n2 s.arg.n3) = none → Answers .imgReg s 2 s) ∧
      (∀ x, s.arg.n2 + s.arg.n3 ≤ s.localTop → imageOf (memBytes s.mem s.arg.n2 s.arg.n3) = some x →
        ((s.dropImage s.arg.n0 s.arg.n1).quotaLeft s.arg.n0 < x.len → Answers .imgReg s 5 s) ∧
        (x.len ≤ (s.dropImage s.arg.n0 s.arg.n1).quotaLeft s.arg.n0 → ∃ s1, Answers .imgReg s 0 s1 ∧ ImagePut s s1 s.arg.n0 s.arg.n1 x))) := by
  have hno (op : Nat) : ¬ (busied s op).imageArgs s.arg.n0 s.arg.n1 = false := (Bool.eq_false_iff.1 · ha)
  have hor (op : Nat) : ¬ ((busied s op).tdiHeld s.arg.n0 || (busied s op).imageInUse s.arg.n0 s.arg.n1) = true := by
    rw [show (busied s op).tdiHeld s.arg.n0 = false from ht, show (busied s op).imageInUse s.arg.n0 s.arg.n1 = false from hu]
    decide
  refine ⟨⟨s.dropImage s.arg.n0 s.arg.n1, answers_command h rfl (((doImgRm_eq (busied s 0xB) ..).trans (if_neg (hno 0xB))).trans (if_neg (hor 0xB))), ?_,
    fun q hq => part_modPart_ne hq _, rfl⟩, fun hw => ?_⟩
  · cases hP : Tbl.get? s.parts s.arg.n0 <;> simp [State.dropImage, State.modPart, State.part, Tbl.getD, hP]
  · have hdo := ((doImgReg_w9h (s := busied s 9) (p := s.arg.n0) (i := s.arg.n1) (a := s.arg.n2) (n := s.arg.n3) hw).trans
      (if_neg (hno 9))).trans (if_neg (hor 9))
    refine ⟨fun hout => answers_command h rfl (hdo.trans ?_), fun hin hnone => answers_command h rfl (hdo.trans ?_), fun x hin hsome => ?_⟩
    · rw [pfBytes_outside (s := busied s 9) hout, Option.elim_none]
    · rw [pfBytes_inside (s := busied s 9) hin]
      exact putImage_none hnone
    · rw [pfBytes_inside (s := busied s 9) hin] at hdo
      have hput := (hdo.trans (putImage_some hsome)).trans (if_neg (by decide))
      exact ⟨fun hq => answers_command h rfl (hput.trans (if_pos hq)), fun hq =>
        ⟨s.addImage s.arg.n0 s.arg.n1 x, answers_command h rfl (hput.trans (if_neg (Nat.not_lt.2 hq))), imagePut_addImage ..⟩⟩

/-- R145: what `img_inst` does of ranges in the partition's own pages. -/
theorem imgInst_answers {s : State} (h : Idle s) (hi : s.imageArgs s.arg.n0 s.arg.n1 = true) (hk : s.arg.n5 < 4)
    (ha : ownsRange s s.arg.n0 s.arg.n2 s.arg.n3) (hs : ownsRange s s.arg.n0 s.arg.n4 384) :
    (s.imageInUse s.arg.n0 s.arg.n1 = true → Answers .imgInst s 3 s) ∧
    (s.imageInUse s.arg.n0 s.arg.n1 = false →
      (imageOf (memBytes s.mem s.arg.n2 s.arg.n3) = none → Answers .imgInst s 2 s) ∧
      (∀ x, imageOf (memBytes s.mem s.arg.n2 s.arg.n3) = some x →
        (s.signed s.arg.n0 s.arg.n5 s.arg.n4 x = false → Answers .imgInst s 4 s) ∧
        (s.signed s.arg.n0 s.arg.n5 s.arg.n4 x = true → (s.dropImage s.arg.n0 s.arg.n1).quotaLeft s.arg.n0 < x.len → Answers .imgInst s 5 s) ∧
        (s.signed s.arg.n0 s.arg.n5 s.arg.n4 x = true → x.len ≤ (s.dropImage s.arg.n0 s.arg.n1).quotaLeft s.arg.n0 →
          ∃ s1, Answers .imgInst s 0 s1 ∧ ImagePut s s1 s.arg.n0 s.arg.n1 x))) := by
  have hdo := doImgInst_eq (s := busied s 0xA) hi hk ha hs
  refine ⟨fun hu => answers_command h rfl (hdo.trans (if_pos hu)), fun hu => ?_⟩
  replace hdo := hdo.trans (if_neg (Bool.eq_false_iff.1 hu))
  refine ⟨fun hnone => answers_command h rfl (hdo.trans (putImage_none hnone)), fun x hsome => ?_⟩
  replace hdo := hdo.trans (putImage_some hsome)
  have signed {b : Bool} (hb : s.signed s.arg.n0 s.arg.n5 s.arg.n4 x = b) : (busied s 0xA).signed s.arg.n0 s.arg.n5 s.arg.n4 x = b := hb
  refine ⟨fun hb => answers_command h rfl (hdo.trans (if_pos ?_)), fun hb hq => answers_command h rfl ((hdo.trans (if_neg ?_)).trans (if_pos hq)),
    fun hb hq => ⟨s.addImage s.arg.n0 s.arg.n1 x, answers_command h rfl ((hdo.trans (if_neg ?_)).trans (if_neg (Nat.not_lt.2 hq))),
      imagePut_addImage ..⟩⟩ <;> rw [signed hb] <;> decide

/-! ## `tkey_reg`, `vec_asg` and `bifurc` (R51, R127, R145) -/

theorem doTkeyReg_refused {s : State} {p n a : Nat} (hw : s.fitting = .w9l) (h : 64 ≤ p ∨ s.hasPart p = false ∨ 4 ≤ n ∨ s.localTop < a + 384) :
    s.doTkeyReg p n a = answer 2 s := by
  refine (if_neg (by simp [hw])).trans ?_
  by_cases hargs : (!partNo p || !s.hasPart p || decide (n ≥ 4)) = true
  · exact if_pos hargs
  · have hout : s.localTop < a + 384 := by
      simp only [partNo, Bool.or_eq_true, Bool.not_eq_true', decide_eq_false_iff_not, decide_eq_true_eq, not_or, not_not, Bool.not_eq_false] at hargs
      obtain ⟨⟨hp, hpart⟩, hn⟩ := hargs
      rcases h with h | h | h | h
      · omega
      · simp [hpart] at h
      · omega
      · exact h
    refine (if_neg hargs).trans ?_
    rw [pfBytes_outside hout]
theorem doTkeyReg_writes {s : State} {p n a : Nat} {P : Part} (hw : s.fitting = .w9l) (hp : p < 64) (hn : n < 4) (ha : a + 384 ≤ s.localTop)
    (hP : Tbl.get? s.parts p = some P) : s.doTkeyReg p n a =
      answer 0 { s with parts := Tbl.put s.parts p { P with tkeys := Tbl.put P.tkeys n (leNat (memBytes s.mem a 384)) } } := by
  refine ((if_neg (by simp [hw])).trans (if_neg (by simp [partNo, hp, State.hasPart, hP, hn]))).trans ?_
  rw [pfBytes_inside ha]
  exact congrArg (answer 0) (modPart_of_get? hP _)

/-- R145: what `tkey_reg` answers. -/
theorem tkeyReg_answers {s : State} (h : Idle s) :
    (s.fitting = .w9h → Answers .tkeyReg s 6 s) ∧
    (s.fitting = .w9l → 64 ≤ s.arg.n0 ∨ s.hasPart s.arg.n0 = false ∨ 4 ≤ s.arg.n1 ∨ s.localTop < s.arg.n2 + 384 → Answers .tkeyReg s 2 s) ∧
    (∀ P, s.fitting = .w9l → s.arg.n0 < 64 → s.arg.n1 < 4 → s.arg.n2 + 384 ≤ s.localTop → Tbl.get? s.parts s.arg.n0 = some P →
      Answers .tkeyReg s 0
        { s with parts := Tbl.put s.parts s.arg.n0 { P with tkeys := Tbl.put P.tkeys s.arg.n1 (leNat (memBytes s.mem s.arg.n2 384)) } }) :=
  ⟨fun hw => answers_command h rfl (if_pos (show (busied s 0xC).fitting ≠ .w9l by rw [show (busied s 0xC).fitting = .w9h from hw]; decide)),
    fun hw hno => answers_command h rfl (doTkeyReg_refused (s := busied s 0xC) hw hno),
    fun _ hw hp hn ha hP => answers_command h rfl (doTkeyReg_writes (s := busied s 0xC) hw hp hn ha hP)⟩

/-- R127: the vectors 32 to 2,047 that no other context has, the lowest first. -/
def State.freeVecs (s : State) (c : Nat) : List Nat :=
  ((List.range 2016).map (· + 32)).filter fun v => v ∉ (s.ctxs.filter fun x => x.1 ≠ c).flatMap fun x => x.2.vecs

theorem doVecAsg_refused {s : State} {c n : Nat} (h : 1024 ≤ c ∨ 16 < n) : s.doVecAsg c n = answer 2 s :=
  if_pos (by rcases h with h | h <;> simp [h])
theorem doVecAsg_eq {s : State} {c n : Nat} (hc : c < 1024) (hn : n ≤ 16) : s.doVecAsg c n =
    if (s.freeVecs c).length < n then answer 5 s else answer 0 (s.modCtx c fun x => { x with vecs := (s.freeVecs c).take n }) :=
  if_neg (by simp [hc, hn])

/-- R127: what `vec_asg` answers. -/
theorem vecAsg_answers {s : State} (h : Idle s) :
    (1024 ≤ s.arg.n0 ∨ 16 < s.arg.n1 → Answers .vecAsg s 2 s) ∧
    (s.arg.n0 < 1024 → s.arg.n1 ≤ 16 →
      ((s.freeVecs s.arg.n0).length < s.arg.n1 → Answers .vecAsg s 5 s) ∧
      (s.arg.n1 ≤ (s.freeVecs s.arg.n0).length → ∃ s1, Answers .vecAsg s 0 s1 ∧ CtxChanged s s1 s.arg.n0 ∧
        s1.ctx s.arg.n0 = { s.ctx s.arg.n0 with vecs := (s.freeVecs s.arg.n0).take s.arg.n1 })) := by
  refine ⟨fun hno => answers_command h rfl (doVecAsg_refused (s := busied s 0xD) hno), fun hc hn => ?_⟩
  have hdo := doVecAsg_eq (s := busied s 0xD) hc hn
  exact ⟨fun hf => answers_command h rfl (hdo.trans (if_pos hf)), fun hf =>
    ⟨s.modCtx s.arg.n0 fun x => { x with vecs := (s.freeVecs s.arg.n0).take s.arg.n1 }, answers_command h rfl (hdo.trans (if_neg (Nat.not_lt.2 hf))),
      ctxChanged_modCtx .., modCtx_ctx ..⟩⟩

/-- R51: the ports to be bifurcated at the next reset. -/
def State.bifPorts (s : State) (port : Nat) (two : Bool) : List Nat :=
  if two = true then s.mil.bifNext.filter (· ≠ port) ++ [port] else s.mil.bifNext.filter (· ≠ port)

theorem mem_bifPorts (s : State) (port : Nat) (two : Bool) (x : Nat) :
    x ∈ s.bifPorts port two ↔ (x = port ∧ two = true) ∨ (x ≠ port ∧ x ∈ s.mil.bifNext) := by
  unfold State.bifPorts
  cases two
  · simp [and_comm]
  · simp [and_comm, or_comm]

theorem doBifurc_sets {s : State} {port : Nat} {two : Bool} (hp : port < 4) (h : port ≠ 0 ∨ s.fitting = .w9l) :
    s.doBifurc port two = answer 0 { s with mil := { s.mil with bifNext := s.bifPorts port two } } := by
  refine (if_neg (Nat.not_le.2 hp)).trans (if_neg ?_)
  rcases h with h | h <;> simp [h]

/-- R51: what `bifurc` answers. -/
theorem bifurc_answers {s : State} (h : Idle s) :
    (4 ≤ s.arg.n0 → Answers .bifurc s 2 s) ∧ (s.arg.n0 = 0 → s.fitting = .w9h → Answers .bifurc s 0 s) ∧
    (s.arg.n0 < 4 → s.arg.n0 ≠ 0 ∨ s.fitting = .w9l → ∃ l, Answers .bifurc s 0 { s with mil := { s.mil with bifNext := l } } ∧
      ∀ x, x ∈ l ↔ (x = s.arg.n0 ∧ s.arg.flag = true) ∨ (x ≠ s.arg.n0 ∧ x ∈ s.mil.bifNext)) := by
  refine ⟨fun hp => answers_command h rfl (if_pos hp), fun hp hw => answers_command h rfl ?_, fun hp hport =>
    ⟨_, answers_command h rfl (doBifurc_sets (s := busied s 0x10) hp hport), mem_bifPorts s s.arg.n0 s.arg.flag⟩⟩
  simp [State.doBifurc, busied, hp, hw]

/-! ## `pool_map` (R67) -/

/-- R67: a decoder entry that may not stand. -/
def State.poolMapBad (s : State) (e base len link dpa : Nat) : Prop :=
  base % 2 ^ 28 ≠ 0 ∨ len % 2 ^ 28 ≠ 0 ∨ dpa % 2 ^ 28 ≠ 0 ∨ s.isPool base = false ∨ s.isPool (base + len - 1) = false ∨ 8 ≤ link ∨
    ∃ x ∈ s.ports.pool, x.1 ≠ e ∧ base < x.2.base + x.2.len ∧ x.2.base < base + len

theorem poolMapBad_iff (s : State) (e base len link dpa : Nat) : s.poolMapBad e base len link dpa ↔
    (base % 2 ^ 28 ≠ 0 || len % 2 ^ 28 ≠ 0 || dpa % 2 ^ 28 ≠ 0 || !s.isPool base || !s.isPool (base + len - 1) || link ≥ 8 ||
      (s.ports.pool.any fun x => x.1 ≠ e && decide (base < x.2.base + x.2.len ∧ x.2.base < base + len))) = true := by
  simp [State.poolMapBad, or_assoc]

section
variable {s : State} {e base len link pbr dpa p : Nat} {bulk : Bool}

theorem doPoolMap_range (hw : s.fitting = .w9h) (h : 64 ≤ e ∨ 64 ≤ p) : s.doPoolMap e base len link pbr dpa bulk p = answer 2 s :=
  (if_neg (by simp [hw])).trans (if_pos (by rcases h with h | h <;> simp [partNo, h]))
/-- R67, R141: what is done of a decoder entry that exists. -/
theorem doPoolMap_held (hw : s.fitting = .w9h) (he : e < 64) (hp : p < 64) (ht : s.tdiHeld p = true) :
    s.doPoolMap e base len link pbr dpa bulk p = answer 3 s :=
  ((if_neg (by simp [hw])).trans (if_neg (by simp [partNo, he, hp]))).trans (if_pos ht)
theorem doPoolMap_clears (hw : s.fitting = .w9h) (he : e < 64) (hp : p < 64) (ht : s.tdiHeld p = false) (hlen : len = 0) :
    s.doPoolMap e base len link pbr dpa bulk p = answer 0 { s with ports := { s.ports with pool := Tbl.del s.ports.pool e } } :=
  (((if_neg (by simp [hw])).trans (if_neg (by simp [partNo, he, hp]))).trans (if_neg (by simp [ht]))).trans (if_pos hlen)
theorem doPoolMap_writes (hw : s.fitting = .w9h) (he : e < 64) (hp : p < 64) (ht : s.tdiHeld p = false) (hlen : len ≠ 0) :
    (s.poolMapBad e base len link dpa → s.doPoolMap e base len link pbr dpa bulk p = answer 2 s) ∧
    (¬ s.poolMapBad e base len link dpa → s.doPoolMap e base len link pbr dpa bulk p = answer 0 { s with ports := { s.ports with
      pool := Tbl.put s.ports.pool e { base := base, len := len, link := link, pbr := pbr, dpa := dpa, bulk := bulk, part := p } } }) := by
  have hdo : s.doPoolMap e base len link pbr dpa bulk p = _ :=
    (((if_neg (by simp [hw])).trans (if_neg (by simp [partNo, he, hp]))).trans (if_neg (by simp [ht]))).trans (if_neg hlen)
  exact ⟨fun hbad => hdo.trans (if_pos ((poolMapBad_iff ..).1 hbad)), fun hgood => hdo.trans (if_neg (mt (poolMapBad_iff ..).2 hgood))⟩

end

/-- R67, R141: what `pool_map` answers on a W9H. -/
theorem poolMap_answers {s : State} (h : Idle s) (hw : s.fitting = .w9h) :
    (64 ≤ s.arg.n0 ∨ 64 ≤ s.arg.n6 → Answers .poolMap s 2 s) ∧
    (s.arg.n0 < 64 → s.arg.n6 < 64 → s.tdiHeld s.arg.n6 = true → Answers .poolMap s 3 s) ∧
    (s.arg.n0 < 64 → s.arg.n6 < 64 → s.tdiHeld s.arg.n6 = false →
      (s.arg.n2 = 0 → Answers .poolMap s 0 { s with ports := { s.ports with pool := Tbl.del s.ports.pool s.arg.n0 } }) ∧
      (s.arg.n2 ≠ 0 → s.poolMapBad s.arg.n0 s.arg.n1 s.arg.n2 s.arg.n3 s.arg.n5 → Answers .poolMap s 2 s) ∧
      (s.arg.n2 ≠ 0 → ¬ s.poolMapBad s.arg.n0 s.arg.n1 s.arg.n2 s.arg.n3 s.arg.n5 → Answers .poolMap s 0 { s with ports := { s.ports with
        pool := Tbl.put s.ports.pool s.arg.n0 { base := s.arg.n1, len := s.arg.n2, link := s.arg.n3, pbr := s.arg.n4, dpa := s.arg.n5, bulk := s.arg.flag, part := s.arg.n6 } } })) :=
  ⟨fun hr => answers_command h rfl (doPoolMap_range (s := busied s 0x11) hw hr),
    fun he hp ht => answers_command h rfl (doPoolMap_held (s := busied s 0x11) hw he hp ht), fun he hp ht =>
    ⟨fun hlen => answers_command h rfl (doPoolMap_clears (s := busied s 0x11) hw he hp ht hlen),
      fun hlen hbad => answers_command h rfl ((doPoolMap_writes (s := busied s 0x11) hw he hp ht hlen).1 hbad),
      fun hlen hgood => answers_command h rfl ((doPoolMap_writes (s := busied s 0x11) hw he hp ht hlen).2 hgood)⟩⟩

/-! ## `m_kill` and `m_rel` (R96) -/

/-- R96: a kill ends the master's work. -/
theorem mKill_kills {s s1 : State} {m : Master} (h : Idle s) (hm : s.arg.m = m) (hdo : (busied s 0x12).doKill m = answer 0 s1) :
    Does .mKill s (s1.finishCmd 0) :=
  does_command_finish h rfl (show (busied s 0x12).doKill s.arg.m = answer 0 s1 from hm ▸ hdo)
theorem mKill_answers {s s1 : State} {m : Master} {st : Nat} (h : Idle s) (hm : s.arg.m = m) (hseq : s1.mil.seq = s.mil.seq)
    (hdo : (busied s 0x12).doKill m = answer st (busied s1 0x12)) : Answers .mKill s st s1 :=
  answers_command h rfl (show (busied s 0x12).doKill s.arg.m = _ from hm ▸ hdo) hseq
theorem mRel_releases {s s1 : State} {m : Master} (h : Idle s) (hm : s.arg.m = m) (hdo : (busied s 0x13).doRelease m = answer 0 s1) :
    Does .mRel s (s1.finishCmd 0) :=
  does_command_finish h rfl (show (busied s 0x13).doRelease s.arg.m = answer 0 s1 from hm ▸ hdo)
theorem mRel_answers {s s1 : State} {m : Master} {st : Nat} (h : Idle s) (hm : s.arg.m = m) (hseq : s1.mil.seq = s.mil.seq)
    (hdo : (busied s 0x13).doRelease m = answer st (busied s1 0x13)) : Answers .mRel s st s1 :=
  answers_command h rfl (show (busied s 0x13).doRelease s.arg.m = _ from hm ▸ hdo) hseq

/-- R96, R710: a team, by its slot. -/
theorem masterTeam_answers {s : State} {n : Nat} (h : Idle s) (hm : s.arg.m = .team n) :
    (s.frozenTeam n = none → Answers .mKill s 3 s ∧ Answers .mRel s 3 s) ∧
    (∀ k t, s.frozenTeam n = some (k, t) →
      Does .mKill s (((busied s 0x12).abortTeam k t 0x90).finishCmd 0) ∧ Does .mRel s (((busied s 0x13).releaseTeam k t).finishCmd 0)) := by
  have kept {x : Option (Nat × Team)} (hx : s.frozenTeam n = x) (op : Nat) : (busied s op).frozenTeam n = x := hx
  refine ⟨fun hn => ⟨mKill_answers h hm rfl ?_, mRel_answers h hm rfl ?_⟩, fun k t hs => ⟨mKill_kills h hm ?_, mRel_releases h hm ?_⟩⟩
  · simp only [State.doKill, kept hn]
  · simp only [State.doRelease, kept hn]
  · simp only [State.doKill, kept hs]
  · simp only [State.doRelease, kept hs]

/-- The frozen card that an engine's master number names. -/
def State.frozenCard (s : State) (cl tag : Nat) : Option Card := (s.cluster cl).cards.find? fun k => k.tag = tag && k.frozen.isSome

theorem frozenCard_none {s : State} {cl tag : Nat} (h : ∀ k ∈ (s.cluster cl).cards, k.tag = tag → k.frozen = none) : s.frozenCard cl tag = none := by
  rw [State.frozenCard, List.find?_eq_none]
  intro k hk
  by_cases ht : k.tag = tag
  · simp [ht, h k hk ht]
  · simp [ht]

/-- R96: an engine, by its card. -/
theorem masterEngine_answers {s : State} {cl tag : Nat} (h : Idle s) (hm : s.arg.m = .engine cl tag) :
    ((∀ k ∈ (s.cluster cl).cards, k.tag = tag → k.frozen = none) → Answers .mKill s 3 s ∧ Answers .mRel s 3 s) ∧
    (∀ k, s.frozenCard cl tag = some k →
      (∀ t, Tbl.get? s.teams k.team = some t → Does .mKill s (((busied s 0x12).abortTeam k.team t 0x90).finishCmd 0)) ∧
      (Tbl.get? s.teams k.team = none → Does .mKill s (((busied s 0x12).abortLaunch k.launch 0x90 1).finishCmd 0)) ∧
      Does .mRel s ((((busied s 0x13).cardFault cl tag 0x90).modCard cl tag fun k => { k with frozen := none }).finishCmd 0)) := by
  have kill (op : Nat) : (busied s op).doKill (.engine cl tag) = match s.frozenCard cl tag with
      | some k => answer 0 (if (Tbl.get? s.teams k.team).isSome = true then (busied s op).abortTeam k.team (s.team k.team) 0x90
          else (busied s op).abortLaunch k.launch 0x90 1)
      | none => answer 3 (busied s op) := rfl
  have release (op : Nat) : (busied s op).doRelease (.engine cl tag) = match s.frozenCard cl tag with
      | some _ => answer 0 (((busied s op).cardFault cl tag 0x90).modCard cl tag fun k => { k with frozen := none })
      | none => answer 3 (busied s op) := rfl
  refine ⟨fun hn => ⟨mKill_answers h hm rfl ?_, mRel_answers h hm rfl ?_⟩, fun k hk =>
    ⟨fun t ht => mKill_kills h hm ?_, fun ht => mKill_kills h hm ?_, mRel_releases h hm ?_⟩⟩
  · rw [kill, frozenCard_none hn]
  · rw [release, frozenCard_none hn]
  · rw [kill, hk]
    dsimp only
    rw [team_of_get? ht, if_pos (Option.isSome_iff_exists.2 ⟨t, ht⟩)]
  · rw [kill, hk]
    dsimp only
    rw [if_neg (by simp [ht])]
  · rw [release, hk]

/-- R96: the blocked peers with one killed. -/
def State.killedPeers (s : State) (pbr q : Nat) : List (Nat × Nat) :=
  if (pbr, q + 64) ∈ s.ports.blocked then s.ports.blocked else s.ports.blocked ++ [(pbr, q + 64)]

theorem mem_killedPeers (s : State) (pbr q : Nat) (x : Nat × Nat) : x ∈ s.killedPeers pbr q ↔ x = (pbr, q + 64) ∨ x ∈ s.ports.blocked := by
  unfold State.killedPeers
  split_ifs with hk
  · exact ⟨.inr, fun hx => hx.elim (· ▸ hk) id⟩
  · simp [or_comm]

/-- R96: a peer, which stays blocked once it is killed. -/
theorem masterPeer_answers {s : State} {pbr q : Nat} (h : Idle s) (hm : s.arg.m = .peer pbr q) :
    ((pbr, q) ∉ s.ports.blocked → Answers .mKill s 3 s ∧ Answers .mRel s 3 s) ∧
    ((pbr, q) ∈ s.ports.blocked →
      (∃ l, Answers .mKill s 0 { s with ports := { s.ports with blocked := l } } ∧ ∀ x, x ∈ l ↔ x = (pbr, q + 64) ∨ x ∈ s.ports.blocked) ∧
      ((pbr, q + 64) ∈ s.ports.blocked → Answers .mRel s 3 s) ∧
      ((pbr, q + 64) ∉ s.ports.blocked → Answers .mRel s 0 { s with ports := { s.ports with blocked := s.ports.blocked.filter (· ≠ (pbr, q)) } })) := by
  refine ⟨fun hout => ⟨mKill_answers h hm rfl (if_neg hout), mRel_answers h hm rfl (if_neg ?_)⟩, fun hin =>
    ⟨⟨s.killedPeers pbr q, mKill_answers h hm rfl (if_pos hin), mem_killedPeers s pbr q⟩, fun hk => mRel_answers h hm rfl (if_neg ?_), fun hk => mRel_answers h hm rfl (if_pos ?_)⟩⟩
  · simp [busied, hout]
  · simp [busied, hk]
  · simp [busied, hin, hk]

/-- R96: a VF's context. -/
theorem masterVf_answers {s : State} {c : Nat} (h : Idle s) (hm : s.arg.m = .vf c) :
    ((s.ctx c).vfFrozen = false → Answers .mKill s 3 s ∧ Answers .mRel s 3 s) ∧
    ((s.ctx c).vfFrozen = true → ∃ s1, Answers .mRel s 0 s1 ∧ CtxChanged s s1 c ∧ s1.ctx c = { s.ctx c with vfFrozen := false }) ∧
    ((s.ctx c).vfFrozen = true → Does .mKill s (((busied s 0x12).resetCtx c 0).finishCmd 0)) ∧
    ((s.ctx c).vfFrozen = true → s.launches = [] → (s.ctx c).resetting = none →
      ∃ s1, Answers .mKill s 0 s1 ∧ CtxChanged s s1 c ∧ s1.ctx c = { s.ctx c with resetting := some 0 }) := by
  refine ⟨fun hf => ⟨mKill_answers h hm rfl (if_neg ?_), mRel_answers h hm rfl (if_neg ?_)⟩, fun hf =>
    ⟨s.modCtx c fun x => { x with vfFrozen := false }, mRel_answers h hm rfl (if_pos hf), ctxChanged_modCtx .., modCtx_ctx ..⟩,
    fun hf => mKill_kills h hm (if_pos hf), fun hf hl hr => ?_⟩
  · exact Bool.eq_false_iff.1 hf
  · exact Bool.eq_false_iff.1 hf
  · obtain ⟨hchanged, hctx⟩ := resetCtx_first (kind := 0) hl hr
    refine ⟨_, mKill_answers h hm (congrArg (·.mil.seq) hchanged.eq) ((if_pos hf).trans (congrArg (answer 0) ?_)), hchanged, hctx⟩
    rw [State.resetCtx, killLaunches_none (s := busied s 0x12) hl, State.resetCtx, killLaunches_none hl]
    rfl

/-! ## SPDM, TDIs, regions and tags (R57, R64, R140, R141, R143) -/

theorem spdm_tenantKeys {s : State} {n q : Nat} {k : BitVec 256} (hm : s.arg.spdm = .tenantKeys n q k) :
    (Tbl.get? s.mil.sess n ≠ none → q < 64 →
      Does .spdmMessage s { s with mil := { s.mil with tkeys := Tbl.put s.mil.tkeys (64 * n + q) k }, outbox := s.outbox ++ [.spdm 0] }) ∧
    (Tbl.get? s.mil.sess n = none ∨ 64 ≤ q → Does .spdmMessage s { s with outbox := s.outbox ++ [.spdm 1] }) := by
  have hdo : exec .spdmMessage s = .next (if (Tbl.get? s.mil.sess n).isSome && partNo q then
      ({ s with mil := { s.mil with tkeys := Tbl.put s.mil.tkeys (64 * n + q) k } } : State).emit (.spdm 0) else s.emit (.spdm 1)) := by
    change execSpdmMessage s = _
    simp only [execSpdmMessage, hm]
  refine ⟨fun hs hq => hdo.trans (congrArg _ (if_pos ?_)), fun h => hdo.trans (congrArg _ (if_neg ?_))⟩
  · simp [partNo, hq, Option.isSome_iff_ne_none, hs]
  · rcases h with h | h <;> simp [partNo, h]

/-- R140, R143: what SPDM answers and notes. -/
theorem spdm_answers (s : State) :
    (s.arg.spdm = .getMeasurements →
      let l := (List.range 5).map fun i => s.mil.meas.getD i 0
      Does .spdmMessage s { s with outbox := s.outbox ++ [.measurements l (Config.identitySign (Config.sha256 (measBytes l) 160))] }) ∧
    (s.arg.spdm = .getCertificate → Does .spdmMessage s { s with outbox := s.outbox ++ [.certificates Config.certChain] }) ∧
    (∀ n ok, s.arg.spdm = .establish n ok → Does .spdmMessage s { s with
      mil := { s.mil with sess := Tbl.put s.mil.sess n ok, tkeys := s.mil.tkeys.filter fun k => k.1 / 64 ≠ n }, outbox := s.outbox ++ [.spdm 0] }) := by
  refine ⟨fun hm => ?_, fun hm => ?_, fun n ok hm => ?_⟩ <;> change execSpdmMessage s = _ <;> simp only [execSpdmMessage, hm] <;> rfl

/-- R141, R431: a TDI changes state, and ERROR is fatal to its context and left by a reset alone. -/
theorem tdiStateChange_does (s : State) :
    (s.arg.n0 < 1024 → (s.ctx s.arg.n0).tdi ≠ .error →
      (s.arg.tdi ≠ .error → ∃ s1, Does .tdiStateChange s s1 ∧ CtxChanged s s1 s.arg.n0 ∧ s1.ctx s.arg.n0 = { s.ctx s.arg.n0 with tdi := s.arg.tdi }) ∧
      (s.arg.tdi = .error → Does .tdiStateChange s ((s.modCtx s.arg.n0 fun x => { x with tdi := .error }).ctxFatal s.arg.n0 0x8E))) ∧
    (1024 ≤ s.arg.n0 ∨ (s.ctx s.arg.n0).tdi = .error → Does .tdiStateChange s s) := by
  have hdo : exec .tdiStateChange s = .next (if s.arg.n0 ≥ 1024 ∨ (s.ctx s.arg.n0).tdi = .error then s
      else if s.arg.tdi = .error then (s.modCtx s.arg.n0 fun x => { x with tdi := s.arg.tdi }).ctxFatal s.arg.n0 0x8E
      else s.modCtx s.arg.n0 fun x => { x with tdi := s.arg.tdi }) := rfl
  refine ⟨fun hc ht => ?_, fun h => hdo.trans (congrArg _ (if_pos h))⟩
  rw [if_neg (not_or.2 ⟨Nat.not_le.2 hc, ht⟩)] at hdo
  refine ⟨fun hn => ⟨_, hdo.trans (congrArg _ (if_neg hn)), ctxChanged_modCtx .., modCtx_ctx ..⟩, fun he => ?_⟩
  rw [if_pos he, he] at hdo
  exact hdo

/-- R57: a region of a W9L. -/
theorem dcRegionConfiguration_does (s : State) :
    (s.fitting = .w9l → s.arg.n0 < 8 → Does .dcRegionConfiguration s { s with ports := { s.ports with
      regions := Tbl.put s.ports.regions s.arg.n0 { first := s.arg.n1, count := s.arg.n2, bulk := s.arg.flag } } }) ∧
    (s.fitting = .w9h ∨ 8 ≤ s.arg.n0 → Does .dcRegionConfiguration s s) := by
  refine ⟨fun hw hn => congrArg Host.Outcome.next (if_pos ⟨hw, hn⟩), fun h => congrArg Host.Outcome.next (if_neg ?_)⟩
  rintro ⟨hw, hn⟩
  rcases h with h | h
  · simp [hw] at h
  · omega

/-- R64: the tags of a W9L once one is mapped, or no longer. -/
def State.taggedAs (s : State) (tag : BitVec 128) (p : Option Nat) : List (BitVec 128 × Nat) :=
  (s.ports.tags.filter fun x => x.1 ≠ tag) ++ (p.map fun p => (tag, p)).toList

theorem mem_taggedAs (s : State) (tag : BitVec 128) (p : Option Nat) (x : BitVec 128 × Nat) :
    x ∈ s.taggedAs tag p ↔ (p = some x.2 ∧ x.1 = tag) ∨ (x.1 ≠ tag ∧ x ∈ s.ports.tags) := by
  obtain ⟨t, q⟩ := x
  cases p with
  | none => simp [State.taggedAs, and_comm]
  | some p =>
    simp only [State.taggedAs, List.mem_append, List.mem_filter, decide_eq_true_eq, Option.map_some, Option.toList_some, List.mem_singleton,
      Prod.mk.injEq, Option.some.injEq, eq_comm (a := p)]
    tauto

/-- R64: a W9L maps tags. -/
theorem tenantTagMapping_does (s : State) :
    (s.fitting = .w9h → Does .tenantTagMapping s s) ∧
    (s.fitting = .w9l → ∃ l, Does .tenantTagMapping s { s with ports := { s.ports with tags := l } } ∧
      ∀ x, x ∈ l ↔ (s.arg.opt = some x.2 ∧ x.1 = s.arg.wide.setWidth 128) ∨ (x.1 ≠ s.arg.wide.setWidth 128 ∧ x ∈ s.ports.tags)) := by
  refine ⟨fun hw => congrArg Host.Outcome.next (if_neg (by simp [hw])), fun hw => ⟨_, ?_, mem_taggedAs s _ s.arg.opt⟩⟩
  refine congrArg Host.Outcome.next ((if_pos hw).trans ?_)
  rw [State.taggedAs]
  cases s.arg.opt with
  | none => simp only [Option.map_none, Option.toList_none, List.append_nil]
  | some p => rfl

/-! ## The statement -/

theorem imageCommands_turnedAway (s : State) :
    ∀ i ∈ [Instr.keyGen, .keyLoad, .imgReg, .imgInst, .imgRm, .tkeyReg, .vecAsg, .bifurc, .poolMap, .mKill, .mRel], TurnedAway i s := by
  simp only [List.forall_mem_cons, List.not_mem_nil, false_imp_iff, implies_true, and_true]
  exact ⟨turnedAway_command rfl, turnedAway_command rfl, turnedAway_command rfl, turnedAway_command rfl, turnedAway_command rfl,
    turnedAway_command rfl, turnedAway_command rfl, turnedAway_command rfl, turnedAway_command rfl, turnedAway_command rfl, turnedAway_command rfl⟩

/-- Settles O46: each command and event is one lemma above on what it answers. -/
theorem imageCommands : Obligations.ImageCommands := by
  unfold Obligations.ImageCommands
  intro s
  obtain ⟨hmeas, hcert, hestablish⟩ := spdm_answers s
  obtain ⟨htdi, htdiError⟩ := tdiStateChange_does s
  obtain ⟨hregion, hnoRegion⟩ := dcRegionConfiguration_does s
  obtain ⟨hnoTags, htags⟩ := tenantTagMapping_does s
  refine ⟨imageCommands_turnedAway s, fun h => ?_, hmeas, hcert, hestablish, fun n q k => spdm_tenantKeys, htdi, htdiError, hregion, hnoRegion,
    hnoTags, htags⟩
  obtain ⟨hkeysNo, hkeysHeld⟩ := keys_refused h
  obtain ⟨htkey9h, htkeyNo, htkey⟩ := tkeyReg_answers h
  obtain ⟨hvecNo, hvec⟩ := vecAsg_answers h
  obtain ⟨hbifNo, hbif9h, hbif⟩ := bifurc_answers h
  refine ⟨hkeysNo, hkeysHeld, keys_fill h, fun hw => ?_, images_noArgs h, fun ha => ⟨images_held h ha, images_free h ha, fun hno => ?_, fun hk hr hs => ?_⟩,
    htkey9h, htkeyNo, htkey, hvecNo, hvec, hbifNo, hbif9h, hbif, fun hw => ?_, fun hw => ?_, fun hw => ?_, fun hw => ?_,
    fun n => masterTeam_answers h, fun cl tag => masterEngine_answers h, fun pbr q => masterPeer_answers h, fun c => masterVf_answers h⟩
  · exact ⟨answers_command h rfl (if_pos hw), answers_command h rfl (if_pos hw)⟩
  · exact answers_command h rfl (doImgInst_refused (s := busied s 0xA) (.inr hno))
  · obtain ⟨huse, hfree⟩ := imgInst_answers h ha hk hr hs
    refine ⟨huse, fun hu => ⟨(hfree hu).1, fun x hx => ?_⟩⟩
    obtain ⟨hunsigned, hquota, hput⟩ := (hfree hu).2 x hx
    refine ⟨fun hkey => hunsigned (by simp [State.signed, hkey]), fun k hkey => ?_⟩
    have hsigned : s.signed s.arg.n0 s.arg.n5 s.arg.n4 x = Config.sigOk k x.digest (memNat s.mem s.arg.n4 384) := by simp [State.signed, hkey]
    rw [hsigned] at hunsigned hquota hput
    exact ⟨hunsigned, hquota, hput⟩
  · exact (poolMap_answers h hw).1
  · obtain ⟨-, -, hgoes⟩ := poolMap_answers h hw
    exact fun he hp ht hlen => (hgoes he hp ht).2.1 hlen
  · obtain ⟨-, hheld, -⟩ := poolMap_answers h hw
    exact hheld
  · obtain ⟨-, -, hgoes⟩ := poolMap_answers h hw
    intro he hp ht
    obtain ⟨hclear, -, hwrite⟩ := hgoes he hp ht
    refine ⟨hclear, fun hlen hb hl hd hlo hhi hk hall => hwrite hlen ?_⟩
    rintro (hn | hn | hn | hn | hn | hn | ⟨x, hx, hne, h1, h2⟩)
    · exact hn hb
    · exact hn hl
    · exact hn hd
    · exact Bool.eq_false_iff.1 hn hlo
    · exact Bool.eq_false_iff.1 hn hhi
    · omega
    · have := hall x hx
      omega

end Sys2Proof.Machine
end

section
/-! PROOFS. Dynamic capacity and footprint tables of a W9L (R64 to R66, R192, R309), and requests of its hosts and peers (R55, R58 to R63, R713):
the first part of O49. -/

namespace Sys2Proof.Machine

/-! ## What has been heard (R714) -/

/-- R714: hearing a die or host changes only who is reachable, and over which link. -/
theorem heard_eq (s : State) (d l : Nat) : ∃ u p, s.heard d l = { s with ports := { s.ports with unreach := u, peers := p } } := by
  unfold State.heard
  split_ifs
  · exact ⟨_, _, rfl⟩
  · exact ⟨_, _, rfl⟩

/-- What does not depend on who is reachable is as it was. -/
theorem heard_keeps {α : Type} (f : State → α) (s : State) (d l : Nat)
    (h : ∀ u p, f { s with ports := { s.ports with unreach := u, peers := p } } = f s) : f (s.heard d l) = f s := by
  obtain ⟨u, p, hs⟩ := heard_eq s d l
  rw [hs, h]

@[simp] theorem heard_outbox (s : State) (d l : Nat) : (s.heard d l).outbox = s.outbox := heard_keeps State.outbox s d l fun _ _ => rfl
@[simp] theorem heard_mem (s : State) (d l : Nat) : (s.heard d l).mem = s.mem := heard_keeps State.mem s d l fun _ _ => rfl
@[simp] theorem heard_launches (s : State) (d l : Nat) : (s.heard d l).launches = s.launches := heard_keeps State.launches s d l fun _ _ => rfl
@[simp] theorem heard_now (s : State) (d l : Nat) : (s.heard d l).now = s.now := heard_keeps State.now s d l fun _ _ => rfl
@[simp] theorem heard_mil (s : State) (d l : Nat) : (s.heard d l).mil = s.mil := heard_keeps State.mil s d l fun _ _ => rfl
@[simp] theorem heard_eown (s : State) (d l : Nat) : (s.heard d l).ports.eown = s.ports.eown := heard_keeps (·.ports.eown) s d l fun _ _ => rfl
@[simp] theorem heard_ended (s : State) (d l : Nat) : (s.heard d l).ports.ended = s.ports.ended := heard_keeps (·.ports.ended) s d l fun _ _ => rfl
@[simp] theorem heard_blocked (s : State) (d l : Nat) : (s.heard d l).ports.blocked = s.ports.blocked := heard_keeps (·.ports.blocked) s d l fun _ _ => rfl
@[simp] theorem heard_dpaPa (s : State) (d l a : Nat) : (s.heard d l).dpaPa a = s.dpaPa a := heard_keeps (·.dpaPa a) s d l fun _ _ => rfl
@[simp] theorem heard_adding (s : State) (d l a : Nat) : (s.heard d l).adding a = s.adding a := heard_keeps (·.adding a) s d l fun _ _ => rfl
@[simp] theorem heard_releasing (s : State) (d l a : Nat) : (s.heard d l).releasing a = s.releasing a := heard_keeps (·.releasing a) s d l fun _ _ => rfl
@[simp] theorem heard_bulkSlot (s : State) (d l a : Nat) : (s.heard d l).bulkSlot a = s.bulkSlot a := heard_keeps (·.bulkSlot a) s d l fun _ _ => rfl
@[simp] theorem heard_poisoned (s : State) (d l a : Nat) : (s.heard d l).poisoned a = s.poisoned a := heard_keeps (·.poisoned a) s d l fun _ _ => rfl

/-! ## Dynamic capacity (R64 to R66) -/

/-- R64, R66, R309: a W9H has no capacity of its own to give, and keeps no footprint tables. -/
theorem capacity_w9h {s : State} (hw : s.fitting = .w9h) : Does .addCapacity s s ∧ Does .releaseCapacity s s ∧ Does .footprintTableArrival s s :=
  have hne : s.fitting ≠ .w9l := by rw [hw]; decide
  ⟨congrArg Host.Outcome.next (if_pos hne), congrArg Host.Outcome.next (if_pos hne), congrArg Host.Outcome.next (if_neg hne)⟩

theorem freeExtent_none {s : State} (h : ∀ e, e < 4095 → s.extentFree e = false) : s.freeExtent = none := by
  rw [State.freeExtent, List.find?_eq_none]
  intro e he
  simp [h e (List.mem_range.1 he)]
theorem freeExtent_lowest {s : State} {e : Nat} (he : e < 4095) (hf : s.extentFree e = true) (hlow : ∀ f, f < e → s.extentFree f = false) :
    s.freeExtent = some e := by
  rw [State.freeExtent, List.find?_range_eq_some]
  exact ⟨hf, List.mem_range.2 he, fun f hlt => by simp [hlow f hlt]⟩

/-- R64: what an add of capacity does on a W9L. -/
theorem addCapacity_w9l {s : State} (hw : s.fitting = .w9l) :
    (s.ports.tags.find? (fun x => x.1 = s.arg.wide.setWidth 128) = none → Does .addCapacity s (s.emit (.fmReply 2))) ∧
    (∀ t q, s.ports.tags.find? (fun x => x.1 = s.arg.wide.setWidth 128) = some (t, q) →
      (4096 ≤ s.arg.n0 ∨ Tbl.get? s.ports.emap s.arg.n0 ≠ none → Does .addCapacity s (s.emit (.fmReply 0xF))) ∧
      (s.arg.n0 < 4096 → Tbl.get? s.ports.emap s.arg.n0 = none → (∀ e, e < 4095 → s.extentFree e = false) → Does .addCapacity s (s.emit (.fmReply 0x1D))) ∧
      (∀ e, s.arg.n0 < 4096 → Tbl.get? s.ports.emap s.arg.n0 = none → e < 4095 → s.extentFree e = true → (∀ f, f < e → s.extentFree f = false) →
        Does .addCapacity s { s with ports := { s.ports with
          emap := Tbl.put s.ports.emap s.arg.n0 e, eown := Tbl.put s.ports.eown e q, scrub := s.ports.scrub ++ [s.arg.n0] } })) := by
  have hne : ¬ s.fitting ≠ .w9l := not_not.2 hw
  refine ⟨fun hn => ?_, fun t q ht => ⟨fun hno => ?_, fun hk hm hfull => ?_, fun e hk hm he hf hlow => ?_⟩⟩ <;> change execAddCapacity s = _ <;>
    unfold execAddCapacity
  · simp only [if_neg hne, hn]
    rfl
  · simp only [if_neg hne, ht, if_pos (hno.imp id Option.isSome_iff_ne_none.2 : s.arg.n0 ≥ 4096 ∨ (Tbl.get? s.ports.emap s.arg.n0).isSome = true)]
    rfl
  · simp only [if_neg hne, ht, hm, Option.isSome_none, Bool.false_eq_true, or_false, if_neg (Nat.not_le.2 hk), freeExtent_none hfull]
    rfl
  · simp only [if_neg hne, ht, hm, Option.isSome_none, Bool.false_eq_true, or_false, if_neg (Nat.not_le.2 hk), freeExtent_lowest he hf hlow]

/-- R66: what a release of capacity does on a W9L. -/
theorem releaseCapacity_w9l {s : State} (hw : s.fitting = .w9l) :
    (Tbl.get? s.ports.emap s.arg.n0 = none ∨ s.arg.n0 ∈ s.ports.scrub → Does .releaseCapacity s (s.emit (.fmReply 0xF))) ∧
    (Tbl.get? s.ports.emap s.arg.n0 ≠ none → s.arg.n0 ∉ s.ports.scrub → s.arg.n0 ∈ s.ports.releasing → Does .releaseCapacity s s) ∧
    (Tbl.get? s.ports.emap s.arg.n0 ≠ none → s.arg.n0 ∉ s.ports.scrub → s.arg.n0 ∉ s.ports.releasing →
      Does .releaseCapacity s { s with ports := { s.ports with releasing := s.ports.releasing ++ [s.arg.n0] } }) := by
  have hdo : exec .releaseCapacity s = .next (if (Tbl.get? s.ports.emap s.arg.n0).isNone ∨ s.arg.n0 ∈ s.ports.scrub then s.emit (.fmReply 0xF)
      else if s.arg.n0 ∈ s.ports.releasing then s
      else { s with ports := { s.ports with releasing := s.ports.releasing ++ [s.arg.n0] } }) :=
    congrArg Host.Outcome.next (if_neg (by simp [hw]))
  simp only [Option.isNone_iff_eq_none] at hdo
  exact ⟨fun h => hdo.trans (congrArg _ (if_pos h)),
    fun hm hs hr => hdo.trans (congrArg _ ((if_neg (not_or.2 ⟨hm, hs⟩)).trans (if_pos hr))),
    fun hm hs hr => hdo.trans (congrArg _ ((if_neg (not_or.2 ⟨hm, hs⟩)).trans (if_neg hr)))⟩

theorem zeroed_zeroRange (s : State) (base len : Nat) : Zeroed s (s.zeroRange base len) base len := by
  have hget (x : Nat) : memGet (s.zeroRange base len).mem x = if base ≤ x ∧ x < base + len then 0 else memGet s.mem x := by
    simp only [memGet, State.zeroRange, Tbl.getD]
    rw [get?_filter_key fun a => !decide (base ≤ a ∧ a < base + len)]
    by_cases h : base ≤ x ∧ x < base + len
    · simp [h]
    · rw [decide_eq_false h, if_pos (by decide), if_neg h]
  refine ⟨fun x hlo hhi => (hget x).trans (if_pos ⟨hlo, hhi⟩), fun x hout => (hget x).trans (if_neg ?_)⟩
  omega

/-- R65: an add completes with memory that reads zero. -/
theorem addCapacityComplete_does (s : State) :
    (s.arg.n0 ∉ s.ports.scrub → Does .addCapacityComplete s s) ∧
    (∀ e, s.arg.n0 ∈ s.ports.scrub → Tbl.get? s.ports.emap s.arg.n0 = some e → ∃ s1, Does .addCapacityComplete s s1 ∧
      Zeroed s s1 (e * 2 ^ 28) (2 ^ 28) ∧ s1.ports = { s.ports with scrub := s.ports.scrub.filter (· ≠ s.arg.n0) } ∧
      s1.outbox = s.outbox ++ [.fmReply 0] ∧ s1.teams = s.teams) := by
  refine ⟨fun h => congrArg Host.Outcome.next (if_pos h), fun e h he =>
    ⟨(({ s with ports := { s.ports with scrub := s.ports.scrub.filter (· ≠ s.arg.n0) } } : State).zeroRange (e * 2 ^ 28) (2 ^ 28)).emit (.fmReply 0),
      congrArg Host.Outcome.next ((if_neg (not_not.2 h)).trans ?_), zeroed_zeroRange s _ _, rfl, rfl, rfl⟩⟩
  rw [he]
  rfl

/-- R66: the extents to be scrubbed again, with one more. -/
def State.rescrubs (s : State) (e : Nat) : List Nat := if e ∈ s.ports.rescrub then s.ports.rescrub else s.ports.rescrub ++ [e]

theorem mem_rescrubs (s : State) (e x : Nat) : x ∈ s.rescrubs e ↔ x = e ∨ x ∈ s.ports.rescrub := by
  unfold State.rescrubs
  split_ifs with h
  · exact ⟨.inr, fun hx => hx.elim (· ▸ h) id⟩
  · simp [or_comm]

/-- R66: a release completes once nothing holds an entry there. -/
theorem releaseCapacityComplete_does (s : State) :
    (s.mayRelease s.arg.n0 = false → Does .releaseCapacityComplete s s) ∧
    (∀ e, s.mayRelease s.arg.n0 = true → Tbl.get? s.ports.emap s.arg.n0 = some e → Does .releaseCapacityComplete s { s with
      ports := { s.ports with
        emap := Tbl.del s.ports.emap s.arg.n0, eown := Tbl.del s.ports.eown e, releasing := s.ports.releasing.filter (· ≠ s.arg.n0)
        rescrub := s.rescrubs e, mons := s.ports.mons.filter fun m => extentOf m.pa ≠ e }
      outbox := s.outbox ++ [.fmReply 0] }) := by
  refine ⟨fun h => congrArg Host.Outcome.next (if_pos (by simp [h])), fun e h he => congrArg Host.Outcome.next ((if_neg (by simp [h])).trans ?_)⟩
  rw [he]
  rfl

/-! ## Footprint tables (R192, R309) -/

/-- A version that is changed is held, as it is changed. -/
theorem mem_modForeign (s : State) (d p v : Nat) (f : Foreign → Foreign) : f (s.foreignOf d p v) ∈ (s.modForeign d p v f).ports.foreign := by
  unfold State.modForeign
  dsimp only
  split_ifs with h
  · obtain ⟨g, hg, his⟩ := List.any_eq_true.1 h
    exact List.mem_map.2 ⟨g, hg, if_pos his⟩
  · exact List.mem_append_right _ (List.mem_singleton.2 rfl)

theorem foreignOf_is (s : State) (d p v : Nat) : (s.foreignOf d p v).is d p v = true := by
  rw [State.foreignOf]
  cases h : s.ports.foreign.find? (fun f => f.is d p v) with
  | none => simp [Foreign.is]
  | some f => exact List.find?_some (p := fun g : Foreign => g.is d p v) h

/-- R55, R309: a table comes over a link that carries, for a version that has not ended. -/
theorem footprintTableArrival_w9l {s : State} (hw : s.fitting = .w9l) :
    ((s.link s.arg.n3).carries = false → Does .footprintTableArrival s (s.emit (.peerReply s.arg.n0 1 false 0 []))) ∧
    ((s.link s.arg.n3).carries = true → (s.arg.n0, s.arg.n1, s.arg.n2) ∈ s.ports.ended → Does .footprintTableArrival s (s.heard s.arg.n0 s.arg.n3)) ∧
    ((s.link s.arg.n3).carries = true → (s.arg.n0, s.arg.n1, s.arg.n2) ∉ s.ports.ended → ∃ s1, Does .footprintTableArrival s s1 ∧
      ∃ f ∈ s1.ports.foreign, f.die = s.arg.n0 ∧ f.part = s.arg.n1 ∧ f.ver = s.arg.n2 ∧ f.foot = s.arg.foot ∧ f.chain = s.arg.ns) := by
  have hdo (x : State) (h : s.fromDie s.arg.n0 s.arg.n3 _ = x) : Does .footprintTableArrival s x := congrArg Host.Outcome.next ((if_pos hw).trans h)
  refine ⟨fun hc => hdo _ (if_neg (Bool.eq_false_iff.1 hc)), fun hc he => hdo _ ((if_pos hc).trans (if_pos (by rwa [heard_ended]))),
    fun hc he => ⟨_, hdo _ ((if_pos hc).trans (if_neg (by rwa [heard_ended]))), _, mem_modForeign _ s.arg.n0 s.arg.n1 s.arg.n2 _, ?_⟩⟩
  have his := foreignOf_is (s.heard s.arg.n0 s.arg.n3) s.arg.n0 s.arg.n1 s.arg.n2
  simp only [Foreign.is, Bool.and_eq_true, decide_eq_true_eq] at his
  obtain ⟨⟨hd, hp⟩, hv⟩ := his
  exact ⟨hd, hp, hv, rfl, rfl⟩

end Sys2Proof.Machine
end

section
/-! PROOFS. Requests of hosts and peers of a W9L (R55, R58 to R63, R66, R94, R95, R713): the second part of O49. -/

namespace Sys2Proof.Machine

/-! ## A host's request (R58 to R63) -/

/-- R58: a host's request is performed at its home and answered. -/
def State.hostGo (s : State) (bi pa : Nat) (op : MemOp) : State :=
  let r := s.homeOp (2 ^ 12 + bi) pa ((Tbl.get? s.ports.eown (extentOf pa)).getD 0) op
  r.2.emit (.hostReply bi (decide (r.1.1 = 0)) r.1.2.1 r.1.2.2.1)
/-- R60, R61: a host's request waits for the holders of a line. -/
def State.hostWait (s : State) (bi dpa : Nat) (op : MemOp) (line : Nat) (b : BitVec 16) : State :=
  s.snoopFor { line := line, bi := b, host := some bi, pbr := none, dpa := dpa, op := op }

theorem hostReq_unmapped {s : State} {bi dpa : Nat} {op : MemOp} (h : s.dpaPa dpa = none) :
    s.hostReq bi dpa op = s.emit (.hostReply bi false false 0) := by
  simp only [State.hostReq, h]
theorem hostReq_held {s : State} {bi dpa pa : Nat} {op : MemOp} (h : s.dpaPa dpa = some pa) (hr : s.adding pa = true ∨ s.releasing pa = true) :
    s.hostReq bi dpa op = s.emit (.hostReply bi false false 0) := by
  simp only [State.hostReq, h, if_pos (Bool.or_eq_true_iff.2 hr)]

section
variable {s : State} {bi dpa pa : Nat} {op : MemOp} (h : s.dpaPa dpa = some pa) (ha : s.adding pa = false) (hr : s.releasing pa = false)
include h ha hr

theorem hostReq_bulk (hb : s.bulkSlot (dpa / 2 ^ 28) = true) : s.hostReq bi dpa op = s.hostGo bi pa op := by
  simp only [State.hostReq, h, ha, hr, hb, Bool.or_self, Bool.false_eq_true, if_false, if_true]
  rfl
theorem hostReq_asks (hb : s.bulkSlot (dpa / 2 ^ 28) = false) (hk : s.asksHolders op (lineNo pa) (some bi) = true) :
    s.hostReq bi dpa op = s.hostWait bi dpa op (lineNo pa) (s.holders (lineNo pa) (some bi)) := by
  simp only [State.hostReq, h, ha, hr, hb, hk, Bool.or_self, Bool.false_eq_true, if_false, if_true]
  rfl

variable (hb : s.bulkSlot (dpa / 2 ^ 28) = false) (hk : s.asksHolders op (lineNo pa) (some bi) = false)
include hb hk

theorem hostReq_alone (hop : ¬ (op = .read ∨ op = .readExcl)) : s.hostReq bi dpa op = s.hostGo bi pa op := by
  simp only [State.hostReq, h, ha, hr, hb, hk, Bool.or_self, Bool.false_eq_true, if_false]
  cases op with
  | read => exact absurd (.inl rfl) hop
  | readExcl => exact absurd (.inr rfl) hop
  | _ => rfl
theorem hostReq_victim {v : Nat × Snoop} (hop : op = .read ∨ op = .readExcl) (hv : s.snoopVictim (lineNo pa) = some v) :
    s.hostReq bi dpa op = s.hostWait bi dpa op v.1 v.2.bi := by
  simp only [State.hostReq, h, ha, hr, hb, hk, Bool.or_self, Bool.false_eq_true, if_false]
  rcases hop with rfl | rfl <;> simp only [hv] <;> rfl
theorem hostReq_holds (hop : op = .read ∨ op = .readExcl) (hv : s.snoopVictim (lineNo pa) = none) :
    s.hostReq bi dpa op = (s.hostGo bi pa op).hold (lineNo pa) bi (decide (op = .readExcl)) := by
  simp only [State.hostReq, h, ha, hr, hb, hk, Bool.or_self, Bool.false_eq_true, if_false]
  rcases hop with rfl | rfl <;> simp only [hv] <;> rfl

end

/-- A read at its home answers with the line, and changes nothing but the answers. -/
theorem hostGo_read (s : State) (bi pa : Nat) : (s.hostGo bi pa .read).outbox = s.outbox ++ [.hostReply bi true (s.poisoned pa) (memLine s.mem pa)] ∧
    (s.hostGo bi pa .read).mem = s.mem := ⟨rfl, rfl⟩

theorem recallAll_none {s : State} (h : s.launches = []) (ln : Nat) : s.recallAll ln = s := by simp [State.recallAll, h]

/-- A write at its home, with no launch whose stash holds the line. -/
theorem hostGo_write {s : State} (h : s.launches = []) (bi pa : Nat) (m : BitVec 64) (d : Line) (po : Bool) :
    (s.hostGo bi pa (.write m d po)).mem = memPutLine s.mem pa m d ∧
      (s.hostGo bi pa (.write m d po)).outbox = s.outbox ++ [.hostReply bi true false 0] := by
  have hgo : s.hostGo bi pa (.write m d po) =
      ((s.take.2.recallAll (lineNo pa)).commitLine pa m d po (decide (m = BitVec.allOnes 64))).emit (.hostReply bi true false 0) := rfl
  rw [hgo, recallAll_none (s := s.take.2) h]
  exact ⟨rfl, rfl⟩

/-- R53 to R55, R714: the link by which a host reaches the memory of a W9L. -/
def State.hostReaches (s : State) : Prop := s.fitting = .w9l ∧ s.arg.n0 < 16 ∧ (s.link (linkNo s.arg.n2 s.arg.n3)).ide = true

theorem hostMemRequest_far {s : State} (h : ¬ s.hostReaches) : Does .hostMemRequest s (s.emit (.hostReply s.arg.n0 false false 0)) := by
  refine congrArg Host.Outcome.next (if_neg ?_)
  simpa [State.hostReaches, portOffers] using h
theorem hostMemRequest_near {s : State} (h : s.hostReaches) :
    Does .hostMemRequest s ((s.heard (4096 + s.arg.n0) (linkNo s.arg.n2 s.arg.n3)).hostReq s.arg.n0 s.arg.n1 s.arg.op) := by
  refine congrArg Host.Outcome.next (if_pos ?_)
  simpa [State.hostReaches, portOffers] using h

/-- R54: a snoop of a W9H is answered over a link that carries. -/
theorem h2dSnoop_does (s : State) :
    (s.fitting = .w9h → (s.link 0).carries = true → Does .h2dSnoop s (s.emit (.snoopReply s.arg.n0))) ∧
    (s.fitting = .w9l ∨ (s.link 0).carries = false → Does .h2dSnoop s s) := by
  refine ⟨fun hw hc => congrArg Host.Outcome.next (if_pos ?_), fun h => congrArg Host.Outcome.next (if_neg ?_)⟩
  · simp [portOffers, hw, hostLink, hc]
  · rcases h with h | h <;> simp [portOffers, hostLink, h]

/-! ## A peer's request (R66, R94, R95, R713) -/

/-- A request to memory that is in no launch's view. -/
def Viewless (op : MemOp) : Prop :=
  op = .read ∨ op = .readExcl ∨ (∃ m x po, op = .write m x po) ∨ ∃ fn ty off x e, op = .atomic fn ty off x e

/-- R713: a request to no extent is refused with completer abort, and logged. -/
def State.peerDrop (s : State) (pbr dpa : Nat) : State := (s.logIt (.peerRefused pbr dpa s.now)).emit (.peerReply pbr 4 false 0 [])
/-- R95: a request that is refused with completer abort. -/
def State.peerRefuse (s : State) (pbr : Nat) : State := s.emit (.peerReply pbr 4 false 0 [])
/-- R94, R95: a block starts, and the partition's contexts are told. -/
def State.peerBlock (s : State) (pbr dpa own : Nat) : State :=
  let s1 := ({ s with ports := { s.ports with blocked := s.ports.blocked ++ [(pbr, own)] } } : State).logIt (.violation 6 pbr dpa 1 s.now)
  ((s1.ctxsOf own).foldl (fun s c => s.postEvent c 0 0x90 (BitVec.ofNat 32 (6 * 2 ^ 16 + pbr))) s1).peerRefuse pbr
/-- R60: a request waits for the holders of its line. -/
def State.peerWait (s : State) (pbr dpa pa : Nat) (op : MemOp) : State :=
  s.snoopFor { line := lineNo pa, bi := s.holders (lineNo pa) none, host := none, pbr := some pbr, dpa := dpa, op := op }
/-- R713: a request is performed at its home and answered. -/
def State.peerGo (s : State) (pbr pa own : Nat) (op : MemOp) : State :=
  let r := s.homeOp pbr pa own op
  r.2.emit (.peerReply pbr r.1.1 r.1.2.1 r.1.2.2.1 r.1.2.2.2)

/-- A request of a peer under an extent is checked by its owner. -/
def State.peerOwned (s : State) (pbr dpa pa own : Nat) (op : MemOp) : State :=
  if s.adding pa = true then s.peerDrop pbr dpa
  else if (pbr, own) ∈ s.ports.blocked then s.peerRefuse pbr
  else if (!Config.peerReach pbr own) = true then s.peerBlock pbr dpa own
  else if s.releasing pa = true then s.peerRefuse pbr
  else if (!s.bulkSlot (dpa / 2 ^ 28) && s.asksHolders op (lineNo pa) none) = true then s.peerWait pbr dpa pa op
  else s.peerGo pbr pa own op

section
variable {s : State} {pbr dpa : Nat} {op : MemOp} (hop : Viewless op)
include hop

theorem peerReq_unmapped (h : s.dpaPa dpa = none) : s.peerReq pbr dpa op = s.peerDrop pbr dpa := by
  rcases hop with rfl | rfl | ⟨m, x, po, rfl⟩ | ⟨fn, ty, off, x, e, rfl⟩ <;> simp only [State.peerReq, h] <;> rfl
theorem peerReq_unowned {pa : Nat} (h : s.dpaPa dpa = some pa) (ho : Tbl.get? s.ports.eown (extentOf pa) = none) :
    s.peerReq pbr dpa op = s.peerDrop pbr dpa := by
  rcases hop with rfl | rfl | ⟨m, x, po, rfl⟩ | ⟨fn, ty, off, x, e, rfl⟩ <;> simp only [State.peerReq, h, ho] <;> rfl
theorem peerReq_owned {pa own : Nat} (h : s.dpaPa dpa = some pa) (ho : Tbl.get? s.ports.eown (extentOf pa) = some own) :
    s.peerReq pbr dpa op = s.peerOwned pbr dpa pa own op := by
  rcases hop with rfl | rfl | ⟨m, x, po, rfl⟩ | ⟨fn, ty, off, x, e, rfl⟩ <;>
    simp only [State.peerReq, h, ho, opView, Option.isNone_none, Bool.and_true, Bool.false_eq_true, if_false] <;> rfl

end

/-- R442: an event record changes contexts, and sends at most an interrupt. -/
theorem postEvent_eq (s : State) (c kind cause : Nat) (arg : Word32) :
    ∃ x o, s.postEvent c kind cause arg = { s with ctxs := x, outbox := s.outbox ++ o } := by
  have msix (s' : State) (v : Nat) : ∃ o, s'.sendMsix v = { s' with outbox := s'.outbox ++ o } := by
    unfold State.sendMsix
    split_ifs
    · exact ⟨_, rfl⟩
    · exact ⟨[], by rw [List.append_nil]⟩
  have none_ (x : Tbl Ctx) : ({ s with ctxs := x } : State) = { s with ctxs := x, outbox := s.outbox ++ [] } := by rw [List.append_nil]
  unfold State.postEvent
  dsimp only
  split_ifs
  · split
    · obtain ⟨o, ho⟩ := msix (s.modCtx c _) _
      exact ⟨_, o, ho⟩
    · exact ⟨_, [], none_ _⟩
  · exact ⟨_, [], none_ _⟩
  · exact ⟨_, [], none_ _⟩

theorem foldl_postEvent_eq (kind cause : Nat) (arg : Word32) (l : List Nat) (s : State) :
    ∃ x o, l.foldl (fun s c => s.postEvent c kind cause arg) s = { s with ctxs := x, outbox := s.outbox ++ o } := by
  refine List.foldlRecOn (motive := fun s' => ∃ x o, s' = ({ s with ctxs := x, outbox := s.outbox ++ o } : State)) l _
    ⟨s.ctxs, [], by rw [List.append_nil]⟩ ?_
  rintro _ ⟨x, o, rfl⟩ c -
  obtain ⟨y, n, h⟩ := postEvent_eq { s with ctxs := x, outbox := s.outbox ++ o } c kind cause arg
  exact ⟨y, o ++ n, by rw [h, List.append_assoc]⟩

/-- R94, R95: what a request beyond a peer's reach does. -/
theorem peerBlock_does (s : State) (pbr dpa own : Nat) :
    (∀ x, x ∈ (s.peerBlock pbr dpa own).ports.blocked ↔ x = (pbr, own) ∨ x ∈ s.ports.blocked) ∧
      (s.peerBlock pbr dpa own).mil.log = s.mil.log ++ [.violation 6 pbr dpa 1 s.now] ∧
      Msg.peerReply pbr 4 false 0 [] ∈ (s.peerBlock pbr dpa own).outbox ∧ (s.peerBlock pbr dpa own).mem = s.mem := by
  unfold State.peerBlock
  dsimp only
  obtain ⟨x, o, h⟩ := foldl_postEvent_eq 0 0x90 (BitVec.ofNat 32 (6 * 2 ^ 16 + pbr)) _ _
  rw [h]
  refine ⟨fun y => ?_, rfl, List.mem_append_right _ (List.mem_singleton.2 rfl), rfl⟩
  exact (List.mem_append.trans (or_congr_right List.mem_singleton)).trans or_comm

end Sys2Proof.Machine
end

section
/-! PROOFS. Answers of holders (R60, R61), pool writes that leave and complete (R70 to R73, R83, R90, R149), reports of epochs (R72) and
completions of requests (R80): the third part of O49, and O49. -/

namespace Sys2Proof.Machine

/-! ## Peers' requests over links (R54, R55) -/

theorem peerRequest_far {s : State} (h : s.fitting = .w9h ∨ (s.link (linkNo s.arg.n1 s.arg.n3)).ide = false) :
    Does .peerRequest s (s.emit (.peerReply s.arg.n0 1 false 0 [])) := by
  refine congrArg Host.Outcome.next (if_pos ?_)
  rcases h with h | h <;> simp [h]
theorem peerRequest_near {s : State} (hw : s.fitting = .w9l) (hl : (s.link (linkNo s.arg.n1 s.arg.n3)).ide = true) :
    Does .peerRequest s ((s.heard (s.arg.n0 % 4096) (linkNo s.arg.n1 s.arg.n3)).peerReq (s.arg.n0 % 4096) s.arg.n2 s.arg.op) :=
  congrArg Host.Outcome.next (if_neg (by simp [hw, hl]))

/-! ## Answers of holders (R60, R61) -/

/-- Requests that none of the holders' answers has freed go on waiting. -/
theorem runWaits_none {s : State} (h : ∀ w ∈ s.ports.swait, w.bi ≠ 0) : s.runWaits = s := by
  have hfree : (s.ports.swait.filter fun w => w.bi = 0) = [] := by simpa [List.filter_eq_nil_iff] using h
  have hkept : (s.ports.swait.filter fun w => w.bi ≠ 0) = s.ports.swait := by simpa [List.filter_eq_self] using h
  simp only [State.runWaits, hfree, hkept, List.foldl_nil]

/-- A vector of holders without one. -/
def without (bi : Nat) (b : BitVec 16) : BitVec 16 := b &&& ~~~((1 : BitVec 16) <<< bi)
/-- The filter once a holder of a line has answered. -/
def State.snoopWithout (s : State) (bi ln : Nat) : Tbl Snoop :=
  match Tbl.get? s.ports.snoop ln with
  | some x => if without bi x.bi = 0 then Tbl.del s.ports.snoop ln else Tbl.put s.ports.snoop ln { x with bi := without bi x.bi }
  | none => s.ports.snoop
/-- The machine once a holder of a line has answered. -/
def State.holderAnswered (s : State) (bi ln : Nat) : State :=
  { s with ports := { s.ports with
      snoop := s.snoopWithout bi ln, swait := s.ports.swait.map fun w => if w.line = ln then { w with bi := without bi w.bi } else w } }

theorem birsp_ignored {s : State} (h : ∀ w ∈ s.ports.swait, w.line ≠ s.arg.n1) : Does .birsp s s :=
  congrArg Host.Outcome.next (if_pos (by simpa using h))
theorem birsp_answers {s : State} (h : ∃ w ∈ s.ports.swait, w.line = s.arg.n1) : Does .birsp s (s.holderAnswered s.arg.n0 s.arg.n1).runWaits :=
  congrArg Host.Outcome.next (if_neg (by simpa using h))

theorem get?_snoopWithout (s : State) (bi ln j : Nat) : Tbl.get? (s.snoopWithout bi ln) j =
    if j = ln then (Tbl.get? s.ports.snoop ln).bind fun y => if without bi y.bi = 0 then none else some { y with bi := without bi y.bi }
    else Tbl.get? s.ports.snoop j := by
  unfold State.snoopWithout
  cases hy : Tbl.get? s.ports.snoop ln with
  | none =>
    by_cases hj : j = ln
    · simp [hj, hy]
    · simp [hj]
  | some y =>
    dsimp only [Option.bind_some]
    by_cases hb : without bi y.bi = 0
    · rw [if_pos hb, if_pos hb, Tbl.get?_del]
    · rw [if_neg hb, if_neg hb, Tbl.get?_put]

/-! ## Pool writes that leave (R70 to R73, R83, R90) -/

/-- The write of a number that stands at a port. -/
def State.atPort (s : State) (id : Nat) : Option PoolW := s.ports.q.find? fun w => w.id = id

theorem poolWrites_none {s : State} (h : s.atPort s.arg.n0 = none) : Does .poolWriteLeave s s ∧ Does .poolWriteCompletion s s := by
  unfold State.atPort at h
  refine ⟨?_, ?_⟩
  · change execPoolWriteLeave s = _
    simp only [execPoolWriteLeave, h]
  · change execPoolWriteCompletion s = _
    simp only [execPoolWriteCompletion, h]

/-- R71: the queue once a write has left. -/
def State.leftQueue (s : State) (w : PoolW) : List PoolW :=
  s.ports.q.map fun x => if x.id = w.id then { x with left := true, since := s.now, timed := false, stall := [] } else x

/-- R71, R293: what leaves a port: a continuation, or a request to the W9L. -/
def PoolW.message (w : PoolW) : Msg := match w.cont with | some c => .cont w.link c | none => .poolReq w.link w.id w.dpa w.op
/-- R71, R72: the machine once a write has left, its source's releases of the epoch being passed. -/
def State.leaves (s : State) (w : PoolW) : State :=
  { s with
    ports := { s.ports with q := s.leftQueue w, fence := Tbl.put s.ports.fence (w.src * 8 + w.link) (Tbl.getD s.ports.fence (w.src * 8 + w.link) 0 + 1) }
    teams := Tbl.mapV s.teams fun _ t => if t.id.slot = w.src && t.resident && t.id.part = w.part && w.cont.isNone then
      { t with sync := { t.sync with prels := t.sync.prels.filter fun p => p.1 ≠ w.epoch } } else t }

/-- R70 to R73, R83, R90: what the turn of a write does. -/
theorem poolWriteLeave_does {s : State} {w : PoolW} (hw : s.atPort s.arg.n0 = some w) :
    (s.mayLeave w = false → Does .poolWriteLeave s s) ∧
    (s.mayLeave w = true → s.lostW w = true → Does .poolWriteLeave s (s.portDone w)) ∧
    (s.mayLeave w = true → s.lostW w = false → (s.part w.part).drops s.now = true → Does .poolWriteLeave s ((s.portDone w).dropCard w)) ∧
    (s.mayLeave w = true → s.lostW w = false → (s.part w.part).drops s.now = false → ∃ s1, Does .poolWriteLeave s s1 ∧
      Tbl.get? s1.ports.fence (w.src * 8 + w.link) = some (Tbl.getD s.ports.fence (w.src * 8 + w.link) 0 + 1) ∧ s1.ports.q = s.leftQueue w ∧
      s1.outbox = s.outbox ++ [w.message] ∧ s1.mem = s.mem ∧
      s1.launches = s.launches) := by
  unfold State.atPort at hw
  refine ⟨fun hm => ?_, fun hm hl => ?_, fun hm hl hd => ?_, fun hm hl hd => ?_⟩
  · change execPoolWriteLeave s = _
    simp only [execPoolWriteLeave, hw, hm, Bool.not_false, if_true]
  · change execPoolWriteLeave s = _
    simp only [execPoolWriteLeave, hw, hm, hl, Bool.not_true, Bool.false_eq_true, if_false, if_true]
  · change execPoolWriteLeave s = _
    simp only [execPoolWriteLeave, hw, hm, hl, hd, Bool.not_true, Bool.false_eq_true, if_false, if_true]
  · have hdo : exec .poolWriteLeave s = .next ((s.leaves w).emit (w.message)) := by
      change execPoolWriteLeave s = _
      simp only [execPoolWriteLeave, hw, hm, hl, hd, Bool.not_true, Bool.false_eq_true, if_false]
      unfold State.leaves PoolW.message
      cases w.cont <;> rfl
    exact ⟨_, hdo, Tbl.get?_put_self .., rfl, rfl, rfl, rfl⟩

/-! ## Writes that complete (R71, R149, R223) -/

/-- `s'` is `s` but for its requests and page requests, and for messages sent. -/
def SentMore (s s' : State) : Prop := ∃ r p o, s' = { s with xlat := { s.xlat with reqs := r, pris := p }, outbox := s.outbox ++ o }

theorem SentMore.refl (s : State) : SentMore s s := ⟨s.xlat.reqs, s.xlat.pris, [], by rw [List.append_nil]⟩
theorem SentMore.send {s s' : State} (h : SentMore s s') (r : List Req) (p : List Pri) (m : Msg) :
    SentMore s (({ s' with xlat := { s'.xlat with reqs := r, pris := p } } : State).emit m) := by
  obtain ⟨_, _, o, rfl⟩ := h
  exact ⟨r, p, o ++ [m], by rw [← List.append_assoc]; rfl⟩

/-- R54, R56: messages that waited for a link leave, and their requests are noted as sent; nothing else changes. -/
theorem sentMore_sendHeld (s : State) : SentMore s s.sendHeld := by
  unfold State.sendHeld
  dsimp only
  refine List.foldlRecOn (motive := SentMore s) _ _ (List.foldlRecOn (motive := SentMore s) _ _ (.refl s) ?_) fun s' h x _ => h.send _ _ _
  intro s' h x _
  split
  · split_ifs
    · exact h.send _ _ _
    · exact h
  · exact h

/-- R71: a write is over, of a message other than a continuation: its queue entry is gone and its counter lower. -/
theorem portDone_eq {s : State} {w : PoolW} (hc : w.cont = none) : ∃ t c, s.portDone w = { s with
    ports := { s.ports with
      q := s.ports.q.filter fun x => x.id ≠ w.id
      fence := if w.left = true then Tbl.putD s.ports.fence (w.src * 8 + w.link) (Tbl.getD s.ports.fence (w.src * 8 + w.link) 0 - 1) 0 else s.ports.fence }
    teams := t, clusters := c } := by
  unfold State.portDone
  dsimp only
  split
  · exact ⟨_, _, rfl⟩
  · exact ⟨_, _, rfl⟩
  · rw [hc]
    exact ⟨_, _, rfl⟩
  · exact ⟨_, _, rfl⟩

theorem answered_eq (s : State) (p : Option Nat) (st : Nat) : ∃ m, s.answered p st = { s with mil := m } := by
  unfold State.answered
  split
  · split_ifs
    · exact ⟨_, rfl⟩
    · exact ⟨_, rfl⟩
  · exact ⟨_, rfl⟩

@[simp] theorem answered_arg (s : State) (p : Option Nat) (st : Nat) : (s.answered p st).arg = s.arg := by
  obtain ⟨m, h⟩ := answered_eq s p st
  rw [h]

/-- A write that is over, if it still stands at its port. -/
def State.endWrite (s : State) (w : PoolW) : State := if s.ports.q.any (fun y => y.id = w.id) = true then s.portDone w else s

/-- An answer to a write that is still at its port changes nothing, unless its link has refused the write. -/
theorem poolWriteCompletion_ignored {s : State} {w : PoolW} (hw : s.atPort s.arg.n0 = some w) (hl : w.left = false)
    (hn : s.unsupported w = false ∨ s.arg.n1 ≠ 1) : Does .poolWriteCompletion s s := by
  unfold State.atPort at hw
  change execPoolWriteCompletion s = _
  simp only [execPoolWriteCompletion, hw]
  rcases hn with hn | hn <;> simp [hl, hn]

section
variable {s : State} {w : PoolW}

theorem not_ignored_of_answers (hgo : w.left = true ∨ (s.unsupported w = true ∧ s.arg.n1 = 1)) :
    ¬ (!w.left && !(s.unsupported w && decide (s.arg.n1 = 1))) = true := by
  rcases hgo with hl | ⟨hu, hn⟩
  · simp [hl]
  · simp [hu, hn]

/-- R223: a write without room that may wait for an older launch waits. -/
theorem poolWriteCompletion_stalls (hw : s.atPort s.arg.n0 = some w) (hgo : w.left = true ∨ (s.unsupported w = true ∧ s.arg.n1 = 1))
    {ls : List Nat} (hn : s.arg.n1 = 0x4F) (hroom : (s.answered (some w.pbr) s.arg.n1).roomAfter w.launch = some ls) :
    Does .poolWriteCompletion s ((s.answered (some w.pbr) s.arg.n1).stallW w ls).sendHeld := by
  unfold State.atPort at hw
  change execPoolWriteCompletion s = _
  simp only [execPoolWriteCompletion, hw, if_neg (not_ignored_of_answers hgo), answered_arg, if_pos hn, hroom]

/-- R71, R149: any other completion ends its write, a status other than 0 being acted on first. -/
theorem poolWriteCompletion_ends (hw : s.atPort s.arg.n0 = some w) (hgo : w.left = true ∨ (s.unsupported w = true ∧ s.arg.n1 = 1))
    (hroom : s.arg.n1 = 0x4F → (s.answered (some w.pbr) s.arg.n1).roomAfter w.launch = none) {s1 : State}
    (hs1 : (if s.arg.n1 = 0 then s.answered (some w.pbr) s.arg.n1 else (s.answered (some w.pbr) s.arg.n1).writeRefused w s.arg.n1) = s1) :
    Does .poolWriteCompletion s (s1.endWrite w).sendHeld := by
  unfold State.atPort at hw
  have hno : (if s.arg.n1 = 0x4F then (s.answered (some w.pbr) s.arg.n1).roomAfter w.launch else none) = none := by
    split_ifs with h
    · exact hroom h
    · rfl
  change execPoolWriteCompletion s = _
  simp only [execPoolWriteCompletion, hw, if_neg (not_ignored_of_answers hgo), answered_arg, hno, hs1]
  rfl

/-- R71: with status 0 the write is over. -/
theorem poolWriteCompletion_ok (hw : s.atPort s.arg.n0 = some w) (hgo : w.left = true ∨ (s.unsupported w = true ∧ s.arg.n1 = 1))
    (hn : s.arg.n1 = 0) : Does .poolWriteCompletion s ((s.answered (some w.pbr) s.arg.n1).portDone w).sendHeld := by
  have hq : (s.answered (some w.pbr) s.arg.n1).ports.q.any (fun y => y.id = w.id) = true := by
    obtain ⟨m, hm⟩ := answered_eq s (some w.pbr) s.arg.n1
    rw [hm]
    exact List.any_eq_true.2 ⟨w, List.mem_of_find?_eq_some hw, by simp⟩
  have h := poolWriteCompletion_ends hw hgo (fun h => by omega) (if_pos hn)
  rwa [State.endWrite, if_pos hq] at h

/-- R71, R72: after the completion of a write that has left, its entry is gone and its fence counter lower. -/
theorem poolWriteCompletion_frame (hw : s.atPort s.arg.n0 = some w) (hl : w.left = true) (hn : s.arg.n1 = 0) (hc : w.cont = none) :
    ∃ s1, Does .poolWriteCompletion s s1 ∧ (∀ x ∈ s1.ports.q, x.id ≠ w.id) ∧
      Tbl.getD s1.ports.fence (w.src * 8 + w.link) 0 = Tbl.getD s.ports.fence (w.src * 8 + w.link) 0 - 1 ∧ s1.mem = s.mem ∧ s1.launches = s.launches := by
  refine ⟨_, poolWriteCompletion_ok hw (.inl hl) hn, ?_⟩
  obtain ⟨m, hm⟩ := answered_eq s (some w.pbr) s.arg.n1
  obtain ⟨t, c, hd⟩ := portDone_eq (s := s.answered (some w.pbr) s.arg.n1) hc
  obtain ⟨r, p, o, hs⟩ := sentMore_sendHeld ((s.answered (some w.pbr) s.arg.n1).portDone w)
  rw [hs, hd, hm, if_pos hl]
  exact ⟨fun x hx => by simpa using (List.mem_filter.1 hx).2, by simp, rfl, rfl⟩

end

/-! ## Completions of requests (R80) -/

theorem cxlCompletion_unknown {s : State} (h : (s.xlat.reqs.find? fun r => r.tag = s.arg.n0) = none) : Does .cxlCompletion s s := by
  change execCxlCompletion s = _
  simp only [execCxlCompletion, h]

theorem cxlCompletion_ignored {s : State} {r : Req} (h : (s.xlat.reqs.find? fun r => r.tag = s.arg.n0) = some r)
    (hi : (∃ c, r.for_ = .ats c) ∨ (r.msg.isSome = true ∧ (s.refusedHere r = false ∨ s.arg.n1 ≠ 1))) : Does .cxlCompletion s s := by
  change execCxlCompletion s = _
  simp only [execCxlCompletion, h]
  rcases hi with ⟨c, hc⟩ | ⟨hm, hr⟩
  · rw [hc]
  · have hcond : (r.msg.isSome && !(s.refusedHere r && decide (s.arg.n1 = 1))) = true := by
      rcases hr with hr | hr <;> simp [hm, hr]
    split
    · rfl
    · rw [if_pos hcond]

/-- The machine once a request is answered, before its asker is served. -/
def State.requestAnswered (s : State) (r : Req) : State :=
  ({ s with xlat := { s.xlat with reqs := s.xlat.reqs.filter fun x => x.tag ≠ r.tag } } : State).answered r.pbr s.arg.n1

theorem cxlCompletion_serves {s : State} {r : Req} (h : (s.xlat.reqs.find? fun r => r.tag = s.arg.n0) = some r)
    (hc : ∀ c, r.for_ ≠ .ats c) (hm : r.msg = none ∨ (s.refusedHere r = true ∧ s.arg.n1 = 1)) :
    Does .cxlCompletion s (((s.requestAnswered r).reqRefused r s.arg.n1).getD
      ((s.requestAnswered r).serve r s.arg.n1 s.arg.flag (s.arg.wide.setWidth 512) (words 1024 s.arg.bytes))).sweep.sendHeld := by
  have hcond : ¬ (r.msg.isSome && !(s.refusedHere r && decide (s.arg.n1 = 1))) = true := by
    rcases hm with hm | ⟨hr, hn⟩
    · simp [hm]
    · simp [hr, hn]
  change execCxlCompletion s = _
  simp only [execCxlCompletion, h]
  rw [if_neg hcond]
  rfl

/-! ## O49 -/

section
variable {s : State}

/-- R60, R61, R713: a host's request that its W9L's port takes. -/
theorem hostMemRequest_at {pa : Nat} (hreach : s.hostReaches) (h : s.dpaPa s.arg.n1 = some pa) (ha : s.adding pa = false) (hr : s.releasing pa = false) :
    let s1 := s.heard (4096 + s.arg.n0) (linkNo s.arg.n2 s.arg.n3)
    let go := s1.hostGo s.arg.n0 pa s.arg.op
    let wait := s1.hostWait s.arg.n0 s.arg.n1 s.arg.op
    let reads := s.arg.op = .read ∨ s.arg.op = .readExcl
    (s.bulkSlot (s.arg.n1 / 2 ^ 28) = true → Does .hostMemRequest s go) ∧
    (s.bulkSlot (s.arg.n1 / 2 ^ 28) = false →
      (s1.asksHolders s.arg.op (lineNo pa) (some s.arg.n0) = true → Does .hostMemRequest s (wait (lineNo pa) (s1.holders (lineNo pa) (some s.arg.n0)))) ∧
      (s1.asksHolders s.arg.op (lineNo pa) (some s.arg.n0) = false →
        (¬ reads → Does .hostMemRequest s go) ∧
        (∀ v, reads → s1.snoopVictim (lineNo pa) = some v → Does .hostMemRequest s (wait v.1 v.2.bi)) ∧
        (reads → s1.snoopVictim (lineNo pa) = none →
          Does .hostMemRequest s (go.hold (lineNo pa) s.arg.n0 (decide (s.arg.op = .readExcl)))))) := by
  intro s1 go wait reads
  have hdo {x : State} (hx : s1.hostReq s.arg.n0 s.arg.n1 s.arg.op = x) : Does .hostMemRequest s x := hx ▸ hostMemRequest_near hreach
  have h1 : s1.dpaPa s.arg.n1 = some pa := (heard_dpaPa ..).trans h
  have ha1 : s1.adding pa = false := (heard_adding ..).trans ha
  have hr1 : s1.releasing pa = false := (heard_releasing ..).trans hr
  have hb1 {b : Bool} (hb : s.bulkSlot (s.arg.n1 / 2 ^ 28) = b) : s1.bulkSlot (s.arg.n1 / 2 ^ 28) = b := (heard_bulkSlot ..).trans hb
  exact ⟨fun hb => hdo (hostReq_bulk h1 ha1 hr1 (hb1 hb)),
    fun hb => ⟨fun hk => hdo (hostReq_asks h1 ha1 hr1 (hb1 hb) hk),
      fun hk => ⟨fun hop => hdo (hostReq_alone h1 ha1 hr1 (hb1 hb) hk hop),
        fun _ hop hv => hdo (hostReq_victim h1 ha1 hr1 (hb1 hb) hk hop hv),
        fun hop hv => hdo (hostReq_holds h1 ha1 hr1 (hb1 hb) hk hop hv)⟩⟩⟩

/-- R60, R94, R95, R713: the checks of a request under an extent, in their order. -/
theorem peerOwned_does (s : State) (pbr dpa pa own : Nat) (op : MemOp) :
    (s.adding pa = true → s.peerOwned pbr dpa pa own op = s.peerDrop pbr dpa) ∧
    (s.adding pa = false →
      ((pbr, own) ∈ s.ports.blocked → s.peerOwned pbr dpa pa own op = s.peerRefuse pbr) ∧
      ((pbr, own) ∉ s.ports.blocked →
        (Config.peerReach pbr own = false → s.peerOwned pbr dpa pa own op = s.peerBlock pbr dpa own) ∧
        (Config.peerReach pbr own = true →
          (s.releasing pa = true → s.peerOwned pbr dpa pa own op = s.peerRefuse pbr) ∧
          (s.releasing pa = false →
            (s.bulkSlot (dpa / 2 ^ 28) = false → s.asksHolders op (lineNo pa) none = true → s.peerOwned pbr dpa pa own op = s.peerWait pbr dpa pa op) ∧
            (s.bulkSlot (dpa / 2 ^ 28) = true ∨ s.asksHolders op (lineNo pa) none = false → s.peerOwned pbr dpa pa own op = s.peerGo pbr pa own op))))) := by
  unfold State.peerOwned
  refine ⟨fun ha => if_pos ha, fun ha => ?_⟩
  rw [if_neg (Bool.eq_false_iff.1 ha)]
  refine ⟨fun hb => if_pos hb, fun hb => ?_⟩
  rw [if_neg hb]
  refine ⟨fun hr => if_pos (by simp [hr]), fun hr => ?_⟩
  rw [if_neg (by simp [hr])]
  refine ⟨fun hl => if_pos hl, fun hl => ?_⟩
  rw [if_neg (Bool.eq_false_iff.1 hl)]
  refine ⟨fun hs hk => if_pos (by rw [hs, hk]; rfl), fun h => if_neg ?_⟩
  rcases h with h | h <;> rw [h] <;> simp

/-- R94, R95, R713: a peer's request under an extent: its block, its reach, and its holders. -/
theorem peerRequest_at {pa own : Nat} (hw : s.fitting = .w9l) (hl : (s.link (linkNo s.arg.n1 s.arg.n3)).ide = true) (hop : Viewless s.arg.op)
    (h : s.dpaPa s.arg.n2 = some pa) (ho : Tbl.get? s.ports.eown (extentOf pa) = some own) :
    Does .peerRequest s ((s.heard (s.arg.n0 % 4096) (linkNo s.arg.n1 s.arg.n3)).peerOwned (s.arg.n0 % 4096) s.arg.n2 pa own s.arg.op) := by
  rw [← peerReq_owned hop ((heard_dpaPa ..).trans h) ((congrArg (Tbl.get? · _) (heard_eown ..)).trans ho)]
  exact peerRequest_near hw hl

end

/-- Settles O49: each event's equation above, on the machine that has heard from the sender. -/
theorem portEvents : Obligations.PortEvents := by
  unfold Obligations.PortEvents
  intro s a p out tag
  refine ⟨capacity_w9h, ?_, (addCapacityComplete_does s).1, (addCapacityComplete_does s).2, (releaseCapacityComplete_does s).1,
    fun e h he => ⟨s.rescrubs e, (releaseCapacityComplete_does s).2 e h he, mem_rescrubs s e⟩, ?_, (h2dSnoop_does s).1, (h2dSnoop_does s).2, ?_,
    birsp_ignored, ?_, poolWrites_none, fun w hw => ?_, rfl, cxlCompletion_unknown, fun r h => ⟨cxlCompletion_ignored h, fun hc hm => ?_⟩⟩
  · intro hw
    exact ⟨(addCapacity_w9l hw).1, (addCapacity_w9l hw).2, (releaseCapacity_w9l hw).1, (releaseCapacity_w9l hw).2.1, (releaseCapacity_w9l hw).2.2,
      footprintTableArrival_w9l hw⟩
  · intro reach s1 refused
    have hdo {x : State} (hreach : reach) (hx : s1.hostReq s.arg.n0 s.arg.n1 s.arg.op = x) : Does .hostMemRequest s x := hx ▸ hostMemRequest_near hreach
    have hd1 {o : Option Nat} (hd : s.dpaPa a.n1 = o) : s1.dpaPa a.n1 = o := (heard_dpaPa ..).trans hd
    refine ⟨hostMemRequest_far, fun hreach hd => hdo hreach (hostReq_unmapped (hd1 hd)), fun pa hreach hd hor => hdo hreach (hostReq_held (hd1 hd) ?_),
      fun pa hreach hd ha hr => ?_⟩
    · exact hor.imp (heard_adding ..).trans (heard_releasing ..).trans
    rw [show p.eown = s1.ports.eown from (heard_eown ..).symm]
    refine ⟨(hostMemRequest_at hreach hd ha hr).1, (hostMemRequest_at hreach hd ha hr).2, fun hb hop => ?_, fun m d po hb hop hnone => ?_⟩
    · refine ⟨_, (hostMemRequest_at hreach hd ha hr).1 hb, ?_⟩
      have hread := hostGo_read s1 s.arg.n0 pa
      rw [hop]
      simpa [s1] using hread
    · refine ⟨_, (hostMemRequest_at hreach hd ha hr).1 hb, ?_⟩
      have hwrite := hostGo_write ((heard_launches ..).trans hnone : s1.launches = []) s.arg.n0 pa m d po
      rw [hop]
      simpa [s1] using hwrite
  · intro l d s1 viewless
    refine ⟨peerRequest_far, fun hw hl => ⟨peerRequest_near hw hl, fun hv => ?_⟩⟩
    have hdo {x : State} (hx : s1.peerReq d s.arg.n2 s.arg.op = x) : Does .peerRequest s x := hx ▸ peerRequest_near hw hl
    have hdrop : s1.peerDrop d s.arg.n2 = (s1.logIt (.peerRefused d s.arg.n2 s.now)).emit (.peerReply d 4 false 0 []) := by
      rw [State.peerDrop, heard_now]
    refine ⟨fun hd => hdo ((peerReq_unmapped hv ((heard_dpaPa ..).trans hd)).trans hdrop), fun pa hd =>
      ⟨fun ho => hdo ((peerReq_unowned hv ((heard_dpaPa ..).trans hd) ((congrArg (Tbl.get? · _) (heard_eown ..)).trans ho)).trans hdrop), fun own ho => ?_⟩⟩
    have hdo {x : State} (hx : s1.peerOwned d s.arg.n2 pa own s.arg.op = x) : Does .peerRequest s x := hx ▸ peerRequest_at hw hl hv hd ho
    have hown := peerOwned_does s1 d s.arg.n2 pa own s.arg.op
    simp only [s1, heard_adding, heard_blocked, heard_releasing, heard_bulkSlot] at hown
    obtain ⟨hadd, hown⟩ := hown
    refine ⟨fun ha => hdo ((hadd ha).trans hdrop), fun ha => ?_⟩
    obtain ⟨hblk, hown⟩ := hown ha
    refine ⟨fun hb => hdo (hblk hb), fun hb hr => ⟨_, hdo ((hown hb).1 hr), ?_⟩, fun hb hr => ?_⟩
    · simpa [s1] using peerBlock_does s1 d s.arg.n2 own
    obtain ⟨hrel, hown⟩ := (hown hb).2 hr
    exact ⟨fun h => hdo (hrel h), fun h => ⟨fun hs hk => hdo ((hown h).1 hs hk), fun h' => hdo ((hown h).2 h')⟩⟩
  · intro clear hex
    exact ⟨s.holderAnswered a.n0 a.n1, birsp_answers hex, rfl, rfl,
      fun y hy => (get?_snoopWithout ..).trans (by rw [if_pos rfl, hy]; rfl), fun j hj => (get?_snoopWithout ..).trans (if_neg hj), runWaits_none⟩
  · refine ⟨(poolWriteLeave_does hw).1, (poolWriteLeave_does hw).2.1, (poolWriteLeave_does hw).2.2.1, ?_, poolWriteCompletion_ignored hw,
      fun hgo => ⟨poolWriteCompletion_ok hw hgo, fun hn h4f => poolWriteCompletion_ends hw hgo (absurd · h4f) (if_neg hn),
        fun ls => poolWriteCompletion_stalls hw hgo,
        fun hn hroom => poolWriteCompletion_ends hw hgo (fun _ => hroom) (if_neg (by rw [show s.arg.n1 = 0x4F from hn]; decide))⟩, poolWriteCompletion_frame hw⟩
    exact (poolWriteLeave_does hw).2.2.2
  · have hserves := cxlCompletion_serves h hc hm
    exact ⟨fun hnone => by rwa [show (s.requestAnswered r).reqRefused r s.arg.n1 = none from hnone] at hserves,
      fun s2 hsome => by rwa [show (s.requestAnswered r).reqRefused r s.arg.n1 = some s2 from hsome] at hserves⟩

end Sys2Proof.Machine
end

section
/-! PROOFS. Links that train and are keyed (R50, R53, R55, R56), and what is lost with a link, an expander or a die (R24, R89 to R92, R221, R714):
the first part of O44. -/

namespace Sys2Proof.Machine

/-! ## Training and keys (R50, R53, R55, R56) -/

theorem link_modLink (s : State) (l j : Nat) (f : Link → Link) : (s.modLink l f).link j = if j = l then f (s.link l) else s.link j := by
  simp [State.modLink, State.link]
theorem link_modLink_same (s : State) (l : Nat) (f : Link → Link) : (s.modLink l f).link l = f (s.link l) := (link_modLink ..).trans (if_pos rfl)
theorem link_modLink_ne {s : State} {l j : Nat} (h : j ≠ l) (f : Link → Link) : (s.modLink l f).link j = s.link j := (link_modLink ..).trans (if_neg h)

/-- R54, R55: a training that nothing comes of. -/
theorem linkTraining_ignored {s : State} (h : s.hasLink s.arg.n0 s.arg.n1 = false ∨ (s.link (linkNo s.arg.n0 s.arg.n1)).up = true ∨ s.arg.flag = true ∨
    portKind s.fitting s.arg.n0 (if s.arg.n3 = 0 then .pcie else .cxl) = none) : Does .linkTraining s s := by
  refine congrArg Host.Outcome.next ?_
  by_cases hup : (!s.hasLink s.arg.n0 s.arg.n1 || (s.link (linkNo s.arg.n0 s.arg.n1)).up) = true
  · exact if_pos hup
  · refine (if_neg hup).trans (if_pos ?_)
    simp only [Bool.or_eq_true, Bool.not_eq_true', not_or, Bool.not_eq_false, Bool.not_eq_true] at hup
    rcases h with h | h | h | h
    · rw [hup.1] at h; cases h
    · rw [hup.2] at h; cases h
    · rw [h]; rfl
    · rw [h, Option.isNone_none, Bool.or_true]

section
variable {s : State} (hl : s.hasLink s.arg.n0 s.arg.n1 = true) (hup : (s.link (linkNo s.arg.n0 s.arg.n1)).up = false) (hf : s.arg.flag = false)
  (hk : (portKind s.fitting s.arg.n0 (if s.arg.n3 = 0 then .pcie else .cxl)).isSome = true)
include hl hup hf hk

/-- R50: a link that may train comes up at a rate of its three, and another rate is logged. -/
theorem linkTraining_eq {x : State} (hx : (if s.arg.n2 = 64 ∨ s.arg.n2 = 32 ∨ s.arg.n2 = 16 then
      s.modLink (linkNo s.arg.n0 s.arg.n1) fun _ => { up := true, proto := some (if s.arg.n3 = 0 then .pcie else .cxl)
                                                      hbr := s.arg.opt.isSome && decide (s.arg.n0 ≠ 0), gts := s.arg.n2 }
    else s.logIt (.trainFail (linkNo s.arg.n0 s.arg.n1))) = x) : Does .linkTraining s x := by
  refine congrArg Host.Outcome.next ((if_neg (by simp [hl, hup])).trans ((if_neg ?_).trans hx))
  rw [hf, Bool.false_or, Option.isNone_iff_eq_none]
  exact Option.isSome_iff_ne_none.1 hk

end

/-- R54, R56: when nothing waits for a link, nothing leaves at its keys. -/
theorem sendHeld_none {s : State} (hr : ∀ r ∈ s.xlat.reqs, r.msg = none) (hp : ∀ r ∈ s.xlat.pris, r.sent = true) : s.sendHeld = s := by
  have hreqs : (s.xlat.reqs.filter fun r => r.msg.isSome) = [] := by
    rw [List.filter_eq_nil_iff]
    intro r h
    simp [hr r h]
  have hpris : (s.xlat.pris.filter fun r => !r.sent) = [] := by
    rw [List.filter_eq_nil_iff]
    intro r h
    simp [hp r h]
  simp only [State.sendHeld, hreqs, List.foldl_nil, hpris, List.take_nil, ite_self]

/-- R56: a link with its keys. -/
def State.keyed (s : State) (l : Nat) : State := s.modLink l fun x => { x with ide := true, insecure := false }

theorem ideKmKeyProgramming_keys {s : State} (hup : (s.link (linkNo s.arg.n0 s.arg.n1)).up = true) (hh : (s.link (linkNo s.arg.n0 s.arg.n1)).hbr = false) :
    Does .ideKmKeyProgramming s (s.keyed (linkNo s.arg.n0 s.arg.n1)).sendHeld :=
  congrArg Host.Outcome.next (if_pos (by rw [hup, hh]; rfl))
theorem ideKmKeyProgramming_ignored {s : State} (h : (s.link (linkNo s.arg.n0 s.arg.n1)).up = false ∨ (s.link (linkNo s.arg.n0 s.arg.n1)).hbr = true) :
    Does .ideKmKeyProgramming s s :=
  congrArg Host.Outcome.next (if_neg (by rcases h with h | h <;> simp [h]))

/-! ## The loss of a W9L (R89 to R92) -/

/-- R91: the lost-range trap is told to contexts and their teams. -/
theorem tellLost_eq (s : State) (cs : List Nat) (base len : Nat) (w : Word) : ∃ c t, s.tellLost cs base len w = { s with ctxs := c, teams := t } := by
  unfold State.tellLost
  refine List.foldlRecOn (motive := fun s' => ∃ c t, s' = ({ s with ctxs := c, teams := t } : State)) cs _ ⟨s.ctxs, s.teams, rfl⟩ ?_
  rintro _ ⟨c, t, rfl⟩ x -
  exact ⟨_, _, rfl⟩

/-- `s'` is `s` after the loss of W9Ls: their decoder entries are marked lost, and contexts and teams are told. -/
def DiesLost (pbrs : List Nat) (s s' : State) : Prop :=
  ∃ pl d c t, s' = { s with draws := d, ctxs := c, teams := t, ports := { s.ports with pool := pl } } ∧
    ∀ k e, Tbl.get? s.ports.pool k = some e → ∃ e', Tbl.get? pl k = some e' ∧ e'.pbr = e.pbr ∧ (e.lost = true ∨ e.pbr ∈ pbrs → e'.lost = true)

theorem DiesLost.quiet {pbrs : List Nat} {s s' : State} (h : DiesLost pbrs s s') (hq : Quiet s) : Quiet s' := by
  obtain ⟨_, _, _, _, rfl, -⟩ := h
  exact ⟨hq.launches, hq.queue, hq.requests, hq.foreign, hq.snoops⟩
theorem DiesLost.link {pbrs : List Nat} {s s' : State} (h : DiesLost pbrs s s') (l : Nat) : s'.link l = s.link l := by
  obtain ⟨_, _, _, _, rfl, -⟩ := h
  rfl
theorem DiesLost.nil (s : State) : DiesLost [] s s :=
  ⟨s.ports.pool, s.draws, s.ctxs, s.teams, rfl, fun _ e he => ⟨e, he, rfl, fun h => h.elim id (absurd · List.not_mem_nil)⟩⟩
theorem DiesLost.cons {p : Nat} {ps : List Nat} {s s' s'' : State} (h : DiesLost [p] s s') (h' : DiesLost ps s' s'') : DiesLost (p :: ps) s s'' := by
  obtain ⟨pl, d, c, t, rfl, hpl⟩ := h
  obtain ⟨pl', d', c', t', rfl, hpl'⟩ := h'
  refine ⟨pl', d', c', t', rfl, fun k e he => ?_⟩
  obtain ⟨e1, he1, hp1, hl1⟩ := hpl k e he
  obtain ⟨e2, he2, hp2, hl2⟩ := hpl' k e1 he1
  refine ⟨e2, he2, hp2.trans hp1, ?_⟩
  rintro (hl | hm)
  · exact hl2 (.inl (hl1 (.inl hl)))
  · rcases List.mem_cons.1 hm with hm | hm
    · exact hl2 (.inl (hl1 (.inr (List.mem_singleton.2 hm))))
    · exact hl2 (.inr (hp1 ▸ hm))

/-- R90: with nothing to end, requests to a lost W9L change nothing. -/
theorem endRequests_quiet {s : State} (hl : s.launches = []) (hr : s.xlat.reqs = []) (pbr : Nat) : s.endRequests pbr = s := by
  have hs : ({ s with xlat := { s.xlat with reqs := [] } } : State) = s := by rw [← hr]
  unfold State.endRequests
  rw [hr]
  change ({ s with xlat := { s.xlat with reqs := [] } } : State).sweep = s
  rw [hs]
  exact if_neg (by simp [hl])

/-- R89: the machine with the entries of a W9L marked lost. -/
def State.poolLost (s : State) (pbr : Nat) : State :=
  { s with ports := { s.ports with pool := Tbl.mapV s.ports.pool fun _ e => if e.pbr = pbr then { e with lost := true } else e } }

theorem diesLost_poolLost (s : State) (pbr : Nat) : DiesLost [pbr] s (s.poolLost pbr) := by
  refine ⟨_, s.draws, s.ctxs, s.teams, rfl, fun k e he => ⟨_, by rw [Tbl.get?_mapV, he]; rfl, ?_⟩⟩
  dsimp only
  split_ifs with h
  · exact ⟨rfl, fun _ => rfl⟩
  · exact ⟨rfl, fun hl => hl.elim id fun hm => absurd (List.mem_singleton.1 hm) h⟩

theorem loseDie_quiet {s : State} (hq : Quiet s) (pbr : Nat) : DiesLost [pbr] s (s.loseDie pbr) := by
  have hlost : ∃ es : List PoolEnt, s.loseDie pbr = es.foldl (fun s e => s.tellLost ((s.ctxsOf e.part ++ s.kvCtxs e.base e.len).dedup) e.base e.len
      (BitVec.ofNat 64 (e.pbr * 2 ^ 20))) ((s.poolLost pbr).endRequests pbr) := by
    simp only [State.loseDie, State.poolLost, hq.launches, hq.queue, List.zipIdx_nil, List.filter_nil, List.map_nil, List.foldl_nil, List.length_nil, Nat.add_zero]
    exact ⟨_, rfl⟩
  obtain ⟨es, hes⟩ := hlost
  rw [hes, endRequests_quiet (s := s.poolLost pbr) hq.launches hq.requests]
  refine List.foldlRecOn (motive := DiesLost [pbr] s) es _ (diesLost_poolLost s pbr) ?_
  rintro _ ⟨pl, d, c, t, rfl, hpl⟩ e -
  obtain ⟨c', t', hc⟩ := tellLost_eq _ _ _ _ _
  rw [hc]
  exact ⟨pl, d, c', t', rfl, hpl⟩

theorem foldl_loseDie {pbrs : List Nat} {s : State} (hq : Quiet s) : DiesLost pbrs s (pbrs.foldl State.loseDie s) := by
  induction pbrs generalizing s with
  | nil => exact .nil s
  | cons p ps ih => exact (loseDie_quiet hq p).cons (ih ((loseDie_quiet hq p).quiet hq))

/-! ## The loss of a peer (R89, R714) -/

/-- `s'` is `s` after the loss of peers: they are unreachable from now on, unless they were before, and hold nothing. -/
def PeersLost (pbrs : List Nat) (s s' : State) : Prop :=
  ∃ sn u, s' = { s with ports := { s.ports with snoop := sn, unreach := u } } ∧
    ∀ d, Tbl.get? u d = (Tbl.get? s.ports.unreach d).or (if d ∈ pbrs then some s.now else none)

theorem PeersLost.quiet {pbrs : List Nat} {s s' : State} (h : PeersLost pbrs s s') (hq : Quiet s) : Quiet s' := by
  obtain ⟨_, _, rfl, -⟩ := h
  exact ⟨hq.launches, hq.queue, hq.requests, hq.foreign, hq.snoops⟩
theorem PeersLost.link {pbrs : List Nat} {s s' : State} (h : PeersLost pbrs s s') (l : Nat) : s'.link l = s.link l := by
  obtain ⟨_, _, rfl, -⟩ := h
  rfl
theorem PeersLost.nil (s : State) : PeersLost [] s s := ⟨s.ports.snoop, s.ports.unreach, rfl, fun d => by simp⟩
theorem PeersLost.cons {p : Nat} {ps : List Nat} {s s' s'' : State} (h : PeersLost [p] s s') (h' : PeersLost ps s' s'') : PeersLost (p :: ps) s s'' := by
  obtain ⟨sn, u, rfl, hu⟩ := h
  obtain ⟨sn', u', rfl, hu'⟩ := h'
  refine ⟨sn', u', rfl, fun d => ?_⟩
  refine (hu' d).trans ?_
  dsimp only
  rw [hu d, Option.or_assoc]
  refine congrArg (Option.or _) ?_
  by_cases hp : d = p
  · rw [if_pos (List.mem_singleton.2 hp), if_pos (List.mem_cons.2 (.inl hp)), Option.some_or]
  · rw [if_neg (hp ∘ List.mem_singleton.1), Option.none_or]
    simp only [List.mem_cons, hp, false_or]

/-- R714: a die that is not unreachable yet becomes it. -/
theorem get?_unreachable (s : State) (p : Nat) : ∃ u, s.unreachable p = { s with ports := { s.ports with unreach := u } } ∧
    ∀ d, Tbl.get? u d = (Tbl.get? s.ports.unreach d).or (if d = p then some s.now else none) := by
  unfold State.unreachable
  split_ifs with h
  · refine ⟨s.ports.unreach, rfl, fun d => ?_⟩
    by_cases hd : d = p
    · obtain ⟨t, ht⟩ := Option.isSome_iff_exists.1 h
      rw [hd, ht, Option.some_or]
    · rw [if_neg hd, Option.or_none]
  · refine ⟨_, rfl, fun d => ?_⟩
    rw [Tbl.get?_put]
    by_cases hd : d = p
    · rw [hd, if_pos rfl, if_pos rfl, Option.not_isSome_iff_eq_none.1 h, Option.none_or]
    · rw [if_neg hd, if_neg hd, Option.or_none]

theorem losePeer_quiet {s : State} (hq : Quiet s) (p : Nat) : PeersLost [p] s (s.losePeer p) := by
  have hlost (s' : State) (sn : Tbl Snoop) (hs : s' = { s with ports := { s.ports with snoop := sn } }) : PeersLost [p] s (s'.unreachable p) := by
    obtain ⟨u, hu, hget⟩ := get?_unreachable s' p
    rw [hu]
    subst hs
    exact ⟨sn, u, rfl, fun d => (hget d).trans (by simp only [List.mem_singleton])⟩
  unfold State.losePeer
  simp only [hq.foreign, List.filter_nil, List.foldl_nil]
  split_ifs
  · exact hlost s s.ports.snoop rfl
  · have hnone : (s.dropHolder (p - 4096)).ports.swait = [] := by simp [State.dropHolder, hq.snoops]
    rw [runWaits_none (by simp [hnone])]
    refine hlost _ (s.dropHolder (p - 4096)).ports.snoop ?_
    simp [State.dropHolder, hq.snoops]

theorem foldl_losePeer {pbrs : List Nat} {s : State} (hq : Quiet s) : PeersLost pbrs s (pbrs.foldl State.losePeer s) := by
  induction pbrs generalizing s with
  | nil => exact .nil s
  | cons p ps ih => exact (losePeer_quiet hq p).cons (ih ((losePeer_quiet hq p).quiet hq))

/-! ## Links that go down, and agents that go (R56, R89) -/

/-- R89: a link that is down. -/
def State.unlinked (s : State) (l : Nat) : State := s.modLink l fun x => { x with up := false, ide := false }

theorem Quiet.unlinked {s : State} (hq : Quiet s) (l : Nat) : Quiet (s.unlinked l) := ⟨hq.launches, hq.queue, hq.requests, hq.foreign, hq.snoops⟩

theorem linkDown_of_down {s : State} {l : Nat} (h : (s.link l).up = false) : s.linkDown l = s := if_pos (by simp [h])

section
variable {s : State} {l : Nat} (hup : (s.link l).up = true)
include hup

theorem linkDown_w9h (hw : s.fitting = .w9h) : s.linkDown l =
    (((s.ports.pool.filter fun e => e.2.link = l && !e.2.lost).map fun e => e.2.pbr).dedup).foldl State.loseDie (s.unlinked l) :=
  (if_neg (by simp [hup])).trans (if_pos hw)
theorem linkDown_w9l (hw : s.fitting ≠ .w9h) : s.linkDown l = ((s.ports.peers.filter fun p => p.2 = l).map Prod.fst).foldl State.losePeer (s.unlinked l) :=
  (if_neg (by simp [hup])).trans (if_neg hw)

/-- A link with nothing behind it. -/
theorem linkDown_alone (hpool : ∀ e ∈ s.ports.pool, e.2.link ≠ l) (hpeers : ∀ p ∈ s.ports.peers, p.2 ≠ l) : s.linkDown l = s.unlinked l := by
  have hnodie : (s.ports.pool.filter fun e => e.2.link = l && !e.2.lost) = [] := by
    rw [List.filter_eq_nil_iff]
    intro e he
    simp [hpool e he]
  have hnopeer : (s.ports.peers.filter fun p => p.2 = l) = [] := by
    rw [List.filter_eq_nil_iff]
    intro p hp
    simp [hpeers p hp]
  by_cases hw : s.fitting = .w9h
  · rw [linkDown_w9h hup hw, hnodie]
    rfl
  · rw [linkDown_w9l hup hw, hnopeer]
    rfl

/-- R89: a W9H loses the W9Ls behind the link. -/
theorem linkDown_dies (hw : s.fitting = .w9h) (hq : Quiet s) : (s.linkDown l).link l = { s.link l with up := false, ide := false } ∧
    ∀ k e, Tbl.get? s.ports.pool k = some e → e.link = l → ∃ e', Tbl.get? (s.linkDown l).ports.pool k = some e' ∧ e'.lost = true := by
  rw [linkDown_w9h hup hw]
  have h := foldl_loseDie (pbrs := ((s.ports.pool.filter fun e => e.2.link = l && !e.2.lost).map fun e => e.2.pbr).dedup) (hq.unlinked l)
  refine ⟨(h.link l).trans (link_modLink_same ..), fun k e he hl => ?_⟩
  obtain ⟨_, _, _, _, hs, hpl⟩ := h
  obtain ⟨e', he', -, hlost⟩ := hpl k e he
  rw [hs]
  refine ⟨e', he', hlost ?_⟩
  by_cases hlo : e.lost = true
  · exact .inl hlo
  · exact .inr (List.mem_dedup.2 (List.mem_map.2 ⟨(k, e), List.mem_filter.2 ⟨mem_of_get? he, by simp [hl, hlo]⟩, rfl⟩))

/-- R89, R714: a W9L finds the dies behind the link unreachable. -/
theorem linkDown_peers (hw : s.fitting = .w9l) (hq : Quiet s) : (s.linkDown l).link l = { s.link l with up := false, ide := false } ∧
    ∀ d, (d, l) ∈ s.ports.peers → (Tbl.get? s.ports.unreach d).isNone = true → Tbl.get? (s.linkDown l).ports.unreach d = some s.now := by
  rw [linkDown_w9l hup (by rw [hw]; decide)]
  have h := foldl_losePeer (pbrs := (s.ports.peers.filter fun p => p.2 = l).map Prod.fst) (hq.unlinked l)
  refine ⟨(h.link l).trans (link_modLink_same ..), fun d hd hn => ?_⟩
  obtain ⟨_, _, hs, hu⟩ := h
  rw [hs]
  refine (hu d).trans ?_
  rw [if_pos (List.mem_map.2 ⟨(d, l), List.mem_filter.2 ⟨hd, by simp⟩, rfl⟩)]
  rw [show Tbl.get? (s.unlinked l).ports.unreach d = none from Option.isNone_iff_eq_none.1 hn]
  rfl

end

/-- R56: a link at its integrity failure, before it goes down. -/
def State.insecured (s : State) (l : Nat) : State := (s.modLink l fun x => { x with insecure := true }).emit (.ideError l)

theorem ideIntegrityFailure_fails {s : State} (h : (s.link (linkNo s.arg.n0 s.arg.n1)).ide = true) :
    Does .ideIntegrityFailure s ((s.insecured (linkNo s.arg.n0 s.arg.n1)).linkDown (linkNo s.arg.n0 s.arg.n1)) := congrArg Host.Outcome.next (if_pos h)
theorem ideIntegrityFailure_ignored {s : State} (h : (s.link (linkNo s.arg.n0 s.arg.n1)).ide = false) : Does .ideIntegrityFailure s s :=
  congrArg Host.Outcome.next (if_neg (by simp [h]))
theorem link_insecured (s : State) (l : Nat) : (s.insecured l).link l = { s.link l with insecure := true } := link_modLink_same ..

/-- R89: a removed W9L, of a W9H. -/
theorem loseAgent_w9h {s : State} (hw : s.fitting = .w9h) (hq : Quiet s) (pbr : Nat) {k : Nat} {e : PoolEnt} (he : Tbl.get? s.ports.pool k = some e)
    (hp : e.pbr = pbr) : ∃ e', Tbl.get? (s.loseAgent pbr).ports.pool k = some e' ∧ e'.lost = true := by
  rw [State.loseAgent, if_pos hw]
  obtain ⟨_, _, _, _, hs, hpl⟩ := loseDie_quiet hq pbr
  obtain ⟨e', he', -, hlost⟩ := hpl k e he
  rw [hs]
  exact ⟨e', he', hlost (.inr (List.mem_singleton.2 hp))⟩
/-- R89, R714: a removed die, of a W9L. -/
theorem loseAgent_w9l {s : State} (hw : s.fitting = .w9l) (hq : Quiet s) {pbr : Nat} (hn : Tbl.get? s.ports.unreach pbr = none) :
    Tbl.get? (s.loseAgent pbr).ports.unreach pbr = some s.now := by
  rw [State.loseAgent, if_neg (by rw [hw]; decide)]
  obtain ⟨_, _, hs, hu⟩ := losePeer_quiet hq pbr
  rw [hs]
  refine (hu pbr).trans ?_
  rw [hn, if_pos (List.mem_singleton.2 rfl)]
  rfl

/-! ## Late requests and dies that do not answer (R89, R221, R714) -/

/-- R89: the machine once a late request has been counted. -/
def State.timedOut (s : State) : State :=
  { s with
    xlat := { s.xlat with reqs := s.xlat.reqs.map fun (r : Req) => if r.tag = s.arg.n1 then ({ r with timed := true } : Req) else r }
    ports := { s.ports with q := s.ports.q.map fun (w : PoolW) => if w.id = s.arg.n1 then ({ w with timed := true } : PoolW) else w } }

theorem uioRequestTimeout_ignored {s : State} (h : s.uioLate s.arg.n0 s.arg.n1 = false) : Does .uioRequestTimeout s s :=
  congrArg Host.Outcome.next (if_pos (by simp [h]))
theorem uioRequestTimeout_counts {s : State} (h : s.uioLate s.arg.n0 s.arg.n1 = true) (hn : Tbl.getD s.mil.timeouts s.arg.n0 0 + 1 < 3) :
    Does .uioRequestTimeout s { s.timedOut with mil := { s.mil with timeouts := Tbl.put s.mil.timeouts s.arg.n0 (Tbl.getD s.mil.timeouts s.arg.n0 0 + 1) } } :=
  congrArg Host.Outcome.next ((if_neg (by simp [h])).trans (if_pos hn))
theorem uioRequestTimeout_loses {s : State} (h : s.uioLate s.arg.n0 s.arg.n1 = true) (hn : 2 ≤ Tbl.getD s.mil.timeouts s.arg.n0 0) :
    Does .uioRequestTimeout s (({ s.timedOut with mil := { s.mil with timeouts := Tbl.del s.mil.timeouts s.arg.n0 } } : State).loseAgent s.arg.n0) :=
  congrArg Host.Outcome.next ((if_neg (by simp [h])).trans (if_neg (by omega)))

theorem dieUnreachableTimeout_tells {s : State} (hw : s.fitting = .w9l) (h : s.arg.flag = true ∨ s.unanswered s.arg.n0 = true) :
    Does .dieUnreachableTimeout s (s.unreachable s.arg.n0) :=
  congrArg Host.Outcome.next (if_pos (by simpa [hw] using h))
theorem dieUnreachableTimeout_ignored {s : State} (h : s.fitting = .w9h ∨ s.arg.flag = false ∧ s.unanswered s.arg.n0 = false) :
    Does .dieUnreachableTimeout s s := by
  refine congrArg Host.Outcome.next (if_neg ?_)
  rcases h with h | ⟨hf, hu⟩
  · simp [h]
  · simp [hf, hu]

/-- R221: a W9L's versions after it has given up some of them. -/
theorem foreign_foldl_endVersion (fs : List Foreign) (s : State) {f : Foreign} :
    f ∈ (fs.foldl (fun s f => s.endVersion f.die f.part f.ver) s).ports.foreign ↔ f ∈ s.ports.foreign ∧ ∀ g ∈ fs, f.is g.die g.part g.ver = false := by
  induction fs generalizing s with
  | nil => simp
  | cons g r ih =>
    have hend : (s.endVersion g.die g.part g.ver).ports.foreign = s.ports.foreign.filter fun f => !f.is g.die g.part g.ver := rfl
    rw [List.foldl_cons, ih, hend, List.mem_filter, and_assoc, List.forall_mem_cons, Bool.not_eq_true']

theorem discardForeign_locked {s : State} {pbr : Nat} : ∀ f ∈ (s.discardForeign pbr).ports.foreign, f.die = pbr → f.locked = true := by
  intro f hf hd
  obtain ⟨hmem, hout⟩ := (foreign_foldl_endVersion _ s).1 hf
  by_contra hl
  have h := hout f (List.mem_filter.2 ⟨hmem, by simp [hd, hl]⟩)
  simp [Foreign.is] at h

/-- R221: it is time to give up what is held of an unreachable die. -/
theorem discardDue_iff (s : State) (d : Nat) : s.discardDue d = true ↔
    (∃ t, Tbl.get? s.ports.unreach d = some t ∧ t + 10 * msTicks ≤ s.now) ∧ ∃ f ∈ s.ports.foreign, f.die = d ∧ f.locked = false := by
  unfold State.discardDue
  cases Tbl.get? s.ports.unreach d <;> simp

theorem shadowDiscardTimeout_early {s : State}
    (h : (∀ t, Tbl.get? s.ports.unreach s.arg.n0 = some t → s.now < t + 10 * msTicks) ∨ (∀ f ∈ s.ports.foreign, f.die = s.arg.n0 → f.locked = true)) :
    Does .shadowDiscardTimeout s s := by
  refine congrArg Host.Outcome.next (if_neg ?_)
  rw [discardDue_iff]
  rintro ⟨⟨t, ht, hle⟩, f, hf, hd, hlk⟩
  rcases h with h | h
  · exact absurd (h t ht) (Nat.not_lt.2 hle)
  · exact Bool.eq_false_iff.1 hlk (h f hf hd)

theorem shadowDiscardTimeout_discards {s : State} {t : Nat} (ht : Tbl.get? s.ports.unreach s.arg.n0 = some t) (hle : t + 10 * msTicks ≤ s.now) :
    ∃ s', Does .shadowDiscardTimeout s s' ∧ ∀ f ∈ s'.ports.foreign, f.die = s.arg.n0 → f.locked = true := by
  by_cases hd : s.discardDue s.arg.n0 = true
  · exact ⟨_, congrArg Host.Outcome.next (if_pos hd), discardForeign_locked⟩
  · refine ⟨s, congrArg Host.Outcome.next (if_neg hd), fun f hf hdie => ?_⟩
    by_contra hl
    exact hd ((discardDue_iff s _).2 ⟨⟨t, ht, hle⟩, f, hf, hdie, by simpa using hl⟩)

/-! ## Flits (R23, R24) -/

theorem flitTagFailure_ignored {s : State} (h : s.fitting = .w9l ∨ 8 ≤ s.arg.n0) : Does .flitTagFailure s s := by
  refine congrArg Host.Outcome.next (if_pos ?_)
  rcases h with h | h
  · rw [h]
    exact .inl (by decide)
  · exact .inr h

/-- R24: with no launches, a stack taken offline is noted, and contexts and teams are told. -/
theorem loseStack_quiet {s : State} (hw : s.fitting = .w9h) {n : Nat} (hn : n < 8) (hl : s.launches = []) :
    n ∈ (s.loseStack n).mil.offline ∧ (s.loseStack n).mil.flitFail = s.mil.flitFail := by
  unfold State.loseStack
  split_ifs with h
  · rcases h with h | h | h
    · exact absurd hw h
    · omega
    · exact ⟨h, rfl⟩
  · simp only [State.abortTouching, hl, List.filter_nil, List.map_nil, List.foldl_nil]
    obtain ⟨c, t, ht⟩ := tellLost_eq _ _ _ _ _
    rw [ht]
    exact ⟨List.mem_append_right _ (List.mem_singleton.2 rfl), rfl⟩

section
variable {s : State} (hw : s.fitting = .w9h) (hn : s.arg.n0 < 8)
include hw hn

theorem flitTagFailure_notes (h : s.arg.flag = false ∨ s.arg.n0 ∉ s.mil.flitFail) :
    ∃ s', Does .flitTagFailure s s' ∧ s.arg.n0 ∈ s'.mil.flitFail ∧ s'.mil.offline = s.mil.offline := by
  have hgo : ¬ (s.fitting ≠ .w9h ∨ s.arg.n0 ≥ 8) := fun h => h.elim (· hw) (by omega)
  refine ⟨_, congrArg Host.Outcome.next ((if_neg hgo).trans (if_neg ?_)), ?_, rfl⟩
  · rcases h with h | h <;> simp [h]
  · change s.arg.n0 ∈ if _ then _ else _
    split_ifs with hm
    · exact hm
    · exact List.mem_append_right _ (List.mem_singleton.2 rfl)

theorem flitTagFailure_loses (hf : s.arg.flag = true) (hm : s.arg.n0 ∈ s.mil.flitFail) (hq : Quiet s) :
    ∃ s', Does .flitTagFailure s s' ∧ s.arg.n0 ∈ s'.mil.offline ∧ s.arg.n0 ∉ s'.mil.flitFail := by
  have hgo : ¬ (s.fitting ≠ .w9h ∨ s.arg.n0 ≥ 8) := fun h => h.elim (· hw) (by omega)
  refine ⟨_, congrArg Host.Outcome.next ((if_neg hgo).trans (if_pos (by simp [hf, hm]))), ?_⟩
  obtain ⟨hoff, hfail⟩ := loseStack_quiet (s := { s with mil := { s.mil with flitFail := s.mil.flitFail.filter (· ≠ s.arg.n0) } }) hw hn hq.launches
  refine ⟨hoff, ?_⟩
  rw [hfail]
  simp

end

end Sys2Proof.Machine
end

section
/-! PROOFS. Viral mode (R81 to R88), errors (R19, R77, R224, R363, R375, R431) and parity (R435): the second part of O44, and O44. -/

namespace Sys2Proof.Machine

/-! ## Detections (R81, R82, R88) -/

/-- A partition once it has been found viral, when it is one of some. -/
def foundViral (s : State) (ps : List Nat) (cause p : Nat) (P : Part) : Part := if p ∈ ps then { P with viral := some (detected s P cause) } else P

theorem foundViral_mem (s : State) {ps : List Nat} (cause : Nat) {p : Nat} (h : p ∈ ps) :
    foundViral s ps cause p = fun P => { P with viral := some (detected s P cause) } := funext fun _ => if_pos h
theorem foundViral_not_mem (s : State) {ps : List Nat} (cause : Nat) {p : Nat} (h : p ∉ ps) : foundViral s ps cause p = id := funext fun _ => if_neg h

/-- R81, R82: detections of one cause in partitions change their viral state alone. -/
theorem foldl_viralDetect (ps : List Nat) (cause : Nat) (s : State) : ∃ pt, ps.foldl (fun s p => s.viralDetect p cause) s = { s with parts := pt } ∧
    ∀ p, Tbl.get? pt p = (Tbl.get? s.parts p).map (foundViral s ps cause p) := by
  induction ps using List.reverseRecOn with
  | nil => exact ⟨s.parts, rfl, fun p => by rw [foundViral_not_mem s cause List.not_mem_nil, Option.map_id]; rfl⟩
  | append_singleton ps x ih =>
    obtain ⟨pt, hs, hpt⟩ := ih
    rw [List.foldl_append, hs, List.foldl_cons, List.foldl_nil, viralDetect_eq]
    refine ⟨_, rfl, fun p => ?_⟩
    dsimp only
    rw [Tbl.get?_modify]
    by_cases hp : p = x
    · subst hp
      rw [if_pos rfl, hpt, Option.map_map, foundViral_mem s cause (List.mem_append_right ps (List.mem_singleton.2 rfl))]
      refine congrArg (Option.map · _) (funext fun P => ?_)
      by_cases hm : p ∈ ps
      · rw [foundViral_mem s cause hm]
        rfl
      · rw [foundViral_not_mem s cause hm]
        rfl
    · rw [if_neg hp, hpt]
      refine congrArg (Option.map · _) (funext fun P => ?_)
      simp only [foundViral, List.mem_append, List.mem_singleton, hp, or_false]

theorem part_foundViral {s : State} {pt : Tbl Part} {ps : List Nat} {cause p : Nat} (h : Tbl.get? pt p = (Tbl.get? s.parts p).map (foundViral s ps cause p))
    (hp : p ∉ ps) : ({ s with parts := pt } : State).part p = s.part p := by
  rw [State.part, Tbl.getD, h, foundViral_not_mem s cause hp, Option.map_id]
  rfl

theorem viral_foundViral {s : State} {pt : Tbl Part} {ps : List Nat} {cause p : Nat} {P : Part}
    (h : Tbl.get? pt p = (Tbl.get? s.parts p).map (foundViral s ps cause p)) (hp : p ∈ ps) (hP : Tbl.get? s.parts p = some P) :
    (({ s with parts := pt } : State).part p).viral = some (detected s P cause) := by
  rw [part_of_get? (s := { s with parts := pt }) (P := foundViral s ps cause p P) (by rw [h, hP]; rfl), foundViral_mem s cause hp]

/-- R82: one detection. -/
theorem viralDetect_does (s : State) (p cause : Nat) : (∀ P, Tbl.get? s.parts p = some P → ((s.viralDetect p cause).part p).viral = some (detected s P cause)) ∧
    (∀ q, q ≠ p → (s.viralDetect p cause).part q = s.part q) ∧ { s.viralDetect p cause with parts := s.parts } = s := by
  obtain ⟨pt, hs, hpt⟩ := foldl_viralDetect [p] cause s
  rw [show s.viralDetect p cause = { s with parts := pt } from hs]
  exact ⟨fun P hP => viral_foundViral (hpt p) (List.mem_singleton.2 rfl) hP, fun q hq => part_foundViral (hpt q) (hq ∘ List.mem_singleton.1), rfl⟩

/-- R81: an indication makes what is behind its link viral. -/
theorem viralIndicationReceived_does (s : State) : ∃ s', Does .viralIndicationReceived s s' ∧
    (∀ p ∈ s.viralBehind (linkNo s.arg.n0 s.arg.n1), ∀ P, Tbl.get? s.parts p = some P → (s'.part p).viral = some (detected s P 4)) ∧
    (∀ p, p ∉ s.viralBehind (linkNo s.arg.n0 s.arg.n1) → s'.part p = s.part p) ∧ { s' with parts := s.parts } = s := by
  obtain ⟨pt, hs, hpt⟩ := foldl_viralDetect (s.viralBehind (linkNo s.arg.n0 s.arg.n1)) 4 s
  exact ⟨_, congrArg Host.Outcome.next hs, fun p hp P hP => viral_foundViral (hpt p) hp hP, fun p hp => part_foundViral (hpt p) hp, rfl⟩

/-- R88: an error in the system's state concerns every partition and every link that is up. -/
theorem deviceViral_does (s : State) : (∀ p P, Tbl.get? s.parts p = some P → (s.deviceViral.part p).viral = some (detected s P 7)) ∧
    ∀ k x, (k, x) ∈ s.ports.links → x.up = true → Msg.cxlViral k ∈ s.deviceViral.outbox := by
  obtain ⟨pt, hs, hpt⟩ := foldl_viralDetect (s.parts.map Prod.fst) 7 s
  have hd : s.deviceViral = { s with parts := pt, outbox := s.outbox ++ (s.ports.links.filter fun l => l.2.up).map fun l => Msg.cxlViral l.1 } := by
    unfold State.deviceViral
    rw [hs]
    exact foldl_emit (fun l : Nat × Link => Msg.cxlViral l.1) _ _
  rw [hd]
  refine ⟨fun p P hP => viral_foundViral (hpt p) (List.mem_map.2 ⟨_, mem_of_get? hP, rfl⟩) hP, fun k x hx hup => ?_⟩
  exact List.mem_append_right _ (List.mem_map.2 ⟨(k, x), List.mem_filter.2 ⟨hx, hup⟩, rfl⟩)

/-! ## Viral mode takes effect (R82 to R85) -/

/-- What a context shows of its partition's viral mode. -/
def Ctx.shown (x : Ctx) : Bool × Nat × Nat := (x.viral, x.vcause, x.vtime)

/-- `s'` is `s` but for records: memory, partitions that keep their viral state, contexts that show what they did, and messages sent. -/
def Recorded (s s' : State) : Prop := ∃ m pt x o, s' = { s with mem := m, parts := pt, ctxs := x, outbox := s.outbox ++ o } ∧
  (∀ p, (s'.part p).viral = (s.part p).viral) ∧ ∀ c, (s'.ctx c).shown = (s.ctx c).shown

theorem Recorded.refl (s : State) : Recorded s s := ⟨s.mem, s.parts, s.ctxs, [], by rw [List.append_nil], fun _ => rfl, fun _ => rfl⟩
theorem Recorded.trans {a b c : State} (h : Recorded a b) (g : Recorded b c) : Recorded a c := by
  obtain ⟨m, pt, x, o, hb, hp, hx⟩ := h
  obtain ⟨m', pt', x', o', rfl, hp', hx'⟩ := g
  subst hb
  exact ⟨m', pt', x', o ++ o', by rw [← List.append_assoc], fun p => (hp' p).trans (hp p), fun c => (hx' c).trans (hx c)⟩

theorem recorded_mem (s : State) (m : List Host.Cell) : Recorded s { s with mem := m } :=
  ⟨m, s.parts, s.ctxs, [], by rw [List.append_nil], fun _ => rfl, fun _ => rfl⟩
theorem recorded_modPart (s : State) (p : Nat) {f : Part → Part} (hf : ∀ P, (f P).viral = P.viral) : Recorded s (s.modPart p f) := by
  refine ⟨s.mem, _, s.ctxs, [], by rw [List.append_nil]; rfl, fun q => ?_, fun _ => rfl⟩
  by_cases hq : q = p
  · subst hq
    cases h : Tbl.get? s.parts q with
    | none => simp [State.modPart, State.part, Tbl.getD, h]
    | some P => simp [State.modPart, State.part, Tbl.getD, h, hf]
  · rw [part_modPart_ne hq]
theorem recorded_modCtx (s : State) (c : Nat) {f : Ctx → Ctx} (hf : ∀ x, (f x).shown = x.shown) : Recorded s (s.modCtx c f) := by
  refine ⟨s.mem, s.parts, _, [], by rw [List.append_nil]; rfl, fun _ => rfl, fun j => ?_⟩
  rw [ctx_modCtx]
  split_ifs with h
  · rw [hf, h]
  · rfl
theorem recorded_count (s : State) (c ev n : Nat) : Recorded s (s.count c ev n) := by
  obtain ⟨x, hs, hx⟩ := count_eq s c ev n
  refine ⟨s.mem, s.parts, x, [], by rw [hs, List.append_nil], fun _ => by rw [hs]; rfl, fun j => ?_⟩
  rw [hs]
  have h := congrArg (Option.map Ctx.shown) (hx j)
  rw [Option.map_map, Option.map_map] at h
  change (Option.map Ctx.shown (Tbl.get? x j)) = Option.map Ctx.shown (Tbl.get? s.ctxs j) at h
  change (Tbl.getD x j {}).shown = (Tbl.getD s.ctxs j {}).shown
  rw [Tbl.getD, Tbl.getD, ← Option.getD_map Ctx.shown, ← Option.getD_map Ctx.shown, h]
theorem recorded_writeTrace (s : State) (p ctx kind time : Nat) (data : BitVec 128) : Recorded s (s.writeTrace p ctx kind time data) := by
  unfold State.writeTrace
  exact (recorded_mem s _).trans (recorded_modPart _ p fun _ => rfl)
theorem recorded_lossSummary (s : State) (p : Nat) : Recorded s (s.lossSummary p) := by
  unfold State.lossSummary
  split_ifs
  · exact (recorded_writeTrace ..).trans (recorded_modPart _ p fun _ => rfl)
  · exact .refl s
theorem recorded_recordTrace (s : State) (p ctx kind : Nat) (data : BitVec 128) (holds : Bool) : Recorded s (s.recordTrace p ctx kind data holds) := by
  unfold State.recordTrace
  split_ifs
  · exact recorded_writeTrace ..
  · exact recorded_modPart s p fun _ => rfl
  · refine .trans ?_ (recorded_count ..)
    exact recorded_modPart s p fun _ => rfl
/-- R446, R449: a trace record. -/
theorem recorded_postTrace (s : State) (p ctx kind : Nat) (data : BitVec 128) (holds : Bool) : Recorded s (s.postTrace p ctx kind data holds) := by
  rw [postTrace_eq]
  split_ifs
  · exact .refl s
  · exact (recorded_lossSummary s p).trans (recorded_recordTrace ..)
/-- R442: an event record. -/
theorem recorded_postEvent (s : State) (c kind cause : Nat) (arg : Word32) : Recorded s (s.postEvent c kind cause arg) := by
  have hmsix (s' : State) (v : Nat) : Recorded s' (s'.sendMsix v) := by
    unfold State.sendMsix
    split_ifs
    · exact ⟨s'.mem, s'.parts, s'.ctxs, _, rfl, fun _ => rfl, fun _ => rfl⟩
    · exact .refl s'
  unfold State.postEvent
  dsimp only
  split_ifs
  · split
    · refine .trans ?_ (hmsix _ _)
      exact recorded_modCtx s c fun _ => rfl
    · exact recorded_modCtx s c fun _ => rfl
  · exact recorded_modCtx s c fun _ => rfl
  · exact recorded_modCtx s c fun _ => rfl

/-- R85: a context shows its partition's viral mode. -/
def showsViral (v : Viral) (x : Ctx) : Ctx := { x with viral := true, vcause := v.cause, vtime := v.tv }
/-- R85: a context is told of its partition's viral mode. -/
def State.tellOne (s : State) (v : Viral) (c : Nat) : State := (s.modCtx c (showsViral v)).postEvent c 0 0x89 (BitVec.ofNat 32 v.cause)
/-- R82 to R85: contexts are told of their partition's viral mode. -/
def State.tellViral (s : State) (v : Viral) (cs : List Nat) : State := cs.foldl (fun s c => s.tellOne v c) s

theorem tellViral_append (s : State) (v : Viral) (cs : List Nat) (k : Nat) :
    s.tellViral v (cs ++ [k]) = (s.tellViral v cs).tellOne v k := by
  rw [State.tellViral, List.foldl_append, List.foldl_cons, List.foldl_nil, State.tellViral]

/-- Telling changes contexts, and sends at most interrupts. -/
theorem tellViral_eq (s : State) (v : Viral) (cs : List Nat) : ∃ x o, s.tellViral v cs = { s with ctxs := x, outbox := s.outbox ++ o } := by
  induction cs using List.reverseRecOn with
  | nil => exact ⟨s.ctxs, [], by rw [List.append_nil]; rfl⟩
  | append_singleton cs k ih =>
    obtain ⟨x, o, hs⟩ := ih
    obtain ⟨y, n, h⟩ := postEvent_eq ((s.tellViral v cs).modCtx k (showsViral v)) k 0 0x89 (BitVec.ofNat 32 v.cause)
    rw [tellViral_append, State.tellOne, h, hs]
    exact ⟨y, o ++ n, by rw [← List.append_assoc]; rfl⟩

/-- Each context told shows the mode. -/
theorem tellViral_shown {s : State} {v : Viral} {cs : List Nat} {c : Nat} (hc : c ∈ cs) : ((s.tellViral v cs).ctx c).shown = (true, v.cause, v.tv) := by
  induction cs using List.reverseRecOn with
  | nil => exact absurd hc List.not_mem_nil
  | append_singleton cs k ih =>
    obtain ⟨_, _, _, _, -, -, hctx⟩ := recorded_postEvent ((s.tellViral v cs).modCtx k (showsViral v)) k 0 0x89 (BitVec.ofNat 32 v.cause)
    rw [tellViral_append, State.tellOne, hctx, ctx_modCtx]
    split_ifs with hk
    · rfl
    · exact ih (by simpa [hk] using hc)

/-- R82: a partition's viral mode is in effect. -/
def State.viralOn (s : State) (p : Nat) (v : Viral) : State := s.modPart p fun P => { P with viral := some { v with active := true } }
/-- R84: the uncommitted launches of a partition abort. -/
def State.abortViral (s : State) (p : Nat) : State := ((s.launches.filter fun x => x.2.head.part = p).map Prod.fst).foldl (fun s lk => s.abortLaunch lk 0x89 1) s

theorem viralTakesEffect_takes {s : State} {P : Part} {v : Viral} (hP : Tbl.get? s.parts s.arg.n0 = some P) (hv : P.viral = some v)
    (ha : v.active = false) (ht : v.tv ≤ s.now) : Does .viralTakesEffect s
      ((((s.viralOn s.arg.n0 v).abortViral s.arg.n0).tellViral v (((s.viralOn s.arg.n0 v).abortViral s.arg.n0).ctxsOf s.arg.n0)).postTrace s.arg.n0 wideRec 3
        (BitVec.ofNat 128 (0x89 + 3 * 256)) true) := by
  change execViralTakesEffect s = _
  have hb : (Tbl.get? s.parts s.arg.n0).bind Part.viral = some v := by rw [hP]; exact hv
  have hno : ¬ (v.active = true ∨ s.now < v.tv) := by
    rw [ha]
    exact fun h => h.elim (by decide) (Nat.not_lt.2 ht)
  simp only [execViralTakesEffect, hb, if_neg hno]
  rfl

theorem viralTakesEffect_ignored {s : State} (h : ∀ P v, Tbl.get? s.parts s.arg.n0 = some P → P.viral = some v → v.active = true ∨ s.now < v.tv) :
    Does .viralTakesEffect s s := by
  change execViralTakesEffect s = _
  cases hb : (Tbl.get? s.parts s.arg.n0).bind Part.viral with
  | none => simp only [execViralTakesEffect, hb]
  | some v =>
    obtain ⟨P, hP, hv⟩ := Option.bind_eq_some_iff.1 hb
    simp only [execViralTakesEffect, hb, if_pos (h P v hP hv)]

theorem abortViral_none {s : State} (h : s.launches = []) (p : Nat) : s.abortViral p = s := by
  simp only [State.abortViral, h, List.filter_nil, List.map_nil, List.foldl_nil]

/-- R84: what takes effect leaves launches and teams as the aborts made them. -/
theorem viralTakesEffect_aborts {s : State} {P : Part} {v : Viral} (hP : Tbl.get? s.parts s.arg.n0 = some P) (hv : P.viral = some v)
    (ha : v.active = false) (ht : v.tv ≤ s.now) : ∃ s', Does .viralTakesEffect s s' ∧
      s'.launches = ((s.viralOn s.arg.n0 v).abortViral s.arg.n0).launches ∧ s'.teams = ((s.viralOn s.arg.n0 v).abortViral s.arg.n0).teams := by
  refine ⟨_, viralTakesEffect_takes hP hv ha ht, ?_⟩
  obtain ⟨_, _, _, _, hs, -, -⟩ := recorded_postTrace (((s.viralOn s.arg.n0 v).abortViral s.arg.n0).tellViral v
    (((s.viralOn s.arg.n0 v).abortViral s.arg.n0).ctxsOf s.arg.n0)) s.arg.n0 wideRec 3 (BitVec.ofNat 128 (0x89 + 3 * 256)) true
  obtain ⟨_, _, ht⟩ := tellViral_eq ((s.viralOn s.arg.n0 v).abortViral s.arg.n0) v (((s.viralOn s.arg.n0 v).abortViral s.arg.n0).ctxsOf s.arg.n0)
  rw [hs, ht]
  exact ⟨rfl, rfl⟩

/-- R82, R85: with no launches, the partition's mode is in effect and its contexts show it. -/
theorem viralTakesEffect_shows {s : State} {P : Part} {v : Viral} (hP : Tbl.get? s.parts s.arg.n0 = some P) (hv : P.viral = some v)
    (ha : v.active = false) (ht : v.tv ≤ s.now) (hl : s.launches = []) : ∃ s', Does .viralTakesEffect s s' ∧
      (s'.part s.arg.n0).viral = some { v with active := true } ∧
      ∀ c x, Tbl.get? s.ctxs c = some x → x.part = some s.arg.n0 → (s'.ctx c).viral = true ∧ (s'.ctx c).vcause = v.cause ∧ (s'.ctx c).vtime = v.tv := by
  refine ⟨_, viralTakesEffect_takes hP hv ha ht, ?_⟩
  rw [abortViral_none (s := s.viralOn s.arg.n0 v) hl]
  obtain ⟨_, _, _, _, -, hpart, hctx⟩ := recorded_postTrace ((s.viralOn s.arg.n0 v).tellViral v ((s.viralOn s.arg.n0 v).ctxsOf s.arg.n0))
    s.arg.n0 wideRec 3 (BitVec.ofNat 128 (0x89 + 3 * 256)) true
  refine ⟨?_, fun c x hx hp => ?_⟩
  · obtain ⟨_, _, hs⟩ := tellViral_eq (s.viralOn s.arg.n0 v) v ((s.viralOn s.arg.n0 v).ctxsOf s.arg.n0)
    rw [hpart, hs]
    change ((s.viralOn s.arg.n0 v).part s.arg.n0).viral = _
    rw [State.viralOn, part_modPart (by rw [State.hasPart, hP]; rfl)]
  · have h := (hctx c).trans (tellViral_shown (mem_ctxsOf (s := s.viralOn s.arg.n0 v) hx hp))
    simpa only [Ctx.shown, Prod.mk.injEq] using h

/-! ## Errors (R19, R77, R88, R224, R363, R375, R431) -/

section
variable {s : State}

theorem uncorrectableError_memLine {pa : Nat} (h : s.arg.site = .memLine pa) : Does .uncorrectableError s (s.poisonLine pa) := by
  change execUncorrectableError s = _
  simp only [execUncorrectableError, h]
theorem poisonLine_local {pa : Nat} (h : s.isLocal pa = true) : s.poisonLine pa = { s with poison := Tbl.put s.poison (lineNo pa) true } := if_pos h
/-- R77: poison in a line does not bear on who owns it, or on partitions and links. -/
theorem poisonLine_eq (s : State) (pa : Nat) : ∃ q, s.poisonLine pa = { s with poison := q } := by
  unfold State.poisonLine
  split_ifs
  · exact ⟨_, rfl⟩
  · exact ⟨s.poison, rfl⟩

theorem uncorrectableError_owned {pa p : Nat} {P : Part} (h : s.arg.site = .homeEntry pa) (ho : s.ownerOf pa = some p)
    (hP : Tbl.get? s.parts p = some P) : ∃ s', Does .uncorrectableError s s' ∧ (s'.part p).viral = some (detected s P 1) := by
  obtain ⟨q, hq⟩ := poisonLine_eq s pa
  have ho' : (s.poisonLine pa).ownerOf pa = some p := by rw [hq]; exact ho
  refine ⟨(s.poisonLine pa).viralDetect p 1, ?_, ?_⟩
  · change execUncorrectableError s = _
    simp only [execUncorrectableError, h, ho']
  · rw [hq]
    exact (viralDetect_does { s with poison := q } p 1).1 P hP
theorem uncorrectableError_system {pa : Nat} (h : s.arg.site = .homeEntry pa) (ho : s.ownerOf pa = none) (hg : s.granuleOwner (pa / 2 ^ 21) = 0x40) :
    Does .uncorrectableError s (s.poisonLine pa).deviceViral := by
  obtain ⟨q, hq⟩ := poisonLine_eq s pa
  have ho' : (s.poisonLine pa).ownerOf pa = none := by rw [hq]; exact ho
  have hg' : (s.poisonLine pa).granuleOwner (pa / 2 ^ 21) = 0x40 := by rw [hq]; exact hg
  change execUncorrectableError s = _
  simp only [execUncorrectableError, h, ho', if_pos hg']
theorem uncorrectableError_lostPoison {p : Nat} {P : Part} (h : s.arg.site = .lostPoison p) (hP : Tbl.get? s.parts p = some P) :
    Does .uncorrectableError s (s.viralDetect p 3) := by
  change execUncorrectableError s = _
  have hp : s.hasPart p = true := by rw [State.hasPart, hP]; rfl
  simp only [execUncorrectableError, h, if_pos hp]
theorem uncorrectableError_systemState (h : s.arg.site = .systemState) : Does .uncorrectableError s s.deviceViral := by
  change execUncorrectableError s = _
  simp only [execUncorrectableError, h]
theorem teamError_of_get? {k : Nat} {t : Team} (ht : Tbl.get? s.teams k = some t) (cause : Nat) (info : List Word) :
    s.teamError k cause info = s.deliver k { tpc := t.flow.pc, cause := cause, cls := causeClass cause, info := info } := by
  simp only [State.teamError, ht]
theorem uncorrectableError_team {k : Nat} {t : Team} (ht : Tbl.get? s.teams k = some t) :
    (s.arg.site = .regFile k → Does .uncorrectableError s (s.deliver k { tpc := t.flow.pc, cause := 0x8C, cls := causeClass 0x8C, info := [] })) ∧
    (∀ off, s.arg.site = .stashBank k off → Does .uncorrectableError s
      (s.deliver k { tpc := t.flow.pc, cause := 0x3D, cls := causeClass 0x3D, info := infoS (4 * t.id.cluster + off / 2 ^ 19 % 4) (off % 2 ^ 19) 1 })) ∧
    (s.arg.site = .imageFetch k → Does .uncorrectableError s (s.deliver k { tpc := t.flow.pc, cause := 0x0A, cls := causeClass 0x0A, info := [] })) := by
  refine ⟨fun h => ?_, fun off h => ?_, fun h => ?_⟩
  · change execUncorrectableError s = _
    simp only [execUncorrectableError, h, teamError_of_get? ht]
  · change execUncorrectableError s = _
    simp only [execUncorrectableError, h, teamError_of_get? ht, team_of_get? ht]
  · change execUncorrectableError s = _
    simp only [execUncorrectableError, h, teamError_of_get? ht]
theorem uncorrectableError_saveArea {c : Nat} {x : Ctx} (h : s.arg.site = .saveArea c) (hx : Tbl.get? s.ctxs c = some x) :
    Does .uncorrectableError s (s.ctxFatal c 0x8D) := by
  change execUncorrectableError s = _
  simp only [execUncorrectableError, h, hx, Option.isSome_some, if_true]
theorem uncorrectableError_engineCell {cl tag : Nat} {corr : Bool} (h : s.arg.site = .engineCell cl tag corr) : Does .uncorrectableError s
    (s.modCard cl tag fun k => if corr = true then { k with cecc := k.cecc + 1 } else { k with uecc := true }) := by
  change execUncorrectableError s = _
  simp only [execUncorrectableError, h]

/-- R375: a tile with a word marked bad. -/
def Tile.markBad (t : Tile) (b : Nat) : Tile := { t with bad := if b ∈ t.bad then t.bad else t.bad ++ [b] }
theorem mem_markBad (t : Tile) (b x : Nat) : x ∈ (t.markBad b).bad ↔ x = b ∨ x ∈ t.bad := by
  unfold Tile.markBad
  dsimp only
  split_ifs with hm
  · exact ⟨.inr, fun hx => hx.elim (· ▸ hm) id⟩
  · simp [or_comm]
/-- The machine with an accumulator word marked bad. -/
def State.wordBad (s : State) (cl tile b : Nat) : State := s.modCluster cl fun c => { c with tiles := Tbl.modify c.tiles tile (·.markBad b) }

theorem uncorrectableError_accWord {cl tile r n : Nat} (h : s.arg.site = .accWord cl tile r n) :
    Does .uncorrectableError s (s.wordBad cl tile (256 * r + n)) := by
  change execUncorrectableError s = _
  simp only [execUncorrectableError, h, State.wordBad, Tile.markBad]
theorem get?_wordBad {cl tile : Nat} {x : Tile} (hx : Tbl.get? (s.cluster cl).tiles tile = some x) (b : Nat) :
    Tbl.get? ((s.wordBad cl tile b).cluster cl).tiles tile = some (x.markBad b) := by
  rw [State.wordBad, modCluster_cluster, Tbl.get?_modify, if_pos rfl, hx]
  rfl

/-! ## Shadows lost (R224) -/

/-- R224: an uncommitted launch aborts, a scheduled one makes its partition viral, and one that is done has nothing to lose. -/
theorem shadowLost_does {lk : Nat} {x : Launch} (hx : Tbl.get? s.launches lk = some x) :
    (x.st = .done → s.shadowLost lk = s) ∧ (x.st = .waiting ∨ x.st = .started → s.shadowLost lk = s.abortLaunch lk 0x53 1) ∧
    (x.st ≠ .waiting → x.st ≠ .started → x.st ≠ .done → s.shadowLost lk = s.viralDetect x.head.part 2) := by
  refine ⟨fun h => ?_, fun h => ?_, fun hw hs hd => ?_⟩
  · simp only [State.shadowLost, hx, h]
  · rcases h with h | h <;> simp only [State.shadowLost, hx, h]
  · simp only [State.shadowLost, hx]

theorem uncorrectableError_shadowEntry {lk : Nat} (h : s.arg.site = .shadowEntry lk) : Does .uncorrectableError s (s.shadowLost lk) := by
  change execUncorrectableError s = _
  simp only [execUncorrectableError, h]
theorem shadowEntryLost_does (s : State) : Does .shadowEntryLost s (s.shadowLost s.arg.n0) := rfl

theorem uncorrectableError_foreignEntry {d p v : Nat} (h : s.arg.site = .foreignEntry d p v) : Does .uncorrectableError s (s.foreignLost d p v) := by
  change execUncorrectableError s = _
  simp only [execUncorrectableError, h]
theorem foreignLost_held {d p v : Nat} (hh : s.holdsOf d p v = true) :
    ((s.foreignOf d p v).locked = false → s.foreignLost d p v = (s.endVersion d p v).emit (.landedCause d p v 0x53)) ∧
    ((s.foreignOf d p v).locked = true → s.foreignLost d p v = s.viralDetect (s.foreignOf d p v).own 2) :=
  ⟨fun hl => (if_neg (by simp [hh])).trans (if_neg (by simp [hl])), fun hl => (if_neg (by simp [hh])).trans (if_pos hl)⟩

end

/-! ## Parity (R435) -/

/-- Launches, memory, draws and the event are as they were, and the lines of a home slice. -/
structure SameLines (h : Nat) (s s' : State) : Prop where
  launches : s'.launches = s.launches
  mem : s'.mem = s.mem
  draws : s'.draws = s.draws
  arg : s'.arg = s.arg
  lines : (s'.cluster h).lines = (s.cluster h).lines

theorem SameLines.refl (h : Nat) (s : State) : SameLines h s s := ⟨rfl, rfl, rfl, rfl, rfl⟩
theorem SameLines.trans {h : Nat} {a b c : State} (x : SameLines h a b) (y : SameLines h b c) : SameLines h a c :=
  ⟨y.launches.trans x.launches, y.mem.trans x.mem, y.draws.trans x.draws, y.arg.trans x.arg, y.lines.trans x.lines⟩
theorem sameLines_foldl {α : Type} {h : Nat} {f : State → α → State} (hf : ∀ s a, SameLines h s (f s a)) (l : List α) (s : State) :
    SameLines h s (l.foldl f s) := by
  induction l generalizing s with
  | nil => exact .refl h s
  | cons a r ih => exact (hf s a).trans (ih _)

theorem sameLines_viralDetect (h : Nat) (s : State) (p cause : Nat) : SameLines h s (s.viralDetect p cause) := ⟨rfl, rfl, rfl, rfl, rfl⟩
/-- R227: the end of a version leaves every home slice its lines. -/
theorem sameLines_endVersion (h : Nat) (s : State) (d p v : Nat) : SameLines h s (s.endVersion d p v) := by
  refine ⟨rfl, rfl, rfl, rfl, ?_⟩
  unfold State.endVersion State.endLanded State.cluster Tbl.getD
  dsimp only [State.dropForeign, State.noteEnded]
  rw [Tbl.get?_mapV]
  cases Tbl.get? s.clusters h <;> rfl
theorem sameLines_foreignLost (h : Nat) (s : State) (d p v : Nat) : SameLines h s (s.foreignLost d p v) := by
  unfold State.foreignLost
  split_ifs
  · exact .refl h s
  · exact sameLines_viralDetect ..
  · exact (sameLines_endVersion h s d p v).trans ⟨rfl, rfl, rfl, rfl, rfl⟩
theorem sameLines_postEvent (h : Nat) (s : State) (c kind cause : Nat) (arg : Word32) : SameLines h s (s.postEvent c kind cause arg) := by
  obtain ⟨_, _, hs⟩ := postEvent_eq s c kind cause arg
  rw [hs]
  exact ⟨rfl, rfl, rfl, rfl, rfl⟩

/-- The launches of some partitions abort over bad parity. -/
def State.abortParity (s : State) (ps : List Nat) : State :=
  ((s.launches.filter fun x => decide (x.2.head.part ∈ ps)).map Prod.fst).foldl (fun (s : State) lk => s.abortLaunch lk 0x8B 1) { s with draws := s.draws + 1 }
/-- Partitions become viral when bad parity stands in a way that is dirty. -/
def State.viralParity (s : State) (n : Nat) (ps : List Nat) : State := if Config.dirtyVec n then ps.foldl (fun s p => s.viralDetect p 1) s else s
/-- R224, R435: the versions that bad parity takes with it. -/
def State.losesForeign (s : State) : State := (s.foreignIn s.arg.n0 s.arg.n1 s.arg.n2).foldl (fun s f => s.foreignLost f.die f.part f.ver) s
/-- R435: the entries that bad parity takes with it. -/
def State.losesWay (s : State) : State := s.dropWay s.arg.n0 s.arg.n1 s.arg.n2
/-- R435: the contexts of some partitions are told of bad parity. -/
def State.tellParity (s : State) (ps : List Nat) : State := (ps.flatMap s.ctxsOf).foldl (fun s c => s.postEvent c 0 0x8B (Config.parityArg s.arg.n0)) s
/-- The machine before the way's entries go. -/
def State.parityMet (s : State) : State := ((s.abortParity (s.wayOwners s.arg.n2)).viralParity s.draws (s.wayOwners s.arg.n2)).losesForeign

theorem homeSliceTagParity_does (s : State) : Does .homeSliceTagParity s (s.parityMet.losesWay.tellParity (s.wayOwners s.arg.n2)) := by
  change execHomeSliceTagParity s = _
  simp only [execHomeSliceTagParity, State.draw, State.parityMet, State.tellParity, State.losesForeign, State.losesWay, State.viralParity, State.abortParity]
  congr 3

theorem sameLines_viralParity (h : Nat) (s : State) (n : Nat) (ps : List Nat) : SameLines h s (s.viralParity n ps) := by
  unfold State.viralParity
  split_ifs
  · exact sameLines_foldl (fun s p => sameLines_viralDetect h s p 1) ps s
  · exact .refl h s
theorem sameLines_losesForeign (h : Nat) (s : State) : SameLines h s s.losesForeign :=
  sameLines_foldl (fun s (f : Foreign) => sameLines_foreignLost h s f.die f.part f.ver) _ s
theorem sameLines_tellParity (h : Nat) (s : State) (ps : List Nat) : SameLines h s (s.tellParity ps) :=
  sameLines_foldl (fun s c => sameLines_postEvent h s c 0 0x8B (Config.parityArg s.arg.n0)) _ s
theorem sameLines_parityMet (h : Nat) (s : State) : SameLines h (s.abortParity (s.wayOwners s.arg.n2)) s.parityMet :=
  (sameLines_viralParity ..).trans (sameLines_losesForeign ..)

/-- R435: an entry of a way of a set is invalid. -/
theorem dropWay_lines {s : State} {h set w : Nat} {v : Nat × HLine} (hv : v ∈ (s.cluster h).lines) (hs : setOf v.1 = set) (hw : v.2.way = w) :
    Tbl.get? ((s.dropWay h set w).cluster h).lines v.1 = none := by
  have hgone : v ∈ (s.cluster h).lines.filter fun x => setOf x.1 = set && x.2.way = w := List.mem_filter.2 ⟨hv, by simp [hs, hw]⟩
  have hany : (((s.cluster h).lines.filter fun x => setOf x.1 = set && x.2.way = w).any fun y => y.1 = v.1) = true := List.any_eq_true.2 ⟨v, hgone, by simp⟩
  rw [State.dropWay, modCluster_cluster]
  dsimp only
  rw [if_neg (List.ne_nil_of_mem hgone)]
  refine (get?_filter_key (fun k => !(((s.cluster h).lines.filter fun x => setOf x.1 = set && x.2.way = w).any fun y => y.1 = k)) _ _).trans (if_neg ?_)
  rw [hany]
  decide

theorem abortParity_none {s : State} (h : s.launches = []) (ps : List Nat) : s.abortParity ps = { s with draws := s.draws + 1 } := by
  simp only [State.abortParity, h, List.filter_nil, List.map_nil, List.foldl_nil]

/-- R435: the aborts are all that launches see of bad parity, and with no launches the way's entries go. -/
theorem homeSliceTagParity_clears (s : State) : ∃ s', Does .homeSliceTagParity s s' ∧ s'.launches = (s.abortParity (s.wayOwners s.arg.n2)).launches ∧
    (s.launches = [] → s'.draws = s.draws + 1 ∧ s'.mem = s.mem ∧
      ∀ v, v ∈ (s.cluster s.arg.n0).lines → setOf v.1 = s.arg.n1 → v.2.way = s.arg.n2 → Tbl.get? (s'.cluster s.arg.n0).lines v.1 = none) := by
  have hmet := sameLines_parityMet s.arg.n0 s
  have htold := sameLines_tellParity s.arg.n0 s.parityMet.losesWay (s.wayOwners s.arg.n2)
  refine ⟨_, homeSliceTagParity_does s, htold.launches.trans hmet.launches, fun hl => ?_⟩
  rw [abortParity_none hl] at hmet
  refine ⟨htold.draws.trans hmet.draws, htold.mem.trans hmet.mem, fun v hv hs hw => ?_⟩
  rw [htold.lines, State.losesWay, hmet.arg]
  exact dropWay_lines (hmet.lines ▸ hv) hs hw

/-! ## O44 -/

/-- Settles O44: each event's equation above. -/
theorem linkEvents : Obligations.LinkEvents := by
  unfold Obligations.LinkEvents
  intro s a l proto down
  refine ⟨?_, linkTraining_ignored, ?_, ideKmKeyProgramming_ignored, ?_, ?_, ?_, fun h => congrArg Host.Outcome.next (linkDown_of_down h), ?_, ?_,
    ideIntegrityFailure_ignored, ?_, ?_, ?_, uioRequestTimeout_ignored, ?_, dieUnreachableTimeout_ignored, shadowDiscardTimeout_early,
    fun t => shadowDiscardTimeout_discards, fun hw hn => ⟨flitTagFailure_notes hw hn, flitTagFailure_loses hw hn⟩, flitTagFailure_ignored,
    viralIndicationReceived_does s, fun P v hP hv ha ht => ⟨viralTakesEffect_aborts hP hv ha ht, viralTakesEffect_shows hP hv ha ht⟩,
    viralTakesEffect_ignored, ?_, fun pa p P => uncorrectableError_owned, ?_, ?_, ?_, fun k t ht => uncorrectableError_team ht,
    fun c x => uncorrectableError_saveArea, fun cl tag corr => uncorrectableError_engineCell, ?_, ?_, ?_, ?_, homeSliceTagParity_clears s⟩
  -- training
  · exact fun hl hup hf hk => ⟨fun hg => ⟨_, linkTraining_eq hl hup hf hk (if_pos hg), by rw [link_modLink_same, Bool.decide_and, Bool.decide_eq_true],
      fun j hj => link_modLink_ne hj _, rfl⟩, fun hg => linkTraining_eq hl hup hf hk (if_neg hg)⟩
  -- keys
  · exact fun hup hh => ⟨s.keyed l, ideKmKeyProgramming_keys hup hh, link_modLink_same .., fun j hj => link_modLink_ne hj _, rfl, sendHeld_none (s := s.keyed l)⟩
  -- links that go down
  · exact fun hup hpool hpeers => ⟨_, congrArg Host.Outcome.next (linkDown_alone hup hpool hpeers), link_modLink_same .., fun j hj => link_modLink_ne hj _, rfl⟩
  · exact fun hup hw hq => ⟨_, rfl, linkDown_dies hup hw hq⟩
  · exact fun hup hw hq => ⟨_, rfl, linkDown_peers hup hw hq⟩
  · intro hide hup hpool hpeers
    have hup' : ((s.insecured l).link l).up = true := by rw [link_insecured]; exact hup
    refine ⟨(s.insecured l).unlinked l, (ideIntegrityFailure_fails hide).trans (congrArg Host.Outcome.next (linkDown_alone hup' hpool hpeers)), ?_,
      fun j hj => ?_, rfl, rfl⟩
    · exact (link_modLink_same ..).trans (by rw [link_insecured])
    · exact (link_modLink_ne hj _).trans (link_modLink_ne hj _)
  · intro hide hup hw hq
    have hup' : ((s.insecured l).link l).up = true := by rw [link_insecured]; exact hup
    obtain ⟨hlink, hlost⟩ := linkDown_dies hup' hw ⟨hq.launches, hq.queue, hq.requests, hq.foreign, hq.snoops⟩
    exact ⟨_, ideIntegrityFailure_fails hide, hlink.trans (by rw [link_insecured]), hlost⟩
  -- agents that go, and requests that are late
  · exact fun hw hq => ⟨_, rfl, fun k e he hp => loseAgent_w9h hw hq _ he hp⟩
  · exact fun hw hq hn => ⟨_, rfl, loseAgent_w9l hw hq hn⟩
  · exact fun h => ⟨fun hn => ⟨_, uioRequestTimeout_counts h hn, Tbl.get?_put_self .., rfl, rfl, rfl, rfl, rfl⟩,
      fun hn => ⟨_, uioRequestTimeout_loses h hn, (Tbl.get?_del ..).trans (if_pos rfl), rfl, rfl, rfl, rfl⟩⟩
  · intro hw h
    obtain ⟨u, hs, hu⟩ := get?_unreachable s s.arg.n0
    refine ⟨_, (dieUnreachableTimeout_tells hw h).trans (congrArg Host.Outcome.next hs), (hu _).trans ?_, fun d hd => (hu d).trans ?_, rfl⟩
    · rw [if_pos rfl, Tbl.getD]
      cases Tbl.get? s.ports.unreach s.arg.n0 <;> rfl
    · rw [if_neg hd, Option.or_none]
  -- errors
  · exact fun pa h hl => (uncorrectableError_memLine h).trans (congrArg Host.Outcome.next (poisonLine_local hl))
  · intro pa h ho hg
    obtain ⟨q, hq⟩ := poisonLine_eq s pa
    refine ⟨_, uncorrectableError_system h ho hg, ?_⟩
    rw [hq]
    exact deviceViral_does { s with poison := q }
  · exact fun p P h hP => ⟨_, uncorrectableError_lostPoison h hP, (viralDetect_does s p 3).1 P hP, (viralDetect_does s p 3).2.1, (viralDetect_does s p 3).2.2⟩
  · exact fun h => ⟨_, uncorrectableError_systemState h, deviceViral_does s⟩
  · exact fun cl tile r n x h hx => ⟨_, _, uncorrectableError_accWord h, get?_wordBad hx _, (mem_markBad ..).2 (.inl rfl), mem_markBad x _, rfl⟩
  -- shadows lost
  · intro lk x h hx
    have hdo {y : State} (hy : s.shadowLost lk = y) : Does .uncorrectableError s y := hy ▸ uncorrectableError_shadowEntry h
    obtain ⟨hdone, habort, hviral⟩ := shadowLost_does hx
    exact ⟨fun hst => hdo (habort hst), fun hst => hdo (hdone hst),
      fun P hP hw hs hd => ⟨_, hdo (hviral hw hs hd), (viralDetect_does s _ 2).1 P hP, (viralDetect_does s _ 2).2.2⟩⟩
  · intro d p v h hh
    have hdo {y : State} (hy : s.foreignLost d p v = y) : Does .uncorrectableError s y := hy ▸ uncorrectableError_foreignEntry h
    exact ⟨fun hl => hdo ((foreignLost_held hh).1 hl), fun hl => hdo ((foreignLost_held hh).2 hl)⟩
  · intro x hx
    have hdo {y : State} (hy : s.shadowLost s.arg.n0 = y) : Does .shadowEntryLost s y := hy ▸ shadowEntryLost_does s
    obtain ⟨hdone, habort, hviral⟩ := shadowLost_does hx
    exact ⟨fun hst => hdo (hdone hst), fun hst => hdo (habort hst),
      fun P hP hw hs hd => ⟨_, hdo (hviral hw hs hd), (viralDetect_does s _ 2).1 P hP, (viralDetect_does s _ 2).2.2⟩⟩

end Sys2Proof.Machine
end

section
/-! PROOFS. Writes of the launch registers, of the windows of VFs and of the PF, and accesses through the aperture (R106, R109 to R114,
R124, R129 to R131, R436, R437): O47. -/

namespace Sys2Proof.Machine

/-! ## A context that changes -/

/-- A changed context, read back. -/
theorem does_modCtx {i : Instr} {s : State} {c : Nat} {f : Ctx → Ctx} {y : Ctx} (h : Does i s (s.modCtx c f)) (hy : f (s.ctx c) = y) :
    ∃ s1, Does i s s1 ∧ CtxChanged s s1 c ∧ s1.ctx c = y := ⟨_, h, ctxChanged_modCtx .., (modCtx_ctx ..).trans hy⟩

theorem stream_upd (x : Ctx) (i j : Nat) (f : Stream → Stream) :
    Ctx.stream { x with streams := Tbl.upd x.streams i {} f } j = if j = i then f (x.stream i) else x.stream j := Tbl.getD_upd ..

/-- A changed stream is all that a change of a stream changes. -/
theorem modStream_changes (s : State) (c i : Nat) (f : Stream → Stream) :
    CtxChanged s (s.modStream c i f) c ∧ ((s.modStream c i f).ctx c).stream i = f ((s.ctx c).stream i) ∧
    (∀ j, j ≠ i → ((s.modStream c i f).ctx c).stream j = (s.ctx c).stream j) ∧
    { (s.modStream c i f).ctx c with streams := (s.ctx c).streams } = s.ctx c := by
  rw [State.modStream, modCtx_ctx]
  exact ⟨ctxChanged_modCtx .., (stream_upd ..).trans (if_pos rfl), fun j hj => (stream_upd ..).trans (if_neg hj), rfl⟩

/-- A changed stream, read back. -/
theorem does_modStream {e : Instr} {s : State} {c i : Nat} {f : Stream → Stream} {q : Stream} (h : Does e s (s.modStream c i f))
    (hq : f ((s.ctx c).stream i) = q) : ∃ s1, Does e s s1 ∧ CtxChanged s s1 c ∧ (s1.ctx c).stream i = q ∧
      (∀ j, j ≠ i → (s1.ctx c).stream j = (s.ctx c).stream j) ∧ { s1.ctx c with streams := (s.ctx c).streams } = s.ctx c := by
  obtain ⟨hc, hi, hothers, hrest⟩ := modStream_changes s c i f
  exact ⟨_, h, hc, hi.trans hq, hothers, hrest⟩

theorem bit_toNat (v : Word) (i : Nat) : bit v.toNat i = v.getLsbD i := by
  simp [bit, BitVec.getLsbD, Nat.testBit_eq_decide_div_mod_eq]

/-! ## Launch registers and `cbase` (R113, R114, R124) -/

theorem lregWrite_does {s s1 : State} (h : s.lregWrite s.arg.n0 s.arg.n1 s.arg.v s.arg.n2 = s1) : Does .lregWrite s s1 := congrArg Host.Outcome.next h
theorem cbaseWrite_does {s s1 : State} (h : s.cbaseWrite s.arg.n0 s.arg.v = s1) : Does .cbaseWrite s s1 := congrArg Host.Outcome.next h

theorem not_takesWrites {s : State} {c : Nat} (h : ¬ TakesWrites s c) : 1024 ≤ c ∨ (s.ctx c).vfFrozen = true ∨ s.mil.served = false := by
  by_contra hno
  simp only [not_or, Nat.not_le, Bool.not_eq_true, Bool.not_eq_false] at hno
  exact h hno

theorem lregWrite_ignored {s : State} {c i : Nat} (v : Word) (n : Nat) (h : ¬ TakesWrites s c ∨ 16 ≤ i ∨ (s.ctx c).part = none ∨
    (s.ctx c).resetting.isSome = true ∨ ∃ p, (s.ctx c).part = some p ∧ (s.part p).resetting = true) : s.lregWrite c i v n = s := by
  unfold State.lregWrite
  cases hp : (s.ctx c).part with
  | none => simp only [hp]
  | some p =>
    simp only [hp]
    refine if_pos ?_
    simp only [hp, Option.some.injEq, exists_eq_left', reduceCtorEq, false_or] at h
    rcases h.imp_left not_takesWrites with (h | h | h) | h | h | h <;> simp [h]

/-- R113, R114: what a write of a launch register that is taken comes to. -/
theorem lregWrite_taken {s : State} {c i p : Nat} (v : Word) (n : Nat) (hw : TakesWrites s c) (hi : i < 16) (hp : (s.ctx c).part = some p)
    (hr : (s.ctx c).resetting = none) (hpr : (s.part p).resetting = false) : s.lregWrite c i v n =
      if n < 8 then s.modStream c i fun q => { q with werr := true }
      else if 64 ≤ ((s.ctx c).stream i).pend.length then s.modStream c i fun q => { q with ovf := true }
      else ((s.enqueue c i v none).modCtx c fun x => { x with fresh := false }).modPart p fun P => { P with vblock := false } := by
  obtain ⟨hc, hf, hs⟩ := hw
  unfold State.lregWrite
  simp only [hp]
  exact if_neg (by simp [hs, hc, hi, hf, hr, hpr])


theorem cbaseWrite_ignored {s : State} {c : Nat} (v : Word) (h : ¬ TakesWrites s c ∨ ∃ l ∈ s.launches, l.2.head.ctx = c ∧ l.2.uncommitted = true) :
    s.cbaseWrite c v = s := by
  refine if_pos ?_
  rcases h.imp_left not_takesWrites with (h | h | h) | h
  · simp [h]
  · simp [h]
  · simp [h]
  · simp only [List.any_eq_true, Bool.and_eq_true, decide_eq_true_eq, h, or_true, Bool.or_eq_true]
theorem cbaseWrite_taken {s : State} {c : Nat} (v : Word) (hw : TakesWrites s c) (hl : ∀ l ∈ s.launches, l.2.head.ctx = c → l.2.uncommitted = false) :
    s.cbaseWrite c v = s.modCtx c fun x => { x with cbase := v &&& 0x01FFFFFFFFFFF00F, cprod := 0, ccons := 0 } := by
  obtain ⟨hc, hf, hs⟩ := hw
  exact if_neg (by simpa [hs, hc, hf] using hl)

/-- R86, R114: a context with one more address queued on a stream. -/
def Ctx.queues (x : Ctx) (i : Nat) (q : Pend) : Ctx :=
  { x with streams := Tbl.upd x.streams i {} fun y => { y with pend := y.pend ++ [q] }, fresh := false }

theorem stream_queues (x : Ctx) (i j : Nat) (q : Pend) :
    (x.queues i q).stream j = if j = i then { x.stream i with pend := (x.stream i).pend ++ [q] } else x.stream j := by
  rw [Ctx.stream, Ctx.queues, Tbl.getD_upd]
  rfl

/-- R114: what a write of a launch register queues. -/
def State.pendFor (s : State) (c : Nat) (v : Word) : Pend :=
  let q : Pend := { id := s.fresh, addr := v, at_ := s.now, issuer := none }
  { q with lid := (({ s with fresh := s.fresh + 1 } : State).pendLid c q).getD 0xFFFFFF }

theorem enqueue_eq (s : State) (c i : Nat) (v : Word) : s.enqueue c i v none =
    ({ s with fresh := s.fresh + 1 } : State).modCtx c fun x => { x with streams := Tbl.upd x.streams i {} fun y => { y with pend := y.pend ++ [s.pendFor c v] } } := rfl

theorem enqueue_ctx (s : State) (c i j : Nat) (v : Word) : ((s.enqueue c i v none).modCtx c fun x => { x with fresh := false }).ctx j =
    if j = c then (s.ctx c).queues i (s.pendFor c v) else s.ctx j := by
  rw [ctx_modCtx, enqueue_eq, modCtx_ctx, ctx_modCtx]
  split_ifs <;> rfl

theorem vblock_modPart (s : State) (p : Nat) : ((s.modPart p fun P => { P with vblock := false }).part p).vblock = false := by
  cases h : Tbl.get? s.parts p <;> simp [State.modPart, State.part, Tbl.getD, h]

/-- R114: a launch address is queued behind the others of its stream. -/
theorem lregWrite_queues {s : State} {c i p : Nat} (v : Word) {n : Nat} (hw : TakesWrites s c) (hi : i < 16) (hp : (s.ctx c).part = some p)
    (hr : (s.ctx c).resetting = none) (hpr : (s.part p).resetting = false) (hn : 8 ≤ n) (hfree : ((s.ctx c).stream i).pend.length < 64) :
    ∃ s1 x, s.lregWrite c i v n = s1 ∧ ((s1.ctx c).stream i).pend = ((s.ctx c).stream i).pend ++ [x] ∧ x.addr = v ∧ x.issuer = none ∧ x.at_ = s.now ∧
      (s1.ctx c).fresh = false ∧ (∀ j, j ≠ i → (s1.ctx c).stream j = (s.ctx c).stream j) ∧ (∀ j, j ≠ c → s1.ctx j = s.ctx j) ∧
      (s1.part p).vblock = false ∧ s1.mem = s.mem ∧ s1.teams = s.teams ∧ s1.launches = s.launches := by
  have hq (j : Nat) := enqueue_ctx s c i j v
  rw [lregWrite_taken v n hw hi hp hr hpr, if_neg (Nat.not_lt.2 hn), if_neg (Nat.not_le.2 hfree)]
  refine ⟨_, s.pendFor c v, rfl, ?_, rfl, rfl, rfl, ?_, fun j hj => ?_, fun j hj => (hq j).trans (if_neg hj), vblock_modPart _ p, rfl, rfl, rfl⟩
  · exact congrArg Stream.pend ((congrArg (Ctx.stream · i) ((hq c).trans (if_pos rfl))).trans ((stream_queues ..).trans (if_pos rfl)))
  · exact congrArg Ctx.fresh ((hq c).trans (if_pos rfl))
  · exact (congrArg (Ctx.stream · j) ((hq c).trans (if_pos rfl))).trans ((stream_queues ..).trans (if_neg hj))

/-! ## The debug window (R436, R437, R441, R444, R448) -/

/-- R444: a selector as it is written: its overflow bit stands until a one is written to it. -/
def selWritten (old v : Word) : Word := (v &&& 0x803F) ||| BitVec.ofNat 64 (b2n (old.getLsbD 63 && !v.getLsbD 63) * 2 ^ 63)

theorem selWritten_and (old v : Word) : selWritten old v &&& 0x7FFFFFFFFFFFFFFF = v &&& 0x803F := by
  unfold selWritten
  cases old.getLsbD 63 && !v.getLsbD 63
  · simp [b2n, BitVec.and_assoc]
  · simp [b2n, BitVec.and_or_distrib_right, BitVec.and_assoc]
theorem selWritten_overflow (old v : Word) : (selWritten old v).getLsbD 63 = true ↔ old.getLsbD 63 = true ∧ v.getLsbD 63 = false := by
  unfold selWritten
  cases old.getLsbD 63 <;> cases v.getLsbD 63 <;> simp [b2n]

section
variable {s : State} {c off : Nat} (v : Word)

theorem dbgWrite_evirq : s.dbgWrite c 0x1040 v = s.modDbg c fun d => { d with evirq := v &&& 0xF1, evovf := d.evovf && !v.getLsbD 63 } := by
  rw [← bit_toNat]
  rfl
theorem dbgWrite_trcons {p : Nat} (hp : (s.ctx c).part = some p) : s.dbgWrite c 0x1050 v = s.trconsWrite p v.toNat := by
  have hwrite : s.dbgWrite c 0x1050 v = (s.ctx c).part.elim s fun p => s.trconsWrite p v.toNat := by
    simp only [State.dbgWrite, Nat.reduceEqDiff, if_false, if_true]
    cases (s.ctx c).part <;> rfl
  rw [hwrite, hp, Option.elim_some]
theorem dbgWrite_bpt (h : 0x1080 ≤ off) (h' : off < 0x10C0) : s.dbgWrite c off v =
    s.modDbg c fun d => { d with bpt := Tbl.put d.bpt ((off - 0x1080) / 8) (v &&& 0x800003FFFFFFFFFF) } := by
  unfold State.dbgWrite
  repeat rw [if_neg (by omega)]
  exact if_pos ⟨h, h'⟩
theorem dbgWrite_wpta (h : 0x10C0 ≤ off) (h' : off < 0x1100) (h0 : off % 16 = 0) : s.dbgWrite c off v =
    s.modDbg c fun d => { d with wpta := Tbl.put d.wpta ((off - 0x10C0) / 16) (v &&& 0x01FFFFFFFFFFFFFF) } := by
  unfold State.dbgWrite
  repeat rw [if_neg (by omega)]
  rw [if_pos ⟨h, h'⟩]
  exact if_pos (by omega)
theorem dbgWrite_wptc (h : 0x10C0 ≤ off) (h' : off < 0x1100) (h8 : off % 16 = 8) : s.dbgWrite c off v =
    s.modDbg c fun d => { d with
      wptc := Tbl.put d.wptc ((off - 0x10C8) / 16) (v &&& 0x8000000000000007), wptAt := Tbl.put d.wptAt ((off - 0x10C8) / 16) s.now } := by
  unfold State.dbgWrite
  repeat rw [if_neg (by omega)]
  rw [if_pos ⟨h, h'⟩]
  exact if_neg (by omega)
theorem dbgWrite_sel (h : 0x1100 ≤ off) (h' : off < 0x1180) : s.dbgWrite c off v = s.modCtx c fun x => { x with
    perf := { x.perf with sel := Tbl.put x.perf.sel ((off - 0x1100) / 8) (selWritten (Tbl.getD x.perf.sel ((off - 0x1100) / 8) 0) v) } } := by
  unfold State.dbgWrite
  repeat rw [if_neg (by omega)]
  rw [if_pos ⟨h, h'⟩]
  simp only [bit_toNat]
  rfl
theorem dbgWrite_val (h : 0x1180 ≤ off) (h' : off < 0x1200) : s.dbgWrite c off v =
    s.modCtx c fun x => { x with perf := x.perf.setVal ((off - 0x1180) / 8) (v.setWidth 48) } := by
  unfold State.dbgWrite
  repeat rw [if_neg (by omega)]
  exact if_pos ⟨h, h'⟩
theorem dbgWrite_unlisted (h8 : off % 8 = 0) (h : off = 0x1008 ∨ off = 0x1030 ∨ off = 0x1048 ∨ (0x1060 ≤ off ∧ off < 0x1080) ∨ 0x1200 ≤ off) :
    s.dbgWrite c off v = s := by
  unfold State.dbgWrite
  repeat rw [if_neg (by omega)]

end

/-! ## The window of a VF (R109 to R112, R127, R129) -/

theorem vfWrite_ignored {s : State} {c off : Nat} (v : Word) (h : ¬ TakesWrites s c ∨ off % 8 ≠ 0) : s.vfWrite c off v = s := by
  refine if_pos ?_
  rcases h.imp_left not_takesWrites with (h | h | h) | h <;> simp [h]

section
variable {s : State} {c off : Nat} (hw : TakesWrites s c) (h8 : off % 8 = 0) (v : Word)
include hw h8

theorem vfWrite_open : ¬ (decide (c ≥ 1024) || off % 8 ≠ 0 || (s.ctx c).vfFrozen || !s.mil.served) = true := by
  obtain ⟨hc, hf, hs⟩ := hw
  simp [hc, h8, hf, hs]

theorem vfWrite_lreg (h : off < 0x80) : s.vfWrite c off v = s.lregWrite c (off / 8) v 8 := (if_neg (vfWrite_open hw h8)).trans (if_pos h)
theorem vfWrite_flags (h : 0x80 ≤ off) (h' : off < 0x100) : s.vfWrite c off v =
    s.modStream c (off % 0x80 / 8) fun q => { q with werr := q.werr && !v.getLsbD 1, ovf := q.ovf && !v.getLsbD 0 } := by
  unfold State.vfWrite
  rw [if_neg (vfWrite_open hw h8), if_neg (by omega), if_pos h', show off % 0x80 / 8 = (off - 0x80) / 8 by omega, bit_toNat, bit_toNat]
theorem vfWrite_sirq (h : 0x180 ≤ off) (h' : off < 0x200) : s.vfWrite c off v = s.modStream c (off % 0x80 / 8) fun q => { q with sirq := v &&& 0xF3 } := by
  unfold State.vfWrite
  rw [if_neg (vfWrite_open hw h8), show off % 0x80 / 8 = (off - 0x180) / 8 by omega]
  repeat rw [if_neg (by omega)]
  exact if_pos ⟨h, h'⟩
theorem vfWrite_apt (h : 0x400 ≤ off) (h' : off < 0x600) : s.vfWrite c off v =
    s.modCtx c fun x => { x with apt := Tbl.put x.apt ((off - 0x400) / 8) (v &&& 0x01FFFFFFC0000001) } := by
  unfold State.vfWrite
  rw [if_neg (vfWrite_open hw h8)]
  repeat rw [if_neg (by omega)]
  exact if_pos ⟨h, h'⟩
theorem vfWrite_dbg (h : 0x1000 ≤ off) (h' : off < 0x2000) : s.vfWrite c off v = s.dbgWrite c off v := by
  unfold State.vfWrite
  rw [if_neg (vfWrite_open hw h8)]
  repeat rw [if_neg (by omega)]
  exact if_pos ⟨h, h'⟩
omit h8 in
theorem vfWrite_registers :
    s.vfWrite c 0x100 v = s.cbaseWrite c v ∧
    s.vfWrite c 0x110 v = (s.modCtx c fun x => { x with ccons := v.toNat }) ∧
    s.vfWrite c 0x200 v = (s.modCtx c fun x => { x with vlost := x.vlost && !v.getLsbD 1 }) ∧
    s.vfWrite c 0x210 v = (s.modCtx c fun x => { x with aperr := x.aperr && !v.getLsbD 7, cerr := x.cerr && !v.getLsbD 1 }) := by
  rw [← bit_toNat, ← bit_toNat]
  refine ⟨?_, ?_, ?_, ?_⟩ <;> exact (if_neg (vfWrite_open hw (by decide))).trans rfl
theorem vfWrite_unlisted (h : off = 0x108 ∨ (0x118 ≤ off ∧ off < 0x180) ∨ off = 0x208 ∨ (0x218 ≤ off ∧ off < 0x400) ∨ (0x600 ≤ off ∧ off < 0x1000) ∨
    0x2000 ≤ off) : s.vfWrite c off v = s := by
  unfold State.vfWrite
  rw [if_neg (vfWrite_open hw h8)]
  repeat rw [if_neg (by omega)]

end

/-! ## The window of the PF (R106, R107, R151) -/

/-- R106: the request with 8 of its 64 bytes written. -/
def reqWritten (r : BitVec 512) (off : Nat) (v : Word) : BitVec 512 :=
  (r &&& ~~~((0xFFFFFFFFFFFFFFFF : BitVec 512) <<< (8 * off))) ||| (v.setWidth 512 <<< (8 * off))

theorem getLsbD_reqWritten (r : BitVec 512) (off : Nat) (v : Word) {j : Nat} (hj : j < 512) :
    (reqWritten r off v).getLsbD j = if 8 * off ≤ j ∧ j < 8 * off + 64 then v.getLsbD (j - 8 * off) else r.getLsbD j := by
  have hones (k : Nat) : (0xFFFFFFFFFFFFFFFF : BitVec 512).getLsbD k = decide (k < 64) := by
    rw [BitVec.ofNat_eq_ofNat, BitVec.getLsbD_ofNat]
    refine (congrArg (decide (k < 512) && ·) (Nat.testBit_two_pow_sub_one 64 k)).trans ?_
    rw [← Bool.decide_and, decide_eq_decide]
    omega
  simp only [reqWritten, BitVec.getLsbD_or, BitVec.getLsbD_and, BitVec.getLsbD_not, BitVec.getLsbD_shiftLeft, BitVec.getLsbD_setWidth, hones, hj]
  by_cases hlo : 8 * off ≤ j
  · by_cases hhi : j < 8 * off + 64
    · simp [hlo, hhi, Nat.not_lt.2 hlo, show j - 8 * off < 64 by omega, show j - 8 * off < 512 by omega]
    · simp [hlo, hhi, show ¬ j - 8 * off < 64 by omega, BitVec.getLsbD_of_ge v (j - 8 * off) (by omega)]
  · simp [hlo, Nat.not_le.1 hlo]

theorem reqWritten_written (r : BitVec 512) {off : Nat} (v : Word) (h : off < 0x40) (h8 : off % 8 = 0) :
    (reqWritten r off v).extractLsb' (8 * off) 64 = v := by
  ext i hi
  rw [BitVec.getElem_extractLsb', getLsbD_reqWritten r off v (by omega), if_pos (by omega), Nat.add_sub_cancel_left, BitVec.getLsbD_eq_getElem hi]

theorem pfWrite_ignored {s : State} {off : Nat} (v : Word) (h : off % 8 ≠ 0 ∨ s.mil.served = false) (hf : off ≠ 0xF00) : s.pfWrite off v = s :=
  (if_neg hf).trans (if_pos (by rcases h with h | h <;> simp [h]))

theorem having_next {s s1 : State} {a : Arg} {f : State → Host.Outcome State Fault Refusal} (h : f { s with arg := a } = .next s1) : s.having a f = s1 := by
  rw [State.having, h]

section
variable {s : State} {off : Nat} (hs : s.mil.served = true) (v : Word)
include hs

theorem pfWrite_open (h8 : off % 8 = 0) : ¬ (off % 8 ≠ 0 || !s.mil.served) = true := by simp [h8, hs]
theorem pfWrite_req (h : off < 0x40) (h8 : off % 8 = 0) : s.pfWrite off v = { s with mil := { s.mil with req := reqWritten s.mil.req off v } } :=
  (if_neg (by omega)).trans ((if_neg (pfWrite_open hs h8)).trans (if_pos h))
theorem pfWrite_registers :
    s.pfWrite 0x40 v = (if v.getLsbD 0 = true then s.mbxGo else s) ∧
    s.pfWrite 0xE00 v = { s with xlat := { s.xlat with ctab := v &&& 0x000FFFFFFFFFC000 } } ∧
    s.pfWrite 0xE20 v = { s with xlat := { s.xlat with tmva := v &&& 0x01FFFFFFFFFFF000 } } ∧
    s.pfWrite 0xE40 v = { s with xlat := { s.xlat with tiva := v &&& 0x01FFFFFFFFFFF03F } } ∧
    s.pfWrite 0xE08 v = s.having { v := v } execGownWrite ∧
    s.pfWrite 0xE28 v = s.having { v := v } execTmvdWrite ∧
    s.pfWrite 0xE48 v = s.having { v := v } execTictlWrite := by
  rw [← bit_toNat]
  refine ⟨?_, ?_, ?_, ?_, ?_, ?_, ?_⟩ <;> unfold State.pfWrite <;> rw [if_neg (by decide), if_neg (pfWrite_open hs (by decide))] <;> rfl
theorem pfWrite_unlisted (h : (0x48 ≤ off ∧ off < 0xE00) ∨ off = 0xE10 ∨ off = 0xE18 ∨ off = 0xE30 ∨ off = 0xE38 ∨ 0xE50 ≤ off ∧ off ≠ 0xF00) :
    s.pfWrite off v = s := by
  by_cases h8 : off % 8 = 0
  · unfold State.pfWrite
    rw [if_neg (by omega), if_neg (pfWrite_open hs h8)]
    repeat rw [if_neg (by omega)]
  · exact pfWrite_ignored v (.inl h8) (by omega)

end

/-! ## The aperture (R96, R129 to R131) -/

/-- R131: what answers an access that delivers nothing: a read all ones, a write nothing. -/
def unansweredBy (c len : Nat) (write : Bool) : List Msg := if write = true then [] else [Msg.aperture c (List.replicate len 0xFF) false]

theorem apFail_eq (s : State) (c len : Nat) (write : Bool) : s.apFail c len write = { s with outbox := s.outbox ++ unansweredBy c len write } := by
  cases write
  · rfl
  · exact congrArg (fun o => { s with outbox := o }) (List.append_nil s.outbox).symm

section
variable {s : State} {c off len : Nat} (data : Option (List Byte))

theorem apAccess_ignored (h : ¬ ApertureOk s c off len) : s.apAccess c off len data = s := by
  refine if_pos ?_
  by_contra hno
  simp only [Bool.or_eq_true, decide_eq_true_eq, Bool.not_eq_true', not_or] at hno
  obtain ⟨⟨⟨hc, hs⟩, hlen⟩, hpage⟩ := hno
  exact h ⟨by omega, Bool.not_eq_false .. ▸ hs, by omega, not_not.1 hpage⟩

variable (h : ApertureOk s c off len)
include h

theorem apertureOk_open : ¬ (decide (c ≥ 1024) || !s.mil.served || decide (len = 0) || decide (off / 4096 ≠ (off + len - 1) / 4096)) = true := by
  obtain ⟨hc, hs, hlen, hpage⟩ := h
  simp [hc, hs, hlen.ne', hpage]
theorem apAccess_frozen (hf : (s.ctx c).vfFrozen = true) : s.apAccess c off len data =
    { s with outbox := s.outbox ++ unansweredBy c len data.isSome } :=
  (if_neg (apertureOk_open h)).trans ((if_pos hf).trans (apFail_eq ..))
/-- R131: through a window that is not enabled, or of a VF that is not assigned, an access comes to nothing. -/
theorem apAccess_fails (hf : (s.ctx c).vfFrozen = false) (hno : (s.ctx c).apVa off = none ∨ (s.ctx c).part = none) :
    s.apAccess c off len data =
      { s.modCtx c (fun x => { x with aperr := true }) with outbox := s.outbox ++ unansweredBy c len data.isSome } := by
  refine Eq.trans ?_ (apFail_eq (s.modCtx c fun x => { x with aperr := true }) c len data.isSome)
  refine (if_neg (apertureOk_open h)).trans ((if_neg (Bool.eq_false_iff.1 hf)).trans ?_)
  cases hva : (s.ctx c).apVa off with
  | none => rfl
  | some va => exact if_pos (Option.isNone_iff_eq_none.2 (hno.resolve_left (by simp [hva])))
/-- R129, R130: an access through an enabled window of an assigned VF waits its turn. -/
theorem apAccess_queues (hf : (s.ctx c).vfFrozen = false) {va : Nat} (hva : (s.ctx c).apVa off = some va) (hp : (s.ctx c).part.isSome = true) :
    s.apAccess c off len data = ({ s with fresh := s.fresh + 1 } : State).modCtx c fun x =>
      { x with aps := x.aps ++ [{ id := s.fresh, va := va, len := len, write := data }] } := by
  refine (if_neg (apertureOk_open h)).trans ((if_neg (Bool.eq_false_iff.1 hf)).trans ?_)
  simp only [hva]
  exact if_neg (by simpa [Option.isSome_iff_ne_none] using hp)

end

/-! ## O47 -/

theorem registerWrite_vf {s s1 : State} {x : Nat} (hx : s.arg.opt = some x) (h : s.vfWrite x s.arg.n0 s.arg.v = s1) : Does .registerWrite s s1 := by
  change execRegisterWrite s = _
  simp only [execRegisterWrite, hx, h]
theorem registerWrite_pf {s s1 : State} (hx : s.arg.opt = none) (h : s.pfWrite s.arg.n0 s.arg.v = s1) : Does .registerWrite s s1 := by
  change execRegisterWrite s = _
  simp only [execRegisterWrite, hx, h]

/-- R130: what the aperture makes of a read and of a write. -/
theorem aperture_does (s : State) (w : Bool) : Does (if w = true then .apertureWrite else .apertureRead) s
    (s.apAccess s.arg.n0 s.arg.n1 (if w = true then s.arg.bytes.length else s.arg.n2) (if w = true then some s.arg.bytes else none)) := by
  cases w <;> rfl

/-- Settles O47: each write and access by its lemma above. -/
theorem windowEvents : Obligations.WindowEvents := by
  intro s a c i
  refine ⟨fun p hw hi hp hr hpr => ?_, fun h => ?_, fun hw hl => ?_, fun h => ?_, fun x hx => ⟨fun h => ?_, fun hw h8 => ?_⟩, fun hx => ?_, fun w len hlen => ?_⟩
  -- launch registers and `cbase`
  · have hleaves := lregWrite_taken s.arg.v s.arg.n2 hw hi hp hr hpr
    refine ⟨fun hn => does_modStream (lregWrite_does (hleaves.trans (if_pos hn))) rfl, fun hn hfull => ?_, fun hn hfree => ?_⟩
    · exact does_modStream (lregWrite_does (hleaves.trans ((if_neg (Nat.not_lt.2 hn)).trans (if_pos hfull)))) rfl
    · obtain ⟨s1, q, hs1, hq⟩ := lregWrite_queues s.arg.v hw hi hp hr hpr hn hfree
      exact ⟨s1, q, lregWrite_does hs1, hq⟩
  · exact lregWrite_does (lregWrite_ignored _ _ h)
  · exact does_modCtx (cbaseWrite_does (cbaseWrite_taken _ hw hl)) rfl
  · exact cbaseWrite_does (cbaseWrite_ignored _ h)
  -- the window of a VF
  · exact registerWrite_vf hx (vfWrite_ignored _ h)
  · intro X st sets toStream
    have hdo {y : State} (h : s.vfWrite x c s.arg.v = y) : Does .registerWrite s y := registerWrite_vf hx h
    have hdbg {y : State} (hlo : 0x1000 ≤ c) (hhi : c < 0x2000) (h : s.dbgWrite x c s.arg.v = y) : Does .registerWrite s y :=
      hdo ((vfWrite_dbg hw h8 _ hlo hhi).trans h)
    have hfix {n : Nat} {y : State} (hc : c = n) (h : s.vfWrite x n s.arg.v = y) : Does .registerWrite s y := hdo (hc ▸ h)
    obtain ⟨hcbase, hccons, hvlost, hctxstat⟩ := vfWrite_registers hw s.arg.v
    have hwin {n : Nat} {y : State} (hc : c = n) (hlo : 0x1000 ≤ n) (hhi : n < 0x2000) (h : s.dbgWrite x n s.arg.v = y) : Does .registerWrite s y :=
      hdbg (hc ▸ hlo) (hc ▸ hhi) (hc ▸ h)
    refine ⟨fun h => hdo (vfWrite_lreg hw h8 _ h), fun h h' => does_modStream (hdo (vfWrite_flags hw h8 _ h h')) rfl, fun h => hfix h hcbase,
      fun h => does_modCtx (hfix h hccons) rfl, fun h h' => does_modStream (hdo (vfWrite_sirq hw h8 _ h h')) rfl, fun h => does_modCtx (hfix h hvlost) rfl,
      fun h => does_modCtx (hfix h hctxstat) rfl, fun h h' => does_modCtx (hdo (vfWrite_apt hw h8 _ h h')) rfl,
      fun h => hwin h (by decide) (by decide) rfl,
      fun h => does_modCtx (hwin h (by decide) (by decide) rfl) rfl,
      fun h => does_modCtx (hwin h (by decide) (by decide) rfl) rfl,
      fun h => hwin h (by decide) (by decide) rfl,
      fun h => does_modCtx (hwin h (by decide) (by decide) rfl) rfl,
      fun h => does_modCtx (hwin h (by decide) (by decide) rfl) rfl,
      fun h => does_modCtx (hwin h (by decide) (by decide) (dbgWrite_evirq _)) rfl,
      fun p h hp => hwin h (by decide) (by decide) (dbgWrite_trcons _ hp),
      fun h => does_modCtx (hwin h (by decide) (by decide) rfl) rfl,
      fun h h' => does_modCtx (hdbg (by omega) (by omega) (dbgWrite_bpt _ h h')) rfl,
      fun h h' h0 => does_modCtx (hdbg (by omega) (by omega) (dbgWrite_wpta _ h h' h0)) rfl,
      fun h h' h0 => does_modCtx (hdbg (by omega) (by omega) (dbgWrite_wptc _ h h' h0)) rfl,
      fun h h' => ?_,
      fun h h' => does_modCtx (hdbg (by omega) (by omega) (dbgWrite_val _ h h')) rfl, fun h => ?_⟩
    · obtain ⟨s1, hdoes, hchanged, hctx⟩ := does_modCtx (hdbg (by omega) (by omega) (dbgWrite_sel _ h h')) rfl
      exact ⟨s1, _, hdoes, hchanged, hctx, selWritten_and .., selWritten_overflow ..⟩
    · by_cases hd : 0x1000 ≤ c ∧ c < 0x2000
      · exact hdbg hd.1 hd.2 (dbgWrite_unlisted _ h8 (by omega))
      · exact hdo (vfWrite_unlisted hw h8 _ (by omega))
  -- the window of the PF
  · have hdo {y : State} (h : s.pfWrite c s.arg.v = y) : Does .registerWrite s y := registerWrite_pf hx h
    have hfix {n : Nat} {y : State} (hc : c = n) (h : s.pfWrite n s.arg.v = y) : Does .registerWrite s y := hdo (hc ▸ h)
    refine ⟨fun h hf => hdo (pfWrite_ignored _ h hf), fun h => hfix h rfl, fun hs => ?_⟩
    obtain ⟨hgo, hctab, htmva, htiva, hgown, htmvd, htictl⟩ := pfWrite_registers hs s.arg.v
    exact ⟨fun h h8 => ⟨_, hdo (pfWrite_req hs _ h h8), reqWritten_written _ _ h h8, fun j hj hout => (getLsbD_reqWritten _ _ _ hj).trans (if_neg (by omega))⟩,
      fun h hb => hfix h (hgo.trans (if_pos hb)), fun h hb => hfix h (hgo.trans (if_neg (Bool.eq_false_iff.1 hb))),
      fun h => hfix h hctab, fun h => hfix h htmva, fun h => hfix h htiva,
      fun _ h hn => hfix h (hgown.trans (having_next hn)), fun _ h hn => hfix h (htmvd.trans (having_next hn)),
      fun _ h hn => hfix h (htictl.trans (having_next hn)), fun h => hdo (pfWrite_unlisted hs _ h)⟩
  -- the aperture
  · intro ev ans
    have hdo {y : State} (h : s.apAccess c i len (if w = true then some s.arg.bytes else none) = y) : Does ev s y := by
      subst hlen
      exact h ▸ aperture_does s w
    have hans : unansweredBy c len (if w = true then some s.arg.bytes else none).isSome = ans := by cases w <;> rfl
    refine ⟨fun h => hdo (apAccess_ignored _ h), fun h hf => hdo (hans ▸ apAccess_frozen _ h hf), fun h hf => ⟨fun va hva hp => ?_, fun hno => ?_⟩⟩
    · exact ⟨_, hdo (apAccess_queues _ h hf hva hp), rfl, modCtx_ctx .., fun j hj => (ctx_modCtx ..).trans (if_neg hj), rfl, rfl⟩
    · have hctx (j : Nat) := ctx_modCtx s c j fun x => { x with aperr := true }
      exact ⟨_, hdo (apAccess_fails _ h hf hno), (hctx c).trans (if_pos rfl), fun j hj => (hctx j).trans (if_neg hj), rfl, congrArg (s.outbox ++ ·) hans⟩

end Sys2Proof.Machine
end

section
/-! PROOFS. What a trace record leaves as it was (R446, R447, R449), and the launch sequencer's admission (R116, R122, R123, R126, R234 to R236,
R657, R711): the first part of O50. -/

namespace Sys2Proof.Machine

/-! ## What a trace record leaves (R446, R447, R449) -/

/-- A partition without its trace state. -/
def Part.untraced (P : Part) : Part := { P with conf := {} }
/-- `s'` is `s` but for records: bytes of memory, the trace state of partitions, and contexts. -/
def Traced (s s' : State) : Prop := ∃ m pt x, s' = { s with mem := m, parts := pt, ctxs := x } ∧ ∀ p, (s'.part p).untraced = (s.part p).untraced

theorem Traced.refl (s : State) : Traced s s := ⟨s.mem, s.parts, s.ctxs, rfl, fun _ => rfl⟩
theorem Traced.trans {a b c : State} (h : Traced a b) (g : Traced b c) : Traced a c := by
  obtain ⟨m, pt, x, hb, hp⟩ := h
  obtain ⟨m', pt', x', rfl, hp'⟩ := g
  subst hb
  exact ⟨m', pt', x', rfl, fun p => (hp' p).trans (hp p)⟩

theorem traced_mem (s : State) (m : List Host.Cell) : Traced s { s with mem := m } := ⟨m, s.parts, s.ctxs, rfl, fun _ => rfl⟩
theorem traced_modPart (s : State) (p : Nat) {f : Part → Part} (hf : ∀ P, (f P).untraced = P.untraced) : Traced s (s.modPart p f) := by
  refine ⟨s.mem, _, s.ctxs, rfl, fun q => ?_⟩
  by_cases hq : q = p
  · subst hq
    cases h : Tbl.get? s.parts q with
    | none => simp [State.modPart, State.part, Tbl.getD, h]
    | some P => simp [State.modPart, State.part, Tbl.getD, h, hf]
  · rw [part_modPart_ne hq]
theorem traced_count (s : State) (c ev n : Nat) : Traced s (s.count c ev n) := by
  obtain ⟨x, hx, -⟩ := count_eq s c ev n
  exact ⟨s.mem, s.parts, x, hx, fun _ => by rw [hx]; rfl⟩
theorem traced_writeTrace (s : State) (p ctx kind time : Nat) (data : BitVec 128) : Traced s (s.writeTrace p ctx kind time data) := by
  unfold State.writeTrace
  exact (traced_mem s _).trans (traced_modPart _ p fun _ => rfl)
theorem traced_postTrace (s : State) (p ctx kind : Nat) (data : BitVec 128) (holds : Bool) : Traced s (s.postTrace p ctx kind data holds) := by
  rw [postTrace_eq]
  have hsummary : Traced s (s.lossSummary p) := by
    unfold State.lossSummary
    split_ifs
    · exact (traced_writeTrace ..).trans (traced_modPart _ p fun _ => rfl)
    · exact .refl s
  split_ifs
  · exact .refl s
  · refine hsummary.trans ?_
    unfold State.recordTrace
    split_ifs
    · exact traced_writeTrace ..
    · exact traced_modPart _ p fun _ => rfl
    · refine .trans ?_ (traced_count ..)
      exact traced_modPart _ p fun _ => rfl
/-- R447: a launch event record. -/
theorem traced_traceLaunch (s : State) (h : LHead) (what cause t : Nat) : Traced s (s.traceLaunch h what cause t) := by
  unfold State.traceLaunch
  split_ifs
  · exact traced_postTrace ..
  · exact .refl s

section
variable {s s' : State} (h : Traced s s')
include h

theorem Traced.launches : s'.launches = s.launches := by obtain ⟨m, pt, x, rfl, -⟩ := h; rfl
theorem Traced.teams : s'.teams = s.teams := by obtain ⟨m, pt, x, rfl, -⟩ := h; rfl
theorem Traced.ports : s'.ports = s.ports := by obtain ⟨m, pt, x, rfl, -⟩ := h; rfl
theorem Traced.now : s'.now = s.now := by obtain ⟨m, pt, x, rfl, -⟩ := h; rfl
theorem Traced.outbox : s'.outbox = s.outbox := by obtain ⟨m, pt, x, rfl, -⟩ := h; rfl
theorem Traced.part (p : Nat) : (s'.part p).untraced = (s.part p).untraced := by
  obtain ⟨_, _, _, -, hp⟩ := h
  exact hp p

end

/-! ## The order of the heads (R234) -/

theorem headBefore_iff (a b : Nat × Head) : headBefore a b = true ↔ b.1 < a.1 ∨ a.1 = b.1 ∧ (a.2.2.2.at_ < b.2.2.2.at_ ∨ a.2.2.2.at_ = b.2.2.2.at_ ∧
    (a.2.1 < b.2.1 ∨ a.2.1 = b.2.1 ∧ a.2.2.1 < b.2.2.1)) := by
  unfold headBefore
  split_ifs with h1 h2 h3 <;> simp only [decide_eq_true_eq] <;> omega

theorem headBefore_trans {a b c : Nat × Head} (h : headBefore a b = true) (g : headBefore b c = true) : headBefore a c = true := by
  rw [headBefore_iff] at *
  omega
theorem headBefore_asymm {a b : Nat × Head} (h : headBefore a b = true) : headBefore b a = false := by
  rw [Bool.eq_false_iff, Ne, headBefore_iff]
  rw [headBefore_iff] at h
  omega

/-- Heads in their order: none stands behind one that it goes before. -/
def HeadsOrdered (l : List (Nat × Head)) : Prop := l.Pairwise fun a b => headBefore b a = false

theorem mem_headInsert (a y : Nat × Head) (l : List (Nat × Head)) : y ∈ headInsert a l ↔ y = a ∨ y ∈ l := by
  induction l with
  | nil => simp [headInsert]
  | cons b r ih =>
    rw [headInsert]
    split_ifs
    · simp
    · simp [ih, or_left_comm]

theorem headsOrdered_headInsert (a : Nat × Head) {l : List (Nat × Head)} (h : HeadsOrdered l) : HeadsOrdered (headInsert a l) := by
  induction l with
  | nil => simp [headInsert, HeadsOrdered]
  | cons b r ih =>
    obtain ⟨hb, hr⟩ := List.pairwise_cons.1 h
    rw [headInsert]
    split_ifs with hab
    · refine List.pairwise_cons.2 ⟨fun y hy => ?_, h⟩
      rcases List.mem_cons.1 hy with rfl | hy
      · exact headBefore_asymm hab
      · rw [Bool.eq_false_iff]
        exact fun hya => Bool.eq_false_iff.1 (hb y hy) (headBefore_trans hya hab)
    · refine List.pairwise_cons.2 ⟨fun y hy => ?_, ih hr⟩
      rcases (mem_headInsert ..).1 hy with rfl | hy
      · exact Bool.eq_false_iff.2 hab
      · exact hb y hy

/-- R234: the class by which a head is ordered, once its first line has been read or need not be. -/
def State.headClass (s : State) (h : Head) : Option Nat :=
  if h.2.2.addrOk = false then some 0 else (s.headLine h).map fun x => if x.2 = true then 0 else bits (leNat x.1) 13 12
/-- R234: one more head among those in order. -/
def State.orderHead (s : State) (acc : List (Nat × Head)) (h : Head) : List (Nat × Head) := (s.headClass h).elim acc fun n => headInsert (n, h) acc
/-- R234: the heads of which the class is known, in their order. -/
def State.orderedHeads (s : State) (hs : List Head) : List (Nat × Head) := hs.foldl s.orderHead []

theorem headsOrdered_orderedHeads (s : State) (hs : List Head) : HeadsOrdered (s.orderedHeads hs) := by
  suffices ∀ acc, HeadsOrdered acc → HeadsOrdered (hs.foldl s.orderHead acc) from this [] List.Pairwise.nil
  induction hs with
  | nil => exact fun _ h => h
  | cons h r ih =>
    refine fun acc hacc => ih _ ?_
    unfold State.orderHead
    cases s.headClass h with
    | none => exact hacc
    | some n => exact headsOrdered_headInsert _ hacc

theorem foldl_orderHead (s : State) (hs : List Head) :
    hs.foldl (fun acc h => if h.2.2.addrOk = false then headInsert (0, h) acc
      else match s.headLine h with
        | some (line, bad) => headInsert (if bad = true then 0 else bits (leNat line) 13 12, h) acc
        | none => acc) [] = s.orderedHeads hs := by
  unfold State.orderedHeads
  congr 1
  funext acc h
  unfold State.orderHead State.headClass
  split_ifs
  · rfl
  · cases s.headLine h <;> rfl

/-! ## Admission (R234 to R236) -/

theorem launchAdmission_does {s s1 : State} (h : (s.admitStep s.arg.n0).getD s = s1) : Does .launchAdmission s s1 := congrArg Host.Outcome.next h

theorem admitStep_full {s : State} {p : Nat} (h : (s.part p).traceFull = true) : s.admitStep p = none := by
  simp only [State.admitStep, h, if_true, List.find?_nil, List.foldl_nil]
  split_ifs <;> rfl

section
variable {s : State} {p : Nat} (hroom : (s.part p).traceFull = false)
include hroom

/-- R657: the head of an ended launch leaves. -/
theorem admitStep_dead {h : Head} (hh : (s.heads p).find? (fun h => h.2.2.dead.isSome) = some h) :
    s.admitStep p = some (s.refuseHead h 0x4B (h.2.2.dead.getD 0xFFFFFF)) := by
  simp only [State.admitStep, hroom, Bool.false_eq_true, if_false, hh]

variable (hlive : ∀ h ∈ s.heads p, h.2.2.dead = none)
include hlive

omit hroom in
theorem heads_live : (s.heads p).find? (fun h => h.2.2.dead.isSome) = none := by
  rw [List.find?_eq_none]
  exact fun h hh => by simp [hlive h hh]
/-- R234: a head that has come up has its first line read. -/
theorem admitStep_reads {h : Head} (hh : (s.heads p).find? (fun h => h.2.2.addrOk && (s.headLine h).isNone && s.headFree h) = some h) :
    s.admitStep p = some (s.readHead h) := by
  simp only [State.admitStep, hroom, Bool.false_eq_true, if_false, heads_live hlive, hh]
/-- R234: what is left to do is to take the heads in their order, while the partition takes launches. -/
theorem admitStep_tries (hread : ∀ h ∈ s.heads p, ¬ (h.2.2.addrOk && (s.headLine h).isNone && s.headFree h) = true) :
    s.admitStep p = if s.partAdmits p = false then none else s.tryHeads p (s.orderedHeads (s.heads p)) := by
  simp only [State.admitStep, hroom, Bool.false_eq_true, if_false, heads_live hlive, List.find?_eq_none.2 hread, Bool.not_eq_true']
  exact congrArg (fun l => if s.partAdmits p = false then none else s.tryHeads p l) (foldl_orderHead s (s.heads p))

end

section
variable {s : State} {p : Nat} {a : Nat × Head} {r : List (Nat × Head)}

theorem tryHeads_busy (hf : s.headFree a.2 = false) : s.tryHeads p (a :: r) = none := by
  simp only [State.tryHeads, hf, Bool.not_false, if_true]

variable (hf : s.headFree a.2 = true)
include hf

theorem tryHeads_refuse {c lid : Nat} {log : Bool} {s1 : State} (hj : s.judge p a.2 = .refuse c lid log s1) : s.tryHeads p (a :: r) =
    some ((if log = true then s1.logIt (.headerCheck a.2.1 a.2.2.2.addr.toNat s.now) else s1).refuseHead a.2 c lid) := by
  simp only [State.tryHeads, hf, Bool.not_true, Bool.false_eq_true, if_false, hj]
theorem tryHeads_hold {s1 : State} (hj : s.judge p a.2 = .hold s1) : s.tryHeads p (a :: r) = s.tryHeads p r := by
  simp only [State.tryHeads, hf, Bool.not_true, Bool.false_eq_true, if_false, hj]
theorem tryHeads_wait {s1 : State} (hj : s.judge p a.2 = .wait s1) : s.tryHeads p (a :: r) = some s1 := by
  simp only [State.tryHeads, hf, Bool.not_true, Bool.false_eq_true, if_false, hj]
theorem tryHeads_admits {x : LHead} {s1 : State} (hj : s.judge p a.2 = .admits x s1) : s.tryHeads p (a :: r) = some (s1.admitHead p a.2 x) := by
  simp only [State.tryHeads, hf, Bool.not_true, Bool.false_eq_true, if_false, hj]

end

theorem judge_badAddr {s : State} {p : Nat} {h : Head} (ha : h.2.2.addrOk = false) : s.judge p h = .refuse 0x48 0xFFFFFF false s := by
  simp only [State.judge, ha, Bool.not_false, if_true]

/-! ## Refusal (R122, R126, R657) -/

/-- R122: a head that is not admitted leaves its queue with a record. -/
theorem refuseHead_does {s : State} {h : Head} {x : Ctx} (cause lid : Nat) (hx : Tbl.get? s.ctxs h.1 = some x) (hroom : x.crecs.length < 64)
    (hlate : x.clate = []) : CtxChanged s (s.refuseHead h cause lid) h.1 ∧
      (((s.refuseHead h cause lid).ctx h.1).stream h.2.1).pend = (x.stream h.2.1).pend.tail ∧ ((s.refuseHead h cause lid).ctx h.1).clate = [] ∧
      ((s.refuseHead h cause lid).ctx h.1).crecs =
        x.crecs ++ [{ pid := h.2.2.id, time := s.now, ver := 0, lid := lid, cause := cause, status := 1, stream := h.2.1 }] := by
  have hctx : (s.popHead h).ctx h.1 = { x with streams := Tbl.upd x.streams h.2.1 {} fun q => { q with pend := q.pend.tail, fetch := {}, line := none } } := by
    rw [State.popHead, State.modStream, modCtx_ctx, ctx_of_get? hx]
  refine ⟨⟨fun j hj => ?_, rfl⟩, ?_⟩
  · simp [State.refuseHead, State.finalRecord, State.popHead, State.modStream, State.modCtx, hj]
  · rw [State.refuseHead, State.finalRecord, modCtx_ctx, hctx]
    simp only [hroom, hlate, and_self, if_true]
    exact ⟨congrArg Stream.pend ((stream_upd ..).trans (if_pos rfl)), trivial⟩

/-! ## A launch is admitted (R187, R236) -/

/-- R236: the launches that an admitted launch conflicts with. -/
def State.edgesOf (s : State) (p : Nat) (x : LHead) : List Nat :=
  (s.launches.filter fun l => l.2.head.part = p && l.2.uncommitted && footClash l.2.head.foot x.foot).map Prod.fst
/-- R187, R235: a partition that has admitted a launch at a time. -/
def Part.admits (P : Part) (now : Nat) (x : LHead) : Part :=
  { P with verNext := (P.verNext + 1) % 2 ^ 24, lastAdmit := now + 8
           stms := match x.ds with | some d => Tbl.modify P.stms d.1 fun t => { t with glid := x.lid } | none => P.stms }
/-- R187, R236, R116: the machine with a launch admitted, before its record. -/
def State.admitted (s : State) (p : Nat) (h : Head) (x : LHead) : State :=
  ({ (s.popHead h).modStream h.1 h.2.1 (fun q => { q with adm := (q.adm + 1) % 2 ^ 16 }) with
      launches := Tbl.put s.launches (launchKey p x.ver) { head := x, edges := s.edgesOf p x } } : State).modPart p (·.admits s.now x)
/-- The same with its record. -/
def State.admitTraced (s : State) (p : Nat) (h : Head) (x : LHead) : State := ((s.admitted p h x).traceLaunch x 0 0 0).count h.1 55 1

theorem traced_admitTraced (s : State) (p : Nat) (h : Head) (x : LHead) : Traced (s.admitted p h x) (s.admitTraced p h x) :=
  (traced_traceLaunch ..).trans (traced_count ..)

theorem admitHead_calm {s : State} {p : Nat} {h : Head} {x : LHead} (hv : ((s.admitTraced p h x).part p).viral = none) :
    s.admitHead p h x = s.admitTraced p h x := by
  have hdo : s.admitHead p h x = ((s.admitTraced p h x).part p).viral.elim (s.admitTraced p h x) fun v =>
      if v.active = true then (s.admitTraced p h x).abortLaunch (launchKey p x.ver) 0x89 1 else s.admitTraced p h x := by
    change (match ((s.admitTraced p h x).part p).viral with
      | some v => if v.active = true then (s.admitTraced p h x).abortLaunch (launchKey p x.ver) 0x89 1 else s.admitTraced p h x
      | none => s.admitTraced p h x) = _
    cases ((s.admitTraced p h x).part p).viral <;> rfl
  rw [hdo, hv, Option.elim_none]

theorem part_admitted {s : State} {p : Nat} {P : Part} (h : Head) (x : LHead) (hP : Tbl.get? s.parts p = some P) :
    (s.admitted p h x).part p = P.admits s.now x :=
  (part_modPart (Option.isSome_iff_exists.2 ⟨P, hP⟩) _).trans (congrArg (·.admits s.now x) (part_of_get? hP))

/-- R187, R236: a launch is admitted to a partition that is not viral. -/
theorem admitHead_does {s : State} {p : Nat} {P : Part} (h : Head) (x : LHead) (hP : Tbl.get? s.parts p = some P) (hv : P.viral = none) :
    Tbl.get? (s.admitHead p h x).launches (launchKey p x.ver) = some { head := x, edges := s.edgesOf p x } ∧
    ((s.admitHead p h x).part p).verNext = (P.verNext + 1) % 2 ^ 24 ∧ ((s.admitHead p h x).part p).lastAdmit = s.now + 8 ∧
    (s.admitHead p h x).teams = s.teams := by
  have htraced := traced_admitTraced s p h x
  have hpart := htraced.part p
  rw [part_admitted h x hP] at hpart
  rw [admitHead_calm ((congrArg Part.viral hpart).trans hv), htraced.launches, htraced.teams]
  exact ⟨Tbl.get?_put_self .., congrArg Part.verNext hpart, congrArg Part.lastAdmit hpart, rfl⟩

end Sys2Proof.Machine
end

section
/-! PROOFS. Start and placement of launches (R237, R238, R240, R277, R290): the second part of O50. -/

namespace Sys2Proof.Machine

theorem launch_of_get? {s : State} {k : Nat} {l : Launch} (h : Tbl.get? s.launches k = some l) : s.launch k = l := by
  simp [State.launch, Tbl.getD, h]
/-- A launch in another state than the one it is queued in is listed. -/
theorem get?_launch {s : State} {k : Nat} (h : (s.launch k).st ≠ .waiting) : Tbl.get? s.launches k = some (s.launch k) := by
  cases hl : Tbl.get? s.launches k with
  | none => exact absurd (by simp [State.launch, Tbl.getD, hl]) h
  | some l => rw [launch_of_get? hl]
theorem get?_modLaunch {s : State} {k : Nat} {l : Launch} (h : Tbl.get? s.launches k = some l) (f : Launch → Launch) (j : Nat) :
    Tbl.get? (s.modLaunch k f).launches j = if j = k then some (f l) else Tbl.get? s.launches j := by
  rw [State.modLaunch, Tbl.get?_modify, h, Option.map_some]
theorem get?_modLaunch_same {s : State} {k : Nat} {l : Launch} (h : Tbl.get? s.launches k = some l) (f : Launch → Launch) :
    Tbl.get? (s.modLaunch k f).launches k = some (f l) := (get?_modLaunch h f k).trans (if_pos rfl)

/-! ## Start (R237, R238) -/

theorem launchStart_idle {s : State} (h : s.mayStart s.arg.n0 = false) : Does .launchStart s s := congrArg Host.Outcome.next (if_pos (by simp [h]))
theorem launchStart_aborts {s : State} (h : s.mayStart s.arg.n0 = true) (hfit : s.bestFit s.arg.n0 true = none) :
    Does .launchStart s (s.abortLaunch s.arg.n0 0x54 1) := congrArg Host.Outcome.next ((if_neg (by simp [h])).trans (if_pos (by simp [hfit])))

/-- R237: the gangs of a launch. -/
def LHead.gangs (h : LHead) : Nat := (h.wcnt.drop 2).foldl (· * ·) 1
/-- R237: a launch that has started with a number of gangs. -/
def Launch.starts (n : Nat) (l : Launch) : Launch := { l with st := .started, gangs := n, nextGang := 0 }
/-- R237, R238: the machine with a launch started, before its record. -/
def State.startedLaunch (s : State) (k : Nat) : State := s.modLaunch k (Launch.starts (s.launch k).head.gangs)

theorem mayStart_listed {s : State} {k : Nat} (h : s.mayStart k = true) : Tbl.get? s.launches k = some (s.launch k) := by
  unfold State.mayStart at h
  cases hl : Tbl.get? s.launches k with
  | none => simp [hl] at h
  | some l => rw [launch_of_get? hl]

theorem launchStart_starts {s : State} {k : Nat} (hk : s.arg.n0 = k) (h : s.mayStart k = true) (hfit : (s.bestFit k true).isSome = true) :
    ∃ s1, Does .launchStart s s1 ∧ Tbl.get? s1.launches k = some ((s.launch k).starts (s.launch k).head.gangs) ∧
      (∀ j, j ≠ k → Tbl.get? s1.launches j = Tbl.get? s.launches j) ∧ s1.teams = s.teams := by
  subst hk
  have htraced := traced_traceLaunch (s.startedLaunch s.arg.n0) ((s.startedLaunch s.arg.n0).launch s.arg.n0).head 1 0 0
  have hlaunches (j : Nat) := get?_modLaunch (mayStart_listed h) (Launch.starts (s.launch s.arg.n0).head.gangs) j
  refine ⟨_, congrArg Host.Outcome.next ((if_neg (by simp [h])).trans (if_neg (by simpa [Option.isSome_iff_ne_none] using hfit))), ?_, fun j hj => ?_, htraced.teams⟩ <;>
    refine (congrArg (Tbl.get? · _) htraced.launches).trans ((hlaunches _).trans ?_)
  · exact if_pos rfl
  · exact if_neg hj

/-! ## Placement (R237, R240, R277, R290) -/

theorem newIndex_free {s : State} {p i : Nat} (h : s.newIndex p = some i) : Tbl.get? s.teams (teamKey p i) = none := by
  have hfree := List.find?_some h
  simp only [Bool.and_eq_true, Option.isNone_iff_eq_none] at hfree
  exact hfree.2

/-- R237: the next team of a group is made, in the lowest free number. -/
def State.placeTeam (s : State) (k gang p : Nat) (x : (Nat × Nat × Stage) × Nat × Nat × Nat) : State :=
  match s.newIndex p with
  | some i => s.newTeam k gang x.1.1 x.1.2.1 x.1.2.2 x.2 i
  | none => s

/-- Launches and memory are as they were, and so is every team that was there. -/
structure TeamsAdded (s s' : State) : Prop where
  launches : s'.launches = s.launches
  mem : s'.mem = s.mem
  teams : ∀ j t, Tbl.get? s.teams j = some t → Tbl.get? s'.teams j = some t

theorem teamsAdded_placeTeam {s : State} {k p : Nat} (hp : (s.launch k).head.part = p) (gang : Nat) (x : (Nat × Nat × Stage) × Nat × Nat × Nat) :
    TeamsAdded s (s.placeTeam k gang p x) := by
  unfold State.placeTeam
  cases hi : s.newIndex p with
  | none => exact ⟨rfl, rfl, fun _ _ h => h⟩
  | some i =>
    refine ⟨rfl, rfl, fun j t hj => ?_⟩
    have hne : j ≠ teamKey (s.launch k).head.part i := by
      rintro rfl
      rw [hp, newIndex_free hi] at hj
      cases hj
    exact (Tbl.get?_put_ne _ _ _ _ hne).trans hj

theorem teamsAdded_foldl {k p : Nat} (gang : Nat) (xs : List ((Nat × Nat × Stage) × Nat × Nat × Nat)) {s : State} (hp : (s.launch k).head.part = p) :
    TeamsAdded s (xs.foldl (fun s x => s.placeTeam k gang p x) s) := by
  induction xs generalizing s with
  | nil => exact ⟨rfl, rfl, fun _ _ h => h⟩
  | cons x r ih =>
    have hone := teamsAdded_placeTeam hp gang x
    have hrest := ih (s := s.placeTeam k gang p x) (by rw [State.launch, hone.launches]; exact hp)
    exact ⟨hrest.launches.trans hone.launches, hrest.mem.trans hone.mem, fun j t h => hrest.teams j t (hone.teams j t h)⟩

theorem mayPlace_started {s : State} {k : Nat} (h : s.mayPlace k = true) : (s.launch k).st = .started := by
  cases hst : (s.launch k).st with
  | started => rfl
  | _ => simp [State.mayPlace, hst] at h

theorem placementGroupPlaced_idle {s : State} (h : s.mayPlace s.arg.n0 = false) : Does .placementGroupPlaced s s :=
  congrArg Host.Outcome.next (if_pos (by simp [h]))

/-- R237, R240: the machine with the queues and the teams of a group of a launch. -/
def State.groupMade (s : State) (k : Nat) (f : Fit) : State :=
  ((s.launch k).head.groupTeams.zip f.teams).foldl (fun s' x => s'.placeTeam k (s.launch k).nextGang (s.launch k).head.part x) (s.newInstances k f)
/-- R237, R240: the machine with a group of a launch placed. -/
def State.groupPlaced (s : State) (k : Nat) (f : Fit) : State :=
  (s.groupMade k f).modLaunch k fun l => { l with nextGang := l.nextGang + 1, live := l.live + f.teams.length }

theorem placementGroupPlaced_places {s : State} {f : Fit} (h : s.mayPlace s.arg.n0 = true) (hf : s.bestFit s.arg.n0 false = some f) :
    Does .placementGroupPlaced s (s.groupPlaced s.arg.n0 f) := by
  refine congrArg Host.Outcome.next ((if_neg (by simp [h])).trans ?_)
  simp only [hf]
  rfl

section
variable {s : State} {k : Nat} (h : s.mayPlace k = true) (f : Fit)
include h

theorem placed_listed : Tbl.get? s.launches k = some (s.launch k) := get?_launch (by simp [mayPlace_started h])

theorem newInstances_launch : ∃ q, Tbl.get? (s.newInstances k f).launches k = some { s.launch k with qs := q } :=
  ⟨_, get?_modLaunch_same (placed_listed h) _⟩

theorem teamsAdded_groupMade : TeamsAdded (s.newInstances k f) (s.groupMade k f) := by
  obtain ⟨q, hq⟩ := newInstances_launch h f
  exact teamsAdded_foldl _ _ (by rw [launch_of_get? hq])

/-- R237: what a placed group leaves as it was, and what its launch counts. -/
theorem groupPlaced_keeps : ∃ l1, Tbl.get? (s.groupPlaced k f).launches k = some l1 ∧ l1.nextGang = (s.launch k).nextGang + 1 ∧
    l1.live = (s.launch k).live + f.teams.length ∧ l1.st = (s.launch k).st ∧ (s.groupPlaced k f).mem = s.mem ∧
    ∀ j t, Tbl.get? s.teams j = some t → Tbl.get? (s.groupPlaced k f).teams j = some t := by
  obtain ⟨q, hq⟩ := newInstances_launch h f
  have hadded := teamsAdded_groupMade h f
  exact ⟨_, get?_modLaunch_same ((congrArg (Tbl.get? · k) hadded.launches).trans hq) _, rfl, rfl, rfl, hadded.mem, hadded.teams⟩

/-- R237, R277: the team of a group of one, at its entry point. -/
theorem groupPlaced_team {a core slot stash i : Nat} {g : Stage} (hg : (s.launch k).head.groupTeams = [(a, 0, g)])
    (hf : f.teams = [(core, slot, stash)]) (hi : s.newIndex (s.launch k).head.part = some i) :
    ∃ t, Tbl.get? (s.groupPlaced k f).teams (teamKey (s.launch k).head.part i) = some t ∧ t.flow.pc = BitVec.ofNat 64 g.entry ∧
      t.flow.D = ones g.lanes ∧ t.flow.pres = ones g.lanes ∧ t.regs.lanes = g.lanes ∧ t.regs.allot = g.vregs ∧ t.regs.s = [] ∧
      t.id.slot = 16 * core + slot ∧ t.id.launch = k ∧ t.id.gang = (s.launch k).nextGang ∧ t.sync.stashBase = stash ∧ t.sync.stashLen = 64 * g.stash := by
  obtain ⟨q, hq⟩ := newInstances_launch h f
  have hindex : (s.newInstances k f).newIndex (s.launch k).head.part = some i := hi
  have hmade : s.groupMade k f = (s.newInstances k f).newTeam k (s.launch k).nextGang a 0 g (core, slot, stash) i := by
    rw [State.groupMade, hg, hf]
    simp only [List.zip_cons_cons, List.zip_nil_left, List.foldl_cons, List.foldl_nil, State.placeTeam, hindex]
  have hpart : ((s.newInstances k f).launch k).head.part = (s.launch k).head.part := by rw [launch_of_get? hq]
  rw [State.groupPlaced, modLaunch_teams, hmade, State.newTeam, ← hpart]
  exact ⟨_, Tbl.get?_put_self .., rfl, rfl, rfl, rfl, rfl, rfl, rfl, rfl, rfl, rfl, rfl⟩

end

end Sys2Proof.Machine
end

section
/-! PROOFS. The commit unit: scheduling (R210, R214, R217), the local commit (R211) and the answers to a prepare (R217, R218): the third part of O50. -/

namespace Sys2Proof.Machine

/-! ## Scheduling (R210, R214, R217) -/

theorem commitSchedule_idle {s : State} (h : s.mayCommit s.arg.n0 = false) : Does .commitSchedule s s := congrArg Host.Outcome.next (if_pos (by simp [h]))

theorem mayCommit_listed {s : State} {k : Nat} (h : s.mayCommit k = true) : Tbl.get? s.launches k = some (s.launch k) := by
  unfold State.mayCommit at h
  cases hl : Tbl.get? s.launches k with
  | none => simp [hl] at h
  | some l => rw [launch_of_get? hl]

/-- R413: the stream whose generating launch is accepted. -/
def State.acceptedFor (s : State) (l : Launch) (k : Nat) : State :=
  match l.head.ds with
  | some d => s.modStm l.head.part d.1 fun x => { x with accepted := some k }
  | none => s
/-- R210: the machine in which a launch's commit has been recorded as scheduled. -/
def State.scheduling (s : State) (k : Nat) : State := (s.acceptedFor (s.launch k) k).traceLaunch (s.launch k).head 2 0 0
/-- R217: a new epoch of a commit unit. -/
def State.nextEpoch (s : State) (src : Nat) : State :=
  { s with ports := { s.ports with epoch := Tbl.put s.ports.epoch src ((Tbl.getD s.ports.epoch src 0 + 1) % 65536) } }
/-- R217: the prepares of a commit. -/
def State.sendPrepares (s : State) (l : Launch) (k : Nat) (dies : List Nat) : State := dies.foldl (fun s d => s.sendPrepare l k d) s

theorem acceptedFor_eq (s : State) (l : Launch) (k : Nat) : ∃ pt, s.acceptedFor l k = { s with parts := pt } := by
  unfold State.acceptedFor
  split
  · exact ⟨_, rfl⟩
  · exact ⟨s.parts, rfl⟩
theorem scheduling_keeps (s : State) (k : Nat) : (s.scheduling k).now = s.now ∧ (s.scheduling k).launches = s.launches ∧
    (s.scheduling k).teams = s.teams ∧ (s.scheduling k).ports = s.ports := by
  obtain ⟨pt, hpt⟩ := acceptedFor_eq s (s.launch k) k
  have htraced := traced_traceLaunch (s.acceptedFor (s.launch k) k) (s.launch k).head 2 0 0
  rw [State.scheduling, htraced.now, htraced.launches, htraced.teams, htraced.ports, hpt]
  exact ⟨rfl, rfl, rfl, rfl⟩

/-- R217: the W9Ls of a launch that are not lost. -/
def State.diesOf (s : State) (l : Launch) : List Nat := l.dies.filter fun d => !s.goneDie d

/-- R211: a launch whose notices go out. -/
def State.notice (s : State) (k : Nat) : State := s.modLaunch k fun l => { l with st := .notified s.now [], dies := [] }
/-- R217: a launch whose prepares are out. -/
def State.prepare (s : State) (k : Nat) (dies : List Nat) : State := s.modLaunch k fun l => { l with st := .preparing s.now dies [], dies := dies }
/-- R217: the prepares of a launch, in an epoch of their own. -/
def State.preparing (s : State) (l : Launch) (k : Nat) (dies : List Nat) : State := (s.nextEpoch (commitSrc l.head.part)).sendPrepares l k dies

theorem commitSchedule_schedules {s : State} {k : Nat} (hk : s.arg.n0 = k) (h : s.mayCommit k = true) :
    Does .commitSchedule s (if s.diesOf (s.launch k) = [] then (s.scheduling k).notice k
      else ((s.scheduling k).preparing (s.launch k) k (s.diesOf (s.launch k))).prepare k (s.diesOf (s.launch k))) := by
  subst hk
  obtain ⟨pt, hpt⟩ := acceptedFor_eq s (s.launch s.arg.n0) s.arg.n0
  have hdies : (s.acceptedFor (s.launch s.arg.n0) s.arg.n0).diesOf (s.launch s.arg.n0) = s.diesOf (s.launch s.arg.n0) := by rw [hpt]; rfl
  rw [← hdies]
  exact congrArg Host.Outcome.next (if_neg (by simp [h]))

/-- R217: a prepare as it enters its port's queue. -/
def State.prepareOf (s : State) (l : Launch) (k pbr : Nat) : PoolW :=
  { id := s.fresh, src := commitSrc l.head.part, link := ((s.ports.pool.find? fun e => e.2.pbr = pbr).map fun e => e.2.link).getD 0
    epoch := Tbl.getD s.ports.epoch (commitSrc l.head.part) 0, pbr := pbr, dpa := 0, op := .prepare l.head.part l.head.ver, part := l.head.part
    launch := some k, after := l.gwctMax, commitUnit := true }
/-- R217: it is a prepare of a launch to one of some dies. -/
def IsPrepare (l : Launch) (k : Nat) (dies : List Nat) (w : PoolW) : Prop :=
  w.op = .prepare l.head.part l.head.ver ∧ w.pbr ∈ dies ∧ w.launch = some k ∧ w.commitUnit = true ∧ w.after = l.gwctMax

theorem sendPrepare_eq (s : State) (l : Launch) (k pbr : Nat) : s.sendPrepare l k pbr =
    { s with fresh := s.fresh + 1, ports := { s.ports with q := s.ports.q ++ [s.prepareOf l k pbr] } } := rfl
theorem isPrepare_prepareOf (s : State) (l : Launch) (k : Nat) {pbr : Nat} {dies : List Nat} (h : pbr ∈ dies) : IsPrepare l k dies (s.prepareOf l k pbr) :=
  ⟨rfl, h, rfl, rfl, rfl⟩

theorem sendPrepares_eq (l : Launch) (k : Nat) (dies : List Nat) (s : State) : ∃ n ws,
    s.sendPrepares l k dies = { s with fresh := n, ports := { s.ports with q := s.ports.q ++ ws } } ∧ ws.length = dies.length ∧ ∀ w ∈ ws, IsPrepare l k dies w := by
  induction dies generalizing s with
  | nil => exact ⟨s.fresh, [], by simp [State.sendPrepares], rfl, by simp⟩
  | cons d r ih =>
    obtain ⟨n, ws, hs, hlen, hws⟩ := ih (s.sendPrepare l k d)
    refine ⟨n, s.prepareOf l k d :: ws, hs.trans ?_, congrArg (· + 1) hlen, fun w hw => ?_⟩
    · rw [sendPrepare_eq]
      simp only [List.append_assoc, List.singleton_append]
    · rcases List.mem_cons.1 hw with rfl | hw
      · exact isPrepare_prepareOf s l k (List.mem_cons_self ..)
      · obtain ⟨hop, hpbr, hrest⟩ := hws w hw
        exact ⟨hop, List.mem_cons_of_mem _ hpbr, hrest⟩

/-- R210, R214, R217: what scheduling a launch's commit comes to. -/
theorem commitSchedule_does {s : State} {k : Nat} (hk : s.arg.n0 = k) (h : s.mayCommit k = true) : ∃ s1, Does .commitSchedule s s1 ∧ s1.teams = s.teams ∧
    (∀ j, j ≠ k → Tbl.get? s1.launches j = Tbl.get? s.launches j) ∧ s1.ports.q.length = s.ports.q.length + (s.diesOf (s.launch k)).length ∧
    (∀ w ∈ s1.ports.q, w ∈ s.ports.q ∨ IsPrepare (s.launch k) k (s.diesOf (s.launch k)) w) ∧
    (s.diesOf (s.launch k) = [] → Tbl.get? s1.launches k = some { s.launch k with st := .notified s.now [], dies := [] }) ∧
    (s.diesOf (s.launch k) ≠ [] → Tbl.get? s1.launches k =
      some { s.launch k with st := .preparing s.now (s.diesOf (s.launch k)) [], dies := s.diesOf (s.launch k) }) := by
  have hdo := commitSchedule_schedules hk h
  obtain ⟨hnow, hlaunches, hteams, hports⟩ := scheduling_keeps s k
  generalize hdies : s.diesOf (s.launch k) = dies at hdo ⊢
  have hlisted : Tbl.get? (s.scheduling k).launches k = some (s.launch k) := hlaunches ▸ mayCommit_listed h
  by_cases hnil : dies = []
  · rw [if_pos hnil] at hdo
    refine ⟨_, hdo, hteams, fun j hj => ?_, ?_, fun w hw => .inl (hports ▸ hw), fun _ => ?_, fun hne => absurd hnil hne⟩
    · exact (get?_modLaunch hlisted _ j).trans ((if_neg hj).trans (hlaunches ▸ rfl))
    · simp [hnil, State.notice, State.modLaunch, hports]
    · exact (get?_modLaunch_same hlisted _).trans (by rw [hnow])
  · rw [if_neg hnil] at hdo
    obtain ⟨n, ws, hs, hlen, hws⟩ := sendPrepares_eq (s.launch k) k dies ((s.scheduling k).nextEpoch (commitSrc (s.launch k).head.part))
    rw [State.preparing, hs] at hdo
    refine ⟨_, hdo, hteams, fun j hj => ?_, ?_, fun w hw => ?_, fun h0 => absurd h0 hnil, fun _ => ?_⟩
    · exact (get?_modLaunch hlisted _ j).trans ((if_neg hj).trans (hlaunches ▸ rfl))
    · simp [State.prepare, State.modLaunch, State.nextEpoch, hports, hlen]
    · have hq : w ∈ (s.scheduling k).ports.q ++ ws := hw
      rw [hports] at hq
      exact (List.mem_append.1 hq).imp_right (hws w)
    · exact (get?_modLaunch_same hlisted _).trans (by rw [← hnow]; rfl)

/-! ## The local commit (R211) -/

/-- The greatest value of a table, from one on. -/
def greatest (m : Nat) (hs : Tbl Nat) : Nat := hs.foldl (fun m x => max m x.2) m

theorem greatest_ge (m : Nat) (hs : Tbl Nat) : m ≤ greatest m hs ∧ ∀ x ∈ hs, x.2 ≤ greatest m hs := by
  induction hs generalizing m with
  | nil => exact ⟨le_refl m, by simp⟩
  | cons x r ih =>
    obtain ⟨hm, hr⟩ := ih (max m x.2)
    exact ⟨(le_max_left ..).trans hm, List.forall_mem_cons.2 ⟨(le_max_right ..).trans hm, hr⟩⟩
theorem greatest_reached (m : Nat) (hs : Tbl Nat) : greatest m hs = m ∨ ∃ x ∈ hs, greatest m hs = x.2 := by
  induction hs generalizing m with
  | nil => exact .inl rfl
  | cons x r ih =>
    rcases ih (max m x.2) with h | ⟨y, hy, h⟩
    · rcases max_choice m x.2 with hm | hm
      · exact .inl (h.trans hm)
      · exact .inr ⟨x, List.mem_cons_self .., h.trans hm⟩
    · exact .inr ⟨y, List.mem_cons_of_mem _ hy, h⟩

/-- R211: the flip time of a commit scheduled at `ts` whose homes have answered. -/
def flipTime (ts : Nat) (hs : Tbl Nat) : Nat := max (greatest 0 hs) (ts + 96) + 32

theorem flipTime_does (ts : Nat) (hs : Tbl Nat) : ts + 96 + 32 ≤ flipTime ts hs ∧ (∀ x ∈ hs, x.2 + 32 ≤ flipTime ts hs) ∧
    (flipTime ts hs = ts + 96 + 32 ∨ ∃ x ∈ hs, flipTime ts hs = x.2 + 32) := by
  obtain ⟨-, hall⟩ := greatest_ge 0 hs
  refine ⟨Nat.add_le_add_right (le_max_right ..) 32, fun x hx => Nat.add_le_add_right ((hall x hx).trans (le_max_left ..)) 32, ?_⟩
  rcases max_choice (greatest 0 hs) (ts + 96) with h | h
  · rcases greatest_reached 0 hs with hz | ⟨x, hx, hg⟩
    · have hlate := le_max_right (greatest 0 hs) (ts + 96)
      omega
    · exact .inr ⟨x, hx, by rw [flipTime, h, hg]⟩
  · exact .inl (by rw [flipTime, h])

/-- The homes that have answered a prepare, with one more. -/
def answeredBy (acked : List Nat) (p : Nat) : List Nat := if p ∈ acked then acked else acked ++ [p]
/-- R217: where a launch stands once these of its homes have answered its prepare. -/
def prepareAnswered (now since : Nat) (dies acked : List Nat) : LState :=
  if (dies.all fun d => decide (d ∈ acked)) = true then .notified now [] else .preparing since dies acked

theorem mem_answeredBy (acked : List Nat) (p d : Nat) : d ∈ answeredBy acked p ↔ d = p ∨ d ∈ acked := by
  unfold answeredBy
  split_ifs with h
  · exact ⟨.inr, fun hd => hd.elim (· ▸ h) id⟩
  · simp [or_comm]
theorem prepareAnswered_all {now since p : Nat} {dies acked : List Nat} (h : ∀ x ∈ dies, x = p ∨ x ∈ acked) :
    prepareAnswered now since dies (answeredBy acked p) = .notified now [] :=
  if_pos (List.all_eq_true.2 fun d hd => decide_eq_true ((mem_answeredBy ..).2 (h d hd)))
theorem prepareAnswered_some {now since p : Nat} {dies acked : List Nat} (hp : p ∉ acked) (h : ∃ x ∈ dies, x ≠ p ∧ x ∉ acked) :
    prepareAnswered now since dies (answeredBy acked p) = .preparing since dies (acked ++ [p]) := by
  obtain ⟨x, hx, hne, hnot⟩ := h
  refine (if_neg fun hall => ?_).trans (by rw [answeredBy, if_neg hp])
  exact ((mem_answeredBy ..).1 (of_decide_eq_true (List.all_eq_true.1 hall x hx))).elim hne hnot

section
variable {s : State} {l : Launch} (hl : Tbl.get? s.launches s.arg.n0 = some l)
include hl

section
variable {ts : Nat} {hs : Tbl Nat} (hst : l.st = .notified ts hs)
include hst

theorem commitNotice_notified : Does .commitNotice s (if s.arg.n1 < 96 ∧ (Tbl.get? hs s.arg.n1).isNone = true then
    s.modLaunch s.arg.n0 fun l => { l with st := .notified ts (Tbl.put hs s.arg.n1 (s.homeExpiry l s.arg.n1)) } else s) := by
  change execCommitNotice s = _
  simp only [execCommitNotice, hl, hst]
theorem commitReportsIn_notified : Does .commitReportsIn s (if hs.length = 96 then
    s.modLaunch s.arg.n0 fun x => { x with st := .timed ts (flipTime ts hs) hs } else s) := by
  change execCommitReportsIn s = _
  simp only [execCommitReportsIn, hl, hst]
  rfl

end

theorem commitFlip_timed {ts t : Nat} {hs : Tbl Nat} (hst : l.st = .timed ts t hs) : Does .commitFlip s (if t ≤ s.now then s.flip s.arg.n0 t else s) := by
  change execCommitFlip s = _
  simp only [execCommitFlip, hl, hst]

theorem prepareAcknowledged_preparing {since : Nat} {dies acked : List Nat} (hst : l.st = .preparing since dies acked) :
    Does .prepareAcknowledged s (if s.arg.n1 ∉ dies then s else if (!s.arg.flag) = true then s.abortLaunch s.arg.n0 0x52 1
      else s.modLaunch s.arg.n0 fun l => { l with st := prepareAnswered s.now since dies (answeredBy acked s.arg.n1) }) := by
  change execPrepareAcknowledged s = _
  simp only [execPrepareAcknowledged, hl, hst]
  rfl

end

theorem prepareTimeout_preparing {s : State} {since : Nat} {dies acked : List Nat} (hst : (s.launch s.arg.n0).st = .preparing since dies acked) :
    Does .prepareTimeout s (if since + 1050000 ≤ s.now then s.abortLaunch s.arg.n0 0x52 1 else s) := by
  change execPrepareTimeout s = _
  simp only [execPrepareTimeout, hst]
  rfl

section
variable {s : State}

/-- An event of a launch in one state leaves a launch in another as it is. -/
theorem commitNotice_ignored (h : ∀ x, Tbl.get? s.launches s.arg.n0 = some x → ∀ a b, x.st ≠ .notified a b) : Does .commitNotice s s := by
  change execCommitNotice s = _
  unfold execCommitNotice
  split
  next => rfl
  next l hl =>
    split
    next a b hst => exact absurd hst (h l hl a b)
    next => rfl
theorem commitReportsIn_ignored (h : ∀ x, Tbl.get? s.launches s.arg.n0 = some x → ∀ a b, x.st ≠ .notified a b) : Does .commitReportsIn s s := by
  change execCommitReportsIn s = _
  unfold execCommitReportsIn
  split
  next => rfl
  next l hl =>
    split
    next a b hst => exact absurd hst (h l hl a b)
    next => rfl
theorem commitFlip_ignored (h : ∀ x, Tbl.get? s.launches s.arg.n0 = some x → ∀ a b c, x.st ≠ .timed a b c) : Does .commitFlip s s := by
  change execCommitFlip s = _
  unfold execCommitFlip
  split
  next l hl =>
    split
    next a b c hst => exact absurd hst (h l hl a b c)
    next => rfl
  next => rfl
theorem prepareAcknowledged_ignored (h : ∀ x, Tbl.get? s.launches s.arg.n0 = some x → ∀ a b c, x.st ≠ .preparing a b c) : Does .prepareAcknowledged s s := by
  change execPrepareAcknowledged s = _
  unfold execPrepareAcknowledged
  dsimp only
  split
  next => rfl
  next l hl =>
    split
    next a b c hst => exact absurd hst (h l hl a b c)
    next => rfl
theorem prepareTimeout_ignored (h : ∀ a b c, (s.launch s.arg.n0).st ≠ .preparing a b c) : Does .prepareTimeout s s := by
  change execPrepareTimeout s = _
  unfold execPrepareTimeout
  split
  next a b c hst => exact absurd hst (h a b c)
  next => rfl

end

end Sys2Proof.Machine
end

section
/-! PROOFS. The flip of a launch (R206, R211, R217 step 3, R397 to R407): the fourth part of O50. -/

namespace Sys2Proof.Machine

/-! ## What telling hosts changes (R59, R60) -/

theorem foldl_keeps {α β : Type} (g : State → β) {f : State → α → State} (hf : ∀ s a, g (f s a) = g s) (l : List α) (s : State) :
    g (l.foldl f s) = g s := by
  induction l generalizing s with
  | nil => rfl
  | cons a r ih => exact (ih _).trans (hf s a)

theorem makeWay_eq (s : State) (w : Nat × Option Nat) : ∃ c, s.makeWay w = { s with clusters := c } := by
  unfold State.makeWay
  split
  · exact ⟨_, rfl⟩
  · exact ⟨s.clusters, rfl⟩
theorem touchLine_eq (s : State) (ln p cls : Nat) : ∃ c, s.touchLine ln p cls = { s with clusters := c } := by
  unfold State.touchLine
  split
  · exact ⟨_, rfl⟩
  · split
    · exact ⟨s.clusters, rfl⟩
    next w _ =>
      obtain ⟨c, hc⟩ := makeWay_eq s w
      exact ⟨_, by rw [hc]; rfl⟩
/-- R59, R60: what the hosts that hold a line are told. -/
def snpsTo (bi : BitVec 16) (ln : Nat) : List Msg := ((List.range 16).filter fun i => bi.getLsbD i).map fun i => Msg.biSnp i ln

theorem mem_snpsTo {bi : BitVec 16} {ln i : Nat} (hi : i < 16) (h : bi.getLsbD i = true) : Msg.biSnp i ln ∈ snpsTo bi ln :=
  List.mem_map.2 ⟨i, List.mem_filter.2 ⟨List.mem_range.2 hi, h⟩, rfl⟩
theorem backInvalidate_eq (s : State) (bi : BitVec 16) (ln : Nat) : ∃ c, s.backInvalidate bi ln = { s with clusters := c, outbox := s.outbox ++ snpsTo bi ln } := by
  unfold State.backInvalidate State.lookSet
  obtain ⟨c, hc⟩ := touchLine_eq s (lineNo (snoopBase ln)) 64 1
  obtain ⟨c', hc'⟩ := touchLine_eq (s.touchLine (lineNo (snoopBase ln)) 64 1) (lineNo (snoopBase ln) + 1) 64 1
  rw [hc', hc]
  exact ⟨c', rfl⟩

/-- `s'` is `s` but for what telling hosts changes: home slices, messages and the requests that wait for answers. -/
def Snooped (s s' : State) : Prop := ∃ c o w, s' = { s with clusters := c, outbox := o, ports := { s.ports with swait := w } }

theorem Snooped.refl (s : State) : Snooped s s := ⟨s.clusters, s.outbox, s.ports.swait, rfl⟩
theorem Snooped.trans {a b c : State} (h : Snooped a b) (g : Snooped b c) : Snooped a c := by
  obtain ⟨_, _, _, rfl⟩ := h
  obtain ⟨c, o, w, rfl⟩ := g
  exact ⟨c, o, w, rfl⟩
theorem snooped_snoopOut (s : State) (ln : Nat) : Snooped s (s.snoopOut ln) := by
  unfold State.snoopOut
  split
  · exact .refl s
  next x _ =>
    split
    · exact .refl s
    · obtain ⟨c, hc⟩ := backInvalidate_eq s x.bi ln
      rw [hc]
      exact ⟨_, _, _, rfl⟩
theorem snooped_foldl (lns : List Nat) (s : State) : Snooped s (lns.foldl State.snoopOut s) := by
  induction lns generalizing s with
  | nil => exact .refl s
  | cons ln r ih => exact (snooped_snoopOut s ln).trans (ih _)

/-! ## Lines and deltas become committed (R206, R211) -/

/-- R206: a line of a version becomes committed, unless it is lost. -/
def State.flipLine (s : State) (x : Nat × Shadow) : State :=
  if s.lostAt (64 * x.1) then s else s.commitLine (64 * x.1) x.2.mask x.2.data x.2.poison x.2.clean
/-- R206: a delta of a version becomes committed, unless its line is lost. -/
def State.flipDelta (s : State) (d : Nat × Delta) : State :=
  if s.lostAt d.1 then s else { s with mem := memPuts s.mem d.1 (leBytes d.2.esz (d.2.addTo (memNat s.mem d.1 d.2.esz))) }

theorem flipLines_def (s : State) (sh : Tbl Shadow) (ds : Tbl Delta) : s.flipLines sh ds =
    ds.foldl State.flipDelta (sh.foldl State.flipLine (((sh.map Prod.fst) ++ ds.map fun d => lineNo d.1).foldl State.snoopOut s)) := rfl

/-- `s'` is `s` but for committed memory and what telling hosts changes. -/
def Flipped (s s' : State) : Prop := ∃ m q c o w, s' = { s with mem := m, poison := q, clusters := c, outbox := o, ports := { s.ports with swait := w } }

theorem Flipped.trans {a b c : State} (h : Flipped a b) (g : Flipped b c) : Flipped a c := by
  obtain ⟨_, _, _, _, _, rfl⟩ := h
  obtain ⟨m, q, c, o, w, rfl⟩ := g
  exact ⟨m, q, c, o, w, rfl⟩
theorem Flipped.refl (s : State) : Flipped s s := ⟨s.mem, s.poison, s.clusters, s.outbox, s.ports.swait, rfl⟩
theorem flipped_foldl {α : Type} {f : State → α → State} (hf : ∀ s a, Flipped s (f s a)) (l : List α) (s : State) : Flipped s (l.foldl f s) := by
  induction l generalizing s with
  | nil => exact .refl s
  | cons a r ih => exact (hf s a).trans (ih _)
theorem flipped_flipLine (s : State) (x : Nat × Shadow) : Flipped s (s.flipLine x) := by
  unfold State.flipLine
  split_ifs
  · exact .refl s
  · exact ⟨_, _, s.clusters, s.outbox, s.ports.swait, rfl⟩
theorem flipped_flipDelta (s : State) (d : Nat × Delta) : Flipped s (s.flipDelta d) := by
  unfold State.flipDelta
  split_ifs
  · exact .refl s
  · exact ⟨_, s.poison, s.clusters, s.outbox, s.ports.swait, rfl⟩
theorem flipped_flipLines (s : State) (sh : Tbl Shadow) (ds : Tbl Delta) : Flipped s (s.flipLines sh ds) := by
  rw [flipLines_def]
  refine .trans (.trans ?_ (flipped_foldl flipped_flipLine _ _)) (flipped_foldl flipped_flipDelta _ _)
  obtain ⟨c, o, w, h⟩ := snooped_foldl ((sh.map Prod.fst) ++ ds.map fun d => lineNo d.1) s
  exact ⟨s.mem, s.poison, c, o, w, h⟩

theorem flipLines_line {s : State} {n : Nat} {x : Shadow} (h : s.lostAt (64 * n) = false) :
    (s.flipLines [(n, x)] []).mem = memPutLine s.mem (64 * n) x.mask x.data := by
  obtain ⟨c, o, w, hs⟩ := snooped_snoopOut s n
  have hlost : (s.snoopOut n).lostAt (64 * n) = false := by rw [hs]; exact h
  rw [flipLines_def]
  simp only [List.map_cons, List.map_nil, List.append_nil, List.foldl_cons, List.foldl_nil, State.flipLine, hlost, Bool.false_eq_true, if_false]
  rw [State.commitLine, snoopOut_mem]
theorem flipLines_delta {s : State} {pa : Nat} {d : Delta} (h : s.lostAt pa = false) :
    (s.flipLines [] [(pa, d)]).mem = memPuts s.mem pa (leBytes d.esz (d.addTo (memNat s.mem pa d.esz))) := by
  obtain ⟨c, o, w, hs⟩ := snooped_snoopOut s (lineNo pa)
  have hlost : (s.snoopOut (lineNo pa)).lostAt pa = false := by rw [hs]; exact h
  rw [flipLines_def]
  simp only [List.map_cons, List.map_nil, List.nil_append, List.foldl_cons, List.foldl_nil, State.flipDelta, hlost, Bool.false_eq_true, if_false, snoopOut_mem]

end Sys2Proof.Machine
end

section
/-! PROOFS. The flip of a launch as a whole (R206, R211, R217 step 3, R397 to R407): the fifth part of O50. -/

namespace Sys2Proof.Machine

/-! ## The pool's decoder stays as it is through a flip -/

section
variable (s : State)

theorem makeWay_pool (w : Nat × Option Nat) : (s.makeWay w).ports.pool = s.ports.pool := by
  obtain ⟨c, h⟩ := makeWay_eq s w
  rw [h]
theorem count_pool (c ev n : Nat) : (s.count c ev n).ports.pool = s.ports.pool := by
  obtain ⟨x, h, -⟩ := count_eq s c ev n
  rw [h]
theorem Snooped.pool {s s' : State} (h : Snooped s s') : s'.ports.pool = s.ports.pool := by
  obtain ⟨c, o, w, rfl⟩ := h
  rfl
theorem Flipped.pool {s s' : State} (h : Flipped s s') : s'.ports.pool = s.ports.pool := by
  obtain ⟨m, q, c, o, w, rfl⟩ := h
  rfl
theorem entryFor_pool (v : View) (ln : Nat) : (s.entryFor v ln).2.ports.pool = s.ports.pool := by
  unfold State.entryFor
  split
  · rfl
  · split
    · exact makeWay_pool s _
    · rfl
theorem shadowWrite_pool (k pa : Nat) (bs : List Byte) (pois : Bool) (tok : Nat) :
    (s.shadowWrite (.launch k) pa bs pois tok).ports.pool = s.ports.pool := by
  refine Eq.trans ?_ (entryFor_pool s (.launch k) (lineNo pa))
  change (ite _ _ _ : State).ports.pool = _
  split_ifs
  · exact (count_pool _ _ _ _).trans (count_pool _ _ _ _)
  · rfl
theorem recall_pool (k ln : Nat) : (s.recall (.launch k) ln).ports.pool = s.ports.pool := by
  unfold State.recall
  dsimp only
  split
  · rfl
  · dsimp only [State.modCluster]
    split_ifs
    · rfl
    · exact (shadowWrite_pool _ _ _ _ _ _).trans (snooped_snoopOut _ _).pool
    · split
      · rfl
      · rfl
theorem recallAll_pool (ln : Nat) : (s.recallAll ln).ports.pool = s.ports.pool :=
  foldl_keeps (fun s => s.ports.pool) (f := fun s (l : Nat × Launch) => s.recall (.launch l.1) ln) (fun s l => recall_pool s l.1 ln) s.launches s
theorem commitBytes_pool (core : Option Nat) (pa : Nat) (bs : List Byte) (pois : Bool) : (s.commitBytes core pa bs pois).2.ports.pool = s.ports.pool := by
  unfold State.commitBytes
  dsimp only
  split_ifs <;> exact (snooped_snoopOut _ _).pool.trans (recallAll_pool s _)
theorem writeWindow_pool (p i : Nat) : (s.writeWindow p i).ports.pool = s.ports.pool := by
  unfold State.writeWindow
  dsimp only
  split
  · exact commitBytes_pool ..
  · rfl
theorem flipEnt_pool (p k i : Nat) (views : Tbl KvView) : (s.flipEnt p k i views).ports.pool = s.ports.pool := by
  unfold State.flipEnt
  dsimp only [State.modKv, State.modPart]
  split <;> rfl
theorem flipStm_pool (old : Part) (p i : Nat) (v : KvView) : (s.flipStm old p i v).ports.pool = s.ports.pool := by
  unfold State.flipStm
  split
  · exact writeWindow_pool ..
  · rfl
theorem flipKv_pool (k : Nat) (l : Launch) : (s.flipKv k l).ports.pool = s.ports.pool := by
  unfold State.flipKv
  dsimp only
  have hstreams (s : State) (old : Part) (p : Nat) : (l.kv.foldl (fun s v => s.flipStm old p v.1 v.2) s).ports.pool = s.ports.pool :=
    foldl_keeps (·.ports.pool) (fun s v => flipStm_pool s old p v.1 v.2) l.kv s
  have hents (s : State) (p : Nat) (is : List Nat) : (is.foldl (fun s i => s.flipEnt p k i l.kv) s).ports.pool = s.ports.pool :=
    foldl_keeps (·.ports.pool) (fun s i => flipEnt_pool s p k i l.kv) is s
  split <;> exact (hstreams ..).trans (hents ..)
theorem flipKv_parts {k : Nat} {l : Launch} (h : l.kv = []) : ∃ pt, s.flipKv k l = { s with parts := pt } := by
  unfold State.flipKv
  simp only [h, List.flatMap_nil, List.map_nil, List.append_nil, List.dedup_nil, List.filter_nil, List.foldl_nil]
  split
  · exact ⟨_, rfl⟩
  · exact ⟨s.parts, rfl⟩

end

/-! ## The parts of a flip -/

/-- R206, R211: a launch that has taken effect at a time. -/
def Launch.flips (t : Nat) (l : Launch) : Launch := { l with st := .flipped t, shadow := [], deltas := [], kv := [] }
/-- R206: the machine in which a launch's version has become committed. -/
def State.versionCommitted (s : State) (k t : Nat) : State :=
  ((s.flipLines (s.launch k).shadow (s.launch k).deltas).flipKv k (s.launch k)).modLaunch k (Launch.flips t)
/-- R217 step 3: the W9Ls of a launch told of its commit. -/
def State.tellDies (s : State) (l : Launch) (k : Nat) (dies : List Nat) : State := dies.foldl (fun s d => s.sendCommit l k d) s
/-- R125: a flip's completion record. -/
def Launch.committedRecord (l : Launch) (t : Nat) : CRec :=
  { pid := l.head.pid, time := t, ver := l.head.ver, lid := l.head.lid, cause := 0, status := 0, stream := l.head.stream }
/-- R123, R125, R447, R625: what a flip records, once the version is committed. -/
def State.flipRecorded (s : State) (l : Launch) (t : Nat) : State :=
  (((s.finalRecord l.head.ctx (l.committedRecord t) false).kvSettle l.head.part).traceLaunch l.head 3 0 t).count l.head.ctx 56 1

theorem flip_eq (s : State) (k t : Nat) :
    s.flip k t = ((s.versionCommitted k t).tellDies (s.launch k) k ((s.versionCommitted k t).diesOf (s.launch k))).flipRecorded (s.launch k) t := rfl

theorem versionCommitted_pool (s : State) (k t : Nat) : (s.versionCommitted k t).ports.pool = s.ports.pool :=
  (flipKv_pool _ k (s.launch k)).trans (flipped_flipLines ..).pool
theorem diesOf_congr {s s' : State} (h : s'.ports.pool = s.ports.pool) (l : Launch) : s'.diesOf l = s.diesOf l := by
  unfold State.diesOf State.goneDie
  rw [h]

theorem sendCommit_outbox (s : State) (l : Launch) (k d : Nat) : (s.sendCommit l k d).outbox = s.outbox ++ [.poolCommit s.fresh d l.head.part l.head.ver] := rfl
theorem tellDies_keeps (l : Launch) (k : Nat) (dies : List Nat) (s : State) : ∀ m ∈ s.outbox, m ∈ (s.tellDies l k dies).outbox := by
  induction dies generalizing s with
  | nil => exact fun _ h => h
  | cons d r ih => exact fun m h => ih _ m (by simp [sendCommit_outbox, h])
theorem tellDies_tells {l : Launch} {k d : Nat} {dies : List Nat} (h : d ∈ dies) (s : State) :
    ∃ n, Msg.poolCommit n d l.head.part l.head.ver ∈ (s.tellDies l k dies).outbox := by
  induction dies generalizing s with
  | nil => cases h
  | cons e r ih =>
    rcases List.mem_cons.1 h with rfl | h
    · exact ⟨s.fresh, tellDies_keeps l k r _ _ (by simp [sendCommit_outbox])⟩
    · exact ih h _
theorem tellDies_mem (l : Launch) (k : Nat) (dies : List Nat) (s : State) : (s.tellDies l k dies).mem = s.mem :=
  foldl_keeps State.mem (f := fun s d => s.sendCommit l k d) (fun _ _ => rfl) dies s
theorem tellDies_ctx (l : Launch) (k c : Nat) (dies : List Nat) (s : State) : (s.tellDies l k dies).ctx c = s.ctx c :=
  foldl_keeps (·.ctx c) (f := fun s d => s.sendCommit l k d) (fun _ _ => rfl) dies s

theorem finalRecord_dbg (s : State) (c j : Nat) (r : CRec) (refused : Bool) : ((s.finalRecord c r refused).ctx j).dbg = (s.ctx j).dbg := by
  have hqueued (x : Ctx) : (if x.crecs.length < 64 ∧ x.clate = [] then { x with crecs := x.crecs ++ [r] } else { x with clate := x.clate ++ [r] }).dbg = x.dbg := by
    split_ifs <;> rfl
  rw [State.finalRecord, ctx_modCtx, apply_ite Ctx.dbg]
  exact ite_eq_right_iff.2 fun h => h ▸ hqueued _
theorem kvSettle_eq (s : State) (p : Nat) : ∃ pt, s.kvSettle p = { s with parts := pt } := by
  unfold State.kvSettle
  split
  · exact ⟨s.parts, rfl⟩
  · exact ⟨_, rfl⟩

theorem flipRecorded_outbox (s : State) (l : Launch) (t : Nat) : (s.flipRecorded l t).outbox = s.outbox := by
  obtain ⟨pt, h⟩ := kvSettle_eq (s.finalRecord l.head.ctx (l.committedRecord t) false) l.head.part
  rw [State.flipRecorded, (traced_count ..).outbox, (traced_traceLaunch ..).outbox, h]
  rfl
/-- With its launch trace off a flip records nothing in memory. -/
theorem flipRecorded_untraced {s : State} {l : Launch} (h : s.traces l.head.ctx 0 = false) (t : Nat) :
    (s.flipRecorded l t).mem = s.mem ∧ (s.flipRecorded l t).teams = s.teams ∧ (s.flipRecorded l t).launches = s.launches := by
  obtain ⟨pt, hsettled⟩ := kvSettle_eq (s.finalRecord l.head.ctx (l.committedRecord t) false) l.head.part
  have hoff : ((s.finalRecord l.head.ctx (l.committedRecord t) false).kvSettle l.head.part).traces l.head.ctx 0 = false := by
    rw [hsettled, ← h]
    exact congrArg (fun d : Dbg => bit d.trctl.toNat 0) (finalRecord_dbg ..)
  obtain ⟨x, hcount, -⟩ := count_eq ((s.finalRecord l.head.ctx (l.committedRecord t) false).kvSettle l.head.part) l.head.ctx 56 1
  rw [State.flipRecorded, State.traceLaunch, if_neg (by simp [hoff]), hcount, hsettled]
  exact ⟨rfl, rfl, rfl⟩

/-! ## What a flip comes to -/

theorem flip_tells {s : State} {k d t : Nat} (hd : d ∈ (s.launch k).dies) (hgone : s.goneDie d = false) :
    ∃ n, Msg.poolCommit n d (s.launch k).head.part (s.launch k).head.ver ∈ (s.flip k t).outbox := by
  rw [flip_eq, flipRecorded_outbox, diesOf_congr (versionCommitted_pool s k t)]
  exact tellDies_tells (List.mem_filter.2 ⟨hd, by simp [hgone]⟩) _

section
variable {s : State} {k : Nat} (hkv : (s.launch k).kv = [])
include hkv

theorem versionCommitted_eq (t : Nat) : ∃ pt, s.versionCommitted k t =
    ({ s.flipLines (s.launch k).shadow (s.launch k).deltas with parts := pt } : State).modLaunch k (Launch.flips t) := by
  obtain ⟨pt, h⟩ := flipKv_parts (s.flipLines (s.launch k).shadow (s.launch k).deltas) (k := k) hkv
  exact ⟨pt, by rw [State.versionCommitted, h]⟩

variable (hoff : s.traces (s.launch k).head.ctx 0 = false)
include hoff

theorem tellDies_untraced (t : Nat) (dies : List Nat) : ((s.versionCommitted k t).tellDies (s.launch k) k dies).traces (s.launch k).head.ctx 0 = false := by
  obtain ⟨pt, h⟩ := versionCommitted_eq hkv t
  obtain ⟨m, q, c, o, w, hf⟩ := flipped_flipLines s (s.launch k).shadow (s.launch k).deltas
  rw [State.traces, tellDies_ctx, h, hf]
  exact hoff

theorem flip_mem (t : Nat) : (s.flip k t).mem = (s.flipLines (s.launch k).shadow (s.launch k).deltas).mem := by
  obtain ⟨pt, h⟩ := versionCommitted_eq hkv t
  obtain ⟨hmem, -, -⟩ := flipRecorded_untraced (tellDies_untraced hkv hoff t ((s.versionCommitted k t).diesOf (s.launch k))) t
  rw [flip_eq, hmem, tellDies_mem, h]
  rfl
/-- A launch with nothing at other dies. -/
theorem flip_alone (hdies : (s.launch k).dies = []) (hl : Tbl.get? s.launches k = some (s.launch k)) (t : Nat) :
    (s.flip k t).teams = s.teams ∧ Tbl.get? (s.flip k t).launches k = some ((s.launch k).flips t) := by
  obtain ⟨pt, h⟩ := versionCommitted_eq hkv t
  obtain ⟨m, q, c, o, w, hf⟩ := flipped_flipLines s (s.launch k).shadow (s.launch k).deltas
  obtain ⟨-, hteams, hlaunches⟩ := flipRecorded_untraced (tellDies_untraced hkv hoff t ((s.versionCommitted k t).diesOf (s.launch k))) t
  have hnone : (s.versionCommitted k t).diesOf (s.launch k) = [] := by rw [State.diesOf, hdies, List.filter_nil]
  rw [flip_eq, hteams, hlaunches, hnone, State.tellDies, List.foldl_nil, h, hf]
  exact ⟨rfl, get?_modLaunch_same hl _⟩

end

end Sys2Proof.Machine
end

section
/-! PROOFS. The W9L's side of a commit and the outcome of a version (R55, R60, R217 to R221, R227, R310): the sixth part of O50. -/

namespace Sys2Proof.Machine

/-! ## Committed bytes depend on the bytes there were and on what is lost -/

/-- Two machines of the same committed bytes and the same lost ranges. -/
def SameBytes (a b : State) : Prop := a.mem = b.mem ∧ ∀ pa, a.lostAt pa = b.lostAt pa

theorem sameBytes_foldl {α : Type} {f : State → α → State} (hf : ∀ a b x, SameBytes a b → SameBytes (f a x) (f b x)) (l : List α) {a b : State}
    (h : SameBytes a b) : SameBytes (l.foldl f a) (l.foldl f b) := by
  induction l generalizing a b with
  | nil => exact h
  | cons x r ih => exact ih (hf a b x h)
theorem Snooped.sameBytes {s s' : State} (h : Snooped s s') : SameBytes s' s := by
  obtain ⟨c, o, w, rfl⟩ := h
  exact ⟨rfl, fun _ => rfl⟩
theorem Flipped.lostAt {s s' : State} (h : Flipped s s') (pa : Nat) : s'.lostAt pa = s.lostAt pa := by
  obtain ⟨m, q, c, o, w, rfl⟩ := h
  rfl
theorem sameBytes_flipLine (a b : State) (x : Nat × Shadow) (h : SameBytes a b) : SameBytes (a.flipLine x) (b.flipLine x) := by
  obtain ⟨hmem, hlost⟩ := h
  refine ⟨?_, fun pa => by rw [(flipped_flipLine a x).lostAt, (flipped_flipLine b x).lostAt, hlost]⟩
  unfold State.flipLine
  rw [hlost]
  split_ifs
  · exact hmem
  · exact congrArg (memPutLine · _ _ _) hmem
theorem sameBytes_flipDelta (a b : State) (d : Nat × Delta) (h : SameBytes a b) : SameBytes (a.flipDelta d) (b.flipDelta d) := by
  obtain ⟨hmem, hlost⟩ := h
  refine ⟨?_, fun pa => by rw [(flipped_flipDelta a d).lostAt, (flipped_flipDelta b d).lostAt, hlost]⟩
  unfold State.flipDelta
  rw [hlost, hmem]
  split_ifs
  · exact hmem
  · rfl
theorem sameBytes_flipLines {a b : State} (h : SameBytes a b) (sh : Tbl Shadow) (ds : Tbl Delta) : SameBytes (a.flipLines sh ds) (b.flipLines sh ds) := by
  rw [flipLines_def, flipLines_def]
  refine sameBytes_foldl sameBytes_flipDelta ds (sameBytes_foldl sameBytes_flipLine sh ?_)
  obtain ⟨hmem, hlost⟩ := h
  obtain ⟨hma, hla⟩ := (snooped_foldl ((sh.map Prod.fst) ++ ds.map fun d => lineNo d.1) a).sameBytes
  obtain ⟨hmb, hlb⟩ := (snooped_foldl ((sh.map Prod.fst) ++ ds.map fun d => lineNo d.1) b).sameBytes
  exact ⟨by rw [hma, hmem, hmb], fun pa => by rw [hla, hlost, hlb]⟩

/-! ## Messages of another die (R55, R714) -/

@[simp] theorem heard_foreign (s : State) (d l : Nat) : (s.heard d l).ports.foreign = s.ports.foreign := heard_keeps (·.ports.foreign) s d l fun _ _ => rfl
@[simp] theorem heard_teams (s : State) (d l : Nat) : (s.heard d l).teams = s.teams := heard_keeps State.teams s d l fun _ _ => rfl
@[simp] theorem heard_foreignOf (s : State) (d l d' p v : Nat) : (s.heard d l).foreignOf d' p v = s.foreignOf d' p v :=
  heard_keeps (·.foreignOf d' p v) s d l fun _ _ => rfl
@[simp] theorem heard_flipHeld (s : State) (d l d' p v : Nat) : (s.heard d l).flipHeld d' p v = s.flipHeld d' p v :=
  heard_keeps (·.flipHeld d' p v) s d l fun _ _ => rfl
@[simp] theorem heard_holdsOf (s : State) (d l d' p v : Nat) : (s.heard d l).holdsOf d' p v = s.holdsOf d' p v :=
  heard_keeps (·.holdsOf d' p v) s d l fun _ _ => rfl
theorem sameBytes_heard (s : State) (d l : Nat) : SameBytes (s.heard d l) s := ⟨heard_mem s d l, fun pa => heard_keeps (·.lostAt pa) s d l fun _ _ => rfl⟩

/-! ## Prepares (R217 step 1, R218) -/

theorem holdsOf_iff (s : State) (d p v : Nat) : s.holdsOf d p v = true ↔ ∃ f ∈ s.ports.foreign, f.is d p v = true := by
  simp [State.holdsOf, List.any_eq_true]
/-- A change to a version that is held changes all that is held of it. -/
theorem modForeign_held {s : State} {d p v : Nat} (h : s.holdsOf d p v = true) (f : Foreign → Foreign) {g : Foreign} (hg : g ∈ (s.modForeign d p v f).ports.foreign)
    (his : g.is d p v = true) : g = f (s.foreignOf d p v) := by
  have hmap : (s.modForeign d p v f).ports.foreign = s.ports.foreign.map fun g => if g.is d p v then f (s.foreignOf d p v) else g := if_pos h
  obtain ⟨x, -, hx⟩ := List.mem_map.1 (hmap ▸ hg)
  split_ifs at hx with hxis
  · exact hx.symm
  · exact absurd (hx ▸ his) hxis
/-- R217: a version whose entries are locked. -/
def Foreign.lock (f : Foreign) : Foreign := { f with locked := true }
theorem endLanded_none (s : State) (d p v : Nat) : ∀ t ∈ (s.endLanded d p v).teams,
    ¬ (t.2.id.foreign = true ∧ t.2.id.oteam / 2 ^ 20 = d ∧ t.2.id.opart = p ∧ t.2.id.lver = v) := by
  rintro t ht ⟨hforeign, hdie, hpart, hver⟩
  obtain ⟨hmem, hstays⟩ := List.mem_filter.1 ht
  refine of_decide_eq_true hstays (List.mem_map.2 ⟨t, List.mem_filter.2 ⟨hmem, ?_⟩, rfl⟩)
  simp only [hforeign, hdie, hpart, hver, decide_true, Bool.and_self]
/-- R221, R227: what ending a version leaves, and what it leaves of the version. -/
theorem endVersion_keeps (s : State) (d p v : Nat) : (s.endVersion d p v).outbox = s.outbox ∧ (s.endVersion d p v).mem = s.mem ∧
    (s.endVersion d p v).launches = s.launches ∧ (s.endVersion d p v).teams = (s.endLanded d p v).teams := ⟨rfl, rfl, rfl, rfl⟩
theorem endVersion_foreign (s : State) (d p v : Nat) : (s.endVersion d p v).ports.foreign = s.ports.foreign.filter fun f => !f.is d p v := rfl
theorem endVersion_ended (s : State) (d p v : Nat) : (d, p, v) ∈ (s.endVersion d p v).ports.ended := List.mem_append_right _ (List.mem_singleton.2 rfl)

section
variable {s : State}

/-- R55: over a link without an IDE stream the answer is that the message is unsupported. -/
theorem dieMessages_unsupported (h : (s.link s.arg.n3).carries = false) : ∀ i ∈ [Instr.poolPrepare, .poolCommitMessage, .poolAbortMessage, .outcomeQuery],
    Does i s { s with outbox := s.outbox ++ [.peerReply s.arg.n0 1 false 0 []] } := by
  have hnot : ¬ (s.link s.arg.n3).carries = true := Bool.eq_false_iff.1 h
  refine List.forall_mem_cons.2 ⟨?_, List.forall_mem_cons.2 ⟨?_, List.forall_mem_cons.2 ⟨?_, List.forall_mem_singleton.2 ?_⟩⟩⟩
  · exact congrArg Host.Outcome.next (if_neg hnot)
  · exact congrArg Host.Outcome.next (if_neg hnot)
  · exact congrArg Host.Outcome.next (if_neg hnot)
  · exact congrArg Host.Outcome.next (if_pos (by simp [h]))

variable (hc : (s.link s.arg.n3).carries = true)
include hc

theorem poolPrepare_holds (h : s.holdsOf s.arg.n0 s.arg.n1 s.arg.n2 = true) : ∃ s1, Does .poolPrepare s s1 ∧
    s1.outbox = s.outbox ++ [.peerReply s.arg.n0 0 false 0 []] ∧ s1.mem = s.mem ∧
    ∀ f ∈ s1.ports.foreign, f.is s.arg.n0 s.arg.n1 s.arg.n2 = true → f.locked = true := by
  have hheld : (s.heard s.arg.n0 s.arg.n3).holdsOf s.arg.n0 s.arg.n1 s.arg.n2 = true := by rwa [heard_holdsOf]
  exact ⟨((s.heard s.arg.n0 s.arg.n3).modForeign s.arg.n0 s.arg.n1 s.arg.n2 Foreign.lock).emit (.peerReply s.arg.n0 0 false 0 []),
    congrArg Host.Outcome.next ((if_pos hc).trans (if_pos hheld)), congrArg (· ++ _) (heard_outbox ..), heard_mem ..,
    fun f hf his => congrArg Foreign.locked (modForeign_held hheld Foreign.lock hf his)⟩
theorem poolPrepare_refuses (h : ¬ s.holdsOf s.arg.n0 s.arg.n1 s.arg.n2 = true) :
    Does .poolPrepare s ((s.heard s.arg.n0 s.arg.n3).emit (.peerReply s.arg.n0 1 false 0 [])) :=
  congrArg Host.Outcome.next ((if_pos hc).trans (if_neg (by rwa [heard_holdsOf])))

/-! ## Commits (R60, R217 step 3, R220) -/

theorem poolCommitMessage_does : Does .poolCommitMessage s ((s.heard s.arg.n0 s.arg.n3).commitFar s.arg.n0 s.arg.n1 s.arg.n2) :=
  congrArg Host.Outcome.next (if_pos hc)
theorem poolCommitMessage_flips (h : s.flipHeld s.arg.n0 s.arg.n1 s.arg.n2 = []) : ∃ s1, Does .poolCommitMessage s s1 ∧
    Msg.peerReply s.arg.n0 0 false 0 [] ∈ s1.outbox ∧
    s1.mem = (s.flipLines (s.foreignOf s.arg.n0 s.arg.n1 s.arg.n2).shadow (s.foreignOf s.arg.n0 s.arg.n1 s.arg.n2).deltas).mem ∧
    s1.ports.foreign = s.ports.foreign.filter (fun f => !f.is s.arg.n0 s.arg.n1 s.arg.n2) ∧ s1.teams = s.teams ∧ s1.launches = s.launches := by
  have hdo := poolCommitMessage_does hc
  rw [State.commitFar, heard_flipHeld, h] at hdo
  obtain ⟨hmem, -⟩ := sameBytes_flipLines (sameBytes_heard s s.arg.n0 s.arg.n3)
    (s.foreignOf s.arg.n0 s.arg.n1 s.arg.n2).shadow (s.foreignOf s.arg.n0 s.arg.n1 s.arg.n2).deltas
  obtain ⟨m, q, c, o, w, hflipped⟩ := flipped_flipLines (s.heard s.arg.n0 s.arg.n3)
    (s.foreignOf s.arg.n0 s.arg.n1 s.arg.n2).shadow (s.foreignOf s.arg.n0 s.arg.n1 s.arg.n2).deltas
  refine ⟨_, hdo, List.mem_append_right _ (List.mem_singleton.2 rfl), ?_, ?_, ?_, ?_⟩
  · exact Eq.trans (by rw [State.flipForeign, heard_foreignOf]; rfl) hmem
  · rw [State.flipForeign, heard_foreignOf, hflipped]
    exact congrArg (List.filter _) (heard_foreign ..)
  · rw [State.flipForeign, heard_foreignOf, hflipped]
    exact heard_teams ..
  · rw [State.flipForeign, heard_foreignOf, hflipped]
    exact heard_launches ..
theorem poolCommitMessage_asksHosts {ln : Nat} {r : List Nat} (h : s.flipHeld s.arg.n0 s.arg.n1 s.arg.n2 = ln :: r) : ∃ s1, Does .poolCommitMessage s s1 ∧
    s1.mem = s.mem ∧ s1.ports.foreign = s.ports.foreign ∧ ∃ w ∈ s1.ports.swait, w.line = ln ∧ w.pbr = some s.arg.n0 ∧ w.op = .commit s.arg.n1 s.arg.n2 ∧
      ∀ i, i < 16 → w.bi.getLsbD i = true → Msg.biSnp i ln ∈ s1.outbox := by
  have hdo := poolCommitMessage_does hc
  rw [State.commitFar, heard_flipHeld, h] at hdo
  dsimp only at hdo
  obtain ⟨c, hb⟩ := backInvalidate_eq (s.heard s.arg.n0 s.arg.n3) ((Tbl.get? (s.heard s.arg.n0 s.arg.n3).ports.snoop ln).elim 0 Snoop.bi) ln
  rw [hb] at hdo
  exact ⟨_, hdo, heard_mem .., heard_foreign .., _, List.mem_append_right _ (List.mem_singleton.2 rfl), rfl, rfl, rfl,
    fun i hi hbit => List.mem_append_right _ (mem_snpsTo hi hbit)⟩

/-! ## Aborts (R218, R227, R310) -/

theorem poolAbortMessage_does : ∃ s1, Does .poolAbortMessage s s1 ∧ s1.outbox = s.outbox ++ [.peerReply s.arg.n0 0 false 0 []] ∧ s1.mem = s.mem ∧
    s1.ports.foreign = s.ports.foreign.filter (fun f => !f.is s.arg.n0 s.arg.n1 s.arg.n2) ∧
    (∀ t ∈ s1.teams, ¬ (t.2.id.foreign = true ∧ t.2.id.oteam / 2 ^ 20 = s.arg.n0 ∧ t.2.id.opart = s.arg.n1 ∧ t.2.id.lver = s.arg.n2)) ∧
    (s.arg.n0, s.arg.n1, s.arg.n2) ∈ s1.ports.ended ∧ s1.launches = s.launches := by
  have hdo : Does .poolAbortMessage s (((s.heard s.arg.n0 s.arg.n3).endVersion s.arg.n0 s.arg.n1 s.arg.n2).emit (.peerReply s.arg.n0 0 false 0 [])) :=
    congrArg Host.Outcome.next (if_pos hc)
  obtain ⟨houtbox, hmem, hlaunches, hteams⟩ := endVersion_keeps (s.heard s.arg.n0 s.arg.n3) s.arg.n0 s.arg.n1 s.arg.n2
  have hforeign := endVersion_foreign (s.heard s.arg.n0 s.arg.n3) s.arg.n0 s.arg.n1 s.arg.n2
  have hended := endVersion_ended (s.heard s.arg.n0 s.arg.n3) s.arg.n0 s.arg.n1 s.arg.n2
  have hnone := endLanded_none (s.heard s.arg.n0 s.arg.n3) s.arg.n0 s.arg.n1 s.arg.n2
  rw [← hteams] at hnone
  rw [heard_outbox] at houtbox
  rw [heard_foreign] at hforeign
  rw [heard_mem] at hmem
  rw [heard_launches] at hlaunches
  generalize (s.heard s.arg.n0 s.arg.n3).endVersion s.arg.n0 s.arg.n1 s.arg.n2 = s1 at *
  exact ⟨_, hdo, congrArg (· ++ _) houtbox, hmem, hforeign, hnone, hended, hlaunches⟩

/-! ## Outcomes (R221) -/

/-- R221: a launch whose commit is decided. -/
def LState.answersCommit : LState → Bool
  | .notified _ _ | .timed _ _ _ | .flipped _ | .prepared => true
  | _ => false

theorem outcomeQuery_listed {k : Nat} {x : Launch} (h : s.launches.find? (fun l => l.2.head.part = s.arg.n1 && l.2.head.ver = s.arg.n2) = some (k, x)) :
    Does .outcomeQuery s (if x.st.answersCommit = true then s.emit (.outcome s.arg.n0 s.arg.n1 s.arg.n2 true)
      else (s.abortLaunch k 0x52 1).emit (.outcome s.arg.n0 s.arg.n1 s.arg.n2 false)) := by
  refine congrArg Host.Outcome.next ((if_neg (by simp [hc])).trans ?_)
  rw [h]
  dsimp only
  cases x.st <;> rfl
theorem outcomeQuery_unlisted (h : s.launches.find? (fun l => l.2.head.part = s.arg.n1 && l.2.head.ver = s.arg.n2) = none) :
    Does .outcomeQuery s (s.emit (.outcome s.arg.n0 s.arg.n1 s.arg.n2
      (s.ctxs.any fun c => c.2.part = some s.arg.n1 && c.2.retired.any fun r => r.ver = s.arg.n2 && r.committed))) := by
  refine congrArg Host.Outcome.next ((if_neg (by simp [hc])).trans ?_)
  rw [h]

end

end Sys2Proof.Machine
end

section
/-! PROOFS. Held host writes and completion records (R125 to R128, R138, R209, R230, R329): the seventh part of O50. -/

namespace Sys2Proof.Machine

/-! ## Held host writes (R209, R329) -/

theorem heldHostWritesSend_none {s : State} (h : s.nextHeld s.arg.n0 = none) : Does .heldHostWritesSend s s := by
  change execHeldHostWritesSend s = _
  simp only [execHeldHostWritesSend, h]

/-- R209: a held write that has been sent in a request. -/
def Held.sentAs (h : Held) (n : Nat) (x : Held) : Held := if x = h then { x with sent := true, tag := n } else x
/-- R209: the machine in which a launch's held write has been sent in a request. -/
def State.heldSent (s : State) (k : Nat) (h : Held) (n : Nat) : State := s.modLaunch k fun l => { l with held := l.held.map (h.sentAs n) }
/-- R209: the translation of a launch's held write. -/
def State.heldXlat (s : State) (k : Nat) (h : Held) : CardGo Seg :=
  s.unitXlat (s.agent (.held k h.va) (s.launch k).head.ctx none) .store (h.va + (List.range 64).findIdx fun i => h.mask.getLsbD i) 1

section
variable {s : State} {h : Held} (hn : s.nextHeld s.arg.n0 = some h)
include hn

theorem heldHostWritesSend_drops (hd : (s.part (s.launch s.arg.n0).head.part).drops s.now = true) :
    Does .heldHostWritesSend s (s.heldDone s.arg.n0 h.va false) := by
  change execHeldHostWritesSend s = _
  simp only [execHeldHostWritesSend, hn]
  exact congrArg Host.Outcome.next (if_pos hd)

variable (hd : (s.part (s.launch s.arg.n0).head.part).drops s.now = false)
include hd

theorem heldHostWritesSend_waits {w : AccWait} {s1 : State} (hu : s.heldXlat s.arg.n0 h = .wait w s1) :
    Does .heldHostWritesSend s (s1.modFetch (.held s.arg.n0 h.va) fun f => { f with wait := w }) := by
  unfold State.heldXlat at hu
  change execHeldHostWritesSend s = _
  simp only [execHeldHostWritesSend, hn, hu, hd, Bool.false_eq_true, if_false]
/-- R209: a held write whose translation fails ends with the cause 0x29. -/
theorem heldHostWritesSend_fails {s1 : State} (hu : (∃ c, s.heldXlat s.arg.n0 h = .fault c s1) ∨ ∃ y r, s.heldXlat s.arg.n0 h = .freeze y r s1) :
    Does .heldHostWritesSend s (s1.heldDone s.arg.n0 h.va true) := by
  unfold State.heldXlat at hu
  change execHeldHostWritesSend s = _
  rcases hu with ⟨c, hu⟩ | ⟨y, r, hu⟩
  · simp only [execHeldHostWritesSend, hn, hu, hd, Bool.false_eq_true, if_false]
  · simp only [execHeldHostWritesSend, hn, hu, hd, Bool.false_eq_true, if_false]

section
variable {sg : Seg} {s1 : State} (hu : s.heldXlat s.arg.n0 h = .ok sg s1)
include hu

theorem heldHostWritesSend_toHost (hh : sg.host = true) : Does .heldHostWritesSend s
    ((s1.tellHost (.held s.arg.n0 h.va) sg h.mask h.data h.pois).2.heldSent s.arg.n0 h s1.fresh) := by
  unfold State.heldXlat at hu
  change execHeldHostWritesSend s = _
  simp only [execHeldHostWritesSend, hn, hu, hd, hh, Bool.false_eq_true, if_false, if_true]
  rfl
variable (hh : sg.host = false) (hloc : s1.isLocal (lineBase sg.pa) = true)
include hh hloc

theorem heldHostWritesSend_local : Does .heldHostWritesSend s (if s1.hostHolds (lineNo (lineBase sg.pa)) = true then
    (s1.snoopOut (lineNo (lineBase sg.pa))).modFetch (.held s.arg.n0 h.va) fun f => { f with wait := .snoop }
    else ((s1.recallAll (lineNo (lineBase sg.pa))).commitLine (lineBase sg.pa) h.mask h.data h.pois (decide (h.mask = BitVec.allOnes 64))).heldDone s.arg.n0 h.va false) := by
  unfold State.heldXlat at hu
  change execHeldHostWritesSend s = _
  simp only [execHeldHostWritesSend, hn, hu, hd, hh, hloc, Bool.false_eq_true, if_false, if_true]

end

end

/-- R209, R175: a write told to the host is a request of the tag taken for it; its message leaves at once when it may. -/
theorem tellHost_does (s : State) (who : Serves) (sg : Seg) (mask : BitVec 64) (d : Line) (pois : Bool) :
    (∃ q ∈ (s.tellHost who sg mask d pois).2.xlat.reqs, q.tag = s.fresh ∧ q.for_ = who ∧ q.write = true) ∧
    (s.viaFree (hostVia sg.shared) = true →
      (s.tellHost who sg mask d pois).2.outbox = s.outbox ++ [.hostWrite s.fresh (lineBase sg.pa) mask d pois sg.shared]) ∧
    (s.tellHost who sg mask d pois).2.mem = s.mem ∧ (s.tellHost who sg mask d pois).2.teams = s.teams := by
  have hvia : s.take.2.viaFree (hostVia sg.shared) = s.viaFree (hostVia sg.shared) := rfl
  simp only [State.tellHost, State.request]
  rw [hvia]
  cases s.viaFree (hostVia sg.shared)
  · exact ⟨⟨_, List.mem_append_right _ (List.mem_singleton.2 rfl), rfl, rfl, rfl⟩, fun h => Bool.noConfusion h, rfl, rfl⟩
  · exact ⟨⟨_, List.mem_append_right _ (List.mem_singleton.2 rfl), rfl, rfl, rfl⟩, fun _ => rfl, rfl, rfl⟩

/-! ## Completion records (R125 to R128, R138) -/

theorem completionRecordWrite_none {s : State} (h : s.nextRecord s.arg.n0 = none) : Does .completionRecordWrite s s := by
  change execCompletionRecordWrite s = _
  simp only [execCompletionRecordWrite, h]

/-- R125, R126: the write of a record at the producer's slot. -/
def State.recordWrite (s : State) (c n : Nat) (r : CRec) : CardGo Nat :=
  s.unitWrite (s.agent (.crec c) c none) none (bits (s.ctx c).cbase.toNat 56 12 * 4096 + (s.ctx c).cprod % n * 16) (leBytes 16 (r.word (s.ctx c).cprod n))
/-- R126: the head record has been written. -/
def Ctx.recordWritten (x : Ctx) : Ctx := { x.shiftRec with cprod := x.cprod + 1 }
/-- R126: the head record cannot be written. -/
def Ctx.recordLost (x : Ctx) : Ctx := { x.shiftRec with cerr := true }
/-- R116: one more record of a stream. -/
def Stream.recorded (q : Stream) : Stream := { q with done := (q.done + 1) % 65536 }

section
variable {s : State} {r : CRec} (hr : s.nextRecord s.arg.n0 = some r)
include hr

theorem completionRecordWrite_disabled (hs : (s.ctx s.arg.n0).slots = none) : Does .completionRecordWrite s (s.modCtx s.arg.n0 Ctx.shiftRec) := by
  change execCompletionRecordWrite s = _
  simp only [execCompletionRecordWrite, hr, hs]

variable {n : Nat} (hs : (s.ctx s.arg.n0).slots = some n)
include hs

theorem completionRecordWrite_written {t : Nat} {s1 : State} (hw : s.recordWrite s.arg.n0 n r = .ok t s1) : Does .completionRecordWrite s
    (((s1.modCtx s.arg.n0 Ctx.recordWritten).modStream s.arg.n0 r.stream Stream.recorded).sirqFor s.arg.n0 r) := by
  unfold State.recordWrite at hw
  change execCompletionRecordWrite s = _
  simp only [execCompletionRecordWrite, hr, hs, hw]
  rfl
theorem completionRecordWrite_waits {q : AccWait} {s1 : State} (hw : s.recordWrite s.arg.n0 n r = .wait q s1) :
    Does .completionRecordWrite s (s1.modFetch (.crec s.arg.n0) fun f => { f with wait := q }) := by
  unfold State.recordWrite at hw
  change execCompletionRecordWrite s = _
  simp only [execCompletionRecordWrite, hr, hs, hw]
/-- R138: a record whose address fails is dropped. -/
theorem completionRecordWrite_drops {s1 : State} (hw : (∃ c, s.recordWrite s.arg.n0 n r = .fault c s1) ∨ ∃ y q, s.recordWrite s.arg.n0 n r = .freeze y q s1) :
    Does .completionRecordWrite s (s1.modCtx s.arg.n0 Ctx.recordLost) := by
  unfold State.recordWrite at hw
  change execCompletionRecordWrite s = _
  rcases hw with ⟨c, hw⟩ | ⟨y, q, hw⟩
  · simp only [execCompletionRecordWrite, hr, hs, hw]
    rfl
  · simp only [execCompletionRecordWrite, hr, hs, hw]
    rfl

end

theorem sendMsix_keeps (s : State) (v : Nat) : (s.sendMsix v).ctxs = s.ctxs ∧ (s.sendMsix v).mem = s.mem := by
  unfold State.sendMsix
  split_ifs
  · exact ⟨rfl, rfl⟩
  · exact ⟨rfl, rfl⟩
/-- R127: the message of a record changes no context and no byte. -/
theorem sirqFor_keeps (s : State) (c : Nat) (r : CRec) : (s.sirqFor c r).ctxs = s.ctxs ∧ (s.sirqFor c r).mem = s.mem := by
  unfold State.sirqFor
  dsimp only
  split
  · split_ifs
    · exact sendMsix_keeps ..
    · exact ⟨rfl, rfl⟩
  · exact ⟨rfl, rfl⟩
theorem shiftRec_keeps (x : Ctx) : x.shiftRec.cprod = x.cprod ∧ x.shiftRec.streams = x.streams := by
  unfold Ctx.shiftRec
  split
  · exact ⟨rfl, rfl⟩
  · exact ⟨rfl, rfl⟩
/-- R126, R116: a written record counts in the producer and in its stream, and leaves the buffer. -/
theorem recordWritten_does {s : State} {c : Nat} {y : Ctx} (hy : Tbl.get? s.ctxs c = some y) (r : CRec) :
    let s2 := ((s.modCtx c Ctx.recordWritten).modStream c r.stream Stream.recorded).sirqFor c r
    (s2.ctx c).cprod = y.cprod + 1 ∧ (s2.ctx c).crecs = y.shiftRec.crecs ∧ ((s2.ctx c).stream r.stream).done = ((y.stream r.stream).done + 1) % 65536 ∧ s2.mem = s.mem := by
  intro s2
  obtain ⟨hctxs, hmem⟩ := sirqFor_keeps ((s.modCtx c Ctx.recordWritten).modStream c r.stream Stream.recorded) c r
  have hctx : s2.ctx c = { y.recordWritten with streams := Tbl.upd y.recordWritten.streams r.stream {} Stream.recorded } := by
    refine (congrArg (Tbl.getD · c {}) hctxs).trans ?_
    change State.ctx _ c = _
    rw [State.modStream, modCtx_ctx, modCtx_ctx, ctx_of_get? hy]
  obtain ⟨-, hstreams⟩ := shiftRec_keeps y
  have hstream : y.recordWritten.stream r.stream = y.stream r.stream := congrArg (fun t => (Tbl.getD t r.stream {} : Stream)) hstreams
  rw [hctx, stream_upd, if_pos rfl, hstream]
  exact ⟨rfl, rfl, rfl, hmem⟩

end Sys2Proof.Machine
end

section
/-! PROOFS. The launch events as the statement names them: O50. -/

namespace Sys2Proof.Machine

/-! ## Admission, with the heads as they stand (R234) -/

section
variable {s : State}

theorem launchAdmission_full (h : (s.part s.arg.n0).traceFull = true) : Does .launchAdmission s s :=
  launchAdmission_does (by rw [admitStep_full h, Option.getD_none])

variable (hroom : (s.part s.arg.n0).traceFull = false)
include hroom

theorem launchAdmission_dead {h : Head} {y : Nat} {x : Ctx} (hh : (s.heads s.arg.n0).find? (fun h => h.2.2.dead.isSome) = some h)
    (hy : h.2.2.dead = some y) (hx : Tbl.get? s.ctxs h.1 = some x) (hfree : x.crecs.length < 64) (hlate : x.clate = []) :
    ∃ s1, Does .launchAdmission s s1 ∧ CtxChanged s s1 h.1 ∧ ((s1.ctx h.1).stream h.2.1).pend = (x.stream h.2.1).pend.tail ∧ (s1.ctx h.1).clate = [] ∧
      (s1.ctx h.1).crecs = x.crecs ++ [{ pid := h.2.2.id, time := s.now, ver := 0, lid := y, cause := 0x4B, status := 1, stream := h.2.1 }] :=
  ⟨_, launchAdmission_does (by rw [admitStep_dead hroom hh, hy, Option.getD_some, Option.getD_some]), refuseHead_does 0x4B y hx hfree hlate⟩

variable (hlive : ∀ h ∈ s.heads s.arg.n0, h.2.2.dead = none)
include hlive

theorem launchAdmission_reads {h : Head} (hh : (s.heads s.arg.n0).find? (fun h => h.2.2.addrOk && (s.headLine h).isNone && s.headFree h) = some h) :
    Does .launchAdmission s (s.readHead h) := launchAdmission_does (by rw [admitStep_reads hroom hlive hh, Option.getD_some])

variable (hread : ∀ h ∈ s.heads s.arg.n0, ¬ (h.2.2.addrOk && (s.headLine h).isNone && s.headFree h) = true)
include hread

theorem launchAdmission_idle (h : s.partAdmits s.arg.n0 = false ∨ s.orderedHeads (s.heads s.arg.n0) = []) : Does .launchAdmission s s := by
  refine launchAdmission_does ?_
  rw [admitStep_tries hroom hlive hread]
  rcases h with h | h
  · rw [if_pos h, Option.getD_none]
  · rw [h, State.tryHeads, ite_self, Option.getD_none]
theorem launchAdmission_tries {a : Nat × Head} {r : List (Nat × Head)} (hadm : s.partAdmits s.arg.n0 = true) (ho : s.orderedHeads (s.heads s.arg.n0) = a :: r) :
    Does .launchAdmission s ((s.tryHeads s.arg.n0 (a :: r)).getD s) :=
  launchAdmission_does (by rw [admitStep_tries hroom hlive hread, if_neg (by simp [hadm]), ho])

end

/-- R234: no head goes before the first. -/
theorem firstHead_before {s : State} {hs : List Head} {a : Nat × Head} {r : List (Nat × Head)} (h : s.orderedHeads hs = a :: r) :
    ∀ y ∈ r, headBefore y a = false := by
  obtain ⟨hfirst, -⟩ := List.pairwise_cons.1 (h ▸ headsOrdered_orderedHeads s hs)
  exact hfirst

/-- The order of the statement is the order of the heads. -/
theorem orderedHeads_of_sorted {s : State} {hs : List Head} {l : List (Nat × Head)}
    (h : hs.foldl (fun acc h => if h.2.2.addrOk = false then headInsert (0, h) acc
      else match s.headLine h with
        | some (line, bad) => headInsert (if bad = true then 0 else bits (leNat line) 13 12, h) acc
        | none => acc) [] = l) : s.orderedHeads hs = l := (foldl_orderHead s hs).symm.trans h

/-! ## What one event comes to, case by case -/

/-- R211: the reports of all 96 homes give the flip time. -/
theorem commitReportsIn_times {s : State} {l : Launch} {ts : Nat} {hs : Tbl Nat} (hl : Tbl.get? s.launches s.arg.n0 = some l) (hst : l.st = .notified ts hs)
    (hall : hs.length = 96) : ∃ s1 t, Does .commitReportsIn s s1 ∧ s1 = { s with launches := s1.launches } ∧
      Tbl.get? s1.launches s.arg.n0 = some { l with st := .timed ts t hs } ∧
      ts + 96 + 32 ≤ t ∧ (∀ x ∈ hs, x.2 + 32 ≤ t) ∧ (t = ts + 96 + 32 ∨ ∃ x ∈ hs, t = x.2 + 32) := by
  have hdo := commitReportsIn_notified hl hst
  rw [if_pos hall] at hdo
  exact ⟨_, _, hdo, rfl, get?_modLaunch_same hl _, flipTime_does ts hs⟩

section
variable {s : State} (hl : Tbl.get? s.launches s.arg.n0 = some (s.launch s.arg.n0))
include hl

theorem commitNotice_does {ts : Nat} {hs : Tbl Nat} (hst : (s.launch s.arg.n0).st = .notified ts hs) :
    (s.arg.n1 < 96 → Tbl.get? hs s.arg.n1 = none → Does .commitNotice s
      (s.modLaunch s.arg.n0 fun l => { l with st := .notified ts (Tbl.put hs s.arg.n1 (s.homeExpiry l s.arg.n1)) })) ∧
    (96 ≤ s.arg.n1 ∨ (Tbl.get? hs s.arg.n1).isSome = true → Does .commitNotice s s) := by
  have hdo := commitNotice_notified hl hst
  refine ⟨fun hp hnone => ?_, fun h => ?_⟩
  · rw [if_pos ⟨hp, by simp [hnone]⟩] at hdo
    refine hdo.trans (congrArg Host.Outcome.next ?_)
    simp only [State.modLaunch, Tbl.modify, hl]
  · have hnot : ¬ (s.arg.n1 < 96 ∧ (Tbl.get? hs s.arg.n1).isNone = true) := by
      rintro ⟨hp, hnone⟩
      rcases h with h | h
      · omega
      · simp [Option.isNone_iff_eq_none.1 hnone] at h
    rwa [if_neg hnot] at hdo
theorem prepareAcknowledged_does {since : Nat} {dies acked : List Nat} (hst : (s.launch s.arg.n0).st = .preparing since dies acked) :
    (s.arg.n1 ∉ dies → Does .prepareAcknowledged s s) ∧
    (s.arg.n1 ∈ dies → s.arg.flag = false → Does .prepareAcknowledged s (s.abortLaunch s.arg.n0 0x52 1)) ∧
    (s.arg.n1 ∈ dies → s.arg.flag = true → (∀ x ∈ dies, x = s.arg.n1 ∨ x ∈ acked) →
      Does .prepareAcknowledged s (s.modLaunch s.arg.n0 fun l => { l with st := .notified s.now [] })) ∧
    (s.arg.n1 ∈ dies → s.arg.flag = true → s.arg.n1 ∉ acked → (∃ x ∈ dies, x ≠ s.arg.n1 ∧ x ∉ acked) →
      Does .prepareAcknowledged s (s.modLaunch s.arg.n0 fun l => { l with st := .preparing since dies (acked ++ [s.arg.n1]) })) := by
  have hdo := prepareAcknowledged_preparing hl hst
  refine ⟨fun hp => ?_, fun hp hflag => ?_, fun hp hflag hall => ?_, fun hp hflag hnot hsome => ?_⟩
  · rwa [if_pos hp] at hdo
  · rwa [if_neg (not_not.2 hp), if_pos (by simp [hflag])] at hdo
  · rwa [if_neg (not_not.2 hp), if_neg (by simp [hflag]), prepareAnswered_all hall] at hdo
  · rwa [if_neg (not_not.2 hp), if_neg (by simp [hflag]), prepareAnswered_some hnot hsome] at hdo

/-- R206, R211, R217 step 3: a commit whose time has come. -/
theorem commitFlip_flips {ts t : Nat} {hs : Tbl Nat} (hst : (s.launch s.arg.n0).st = .timed ts t hs) (ht : t ≤ s.now) :
    Does .commitFlip s (s.flip s.arg.n0 t) := by
  have hdo := commitFlip_timed hl hst
  rwa [if_pos ht] at hdo

end

theorem answersCommit_cases {st : LState} (h : st = .prepared ∨ (∃ a b, st = .notified a b) ∨ (∃ a b c, st = .timed a b c) ∨ ∃ a, st = .flipped a) :
    st.answersCommit = true := by
  rcases h with rfl | ⟨_, _, rfl⟩ | ⟨_, _, _, rfl⟩ | ⟨_, rfl⟩
  · rfl
  · rfl
  · rfl
  · rfl
theorem answersAbort_cases {st : LState} (h : st = .waiting ∨ st = .started ∨ st = .done ∨ ∃ a b c, st = .preparing a b c) :
    ¬ st.answersCommit = true := by
  rcases h with rfl | rfl | rfl | ⟨_, _, _, rfl⟩
  · exact Bool.noConfusion
  · exact Bool.noConfusion
  · exact Bool.noConfusion
  · exact Bool.noConfusion

/-! ## O50 -/

/-- Settles O50: each event by the lemma about its case; the order of the heads, the flip and the held writes by the parts above. -/
theorem launchEvents : Obligations.LaunchEvents := by
  intro s
  refine ⟨launchAdmission_full, fun hroom => ⟨fun h x y hh hx hy => launchAdmission_dead hroom hh hx hy, fun hlive =>
      ⟨fun h hh => launchAdmission_reads hroom hlive hh, fun hread => ⟨fun h => ?idle, fun a r hadm hsorted => ?tries⟩⟩⟩,
    launchStart_idle, launchStart_aborts, launchStart_starts rfl, placementGroupPlaced_idle, fun f hmay hf => ?placed,
    commitSchedule_idle, commitSchedule_does rfl, fun ts hs hl hst => ?notified, fun ts t hs hl hst => ?timed, fun since dies acked hl hst => ?preparing,
    fun h => ⟨commitNotice_ignored h, commitReportsIn_ignored h⟩, commitFlip_ignored, prepareAcknowledged_ignored, prepareTimeout_ignored,
    dieMessages_unsupported, fun hc => ⟨fun h => poolPrepare_holds hc ((holdsOf_iff ..).2 h), fun h => poolPrepare_refuses hc ?unheld,
      poolCommitMessage_flips hc, fun ln r => poolCommitMessage_asksHosts hc, poolAbortMessage_does hc,
      fun lk x h => ⟨fun hst => ?commits, fun hst => ?aborts⟩, outcomeQuery_unlisted hc⟩,
    heldHostWritesSend_none, fun h hn => ⟨heldHostWritesSend_drops hn, fun hd => ?sends⟩,
    completionRecordWrite_none, fun r hr => ⟨completionRecordWrite_disabled hr, fun n hs => ?writes⟩⟩
  case idle =>
    exact launchAdmission_idle hroom hlive hread (h.imp_right orderedHeads_of_sorted)
  case tries =>
    have ho := orderedHeads_of_sorted hsorted
    have hdo := launchAdmission_tries hroom hlive hread hadm ho
    refine ⟨firstHead_before ho, fun hf => ?_, fun hf => ⟨fun ha => ?_, fun c i log s1 hj => ?_, fun s1 hj hr => ?_, fun s1 hj => ?_, fun x s1 P hj hP => ?_⟩⟩
    · rwa [tryHeads_busy hf] at hdo
    · rwa [tryHeads_refuse hf (judge_badAddr ha)] at hdo
    · rwa [tryHeads_refuse hf hj] at hdo
    · rwa [tryHeads_hold hf hj, hr] at hdo
    · rwa [tryHeads_wait hf hj] at hdo
    · rw [tryHeads_admits hf hj] at hdo
      exact ⟨fun hv => ⟨_, hdo, admitHead_does a.2 x hP hv⟩, hdo⟩
  case placed =>
    obtain ⟨l1, hl1, hgang, hlive, hst, hmem, hteams⟩ := groupPlaced_keeps hmay f
    exact ⟨_, l1, placementGroupPlaced_places hmay hf, hl1, hgang, hlive, hst, hmem, hteams,
      fun a g core slot stash i hg hfit hi => groupPlaced_team hmay f hg hfit hi⟩
  case notified =>
    obtain ⟨hnew, hold⟩ := commitNotice_does hl hst
    refine ⟨hnew, hold, fun hmany => ?_, commitReportsIn_times hl hst⟩
    have hdo := commitReportsIn_notified hl hst
    rwa [if_neg hmany] at hdo
  case timed =>
    refine ⟨fun hearly => ?_, fun ht => ⟨commitFlip_flips hl hst ht, fun d hd hgone => flip_tells hd hgone, fun pa d hkv hsh hds hlost hoff => ?_,
      fun hkv hdies hds hoff => ?_⟩⟩
    · have hdo := commitFlip_timed hl hst
      rwa [if_neg (by omega)] at hdo
    · rw [flip_mem hkv hoff, hsh, hds]
      exact flipLines_delta hlost
    · have hmem := flip_mem hkv hoff t
      rw [hds] at hmem
      obtain ⟨hteams, hflipped⟩ := flip_alone hkv hoff hdies hl t
      refine ⟨hmem, hteams, ⟨_, hflipped, rfl, rfl, rfl⟩, fun n x hsh hlost => ?_⟩
      rw [hmem, hsh]
      exact flipLines_line hlost
  case preparing =>
    obtain ⟨hother, hrefused, hall, hsome⟩ := prepareAcknowledged_does hl hst
    have hdo := prepareTimeout_preparing hst
    refine ⟨hother, hrefused, hall, hsome, fun hlate => ?_, fun hearly => ?_⟩
    · rwa [if_pos hlate] at hdo
    · rwa [if_neg (by omega)] at hdo
  case unheld =>
    rw [holdsOf_iff]
    rintro ⟨f, hf, his⟩
    exact Bool.noConfusion ((h f hf).symm.trans his)
  case commits =>
    have hdo := outcomeQuery_listed hc h
    rwa [if_pos (answersCommit_cases hst)] at hdo
  case aborts =>
    have hdo := outcomeQuery_listed hc h
    rwa [if_neg (answersAbort_cases hst)] at hdo
  case sends =>
    refine ⟨fun w s1 => heldHostWritesSend_waits hn hd, fun c s1 hu => heldHostWritesSend_fails hn hd (.inl ⟨c, hu⟩),
      fun y r s1 hu => heldHostWritesSend_fails hn hd (.inr ⟨y, r, hu⟩),
      fun sg s1 hu hh => ⟨_, heldHostWritesSend_toHost hn hd hu hh, tellHost_does s1 _ sg h.mask h.data h.pois⟩,
      fun sg s1 hu hh hloc => ?_⟩
    have hdo := heldHostWritesSend_local hn hd hu hh hloc
    refine ⟨fun hholds => ?_, fun hholds => ?_⟩
    · rwa [if_pos hholds] at hdo
    · rwa [if_neg (by simp [hholds])] at hdo
  case writes =>
    exact ⟨fun t s1 y hw hy => ⟨_, completionRecordWrite_written hr hs hw, recordWritten_does hy r⟩,
      fun q s1 hw => completionRecordWrite_waits hr hs hw, fun y q s1 hw => completionRecordWrite_drops hr hs (.inr ⟨y, q, hw⟩),
      fun c s1 hw => completionRecordWrite_drops hr hs (.inl ⟨c, hw⟩)⟩

end Sys2Proof.Machine
end

section
/-! PROOFS. Granules that change owner (R154 to R156) and invalidations (R172, R173, R179): the first part of O48. -/

namespace Sys2Proof.Machine

/-! ## Translations that are dropped (R173) -/

theorem dropped_tlbDrop (s : State) (hit : TlbEnt → Bool) : Dropped (s.tlbDrop hit) hit := by
  refine ⟨fun c e he => ?_, fun c e he => ?_⟩
  · simp only [State.tlbDrop, State.cluster, Tbl.getD, Tbl.get?_mapV] at he
    cases hc : Tbl.get? s.clusters c with
    | none => simp [hc] at he
    | some x =>
      obtain ⟨-, hmiss⟩ : e ∈ x.tlb ∧ hit e = false := by simpa [hc] using he
      exact hmiss
  · simp only [State.tlbDrop, State.core, Tbl.getD, Tbl.get?_mapV] at he
    cases hc : Tbl.get? s.cores c with
    | none => simp [hc] at he
    | some x =>
      obtain ⟨-, hmiss⟩ : e ∈ x.tlb ∧ hit e = false := by simpa [hc] using he
      exact hmiss

/-! ## A gown write (R154, R155) -/

/-- R154: the granules that a gown word names, and the owner that it names. -/
def gownGranules (n : Nat) : List Nat := (List.range (bits n 59 40 + 1)).map (bits n 19 0 + ·)
def gownOwner (n : Nat) : Nat := bits n 39 32
/-- R155: status 2 is for a word that is not this, 3 for one of granules that are held, and 5 for one beyond a partition's share. -/
def State.gownOk (s : State) (n : Nat) : Prop :=
  bits n 63 60 = 0 ∧ bits n 31 20 = 0 ∧ (gownOwner n < 64 ∨ gownOwner n = 0x40 ∨ gownOwner n = 0xFF) ∧ bits n 19 0 + (bits n 59 40 + 1) ≤ s.granules
def State.gownHeld (s : State) (n : Nat) : Prop :=
  ∃ g ∈ gownGranules n, s.inExtent g = true ∨ (gownOwner n ≠ 0xFF ∧ s.granuleOwner g ≠ 0xFF ∧ s.granuleOwner g ≠ gownOwner n)
def State.gownMoves (s : State) (n : Nat) : List Nat := (gownGranules n).filter fun g => s.granuleOwner g ≠ gownOwner n
def State.gownOver (s : State) (n : Nat) : Prop :=
  gownOwner n < 64 ∧ (s.part (gownOwner n)).cfg.quota + (s.part (gownOwner n)).cfg.shpool < s.ownedBy (gownOwner n) + (s.gownMoves n).length

def State.withGstat (s : State) (v : Nat) : State := { s with xlat := { s.xlat with gstat := v } }
/-- A translation that lies in one of some granules. -/
def inGranules (gs : List Nat) (e : TlbEnt) : Bool :=
  !e.host && gs.any fun g => decide (e.pa < g * 2 ^ 21 + 2 ^ 21 ∧ g * 2 ^ 21 < e.pa + 2 ^ (min e.lg 21))
/-- Granules leave their owner, and their translations the TLBs. -/
def State.disowned (s : State) (gs : List Nat) : State :=
  { s with xlat := { s.xlat with own := s.xlat.own.filter fun x => x.1 ∉ gs } }.tlbDrop (inGranules gs)
/-- Granules are marked busy with their change to an owner. -/
def State.markedBusy (s : State) (gs : List Nat) (own : Nat) : State :=
  { s with fresh := s.fresh + 1, xlat := { s.xlat with gbusy := gs.map fun g => (g, own + 256 * s.fresh) } }

section
variable {s : State}

theorem gownWrite_busy (h : s.xlat.gbusy ≠ []) : Does .gownWrite s s := congrArg Host.Outcome.next (if_pos h)

theorem gownMalformed_iff {n : Nat} : (bits n 63 60 ≠ 0 || bits n 31 20 ≠ 0 || !(bits n 39 32 < 64 || bits n 39 32 = 0x40 || bits n 39 32 = 0xFF) ||
    decide (s.granules < bits n 19 0 + (bits n 59 40 + 1))) = true ↔ ¬ s.gownOk n := by
  simp only [State.gownOk, gownOwner, Bool.or_eq_true, Bool.not_eq_true', Bool.or_eq_false_iff, decide_eq_true_eq, decide_eq_false_iff_not]
  omega
theorem gownHeld_iff {n : Nat} : ((gownGranules n).any fun g =>
    s.inExtent g || (gownOwner n ≠ 0xFF && s.granuleOwner g ≠ 0xFF && s.granuleOwner g ≠ gownOwner n)) = true ↔ s.gownHeld n := by
  simp [State.gownHeld, and_assoc]
theorem gownOver_iff {n : Nat} : (gownOwner n < 64 && decide ((s.part (gownOwner n)).cfg.quota + (s.part (gownOwner n)).cfg.shpool <
    s.ownedBy (gownOwner n) + (s.gownMoves n).length)) = true ↔ s.gownOver n := by
  simp [State.gownOver]

variable (hidle : s.xlat.gbusy = [])
include hidle

theorem gownWrite_malformed (hok : ¬ s.gownOk s.arg.v.toNat) : Does .gownWrite s (s.withGstat 2) :=
  congrArg Host.Outcome.next ((if_neg (not_not.2 hidle)).trans (if_pos (gownMalformed_iff.2 hok)))

variable (hok : s.gownOk s.arg.v.toNat)
include hok

theorem gownWrite_held (hheld : s.gownHeld s.arg.v.toNat) : Does .gownWrite s (s.withGstat 3) :=
  congrArg Host.Outcome.next ((if_neg (not_not.2 hidle)).trans ((if_neg (gownMalformed_iff.not_left.2 hok)).trans (if_pos (gownHeld_iff.2 hheld))))

variable (hfree : ¬ s.gownHeld s.arg.v.toNat)
include hfree

theorem gownWrite_over (hover : s.gownOver s.arg.v.toNat) : Does .gownWrite s (s.withGstat 5) :=
  congrArg Host.Outcome.next ((if_neg (not_not.2 hidle)).trans ((if_neg (gownMalformed_iff.not_left.2 hok)).trans
    ((if_neg (gownHeld_iff.not.2 hfree)).trans (if_pos (gownOver_iff.2 hover)))))

variable (hshare : ¬ s.gownOver s.arg.v.toNat)
include hshare

/-- R155, R156: the change begins. -/
theorem gownWrite_begins : Does .gownWrite s ((if gownOwner s.arg.v.toNat = 0xFF then (s.withGstat 0).disowned (s.gownMoves s.arg.v.toNat)
    else s.withGstat 0).markedBusy (s.gownMoves s.arg.v.toNat) (gownOwner s.arg.v.toNat)) :=
  congrArg Host.Outcome.next ((if_neg (not_not.2 hidle)).trans ((if_neg (gownMalformed_iff.not_left.2 hok)).trans
    ((if_neg (gownHeld_iff.not.2 hfree)).trans (if_neg (gownOver_iff.not.2 hshare)))))

theorem gownWrite_owner (h : gownOwner s.arg.v.toNat ≠ 0xFF) :
    Does .gownWrite s ((s.withGstat 0).markedBusy (s.gownMoves s.arg.v.toNat) (gownOwner s.arg.v.toNat)) := by
  simpa only [if_neg h] using gownWrite_begins hidle hok hfree hshare

theorem gownWrite_nobody (h : gownOwner s.arg.v.toNat = 0xFF) :
    Does .gownWrite s (((s.withGstat 0).disowned (s.gownMoves s.arg.v.toNat)).markedBusy (s.gownMoves s.arg.v.toNat) 0xFF) := by
  have hdo := gownWrite_begins hidle hok hfree hshare
  rwa [if_pos h, h] at hdo

end

theorem get?_disowned {s : State} {gs : List Nat} {g : Nat} (hg : g ∈ gs) : Tbl.get? (s.disowned gs).xlat.own g = none :=
  (get?_filter_key (fun k => decide (k ∉ gs)) s.xlat.own g).trans (if_neg (by simpa using hg))

/-! ## A scrub (R156) -/

theorem memGet_scrubbed (s : State) (g y : Nat) :
    memGet (s.scrub (g * 2 ^ 21) (2 ^ 21)).mem y = if y / 2 ^ 21 = g then 0 else memGet s.mem y := by
  obtain ⟨hin, hout⟩ := zeroed_zeroRange s (g * 2 ^ 21) (2 ^ 21)
  split_ifs with h
  · exact hin y (by omega) (by omega)
  · exact hout y (by omega)

theorem poisoned_scrubbed (s : State) (g y : Nat) :
    (s.scrub (g * 2 ^ 21) (2 ^ 21)).poisoned y = if y / 2 ^ 21 = g then false else s.poisoned y := by
  simp only [State.poisoned, State.scrub, Tbl.getD, lineNo]
  rw [get?_filter_key fun k => !decide (g * 2 ^ 21 ≤ 64 * k ∧ 64 * k < g * 2 ^ 21 + 2 ^ 21)]
  have hin : (g * 2 ^ 21 ≤ 64 * (y / 64) ∧ 64 * (y / 64) < g * 2 ^ 21 + 2 ^ 21) ↔ y / 2 ^ 21 = g := by omega
  simp only [hin]
  split_ifs <;> simp_all

/-- The granules of a change, scrubbed one after another. -/
def State.scrubAll (s : State) (gs : List (Nat × Nat)) : State := gs.foldl (fun s g => s.scrub (g.1 * 2 ^ 21) (2 ^ 21)) s

theorem memGet_scrubAll (gs : List (Nat × Nat)) (s : State) (y : Nat) :
    memGet (s.scrubAll gs).mem y = if ∃ g ∈ gs, y / 2 ^ 21 = g.1 then 0 else memGet s.mem y := by
  induction gs generalizing s with
  | nil => simp [State.scrubAll]
  | cons g r ih =>
    rw [State.scrubAll, List.foldl_cons, ← State.scrubAll, ih, memGet_scrubbed]
    simp only [List.exists_mem_cons_iff]
    split_ifs <;> simp_all

theorem poisoned_scrubAll (gs : List (Nat × Nat)) (s : State) (y : Nat) :
    (s.scrubAll gs).poisoned y = if ∃ g ∈ gs, y / 2 ^ 21 = g.1 then false else s.poisoned y := by
  induction gs generalizing s with
  | nil => simp [State.scrubAll]
  | cons g r ih =>
    rw [State.scrubAll, List.foldl_cons, ← State.scrubAll, ih, poisoned_scrubbed]
    simp only [List.exists_mem_cons_iff]
    split_ifs <;> simp_all

/-- A scrub changes memory and poison alone. -/
theorem scrubAll_keeps (gs : List (Nat × Nat)) (s : State) :
    s.scrubAll gs = { s with mem := (s.scrubAll gs).mem, poison := (s.scrubAll gs).poison } := by
  induction gs generalizing s with
  | nil => rfl
  | cons g r ih => exact ih (s.scrub (g.1 * 2 ^ 21) (2 ^ 21))

/-- R156: the owners after the granules of a change have passed. -/
def ownersAfter (own : Tbl Nat) (gs : List (Nat × Nat)) : Tbl Nat :=
  gs.foldl (fun o g => if g.2 % 256 = 0xFF then Tbl.del o g.1 else Tbl.put o g.1 (g.2 % 256)) own

theorem get?_ownersAfter_one (own : Tbl Nat) (g v : Nat) :
    Tbl.get? (ownersAfter own [(g, v)]) g = if v % 256 = 0xFF then none else some (v % 256) := by
  simp only [ownersAfter, List.foldl_cons, List.foldl_nil]
  split_ifs <;> simp

/-- R156: the granules of the change have been scrubbed and have changed owner. -/
def State.granulesPassed (s : State) : State :=
  { s.scrubAll s.xlat.gbusy with
    xlat := { (s.scrubAll s.xlat.gbusy).xlat with own := ownersAfter (s.scrubAll s.xlat.gbusy).xlat.own s.xlat.gbusy, gbusy := [] } }

theorem granuleScrubDone_early {s : State} (h : s.mayScrub = false) : Does .granuleScrubDone s s :=
  congrArg Host.Outcome.next (if_neg (by simp [h]))

theorem granuleScrubDone_passes {s : State} (h : s.mayScrub = true) : Does .granuleScrubDone s s.granulesPassed :=
  congrArg Host.Outcome.next (if_pos h)

theorem granulesPassed_does (s : State) :
    (∀ g ∈ s.xlat.gbusy, ∀ y, g.1 * 2 ^ 21 ≤ y → y < g.1 * 2 ^ 21 + 2 ^ 21 →
      memGet s.granulesPassed.mem y = 0 ∧ s.granulesPassed.poisoned y = false) ∧
    (∀ y, (∀ g ∈ s.xlat.gbusy, y / 2 ^ 21 ≠ g.1) → memGet s.granulesPassed.mem y = memGet s.mem y) := by
  refine ⟨fun g hg y hlo hhi => ?_, fun y hy => (memGet_scrubAll ..).trans (if_neg fun ⟨g, hg, hin⟩ => hy g hg hin)⟩
  have hin : ∃ g ∈ s.xlat.gbusy, y / 2 ^ 21 = g.1 := ⟨g, hg, by omega⟩
  exact ⟨(memGet_scrubAll ..).trans (if_pos hin), (poisoned_scrubAll ..).trans (if_pos hin)⟩

/-! ## Invalidations (R172, R173, R179) -/

def State.withInval (s : State) (i : Inval) : State := { s with fresh := s.fresh + 1, xlat := { s.xlat with invs := s.xlat.invs ++ [i] } }
/-- R173, R179: what an invalidation drops everywhere at its ta. -/
def State.invDropped (s : State) (i : Inval) : State :=
  let s := s.tlbDrop (s.invHits i)
  let s := if i.ctab then s.modCtx i.ctx fun x => { x with ctab := some (s.ctabRead i.ctx) } else s
  if i.ats then s else s.dropFetched i.ctx
/-- An invalidation has reached its ta. -/
def State.invReached (s : State) (i : Inval) : State :=
  { s.invDropped i with
    fresh := (s.invDropped i).fresh + 1
    xlat := { (s.invDropped i).xlat with invs := (s.invDropped i).xlat.invs.map fun (x : Inval) =>
      if x.id = i.id then ({ x with phase := 2, ta := (s.invDropped i).now, stamp := (s.invDropped i).fresh } : Inval) else x } }

theorem invDropped_keeps (s : State) (i : Inval) :
    (s.invDropped i).clusters = (s.tlbDrop (s.invHits i)).clusters ∧ (s.invDropped i).cores = (s.tlbDrop (s.invHits i)).cores ∧
      (s.invDropped i).xlat.invs = s.xlat.invs ∧ (s.invDropped i).now = s.now ∧ (s.invDropped i).fresh = s.fresh ∧
      (s.invDropped i).mem = s.mem ∧ (s.invDropped i).teams = s.teams := by
  unfold State.invDropped
  split_ifs <;> exact ⟨rfl, rfl, rfl, rfl, rfl, rfl, rfl⟩

theorem dropped_of_eq {s1 s2 : State} {hit : TlbEnt → Bool} (hclusters : s1.clusters = s2.clusters) (hcores : s1.cores = s2.cores)
    (h : Dropped s2 hit) : Dropped s1 hit := by
  unfold Dropped State.cluster State.core at *
  rwa [hclusters, hcores]

theorem invReached_does {s : State} {i : Inval} (hi : i ∈ s.xlat.invs) : Dropped (s.invReached i) (s.invHits i) ∧
    (∃ j ∈ (s.invReached i).xlat.invs, j = { i with phase := 2, ta := s.now, stamp := s.fresh }) ∧
    (s.invReached i).mem = s.mem ∧ (s.invReached i).teams = s.teams := by
  obtain ⟨hclusters, hcores, hinvs, hnow, hfresh, hmem, hteams⟩ := invDropped_keeps s i
  refine ⟨dropped_of_eq hclusters hcores (dropped_tlbDrop s _), ⟨_, List.mem_map.2 ⟨i, hinvs ▸ hi, rfl⟩, ?_⟩, hmem, hteams⟩
  rw [if_pos rfl, hnow, hfresh]

section
variable {s : State}

theorem tictlWrite_ignored (h : ∃ i ∈ s.xlat.invs, i.ats = false) : Does .tictlWrite s s :=
  congrArg Host.Outcome.next (if_pos (by simpa using h))
theorem tictlWrite_queues (h : ∀ i ∈ s.xlat.invs, i.ats = true) : Does .tictlWrite s (s.withInval {
    id := s.fresh, ats := false, ctx := bits s.arg.v.toNat 9 0, va := bits s.xlat.tiva.toNat 56 12 * 4096
    lg := max 12 (min 57 (bits s.xlat.tiva.toNat 5 0)), ta := s.now + 32, ctab := bit s.arg.v.toNat 10 }) :=
  congrArg Host.Outcome.next (if_neg (by simpa using h))

theorem atsInvalidationRequest_full (h : 32 ≤ (s.xlat.invs.filter fun i => i.ats).length) : Does .atsInvalidationRequest s s :=
  congrArg Host.Outcome.next (if_pos h)
theorem atsInvalidationRequest_queues (h : (s.xlat.invs.filter fun i => i.ats).length < 32) : Does .atsInvalidationRequest s (s.withInval {
    id := s.fresh, ats := true, ctx := s.arg.n0, va := s.arg.n1, lg := max 12 (min 57 s.arg.n2), ta := s.now + 32 }) :=
  congrArg Host.Outcome.next (if_neg (Nat.not_le.2 h))

theorem invalidationTa_none (h : s.xlat.invs.find? (fun i => i.id = s.arg.n0 && i.phase = 1) = none) : Does .invalidationTa s s := by
  change execInvalidationTa s = _
  simp only [execInvalidationTa, h]
theorem invalidationTa_reached {i : Inval} (h : s.xlat.invs.find? (fun i => i.id = s.arg.n0 && i.phase = 1) = some i) :
    Does .invalidationTa s (s.invReached i) := by
  change execInvalidationTa s = _
  simp only [execInvalidationTa, h]
  rfl

theorem invalidationDrained_none (h : s.xlat.invs.find? (fun i => i.id = s.arg.n0 && !i.ats) = none) : Does .invalidationDrained s s := by
  change execInvalidationDrained s = _
  simp only [execInvalidationDrained, h]
theorem invalidationDrained_some {i : Inval} (h : s.xlat.invs.find? (fun i => i.id = s.arg.n0 && !i.ats) = some i) :
    Does .invalidationDrained s (if s.drained i = true then
      { s with xlat := { s.xlat with invs := s.xlat.invs.filter (fun y => y.id ≠ i.id), tidone := (s.xlat.tidone + 1) % 2 ^ 32 } } else s) := by
  change execInvalidationDrained s = _
  simp only [execInvalidationDrained, h]

theorem atsInvalidationCompletion_none (h : s.xlat.invs.find? (fun i => i.id = s.arg.n0 && i.ats) = none) :
    Does .atsInvalidationCompletion s s := by
  change execAtsInvalidationCompletion s = _
  simp only [execAtsInvalidationCompletion, h]
theorem atsInvalidationCompletion_some {i : Inval} (h : s.xlat.invs.find? (fun i => i.id = s.arg.n0 && i.ats) = some i) :
    Does .atsInvalidationCompletion s (if s.drained i = true then
      { s with xlat := { s.xlat with invs := s.xlat.invs.filter fun y => y.id ≠ i.id }, outbox := s.outbox ++ [.atsInvDone i.id] } else s) := by
  change execAtsInvalidationCompletion s = _
  simp only [execAtsInvalidationCompletion, h, State.emit]

end

end Sys2Proof.Machine
end

section
/-! PROOFS. Walks (R170), host translations (R175, R176) and page requests (R178): the second part of O48. -/

namespace Sys2Proof.Machine

section
variable {s : State}

/-! ## Walks (R170) -/

theorem walkComplete_none (h : s.xlat.walks.find? (fun w => w.id = s.arg.n0) = none) : Does .walkComplete s s := by
  change execWalkComplete s = _
  simp only [execWalkComplete, h]
theorem walkComplete_some {w : Walk} (h : s.xlat.walks.find? (fun w => w.id = s.arg.n0) = some w) :
    Does .walkComplete s (if s.mayWalk w = true then s.walkDone w else s) := by
  change execWalkComplete s = _
  simp only [execWalkComplete, h]

/-! ## Host translations (R175, R176) -/

/-- R131, R711: units that send no page requests find their page absent. -/
def State.unitsAbsent (s : State) (tag : Nat) : State :=
  (s.unitsWaiting fun x => x = .ats tag).foldl (fun s x => match x with
    | .seq _ _ | .aperture _ _ => s.modFetch x fun y => { y with wait := .ready, bad := some { cause := 0x21 } }
    | _ => s) s
/-- R176: what waited for an absent page waits for its page request. -/
def State.askPages (s : State) (tag c pg : Nat) : State :=
  s.waitFor (fun x => x = .ats tag) fun s w => (.pri (s.joinPri c (pg * 4096) w).1, (s.joinPri c (pg * 4096) w).2)
/-- R175, R176: what the host's answer to a translation request does. -/
def State.hostAnswers (s : State) (tag c pg : Nat) : AtsRes → State
  | .present hpa lg r w sh => (s.dropReq tag).fillAll (fun x => x = .ats tag) (pg * 4096) (hostEntry c (pg * 4096) hpa lg r w sh)
  | .error => (s.dropReq tag).failAll (fun x => x = .ats tag) 0x2E none
  | .notPresent =>
    if ((s.dropReq tag).unitsAbsent tag).pasidDead c = true then ((s.dropReq tag).unitsAbsent tag).failAll (fun x => x = .ats tag) 0x2B none
    else ((s.dropReq tag).unitsAbsent tag).askPages tag c pg

@[simp] theorem dropReq_arg (tag : Nat) : (s.dropReq tag).arg = s.arg := rfl

theorem atsTranslationCompletion_none (h : s.xlat.reqs.find? (fun r => r.tag = s.arg.n0) = none) : Does .atsTranslationCompletion s s := by
  change execAtsTranslationCompletion s = _
  simp only [execAtsTranslationCompletion, h]
theorem atsTranslationCompletion_other {r : Req} (h : s.xlat.reqs.find? (fun r => r.tag = s.arg.n0) = some r) (hfor : ∀ c, r.for_ ≠ .ats c) :
    Does .atsTranslationCompletion s s := by
  change execAtsTranslationCompletion s = _
  simp only [execAtsTranslationCompletion, h]
  split
  next hr => cases hr; exact absurd rfl (hfor _)
  next => rfl
theorem atsTranslationCompletion_answers {r : Req} {c : Nat} (h : s.xlat.reqs.find? (fun r => r.tag = s.arg.n0) = some r) (hfor : r.for_ = .ats c) :
    Does .atsTranslationCompletion s (s.hostAnswers r.tag c r.addr s.arg.ats) := by
  change execAtsTranslationCompletion s = _
  obtain ⟨tag, _, addr⟩ := r
  cases hfor
  simp only [execAtsTranslationCompletion, h, dropReq_arg]
  rfl

/-! ## Page requests (R178) -/

theorem prgResponse_none (h : s.xlat.pris.find? (fun r => r.id = s.arg.n0 && r.sent) = none) : Does .prgResponse s s := by
  change execPrgResponse s = _
  simp only [execPrgResponse, h]

variable {g : Pri} (h : s.xlat.pris.find? (fun r => r.id = s.arg.n0 && r.sent) = some g)
include h

theorem prgResponse_success (hp : s.arg.prg = .success) : Does .prgResponse s ((s.goOn fun y => y = .pri g.id).endPri g.id) := by
  change execPrgResponse s = _
  simp only [execPrgResponse, h, hp]
theorem prgResponse_invalid (hp : s.arg.prg = .invalid) : Does .prgResponse s ((s.failAll (fun y => y = .pri g.id) 0x2A none).endPri g.id) := by
  change execPrgResponse s = _
  simp only [execPrgResponse, h, hp]
theorem prgResponse_failure (hp : s.arg.prg = .failure) :
    Does .prgResponse s ((((s.modCtx g.ctx fun y => { y with priDead := true }).failUnsent).endPri g.id).ctxFatal g.ctx 0x2B) := by
  change execPrgResponse s = _
  simp only [execPrgResponse, h, hp]

end

end Sys2Proof.Machine
end

section
/-! PROOFS. Tier moves (R180 to R186, R399): the third part of O48. -/

namespace Sys2Proof.Machine

/-! ## The decision on a move (R181) -/

section
variable {s : State} {m : Move}

theorem decideMove_host (h : s.walk m.fetched (((s.ctx m.ctx).part).getD 0) m.ctx m.va = .host) : s.decideMove m = s.moveRefused m.id 0x2D := by
  simp only [State.decideMove, h]
theorem decideMove_fault {c lv e : Nat} (h : s.walk m.fetched (((s.ctx m.ctx).part).getD 0) m.ctx m.va = .fault c lv e) :
    s.decideMove m = s.moveRefused m.id (if c = 0x28 then 0x2D else 0x21) := by
  simp only [State.decideMove, h]
theorem decideMove_violation {pa : Nat} (h : s.walk m.fetched (((s.ctx m.ctx).part).getD 0) m.ctx m.va = .violation pa) :
    s.decideMove m = s.moveRefused m.id 0x21 := by
  simp only [State.decideMove, h]
theorem decideMove_need {pa : Nat} (h : s.walk m.fetched (((s.ctx m.ctx).part).getD 0) m.ctx m.va = .need pa) :
    s.decideMove m = s.askTable (((s.ctx m.ctx).part).getD 0) m.id pa fun s v => s.modMove m.id fun m => { m with fetched := Tbl.put m.fetched pa v } := by
  simp only [State.decideMove, h]

/-- R181: the leaves of a page that is to move: its own and the replicas. -/
def State.movedLeaves (s : State) (m : Move) (e : TlbEnt) : List Nat :=
  let at_ := (s.leafAt m.fetched m.va 5 (ctabRoot (s.ctabOf m.ctx))).getD (0, 1)
  replicas at_.1 at_.2 e.lg
/-- R181: a move that is accepted waits for its ta. -/
def State.moveAccepted (s : State) (m : Move) (e : TlbEnt) : State :=
  s.modMove m.id fun y => { y with phase := 1, va := e.va, lg := e.lg, old := e.pa, leaves := s.movedLeaves m e, ta := s.now + 32, ent := some e }

variable {e : TlbEnt} (h : s.walk m.fetched (((s.ctx m.ctx).part).getD 0) m.ctx m.va = .leaf e)
include h

/-- R181: the refusals of a mapped page, in their order (log 211). -/
theorem decideMove_leaf : s.decideMove m =
    if s.ownsEnt (((s.ctx m.ctx).part).getD 0) e = false then s.moveRefused m.id 0x21
    else if 21 < e.lg then s.moveRefused m.id 0x2C
    else if s.sharedPage e.pa = true then s.moveRefused m.id 0x2D
    else if m.new % 2 ^ e.lg ≠ 0 ∨ s.unmapped m.new = true then s.moveRefused m.id 0x27
    else if s.ownsPage (((s.ctx m.ctx).part).getD 0) m.new (max 21 e.lg) = false then s.moveRefused m.id 0x90
    else s.moveAccepted m e := by
  simp only [State.decideMove, h, Bool.not_eq_true', gt_iff_lt]
  rfl

theorem decideMove_unowned (ho : s.ownsEnt (((s.ctx m.ctx).part).getD 0) e = false) : s.decideMove m = s.moveRefused m.id 0x21 :=
  (decideMove_leaf h).trans (if_pos ho)

variable (ho : s.ownsEnt (((s.ctx m.ctx).part).getD 0) e = true)
include ho

theorem decideMove_large (hl : 21 < e.lg) : s.decideMove m = s.moveRefused m.id 0x2C := by
  rw [decideMove_leaf h, if_neg (by simp [ho]), if_pos hl]

variable (hl : e.lg ≤ 21)
include hl

theorem decideMove_shared (hs : s.sharedPage e.pa = true) : s.decideMove m = s.moveRefused m.id 0x2D := by
  rw [decideMove_leaf h, if_neg (by simp [ho]), if_neg (Nat.not_lt.2 hl), if_pos hs]

variable (hs : s.sharedPage e.pa = false)
include hs

theorem decideMove_misplaced (hn : m.new % 2 ^ e.lg ≠ 0 ∨ s.unmapped m.new = true) : s.decideMove m = s.moveRefused m.id 0x27 := by
  rw [decideMove_leaf h, if_neg (by simp [ho]), if_neg (Nat.not_lt.2 hl), if_neg (by simp [hs]), if_pos hn]

variable (hn : ¬ (m.new % 2 ^ e.lg ≠ 0 ∨ s.unmapped m.new = true))
include hn

theorem decideMove_foreign (hd : s.ownsPage (((s.ctx m.ctx).part).getD 0) m.new (max 21 e.lg) = false) :
    s.decideMove m = s.moveRefused m.id 0x90 := by
  rw [decideMove_leaf h, if_neg (by simp [ho]), if_neg (Nat.not_lt.2 hl), if_neg (by simp [hs]), if_neg hn, if_pos hd]
theorem decideMove_accepted (hd : s.ownsPage (((s.ctx m.ctx).part).getD 0) m.new (max 21 e.lg) = true) :
    s.decideMove m = s.moveAccepted m e := by
  rw [decideMove_leaf h, if_neg (by simp [ho]), if_neg (Nat.not_lt.2 hl), if_neg (by simp [hs]), if_neg hn, if_neg (by simp [hd])]

end

section
variable {s : State}

/-- R180: the move that a write of `tmvd` asks for. -/
def State.askedMove (s : State) : Move :=
  { id := s.fresh, pf := true, ctx := bits s.arg.v.toNat 61 52, va := bits s.xlat.tmva.toNat 56 12 * 4096, lg := 12, old := 0
    new := bits s.arg.v.toNat 51 12 * 4096, phase := 0 }
def State.withMove (s : State) (m : Move) : State := { s with fresh := s.fresh + 1, xlat := { s.xlat with moves := s.xlat.moves ++ [m], tmcause := 0 } }

theorem tmvdWrite_ignored (h : ∃ m ∈ s.xlat.moves, m.kv = none) : Does .tmvdWrite s s :=
  congrArg Host.Outcome.next (if_pos (by simpa using h))
theorem tmvdWrite_decides (h : ∀ m ∈ s.xlat.moves, m.kv ≠ none) {s' : State} (hd : (s.withMove s.askedMove).decideMove s.askedMove = s') :
    Does .tmvdWrite s s' := by
  rw [← hd]
  exact congrArg Host.Outcome.next (if_neg (by simpa using h))

/-! ## A move takes effect (R183 step 1) -/

/-- R183 step 1: the translations of a page that moves are dropped. -/
def State.moveDropped (s : State) (m : Move) : State := (s.tlbDrop fun e => e.ctx = m.ctx && e.inRange m.va m.lg).dropFetched m.ctx
def State.moveReached (s : State) (m : Move) : State :=
  ({ s.moveDropped m with fresh := s.fresh + 1 } : State).modMove m.id fun m => { m with phase := 2, ta := s.now, stamp := s.fresh }

theorem moveReached_does {m : Move} (hm : m ∈ s.xlat.moves) (h1 : m.phase = 1) :
    Dropped (s.moveReached m) (fun e => e.ctx = m.ctx && e.inRange m.va m.lg) ∧
    (∃ y ∈ (s.moveReached m).xlat.moves, y = { m with phase := 2, ta := s.now, stamp := s.fresh }) ∧
    (s.moveReached m).mem = s.mem ∧ (s.moveReached m).teams = s.teams := by
  have hkept : m ∈ (s.moveDropped m).xlat.moves := List.mem_map.2 ⟨m, hm, if_neg (by simp [h1])⟩
  exact ⟨dropped_of_eq rfl rfl (dropped_tlbDrop s _), ⟨_, List.mem_map.2 ⟨m, hkept, rfl⟩, if_pos rfl⟩, rfl, rfl⟩

theorem tierMoveTa_none (h : s.xlat.moves.find? (fun m => m.id = s.arg.n0 && decide (m.phase < 2)) = none) : Does .tierMoveTa s s := by
  change execTierMoveTa s = _
  simp only [execTierMoveTa, h]

section
variable {m : Move} (h : s.xlat.moves.find? (fun m => m.id = s.arg.n0 && decide (m.phase < 2)) = some m)
include h

theorem tierMoveTa_decides (h0 : m.phase = 0) (hread : ∀ r ∈ s.xlat.reqs, r.for_ ≠ .walk m.id) : Does .tierMoveTa s (s.decideMove m) := by
  have hall : (s.xlat.reqs.all fun r => r.for_ ≠ .walk m.id) = true := by simpa using hread
  change execTierMoveTa s = _
  simp only [execTierMoveTa, h, if_pos h0, if_pos hall]
theorem tierMoveTa_reading (h0 : m.phase = 0) (hread : ∃ r ∈ s.xlat.reqs, r.for_ = .walk m.id) : Does .tierMoveTa s s := by
  have hall : ¬ (s.xlat.reqs.all fun r => r.for_ ≠ .walk m.id) = true := by simpa using hread
  change execTierMoveTa s = _
  simp only [execTierMoveTa, h, if_pos h0, if_neg hall]
theorem tierMoveTa_reached (h1 : m.phase = 1) : Does .tierMoveTa s (s.moveReached m) := by
  change execTierMoveTa s = _
  simp only [execTierMoveTa, h, if_neg (show ¬ m.phase = 0 by omega)]
  rfl

end

/-! ## The copy (R183 steps 3 and 4) -/

/-- R183 step 4: the launches whose uncommitted data at a W9L moves with a page. -/
def State.launchesAt (s : State) (pa : Nat) : List Nat :=
  match s.pageDie pa with
  | some d => (s.launches.filter fun l => l.2.uncommitted && decide (d ∈ l.2.dies)).map Prod.fst
  | none => []
def State.copyBegun (s : State) (m : Move) : State :=
  (s.modMove m.id fun y => { y with phase := 3, vers := s.launchesAt m.old }).moveOn m.id

/-- No stash holds a line to recall where none is mapped coherent. -/
theorem recallPage_unmapped {m : Move} (h : ∀ c ∈ s.clusters, ∀ y ∈ c.2.maps, y.2.kind ≠ 1) : s.recallPage m = s := by
  have hnone : (s.clusters.flatMap fun c => c.2.maps.flatMap fun x =>
      if x.2.kind = 1 then (x.2.lines.filter fun y => m.has y.2.ln && !y.2.host).map fun y => (x.2.launch, y.2.ln) else []) = [] :=
    List.flatMap_eq_nil_iff.2 fun c hc => List.flatMap_eq_nil_iff.2 fun y hy => if_neg (h c hc y hy)
  rw [State.recallPage, hnone, List.foldl_nil]

theorem pageBusy_of_mayCopy {m : Move} (h : s.mayCopy m = true) : s.pageBusy m = false := by
  simp only [State.mayCopy, Bool.and_eq_true, Bool.not_eq_true'] at h
  obtain ⟨⟨⟨⟨-, hfree⟩, -⟩, -⟩, -⟩ := h
  exact hfree

theorem moveSteps_none (h : s.xlat.moves.find? (fun m => m.id = s.arg.n0) = none) :
    Does .tierMoveCopyStart s s ∧ Does .tierMoveCopyDone s s ∧ Does .tierMoveEnd s s := by
  refine ⟨?_, ?_, ?_⟩
  · change execTierMoveCopyStart s = _
    simp only [execTierMoveCopyStart, h]
  · change execTierMoveCopyDone s = _
    simp only [execTierMoveCopyDone, h]
  · change execTierMoveEnd s = _
    simp only [execTierMoveEnd, h]

section
variable {m : Move} (h : s.xlat.moves.find? (fun m => m.id = s.arg.n0) = some m)
include h

theorem tierMoveCopyStart_early (hc : s.mayCopy m = false) : Does .tierMoveCopyStart s s := by
  change execTierMoveCopyStart s = _
  simp only [execTierMoveCopyStart, h, if_neg (Bool.eq_false_iff.1 hc)]

theorem tierMoveCopyStart_recalls (hc : s.mayCopy m = true) : Does .tierMoveCopyStart s
    (if (s.recallPage m).pageBusy m = true then s.recallPage m else (s.recallPage m).copyBegun m) := by
  change execTierMoveCopyStart s = _
  simp only [execTierMoveCopyStart, h, if_pos hc]
  rfl

theorem tierMoveCopyStart_begins (hc : s.mayCopy m = true) (hmaps : ∀ c ∈ s.clusters, ∀ y ∈ c.2.maps, y.2.kind ≠ 1) :
    Does .tierMoveCopyStart s (s.copyBegun m) := by
  have hdo := tierMoveCopyStart_recalls h hc
  rwa [recallPage_unmapped hmaps, if_neg (by simp [pageBusy_of_mayCopy hc])] at hdo

/-! ## The move of what was written (R183 steps 4 to 6, R399) -/

theorem tierMoveCopyDone_early (hc : s.mayEndCopy m = false) : Does .tierMoveCopyDone s s := by
  change execTierMoveCopyDone s = _
  simp only [execTierMoveCopyDone, h, hc, Bool.not_false, if_true]

theorem tierMoveCopyDone_goesOn (hc : s.mayEndCopy m = true) (hpos : m.pos < s.moveLines m) : Does .tierMoveCopyDone s (s.moveOn m.id) := by
  change execTierMoveCopyDone s = _
  simp only [execTierMoveCopyDone, h, hc, hpos, Bool.not_true, Bool.false_eq_true, if_false, if_true]

end
end

/-- R183 step 4: a launch has uncommitted data on the page; and the pool range that it has to be sent to. -/
def State.leftOn (s : State) (m : Move) : Bool :=
  s.launches.any fun l => l.2.uncommitted && ((l.2.shadow.any fun x => m.has x.1) || l.2.deltas.any fun d => m.has (lineNo d.1))
def State.outOf (s : State) (m : Move) : Option PoolEnt :=
  if s.isLocal m.old && m.launch.isNone && !s.isLocal m.new then s.poolEnt m.new else none
/-- R183 steps 4 and 5: the shadow entries, the records and the leaves have followed the page. -/
def State.carried (s : State) (m : Move) : State :=
  let s1 := if m.launch = none ∧ s.isLocal m.old = true ∧ s.isLocal m.new = true then s.moveShadows m else s
  let s2 := if m.launch = none then s1.moveRecords m else s1
  let s3 := match m.kv with | some k => s2.writeDirectory m k.1 k.2.1 k.2.2 | none => s2.writeLeaves m
  s3.modMove m.id fun m => { m with phase := 4, ent := m.ent.map fun e => { e with pa := m.new, pte := e.pte - ptePa e.pte + m.new } }

/-- R183 step 6: then its queue is released. -/
def State.moveReleased (s : State) (m : Move) : State :=
  match (s.carried m).xlat.moves.find? fun y => y.id = m.id with
  | some m4 => (s.carried m).releaseQueue m4
  | none => s.carried m

section
variable {s : State} {m : Move} (h : s.xlat.moves.find? (fun m => m.id = s.arg.n0) = some m)
include h

section
variable (hc : s.mayEndCopy m = true) (hpos : s.moveLines m ≤ m.pos)
include hc hpos

theorem tierMoveCopyDone_sends {e : PoolEnt} (hleft : s.leftOn m = true) (hout : s.outOf m = some e) : Does .tierMoveCopyDone s (s.sendShadows m e) := by
  unfold State.leftOn at hleft
  unfold State.outOf at hout
  change execTierMoveCopyDone s = _
  simp only [execTierMoveCopyDone, h, hc, Nat.not_lt.2 hpos, hleft, hout, Bool.not_true, Bool.false_eq_true, if_false, if_true]

theorem tierMoveCopyDone_carries (hstay : s.leftOn m = false ∨ s.outOf m = none) : Does .tierMoveCopyDone s (s.moveReleased m) := by
  have hnone : (if s.leftOn m = true then s.outOf m else none) = none := by
    rcases hstay with hstay | hstay <;> simp [hstay]
  have hrecords (a b : State) : (if m.launch.isSome = true then a else b) = if m.launch = none then b else a := by cases m.launch <;> simp
  have hshadows : (m.launch.isNone && s.isLocal m.old && s.isLocal m.new) = true ↔ m.launch = none ∧ s.isLocal m.old = true ∧ s.isLocal m.new = true := by
    simp [and_assoc]
  unfold State.leftOn State.outOf at hnone
  change execTierMoveCopyDone s = _
  simp only [execTierMoveCopyDone, h, hc, Nat.not_lt.2 hpos, hnone, hrecords, hshadows, Bool.not_true, Bool.false_eq_true, if_false]
  rfl

theorem tierMoveCopyDone_releases {m4 : Move} (hstay : s.leftOn m = false ∨ s.outOf m = none)
    (hm4 : (s.carried m).xlat.moves.find? (fun y => y.id = m.id) = some m4) : Does .tierMoveCopyDone s ((s.carried m).releaseQueue m4) := by
  have hdo := tierMoveCopyDone_carries h hc hpos hstay
  rwa [State.moveReleased, hm4] at hdo

end

theorem tierMoveEnd_early (he : s.mayEndMove m = false) : Does .tierMoveEnd s s := by
  change execTierMoveEnd s = _
  simp only [execTierMoveEnd, h, if_neg (Bool.eq_false_iff.1 he)]
theorem tierMoveEnd_ends (he : s.mayEndMove m = true) : Does .tierMoveEnd s (if m.pf = true then
    { s with xlat := { s.xlat with moves := s.xlat.moves.filter (fun y => y.id ≠ m.id), tmdone := (s.xlat.tmdone + 1) % 2 ^ 32, tmcause := 0 } }
    else { s with xlat := { s.xlat with moves := s.xlat.moves.filter fun y => y.id ≠ m.id } }) := by
  change execTierMoveEnd s = _
  simp only [execTierMoveEnd, h, if_pos he]
  rfl

end

end Sys2Proof.Machine
end

section
/-! PROOFS. The translation events as the statement names them: O48. -/

namespace Sys2Proof.Machine

/-- R155, R156: granules that pass to nobody leave their owner and the TLBs at once. -/
theorem gownWrite_disowns {s : State} (hidle : s.xlat.gbusy = []) (hok : s.gownOk s.arg.v.toNat) (hfree : ¬ s.gownHeld s.arg.v.toNat)
    (hshare : ¬ s.gownOver s.arg.v.toNat) (hown : gownOwner s.arg.v.toNat = 0xFF) : ∃ s1, Does .gownWrite s s1 ∧ s1.xlat.gstat = 0 ∧
      s1.xlat.gbusy = (s.gownMoves s.arg.v.toNat).map (fun g => (g, 0xFF + 256 * s.fresh)) ∧
      (∀ g ∈ s.gownMoves s.arg.v.toNat, Tbl.get? s1.xlat.own g = none) ∧ Dropped s1 (inGranules (s.gownMoves s.arg.v.toNat)) ∧
      s1.mem = s.mem ∧ s1.teams = s.teams :=
  ⟨_, gownWrite_nobody hidle hok hfree hshare hown, rfl, rfl, fun _ hg => get?_disowned (s := s.withGstat 0) hg, dropped_tlbDrop _ _, rfl, rfl⟩

/-- R156: what the change of owner comes to once its granules may be scrubbed. -/
theorem granuleScrubDone_does {s : State} (h : s.mayScrub = true) : ∃ s1, Does .granuleScrubDone s s1 ∧ s1.xlat.gbusy = [] ∧ s1.teams = s.teams ∧
    (∀ g ∈ s.xlat.gbusy, ∀ y, g.1 * 2 ^ 21 ≤ y → y < g.1 * 2 ^ 21 + 2 ^ 21 → memGet s1.mem y = 0 ∧ s1.poisoned y = false) ∧
    (∀ y, (∀ g ∈ s.xlat.gbusy, y / 2 ^ 21 ≠ g.1) → memGet s1.mem y = memGet s.mem y) ∧
    (∀ g v, s.xlat.gbusy = [(g, v)] → Tbl.get? s1.xlat.own g = if v % 256 = 0xFF then none else some (v % 256)) := by
  obtain ⟨hin, hout⟩ := granulesPassed_does s
  refine ⟨_, granuleScrubDone_passes h, rfl, (congrArg State.teams (scrubAll_keeps s.xlat.gbusy s) :), hin, hout, fun g v hg => ?_⟩
  simp only [State.granulesPassed, hg]
  exact get?_ownersAfter_one ..

/-- Settles O48: each event by its lemma above. -/
theorem translationEvents : Obligations.TranslationEvents := by
  unfold Obligations.TranslationEvents
  intro s a n x cnt own gs move wordOk held over_ ended_ inv
  refine ⟨gownWrite_busy, fun hidle => ⟨gownWrite_malformed hidle, gownWrite_held hidle, gownWrite_over hidle, gownWrite_owner hidle, gownWrite_disowns hidle⟩,
    granuleScrubDone_does, granuleScrubDone_early, tictlWrite_ignored, tictlWrite_queues, atsInvalidationRequest_queues, atsInvalidationRequest_full,
    ?inv, ?drained, ?ats, ?hostAnswer, fun r hr hf => atsTranslationCompletion_other hr hf, atsTranslationCompletion_none,
    fun g hg => ⟨prgResponse_success hg, prgResponse_invalid hg, prgResponse_failure hg⟩, prgResponse_none, ?walk, tmvdWrite_ignored, ?decide,
    fun m hm h0 => ⟨tierMoveTa_decides hm h0, tierMoveTa_reading hm h0⟩, tierMoveTa_none, moveSteps_none, walkComplete_none, invalidationTa_none,
    invalidationDrained_none, atsInvalidationCompletion_none, ?reached, fun m hm => ⟨tierMoveCopyStart_begins hm, ?recalls, tierMoveCopyStart_early hm,
      tierMoveCopyDone_goesOn hm, fun hc hpos => ⟨fun e hl ho => tierMoveCopyDone_sends hm hc hpos hl ho,
        fun m4 hstay hm4 => tierMoveCopyDone_releases hm hc hpos hstay hm4⟩,
      tierMoveCopyDone_early hm, ?ends, ?endsOther, tierMoveEnd_early hm⟩⟩
  case inv =>
    exact fun i hi => ⟨_, invalidationTa_reached hi, invReached_does (List.mem_of_find?_eq_some hi)⟩
  case drained =>
    refine fun i hi => ⟨fun hd => ?_, fun hd => ?_⟩
    · simpa only [if_pos hd] using invalidationDrained_some hi
    · simpa only [if_neg (Bool.eq_false_iff.1 hd)] using invalidationDrained_some hi
  case ats =>
    refine fun i hi => ⟨fun hd => ?_, fun hd => ?_⟩
    · simpa only [if_pos hd] using atsInvalidationCompletion_some hi
    · simpa only [if_neg (Bool.eq_false_iff.1 hd)] using atsInvalidationCompletion_some hi
  case hostAnswer =>
    intro r c hr hfor
    have hdo := atsTranslationCompletion_answers hr hfor
    refine ⟨fun hpa lg rd wr sh h => ?_, fun h => ?_, fun h => ⟨fun hdead => ?_, fun hlive => ?_⟩⟩
    · rwa [h] at hdo
    · rwa [h] at hdo
    · rw [h] at hdo
      exact hdo.trans (congrArg _ (if_pos hdead))
    · rw [h] at hdo
      exact hdo.trans (congrArg _ (if_neg (Bool.eq_false_iff.1 hlive)))
  case walk =>
    refine fun w hw => ⟨fun hmay => ?_, fun hmay => ?_⟩
    · simpa only [if_pos hmay] using walkComplete_some hw
    · simpa only [if_neg (Bool.eq_false_iff.1 hmay)] using walkComplete_some hw
  case decide =>
    intro m s1 p refused hnone
    have does {s' : State} (hd : s1.decideMove m = s') : Does .tmvdWrite s s' := tmvdWrite_decides hnone hd
    refine ⟨fun h => does (decideMove_host h),
      fun c lv e h => ⟨fun hc => does ((decideMove_fault h).trans ?_), fun hc => does ((decideMove_fault h).trans ?_)⟩,
      fun pa h => does (decideMove_violation h), fun pa h => does (decideMove_need h), fun e h => ⟨fun ho => does (decideMove_unowned h ho), fun ho =>
        ⟨fun hl => does (decideMove_large h ho hl), fun hl hs => does (decideMove_shared h ho hl hs),
          fun hl hs hn => does (decideMove_misplaced h ho hl hs hn), fun hl hs hn hm => ?_⟩⟩⟩
    · rw [if_pos hc]; rfl
    · rw [if_neg hc]; rfl
    · have hplace : ¬ (m.new % 2 ^ e.lg ≠ 0 ∨ s1.unmapped m.new = true) := by simp [hn, hm]
      exact ⟨fun hd => does (decideMove_foreign h ho hl hs hplace hd),
        fun hd => ⟨_, does (decideMove_accepted h ho hl hs hplace hd)⟩⟩
  case reached =>
    exact fun m hm h1 => ⟨_, tierMoveTa_reached hm h1, moveReached_does (List.mem_of_find?_eq_some hm) h1⟩
  case recalls =>
    intro hc s1 vers
    have hdo := tierMoveCopyStart_recalls hm hc
    refine ⟨fun hb => ?_, fun hb => ?_⟩
    · rwa [if_pos hb] at hdo
    · rwa [if_neg (Bool.eq_false_iff.1 hb)] at hdo
  case ends =>
    intro he hpf
    simpa only [if_pos hpf] using tierMoveEnd_ends hm he
  case endsOther =>
    intro he hpf
    simpa only [if_neg (Bool.eq_false_iff.1 hpf)] using tierMoveEnd_ends hm he

end Sys2Proof.Machine
end

section
/-! PROOFS. What aborting one launch leaves (R225, R227, R230). -/

namespace Sys2Proof.Machine

/-! ## Freeing a KV entry leaves the settings of its partition (R406, R407, R625) -/

theorem dropPages_cfg (P : Part) (l : List Nat) : (P.dropPages l).cfg = P.cfg :=
  List.foldlRecOn (motive := fun Q : Part => Q.cfg = P.cfg) l _ rfl fun _ h _ _ => h
theorem bumpGen_cfg (P : Part) (idx : Nat) : (P.bumpGen idx).cfg = P.cfg := by
  unfold Part.bumpGen
  split
  · rfl
  · split_ifs
    · rfl
    · exact dropPages_cfg ..
theorem kvFree_cfg (P : Part) (idx : Nat) : (P.kvFree idx).cfg = P.cfg := by
  unfold Part.kvFree
  split
  · rfl
  next e _ =>
    refine List.foldlRecOn (motive := fun Q : Part => Q.cfg = P.cfg) _ _ ?_ fun Q h j _ => (bumpGen_cfg Q j).trans h
    exact dropPages_cfg P e.pages
theorem kvSettle_cfg (s : State) (p q : Nat) : ((s.kvSettle p).part q).cfg = (s.part q).cfg := by
  unfold State.kvSettle
  split
  · rfl
  next P hP =>
    simp only [State.part, Tbl.getD_put]
    split_ifs with hq
    · subst hq
      rw [Tbl.getD, hP]
      exact List.foldlRecOn (motive := fun Q : Part => Q.cfg = P.cfg) _ _ rfl fun Q h (x : Nat × KvEnt) _ => (kvFree_cfg Q x.1).trans h
    · rfl

/-! ## The parts of an abort -/

theorem postTrace_off {s : State} {p : Nat} (h : (s.part p).cfg.trsize = 0) (ctx kind : Nat) (data : BitVec 128) (holds : Bool) :
    s.postTrace p ctx kind data holds = s := by
  rw [postTrace_eq, if_pos h]
theorem traceLaunch_off {s : State} {h : LHead} (hoff : (s.part h.part).cfg.trsize = 0) (what cause t : Nat) : s.traceLaunch h what cause t = s := by
  unfold State.traceLaunch
  split_ifs
  · exact postTrace_off hoff ..
  · rfl

/-- R230: what a context holds to be written of its ended launches. -/
def Ctx.queued (x : Ctx) : List CRec × List CRec := (x.crecs, x.clate)
/-- R123, R125, R126: those records with one more. -/
def Ctx.queuedWith (x : Ctx) (r : CRec) : List CRec × List CRec :=
  if x.crecs.length < 64 ∧ x.clate = [] then (x.crecs ++ [r], x.clate) else (x.crecs, x.clate ++ [r])

theorem queued_of_same {s s' : State} (h : SameButCounters s s') (k : Nat) : (s'.ctx k).queued = (s.ctx k).queued := by
  obtain ⟨x, rfl, hx⟩ := h
  have hk := congrArg (Option.map Ctx.queued) (hx k)
  rw [Option.map_map, Option.map_map] at hk
  change (Tbl.getD x k {}).queued = (Tbl.getD s.ctxs k {}).queued
  rw [Tbl.getD, Tbl.getD, ← Option.getD_map Ctx.queued, ← Option.getD_map Ctx.queued]
  exact congrArg (·.getD ({} : Ctx).queued) hk
theorem finalRecord_queued (s : State) (c : Nat) (r : CRec) (refused : Bool) : ((s.finalRecord c r refused).ctx c).queued = (s.ctx c).queuedWith r := by
  rw [State.finalRecord, modCtx_ctx, Ctx.queuedWith]
  dsimp only
  split_ifs <;> rfl
theorem markDead_queued (s : State) (lk c : Nat) : ((s.markDead lk).ctx c).queued = (s.ctx c).queued := by
  simp only [State.markDead, State.ctx, Tbl.getD, Tbl.get?_mapV]
  cases Tbl.get? s.ctxs c <;> rfl

/-- Telling homes of an abort sends messages and waits for their answers; nothing else changes. -/
theorem tellAbort_eq (s : State) (l : Launch) : ∃ n x o, (s.tellAbort l).2 = { s with fresh := n, xlat := x, outbox := o } := by
  unfold State.tellAbort
  refine List.foldlRecOn (motive := fun r : List Nat × State => ∃ n x o, r.2 = { s with fresh := n, xlat := x, outbox := o }) _ _
    ⟨s.fresh, s.xlat, s.outbox, rfl⟩ ?_
  rintro ⟨ws, s'⟩ ⟨n, x, o, rfl⟩ d -
  exact ⟨_, _, _, rfl⟩
theorem tellAbort_nobody {l : Launch} (hd : l.dies = []) (hm : l.mdies = []) (s : State) : s.tellAbort l = ([], s) := by
  simp [State.tellAbort, hd, hm]

theorem discard_cfg (s : State) (lk q : Nat) : ((s.discard lk).part q).cfg = (s.part q).cfg := by
  unfold State.discard
  simp only [State.modPart, State.part, Tbl.getD, Tbl.get?_modify]
  split_ifs with hq
  · subst hq
    cases Tbl.get? s.parts (s.launch lk).head.part <;> rfl
  · rfl

/-! ## The abort of one launch -/

/-- R225, R230: the completion record of a launch that an abort ends, with the abort messages whose answers it waits for. -/
def Launch.abortRecord (l : Launch) (time cause status : Nat) (waits : List Nat) : CRec :=
  { pid := l.head.pid, time := time, ver := l.head.ver, lid := l.head.lid, cause := cause, status := status, stream := l.head.stream, waits := waits }
/-- R218, R227: the numbers of the abort messages that go to the homes of a launch. -/
def State.abortTold (s : State) (lk : Nat) : List Nat := ((s.discard lk).tellAbort (s.launch lk)).1
/-- The machine without a launch and what it leaves behind, its homes told and its record queued. -/
def State.ended (s : State) (lk cause status : Nat) : State :=
  let s1 := ((s.discard lk).tellAbort (s.launch lk)).2
  (({ s1 with launches := Tbl.mapV (Tbl.del s1.launches lk) fun _ o => { o with edges := o.edges.filter (· ≠ lk) } } : State).finalRecord
    (s.launch lk).head.ctx ((s.launch lk).abortRecord s1.now cause status (s.abortTold lk)) false).markDead lk

theorem ended_eq (s : State) (lk cause status : Nat) : ∃ n x o cs, s.ended lk cause status =
    { s.discard lk with
      fresh := n, xlat := x, outbox := o, ctxs := cs
      launches := Tbl.mapV (Tbl.del s.launches lk) fun _ (o : Launch) => { o with edges := o.edges.filter (· ≠ lk) } } := by
  obtain ⟨n, x, o, h⟩ := tellAbort_eq (s.discard lk) (s.launch lk)
  unfold State.ended
  rw [h]
  exact ⟨n, x, o, _, rfl⟩
theorem ended_queued (s : State) (lk cause status : Nat) : ((s.ended lk cause status).ctx (s.launch lk).head.ctx).queued =
    (s.ctx (s.launch lk).head.ctx).queuedWith ((s.launch lk).abortRecord s.now cause status (s.abortTold lk)) := by
  obtain ⟨n, x, o, h⟩ := tellAbort_eq (s.discard lk) (s.launch lk)
  rw [State.ended, markDead_queued, finalRecord_queued, h]
  rfl

/-- In a partition that traces nothing, an abort changes counters and the entries that wait to be freed, after it has ended the
launch. -/
theorem abortOne_eq {s : State} {lk : Nat} (hoff : (s.part (s.launch lk).head.part).cfg.trsize = 0) (cause status : Nat) : ∃ pt,
    SameButCounters { s.ended lk cause status with parts := pt } (s.abortOne lk cause status) := by
  obtain ⟨n, x, o, cs, hended⟩ := ended_eq s lk cause status
  obtain ⟨pt, hsettle⟩ := kvSettle_eq (s.ended lk cause status) (s.launch lk).head.part
  have hquiet : (((s.ended lk cause status).kvSettle (s.launch lk).head.part).part (s.launch lk).head.part).cfg.trsize = 0 := by
    rw [kvSettle_cfg, hended, ← hoff, ← discard_cfg s lk]
    rfl
  have habort : s.abortOne lk cause status = (((s.ended lk cause status).kvSettle (s.launch lk).head.part).traceLaunch (s.launch lk).head
      (if status = 2 then 5 else 4) cause 0).count (s.launch lk).head.ctx 57 1 := rfl
  rw [habort, traceLaunch_off hquiet, hsettle]
  exact ⟨pt, sameBut_count ..⟩

/-- R227, R230: the record that an abort queues waits for the homes that were told. -/
theorem abortOne_queued {s : State} {lk : Nat} (hoff : (s.part (s.launch lk).head.part).cfg.trsize = 0) (cause status : Nat) :
    ((s.abortOne lk cause status).ctx (s.launch lk).head.ctx).queued =
      (s.ctx (s.launch lk).head.ctx).queuedWith ((s.launch lk).abortRecord s.now cause status (s.abortTold lk)) := by
  obtain ⟨pt, h⟩ := abortOne_eq hoff cause status
  exact (queued_of_same h _).trans (ended_queued ..)

theorem get?_filter_value {α : Type} {p : α → Bool} {t : Tbl α} {k : Nat} {a : α} (h : Tbl.get? t k = some a) (ha : p a = true) :
    Tbl.get? (t.filter fun x => p x.2) k = some a := by
  induction t with
  | nil => cases h
  | cons x r ih =>
    obtain ⟨j, b⟩ := x
    by_cases hj : j = k
    · simp only [Tbl.get?, if_pos hj, Option.some.injEq] at h
      simp [Tbl.get?, hj, h, ha]
    · simp only [Tbl.get?, if_neg hj] at h
      rw [List.filter_cons]
      split_ifs
      · exact (if_neg hj).trans (ih h)
      · exact ih h

/-- R225, R227: an abort of a launch with nothing at any home. -/
theorem abortOne_aborted {s : State} {lk : Nat} {l : Launch} (hl : Tbl.get? s.launches lk = some l) (hd : l.dies = []) (hm : l.mdies = [])
    (hoff : (s.part l.head.part).cfg.trsize = 0) (cause status : Nat) : AbortedLaunch s (s.abortOne lk cause status) lk l cause status := by
  obtain rfl : s.launch lk = l := by simp [State.launch, Tbl.getD, hl]
  have hwaits : s.abortTold lk = [] := congrArg Prod.fst (tellAbort_nobody hd hm _)
  have hqueued := abortOne_queued hoff cause status
  obtain ⟨n, x, o, cs, hended⟩ := ended_eq s lk cause status
  obtain ⟨pt, cs', h, -⟩ := abortOne_eq hoff cause status
  rw [hwaits] at hqueued
  rw [hended] at h
  refine ⟨?_, fun p hp => ?_, fun j t hj hlk => ?_, ?_, ?_, fun p hp k hk => ?_, ?_⟩
  · rw [h]; simp
  · rw [h] at hp
    exact of_decide_eq_true (List.mem_filter.1 hp).2
  · rw [h]
    exact get?_filter_value (p := fun t : Team => decide (t.id.launch ≠ lk)) hj (decide_eq_true hlk)
  · rw [h]; rfl
  · rw [h]; rfl
  · rw [h] at hp
    obtain ⟨q, -, rfl⟩ := List.mem_map.1 hp
    exact of_decide_eq_true (List.mem_filter.1 hk).2
  · rw [Ctx.queuedWith] at hqueued
    dsimp only
    split_ifs at hqueued ⊢ <;> exact Prod.mk.inj hqueued

end Sys2Proof.Machine
end

section
/-! PROOFS. The causes that abort a launch (R425, R427, R429), and the launch whose monitors are armed at a pool home (R227, R230):
O19. -/

namespace Sys2Proof.Machine

/-! ## An abort event on a launch that stands alone (R225, R198) -/

theorem chained_alone {ls : Tbl Launch} {lk : Nat} (h : ∀ p ∈ ls, p.2.head.chain ≠ some lk) (n : Nat) : chained ls n [lk] = [lk] := by
  cases n with
  | zero => rfl
  | succ n =>
    refine if_pos (List.filterMap_eq_nil_iff.2 fun p hp => ?_)
    cases hc : p.2.head.chain with
    | none => rfl
    | some q =>
      have hq : q ≠ lk := fun e => h p hp (e ▸ hc)
      exact if_neg fun hmore => hq (List.mem_singleton.1 hmore.1)

theorem abortLaunch_alone {s : State} {t : Team} {l : Launch} (h : CanAbort s t l) (cause status : Nat) :
    s.abortLaunch t.id.launch cause status = s.abortOne t.id.launch cause status := by
  simp only [State.abortLaunch, h.launch, h.open_.1, chained_alone h.alone, if_true, List.foldl_cons, List.foldl_nil]

/-! ## A raised cause is delivered at once in a team with nothing outstanding (R420) -/

/-- The team whose pass has raised a cause. -/
def Team.withRaised (t : Team) (c : Cur) (now : Nat) (r : Raised) (m : Mask) : Team :=
  { t with
    sync := { t.sync with rq := t.sync.rq ++ [{ c.entry with raised := some r, faulting := true, gov := m, id := t.sync.nextEntry }]
                          nextEntry := t.sync.nextEntry + 1, park := .run }
    flow := { t.flow with pc := (if c.inj then t.flow.pc else c.next), hints := [] }
    sched := { t.sched with lastIssue := now } }
/-- The machine whose current pass has raised a cause. -/
def State.withRaised (s : State) (c : Cur) (t : Team) (r : Raised) (m : Mask) : State :=
  { s.setTeam c.team (t.withRaised c s.now r m) with cur := none, issued := Tbl.put s.issued t.id.core 1 }

theorem raise_eq (s : State) (c : Cur) (t : Team) (r : Raised) (m : Mask) : s.raise c t r m =
    if (t.withRaised c s.now r m).sync.settled && (s.withRaised c t r m).canTrap (t.withRaised c s.now r m) then (s.withRaised c t r m).takeTrap c.team
    else s.withRaised c t r m := rfl
theorem withRaised_team (s : State) (c : Cur) (t : Team) (r : Raised) (m : Mask) : (s.withRaised c t r m).team c.team = t.withRaised c s.now r m :=
  setTeam_team ..

section
variable {s : State} {c : Cur} {t : Team} (hnew : Fresh c) (hidle : t.sync.rq = [])
include hnew hidle

theorem withRaised_settled (now : Nat) (r : Raised) (m : Mask) : (t.withRaised c now r m).sync.settled = true := by
  simp [Team.withRaised, TeamSync.settled, hidle, hnew.empty]

/-- A team that is not frozen forms its frame at once; only a partition whose trace stalls would make it wait (R95, R420, R449). -/
theorem raise_delivers (hstall : (s.part t.id.part).cfg.trstall = false) (hfrozen : t.sched.frozen = none) (r : Raised) (m : Mask) :
    ∃ fr, fr.cause = r.cause ∧ s.raise c t r m = (s.withRaised c t r m).deliver c.team fr := by
  have hcan : (s.withRaised c t r m).canTrap (t.withRaised c s.now r m) = true := by
    have hs : ((s.withRaised c t r m).part (t.withRaised c s.now r m).id.part).cfg.trstall = false := hstall
    have hf : (t.withRaised c s.now r m).sched.frozen = none := hfrozen
    simp [State.canTrap, Part.traceFull, hs, hf]
  have hhead : headRaised (t.withRaised c s.now r m).sync.rq = some ({ c.entry with raised := some r, faulting := true, gov := m, id := t.sync.nextEntry }, r) := by
    simp [Team.withRaised, hidle, headRaised]
  rw [raise_eq, withRaised_settled hnew hidle, hcan]
  simp only [State.takeTrap, withRaised_team, hhead]
  exact ⟨_, rfl, rfl⟩
end

/-! ## The cause that a launch aborts with (R425, R427, R429) -/

/-- R425, R427, R429: no handler takes the cause: it is of the launch-aborting class, or a recoverable one that comes in the handler
or in a context with neither handler nor debugger. -/
def Untaken (s : State) (t : Team) (cause : Nat) : Prop :=
  causeClass cause = 1 ∨ causeClass cause = 0 ∧ (t.sync.inHandler = true ∨ NoHandler s t)
/-- R429: the cause that aborts the launch: the double fault in the handler, and elsewhere the cause itself. -/
def Team.abortCause (t : Team) (cause : Nat) : Nat := if t.sync.inHandler = true then 0xB5 else cause

theorem deliver_untaken {s : State} {k : Nat} {fr : Frame} (hland : (s.team k).id.landed = false) (h : Untaken s (s.team k) fr.cause) :
    s.deliver k fr = (s.traceTrap (s.team k) fr.cause fr.tpc).abortTeam k (s.team k) ((s.team k).abortCause fr.cause) := by
  have hfatal : causeClass fr.cause ≠ 2 := by rcases h with h | ⟨h, -⟩ <;> simp [h]
  unfold State.deliver Team.abortCause
  by_cases hin : (s.team k).sync.inHandler = true
  · simp [hland, hfatal, hin]
  · rcases h with habort | ⟨hrec, hin' | ⟨hvec, hatt⟩⟩
    · simp [hland, hin, habort]
    · exact absurd hin' hin
    · simp [hland, hin, hrec, hvec, hatt]

theorem AbortedLaunch.of_start {s s1 s' : State} {lk cause status : Nat} {l : Launch} (h : AbortedLaunch s1 s' lk l cause status)
    (hteams : ∀ j t, Tbl.get? s.teams j = some t → t.id.launch ≠ lk → Tbl.get? s1.teams j = some t)
    (hmem : s1.mem = s.mem ∧ s1.poison = s.poison ∧ s1.now = s.now) (hctx : (s1.ctx l.head.ctx).queued = (s.ctx l.head.ctx).queued) :
    AbortedLaunch s s' lk l cause status := by
  obtain ⟨hmem, hpoison, hnow⟩ := hmem
  obtain ⟨hcrecs, hclate⟩ := Prod.mk.inj hctx
  refine ⟨h.gone, h.teams, fun j t hj hlk => h.others j t (hteams j t hj hlk) hlk, h.mem.trans hmem, h.poison.trans hpoison, h.cards, ?_⟩
  have hrecord := h.record
  dsimp only at hrecord
  rwa [hnow, hcrecs, hclate] at hrecord

/-- R425, R427, R429: a cause that no handler takes aborts the launch, when its teams have no monitor armed at a pool home and the
raising team is not frozen. -/
theorem raise_aborts {s : State} {c : Cur} {t : Team} {l : Launch} {r : Raised} (hp : Performs s c t) (hnew : Fresh c) (hidle : t.sync.rq = [])
    (hcan : CanAbort s t l) (hmon : l.mdies = []) (hfrozen : t.sched.frozen = none) (hun : Untaken s t r.cause) (m : Mask) :
    AbortedLaunch s (s.raise c t r m) t.id.launch l (t.abortCause r.cause) 1 := by
  obtain ⟨hoff, htoff, hstall⟩ := hcan.untraced
  obtain ⟨fr, hcause, hraise⟩ := raise_delivers hnew hidle hstall hfrozen r m
  have hteam := withRaised_team s c t r m
  have hdeliver := deliver_untaken (fr := fr) (by rw [hteam]; exact hcan.home.2) (by rw [hteam, hcause]; exact hun)
  have htrace : SameButCounters (s.withRaised c t r m) ((s.withRaised c t r m).traceTrap (t.withRaised c s.now r m) fr.cause fr.tpc) :=
    sameBut_traceTrap htoff
  have hqueued := queued_of_same htrace l.head.ctx
  rw [hteam, hcause] at hdeliver
  rw [hraise, hdeliver]
  rw [hcause] at htrace hqueued
  generalize (s.withRaised c t r m).traceTrap (t.withRaised c s.now r m) r.cause fr.tpc = s2 at *
  obtain ⟨cs, hs2, -⟩ := htrace
  have hcan2 : CanAbort s2 (t.withRaised c s.now r m) l := by
    rw [hs2]
    exact ⟨hcan.launch, hcan.home, hcan.open_, hcan.alone, hcan.untraced⟩
  have hhome : (t.withRaised c s.now r m).id.foreign = false := hcan.home.1
  rw [State.abortTeam, hhome, if_neg (by decide), abortLaunch_alone hcan2]
  refine (abortOne_aborted hcan2.launch hcan.open_.2 hmon hcan2.untraced.1 _ 1).of_start (fun j t' hj hlk => ?_) ?_ hqueued
  · have hne : j ≠ c.team := by
      rintro rfl
      obtain rfl : t = t' := Option.some.inj (hp.team.symm.trans hj)
      exact hlk rfl
    rw [hs2]
    exact (Tbl.get?_put_ne _ _ _ _ hne).trans hj
  · rw [hs2]
    exact ⟨rfl, rfl, rfl⟩

/-- O19 as it is meant: for a launch with no monitor armed at a pool home and a team that is not frozen. -/
theorem raise_aborts_unmonitored {s : State} {c : Cur} {t : Team} {l : Launch} {r : Raised} (hp : Performs s c t) (hnew : Fresh c)
    (hidle : t.sync.rq = []) (hcan : CanAbort s t l) (hmon : l.mdies = []) (hfrozen : t.sched.frozen = none) :
    (t.sync.inHandler = false → causeClass r.cause = 1 → AbortedLaunch s (s.raise c t r (gov t c)) t.id.launch l r.cause 1) ∧
    (t.sync.inHandler = false → causeClass r.cause = 0 → NoHandler s t → AbortedLaunch s (s.raise c t r (gov t c)) t.id.launch l r.cause 1) ∧
    (t.sync.inHandler = true → causeClass r.cause = 0 ∨ causeClass r.cause = 1 → AbortedLaunch s (s.raise c t r (gov t c)) t.id.launch l 0xB5 1) := by
  have haborts (hun : Untaken s t r.cause) := raise_aborts hp hnew hidle hcan hmon hfrozen hun (gov t c)
  refine ⟨fun hin hclass => ?_, fun hin hclass hno => ?_, fun hin hclass => ?_⟩
  · simpa [Team.abortCause, hin] using haborts (.inl hclass)
  · simpa [Team.abortCause, hin] using haborts (.inr ⟨hclass, .inr hno⟩)
  · simpa [Team.abortCause, hin] using haborts (hclass.elim (fun h => .inr ⟨h, .inl hin⟩) .inl)

/-! ## A launch with a monitor at a pool home -/

/-- A machine with one launch, its team performing an instruction; a team of the launch has armed a monitor on a word whose home is die 5,
and the launch has sent that die no write (R349). -/
def monitoring : State := { launches := [(0, { st := .started, mdies := [5] })], teams := [(0, {})], cur := some { team := 0, entry := {} } }

theorem monitoring_canAbort : CanAbort monitoring {} { st := .started, mdies := [5] } :=
  ⟨rfl, ⟨rfl, rfl⟩, ⟨rfl, rfl⟩, by decide, rfl, rfl, rfl⟩
/-- That machine once the instruction has raised cause 0x50. -/
def monitoringAborted : State := monitoring.raise { team := 0, entry := {} } {} { cause := 0x50 } (gov {} { team := 0, entry := {} })
/-- R227, R230: the cause aborts the launch: die 5 is sent abort message 1, and the completion record waits for its answer. -/
theorem monitoring_aborts : monitoringAborted.outbox = [.poolAbort 1 5 0 0] ∧
    (monitoringAborted.ctx 0).crecs = [{ pid := 0, time := 0, ver := 0, lid := 0, cause := 0x50, status := 1, stream := 0, waits := [1] }] := by
  decide +kernel

/-- Refutes O19: the hypotheses leave out the launch's monitors at pool homes. An abort frees them with a message to each home, whose
answer the completion record waits for (R227, R230), and the statement asks for a record that waits for none. The machine of
`monitoring` raises cause 0x50. The statement as it is meant is `raise_aborts_unmonitored`; a frozen team, which the hypotheses allow too,
raises its cause at its release alone (R95). -/
theorem not_abortCauses : ¬ Obligations.AbortCauses := by
  unfold Obligations.AbortCauses
  intro h
  obtain ⟨hclass1, -, -⟩ := h monitoring { team := 0, entry := {} } {} _ { cause := 0x50 } ⟨rfl, rfl⟩ ⟨rfl, rfl, rfl, rfl, rfl⟩ rfl monitoring_canAbort
  obtain ⟨hrecord, -⟩ := (hclass1 rfl (by decide)).record
  have hwaits := congrArg (List.map CRec.waits) (monitoring_aborts.2.symm.trans hrecord)
  exact absurd hwaits (by decide)

end Sys2Proof.Machine
end

section
/-! PROOFS. Issue of a team's instruction (R252, R478, R491, R498): O56. -/

namespace Sys2Proof.Machine

/-! ## A word of the text and its bytes (R4, R478) -/

theorem word_lt {m : Image} {pc n : Nat} (h : m.word pc = some n) : n < 2 ^ 32 := by
  unfold Image.word at h
  split_ifs at h
  simp only [Option.some.injEq, show List.range 4 = [0, 1, 2, 3] from rfl, List.map_cons, List.map_nil, leNat] at h
  have hb : ∀ j, (Tbl.getD m.bytes (m.toff + pc + j) 0 : Byte).toNat < 256 := fun j => BitVec.isLt _
  have h0 := hb 0; have h1 := hb 1; have h2 := hb 2; have h3 := hb 3
  omega

theorem wordOfBytes_bytesOfWord {n : Nat} (h : n < 2 ^ 32) : ∃ b0 b1 b2 b3, bytesOfWord n = [b0, b1, b2, b3] ∧ wordOfBytes b0 b1 b2 b3 = n := by
  refine ⟨_, _, _, _, rfl, ?_⟩
  simp only [wordOfBytes, BitVec.toNat_ofNat]
  omega

/-- What `decode` makes of four bytes, with the decoder of words as a variable: the kernel would else evaluate it on an unknown word. -/
theorem decode_four {f : Nat → Except DecodeErr Instr} {g : List Byte → Except DecodeErr (Instr × List Byte)} (hf : decodeWord = f) (hg : g = decode)
    {b0 b1 b2 b3 : Byte} {i : Instr} (hd : g [b0, b1, b2, b3] = .ok (i, [])) : f (wordOfBytes b0 b1 b2 b3) = .ok i := by
  delta decode at hg
  rw [hf] at hg
  clear hf
  rw [hg] at hd
  simp only [] at hd
  cases h : f (wordOfBytes b0 b1 b2 b3) <;> simp_all

/-- Decoding the bytes of a word is decoding the word. -/
theorem decodeWord_of_decode {n : Nat} {i : Instr} (hn : n < 2 ^ 32) (h : decode (bytesOfWord n) = .ok (i, [])) : decodeWord n = .ok i := by
  obtain ⟨b0, b1, b2, b3, hb, hw⟩ := wordOfBytes_bytesOfWord hn
  rw [hb] at h
  rw [← hw]
  exact decode_four rfl rfl h

/-! ## The checks of R498 -/

theorem Passes.getc_known {s : State} {t : Team} {c : Cur} {n : Nat} {z : BitVec 1} {d k : BitVec 6} (hp : Passes s t c n (.getc z d k)) :
    ctlKnown k.toNat = true := hp.control
theorem Passes.setc_known {s : State} {t : Team} {c : Cur} {n : Nat} {z : BitVec 1} {k b : BitVec 6} (hp : Passes s t c n (.setc z k b)) :
    ctlKnown k.toNat = true := hp.control

/-- Without outstanding results no register holds the instruction up, and none is read from an overlay (R482, R485). -/
theorem issueInstr_passes {s : State} {t : Team} {c : Cur} {n : Nat} {i : Instr} (hp : Passes s t c n i) (hrq : t.sync.rq = []) (hovr : c.ovr = []) :
    issueInstr s c t n i = .run i { s.setTeam c.team t with
      cur := some { c with entry := { c.entry with ops := (sourcesOf i c).map (captureOp t c), gov := gov t c } } } := by
  have hfree : ∀ r, outstanding t.sync.rq r = none := fun r => by rw [hrq]; rfl
  have hallot : ((vregsOf i c.freg).any fun v => decide (t.regs.allot ≤ v)) = false := by
    simpa using hp.allotment
  have hhot (l : List (Nat × Nat)) : l.filterMap (fun r => (outstanding t.sync.rq r).map fun e => (r, e)) = [] := by simp [hfree]
  have hwait (l : List (Nat × Nat)) : (if t.regs.hazchk then l.findSome? (fun r => (outstanding t.sync.rq r).map fun e => (r, e)) else none) = none := by
    simp [hfree]
  have hclob (l : List (Nat × Nat)) : (l.any fun r => (outstanding t.sync.rq r).isSome) = false := by simp [hfree]
  obtain ⟨k, e, inj, ovr⟩ := c
  subst hovr
  refine (if_neg (by simp [hp.feature])).trans ((if_neg (by simp [hallot])).trans ((if_neg ?_).trans ?_))
  · split
    · simp [hp.getc_known]
    · simp [hp.setc_known]
    · exact Bool.false_ne_true
  simp only [hwait, hhot, hclob]
  rfl

theorem checkWord_passes {s : State} {t : Team} {c : Cur} {n : Nat} {i : Instr} (hd : decodeWord n = .ok i) (hp : Passes s t c n i) :
    checkWord s c t n t.flow.hints = issueInstr s c t n i := by
  simp [checkWord, hd, hp.placed, hp.used, hp.fields, hp.rounding]

/-- An instruction word at the PC of a team with nothing to re-inject or report goes to the checks. -/
theorem issueTeam_word {s : State} {k n : Nat} {t : Team} (ht : Tbl.get? s.teams k = some t) (hinj : t.sync.reinj = []) (hlost : t.sync.lost = [])
    (hatt : (s.ctx t.id.ctx).dbg.att = false) (hw : (s.image t).word t.flow.pc.toNat = some n) (hh : isHint (BitVec.ofNat 32 n) = false) :
    issueTeam s k = checkWord s (issuedCur k t n) t n t.flow.hints := by
  simp [issueTeam, team_of_get? ht, hinj, hatt, hw, hh, hlost, issuedCur]

/-! ## A step in which one issue is all that may happen (R252) -/

theorem choices_onlyIssues {s : State} {k : Nat} (h : OnlyIssues s k) : choices s = [fun s => issueTeam s k] := by
  simp [choices, h.events, h.accesses, h.aperture, h.scrubs, h.issue]

theorem plan_onlyIssues {s : State} {k : Nat} (h : OnlyIssues s k) : plan s = some (issueTeam s k) := by
  simp [plan, onward, h.running, h.due, h.inputs, h.waits, h.hosts, choices_onlyIssues h, State.choose]

theorem step_run {s s' : State} {i : Instr} (h : plan s = some (.run i s')) : step s = exec i s' := by rw [step, h]

/-- Settles O56: the word at the PC decodes, passes each check, and is what the step performs. -/
theorem stepRunsDecoded : Obligations.StepRunsDecoded := by
  unfold Obligations.StepRunsDecoded
  intro s k t n i c ht hinj hlost hrq hatt hw hh hp
  have hissue := (issueTeam_word ht hinj hlost hatt hw hh).trans
    ((checkWord_passes (decodeWord_of_decode (word_lt hw) hp.decoded) hp).trans (issueInstr_passes hp hrq rfl))
  exact ⟨hissue, fun honly => step_run ((plan_onlyIssues honly).trans (congrArg some hissue))⟩

end Sys2Proof.Machine
end

section
/-! PROOFS. Role exchanges (R243, R284, R285, R660, R661): O40. -/

namespace Sys2Proof.Machine

theorem mayExchange_iff {t : Team} {g : Stage} :
    t.mayExchange g = true ↔ g.lanes = t.regs.lanes ∧ t.flow.stack = [] ∧ t.flow.away = 0 ∧ t.flow.ret = 0 := by
  simp only [Team.mayExchange, Bool.and_eq_true, decide_eq_true_eq, and_assoc]

/-- The guard of `role` is the condition of R660. -/
theorem exchange_refused_iff {t : Team} {g : Stage} {k : Nat} :
    ((!t.mayExchange g) = true ∨ k > min t.regs.allot g.vregs) ↔ ¬ ExchangeOk t g k := by
  have hok : ExchangeOk t g k ↔ t.mayExchange g = true ∧ k ≤ min t.regs.allot g.vregs := by
    rw [mayExchange_iff, ExchangeOk]
    simp only [and_assoc]
  rw [hok, not_and_or, Bool.not_eq_true', Bool.not_eq_true, not_le]

/-- R285: lanes have keys of 1,024 to a register, so the registers below `k` are the keys below `1024 * k`. -/
theorem exchange_exchanged (t : Team) (n : Nat) (g : Stage) (k : Nat) : Exchanged t (t.exchange n g k) n g k where
  vector r l hl := by
    have hkey : 1024 * r + l < 1024 * k ↔ r < k := by omega
    simp only [Team.exchange, TeamRegs.getV, Tbl.getD]
    rw [get?_filter_key (fun x => decide (x < 1024 * k))]
    simp only [decide_eq_true_eq, hkey]
    split_ifs <;> rfl
  others := ⟨rfl, rfl⟩
  stage := rfl
  flow := rfl
  rest := ⟨rfl, rfl⟩

theorem finishExchange_exchanges (s : State) (c : Cur) (t : Team) (z : BitVec 1) (d : BitVec 6) (n : Nat) (g : Stage) (k : Nat) (v : Word) :
    ∃ t', Leaves s (finishExchange s c t z d n g k v) c (t.exchange n g k) z (BitVec.ofNat 64 g.entry)
      { c.entry with res := [.s d.toNat v], dest := [(0, d.toNat)] } 1 t' :=
  ⟨_, finishAt_leaves ..⟩

/-- A form whose long result is one scalar goes on with it. -/
theorem longThen_of {i : Instr} {s : State} {c : Cur} {t : Team} {z : BitVec 1} {d : BitVec 6} {n : Nat}
    (h : exec i s = .next (finishLong s c t z [.s d.toNat (BitVec.ofNat 64 n)] 1)) : LongThen i s s c t z (oneOf d n) id := by
  obtain ⟨t', hleaves⟩ := finishLong_leaves s c t z d.toNat (BitVec.ofNat 64 n)
  exact ⟨_, t', h, hleaves⟩

theorem posted_here {s : State} {t : Team} {p : Posting} {g : Stage} (h : Posted s t p g) :
    p ∈ (s.launch t.id.launch).posts ∧ p.cluster = t.id.cluster ∧ p.b = t.id.stage ∧ s.now < p.at_ + 4096 ∧ s.stageOf t p.a = some g := by
  unfold Posted State.postingFor at h
  split_ifs at h
  obtain ⟨q, hq, hbind⟩ := Option.bind_eq_some_iff.1 h
  obtain ⟨g', hg', hif⟩ := Option.bind_eq_some_iff.1 hbind
  split_ifs at hif
  cases hif
  have hok := List.find?_some hq
  simp only [Bool.and_eq_true, decide_eq_true_eq, and_assoc] at hok
  exact ⟨List.mem_of_find?_eq_some hq, hok.1, hok.2.1, hok.2.2, hg'⟩

section
variable {s : State} {c : Cur} {t : Team} (hp : Performs s c t) (z : BitVec 1) (d a b : BitVec 6)
include hp

/-! ## `role` (R660) -/

theorem role_noStage (h : t.id.landed = true ∨ s.stageOf t (rdS t c a.toNat).toNat = none) : Raises (.role z d a b) s c t 0xA9 := by
  refine (withCur_eq hp _).trans (congrArg _ ?_)
  have hnone : (if t.id.landed = true then none else s.stageOf t (rdS t c a.toNat).toNat) = none := by
    rcases h with h | h <;> simp [h]
  simp only [hnone]
  rfl

theorem role_stage {g : Stage} (hhome : t.id.landed = false) (hg : s.stageOf t (rdS t c a.toNat).toNat = some g) :
    exec (.role z d a b) s = .next (
      if (!t.mayExchange g) = true ∨ (rdS t c b.toNat).toNat > min t.regs.allot g.vregs then s.raiseX c t 0xAA
      else if (!s.rowsFor t g) = true then finishLong s c t z [.s d.toNat 1] 1
      else finishExchange s c t z d (rdS t c a.toNat).toNat g (rdS t c b.toNat).toNat 0) := by
  refine (withCur_eq hp _).trans (congrArg _ ?_)
  simp only [hhome, hg]
  rfl

/-! ## `role.ask` (R661) -/

theorem roleAsk_none (h : s.postingFor t = none) : LongThen (.roleAsk z d a) s s c t z (oneOf d 0) id := by
  refine longThen_of ((withCur_eq hp _).trans (congrArg _ ?_))
  simp only [h]
  rfl

theorem roleAsk_posted {p : Posting} {g : Stage} (h : Posted s t p g) :
    exec (.roleAsk z d a) s = .next (
      if min t.regs.allot g.vregs < (rdS t c a.toNat).toNat then s.raiseX c t 0xAA
      else finishExchange (s.modLaunch t.id.launch fun l => { l with posts := l.posts.filter fun q => q ≠ p }) c t z d p.a g (rdS t c a.toNat).toNat 1) := by
  refine (withCur_eq hp _).trans (congrArg _ ?_)
  unfold Posted at h
  simp only [h]

end

/-- Settles O40: each outcome of `role` and `role.ask` by its equation above. -/
theorem roleForms : Obligations.RoleForms := by
  unfold Obligations.RoleForms
  intro s c t z d a b hp n k i ask
  refine ⟨role_noStage hp z d a b, fun g hhome hg => ?_, roleAsk_none hp z d a, fun p g hposted => ?_⟩
  · have hexec := role_stage hp z d a b hhome hg
    refine ⟨fun hbad => ?_, fun hok hrows => ?_, fun hok hrows => ?_⟩
    · rw [if_pos (exchange_refused_iff.2 hbad)] at hexec
      exact hexec
    · rw [if_neg (mt exchange_refused_iff.1 (not_not.2 hok)), if_pos (by simp [hrows])] at hexec
      exact longThen_of hexec
    · rw [if_neg (mt exchange_refused_iff.1 (not_not.2 hok)), if_neg (by simp [hrows])] at hexec
      obtain ⟨t', hleaves⟩ := finishExchange_exchanges s c t z d n g k 0
      exact ⟨_, _, t', exchange_exchanged t n g k, hexec, hleaves⟩
  · have hexec := roleAsk_posted hp z d a hposted
    refine ⟨posted_here hposted, fun hbad => ?_, fun hok => ?_⟩
    · rw [if_pos hbad] at hexec
      exact hexec
    · rw [if_neg (Nat.not_lt.2 hok)] at hexec
      obtain ⟨t', hleaves⟩ := finishExchange_exchanges (s.modLaunch t.id.launch fun l => { l with posts := l.posts.filter fun q => q ≠ p }) c t z d p.a g n 1
      exact ⟨_, _, t', exchange_exchanged t p.a g n, hexec, hleaves⟩

end Sys2Proof.Machine
end

section
/-! PROOFS. Bytes of stash and their copies (R311, R340, R364): what the queues move. -/

namespace Sys2Proof.Machine

/-! ## Bytes of stash -/

@[simp] theorem stashGet_stashPut (c : Cluster) (a x : Nat) (b : Byte) : stashGet (stashPut c a b) x = if x = a then b else stashGet c x := by
  simp [stashGet, stashPut]

theorem stashGet_stashPuts (bs : List Byte) (c : Cluster) (a x : Nat) :
    stashGet (stashPuts c a bs) x = if a ≤ x then (bs[x - a]?).getD (stashGet c x) else stashGet c x := by
  induction bs generalizing c a with
  | nil => simp [stashPuts]
  | cons b r ih =>
    rw [stashPuts, ih, stashGet_stashPut]
    rcases Nat.lt_trichotomy x a with h | h | h
    · simp [show ¬ a + 1 ≤ x by omega, show ¬ a ≤ x by omega, show x ≠ a by omega]
    · simp [h]
    · have hsub : x - a = (x - (a + 1)) + 1 := by omega
      simp [show a + 1 ≤ x by omega, show a ≤ x by omega, show x ≠ a by omega, hsub]

theorem stashPuts_full (bs : List Byte) (c : Cluster) (a : Nat) : (stashPuts c a bs).full = c.full := by
  induction bs generalizing c a with
  | nil => rfl
  | cons b r ih => rw [stashPuts, ih]; rfl

theorem poisonRun_stash (c : Cluster) (src dst n : Nat) : (poisonRun c src dst n).stash = c.stash := by
  unfold poisonRun
  refine List.foldlRecOn (motive := fun (y : Cluster) => y.stash = c.stash) _ _ rfl fun y hy g _ => ?_
  dsimp only
  split_ifs
  · exact hy
  · exact hy
  · exact hy

/-- A copied run of bytes, and nothing else, is what stood at its source. -/
theorem stashGet_stashCopy (c : Cluster) (src dst n x : Nat) :
    stashGet (stashCopy c src dst n) x = if dst ≤ x ∧ x < dst + n then stashGet c (src + (x - dst)) else stashGet c x := by
  have hputs : stashGet (stashCopy c src dst n) x = stashGet (stashPuts c dst (stashBytes c src n)) x := by
    rw [stashGet, stashCopy, poisonRun_stash]; rfl
  rw [hputs, stashGet_stashPuts, stashBytes]
  by_cases h1 : dst ≤ x <;> by_cases h2 : x - dst < n
  · simp [h1, h2, show x < dst + n by omega]
  · simp [h1, h2, show ¬ x < dst + n by omega]
  · simp [h1]
  · simp [h1]

/-! ## Copies of several elements -/

/-- `n` elements of `w` bytes copied one after another, element `i` from `src i` to `dst i`. -/
def copyElems (src dst : Nat → Nat) (w n : Nat) (c : Cluster) : Cluster :=
  (List.range n).foldl (fun c i => stashCopy c (src i) (dst i) w) c

theorem copyElems_succ (src dst : Nat → Nat) (w n : Nat) (c : Cluster) :
    copyElems src dst w (n + 1) c = stashCopy (copyElems src dst w n c) (src n) (dst n) w := by
  simp [copyElems, List.range_succ]

/-- Bytes off every destination stay. -/
theorem stashGet_copyElems_off {src dst : Nat → Nat} {w n x : Nat} (c : Cluster) (h : ∀ e, e < n → x < dst e ∨ dst e + w ≤ x) :
    stashGet (copyElems src dst w n c) x = stashGet c x := by
  induction n with
  | zero => rfl
  | succ n ih =>
    have hn := h n (Nat.lt_succ_self n)
    rw [copyElems_succ, stashGet_stashCopy, if_neg (by omega), ih fun e he => h e (Nat.lt_succ_of_lt he)]

/-- Destinations off one another and off every source hold the elements. -/
theorem stashGet_copyElems {src dst : Nat → Nat} {w n : Nat} (c : Cluster)
    (hsrc : ∀ e f, e < n → f < n → src e + w ≤ dst f ∨ dst f + w ≤ src e) (hdst : ∀ e f, e < f → f < n → dst e + w ≤ dst f ∨ dst f + w ≤ dst e)
    {e y : Nat} (he : e < n) (hy : y < w) : stashGet (copyElems src dst w n c) (dst e + y) = stashGet c (src e + y) := by
  induction n with
  | zero => omega
  | succ n ih =>
    rw [copyElems_succ, stashGet_stashCopy]
    rcases Nat.lt_succ_iff_lt_or_eq.1 he with h | rfl
    · have hoff := hdst e n h (Nat.lt_succ_self n)
      rw [if_neg (by omega)]
      exact ih (fun i j hi hj => hsrc i j (by omega) (by omega)) (fun i j hij hj => hdst i j hij (by omega)) h
    · rw [if_pos ⟨by omega, by omega⟩, Nat.add_sub_cancel_left]
      refine stashGet_copyElems_off c fun f hf => ?_
      have hoff := hsrc e f he (by omega)
      omega

/-! ## Full/empty bits (R340) -/

theorem isFull_setFulls (gs : List Nat) (c : Cluster) (x : Nat) :
    isFull (gs.foldl (fun c g => setFull c g true) c) x = (decide (x ∈ gs) || isFull c x) := by
  induction gs generalizing c with
  | nil => simp
  | cons g r ih =>
    rw [List.foldl_cons, ih]
    by_cases h : x = g <;> simp [isFull, setFull, h]

theorem setFulls_stash (gs : List Nat) (c : Cluster) : (gs.foldl (fun c g => setFull c g true) c).stash = c.stash :=
  List.foldlRecOn (motive := fun (y : Cluster) => y.stash = c.stash) _ _ rfl fun _ hy _ _ => hy

end Sys2Proof.Machine
end

section
/-! PROOFS. Stage queues and signals (R240, R241, R433, R662 to R664, R670): O41. -/

namespace Sys2Proof.Machine

/-! ## Waiting, and queues of a launch (R240) -/

theorem stands_of {i : Instr} {s s' : State} {c : Cur} {t : Team} {p : Park} (h : exec i s = .next s') (hs : SameButCounters (waitHere s c t p) s') :
    Stands i s c t p := by
  obtain ⟨t', hwaits⟩ := waitHere_waits s c t p
  exact ⟨s', _, t', h, hwaits, hs⟩

theorem goes_of {i : Instr} {s s1 : State} {c : Cur} {t : Team} {z : BitVec 1} (h : exec i s = .next (finishShort s1 c t z [] 1)) :
    Goes i s s1 c t z c.next := by
  obtain ⟨t', hleaves⟩ := finishShort_leaves s1 c t z [] 1
  exact ⟨_, t', h, hleaves⟩

theorem QInst.is_iff {q : QInst} {cl st : Nat} : q.is cl st = true ↔ q.cluster = cl ∧ q.stage = st := by simp [QInst.is]

/-- A state that differs in its stashes alone, with one queue of the team's launch changed. -/
theorem instChanged_modInst {s s1 : State} (h : { s1 with clusters := s.clusters } = s) (t : Team) (st : Nat) (f : QInst → QInst) :
    InstChanged s (s1.modInst t.id.launch t.id.cluster st f) t st f where
  inst l hl := by
    have hl1 : s1.launches = s.launches := (congrArg State.launches h :)
    simp [State.modInst, State.modLaunch, State.launch, Tbl.getD, hl1, hl, QInst.is_iff]
  others j hj := by
    have hl1 : s1.launches = s.launches := (congrArg State.launches h :)
    simp [State.modInst, State.modLaunch, State.launch, Tbl.getD, hl1, hj]
  rest := congrArg (fun y : State => { y with launches := s.launches }) h

/-- Changing a queue leaves the stashes. -/
@[simp] theorem modInst_cluster (s : State) (lk cl st j : Nat) (f : QInst → QInst) : (s.modInst lk cl st f).cluster j = s.cluster j := rfl

theorem modCluster_cluster_ne {s : State} {k j : Nat} (h : j ≠ k) (f : Cluster → Cluster) : (s.modCluster k f).cluster j = s.cluster j := by
  simp [State.modCluster, State.cluster, h]

/-! ## A release at cluster scope that nothing holds up (R327) -/

theorem releaseStall_waits {s : State} {c : Cur} {t : Team} (hidle : t.sched.relActive = false) (h : t.sync.earlierDone t.sync.nextEntry = false)
    (scope : Nat) (go : State → Team → State) : releaseStall s c t scope go = waitHere s c t .rel := by
  simp [releaseStall, hidle, h]

theorem releaseStall_cluster {s : State} {c : Cur} {t : Team} (hidle : t.sched.relActive = false) (h : t.sync.earlierDone t.sync.nextEntry = true)
    (go : State → Team → State) : releaseStall s c t 1 go = go s t := by
  simp [releaseStall, hidle, h]

/-! ## The checks of R662 -/

theorem queueCheck_none {s : State} {c : Cur} {t : Team} {st : Option Nat} (h : ∀ x, st = some x → NoQueue s t x) (a b : BitVec 6)
    (go : QInst → Stage → Nat → Nat → State) :
    queueCheck s c t st a b go = s.raiseQ c t 0xA6 (st.getD 15) (rdS t c b.toNat).toNat := by
  unfold queueCheck
  cases st with
  | none => simp
  | some x =>
    rcases h x rfl with hland | hstage | hinst
    · simp [hland]
    · simp [hstage]
    · cases hg : s.stageOf t x <;> simp [hinst, hg]

/-- The checks in their order, and what comes when they are passed. -/
theorem queueChecked_of {i : Instr} {s : State} {c : Cur} {t : Team} {x : Nat} {q : QInst} {g : Stage} {a b : BitVec 6}
    {go : QInst → Stage → Nat → Nat → State} {p : Prop} (hq : QueueAt s t x q g) (he : exec i s = .next (queueCheck s c t (some x) a b go))
    (hgo : 0 < (rdS t c b.toNat).toNat → (rdS t c b.toNat).toNat ≤ g.depth →
      exec i s = .next (go q g (rdS t c a.toNat).toNat (rdS t c b.toNat).toNat) → p) :
    QueueChecked i s c t q g (rdS t c a.toNat).toNat (rdS t c b.toNat).toNat p := by
  simp only [queueCheck, hq.here, hq.stage, hq.inst, Option.bind_some, Option.map_some, Bool.false_eq_true, if_false] at he
  refine ⟨fun hbad => ?_, fun h0 h64 hd => ⟨fun hal => ?_, fun hal hin => ?_, fun hal hin => ?_⟩⟩
  · rw [if_pos hbad] at he
    exact he
  all_goals rw [if_neg (by omega)] at he
  · rw [if_pos hal] at he
    exact he
  all_goals rw [if_neg (not_not.2 hal)] at he
  · rw [if_pos (by simp [hin])] at he
    exact he
  · rw [if_neg (by simp [hin])] at he
    exact hgo h0 hd he

/-! ## Elements of a queue (R240) -/

/-- Two of up to `depth` elements from one on lie in places of their own. -/
theorem slots_apart {base h depth w e f : Nat} (hef : e < f) (hf : f < depth) :
    base + (h + e) % depth * w + w ≤ base + (h + f) % depth * w ∨ base + (h + f) % depth * w + w ≤ base + (h + e) % depth * w := by
  have hne : (h + e) % depth ≠ (h + f) % depth := by
    intro heq
    have hmod : e ≡ f [MOD depth] := Nat.ModEq.add_left_cancel' h heq
    have := Nat.ModEq.eq_of_lt_of_lt hmod (by omega) hf
    omega
  rcases Nat.lt_or_gt_of_ne hne with hlt | hlt
  · left
    have := Nat.mul_le_mul_right w hlt
    rw [Nat.succ_mul] at this
    omega
  · right
    have := Nat.mul_le_mul_right w hlt
    rw [Nat.succ_mul] at this
    omega

theorem slot_eq {g : Stage} (h : 0 < g.depth) (q : QInst) (j : Nat) : q.slot g j = q.base + (q.head + j) % g.depth * (g.elsz * 8) := by
  rw [QInst.slot, show max 1 g.depth = g.depth by omega]

/-! ## `qpush` (R662, R664) -/

/-- The elements of a push stand behind the last, from their source on. -/
theorem pushed_stash {q : QInst} {g : Stage} (h : 0 < g.depth) {adr n : Nat} (hroom : q.cnt + n ≤ g.depth) (cl : Cluster) :
    let w := g.elsz * 8
    let dst_ := fun j => q.base + (q.head + q.cnt + j) % g.depth * w
    let cl1 := copyElems (fun i => adr + i * w) (fun i => q.slot g (q.cnt + i)) w n cl
    (∀ x, (∀ e, e < n → x < dst_ e ∨ dst_ e + w ≤ x) → stashGet cl1 x = stashGet cl x) ∧
    ((∀ e, e < n → dst_ e + w ≤ adr ∨ adr + n * w ≤ dst_ e) → ∀ e y, e < n → y < w → stashGet cl1 (dst_ e + y) = stashGet cl (adr + e * w + y)) := by
  intro w dst_ cl1
  have hslot : (fun i => q.slot g (q.cnt + i)) = dst_ := funext fun i => by rw [slot_eq h, ← Nat.add_assoc]
  have hcl1 : cl1 = copyElems (fun i => adr + i * w) dst_ w n cl := by rw [← hslot]
  rw [hcl1]
  refine ⟨fun x hx => stashGet_copyElems_off cl hx, fun hoff e y he hy => stashGet_copyElems cl (fun i f hi hf => ?_) (fun i f hif hf => ?_) he hy⟩
  · have hin : i * w + w ≤ n * w := by rw [← Nat.succ_mul]; exact Nat.mul_le_mul_right w hi
    rcases hoff f hf with h1 | h1
    · exact .inr (by omega)
    · exact .inl (by omega)
  · exact slots_apart hif (by omega)

section
variable {s : State} {c : Cur} {t : Team} {q : QInst} {g : Stage} {adr n : Nat}

/-- The machine after a push of `n` elements. -/
def State.pushed (s : State) (t : Team) (q : QInst) (g : Stage) (adr n : Nat) : State :=
  (s.modCluster t.id.cluster (copyElems (fun i => adr + i * (g.elsz * 8)) (fun i => q.slot g (q.cnt + i)) (g.elsz * 8) n)).modInst
    t.id.launch t.id.cluster q.stage fun q => { q with cnt := q.cnt + n }

/-- R662, R664: what a push does once its checks are passed. -/
def pushChecked (s : State) (c : Cur) (t : Team) (z : BitVec 1) (q : QInst) (g : Stage) (adr n : Nat) : State :=
  if q.cnt + n > g.depth then (waitHere s c t .qpush).count t.id.ctx 63 1
  else if (!t.sync.stashDone) = true then waitHere s c t .bank
  else releaseStall s c t 1 fun s t => finishShort (s.pushed t q g adr n) c t z [] 1

theorem pushed_instChanged (s : State) (t : Team) (q : QInst) (g : Stage) (adr n : Nat) :
    InstChanged s (s.pushed t q g adr n) t q.stage fun q => { q with cnt := q.cnt + n } := instChanged_modInst (by rfl) t q.stage _

theorem pushed_cluster (s : State) (t : Team) (q : QInst) (g : Stage) (adr n : Nat) :
    (s.pushed t q g adr n).cluster t.id.cluster =
      copyElems (fun i => adr + i * (g.elsz * 8)) (fun i => q.slot g (q.cnt + i)) (g.elsz * 8) n (s.cluster t.id.cluster) := modCluster_cluster ..
theorem pushed_cluster_ne {j : Nat} (h : j ≠ t.id.cluster) (s : State) (q : QInst) (g : Stage) (adr n : Nat) :
    (s.pushed t q g adr n).cluster j = s.cluster j := modCluster_cluster_ne h _

/-- R663: a cluster whose stash has taken `m` elements of a queue: their bytes, their full bits, and the mapped lines that they touch. -/
def takenCluster (k : Nat) (q : QInst) (g : Stage) (adr m : Nat) (cl : Cluster) : Cluster :=
  let w := g.elsz * 8
  let cl := (granules adr (m * w)).foldl (fun cl x => setFull cl x true) (copyElems (q.slot g) (fun i => adr + i * w) w m cl)
  { cl with maps := Tbl.mapV cl.maps fun _ x => if k ∈ x.teams ∧ x.base ≤ adr ∧ adr < x.base + x.len ∧ m ≠ 0 then x.touch (adr - x.base) (m * w) else x }

/-- The machine after a take of `m` elements, by a signal or not. -/
def State.taken (s : State) (k : Nat) (t : Team) (q : QInst) (g : Stage) (adr m : Nat) (sig : Bool) : State :=
  (s.modCluster t.id.cluster (takenCluster k q g adr m)).modInst t.id.launch t.id.cluster q.stage fun q =>
    { q with cnt := q.cnt - m, head := (q.head + m) % max 1 g.depth, wake := q.wake && !sig }

theorem put_put {α : Type} (t : Tbl α) (k : Nat) (a b : α) : (t.put k a).put k b = t.put k b := by
  induction t with
  | nil => simp [Tbl.put]
  | cons p r ih =>
    obtain ⟨j, x⟩ := p
    simp only [Tbl.put]
    split_ifs with h1 h2
    · simp [Tbl.put]
    · simp [Tbl.put]
    · simp [Tbl.put, h1, h2, ih]

theorem modCluster_modCluster (s : State) (k : Nat) (f f' : Cluster → Cluster) : (s.modCluster k f).modCluster k f' = s.modCluster k fun x => f' (f x) := by
  simp [State.modCluster, Tbl.upd, put_put]

theorem queueTake_eq (s : State) (c : Cur) (t : Team) (z : BitVec 1) (d : Nat) (q : QInst) (g : Stage) (adr n : Nat) (sig : Bool) :
    queueTake s c t z d q g adr n sig =
      finishLong (s.taken c.team t q g adr (min n q.cnt) sig) c t z [.s d (BitVec.ofNat 64 (min n q.cnt + b2n sig * 2 ^ 63))] 1 := by
  unfold queueTake
  simp only [modCluster_modCluster]
  rfl

theorem taken_instChanged (h : 0 < g.depth) (s : State) (k : Nat) (t : Team) (q : QInst) (adr m : Nat) (sig : Bool) :
    InstChanged s (s.taken k t q g adr m sig) t q.stage fun q => { q with cnt := q.cnt - m, head := (q.head + m) % g.depth, wake := q.wake && !sig } := by
  have hdepth : max 1 g.depth = g.depth := by omega
  unfold State.taken
  rw [hdepth]
  exact instChanged_modInst (by rfl) t q.stage _

/-- The elements taken stand at their destination, in order, and their granules are full. -/
theorem takenCluster_stash (h : 0 < g.depth) (k : Nat) (q : QInst) (adr m : Nat) (cl : Cluster) :
    let w := g.elsz * 8
    let from_ := fun j => q.base + (q.head + j) % g.depth * w
    let cl1 := takenCluster k q g adr m cl
    (∀ x, x < adr ∨ adr + m * w ≤ x → stashGet cl1 x = stashGet cl x) ∧
    ((∀ e, e < m → from_ e + w ≤ adr ∨ adr + m * w ≤ from_ e) → ∀ e y, e < m → y < w → stashGet cl1 (adr + e * w + y) = stashGet cl (from_ e + y)) ∧
    ∀ x ∈ granules adr (m * w), isFull cl1 x = true := by
  intro w from_ cl1
  have hslot : q.slot g = from_ := funext fun i => slot_eq h q i
  have hstash : ∀ x, stashGet cl1 x = stashGet (copyElems from_ (fun i => adr + i * w) w m cl) x := fun x => by
    rw [← hslot]
    exact congrArg (fun y => Tbl.getD y x 0) (setFulls_stash ..)
  have hin : ∀ e, e < m → e * w + w ≤ m * w := fun e he => by rw [← Nat.succ_mul]; exact Nat.mul_le_mul_right w he
  refine ⟨fun x hx => ?_, fun hoff e y he hy => ?_, fun x hx => ?_⟩
  · rw [hstash]
    refine stashGet_copyElems_off cl fun e he => ?_
    have := hin e he
    omega
  · rw [hstash]
    refine stashGet_copyElems (dst := fun i => adr + i * w) cl (fun i f hi hf => ?_) (fun i f hif hf => ?_) he hy
    · have := hin f hf
      rcases hoff i hi with h1 | h1
      · exact .inl (by omega)
      · exact .inr (by omega)
    · have hif' : i * w + w ≤ f * w := by rw [← Nat.succ_mul]; exact Nat.mul_le_mul_right w hif
      exact .inl (by omega)
  · refine (isFull_setFulls (granules adr (m * w)) (copyElems (q.slot g) (fun i => adr + i * w) w m cl) x).trans ?_
    simp [hx]

/-- What a form of `qpop` or `qtry` does when it takes. -/
theorem takes_of {i : Instr} {c : Cur} {z : BitVec 1} {d : BitVec 6} {sig : Bool} (h : 0 < g.depth)
    (he : exec i s = .next (queueTake s c t z d.toNat q g adr n sig)) :
    let w := g.elsz * 8
    let m := min n q.cnt
    let from_ := fun j => q.base + (q.head + j) % g.depth * w
    ∃ s1, GoesLong i s s1 c t z d.toNat (BitVec.ofNat 64 (m + if sig = true then 2 ^ 63 else 0)) ∧
      InstChanged s s1 t q.stage (fun q => { q with cnt := q.cnt - m, head := (q.head + m) % g.depth, wake := q.wake && !sig }) ∧
      (∀ j x, j ≠ t.id.cluster ∨ x < adr ∨ adr + m * w ≤ x → stashGet (s1.cluster j) x = stashGet (s.cluster j) x) ∧
      ((∀ e, e < m → from_ e + w ≤ adr ∨ adr + m * w ≤ from_ e) →
        ∀ e y, e < m → y < w → stashGet (s1.cluster t.id.cluster) (adr + e * w + y) = stashGet (s.cluster t.id.cluster) (from_ e + y)) ∧
      ∀ x ∈ granules adr (m * w), isFull (s1.cluster t.id.cluster) x = true := by
  intro w m from_
  have hcl : (s.taken c.team t q g adr m sig).cluster t.id.cluster = takenCluster c.team q g adr m (s.cluster t.id.cluster) := modCluster_cluster ..
  obtain ⟨hkept, hmoved, hfull⟩ := takenCluster_stash h c.team q adr m (s.cluster t.id.cluster)
  have hvalue : m + (if sig = true then 2 ^ 63 else 0) = m + b2n sig * 2 ^ 63 := by cases sig <;> rfl
  rw [queueTake_eq] at he
  obtain ⟨t', hleaves⟩ := finishLong_leaves (s.taken c.team t q g adr m sig) c t z d.toNat (BitVec.ofNat 64 (m + b2n sig * 2 ^ 63))
  refine ⟨s.taken c.team t q g adr m sig, ⟨_, t', he, hvalue ▸ hleaves⟩, taken_instChanged h .., fun j x hjx => ?_, hcl ▸ hmoved, hcl ▸ hfull⟩
  by_cases hj : j = t.id.cluster
  · subst hj
    rw [hcl]
    exact hkept x (hjx.resolve_left (not_not.2 rfl))
  · exact congrArg (stashGet · x) (modCluster_cluster_ne hj _)

end

/-! ## The forms -/

section
variable {s : State} {c : Cur} {t : Team} (hp : Performs s c t) (z : BitVec 1) (d a b : BitVec 6)
include hp

/-- R662: the stage that a push goes to; 15 names none. -/
theorem qpush_noQueue (h : ∀ g, s.stageOf t t.id.stage = some g → g.outq ≠ 15 → NoQueue s t g.outq) :
    exec (.qpush z a b) s = .next (s.raiseQ c t 0xA6 (((s.stageOf t t.id.stage).map fun g => g.outq).getD 15) (rdS t c b.toNat).toNat) := by
  refine (withCur_eq hp _).trans (congrArg _ ((queueCheck_none (fun x hx => ?_) a b _).trans ?_))
  · simp only [Option.bind_eq_some_iff, Option.map_eq_some_iff] at hx
    obtain ⟨_, ⟨g, hg, rfl⟩, hx⟩ := hx
    split_ifs at hx with h15
    cases hx
    exact h g hg h15
  · congr 1
    cases s.stageOf t t.id.stage with
    | none => rfl
    | some g => by_cases h15 : g.outq = 15 <;> simp [h15]

theorem qpush_checked {own g : Stage} {q : QInst} (hown : s.stageOf t t.id.stage = some own) (h15 : own.outq ≠ 15) (hq : QueueAt s t own.outq q g)
    {p : Prop} (hgo : 0 < (rdS t c b.toNat).toNat → (rdS t c b.toNat).toNat ≤ g.depth →
      exec (.qpush z a b) s = .next (pushChecked s c t z q g (rdS t c a.toNat).toNat (rdS t c b.toNat).toNat) → p) :
    QueueChecked (.qpush z a b) s c t q g (rdS t c a.toNat).toNat (rdS t c b.toNat).toNat p := by
  have hout : (((s.stageOf t t.id.stage).map fun g => g.outq).bind fun x => if x = 15 then none else some x) = some own.outq := by
    simp [hown, h15]
  refine queueChecked_of hq ((withCur_eq hp _).trans (congrArg _ ?_)) hgo
  simp only [hout]
  rfl

/-- A take is checked against the queue of the team's own stage. -/
theorem qpop_checked {g : Stage} {q : QInst} (hq : QueueAt s t t.id.stage q g) {p : Prop} (hgo : 0 < (rdS t c b.toNat).toNat →
    (rdS t c b.toNat).toNat ≤ g.depth → exec (.qpop z d a b) s = .next (
      if (!t.sync.stashDone) = true then waitHere s c t .bank
      else if q.cnt = 0 ∧ (!q.wake) = true then waitHere s c t .qpop
      else queueTake s c t z d.toNat q g (rdS t c a.toNat).toNat (rdS t c b.toNat).toNat (q.cnt = 0)) → p) :
    QueueChecked (.qpop z d a b) s c t q g (rdS t c a.toNat).toNat (rdS t c b.toNat).toNat p :=
  queueChecked_of (go := fun q g adr n => if (!t.sync.stashDone) = true then waitHere s c t .bank
    else if q.cnt = 0 ∧ (!q.wake) = true then waitHere s c t .qpop else queueTake s c t z d.toNat q g adr n (q.cnt = 0)) hq (withCur_eq hp _) hgo
theorem qtry_checked {g : Stage} {q : QInst} (hq : QueueAt s t t.id.stage q g) {p : Prop} (hgo : 0 < (rdS t c b.toNat).toNat →
    (rdS t c b.toNat).toNat ≤ g.depth → exec (.qtry z d a b) s = .next (
      if (!t.sync.stashDone) = true then waitHere s c t .bank
      else queueTake s c t z d.toNat q g (rdS t c a.toNat).toNat (rdS t c b.toNat).toNat false) → p) :
    QueueChecked (.qtry z d a b) s c t q g (rdS t c a.toNat).toNat (rdS t c b.toNat).toNat p :=
  queueChecked_of (go := fun q g adr n => if (!t.sync.stashDone) = true then waitHere s c t .bank
    else queueTake s c t z d.toNat q g adr n false) hq (withCur_eq hp _) hgo

theorem takes_noQueue (h : NoQueue s t t.id.stage) :
    exec (.qpop z d a b) s = .next (s.raiseQ c t 0xA6 t.id.stage (rdS t c b.toNat).toNat) ∧
    exec (.qtry z d a b) s = .next (s.raiseQ c t 0xA6 t.id.stage (rdS t c b.toNat).toNat) := by
  have hst : ∀ x, some t.id.stage = some x → NoQueue s t x := fun x hx => Option.some.inj hx ▸ h
  exact ⟨(withCur_eq hp _).trans (congrArg _ (queueCheck_none hst a b _)), (withCur_eq hp _).trans (congrArg _ (queueCheck_none hst a b _))⟩

/-! ### Signals (R433, R670) -/

theorem signalQ_refused (h : t.id.landed = true ∨ (s.launch t.id.launch).inst t.id.cluster (rdS t c a.toNat).toNat = none) :
    exec (.signalQ z a) s = .next (s.raiseQ c t 0xA8 (rdS t c a.toNat).toNat 0) :=
  (withCur_eq hp _).trans (congrArg _ (if_pos (by simpa using h)))

theorem signalQ_wakes {q : QInst} (hhome : t.id.landed = false) (hq : (s.launch t.id.launch).inst t.id.cluster (rdS t c a.toNat).toNat = some q) :
    exec (.signalQ z a) s = .next (finishShort (s.modInst t.id.launch t.id.cluster (rdS t c a.toNat).toNat fun q => { q with wake := true }) c t z [] 1) :=
  (withCur_eq hp _).trans (congrArg _ (if_neg (by simp [hhome, hq])))

theorem signalM_refused (h : t.id.landed = true) : exec (.signalM z a) s = .next (s.raiseQ c t 0xA8 (rdS t c a.toNat).toNat 0) :=
  (withCur_eq hp _).trans (congrArg _ (if_pos h))

theorem signalM_goes (h : t.id.landed = false) :
    exec (.signalM z a) s = .next (finishMem s c t z [{ kind := .sig, va := (rdS t c a.toNat).toNat, esz := 8 }] [] [] 1) :=
  (withCur_eq hp _).trans (congrArg _ (if_neg (by simp [h])))

end

/-- Settles O41: each form's equation above, with its outcomes. -/
theorem queueForms : Obligations.QueueForms := by
  unfold Obligations.QueueForms
  intro s c t z d a b hp adr n push pop try_
  refine ⟨fun hnone => ?_, fun g hg h15 => ?_, fun g hg h15 hq => ?_, takes_noQueue hp z d a b, fun own q g hown h15 hq => ?_, fun q g hq => ?_,
    signalQ_refused hp z a, fun q hhome hq => ?_, signalM_refused hp z a, fun hhome => ?_⟩
  · exact (qpush_noQueue hp z a b (by simp [hnone])).trans (by rw [hnone]; rfl)
  · exact (qpush_noQueue hp z a b (by simp [hg, h15])).trans (by rw [hg, ← h15]; rfl)
  · refine (qpush_noQueue hp z a b fun g' hg' _ => ?_).trans (by rw [hg]; rfl)
    cases hg.symm.trans hg'
    exact hq
  · refine qpush_checked hp z a b hown h15 hq fun hn hd he => ⟨fun hroom => ?_, fun hroom hdone => ?_, fun hroom hdone hidle => ⟨fun hrel => ?_, fun hrel => ?_⟩⟩
    · rw [pushChecked, if_pos hroom] at he
      exact stands_of he (sameBut_count ..)
    all_goals rw [pushChecked, if_neg (Nat.not_lt.2 hroom)] at he
    · rw [if_pos (by simp [hdone])] at he
      exact stands_of he (.refl _)
    all_goals rw [if_neg (by simp [hdone])] at he
    · rw [releaseStall_waits hidle hrel] at he
      exact stands_of he (.refl _)
    · rw [releaseStall_cluster hidle hrel] at he
      obtain ⟨hkept, hmoved⟩ := pushed_stash (q := q) (g := g) (adr := adr) (by omega) hroom (s.cluster t.id.cluster)
      have hcl := pushed_cluster s t q g adr n
      refine ⟨s.pushed t q g adr n, goes_of he, pushed_instChanged .., fun j x hjx => ?_, hcl ▸ hmoved⟩
      by_cases hj : j = t.id.cluster
      · subst hj
        rw [hcl]
        exact hkept x (hjx.resolve_left (not_not.2 rfl))
      · rw [pushed_cluster_ne hj]
  · refine ⟨qpop_checked hp z d a b hq fun hn hd he => ⟨fun hdone => ?_, fun hdone h0 hwake => ?_, fun hdone h0 hwake => ?_, fun hdone hpos => ?_⟩,
      qtry_checked hp z d a b hq fun hn hd he => ⟨fun hdone => ?_, fun hdone => ?_⟩⟩
    · rw [if_pos (by simp [hdone])] at he
      exact stands_of he (.refl _)
    · rw [if_neg (by simp [hdone]), if_pos (by simp [h0, hwake])] at he
      exact stands_of he (.refl _)
    · rw [if_neg (by simp [hdone]), if_neg (by simp [hwake]), decide_eq_true h0] at he
      exact takes_of (by omega) he
    · rw [if_neg (by simp [hdone]), if_neg (by omega), decide_eq_false (by omega)] at he
      exact takes_of (by omega) he
    · rw [if_pos (by simp [hdone])] at he
      exact stands_of he (.refl _)
    · rw [if_neg (by simp [hdone])] at he
      exact takes_of (by omega) he
  · exact ⟨_, goes_of (signalQ_wakes hp z a hhome hq), instChanged_modInst rfl .., rfl⟩
  · exact ⟨_, _, signalM_goes hp z a hhome, finishAt_leaves ..⟩

end Sys2Proof.Machine
end

section
/-! PROOFS. The restore of a saved team (R258, R263), and the refutation of O51: the ready order of a partition's saved teams may name a team twice. -/

namespace Sys2Proof.Machine

/-! ## The slot of a team that comes back (R72, R263) -/

theorem get?_of_team_saved {s : State} {k : Nat} (h : (s.team k).id.loc = .saved) : Tbl.get? s.teams k = some (s.team k) := by
  unfold State.team Tbl.getD at h ⊢
  cases hk : Tbl.get? s.teams k with
  | none => simp [hk] at h
  | some t => rfl

/-- A write of an entry that a test does not pick, over another that it does not pick, leaves what the test picks. -/
theorem filter_put {α : Type} {p : Nat × α → Bool} {t : Tbl α} {k : Nat} {a b : α} (hb : Tbl.get? t k = some b) (ha : p (k, a) = false)
    (hold : p (k, b) = false) : (Tbl.put t k a).filter p = t.filter p := by
  induction t with
  | nil => simp at hb
  | cons x r ih =>
    obtain ⟨j, c⟩ := x
    simp only [Tbl.put]
    split_ifs with h1 h2
    · simp [ha]
    · subst h2
      obtain rfl : c = b := by simpa [Tbl.get?] using hb
      simp [ha, hold]
    · rw [List.filter_cons, List.filter_cons, ih (by simpa [Tbl.get?, h2] using hb)]

/-- A change of a team that is not resident before or after it leaves the free slots. -/
theorem freeSlot_setTeam {s : State} {k : Nat} {t t' : Team} (h : Tbl.get? s.teams k = some t) (ht : t.resident = false) (ht' : t'.resident = false)
    (core : Nat) : (s.setTeam k t').freeSlot core = s.freeSlot core := by
  unfold State.freeSlot State.onCore
  rw [setTeam_teams, filter_put h (by simp [ht']) (by simp [ht])]

theorem get?_modTeam_same {s : State} {k : Nat} {t : Team} (h : Tbl.get? s.teams k = some t) (f : Team → Team) :
    Tbl.get? (s.modTeam k f).teams k = some (f t) := by
  simp [State.modTeam, h]

/-- R72, R76: a team that takes a slot stands in it, and keeps its registers and flow. -/
theorem newSlot_team {s : State} {k : Nat} {t : Team} (h : Tbl.get? s.teams k = some t) (slot : Nat) :
    (∃ y, Tbl.get? (s.newSlot k slot).teams k = some y ∧ y.id = { t.id with slot := slot } ∧ y.regs = t.regs ∧ y.flow = t.flow) ∧
      (s.newSlot k slot).mem = s.mem := by
  unfold State.newSlot
  rw [team_of_get? h]
  dsimp only
  split
  · next hsame =>
    have hslot : slot = t.id.slot := by
      simp only [Bool.and_eq_true, decide_eq_true_eq] at hsame
      exact hsame.1
    exact ⟨⟨t, h, by rw [hslot], rfl, rfl⟩, rfl⟩
  · exact ⟨⟨_, get?_modTeam_same h _, rfl, rfl, rfl⟩, rfl⟩

/-- R253, R263: a team that comes back to a core is resident in its lowest free slot. -/
theorem reside_team {s : State} {k core n : Nat} {t : Team} (h : Tbl.get? s.teams k = some t) (hn : s.freeSlot core = some n) :
    (∃ y, Tbl.get? (s.reside k core).teams k = some y ∧ y.id = { t.id with loc := .resident, ready := true, slot := 16 * core + n } ∧
      y.regs = t.regs ∧ y.flow = t.flow) ∧ (s.reside k core).mem = s.mem := by
  obtain ⟨⟨y, hy, hid, hregs, hflow⟩, hmem⟩ := newSlot_team h (16 * core + n)
  simp only [State.reside, hn]
  exact ⟨⟨_, get?_modTeam_same hy _, by rw [hid], hregs, hflow⟩, hmem⟩

/-! ## The restore of a unit (R258, R263) -/

/-- R263: the unit of a team on the cluster it comes back to: what the launch holds there, then its teams in ready order. -/
def State.unitRestored (s : State) (t : Team) (cl : Nat) : State :=
  let s1 := (s.moveUnit t.id.launch t.id.cluster cl).restoreUnits t.id.launch cl
  ((s1.part t.id.part).saved.filter fun j => (s.unitOf t).any fun x => x.1 = j).foldl (fun s j => s.restoreTeam j) s1

theorem teamRestore_saved {s : State} {cl : Nat} (hmay : s.mayRestoreTeam s.arg.n0 (s.team s.arg.n0) = true) (hloc : (s.team s.arg.n0).id.loc = .saved)
    (hplace : s.unitPlace (s.unitOf (s.team s.arg.n0)) (s.launch (s.team s.arg.n0).id.launch) (s.team s.arg.n0).id.cluster = some cl) :
    Does .teamRestore s (s.unitRestored (s.team s.arg.n0) cl) := by
  change execTeamRestore s = _
  simp only [execTeamRestore, hmay, hloc, hplace]
  rfl

/-- Nothing of a launch that is saved on a cluster is brought back there. -/
theorem restoreUnits_nothing {s : State} {lk cl : Nat} (hqs : ∀ q ∈ (s.launch lk).qs, q.saved = none) (htiles : (s.cluster cl).tiles = []) :
    s.restoreUnits lk cl = s := by
  have hfold : ∀ (l : List QInst) (f : State → QInst → State), (∀ q ∈ l, f s q = s) → l.foldl f s = s := fun l f hf =>
    List.foldlRecOn (motive := fun (y : State) => y = s) l f rfl fun y hy q hq => hy ▸ hf q hq
  unfold State.restoreUnits
  dsimp only
  rw [hfold _ _ fun q hq => by rw [hqs q hq], htiles]
  rfl

/-- R260, R263: what a saved team gets back before it takes a slot: its range of stash, its place in the ready order being given up. -/
def State.broughtBack (s : State) (k : Nat) (t : Team) : State :=
  (((if t.sync.stashLen = 0 then s else s.modCluster t.id.cluster fun c => c.putStash t.sync.stashBase t.sync.stashLen t.sync.saved).modTeam k fun t =>
    { t with sync := { t.sync with saved := {} } }).modPart t.id.part fun P => { P with saved := P.saved.filter fun j => j ≠ k })

theorem broughtBack_teams {s : State} {k : Nat} {t : Team} (h : Tbl.get? s.teams k = some t) :
    (s.broughtBack k t).teams = (s.setTeam k { t with sync := { t.sync with saved := {} } }).teams := by
  have hstash : (if t.sync.stashLen = 0 then s else s.modCluster t.id.cluster fun c => c.putStash t.sync.stashBase t.sync.stashLen t.sync.saved).teams =
      s.teams := by split_ifs <;> rfl
  simp only [State.broughtBack, modPart_teams, State.modTeam, hstash, Tbl.modify, h, setTeam_teams]

theorem broughtBack_mem (s : State) (k : Nat) (t : Team) : (s.broughtBack k t).mem = s.mem := by
  unfold State.broughtBack
  split_ifs <;> rfl

theorem restoreTeam_saved {s : State} {k n : Nat} {t : Team} (h : Tbl.get? s.teams k = some t) (hloc : t.id.loc = .saved)
    (hn : s.freeSlot t.id.core = some n) :
    (∃ y, Tbl.get? (s.restoreTeam k).teams k = some y ∧ y.id = { t.id with loc := .resident, ready := true, slot := 16 * t.id.core + n } ∧
      y.regs = t.regs ∧ y.flow = t.flow) ∧ (s.restoreTeam k).mem = s.mem := by
  have hrestore : s.restoreTeam k = (s.broughtBack k t).reside k t.id.core := by
    unfold State.restoreTeam
    rw [team_of_get? h]
    simp only [hloc]
    rfl
  have hteam : Tbl.get? (s.broughtBack k t).teams k = some { t with sync := { t.sync with saved := {} } } := by simp [broughtBack_teams h]
  have hslot : (s.broughtBack k t).freeSlot t.id.core = some n := by
    have hset := freeSlot_setTeam (t' := { t with sync := { t.sync with saved := {} } }) h (by simp [Team.resident, hloc]) (by simp [Team.resident, hloc]) t.id.core
    rw [hn] at hset
    simpa only [State.freeSlot, State.onCore, broughtBack_teams h] using hset
  obtain ⟨⟨y, hy, hid, hregs, hflow⟩, hmem⟩ := reside_team hteam hslot
  rw [hrestore]
  exact ⟨⟨y, hy, hid, hregs, hflow⟩, hmem.trans (broughtBack_mem ..)⟩

/-- R263: a saved team alone in its unit, which the ready order of saved teams names once, comes back to the lowest free slot of its core. -/
theorem teamRestore_named_once {s : State} {n : Nat} (hmay : s.mayRestoreTeam s.arg.n0 (s.team s.arg.n0) = true)
    (hloc : (s.team s.arg.n0).id.loc = .saved) (hunit : s.unitOf (s.team s.arg.n0) = [(s.arg.n0, s.team s.arg.n0)])
    (hplace : s.unitPlace [(s.arg.n0, s.team s.arg.n0)] (s.launch (s.team s.arg.n0).id.launch) (s.team s.arg.n0).id.cluster =
      some (s.team s.arg.n0).id.cluster)
    (htiles : (s.cluster (s.team s.arg.n0).id.cluster).tiles = []) (hqs : ∀ q ∈ (s.launch (s.team s.arg.n0).id.launch).qs, q.saved = none)
    (hn : s.freeSlot (s.team s.arg.n0).id.core = some n) (honce : ((s.part (s.team s.arg.n0).id.part).saved.filter fun j => s.arg.n0 = j) = [s.arg.n0]) :
    ∃ s1 y, Does .teamRestore s s1 ∧ Tbl.get? s1.teams s.arg.n0 = some y ∧
      y.id = { (s.team s.arg.n0).id with loc := .resident, ready := true, slot := 16 * (s.team s.arg.n0).id.core + n } ∧
      y.regs = (s.team s.arg.n0).regs ∧ y.flow = (s.team s.arg.n0).flow ∧ s1.mem = s.mem := by
  have hdoes := teamRestore_saved hmay hloc (by rw [hunit]; exact hplace)
  have hmove : ∀ lk cl, s.moveUnit lk cl cl = s := fun _ _ => if_pos rfl
  have hrestored : s.unitRestored (s.team s.arg.n0) (s.team s.arg.n0).id.cluster = s.restoreTeam s.arg.n0 := by
    simp only [State.unitRestored, hmove, restoreUnits_nothing hqs htiles, hunit, List.any_cons, List.any_nil, Bool.or_false, honce, List.foldl_cons, List.foldl_nil]
  obtain ⟨⟨y, hy, hid, hregs, hflow⟩, hmem⟩ := restoreTeam_saved (get?_of_team_saved hloc) hloc hn
  exact ⟨_, y, hrestored ▸ hdoes, hy, hid, hregs, hflow, hmem⟩

/-! ## A restore that is made twice -/

/-- A partition of one quarter whose running context has one saved team, which the ready order of saved teams names twice. -/
def savedTwice : State :=
  { parts := [(0, { cfg := { quart := 1 }, running := some 0, saved := [0, 0] })], teams := [(0, { id := { loc := .saved } })] }

theorem savedTwice_unit : savedTwice.unitOf (savedTwice.team 0) = [(0, savedTwice.team 0)] := by decide +kernel
theorem savedTwice_place : savedTwice.unitPlace [(0, savedTwice.team 0)] (savedTwice.launch 0) 0 = some 0 := by decide +kernel
theorem savedTwice_mayRestore : savedTwice.mayRestoreTeam 0 (savedTwice.team 0) = true := by decide +kernel
theorem savedTwice_freeSlot : savedTwice.freeSlot 0 = some 0 := by decide +kernel

/-- The team comes back to slot 0, is resident there, and then takes the next free slot. -/
theorem savedTwice_restored_slot :
    (Tbl.get? (savedTwice.unitRestored (savedTwice.team 0) 0).teams savedTwice.arg.n0).map (fun t => t.id.slot) = some 1 := by decide +kernel

/-- Refutes O51: in the clause on a restore, the ready order of saved teams is a list, and the event restores a team once for each time the list
names it. In `savedTwice`, where the list names the team twice, the team first takes the free slot 0 of its core, and then, resident there,
slot 1; the clause asks for slot 0. The model's saves name a team once (`execQuiescenceSave`
appends teams that are not saved yet), but the statement is about every state. The clause as it is meant is `teamRestore_named_once`. -/
theorem not_schedulingEvents : ¬ Obligations.SchedulingEvents := by
  unfold Obligations.SchedulingEvents
  intro h
  obtain ⟨-, -, -, -, -, -, -, -, -, -, -, -, -, -, -, -, -, -, hrestore, -⟩ := h savedTwice
  obtain ⟨-, -, hplace⟩ := hrestore savedTwice_mayRestore
  obtain ⟨s1, y, hdoes, hy, hid, -⟩ := hplace 0 rfl savedTwice_unit savedTwice_place rfl (by simp [savedTwice, State.launch, Tbl.getD]) savedTwice_freeSlot
  have hrestored : s1 = savedTwice.unitRestored (savedTwice.team 0) 0 :=
    Host.Outcome.next.inj (hdoes.symm.trans (teamRestore_saved savedTwice_mayRestore rfl savedTwice_place))
  have hslot := savedTwice_restored_slot
  rw [← hrestored, hy, Option.map_some, hid] at hslot
  exact absurd hslot (by decide)

end Sys2Proof.Machine
end

section
/-! PROOFS. Lane migration by instructions (R287, R303, R305, R665 to R669): O42. -/

namespace Sys2Proof.Machine

/-- The check of `mret` is that of R667: a governed lane has never migrated. -/
theorem any_hopOf_iff (t : Team) (c : Cur) :
    ((lanesOf (govTeam t c) t.regs.lanes).any fun l => decide (t.hopOf l = 0)) = true ↔ ∃ l ∈ governed t c, t.hopOf l = 0 := by
  rw [show lanesOf (govTeam t c) t.regs.lanes = governed t c from rfl]
  simp

section
variable {s : State} {c : Cur} {t : Team} (hp : Performs s c t) (z : BitVec 1) (d a : BitVec 6)
include hp

/-! ## `mig` (R666) -/

theorem mig_eq (trap : Bool) : mig trap z a s = .next (if (rdS t c a.toNat).toNat / 256 ≠ 0 then s.raiseX c t 0x5E
    else finishShort s c { t with sync := { t.sync with lset := (rdS t c a.toNat).toNat, migTrap := trap } } z [] 1) := withCur_eq hp _

theorem mig_sets (trap : Bool) (h : (rdS t c a.toNat).toNat < 256) : mig trap z a s =
    .next (finishShort s c { t with sync := { t.sync with lset := (rdS t c a.toNat).toNat, migTrap := trap } } z [] 1) := by
  rw [mig_eq hp, if_neg (by omega)]

theorem mig_raises (trap : Bool) (h : 256 ≤ (rdS t c a.toNat).toNat) : mig trap z a s = .next (s.raise c t { cause := 0x5E } (gov t c)) := by
  rw [mig_eq hp, if_pos (by omega)]
  rfl

/-! ## `mret` (R667) -/

theorem mret_raises (h : ∃ l ∈ governed t c, t.hopOf l = 0) : Raises (.mret z) s c t 0x5D :=
  (withCur_eq hp _).trans (congrArg _ (if_pos ((any_hopOf_iff t c).2 h)))

/-- A team whose governed lanes `ls` go home: its flow is as the form leaves it. -/
def returned (s : State) (c : Cur) (t : Team) (f : TeamFlow) : Team :=
  { t with flow := f, sync := { t.sync with leaving := t.sync.leaving ++ (governed t c).map (returning s t) } }

theorem mret_away (h : ∀ l ∈ governed t c, t.hopOf l ≠ 0) (hhome : t.id.landed = false) : exec (.mret z) s = .next
    (finishShort (s.modLaunch t.id.launch fun l => { l with conts := l.conts + (governed t c).length }) c
      (returned s c t { t.flow with pres := t.flow.pres &&& ~~~gov t c, away := t.flow.away ||| gov t c }) z [] 1) := by
  refine (withCur_eq hp _).trans (congrArg _ ((if_neg fun hnone => ?_).trans ?_))
  · obtain ⟨l, hl, hzero⟩ := (any_hopOf_iff t c).1 hnone
    exact h l hl hzero
  · simp only [hhome]
    rfl

theorem mret_landed (h : ∀ l ∈ governed t c, t.hopOf l ≠ 0) (hland : t.id.landed = true) :
    let t1 := returned s c t { t.flow with pres := t.flow.pres &&& ~~~gov t c, exited := t.flow.exited ||| gov t c }
    exec (.mret z) s = .next (if t.flow.pres &&& ~~~gov t c = 0 then
        finishAt s c { t1 with sync := { t1.sync with park := .retire } } 0 c.next { c.entry with done := true } 1
      else finishShort s c t1 z [] 1) := by
  refine (withCur_eq hp _).trans (congrArg _ ((if_neg fun hnone => ?_).trans ?_))
  · obtain ⟨l, hl, hzero⟩ := (any_hopOf_iff t c).1 hnone
    exact h l hl hzero
  · simp only [hland, Bool.true_and, decide_eq_true_eq]
    rfl

/-! ## `mjoin` and `mstat` (R668, R669) -/

theorem mjoin_eq : exec (.mjoin z) s = .next (if t.flow.away = 0 then finishShort s c t.rejoin z [] 1 else waitHere s c t .join) :=
  withCur_eq hp _

theorem mstat_eq : exec (.mstat z d) s = .next (finishLong s c t z [.s d.toNat (BitVec.ofNat 64 (lanesIn t.flow.away + lanesIn t.flow.ret * 2 ^ 16 +
    t.sync.lastRefusal * 2 ^ 32 + t.sync.lset * 2 ^ 40 + if t.sync.migTrap = true then 2 ^ 48 else 0))] 1) := by
  have hbit : b2n t.sync.migTrap * 2 ^ 48 = if t.sync.migTrap = true then 2 ^ 48 else 0 := by cases t.sync.migTrap <;> rfl
  rw [← hbit]
  exact withCur_eq hp _

end

/-- Settles O42, form by form; `mret` splits on whether its team has landed here, and then on whether lanes stay present. -/
theorem migrationForms : Obligations.MigrationForms := by
  unfold Obligations.MigrationForms
  intro s c t z d a hp v g ls gone
  refine ⟨fun hv => ⟨becomes_of (mig_sets hp z a false hv), becomes_of (mig_sets hp z a true hv)⟩,
    fun hv => ⟨mig_raises hp z a false hv, mig_raises hp z a true hv⟩, mret_raises hp z, fun hls => ⟨fun hhome => ?_, fun hland => ⟨fun hleft => ?_, fun hnone => ?_⟩⟩,
    fun h => ?_, fun h => ?_, longS_of (mstat_eq hp z d)⟩
  · obtain ⟨t', hleaves⟩ := finishShort_leaves (s.modLaunch t.id.launch fun l => { l with conts := l.conts + ls.length }) c
      (returned s c t { t.flow with pres := t.flow.pres &&& ~~~g, away := t.flow.away ||| g }) z [] 1
    exact ⟨_, t', mret_away hp z hls hhome, hleaves⟩
  · exact becomes_of ((mret_landed hp z hls hland).trans (congrArg _ (if_neg hleft)))
  · exact ⟨_, _, (mret_landed hp z hls hland).trans (congrArg _ (if_pos hnone)), finishAt_leaves ..⟩
  · exact becomes_of ((mjoin_eq hp z).trans (congrArg _ (if_pos h)))
  · obtain ⟨t', hwaits⟩ := waitHere_waits s c t .join
    exact ⟨_, _, t', (mjoin_eq hp z).trans (congrArg _ (if_neg h)), hwaits, .refl _⟩

end Sys2Proof.Machine
end

section
/-! PROOFS. Lanes that leave their team (R288, R291 to R294, R301, R309): the first part of O53. -/

namespace Sys2Proof.Machine

/-! ## The event -/

theorem lanePack_none {s : State} (h : Tbl.get? s.teams s.arg.n0 = none) : Does .lanePack s s := by
  show execLanePack s = .next s
  simp only [execLanePack, h]

theorem lanePack_does {s : State} {t : Team} (h : Tbl.get? s.teams s.arg.n0 = some t) :
    Does .lanePack s (((t.sync.leaving.filter (s.mayPack s.arg.n0 t)).foldl
      (fun (r : State) lv => if (Tbl.get? r.teams s.arg.n0).isSome then r.packLane s.arg.n0 s.fresh lv else r) s.take.2).landedEnd s.arg.n0) := by
  show execLanePack s = _
  simp only [execLanePack, h]
  rfl

theorem lanePack_nothing {s : State} {t : Team} (h : Tbl.get? s.teams s.arg.n0 = some t)
    (hno : ∀ lv ∈ t.sync.leaving, s.mayPack s.arg.n0 t lv = false) :
    Does .lanePack s (s.take.2.landedEnd s.arg.n0) := by
  have hdoes := lanePack_does h
  rwa [List.filter_eq_nil_iff.2 fun lv hlv => by simp [hno lv hlv]] at hdoes

theorem lanePack_one {s : State} {t : Team} {lv : Leaving} (h : Tbl.get? s.teams s.arg.n0 = some t) (hl : t.sync.leaving = [lv])
    (hmay : s.mayPack s.arg.n0 t lv = true) :
    Does .lanePack s ((s.take.2.packLane s.arg.n0 s.fresh lv).landedEnd s.arg.n0) := by
  have hdoes := lanePack_does h
  have hthere : (Tbl.get? s.take.2.teams s.arg.n0).isSome = true := Option.isSome_of_eq_some h
  rwa [hl, List.filter_cons_of_pos hmay, List.filter_nil, List.foldl_cons, List.foldl_nil, if_pos hthere] at hdoes

/-! ## What packing a lane does -/

/-- R291, R293: what is left of the lanes that leave a team when one of them has been packed as `m`: a return is gone, another
lane waits for its home's answer. -/
def afterPack (lv : Leaving) (m : BitVec 1024) (l : List Leaving) : List Leaving :=
  if contRet m then l.filter (fun x => x ≠ lv) else l.map fun x => if x = lv then { x with sent := true, cont := m } else x

theorem afterPack_alone (lv : Leaving) (m : BitVec 1024) :
    afterPack lv m [lv] = if contRet m = true then [] else [{ lv with sent := true, cont := m }] := by
  simp [afterPack]

/-- The machine in which a packed lane has been taken down as leaving. -/
def State.packed (s : State) (k : Nat) (lv : Leaving) (m : BitVec 1024) : State :=
  (s.modTeam k fun t => { t with sync := { t.sync with leaving := afterPack lv m t.sync.leaving } }).count (s.team k).id.ctx 52 (b2n !contRet m)

theorem packed_eq (s : State) (k : Nat) (lv : Leaving) (m : BitVec 1024) : ∃ x, s.packed k lv m =
    { s.modTeam k fun t => { t with sync := { t.sync with leaving := afterPack lv m t.sync.leaving } } with ctxs := x } := by
  obtain ⟨x, hx, -⟩ := count_eq (s.modTeam k fun t => { t with sync := { t.sync with leaving := afterPack lv m t.sync.leaving } }) (s.team k).id.ctx 52 (b2n !contRet m)
  exact ⟨x, hx⟩

/-- R291, R294, R304: what goes out on the die for a lane of team `t` at `k` packed as `m`, in packet `n`. -/
def packMessage (k n : Nat) (t : Team) (lv : Leaving) (m : BitVec 1024) : Instr × Arg :=
  if contRet m = true then (.returnArrival, { wide := m.setWidth 2048 })
  else (.continuationArrival, { wide := m.setWidth 2048, n0 := lv.cluster, n1 := lv.dpa, flag := true, opt := some t.id.part, n2 := k, n3 := lv.lane
                                n4 := n + 1, n5 := lv.entry, n6 := lv.lane / 32 })

section
variable {s : State} {k n : Nat} {lv : Leaving}

theorem packLane_bad (hok : lv.ok = false) : s.packLane k n lv = s.deliver k { tpc := lv.orig.pc, cause := 0x5E, cls := 1 } := by
  simp only [State.packLane, hok]
  rfl

theorem packLane_lost (hok : lv.ok = true) (hout : contRet lv.cont = false) (hlost : s.lostDest lv = true) :
    s.packLane k n lv = s.lostWrite k (s.team k) := by
  simp only [State.packLane, hok, hout, hlost]
  rfl

theorem not_lostDest (hgood : contRet lv.cont = false → s.lostDest lv = false) : (!contRet lv.cont && s.lostDest lv) = false := by
  cases hback : contRet lv.cont
  · simp [hgood hback]
  · rfl

/-- R291: a lane whose live set and home are good leaves on the die or for another. -/
theorem packLane_near (hok : lv.ok = true) (hgood : contRet lv.cont = false → s.lostDest lv = false) (hnear : lv.pbr = none) :
    let m := packWct lv.cont (s.team k).regs.gwct
    s.packLane k n lv = (s.packed k lv m).post (packMessage k n (s.team k) lv m).1 (packMessage k n (s.team k) lv m).2 := by
  intro m
  unfold packMessage
  split_ifs with hback
  all_goals simp only [State.packLane, hok, not_lostDest hgood, hnear]
  · exact if_pos hback
  · exact if_neg hback

theorem packLane_far {d : Nat} (hok : lv.ok = true) (hgood : contRet lv.cont = false → s.lostDest lv = false) (hfar : lv.pbr = some d) :
    let m := packWct lv.cont (s.team k).regs.gwct
    s.packLane k n lv = (s.packed k lv m).packOut k ((s.packed k lv m).team k) lv d m := by
  simp only [State.packLane, hok, not_lostDest hgood, hfar]
  rfl

end

/-! ## What stays of the team -/

/-- Of the team `t` that stood at `k`, only its lanes that leave, now `l`, and what comes of their leaving have changed, and no
byte of memory. -/
def LanesLeft (s s1 : State) (k : Nat) (t : Team) (l : List Leaving) : Prop :=
  (∃ y, Tbl.get? s1.teams k = some y ∧ y.sync.leaving = l ∧ y.regs = t.regs ∧ y.flow = t.flow ∧ y.id = t.id) ∧ s1.mem = s.mem

theorem lanesLeft_packed {s : State} {k : Nat} {t : Team} (h : Tbl.get? s.teams k = some t) (lv : Leaving) (m : BitVec 1024) :
    LanesLeft s (s.packed k lv m) k t (afterPack lv m t.sync.leaving) := by
  obtain ⟨x, hx⟩ := packed_eq s k lv m
  rw [hx]
  exact ⟨⟨_, get?_modTeam_same h _, rfl, rfl, rfl, rfl⟩, rfl⟩

theorem LanesLeft.landedEnd {s s1 : State} {k : Nat} {t : Team} {l : List Leaving} (h : LanesLeft s s1 k t l) : LanesLeft s (s1.landedEnd k) k t l := by
  obtain ⟨⟨y, hy, hl, hregs, hflow, hid⟩, hmem⟩ := h
  refine ⟨⟨_, get?_modTeam_same hy _, ?_⟩, hmem⟩
  split_ifs
  · exact ⟨hl, hregs, hflow, hid⟩
  · exact ⟨hl, hregs, hflow, hid⟩

theorem sendFoot_eq (s : State) (t : Team) (pbr : Nat) : ∃ l o, s.sendFoot t pbr = { s with launches := l, outbox := o } := by
  unfold State.sendFoot
  split
  · exact ⟨s.launches, s.outbox, rfl⟩
  · dsimp only
    split_ifs
    · exact ⟨s.launches, s.outbox, rfl⟩
    · exact ⟨_, _, rfl⟩

/-- R71, R72, R293: a packed lane for another die is a pool write in an epoch of its own. -/
theorem packOut_writes {s : State} {k : Nat} (t : Team) (lv : Leaving) (d : Nat) (m : BitVec 1024) :
    ∃ w, (s.packOut k t lv d m).ports.q = s.ports.q ++ [w] ∧ w.cont = some m ∧ w.pbr = d ∧ w.dpa = lv.dpa ∧ w.src = t.id.slot ∧ w.after = t.regs.gwct ∧
      w.left = false ∧ w.epoch = (Tbl.getD s.ports.epoch t.id.slot 0 + 1) % 65536 := by
  unfold State.packOut
  dsimp only
  obtain ⟨l, o, heq⟩ := sendFoot_eq _ _ _
  rw [heq]
  refine ⟨_, rfl, rfl, rfl, rfl, rfl, rfl, rfl, ?_⟩
  simp [State.openEpoch, State.setTeam, State.take]

theorem packOut_net (s : State) (k : Nat) (t : Team) (lv : Leaving) (d : Nat) (m : BitVec 1024) : (s.packOut k t lv d m).net = s.net := by
  unfold State.packOut
  dsimp only
  obtain ⟨l, o, heq⟩ := sendFoot_eq _ _ _
  rw [heq]
  rfl

theorem LanesLeft.packOut {s s1 : State} {k : Nat} {t : Team} {l : List Leaving} (h : LanesLeft s s1 k t l) (lv : Leaving) (d : Nat) (m : BitVec 1024) :
    LanesLeft s (s1.packOut k (s1.team k) lv d m) k t l := by
  obtain ⟨⟨y, hy, hl, hregs, hflow, hid⟩, hmem⟩ := h
  rw [team_of_get? hy]
  unfold State.packOut
  dsimp only
  obtain ⟨f, o, heq⟩ := sendFoot_eq _ _ _
  rw [heq]
  exact ⟨⟨_, Tbl.get?_put_self .., hl, hregs, hflow, hid⟩, hmem⟩

/-! ## One lane that may be packed -/

section
variable {s : State} {t : Team} {lv : Leaving} (h : Tbl.get? s.teams s.arg.n0 = some t) (hl : t.sync.leaving = [lv]) (hmay : s.mayPack s.arg.n0 t lv = true)
include h hl hmay

theorem lanePack_bad (hok : lv.ok = false) :
    Does .lanePack s ((s.take.2.deliver s.arg.n0 { tpc := lv.orig.pc, cause := 0x5E, cls := 1 }).landedEnd s.arg.n0) :=
  packLane_bad (s := s.take.2) hok ▸ lanePack_one h hl hmay

theorem lanePack_lost (hok : lv.ok = true) (hout : contRet lv.cont = false) (hlost : s.lostDest lv = true) :
    Does .lanePack s ((s.take.2.lostWrite s.arg.n0 t).landedEnd s.arg.n0) := by
  have hdoes := lanePack_one h hl hmay
  rwa [packLane_lost (s := s.take.2) hok hout hlost, show s.take.2.team s.arg.n0 = t from team_of_get? h] at hdoes

omit hmay in
theorem lanesLeft_alone (m : BitVec 1024) : LanesLeft s (s.take.2.packed s.arg.n0 lv m) s.arg.n0 t
    (if contRet m = true then [] else [{ lv with sent := true, cont := m }]) := by
  have hleft := lanesLeft_packed (s := s.take.2) h lv m
  rwa [hl, afterPack_alone] at hleft

/-- R291: on the die a packed lane is an event on its way to its home or, as a return, to its team. -/
theorem lanePack_near (hok : lv.ok = true) (hgood : contRet lv.cont = false → s.lostDest lv = false) (hnear : lv.pbr = none) :
    let m := packWct lv.cont t.regs.gwct
    ∃ s1, Does .lanePack s s1 ∧ LanesLeft s s1 s.arg.n0 t (if contRet m = true then [] else [{ lv with sent := true, cont := m }]) ∧
      s1.net = s.net ++ [packMessage s.arg.n0 s.fresh t lv m] := by
  intro m
  refine ⟨_, lanePack_one h hl hmay, ?_⟩
  rw [packLane_near (s := s.take.2) hok hgood hnear, show s.take.2.team s.arg.n0 = t from team_of_get? h]
  obtain ⟨x, hx⟩ := packed_eq s.take.2 s.arg.n0 lv m
  have hnet : (s.take.2.packed s.arg.n0 lv m).net = s.net := by rw [hx]; rfl
  exact ⟨LanesLeft.landedEnd (s1 := (State.packed _ _ _ _).post _ _) (lanesLeft_alone h hl m), congrArg (· ++ _) hnet⟩

/-- R293: a packed lane for another die is a pool write after the epoch that its team's release opens. -/
theorem lanePack_far {d : Nat} (hok : lv.ok = true) (hgood : contRet lv.cont = false → s.lostDest lv = false) (hfar : lv.pbr = some d) :
    let m := packWct lv.cont t.regs.gwct
    ∃ s1 w, Does .lanePack s s1 ∧ LanesLeft s s1 s.arg.n0 t (if contRet m = true then [] else [{ lv with sent := true, cont := m }]) ∧
      s1.net = s.net ∧ s1.ports.q = s.ports.q ++ [w] ∧ w.cont = some m ∧ w.pbr = d ∧ w.dpa = lv.dpa ∧ w.src = t.id.slot ∧ w.after = t.regs.gwct ∧
      w.left = false ∧ w.epoch = (Tbl.getD s.ports.epoch t.id.slot 0 + 1) % 65536 := by
  intro m
  have hdoes := lanePack_one h hl hmay
  rw [packLane_far (s := s.take.2) hok hgood hfar, show s.take.2.team s.arg.n0 = t from team_of_get? h] at hdoes
  have hleft := lanesLeft_alone h hl m
  obtain ⟨⟨y, hy, -, hregs, -, hid⟩, -⟩ := id hleft
  obtain ⟨x, hx⟩ := packed_eq s.take.2 s.arg.n0 lv m
  obtain ⟨w, hq, hcont, hpbr, hdpa, hsrc, hafter, hw, hepoch⟩ :=
    packOut_writes (s := s.take.2.packed s.arg.n0 lv m) (k := s.arg.n0) ((s.take.2.packed s.arg.n0 lv m).team s.arg.n0) lv d m
  rw [team_of_get? hy, hid] at hsrc hepoch
  rw [team_of_get? hy, hregs] at hafter
  have hports : (s.take.2.packed s.arg.n0 lv m).ports = s.ports := by rw [hx]; rfl
  have hnet : (s.take.2.packed s.arg.n0 lv m).net = s.net := by rw [hx]; rfl
  rw [hports] at hq hepoch
  exact ⟨_, w, hdoes, (hleft.packOut lv d m).landedEnd, (packOut_net ..).trans hnet, hq, hcont, hpbr, hdpa, hsrc, hafter, hw, hepoch⟩

end

end Sys2Proof.Machine
end

section
/-! PROOFS. Continuations that arrive and lanes that are refused (R55, R96, R227, R294 to R298, R306, R307): the second part of O53. -/

namespace Sys2Proof.Machine

/-! ## A continuation lands (R298) -/

/-- A landed continuation is in a group of its partition. -/
theorem land_group (s : State) (cl p wct pa : Nat) (c : BitVec 1024) : ∃ g ∈ ((s.land cl p wct pa c).cluster cl).groups, g.part = p ∧ c ∈ g.conts := by
  simp only [State.land, State.take, modCluster_cluster]
  split
  · next h hfound =>
    have hin := List.find?_some hfound
    simp only [Bool.and_eq_true, decide_eq_true_eq] at hin
    exact ⟨_, List.mem_map.2 ⟨h, List.mem_of_find?_eq_some hfound, if_pos rfl⟩, hin.1.1, List.mem_append_right _ (List.mem_singleton_self c)⟩
  · exact ⟨_, List.mem_append_right _ (List.mem_singleton_self _), rfl, List.mem_singleton_self c⟩

/-! ## From the die (R294 to R296) -/

theorem continuationArrival_own {s : State} {p : Nat} (h : s.arg.opt = some p) :
    Does .continuationArrival s ((s.packetOf s.arg).foldl (fun s a => s.arriveOwn p a) s) := by
  show execContinuationArrival s = _
  simp only [execContinuationArrival, h]

section
variable {s : State} {p : Nat} (h : s.arg.opt = some p) (hone : s.packetOf s.arg = [s.arg])
include h hone

theorem continuationArrival_alone : Does .continuationArrival s (s.arriveOwn p s.arg) := by
  have hdoes := continuationArrival_own h
  rwa [hone] at hdoes

theorem continuationArrival_refused {x : Nat} (hno : s.landRefusal s.arg.n0 p true (s.arg.wide.setWidth 1024) = some x) :
    Does .continuationArrival s ((s.unpost .continuationArrival s.arg).post .continuationRefused { n0 := s.arg.n2, n1 := s.arg.n3, n2 := x }) := by
  have hdoes := continuationArrival_alone h hone
  have hno' : (s.unpost .continuationArrival s.arg).landRefusal s.arg.n0 p true (s.arg.wide.setWidth 1024) = some x := hno
  simpa only [State.arriveOwn, hno'] using hdoes

/-- R296, R298: a continuation that is taken is in a group of its home, and its lane is no longer among those that leave. -/
theorem continuationArrival_lands (hyes : s.landRefusal s.arg.n0 p true (s.arg.wide.setWidth 1024) = none) :
    ∃ s1, Does .continuationArrival s s1 ∧ s1.mem = s.mem ∧ (∃ g ∈ (s1.cluster s.arg.n0).groups, g.part = p ∧ s.arg.wide.setWidth 1024 ∈ g.conts) ∧
      ∀ y, Tbl.get? s.teams s.arg.n2 = some y → y.id.landed = false →
        Tbl.get? s1.teams s.arg.n2 = some { y with sync := { y.sync with leaving := y.sync.leaving.filter fun x => x.lane ≠ s.arg.n3 } } := by
  have hdoes := continuationArrival_alone h hone
  have hyes' : (s.unpost .continuationArrival s.arg).landRefusal s.arg.n0 p true (s.arg.wide.setWidth 1024) = none := hyes
  simp only [State.arriveOwn, hyes'] at hdoes
  refine ⟨_, hdoes, rfl, land_group .., fun y hy hhome => ?_⟩
  refine (get?_modTeam_same (get?_modTeam_same (s := (s.unpost .continuationArrival s.arg).land s.arg.n0 p _ s.arg.n1 _) hy _) _).trans ?_
  simp [hhome]

end

/-! ## From another die (R55, R57, R96, R227, R300) -/

theorem continuationArrival_far {s : State} (h : s.arg.opt = none) : Does .continuationArrival s (s.arriveFar s.arg) := by
  show execContinuationArrival s = _
  simp only [execContinuationArrival, h]

section
variable {s : State} {a : Arg} {c : BitVec 1024} {die : Nat} (hc : c = a.wide.setWidth 1024) (hdie : die = contTeam c / 2 ^ 20)
include hc hdie

theorem arriveFar_uncarried (hl : (s.link a.n2).carries = false) : s.arriveFar a = s.emit (.contBack die c 0x61) := by
  subst hc hdie
  simp only [State.arriveFar, hl]
  rfl

theorem arriveFar_ended (hl : (s.link a.n2).carries = true) (hend : (die, contPart c, contVer c) ∈ (s.heard die a.n2).ports.ended) :
    s.arriveFar a = (s.heard die a.n2).emit (.peerReply die 0 false 0 []) := by
  subst hc hdie
  simp only [State.arriveFar, hl]
  exact if_pos hend

theorem arriveFar_unmapped (hl : (s.link a.n2).carries = true) (hend : (die, contPart c, contVer c) ∉ (s.heard die a.n2).ports.ended)
    (hno : (s.heard die a.n2).dpaPa a.n1 = none) : s.arriveFar a = (s.heard die a.n2).emit (.contBack die c 0x5B) := by
  subst hc hdie
  simp only [State.arriveFar, hl]
  refine (if_neg hend).trans ?_
  simp only [hno]

theorem arriveFar_unowned {pa : Nat} (hl : (s.link a.n2).carries = true) (hend : (die, contPart c, contVer c) ∉ (s.heard die a.n2).ports.ended)
    (hpa : (s.heard die a.n2).dpaPa a.n1 = some pa) (hno : Tbl.get? (s.heard die a.n2).ports.eown (extentOf pa) = none) :
    s.arriveFar a = (s.heard die a.n2).emit (.contBack die c 0x5B) := by
  subst hc hdie
  simp only [State.arriveFar, hl]
  refine (if_neg hend).trans ?_
  simp only [hpa, hno]

section
variable {pa p : Nat} (hl : (s.link a.n2).carries = true) (hend : (die, contPart c, contVer c) ∉ (s.heard die a.n2).ports.ended)
  (hpa : (s.heard die a.n2).dpaPa a.n1 = some pa) (hown : Tbl.get? (s.heard die a.n2).ports.eown (extentOf pa) = some p)
include hl hend hpa hown

/-- R96, R295, R296: what the home of a continuation makes of it. -/
theorem arriveFar_owned : s.arriveFar a = if (die, p) ∈ (s.heard die a.n2).ports.blocked then (s.heard die a.n2).emit (.peerReply die 4 false 0 [])
    else ((s.heard die a.n2).landRefusal (homeSlice pa) p false c).elim
      ((((s.heard die a.n2).land (homeSlice pa) p s.now pa c).modForeign die (contPart c) (contVer c) fun f => { f with own := p }).emit (.peerReply die 0 false 0 []))
      fun x => (s.heard die a.n2).emit (.contBack die c x) := by
  subst hc hdie
  simp only [State.arriveFar, hl]
  refine (if_neg hend).trans ?_
  simp only [hpa, hown, heard_now]
  cases State.landRefusal _ (homeSlice pa) p false _ <;> rfl

/-- R296, R298: a continuation that a W9L takes is in a group of its home, and its die is told. -/
theorem arriveFar_lands (hb : (die, p) ∉ (s.heard die a.n2).ports.blocked) (hyes : (s.heard die a.n2).landRefusal (homeSlice pa) p false c = none) :
    (s.arriveFar a).mem = s.mem ∧ (s.arriveFar a).outbox = s.outbox ++ [.peerReply die 0 false 0 []] ∧
      ∃ g ∈ ((s.arriveFar a).cluster (homeSlice pa)).groups, g.part = p ∧ c ∈ g.conts := by
  rw [arriveFar_owned hc hdie hl hend hpa hown, if_neg hb, hyes]
  exact ⟨heard_mem s die a.n2, congrArg (· ++ _) (heard_outbox s die a.n2), land_group ..⟩

end
end

/-! ## Refusals (R297, R307) -/

theorem foldl_ports {α : Type} {f : State → α → State} (hf : ∀ s a, ∃ p, f s a = { s with ports := p }) (l : List α) (s : State) :
    ∃ p, l.foldl f s = { s with ports := p } := by
  induction l generalizing s with
  | nil => exact ⟨s.ports, rfl⟩
  | cons a r ih =>
    obtain ⟨p, hp⟩ := hf s a
    obtain ⟨q, hq⟩ := ih (f s a)
    exact ⟨q, by rw [List.foldl_cons, hq, hp]⟩
theorem dropCont_eq (s : State) (k lane : Nat) : ∃ p, s.dropCont k lane = { s with ports := p } :=
  foldl_ports (fun _ _ => ⟨_, rfl⟩) _ s

/-- R297: a lane that finds no room stays among those that leave, from its first refusal on. -/
theorem continuationRefused_room {s : State} {t : Team} (hn : s.arg.n2 = 0) (h : Tbl.get? s.teams s.arg.n0 = some t) :
    ∃ s1, Does .continuationRefused s s1 ∧
      Tbl.get? s1.teams s.arg.n0 = some { t with sync := { t.sync with leaving := t.sync.leaving.map fun (x : Leaving) =>
        if x.lane = s.arg.n1 then ({ x with sent := false, refusedAt := some (x.refusedAt.getD s.now) } : Leaving) else x } } ∧ s1.mem = s.mem := by
  have hdoes : Does .continuationRefused s (((s.unpost .continuationRefused s.arg).dropCont s.arg.n0 s.arg.n1).modTeam s.arg.n0 fun t =>
      { t with sync := { t.sync with leaving := t.sync.leaving.map fun (x : Leaving) => if x.lane = s.arg.n1 then
        ({ x with sent := false, refusedAt := some (x.refusedAt.getD ((s.unpost .continuationRefused s.arg).dropCont s.arg.n0 s.arg.n1).now) } : Leaving) else x } }) :=
    congrArg Host.Outcome.next (if_pos hn)
  obtain ⟨p, hp⟩ := dropCont_eq (s.unpost .continuationRefused s.arg) s.arg.n0 s.arg.n1
  rw [hp] at hdoes
  exact ⟨_, hdoes, get?_modTeam_same h _, rfl⟩

theorem continuationRefused_cause {s : State} (hn : s.arg.n2 ≠ 0) :
    Does .continuationRefused s (((s.unpost .continuationRefused s.arg).dropCont s.arg.n0 s.arg.n1).refuseLane s.arg.n0 s.arg.n1 s.arg.n2) :=
  congrArg Host.Outcome.next (if_neg hn)

theorem landingTimeout_early {s : State} (h : ∀ x ∈ (s.team s.arg.n0).sync.leaving, x.lane = s.arg.n1 → x.timedOut s.now = false) : Does .landingTimeout s s := by
  refine congrArg Host.Outcome.next (if_neg ?_)
  rw [List.any_eq_true]
  rintro ⟨x, hx, hlate⟩
  simp only [Bool.and_eq_true, decide_eq_true_eq] at hlate
  exact Bool.noConfusion ((h x hx hlate.1).symm.trans hlate.2)

theorem landingTimeout_late {s : State} (h : ∃ x ∈ (s.team s.arg.n0).sync.leaving, x.lane = s.arg.n1 ∧ x.timedOut s.now = true) :
    Does .landingTimeout s (s.refuseLane s.arg.n0 s.arg.n1 0x59) := by
  obtain ⟨x, hx, hlane, hlate⟩ := h
  exact congrArg Host.Outcome.next (if_pos (List.any_eq_true.2 ⟨x, hx, by simp [hlane, hlate]⟩))

/-- R307: an entry that is taken up again is in the replay queue, with its accesses. -/
theorem mem_reopen (rq : List Entry) (e : Entry) : ∃ x ∈ reopen rq e, x.id = e.id ∧ ∀ y ∈ e.accs, y ∈ x.accs := by
  unfold reopen
  split_ifs with hany
  · obtain ⟨x, hx, hid⟩ := List.any_eq_true.1 hany
    have hid : x.id = e.id := of_decide_eq_true hid
    exact ⟨_, List.mem_map.2 ⟨x, hx, if_pos hid⟩, hid, fun y hy => List.mem_append_right _ hy⟩
  · exact ⟨e, by simp, rfl, fun y hy => hy⟩

theorem reopen_unraised {rq : List Entry} {e : Entry} (hrq : ∀ x ∈ rq, x.raised = none) (he : e.raised = none) : ∀ x ∈ reopen rq e, x.raised = none := by
  intro x hx
  unfold reopen at hx
  split at hx
  · obtain ⟨y, hy, rfl⟩ := List.mem_map.1 hx
    by_cases hid : y.id = e.id
    · rw [if_pos hid]
      exact hrq y hy
    · rw [if_neg hid]
      exact hrq y hy
  · rw [List.mem_append, List.mem_append, List.mem_singleton] at hx
    rcases hx with (hx | rfl) | hx
    · exact hrq x (List.takeWhile_subset _ hx)
    · exact he
    · exact hrq x (List.dropWhile_subset _ hx)

theorem headRaised_none {rq : List Entry} (h : ∀ x ∈ rq, x.raised = none) : headRaised rq = none := by
  induction rq with
  | nil => rfl
  | cons e r ih =>
    simp only [headRaised, h e (List.mem_cons_self ..)]
    exact ih fun x hx => h x (List.mem_cons_of_mem _ hx)

/-- Nothing is delivered to a team of whose entries none has raised a cause. -/
theorem settle_unraised {s : State} {k : Nat} {t : Team} (h : Tbl.get? s.teams k = some t) (hrq : ∀ e ∈ t.sync.rq, e.raised = none) : s.settle k = s := by
  unfold State.settle
  simp only [team_of_get? h, headRaised_none hrq, Option.isSome_none, Bool.false_and, Bool.false_eq_true, if_false]

theorem replayAway_resident {s : State} {k : Nat} {t : Team} (h : Tbl.get? s.teams k = some t) (hres : t.resident = true) : s.replayAway k = s := by
  simp only [State.replayAway, h, hres, if_true]

@[simp] theorem laneBack_id (t : Team) (lv : Leaving) (e : Entry) : (t.laneBack lv e).id = t.id := rfl

/-- R307: a lane of a resident team whose migration is refused without the trap is present again, its access with its team. -/
theorem refuseLane_stays {s : State} {k lane : Nat} {t : Team} {lv : Leaving} (cause : Nat) (hlv : t.sync.leaving.find? (fun x => x.lane = lane) = some lv)
    (h : Tbl.get? s.teams k = some t) (hhome : t.id.landed = false) (hres : t.resident = true) (htrap : t.sync.migTrap = false)
    (horig : lv.orig.raised = none) (hrq : ∀ e ∈ t.sync.rq, e.raised = none) :
    ∃ y, Tbl.get? (s.refuseLane k lane cause).teams k = some y ∧
      y.flow = { t.flow with pres := t.flow.pres ||| bitM lane, away := t.flow.away &&& ~~~bitM lane } ∧ y.regs = t.regs ∧ y.sync.lastRefusal = cause ∧
      y.sync.leaving = t.sync.leaving.filter (fun x => x.lane ≠ lane) ∧
      ∃ e ∈ y.sync.rq, e.id = lv.orig.id ∧ ∀ x ∈ lv.orig.accs, { x with stay := true, wait := .xlat } ∈ e.accs := by
  have hlane : lv.lane = lane := by simpa using List.find?_some hlv
  let e : Entry := { lv.orig with accs := lv.orig.accs.map fun a => { a with stay := true, wait := .xlat } }
  let y : Team := { t.laneBack lv e with sync := { (t.laneBack lv e).sync with lastRefusal := cause } }
  let s1 : State := ((s.setTeam k y).count t.id.ctx 54 1).modLaunch t.id.launch fun x => { x with conts := x.conts - 1 }
  have hdo : s.refuseLane k lane cause = (s1.settle k).replayAway k := by
    simp only [State.refuseLane, h, hlv, htrap, Bool.false_and, laneBack_id, hhome, Bool.false_eq_true, if_false]
    rfl
  have hy : Tbl.get? s1.teams k = some y := by
    obtain ⟨x, hx, -⟩ := count_eq (s.setTeam k y) t.id.ctx 54 1
    simp only [s1, hx]
    exact Tbl.get?_put_self ..
  rw [hdo, settle_unraised hy (reopen_unraised hrq horig), replayAway_resident hy hres]
  refine ⟨y, hy, ?_, rfl, rfl, ?_, ?_⟩
  · simp only [y, Team.laneBack, hlane, hhome]
    rfl
  · simp only [y, Team.laneBack, hlane]
  · obtain ⟨x, hx, hid, haccs⟩ := mem_reopen t.sync.rq e
    exact ⟨x, hx, hid, fun z hz => haccs _ (List.mem_map.2 ⟨z, hz, rfl⟩)⟩

end Sys2Proof.Machine
end

section
/-! PROOFS. Landed teams, returns and retire notices (R298, R299, R303 to R305): the third part of O53. -/

namespace Sys2Proof.Machine

/-! ## Landed teams (R298, R299) -/

theorem landedTeamCreation_noGroup {s : State} (h : (s.cluster s.arg.n0).groups.find? (fun g => g.id = s.arg.n1) = none) : Does .landedTeamCreation s s := by
  show execLandedTeamCreation s = _
  simp only [execLandedTeamCreation, h]

section
variable {s : State} {g : Group} (hg : (s.cluster s.arg.n0).groups.find? (fun g => g.id = s.arg.n1) = some g)
include hg

theorem landedTeamCreation_early (h : s.mayLandTeam s.arg.n0 g = false) : Does .landedTeamCreation s s := by
  show execLandedTeamCreation s = _
  simp only [execLandedTeamCreation, hg, h]
  rfl

/-- R72, R299: the machine with the team of a group in a slot, whose epoch begins. -/
def State.withLanded (s : State) (g : Group) (core slot : Nat) : State :=
  let s1 := s.take.2.modCluster s.arg.n0 fun q => { q with groups := q.groups.filter fun x => x.id ≠ g.id }
  let t := s.landedTeam s.arg.n0 g core slot
  ({ s1 with teams := Tbl.put s.teams (landedKey s.fresh) t
             ports := { s.ports with epoch := Tbl.put s.ports.epoch (16 * core + slot) ((Tbl.getD s.ports.epoch (16 * core + slot) 0 + 1) % 65536) } } : State).modCtx
    t.id.ctx fun x => { x with lost := [] }

theorem landedTeamCreation_does {core slot : Nat} (hmay : s.mayLandTeam s.arg.n0 g = true) (hcore : s.landCore s.arg.n0 g.part = some core)
    (hslot : s.freeSlot core = some slot) : Does .landedTeamCreation s (s.withLanded g core slot) := by
  show execLandedTeamCreation s = _
  simp only [execLandedTeamCreation, hg, hmay, hcore, hslot]
  rfl

omit hg in
theorem withLanded_epoch (core slot : Nat) :
    Tbl.getD (s.withLanded g core slot).ports.epoch (16 * core + slot) 0 = (Tbl.getD s.ports.epoch (16 * core + slot) 0 + 1) % 65536 :=
  (Tbl.getD_put ..).trans (if_pos rfl)

omit hg in
theorem withLanded_team (core slot : Nat) : Tbl.get? (s.withLanded g core slot).teams (landedKey s.fresh) = some (s.landedTeam s.arg.n0 g core slot) :=
  Tbl.get?_put_self ..

omit hg in
theorem withLanded_others (core slot : Nat) (j : Nat) (hj : j ≠ landedKey s.fresh) : Tbl.get? (s.withLanded g core slot).teams j = Tbl.get? s.teams j :=
  Tbl.get?_put_ne _ _ _ _ hj

theorem withLanded_groups (core slot : Nat) : ∀ x ∈ ((s.withLanded g core slot).cluster s.arg.n0).groups, x.id ≠ s.arg.n1 := by
  have hid : g.id = s.arg.n1 := by simpa using List.find?_some hg
  have hgroups : ((s.withLanded g core slot).cluster s.arg.n0).groups = (s.cluster s.arg.n0).groups.filter fun x => x.id ≠ g.id :=
    congrArg Cluster.groups (modCluster_cluster s.take.2 s.arg.n0 fun q => { q with groups := q.groups.filter fun x => x.id ≠ g.id })
  rw [hgroups, hid]
  intro x hx
  simpa using (List.mem_filter.1 hx).2

end

/-! ## Returns (R304) -/

/-- R304: the vector registers that a return brings into its lane leave the scalar and mask registers. -/
theorem foldl_setV_keeps (f : Nat × Nat → Nat × Word) (l : Nat) (ws : List (Nat × Nat)) (r : TeamRegs) :
    (ws.foldl (fun r p => r.setV (f p).1 l (f p).2) r).s = r.s ∧ (ws.foldl (fun r p => r.setV (f p).1 l (f p).2) r).k = r.k := by
  induction ws generalizing r with
  | nil => exact ⟨rfl, rfl⟩
  | cons p ws ih => exact ih _

/-- R227: a return finds its lane away and its launch there. -/
def TakesReturn (s : State) (c : BitVec 1024) (y : Team) : Prop := y.flow.away.getLsbD (contLane c) = true ∧ (s.launch y.id.launch).head.ver = contVer c

theorem takeReturn_ignored {s : State} {c : BitVec 1024} (h : ∀ y, Tbl.get? s.teams (contOrigin c) = some y → ¬ TakesReturn s c y) : s.takeReturn c = s := by
  have hnone : ((Tbl.get? s.teams (contOrigin c)).filter fun t => t.flow.away.getLsbD (contLane c) && decide ((s.launch t.id.launch).head.ver = contVer c)) = none := by
    rw [Option.filter_eq_none_iff]
    intro y hy htakes
    simp only [Bool.and_eq_true, decide_eq_true_eq] at htakes
    exact h y hy htakes
  simp only [State.takeReturn, hnone]

/-- R304, R305: a return makes its lane returned, and no other lane changes. -/
theorem takeReturn_returns {s : State} {c : BitVec 1024} {y : Team} (hy : Tbl.get? s.teams (contOrigin c) = some y) (h : TakesReturn s c y) :
    ∃ z, Tbl.get? (s.takeReturn c).teams (contOrigin c) = some z ∧
      z.flow.ret = y.flow.ret ||| bitM (contLane c) ∧ z.flow.away = y.flow.away &&& ~~~bitM (contLane c) ∧ z.flow.pc = y.flow.pc ∧
      z.flow.pres = y.flow.pres ∧ z.regs.s = y.regs.s ∧ z.regs.k = y.regs.k ∧
      (∀ l, Tbl.get? s.launches y.id.launch = some l → Tbl.get? (s.takeReturn c).launches y.id.launch = some { l with conts := l.conts - 1 }) ∧
      (s.takeReturn c).mem = s.mem := by
  have hsome : ((Tbl.get? s.teams (contOrigin c)).filter fun t => t.flow.away.getLsbD (contLane c) && decide ((s.launch t.id.launch).head.ver = contVer c)) = some y := by
    rw [Option.filter_eq_some_iff]
    exact ⟨hy, by simpa [TakesReturn] using h⟩
  simp only [State.takeReturn, hsome]
  generalize ((s.image y).liveSet y.regs.allot (contLset c)).getD { s := [], v := [] } = ls
  obtain ⟨hs, hk⟩ := foldl_setV_keeps (fun p => (p.1, BitVec.ofNat 64 (contV c p.2))) (contLane c) ls.v.zipIdx y.regs
  obtain ⟨x, hx, -⟩ := count_eq (State.modLaunch _ y.id.launch fun x => { x with conts := x.conts - 1 }) y.id.ctx 53 1
  rw [hx]
  exact ⟨_, Tbl.get?_put_self .., rfl, rfl, rfl, rfl, hs, hk, fun l hl => get?_modLaunch_same (s := State.setTeam s _ _) hl _, rfl⟩

/-- A return waits on its way, or stands at a port. -/
theorem returnArrival_inner {s : State} (hin : (s.net.any fun x => x.1 = .returnArrival ∧ x.2 = s.arg) = true) :
    Does .returnArrival s (if s.mayReturn (s.arg.wide.setWidth 1024) then (s.unpost .returnArrival s.arg).takeReturn (s.arg.wide.setWidth 1024) else s) :=
  congrArg Host.Outcome.next (if_pos hin)
theorem returnArrival_port {s : State} (hin : (s.net.any fun x => x.1 = .returnArrival ∧ x.2 = s.arg) = false) :
    Does .returnArrival s (if (s.link s.arg.n0).carries then s.takeReturn (s.arg.wide.setWidth 1024) else s) :=
  congrArg Host.Outcome.next (if_neg (Bool.eq_false_iff.1 hin))

/-! ## Retire notices (R303, R305) -/

/-- R227, R303: a notice finds its lane away, and its launch there if it names a version. -/
def TakesNotice (s : State) (l : Nat) (ver : Option Nat) (y : Team) : Prop :=
  y.flow.away.getLsbD l = true ∧ ∀ v, ver = some v → (s.launch y.id.launch).head.ver = v

theorem takesNotice_iff {s : State} {l : Nat} {ver : Option Nat} {y : Team} :
    (y.flow.away.getLsbD l && ver.all fun v => decide ((s.launch y.id.launch).head.ver = v)) = true ↔ TakesNotice s l ver y := by
  cases ver <;> simp [TakesNotice]

theorem takeNotice_ignored {s : State} {k l : Nat} {ver : Option Nat} (h : ∀ y, Tbl.get? s.teams k = some y → ¬ TakesNotice s l ver y) : s.takeNotice k l ver = s := by
  have hnone : ((Tbl.get? s.teams k).filter fun t => t.flow.away.getLsbD l && ver.all fun v => decide ((s.launch t.id.launch).head.ver = v)) = none := by
    rw [Option.filter_eq_none_iff]
    exact fun y hy htakes => h y hy (takesNotice_iff.1 htakes)
  simp only [State.takeNotice, hnone]

theorem spillOut_eq (s : State) (t : Team) : ∃ c, s.spillOut t = { s with clusters := c } := by
  unfold State.spillOut
  split_ifs
  · exact ⟨s.clusters, rfl⟩
  · exact ⟨_, rfl⟩

/-- R303, R305: a notice makes its lane exited, and no other lane changes. -/
theorem takeNotice_exits {s : State} {k l : Nat} {ver : Option Nat} {t : Team} (ht : Tbl.get? s.teams k = some t) (h : TakesNotice s l ver t) :
    ∃ z, Tbl.get? (s.takeNotice k l ver).teams k = some z ∧ z.flow.exited = t.flow.exited ||| bitM l ∧
      z.flow.away = t.flow.away &&& ~~~bitM l ∧ z.flow.pres = t.flow.pres ∧ z.flow.pc = t.flow.pc ∧ z.regs = t.regs ∧ (s.takeNotice k l ver).mem = s.mem ∧
      ∀ x, Tbl.get? s.launches t.id.launch = some x → Tbl.get? (s.takeNotice k l ver).launches t.id.launch = some { x with conts := x.conts - 1 } := by
  have hsome : ((Tbl.get? s.teams k).filter fun t => t.flow.away.getLsbD l && ver.all fun v => decide ((s.launch t.id.launch).head.ver = v)) = some t :=
    Option.filter_eq_some_iff.2 ⟨ht, takesNotice_iff.2 h⟩
  simp only [State.takeNotice, hsome]
  obtain ⟨c, hc⟩ := spillOut_eq (s.setTeam k _) _
  rw [hc]
  exact ⟨_, Tbl.get?_put_self .., rfl, rfl, rfl, rfl, rfl, rfl, fun x hx => get?_modLaunch_same (s := { State.setTeam s k _ with clusters := c }) hx _⟩

section
variable {s : State}

theorem retireNotice_early (hin : (s.net.any fun x => x.1 = .retireNotice ∧ x.2 = s.arg) = true) (hmay : s.mayNotice s.arg = false) : Does .retireNotice s s :=
  congrArg Host.Outcome.next (if_pos (Bool.and_eq_true_iff.2 ⟨hin, by rw [hmay]; rfl⟩))

theorem retireNotice_does (h : (s.net.any fun x => x.1 = .retireNotice ∧ x.2 = s.arg) = false ∨ s.mayNotice s.arg = true) :
    Does .retireNotice s (if s.arg.n4 ≠ 0 then (s.unpost .retireNotice s.arg).emit (.retire (s.arg.n4 - 1) (s.arg.n0 % 2 ^ 20) s.arg.n1 (s.arg.opt.getD 0))
      else (s.unpost .retireNotice s.arg).takeNotice s.arg.n0 s.arg.n1 s.arg.opt) := by
  refine congrArg Host.Outcome.next (if_neg fun hearly => ?_)
  obtain ⟨hin, hmay⟩ := Bool.and_eq_true_iff.1 hearly
  rcases h with h | h
  · exact Bool.noConfusion (h.symm.trans hin)
  · rw [h] at hmay
    exact Bool.noConfusion hmay

end

end Sys2Proof.Machine
end

section
/-! PROOFS. Cards of the engines (R357, R358, R362, R363, R369): the fourth part of O53. -/

namespace Sys2Proof.Machine

/-! ## The card of an event -/

theorem cardEvent_none {s : State} (h : s.card s.arg.n0 s.arg.n1 = none) (ok : Card → Bool) (f : Card → State) : s.cardEvent ok f = s := by
  simp only [State.cardEvent, h]
theorem cardEvent_some {s : State} {b : Card} (h : s.card s.arg.n0 s.arg.n1 = some b) (ok : Card → Bool) (f : Card → State) :
    s.cardEvent ok f = if ok b then f b else s := by
  simp only [State.cardEvent, h]
theorem card_tag {s : State} {cl tag : Nat} {b : Card} (h : s.card cl tag = some b) : b.tag = tag := by simpa using List.find?_some h

theorem cards_none {s : State} (h : s.card s.arg.n0 s.arg.n1 = none) :
    Does .cardStart s s ∧ Does .cardLineTransfer s s ∧ Does .matrixRowIssue s s ∧ Does .cardComplete s s :=
  ⟨congrArg Host.Outcome.next (cardEvent_none h ..), congrArg Host.Outcome.next (cardEvent_none h ..),
    congrArg Host.Outcome.next (cardEvent_none h ..), congrArg Host.Outcome.next (cardEvent_none h ..)⟩

/-- An event of a card does what it does when its condition holds. -/
theorem cardEvent_does {s : State} {b : Card} {i : Instr} {ok : Card → Bool} {f : Card → State} (he : exec i s = .next (s.cardEvent ok f))
    (h : s.card s.arg.n0 s.arg.n1 = some b) : (ok b = false → Does i s s) ∧ (ok b = true → Does i s (f b)) := by
  rw [cardEvent_some h] at he
  refine ⟨fun hno => ?_, fun hyes => ?_⟩
  · rw [hno] at he
    exact he
  · rw [hyes] at he
    exact he

/-- A card that changes and keeps its tag is still its cluster's card of that tag. -/
theorem card_modCard {s : State} {cl tag : Nat} {b : Card} (h : s.card cl tag = some b) {f : Card → Card} (hf : ∀ k, (f k).tag = k.tag) :
    (s.modCard cl tag f).card cl tag = some (f b) := by
  have htags : (fun k : Card => decide (k.tag = tag)) ∘ (fun k => if k.tag = tag then f k else k) = fun k => decide (k.tag = tag) := by
    funext k
    simp only [Function.comp_apply]
    split_ifs
    · rw [hf]
    · rfl
  have hfind : (s.cluster cl).cards.find? (fun k => k.tag = tag) = some b := h
  unfold State.card State.modCard
  rw [modCluster_cluster, List.find?_map, htags, hfind, Option.map_some, if_pos (card_tag h)]

/-! ## Start (R358, R369) -/

/-- R369, R370: the machine with the tile of a matrix card bound. -/
def State.tileBound (s : State) (cl : Nat) (k : Card) : State :=
  if isMatrix k.kind then s.modTile cl k fun x =>
    if x.quads = [] then { x with quads := (s.freeQuads k.part cl x.m x.n).getD [], acc := [], bad := [], accf := 0
                                  p0 := { x.p0 with w := [], scl := [] }, p1 := { x.p1 with w := [], scl := [] } }
    else x
  else s

/-- Binding a tile changes only the tiles of its cluster. -/
theorem tileBound_cases (s : State) (cl : Nat) (k : Card) : s.tileBound cl k = s ∨ ∃ f : Tbl Tile → Tbl Tile, s.tileBound cl k = s.modCluster cl fun c => { c with tiles := f c.tiles } := by
  unfold State.tileBound
  split_ifs
  · exact .inr ⟨fun t => Tbl.modify t (k.launch * 8 + k.tile) _, rfl⟩
  · exact .inl rfl

theorem cardStart_starts {s : State} {cl tag : Nat} {b : Card} (h : s.card cl tag = some b) :
    (s.cardStart cl b).card cl tag = some { b with st := .running, wait := .ready, got := [] } ∧ (s.cardStart cl b).teams = s.teams ∧
      (s.cardStart cl b).mem = s.mem ∧ ∀ j, j ≠ cl → (s.cardStart cl b).cluster j = s.cluster j := by
  have heq : s.cardStart cl b = (s.tileBound cl b).modCard cl tag fun k => { k with st := .running, wait := .ready, got := [] } := by
    rw [← card_tag h]
    rfl
  rw [heq]
  rcases tileBound_cases s cl b with hsame | ⟨f, hf⟩
  · rw [hsame]
    exact ⟨card_modCard h fun _ => rfl, rfl, rfl, fun j hj => modCluster_cluster_ne hj _⟩
  · have hcard : (s.tileBound cl b).card cl tag = some b := by
      rw [hf, State.card, modCluster_cluster]
      exact h
    refine ⟨card_modCard hcard fun _ => rfl, ?_, ?_, fun j hj => (modCluster_cluster_ne hj _).trans ?_⟩
    all_goals rw [hf]
    · rfl
    · rfl
    · exact modCluster_cluster_ne hj _

/-! ## Completion (R357, R362, R363, R375) -/

/-- `s'` is `s` but for its teams and clusters. -/
def TeamsAndClusters (s s' : State) : Prop := ∃ t c, s' = { s with teams := t, clusters := c }

theorem TeamsAndClusters.refl (s : State) : TeamsAndClusters s s := ⟨s.teams, s.clusters, rfl⟩
theorem TeamsAndClusters.trans {a b c : State} (h : TeamsAndClusters a b) (g : TeamsAndClusters b c) : TeamsAndClusters a c := by
  obtain ⟨_, _, rfl⟩ := h
  obtain ⟨t, c, rfl⟩ := g
  exact ⟨t, c, rfl⟩
theorem teamsAndClusters_modCluster (s : State) (cl : Nat) (f : Cluster → Cluster) : TeamsAndClusters s (s.modCluster cl f) := ⟨s.teams, _, rfl⟩
theorem teamsAndClusters_modTeam (s : State) (k : Nat) (f : Team → Team) : TeamsAndClusters s (s.modTeam k f) := ⟨_, s.clusters, rfl⟩
theorem teamsAndClusters_foldl {α : Type} {f : State → α → State} (hf : ∀ s a, TeamsAndClusters s (f s a)) (l : List α) (s : State) :
    TeamsAndClusters s (l.foldl f s) := by
  induction l generalizing s with
  | nil => exact .refl s
  | cons a r ih => exact (hf s a).trans (ih _)

theorem teamsAndClusters_cardCredit (s : State) (cl : Nat) (k : Card) (n : Nat) (f : Bar → Bar) : TeamsAndClusters s (s.cardCredit cl k n f) := by
  refine (teamsAndClusters_foldl (fun s a => ?_) _ s).trans (teamsAndClusters_modCluster ..)
  dsimp only
  split_ifs
  · exact teamsAndClusters_modCluster ..
  · exact .refl s

theorem teamsAndClusters_modEntry (s : State) (k e : Nat) (f : Entry → Entry) : TeamsAndClusters s (s.modEntry k e f) := teamsAndClusters_modTeam ..
theorem teamsAndClusters_drainClear (s : State) (cl : Nat) (k : Card) (i n : Nat) : TeamsAndClusters s (s.drainClear cl k i n) := by
  unfold State.drainClear
  split_ifs
  · exact teamsAndClusters_modCluster ..
  · exact .refl s
theorem teamsAndClusters_drainRegsOut (s : State) (cl : Nat) (k : Card) : TeamsAndClusters s (s.drainRegsOut cl k) := by
  unfold State.drainRegsOut
  exact (teamsAndClusters_modEntry ..).trans ((teamsAndClusters_drainClear ..).trans (teamsAndClusters_modCluster ..))

/-- R375: the machine once a register drain that completes has handed over its result. -/
def State.registersDrained (s : State) (cl : Nat) (k : Card) : State :=
  if k.kind = 3 && drainReg k.bits then
    (if k.st = .running then s.drainRegsOut cl k else s.modEntry k.team k.entry fun e => ({ e with dest := [], stage := 1 } : Entry).finish)
  else s

theorem teamsAndClusters_registersDrained (s : State) (cl : Nat) (k : Card) : TeamsAndClusters s (s.registersDrained cl k) := by
  unfold State.registersDrained
  split_ifs
  · exact teamsAndClusters_drainRegsOut ..
  · exact teamsAndClusters_modEntry ..
  · exact .refl s

theorem teamsAndClusters_cardEnd (s : State) (cl : Nat) (k : Card) : TeamsAndClusters s (s.cardEnd cl k) := by
  unfold State.cardEnd
  dsimp only
  split
  · exact (teamsAndClusters_cardCredit ..).trans ((teamsAndClusters_modCluster ..).trans (teamsAndClusters_modCluster ..))
  · exact (teamsAndClusters_cardCredit ..).trans (teamsAndClusters_modCluster ..)

/-- R357: a card that ends leaves its cluster's queue, and its tag is free. -/
theorem cardEnd_leaves (s : State) (cl : Nat) (k : Card) :
    (∀ x ∈ ((s.cardEnd cl k).cluster cl).cards, x.tag ≠ k.tag) ∧ k.tag ∉ ((s.cardEnd cl k).cluster cl).open_ := by
  unfold State.cardEnd
  dsimp only
  rw [modCluster_cluster]
  refine ⟨fun x hx => ?_, fun hx => ?_⟩
  · simpa using (List.mem_filter.1 hx).2
  · simpa using (List.mem_filter.1 hx).2

/-- R357: an event of completion, by the card's condition. -/
theorem cardComplete_does {s : State} {b : Card} (h : s.card s.arg.n0 s.arg.n1 = some b) :
    (s.mayComplete s.arg.n0 b = false → Does .cardComplete s s) ∧ (s.mayComplete s.arg.n0 b = true →
      Does .cardComplete s ((s.registersDrained s.arg.n0 b).cardEnd s.arg.n0 (((s.registersDrained s.arg.n0 b).card s.arg.n0 s.arg.n1).getD b))) := by
  have hdoes := cardEvent_does (ok := s.mayComplete s.arg.n0) (f := fun k => (s.registersDrained s.arg.n0 k).cardEnd (s.registersDrained s.arg.n0 k).arg.n0
    (((s.registersDrained s.arg.n0 k).card (s.registersDrained s.arg.n0 k).arg.n0 k.tag).getD k)) (i := .cardComplete) rfl h
  have harg : (s.registersDrained s.arg.n0 b).arg = s.arg := by
    obtain ⟨_, _, heq⟩ := teamsAndClusters_registersDrained s s.arg.n0 b
    rw [heq]
  rwa [harg, card_tag h] at hdoes

theorem cardComplete_completes {s : State} {b : Card} (h : s.card s.arg.n0 s.arg.n1 = some b) (hmay : s.mayComplete s.arg.n0 b = true) :
    ∃ s1, Does .cardComplete s s1 ∧ (∀ x ∈ (s1.cluster s.arg.n0).cards, x.tag ≠ s.arg.n1) ∧ s.arg.n1 ∉ (s1.cluster s.arg.n0).open_ ∧ s1.mem = s.mem ∧
      s1.launches = s.launches := by
  have htag : (((s.registersDrained s.arg.n0 b).card s.arg.n0 s.arg.n1).getD b).tag = s.arg.n1 := by
    cases hc : (s.registersDrained s.arg.n0 b).card s.arg.n0 s.arg.n1 with
    | none => exact card_tag h
    | some x => exact card_tag hc
  obtain ⟨hcards, hopen⟩ := cardEnd_leaves (s.registersDrained s.arg.n0 b) s.arg.n0 (((s.registersDrained s.arg.n0 b).card s.arg.n0 s.arg.n1).getD b)
  rw [htag] at hcards hopen
  obtain ⟨_, _, heq⟩ := (teamsAndClusters_registersDrained s s.arg.n0 b).trans (teamsAndClusters_cardEnd ..)
  exact ⟨_, (cardComplete_does h).2 hmay, hcards, hopen, (congrArg State.mem heq).trans rfl, (congrArg State.launches heq).trans rfl⟩

end Sys2Proof.Machine
end

section
/-! PROOFS. Filling mapped stash leaves the event of a card as it is (R334, R336, R584): for O53. -/

namespace Sys2Proof.Machine

/-! ## Operations of the fill -/

theorem count_arg (s : State) (c ev n : Nat) : (s.count c ev n).arg = s.arg := by
  obtain ⟨_, hx, -⟩ := count_eq s c ev n
  rw [hx]
theorem snoopOut_arg (s : State) (ln : Nat) : (s.snoopOut ln).arg = s.arg := by
  obtain ⟨_, _, _, hx⟩ := snooped_snoopOut s ln
  rw [hx]
theorem touchLine_arg (s : State) (ln p cls : Nat) : (s.touchLine ln p cls).arg = s.arg := by
  obtain ⟨_, hx⟩ := touchLine_eq s ln p cls
  rw [hx]

theorem joinWalk_arg (s : State) (ctx core va : Nat) : (s.joinWalk ctx core va).2.arg = s.arg := by
  unfold State.joinWalk
  split
  · exact count_arg ..
  · exact count_arg ..
theorem claimWalk_arg (s : State) (w : AccWait) (who : Serves) : (s.claimWalk w who).arg = s.arg := by
  unfold State.claimWalk
  split <;> rfl

/-- R168, R183: looking a translation up leaves the event as it is. -/
theorem engineLook_arg (s : State) (who : Serves) (ctx cl va n : Nat) : (s.engineLook who ctx cl va n).2.arg = s.arg := by
  have hmiss (s : State) : (((s.joinWalk ctx (4 * cl) va).2.claimWalk (.walk (s.joinWalk ctx (4 * cl) va).1) who).count ctx 33 1).arg = s.arg :=
    (count_arg ..).trans ((claimWalk_arg ..).trans (joinWalk_arg ..))
  have hturn (m : Move) : (s.queueTurn m who va n).2.arg = s.arg := rfl
  unfold State.engineLook
  dsimp only
  split
  next m _ =>
    split
    next h => exact (count_arg ..).trans ((congrArg (State.arg ∘ Prod.snd) h).symm.trans (hturn m))
    next h =>
      have hs := (congrArg (State.arg ∘ Prod.snd) h).symm.trans (hturn m)
      split
      · exact hs
      · exact (hmiss _).trans hs
  · split
    · rfl
    · exact hmiss s

theorem entryFor_arg (s : State) (v : View) (ln : Nat) : (s.entryFor v ln).2.arg = s.arg := by
  unfold State.entryFor
  split
  · rfl
  · split
    next w _ =>
      obtain ⟨_, hx⟩ := makeWay_eq s w
      rw [hx]
    · rfl
theorem putShadow_arg (s : State) (v : View) (ln : Nat) (x : Shadow) : (s.putShadow v ln x).arg = s.arg := by
  unfold State.putShadow
  split <;> rfl
theorem shadowWrite_arg (s : State) (v : View) (pa : Nat) (bs : List Byte) (pois : Bool) (tok : Nat) : (s.shadowWrite v pa bs pois tok).arg = s.arg := by
  unfold State.shadowWrite
  dsimp only
  refine (putShadow_arg ..).trans ?_
  split
  · split_ifs
    · exact (count_arg ..).trans ((count_arg ..).trans (entryFor_arg ..))
    · exact entryFor_arg ..
  · exact entryFor_arg ..
theorem usesLine_arg (s : State) (v : View) (pbr pa : Nat) : (s.usesLine v pbr pa).arg = s.arg := by
  unfold State.usesLine
  split <;> rfl
theorem poolWrite_arg (s : State) (v : View) (src : Nat) (e : PoolEnt) (pa : Nat) (op : MemOp) (serves : Serves) (epoch : Nat) :
    (s.poolWrite v src e pa op serves epoch).arg = s.arg :=
  usesLine_arg ..

/-- R336: the recall of a mapped-coherent line leaves the event as it is. -/
theorem recall_arg (s : State) (v : View) (ln : Nat) : (s.recall v ln).arg = s.arg := by
  unfold State.recall
  split
  · rfl
  · split
    · rfl
    · dsimp only [State.modCluster]
      split_ifs
      · rfl
      · exact (shadowWrite_arg ..).trans (snoopOut_arg ..)
      · split
        · exact poolWrite_arg ..
        · rfl

/-! ## Steps of a card -/

/-- A step of a card that succeeds leaves the event of `s` as it is. -/
def CardGo.KeepsEvent {α : Type} (s : State) (x : CardGo α) : Prop := ∀ a s1, x = .ok a s1 → s1.arg = s.arg

theorem CardGo.keepsEvent_ok {α : Type} {s s1 : State} (a : α) (h : s1.arg = s.arg) : CardGo.KeepsEvent s (.ok a s1) := by
  rintro _ _ ⟨⟩
  exact h
theorem CardGo.keepsEvent_wait {α : Type} {s s1 : State} (w : AccWait) : CardGo.KeepsEvent s (.wait w s1 : CardGo α) := by
  rintro _ _ ⟨⟩
theorem CardGo.keepsEvent_fault {α : Type} {s s1 : State} (c : Nat) : CardGo.KeepsEvent s (.fault c s1 : CardGo α) := by
  rintro _ _ ⟨⟩
theorem CardGo.keepsEvent_freeze {α : Type} {s s1 : State} (va r : Nat) : CardGo.KeepsEvent s (.freeze va r s1 : CardGo α) := by
  rintro _ _ ⟨⟩
theorem CardGo.keepsEvent_bind {α β : Type} {s : State} {x : CardGo α} {f : α → State → CardGo β} (hx : x.KeepsEvent s)
    (hf : ∀ a s1, (f a s1).KeepsEvent s1) : (x.bind f).KeepsEvent s := by
  cases x with
  | ok a s1 => exact fun b s2 h => (hf a s1 b s2 h).trans (hx a s1 rfl)
  | wait w s1 => exact keepsEvent_wait w
  | fault c s1 => exact keepsEvent_fault c
  | freeze va r s1 => exact keepsEvent_freeze va r

/-- Where a step has succeeded, what follows may read the event of the state before it. -/
theorem CardGo.bind_event {α β : Type} {s : State} {x : CardGo α} (hx : x.KeepsEvent s) (f : Arg → α → State → CardGo β) :
    (x.bind fun a s1 => f s1.arg a s1) = x.bind fun a s1 => f s.arg a s1 := by
  cases x with
  | ok a s1 => exact congrArg (f · a s1) (hx a s1 rfl)
  | wait w s1 => rfl
  | fault c s1 => rfl
  | freeze va r s1 => rfl

theorem CardGo.keepsEvent_ite {α : Type} {s : State} {p : Prop} [Decidable p] {x y : CardGo α} (hx : x.KeepsEvent s) (hy : y.KeepsEvent s) :
    CardGo.KeepsEvent s (if p then x else y) := by
  split
  · exact hx
  · exact hy

theorem cardXlat_keepsEvent (s : State) (cl : Nat) (k : Card) (u : Use) (va n : Nat) : (s.cardXlat cl k u va n).KeepsEvent s := by
  have harg := engineLook_arg s (.card cl k.tag) k.ctx cl va n
  unfold State.cardXlat
  refine CardGo.keepsEvent_ite (CardGo.keepsEvent_fault _) ?_
  split
  · exact CardGo.keepsEvent_wait _
  next e s1 h =>
    rw [h] at harg
    refine CardGo.keepsEvent_ite (CardGo.keepsEvent_fault _) ?_
    split
    · exact CardGo.keepsEvent_fault _
    · exact CardGo.keepsEvent_ite (CardGo.keepsEvent_freeze _ _) (CardGo.keepsEvent_ite (CardGo.keepsEvent_fault _) (CardGo.keepsEvent_ok _ harg))

theorem cardReadAt_keepsEvent (s : State) (cl : Nat) (k : Card) (va : Nat) (g : Seg) : (s.cardReadAt cl k va g).KeepsEvent s := by
  unfold State.cardReadAt
  refine CardGo.keepsEvent_ite (CardGo.keepsEvent_ite (CardGo.keepsEvent_wait _) (CardGo.keepsEvent_ok _ ((touchLine_arg ..).trans (count_arg ..)))) ?_
  split
  · exact CardGo.keepsEvent_ok _ rfl
  · refine CardGo.keepsEvent_ite (CardGo.keepsEvent_wait _) ?_
    split
    · exact CardGo.keepsEvent_freeze _ _
    · refine CardGo.keepsEvent_ite (CardGo.keepsEvent_ok _ rfl) (CardGo.keepsEvent_ite (CardGo.keepsEvent_wait _) ?_)
      split
      · exact CardGo.keepsEvent_ok _ rfl
      · exact CardGo.keepsEvent_wait _

theorem cardFill_keepsEvent (cl : Nat) (k : Card) (l : List (Nat × Mapping × Nat)) (s : State) : (s.cardFill cl k l).KeepsEvent s := by
  induction l generalizing s with
  | nil => exact CardGo.keepsEvent_ok () rfl
  | cons x r ih =>
    obtain ⟨mn, m, i⟩ := x
    refine CardGo.keepsEvent_bind (cardXlat_keepsEvent _ _ _ _ _ _) fun g s1 => CardGo.keepsEvent_bind (cardReadAt_keepsEvent _ _ _ _ _) fun x s2 => ?_
    dsimp only
    split_ifs with hheld hlocal
    · exact CardGo.keepsEvent_wait _
    · exact fun a s3 h => (ih _ a s3 h).trans (recall_arg ..)
    · exact fun a s3 h => (ih _ a s3 h).trans rfl

/-- R334, R358: a row's issue fills the mapped stash its card touches, and the unit then issues the row. -/
theorem matrixRowIssue_event (s : State) : Does .matrixRowIssue s (s.cardEvent (s.mayIssueRow s.arg.n0) fun b =>
    State.cardSettle s.arg.n0 b ((s.cardFill s.arg.n0 b (s.cardUnfilled s.arg.n0 b)).bind fun _ s1 => s1.mataUnit s.arg.n0 b)) := by
  refine congrArg (fun f => Host.Outcome.next (s.cardEvent (s.mayIssueRow s.arg.n0) f)) (funext fun b => ?_)
  exact congrArg (State.cardSettle s.arg.n0 b) (CardGo.bind_event (cardFill_keepsEvent _ _ _ _) fun a _ s1 => s1.mataUnit a.n0 b)

end Sys2Proof.Machine
end

section
/-! PROOFS. Monitors and polls (R349 to R352, R433): the fifth part of O53. -/

namespace Sys2Proof.Machine

/-! ## What a view reads does not depend on teams and contexts (R192, R195) -/

theorem chainOf_launches {s s' : State} (h : s'.launches = s.launches) (n lk : Nat) : s'.chainOf n lk = s.chainOf n lk := by
  induction n generalizing lk with
  | zero => rfl
  | succ n ih => simp only [State.chainOf, State.launch, h, ih]

section
variable (s : State) (u : Tbl Team) (x : Tbl Ctx) (v : View)

theorem lookThrough_withTeams : ({ s with teams := u, ctxs := x } : State).lookThrough v = s.lookThrough v := by
  cases v with
  | launch lk =>
    simp only [State.lookThrough]
    rw [chainOf_launches (s := s) (s' := { s with teams := u, ctxs := x }) rfl]
    rfl
  | foreign d p w => rfl
theorem viewUnder_withTeams (pa : Nat) : ({ s with teams := u, ctxs := x } : State).viewUnder v pa = s.viewUnder v pa := by
  unfold State.viewUnder
  rw [lookThrough_withTeams]
  rfl
theorem viewByte_withTeams (pa : Nat) : ({ s with teams := u, ctxs := x } : State).viewByte v pa = s.viewByte v pa := by
  unfold State.viewByte
  rw [viewUnder_withTeams]
  rfl
theorem withDeltas_withTeams (pa : Nat) (run : List Byte) : ({ s with teams := u, ctxs := x } : State).withDeltas v pa run = s.withDeltas v pa run := by
  unfold State.withDeltas
  simp only [viewByte_withTeams]
  rfl
theorem viewRead_withTeams (pa n : Nat) : ({ s with teams := u, ctxs := x } : State).viewRead v pa n = s.viewRead v pa n := by
  unfold State.viewRead
  simp only [viewByte_withTeams, withDeltas_withTeams]
  rfl
theorem monNow_withTeams (t : Team) : ({ s with teams := u, ctxs := x } : State).monNow t = s.monNow t := by
  unfold State.monNow
  simp only [viewRead_withTeams]
  rfl

end

/-! ## Wakes (R349, R350) -/

section
variable {s : State}

theorem monitorWake_team (h : s.arg.flag = false) : Does .monitorWake s (if s.monWakes (s.team s.arg.n0) then
    ((s.monNow (s.team s.arg.n0)).elim s fun w => s.monSet s.arg.n0 w) else s) := by
  show execMonitorWake s = _
  simp only [execMonitorWake, h]
  cases s.monNow (s.team s.arg.n0) <;> rfl

theorem monitorWake_idle (h : s.arg.flag = false) (hno : s.monWakes (s.team s.arg.n0) = false) : Does .monitorWake s s := by
  have hdoes := monitorWake_team h
  rwa [hno] at hdoes

theorem mem_teams_of_mon {k : Nat} {m : Monitor} (h : (s.team k).sync.mon = some m) : Tbl.get? s.teams k = some (s.team k) := by
  cases ht : Tbl.get? s.teams k with
  | some t => rw [team_of_get? ht]
  | none =>
    rw [State.team, Tbl.getD, ht] at h
    cases h

theorem monSet_eq {k : Nat} {m : Monitor} (h : (s.team k).sync.mon = some m) (w : Word) :
    s.monSet k w = s.setTeam k { s.team k with sync := { (s.team k).sync with mon := some { m with status := 2, word := w } } } := by
  simp only [State.monSet, State.modTeam, State.setTeam, Tbl.modify, mem_teams_of_mon h, h]
  rfl

theorem monitorWake_wakes {m : Monitor} {w : Word} (hf : s.arg.flag = false) (hm : (s.team s.arg.n0).sync.mon = some m) (hs : m.slice.isSome = true)
    (hw : s.monNow (s.team s.arg.n0) = some w) :
    Does .monitorWake s (s.setTeam s.arg.n0 { s.team s.arg.n0 with sync := { (s.team s.arg.n0).sync with mon := some { m with status := 2, word := w } } }) := by
  have hdoes := monitorWake_team hf
  have hwakes : s.monWakes (s.team s.arg.n0) = true := by simp only [State.monWakes, hm, hs, hw, Option.isSome_some, Bool.and_self]
  rwa [if_pos hwakes, hw, Option.elim_some, monSet_eq hm] at hdoes

theorem monitorWake_noEntry (hf : s.arg.flag = true) (h : s.ports.mons.find? (fun m => m.die = s.arg.n0 && m.id = s.arg.n1) = none) : Does .monitorWake s s := by
  show execMonitorWake s = _
  simp only [execMonitorWake, hf, h]
  rfl

theorem monitorWake_entry {m : PoolMon} (hf : s.arg.flag = true) (h : s.ports.mons.find? (fun m => m.die = s.arg.n0 && m.id = s.arg.n1) = some m) :
    Does .monitorWake s (if s.poolMonHolds m then s.poolWake m 2 else s) := by
  show execMonitorWake s = _
  simp only [execMonitorWake, hf, h]
  rfl

/-! ## Polls (R351) -/

/-- R351: a monitor after its poll: it polls again after twice its interval. -/
def Monitor.again (m : Monitor) (now : Nat) : Monitor := { m with pollInt := min 4096 (2 * m.pollInt), pollAt := now + min 4096 (2 * m.pollInt) }

/-- The machine whose team's monitor has polled. -/
def State.repolled (s : State) (k : Nat) (m : Monitor) : State :=
  (s.modTeam k fun t => { t with sync := { t.sync with mon := some (m.again s.now) } }).count (s.team k).id.ctx 48 1

/-- Of the teams only `k` has changed, which is `t` with its monitor now `m`, and no byte of memory has. -/
structure MonitorSet (s s1 : State) (k : Nat) (t : Team) (m : Monitor) : Prop where
  team : Tbl.get? s1.teams k = some { t with sync := { t.sync with mon := some m } }
  others : ∀ j, j ≠ k → Tbl.get? s1.teams j = Tbl.get? s.teams j
  mem : s1.mem = s.mem

theorem MonitorSet.then {s1 s2 : State} {k : Nat} {t : Team} {m : Monitor} (h : MonitorSet s s1 k t m) (ht : s2.teams = s1.teams) (hm : s2.mem = s1.mem) :
    MonitorSet s s2 k t m :=
  ⟨by rw [ht]; exact h.team, fun j hj => by rw [ht]; exact h.others j hj, hm.trans h.mem⟩

theorem repolled_eq (s : State) (k : Nat) (m : Monitor) : ∃ x, s.repolled k m =
    { s with teams := Tbl.modify s.teams k fun t => { t with sync := { t.sync with mon := some (m.again s.now) } }, ctxs := x } := by
  obtain ⟨x, hx, -⟩ := count_eq (s.modTeam k fun t => { t with sync := { t.sync with mon := some (m.again s.now) } }) (s.team k).id.ctx 48 1
  exact ⟨x, hx⟩

theorem repolled_set {k : Nat} {m : Monitor} (h : (s.team k).sync.mon = some m) : MonitorSet s (s.repolled k m) k (s.team k) (m.again s.now) := by
  obtain ⟨x, hx⟩ := repolled_eq s k m
  rw [hx]
  exact ⟨get?_modTeam_same (mem_teams_of_mon h) _, fun j hj => by simp [hj], rfl⟩

theorem MonitorSet.monSet {s1 : State} {k : Nat} {t : Team} {m : Monitor} (h : MonitorSet s s1 k t m) (w : Word) :
    MonitorSet s (s1.monSet k w) k t { m with status := 2, word := w } :=
  ⟨get?_modTeam_same h.team _, fun j hj => by simp [State.monSet, State.modTeam, hj, h.others j hj], h.mem⟩

theorem request_eq (s : State) (r : Req) (via : Nat) (m : Msg) : ∃ x o, s.request r via m = { s with xlat := x, outbox := o } := by
  unfold State.request
  dsimp only
  split_ifs
  · exact ⟨_, _, rfl⟩
  · exact ⟨_, s.outbox, rfl⟩
theorem askHost_keeps (s : State) (w : Serves) (c : Nat) (g : Seg) : (s.askHost w c g).2.teams = s.teams ∧ (s.askHost w c g).2.mem = s.mem := by
  simp only [State.askHost]
  obtain ⟨x, hx, -⟩ := count_eq (State.request s.take.2 _ _ _) c 31 1
  obtain ⟨y, o, hy⟩ := request_eq s.take.2 { tag := s.take.1, for_ := w, addr := g.pa, write := false } (hostVia g.shared)
    (.hostRead s.take.1 (lineBase g.pa) (ctabPasid (s.take.2.ctabOf c)) g.shared)
  rw [hx, hy]
  exact ⟨rfl, rfl⟩
theorem askPool_keeps (s : State) (w : Serves) (e : PoolEnt) (pa : Nat) (op : MemOp) (b : Bool) :
    (s.askPool w e pa op b).2.teams = s.teams ∧ (s.askPool w e pa op b).2.mem = s.mem := by
  simp only [State.askPool]
  obtain ⟨y, o, hy⟩ := request_eq s.take.2 { tag := s.take.1, for_ := w, addr := pa, write := b, pbr := some e.pbr } e.link
    (.poolReq e.link s.take.1 (e.dpaOf pa) op)
  rw [hy]
  exact ⟨rfl, rfl⟩

/-- R95: a violation is logged and posted. -/
theorem violate_eq (s : State) (c kind inst a right : Nat) : ∃ x o l, s.violate c kind inst a right = { s with ctxs := x, outbox := o, mil := l } := by
  unfold State.violate
  generalize BitVec.ofNat 32 _ = w
  obtain ⟨x, o, heq⟩ := postEvent_eq (s.logIt (.violation kind inst a right s.now)) c 0 0x90 w
  exact ⟨x, _, _, heq⟩

/-- R95: a team that a violation freezes keeps what it is doing. -/
theorem freezeTeam_freezes {k : Nat} {t : Team} (h : Tbl.get? s.teams k = some t) (t0 : Team) (lane va right : Nat) :
    (∃ y, Tbl.get? (s.freezeTeam k t0 lane va right).teams k = some y ∧ y.sched.frozen.isSome = true ∧ y.sync = t.sync ∧ y.regs = t.regs ∧ y.flow = t.flow) ∧
      (s.freezeTeam k t0 lane va right).mem = s.mem := by
  obtain ⟨x, o, l, heq⟩ := violate_eq
    (s.modTeam k fun t => { t with sched := { t.sched with frozen := some { cause := 0x90, lane := lane, info := s.infoV 0 t0.id.slot va right } } })
    t0.id.ctx 0 t0.id.slot va right
  have hteams : (s.freezeTeam k t0 lane va right).teams = _ := congrArg State.teams heq
  rw [hteams]
  exact ⟨⟨_, get?_modTeam_same h _, rfl, rfl, rfl, rfl⟩, (congrArg State.mem heq).trans rfl⟩

theorem waitcPoll_idle (h : s.pollDue (s.team s.arg.n0) = false) : Does .waitcPoll s s := by
  show execWaitcPoll s = _
  simp only [execWaitcPoll, h]
  cases (s.team s.arg.n0).sync.mon <;> rfl

section
variable {m : Monitor} (hm : (s.team s.arg.n0).sync.mon = some m) (hdue : s.pollDue (s.team s.arg.n0) = true)
include hm hdue

/-- R351: a poll asks the host, reads at home, or asks the pool. -/
theorem waitcPoll_does : Does .waitcPoll s (
    if m.host then ((s.repolled s.arg.n0 m).askHost (.mon s.arg.n0) (s.team s.arg.n0).id.ctx { len := 8, pa := m.pa, host := true }).2
    else if s.isLocal m.pa then
      (if s.hostExcl (lineNo m.pa) then (s.repolled s.arg.n0 m).snoopOut (lineNo m.pa)
       else (s.monNow (s.team s.arg.n0)).elim (s.repolled s.arg.n0 m) ((s.repolled s.arg.n0 m).monSet s.arg.n0))
    else (s.poolFor (s.team s.arg.n0).id.part m.pa).elim
      (if (s.team s.arg.n0).sched.frozen.isSome then s.repolled s.arg.n0 m
       else (s.repolled s.arg.n0 m).freezeTeam s.arg.n0 (s.team s.arg.n0) 0 m.va ((s.repolled s.arg.n0 m).rightAt m.pa))
      fun e => if e.lost then s.repolled s.arg.n0 m
        else ((s.repolled s.arg.n0 m).askPool (.mon s.arg.n0) e m.pa ((s.repolled s.arg.n0 m).viewOp (s.team s.arg.n0).view) false).2) := by
  obtain ⟨x, hx⟩ := repolled_eq s s.arg.n0 m
  have hnow : (s.repolled s.arg.n0 m).monNow (s.team s.arg.n0) = s.monNow (s.team s.arg.n0) := by rw [hx, monNow_withTeams]
  have hexcl : (s.repolled s.arg.n0 m).hostExcl (lineNo m.pa) = s.hostExcl (lineNo m.pa) := by rw [hx]; rfl
  have hlocal : (s.repolled s.arg.n0 m).isLocal m.pa = s.isLocal m.pa := by rw [hx]; rfl
  have hpool : (s.repolled s.arg.n0 m).poolFor (s.team s.arg.n0).id.part m.pa = s.poolFor (s.team s.arg.n0).id.part m.pa := by rw [hx]; rfl
  rw [← hnow, ← hexcl, ← hlocal, ← hpool]
  show execWaitcPoll s = _
  have hrepolled : (s.modTeam s.arg.n0 fun t => { t with sync := { t.sync with mon := some { m with
      pollInt := min 4096 (2 * m.pollInt), pollAt := s.now + min 4096 (2 * m.pollInt) } } }).count (s.team s.arg.n0).id.ctx 48 1 = s.repolled s.arg.n0 m := rfl
  simp only [execWaitcPoll, hm, hdue, hrepolled]
  refine congrArg Host.Outcome.next ?_
  cases (s.repolled s.arg.n0 m).monNow (s.team s.arg.n0) <;> cases (s.repolled s.arg.n0 m).poolFor (s.team s.arg.n0).id.part m.pa <;> rfl

theorem waitcPoll_host (hh : m.host = true) :
    ∃ s1, Does .waitcPoll s s1 ∧ MonitorSet s s1 s.arg.n0 (s.team s.arg.n0) (m.again s.now) := by
  have hdoes := waitcPoll_does hm hdue
  rw [if_pos hh] at hdoes
  obtain ⟨hteams, hmem⟩ := askHost_keeps (s.repolled s.arg.n0 m) (.mon s.arg.n0) (s.team s.arg.n0).id.ctx { len := 8, pa := m.pa, host := true }
  exact ⟨_, hdoes, (repolled_set hm).then hteams hmem⟩

section
variable (hh : m.host = false) (hloc : s.isLocal m.pa = true)
include hh hloc

theorem waitcPoll_unmet (h : s.hostExcl (lineNo m.pa) = true ∨ s.monNow (s.team s.arg.n0) = none) :
    ∃ s1, Does .waitcPoll s s1 ∧ MonitorSet s s1 s.arg.n0 (s.team s.arg.n0) (m.again s.now) := by
  have hdoes := waitcPoll_does hm hdue
  rw [if_neg (Bool.eq_false_iff.1 hh), if_pos hloc] at hdoes
  refine ⟨_, hdoes, ?_⟩
  split
  · obtain ⟨c, o, w, hout⟩ := snooped_snoopOut (s.repolled s.arg.n0 m) (lineNo m.pa)
    rw [hout]
    exact (repolled_set hm).then rfl rfl
  next hexcl =>
    rw [h.resolve_left hexcl]
    exact repolled_set hm

theorem waitcPoll_met (hexcl : s.hostExcl (lineNo m.pa) = false) {w : Word} (hw : s.monNow (s.team s.arg.n0) = some w) :
    ∃ s1, Does .waitcPoll s s1 ∧ MonitorSet s s1 s.arg.n0 (s.team s.arg.n0) { m.again s.now with status := 2, word := w } := by
  have hdoes := waitcPoll_does hm hdue
  rw [if_neg (Bool.eq_false_iff.1 hh), if_pos hloc, if_neg (Bool.eq_false_iff.1 hexcl), hw] at hdoes
  exact ⟨_, hdoes, (repolled_set hm).monSet w⟩

end

section
variable (hh : m.host = false) (hfar : s.isLocal m.pa = false)
include hh hfar

theorem waitcPoll_pool (h : (s.poolFor (s.team s.arg.n0).id.part m.pa).isSome = true ∨ (s.team s.arg.n0).sched.frozen.isSome = true) :
    ∃ s1, Does .waitcPoll s s1 ∧ MonitorSet s s1 s.arg.n0 (s.team s.arg.n0) (m.again s.now) := by
  have hdoes := waitcPoll_does hm hdue
  rw [if_neg (Bool.eq_false_iff.1 hh), if_neg (Bool.eq_false_iff.1 hfar)] at hdoes
  refine ⟨_, hdoes, ?_⟩
  cases hp : s.poolFor (s.team s.arg.n0).id.part m.pa with
  | none =>
    rw [hp] at h
    rw [Option.elim_none, if_pos (h.resolve_left Bool.false_ne_true)]
    exact repolled_set hm
  | some e =>
    rw [Option.elim_some]
    split
    · exact repolled_set hm
    · obtain ⟨hteams, hmem⟩ := askPool_keeps (s.repolled s.arg.n0 m) (.mon s.arg.n0) e m.pa ((s.repolled s.arg.n0 m).viewOp (s.team s.arg.n0).view) false
      exact (repolled_set hm).then hteams hmem

/-- R67, R95: a poll of pool memory that is no longer granted freezes its team. -/
theorem waitcPoll_freezes (hp : s.poolFor (s.team s.arg.n0).id.part m.pa = none) (hf : (s.team s.arg.n0).sched.frozen = none) :
    ∃ s1 y, Does .waitcPoll s s1 ∧ Tbl.get? s1.teams s.arg.n0 = some y ∧ y.sync.mon = some (m.again s.now) ∧ y.sched.frozen.isSome = true ∧
      y.regs = (s.team s.arg.n0).regs ∧ y.flow = (s.team s.arg.n0).flow ∧ s1.mem = s.mem := by
  have hdoes := waitcPoll_does hm hdue
  rw [if_neg (Bool.eq_false_iff.1 hh), if_neg (Bool.eq_false_iff.1 hfar), hp, hf, Option.elim_none, Option.isSome_none, if_neg Bool.false_ne_true] at hdoes
  obtain ⟨⟨y, hy, hfrozen, hsync, hregs, hflow⟩, hmem⟩ := freezeTeam_freezes (repolled_set hm).team (s.team s.arg.n0) 0 m.va
    ((s.repolled s.arg.n0 m).rightAt m.pa)
  exact ⟨_, y, hdoes, hy, congrArg TeamSync.mon hsync, hfrozen, hregs, hflow, hmem.trans (repolled_set hm).mem⟩

end
end
end

end Sys2Proof.Machine
end

section
/-! PROOFS. The end of a transaction's commit (R345 to R348): the sixth part of O53. -/

namespace Sys2Proof.Machine

/-! ## The team of a transaction that ends -/

/-- R346: a team whose transaction has ended with status 0. -/
def Team.tmOver (y : Team) : Team :=
  { y with sync := { y.sync with park := .run, tm := { y.sync.tm with active := false, committing := false, reads := [], writes := [], acnt := 0, st := 0 } } }

/-- R346: the machine with a transaction's lines applied, and its team running on. -/
def State.tmApplied (s : State) (k : Nat) (t : Team) (x : Tm) : State :=
  (x.writes.foldl (fun s w => s.tmApply k t w.1 w.2.1 w.2.2) s).modTeam k Team.tmOver

/-- Team `y` at `k` is `t` with its transaction ended, and no other team and no byte of memory has changed. -/
structure TransactionOver (s s1 : State) (k : Nat) (t y : Team) : Prop where
  team : Tbl.get? s1.teams k = some y
  kept : y.regs = t.regs ∧ y.flow = t.flow
  ended : y.sync.park = .run ∧ y.sync.tm.active = false ∧ y.sync.tm.st = 0 ∧ y.sync.tm.acnt = 0
  others : ∀ j, j ≠ k → Tbl.get? s1.teams j = Tbl.get? s.teams j
  mem : s1.mem = s.mem

section
variable {s s1 : State} {k : Nat} {t y : Team}

theorem transactionOver_applied {x : Tm} (h : Tbl.get? s.teams k = some t) (hw : x.writes = []) : TransactionOver s (s.tmApplied k t x) k t t.tmOver := by
  have happlied : s.tmApplied k t x = s.modTeam k Team.tmOver := by
    rw [State.tmApplied, hw]
    rfl
  rw [happlied]
  exact ⟨get?_modTeam_same h _, ⟨rfl, rfl⟩, ⟨rfl, rfl, rfl, rfl⟩, fun j hj => by simp [State.modTeam, hj], rfl⟩

/-- R348: the token that goes on leaves the transaction ended. -/
theorem TransactionOver.freeToken (h : TransactionOver s s1 k t y) :
    TransactionOver s (s1.freeToken k) k t { y with sync := { y.sync with tm := { y.sync.tm with token := false } } } where
  team := get?_modTeam_same (s := s1.modPart _ _) h.team _
  kept := h.kept
  ended := h.ended
  others j hj := by simp [State.freeToken, State.modTeam, hj, h.others j hj]
  mem := h.mem

theorem TransactionOver.count (h : TransactionOver s s1 k t y) (c ev n : Nat) : TransactionOver s (s1.count c ev n) k t y := by
  obtain ⟨x, hx, -⟩ := count_eq s1 c ev n
  rw [hx]
  exact ⟨h.team, h.kept, h.ended, h.others, h.mem⟩

/-- A team whose log is being committed is there. -/
theorem team_of_committing (h : (s.team k).sync.tm.committing = true) : Tbl.get? s.teams k = some (s.team k) := by
  cases hteam : Tbl.get? s.teams k with
  | some y => rw [team_of_get? hteam]
  | none =>
    rw [State.team, Tbl.getD, hteam] at h
    cases h

end

/-! ## The event -/

section
variable {s : State} {k : Nat} {t : Team} {x : Tm} (hk : k = s.arg.n0) (ht : t = s.team k) (hx : x = t.sync.tm)
include hk ht hx

theorem tmCommitResult_idle (h : x.committing = false ∨ x.asked ≠ [] ∨ x.lines.any (s.lockedBy k) = true) : Does .tmCommitResult s s := by
  subst hk ht hx
  exact if_pos (h.imp_left fun hno => by rw [hno]; rfl)

section
variable (hc : x.committing = true) (ha : x.asked = []) (hl : x.lines.any (s.lockedBy k) = false)
include hc ha hl

omit hk ht hx in
theorem not_tmIdle : ¬ ((!x.committing) = true ∨ x.asked ≠ [] ∨ x.lines.any (s.lockedBy k) = true) := by
  simp only [hc, ha, hl]
  decide

theorem tmCommitResult_fails (hser : x.ser = false) (hv : s.tmValid t.view x = false) : Does .tmCommitResult s (s.tmAbort k 1) := by
  have hfail : (!x.ser && !s.tmValid t.view x) = true := by rw [hser, hv]; rfl
  have hbusy := not_tmIdle hc ha hl
  subst hk ht hx
  exact (if_neg hbusy).trans (if_pos hfail)

/-- R222, R223: a transaction without room waits, for an older launch's lines. -/
def State.awaitsRoom (s : State) (v : View) : Bool :=
  (match v with | .launch lk => !(s.launch lk).head.abortOvf | .foreign _ _ _ => false) && s.olderThan v

/-- R72, R346, R347: what becomes of a transaction whose reads stand. -/
theorem tmCommitResult_valid (hv : x.ser = true ∨ s.tmValid t.view x = true) : Does .tmCommitResult s (
    if x.writes.any fun w => s.lostAt (64 * w.1) then s.lostWrite k t
    else (x.writes.find? fun w => !s.isLocal (64 * w.1) && (s.poolFor t.id.part (64 * w.1)).isNone).elim
      (if s.poolStalled t.id.slot && x.writes.any fun w => !s.isLocal (64 * w.1) then s
       else if x.writes.any fun w => s.isLocal (64 * w.1) && s.hostHolds w.1 then
         (x.writes.filter fun w => s.isLocal (64 * w.1) && s.hostHolds w.1).foldl (fun s w => s.snoopOut w.1) s
       else if !(x.writes.all fun w => !s.isLocal (64 * w.1) || s.hasRoom t.view w.1) then
         (if s.awaitsRoom t.view then s else s.abortTeam k t 0x4F)
       else (if x.token then (s.tmApplied k t x).freeToken k else s.tmApplied k t x).count t.id.ctx 49 1)
      fun w => if t.sched.frozen.isSome then s else s.freezeTeam k t 0 (64 * w.1) (s.rightAt (64 * w.1))) := by
  have hpass : ¬ (!x.ser && !s.tmValid t.view x) = true := by rcases hv with h | h <;> simp [h]
  have hbusy := not_tmIdle hc ha hl
  subst hk ht hx
  refine (if_neg hbusy).trans ((if_neg hpass).trans ?_)
  unfold State.awaitsRoom
  cases hfar : List.find? (fun w => !s.isLocal (64 * w.1) && (s.poolFor (s.team s.arg.n0).id.part (64 * w.1)).isNone) (s.team s.arg.n0).sync.tm.writes with
  | some w =>
    simp only [apply_ite Host.Outcome.next, Option.elim_some]
  | none =>
    simp only [apply_ite Host.Outcome.next, Option.elim_none]
    cases (s.team s.arg.n0).view <;> rfl

section
variable (hv : x.ser = true ∨ s.tmValid t.view x = true)
include hv

theorem tmCommitResult_lost (hlost : (x.writes.any fun w => s.lostAt (64 * w.1)) = true) : Does .tmCommitResult s (s.lostWrite k t) := by
  have hdoes := tmCommitResult_valid hk ht hx hc ha hl hv
  rwa [if_pos hlost] at hdoes

theorem tmCommitResult_far {w : _} (hlost : (x.writes.any fun w => s.lostAt (64 * w.1)) = false)
    (hfar : (x.writes.find? fun w => !s.isLocal (64 * w.1) && (s.poolFor t.id.part (64 * w.1)).isNone) = some w) :
    Does .tmCommitResult s (if t.sched.frozen.isSome then s else s.freezeTeam k t 0 (64 * w.1) (s.rightAt (64 * w.1))) := by
  have hdoes := tmCommitResult_valid hk ht hx hc ha hl hv
  rwa [if_neg (Bool.eq_false_iff.1 hlost), hfar] at hdoes

section
variable (hlost : (x.writes.any fun w => s.lostAt (64 * w.1)) = false)
  (hfar : (x.writes.find? fun w => !s.isLocal (64 * w.1) && (s.poolFor t.id.part (64 * w.1)).isNone) = none)
include hlost hfar

theorem tmCommitResult_stalled (hstall : (s.poolStalled t.id.slot && x.writes.any fun w => !s.isLocal (64 * w.1)) = true) : Does .tmCommitResult s s := by
  have hdoes := tmCommitResult_valid hk ht hx hc ha hl hv
  rwa [if_neg (Bool.eq_false_iff.1 hlost), hfar, Option.elim_none, if_pos hstall] at hdoes

/-- R346, R347: the end of a transaction of which no line is lost, beyond reach or stalled. -/
theorem tmCommitResult_reached (hstall : (s.poolStalled t.id.slot && x.writes.any fun w => !s.isLocal (64 * w.1)) = false) : Does .tmCommitResult s (
    if (x.writes.filter fun w => s.isLocal (64 * w.1) && s.hostHolds w.1) ≠ [] then
      (x.writes.filter fun w => s.isLocal (64 * w.1) && s.hostHolds w.1).foldl (fun s w => s.snoopOut w.1) s
    else if (x.writes.all fun w => !s.isLocal (64 * w.1) || s.hasRoom t.view w.1) = false then
      (if s.awaitsRoom t.view then s else s.abortTeam k t 0x4F)
    else (if x.token then (s.tmApplied k t x).freeToken k else s.tmApplied k t x).count t.id.ctx 49 1) := by
  have hdoes := tmCommitResult_valid hk ht hx hc ha hl hv
  rw [if_neg (Bool.eq_false_iff.1 hlost), hfar, Option.elim_none, if_neg (Bool.eq_false_iff.1 hstall)] at hdoes
  have hheld : (x.writes.any fun w => s.isLocal (64 * w.1) && s.hostHolds w.1) = true ↔ (x.writes.filter fun w => s.isLocal (64 * w.1) && s.hostHolds w.1) ≠ [] := by
    rw [← List.isEmpty_eq_false_iff]
    simp
  simpa only [hheld, Bool.not_eq_true'] using hdoes

variable (hstall : (s.poolStalled t.id.slot && x.writes.any fun w => !s.isLocal (64 * w.1)) = false)
include hstall

/-- R60, R346: hosts that hold lines of the transaction are asked for them first. -/
theorem tmCommitResult_held (hheld : (x.writes.filter fun w => s.isLocal (64 * w.1) && s.hostHolds w.1) ≠ []) :
    Does .tmCommitResult s ((x.writes.filter fun w => s.isLocal (64 * w.1) && s.hostHolds w.1).foldl (fun s w => s.snoopOut w.1) s) := by
  have hdoes := tmCommitResult_reached hk ht hx hc ha hl hv hlost hfar hstall
  rwa [if_pos hheld] at hdoes

variable (hheld : (x.writes.filter fun w => s.isLocal (64 * w.1) && s.hostHolds w.1) = [])
include hheld

/-- R223: a transaction without room waits for an older launch, or its team aborts. -/
theorem tmCommitResult_full (hroom : (x.writes.all fun w => !s.isLocal (64 * w.1) || s.hasRoom t.view w.1) = false) :
    Does .tmCommitResult s (if s.awaitsRoom t.view then s else s.abortTeam k t 0x4F) := by
  have hdoes := tmCommitResult_reached hk ht hx hc ha hl hv hlost hfar hstall
  rwa [if_neg (not_not.2 hheld), if_pos hroom] at hdoes

/-- R346: a transaction that has room applies its lines. -/
theorem tmCommitResult_applies (hroom : (x.writes.all fun w => !s.isLocal (64 * w.1) || s.hasRoom t.view w.1) = true) :
    Does .tmCommitResult s ((if x.token then (s.tmApplied k t x).freeToken k else s.tmApplied k t x).count t.id.ctx 49 1) := by
  have hdoes := tmCommitResult_reached hk ht hx hc ha hl hv hlost hfar hstall
  rwa [if_neg (not_not.2 hheld), if_neg (by rw [hroom]; decide)] at hdoes

end

/-- R346: a transaction that wrote nothing ends, and nothing but its team changes. -/
theorem tmCommitResult_empty (hw : x.writes = []) : ∃ s1 y, Does .tmCommitResult s s1 ∧ TransactionOver s s1 k t y := by
  have hdoes := tmCommitResult_applies hk ht hx hc ha hl hv (by rw [hw]; rfl) (by rw [hw]; rfl) (by rw [hw]; exact Bool.and_false _) (by rw [hw]; rfl) (by rw [hw]; rfl)
  have hteam : Tbl.get? s.teams k = some t := by
    rw [ht]
    exact team_of_committing (by rw [← ht, ← hx, hc])
  have hover := transactionOver_applied hteam hw
  split at hdoes
  · exact ⟨_, _, hdoes, hover.freeToken.count ..⟩
  · exact ⟨_, _, hdoes, hover.count ..⟩

end
end
end
end Sys2Proof.Machine
end

section
/-! PROOFS. Frames and snapshots of duplex streams (R411 to R416): the seventh part of O53. -/

namespace Sys2Proof.Machine

theorem bit_ofNat {w i : Nat} (hi : i < w) (n : Nat) : bit (BitVec.ofNat w n).toNat i = bit n i := by
  simp only [bit, ← Nat.testBit_eq_decide_div_mod_eq, BitVec.toNat_ofNat, Nat.testBit_mod_two_pow, hi, decide_true, Bool.true_and]

/-! ## A look at the slot of the next frame (R411) -/

/-- R411: a stream's slot is looked at again after twice the interval. -/
def State.lookAgain (s : State) (p idx : Nat) : State :=
  s.modStm p idx fun d => { d with fetch := {}, pollAt := s.now + min 4096 (2 * d.pollInt), pollInt := min 4096 (2 * d.pollInt) }

theorem streamFrameTake_idle {s : State} (h : s.mayTake s.arg.n0 s.arg.n1 = false) : Does .streamFrameTake s s :=
  congrArg Host.Outcome.next (if_pos (by rw [h]; rfl))

section
variable {s : State} {d : Stm} {g : Agent} (hd : d = (s.part s.arg.n0).stm s.arg.n1) (hg : g = s.stmAgent s.arg.n0 s.arg.n1)
  (hmay : s.mayTake s.arg.n0 s.arg.n1 = true)
include hd hg hmay

theorem streamFrameTake_waits {w : AccWait} {s1 : State} (h : s.unitRead g d.slotVa 64 = .wait w s1) :
    Does .streamFrameTake s (s1.modFetch (.stream s.arg.n0 s.arg.n1) fun f => { f with wait := w }) := by
  subst hd hg
  show execStreamFrameTake s = _
  simp only [execStreamFrameTake, hmay, h]
  rfl

theorem streamFrameTake_faults {r : Nat} {s1 : State} (h : s.unitRead g d.slotVa 64 = .fault r s1) :
    Does .streamFrameTake s (s1.lookAgain s.arg.n0 s.arg.n1) := by
  subst hd hg
  show execStreamFrameTake s = _
  simp only [execStreamFrameTake, hmay, h]
  rfl

theorem streamFrameTake_violates {va r : Nat} {s1 : State} (h : s.unitRead g d.slotVa 64 = .freeze va r s1) :
    Does .streamFrameTake s ((s1.violate g.ctx 1 g.cl va r).lookAgain s.arg.n0 s.arg.n1) := by
  subst hd hg
  show execStreamFrameTake s = _
  simp only [execStreamFrameTake, hmay, h]
  rfl

section
variable {x : List Byte × Bool} {s1 : State} (h : s.unitRead g d.slotVa 64 = .ok x s1)
include h

theorem streamFrameTake_noFrame (hno : x.2 = true ∨ bits (leNat x.1) 31 0 ≠ d.fseq) : Does .streamFrameTake s (s1.lookAgain s.arg.n0 s.arg.n1) := by
  subst hd hg
  show execStreamFrameTake s = _
  simp only [execStreamFrameTake, hmay, h, CardGo.orNone]
  by_cases hpz : x.2 = true
  · rw [if_pos hpz]
    rfl
  · rw [if_neg hpz]
    simp only [CardGo.bind, if_pos (hno.resolve_left hpz)]
    rfl

variable (hclean : x.2 = false) (hseq : bits (leNat x.1) 31 0 = d.fseq)
include hclean hseq

/-- R411: a frame that is no barge-in is taken as it stands. -/
theorem streamFrameTake_plain (hplain : bit (leNat x.1) 90 = false) :
    Does .streamFrameTake s (s1.takeFrame s.arg.n0 s.arg.n1 (BitVec.ofNat 512 (leNat x.1)) d.pcur []) := by
  subst hd hg
  show execStreamFrameTake s = _
  simp only [execStreamFrameTake, hmay, h, CardGo.orNone, hclean, CardGo.bind, Bool.false_eq_true, if_false, hseq, ne_eq, not_true_eq_false, hplain,
    Bool.not_false, if_true]
  rfl

variable (hbarge : bit (leNat x.1) 90 = true)
include hbarge

/-- R413: a barge-in is taken with the play cursor, and with the snapshots of a stream that has them. -/
theorem streamFrameTake_barge {w : List Byte × Bool} {s2 : State} (hw : s1.unitRead g d.cwin 4 = .ok w s2) (hsnn : d.snn = 0) :
    Does .streamFrameTake s (s2.takeFrame s.arg.n0 s.arg.n1 (BitVec.ofNat 512 (leNat x.1)) (if w.2 = true then d.pcur else min (leNat w.1) maxPos) []) := by
  subst hd hg
  show execStreamFrameTake s = _
  simp only [execStreamFrameTake, hmay, h, CardGo.orNone, hclean, CardGo.bind, Bool.false_eq_true, if_false, hseq, ne_eq, not_true_eq_false, hbarge,
    Bool.not_true, hw, hsnn, if_true]
  cases w.2 <;> rfl

theorem streamFrameTake_bargeSnapshots {w l : List Byte × Bool} {s2 s3 : State} (hw : s1.unitRead g d.cwin 4 = .ok w s2) (hsnn : d.snn ≠ 0)
    (hl : s2.unitRead g d.snbase (8 * d.snn) = .ok l s3) :
    Does .streamFrameTake s (s3.takeFrame s.arg.n0 s.arg.n1 (BitVec.ofNat 512 (leNat x.1)) (if w.2 = true then d.pcur else min (leNat w.1) maxPos)
      (if l.2 = true then [] else wordsOf l.1)) := by
  subst hd hg
  show execStreamFrameTake s = _
  simp only [execStreamFrameTake, hmay, h, CardGo.orNone, hclean, CardGo.bind, Bool.false_eq_true, if_false, hseq, ne_eq, not_true_eq_false, hbarge,
    Bool.not_true, hw, hsnn, hl]
  cases w.2 <;> cases l.2 <;> rfl

end
end

/-! ## A frame that is taken (R411, R416) -/

theorem part_stm_modStm {s : State} {p idx : Nat} {P : Part} {d : Stm} (hP : Tbl.get? s.parts p = some P) (hd : Tbl.get? P.stms idx = some d) (f : Stm → Stm) :
    ((s.modStm p idx f).part p).stm idx = f d := by
  simp [State.modStm, State.modPart, State.part, Part.stm, Tbl.getD, hP, hd]

/-- R411: a frame that is no barge-in ends its stream's queue. -/
theorem takeFrame_queues {s : State} {p idx pcur : Nat} {P : Part} {d : Stm} {data : Line} {ws : List Nat} (hP : Tbl.get? s.parts p = some P)
    (hd : Tbl.get? P.stms idx = some d) (hplain : bit data.toNat 90 = false) :
    ∃ f, f.data = data ∧ (((s.takeFrame p idx data pcur ws).part p).stm idx).queue = d.queue ++ [f] ∧
      (((s.takeFrame p idx data pcur ws).part p).stm idx).fseq = (d.fseq + 1) % 2 ^ 32 ∧
      (s.takeFrame p idx data pcur ws).mem = s.mem ∧ (s.takeFrame p idx data pcur ws).teams = s.teams := by
  have hno (late : Bool) : ¬ (!late && bit data.toNat 90) = true := by simp [hplain]
  unfold State.takeFrame
  simp only [if_neg (hno _)]
  have hP1 : Tbl.get? (s.modStm p idx fun d => { d with fseq := (d.fseq + 1) % 2 ^ 32, fetch := {}, pollAt := s.now + 64, pollInt := 64 }).parts p =
      some { P with stms := Tbl.modify P.stms idx fun d => { d with fseq := (d.fseq + 1) % 2 ^ 32, fetch := {}, pollAt := s.now + 64, pollInt := 64 } } := by
    simp [State.modStm, State.modPart, hP]
  rw [part_stm_modStm hP1 (by simp [hd]; rfl)]
  exact ⟨_, rfl, rfl, rfl, rfl, rfl⟩

/-! ## Restores (R413) -/

theorem snapshotRestoreDone_idle {s : State} (h : s.mayRestore s.arg.n0 s.arg.n1 = false) : Does .snapshotRestoreDone s s :=
  congrArg Host.Outcome.next (if_neg (by simp [h]))

theorem snapshotRestoreDone_does {s : State} (h : s.mayRestore s.arg.n0 s.arg.n1 = true) :
    Does .snapshotRestoreDone s (s.restoreLines s.arg.n0 s.arg.n1 (((s.part s.arg.n0).stm s.arg.n1).stlen / 64 + 1)) :=
  congrArg Host.Outcome.next (if_pos h)

/-- R413 steps 5 and 6: when every line has been restored the frame becomes available. -/
theorem restoreLines_over {s : State} {p idx n slot i : Nat} {f : FrameIn} (h : ((s.part p).stm idx).restoring = some (f, slot, i))
    (hover : ((s.part p).stm idx).stlen / 64 ≤ i) : s.restoreLines p idx (n + 1) = s.releaseFrame p idx f := by
  simp only [State.restoreLines, h, if_pos hover]

end Sys2Proof.Machine
end

section
/-! PROOFS. The statement on lanes, cards, monitors, transactions and streams: O53. -/

namespace Sys2Proof.Machine

/-- Settles O53, event by event: lanes that leave, land, return or are refused, cards, monitors, transactions and streams; each clause is the
lemma of its event, at the event's own arguments. -/
theorem migrationCardEvents : Obligations.MigrationCardEvents := by
  intro s a k t c
  refine ⟨lanePack_none, fun h hno => lanePack_nothing h hno, fun lv h hl hmay => ?packs,
    fun p hp => continuationArrival_own hp,
    fun p hp hone => ⟨fun x => continuationArrival_refused hp hone, continuationArrival_lands hp hone⟩,
    fun hp => ?far,
    fun hn h => continuationRefused_room hn h, continuationRefused_cause,
    landingTimeout_early,
    fun h => ⟨landingTimeout_late h, fun lv hlv hhome hres htrap horig hrq => refuseLane_stays 0x59 hlv ?there hhome hres htrap horig hrq⟩,
    landedTeamCreation_noGroup,
    fun g hg => ⟨landedTeamCreation_early hg, fun core slot hmay hcore hslot => ?lands⟩,
    ?returns, ?notices,
    cards_none, fun b hb => ?cards,
    monitorWake_idle, fun m w hf hm hs hw => monitorWake_wakes hf hm hs hw, monitorWake_noEntry, fun m hf hm => ?entry,
    waitcPoll_idle, fun m hm hdue => ?polls,
    ?commits,
    streamFrameTake_idle, fun hmay => ?frames,
    snapshotRestoreDone_idle, fun hmay => ?restores⟩
  case packs =>
    refine ⟨lanePack_bad h hl hmay, lanePack_lost h hl hmay, fun hok hout hgoing hgood hnear => ?_, fun hok hout hback hnear => ?_, fun d hok hsame hgood hfar => ?_⟩
    · obtain ⟨s1, hdoes, ⟨⟨y, hy, hleaving, hregs, hflow, -⟩, hmem⟩, hnet⟩ := lanePack_near h hl hmay hok (fun _ => hgood) hnear
      rw [if_neg (Bool.eq_false_iff.1 hgoing)] at hleaving
      rw [packMessage, if_neg (Bool.eq_false_iff.1 hgoing)] at hnet
      exact ⟨s1, y, hdoes, hnet, hy, hleaving, hregs, hflow, hmem⟩
    · obtain ⟨s1, hdoes, ⟨⟨y, hy, hleaving, hregs, hflow, -⟩, hmem⟩, hnet⟩ := lanePack_near h hl hmay hok (fun hin => Bool.noConfusion (hin.symm.trans hout)) hnear
      rw [if_pos hback] at hleaving
      rw [packMessage, if_pos hback] at hnet
      exact ⟨s1, y, hdoes, hnet, hy, hleaving, hregs, hflow, hmem⟩
    · obtain ⟨s1, w, hdoes, ⟨⟨y, hy, hleaving, hregs, hflow, -⟩, hmem⟩, hnet, hq, hcont, hpbr, hdpa, hsrc, hafter, hleft, hepoch⟩ :=
        lanePack_far h hl hmay hok (fun hout => hgood (hsame.trans hout)) hfar
      exact ⟨s1, y, w, hdoes, hnet, hq, hcont, hpbr, hdpa, hsrc, hafter, hleft, hepoch, hy, hleaving, hregs, hflow, hmem⟩
  case far =>
    have hdoes := continuationArrival_far hp
    refine ⟨fun hl => ?_, fun hl hend => ?_, fun hl hend => ⟨fun hno => ?_, fun pa hpa => ⟨fun hno => ?_, fun p hown => ⟨fun hb => ?_, fun hb =>
      ⟨fun x hno => ?_, fun hyes => ⟨_, hdoes, arriveFar_lands rfl rfl hl hend hpa hown hb hyes⟩⟩⟩⟩⟩⟩
    · rwa [arriveFar_uncarried rfl rfl hl] at hdoes
    · rwa [arriveFar_ended rfl rfl hl hend] at hdoes
    · rwa [arriveFar_unmapped rfl rfl hl hend hno] at hdoes
    · rwa [arriveFar_unowned rfl rfl hl hend hpa hno] at hdoes
    · rwa [arriveFar_owned rfl rfl hl hend hpa hown, if_pos hb] at hdoes
    · rwa [arriveFar_owned rfl rfl hl hend hpa hown, if_neg hb, hno] at hdoes
  case there =>
    cases hteam : Tbl.get? s.teams k with
    | some y => exact congrArg some (team_of_get? hteam).symm
    | none =>
      have hnone : t.sync.leaving = [] := by simp only [t, State.team, Tbl.getD, hteam]; rfl
      rw [hnone] at hlv
      cases hlv
  case lands =>
    exact ⟨_, _, landedTeamCreation_does hg hmay hcore hslot, withLanded_team core slot, rfl, rfl, rfl, rfl, rfl, rfl, rfl, rfl, rfl, rfl,
      withLanded_epoch core slot, withLanded_groups hg core slot, withLanded_others core slot, rfl⟩
  case returns =>
    intro inner takes
    have hnet (h : inner = true) := returnArrival_inner h
    have hport (h : inner = false) := returnArrival_port h
    refine ⟨fun hin hmay => ?_, fun hin hmay => ?_, fun h => ⟨fun hno => ?_, fun y hy htakes => ?_⟩⟩
    · have hdoes := hnet hin
      rwa [if_neg (Bool.eq_false_iff.1 hmay)] at hdoes
    · have hdoes := hport hin
      rwa [if_neg (Bool.eq_false_iff.1 hmay)] at hdoes
    · rcases h with ⟨hin, hmay⟩ | ⟨hin, hmay⟩
      · have hdoes := hnet hin
        rw [if_pos hmay, takeReturn_ignored (s := s.unpost .returnArrival a) (c := c) hno] at hdoes
        rwa [if_pos hin]
      · have hdoes := hport hin
        rw [if_pos hmay, takeReturn_ignored (s := s) (c := c) hno] at hdoes
        rwa [if_neg (Bool.eq_false_iff.1 hin)]
    · rcases h with ⟨hin, hmay⟩ | ⟨hin, hmay⟩
      · have hdoes := hnet hin
        rw [if_pos hmay] at hdoes
        obtain ⟨z, hz, hret, haway, hpc, hpres, hs, hk, hconts, hmem⟩ := takeReturn_returns (s := s.unpost .returnArrival a) hy htakes
        exact ⟨_, z, hdoes, hz, hret, haway, hpc, hpres, hs, hk, hconts, hmem⟩
      · have hdoes := hport hin
        rw [if_pos hmay] at hdoes
        obtain ⟨z, hz, hret, haway, hpc, hpres, hs, hk, hconts, hmem⟩ := takeReturn_returns hy htakes
        exact ⟨_, z, hdoes, hz, hret, haway, hpc, hpres, hs, hk, hconts, hmem⟩
  case notices =>
    intro inner takes
    refine ⟨retireNotice_early, fun h => ⟨fun hn => ?_, fun hn hno => ?_, fun hn hy htakes => ?_⟩⟩
    all_goals have hdoes := retireNotice_does h
    · rwa [if_pos hn] at hdoes
    · rwa [if_neg (not_not.2 hn), takeNotice_ignored (s := s.unpost .retireNotice a) (k := k) (l := a.n1) (ver := a.opt) hno] at hdoes
    · rw [if_neg (not_not.2 hn)] at hdoes
      obtain ⟨z, hz, hexited, haway, hpres, hpc, hregs, hmem, hconts⟩ := takeNotice_exits (s := s.unpost .retireNotice a) hy htakes
      exact ⟨_, z, hdoes, hz, hexited, haway, hpres, hpc, hregs, hmem, hconts⟩
  case cards =>
    have hstart := cardEvent_does (i := .cardStart) (ok := s.cardMayStart k) (f := s.cardStart k) rfl hb
    have hmove := cardEvent_does (i := .cardLineTransfer) (ok := s.mayTransfer k) (f := s.cardUnit k) rfl hb
    have hrow := cardEvent_does (ok := s.mayIssueRow k)
      (f := fun b => State.cardSettle k b ((s.cardFill k b (s.cardUnfilled k b)).bind fun _ s1 => s1.mataUnit k b)) (matrixRowIssue_event s) hb
    exact ⟨hstart.1, fun hmay => ⟨_, hstart.2 hmay, cardStart_starts hb⟩, hmove.1, hmove.2, hrow.1, hrow.2, (cardComplete_does hb).1, cardComplete_completes hb⟩
  case entry =>
    have hdoes := monitorWake_entry hf hm
    refine ⟨fun hno => ?_, fun hyes => ?_⟩
    · rwa [if_neg (Bool.eq_false_iff.1 hno)] at hdoes
    · rwa [if_pos hyes] at hdoes
  case polls =>
    refine ⟨fun hh => ?_, fun hh hloc h => ?_, fun w hh hloc hexcl hw => ?_, fun hh hfar h => ?_, waitcPoll_freezes hm hdue⟩
    · obtain ⟨s1, hdoes, hset⟩ := waitcPoll_host hm hdue hh
      exact ⟨s1, hdoes, hset.team, hset.others, hset.mem⟩
    · obtain ⟨s1, hdoes, hset⟩ := waitcPoll_unmet hm hdue hh hloc h
      exact ⟨s1, hdoes, hset.team, hset.others, hset.mem⟩
    · obtain ⟨s1, hdoes, hset⟩ := waitcPoll_met hm hdue hh hloc hexcl hw
      exact ⟨s1, hdoes, hset.team, hset.others, hset.mem⟩
    · obtain ⟨s1, hdoes, hset⟩ := waitcPoll_pool hm hdue hh hfar h
      exact ⟨s1, hdoes, hset.team, hset.others, hset.mem⟩
  case commits =>
    refine ⟨tmCommitResult_idle rfl rfl rfl, fun hc ha hl => ⟨tmCommitResult_fails rfl rfl rfl hc ha hl, fun hv => ?_⟩⟩
    exact ⟨tmCommitResult_lost rfl rfl rfl hc ha hl hv, fun w => tmCommitResult_far rfl rfl rfl hc ha hl hv, tmCommitResult_stalled rfl rfl rfl hc ha hl hv,
      tmCommitResult_held rfl rfl rfl hc ha hl hv, tmCommitResult_full rfl rfl rfl hc ha hl hv, tmCommitResult_applies rfl rfl rfl hc ha hl hv, fun hw =>
        have ⟨s1, y, hdoes, hover⟩ := tmCommitResult_empty rfl rfl rfl hc ha hl hv hw
        ⟨s1, y, hdoes, hover.team, hover.kept.1, hover.kept.2, hover.ended.1, hover.ended.2.1, hover.ended.2.2.1, hover.ended.2.2.2, hover.others, hover.mem⟩⟩
  case frames =>
    refine ⟨fun w s1 => streamFrameTake_waits rfl rfl hmay, fun r s1 => streamFrameTake_faults rfl rfl hmay, fun va r s1 => streamFrameTake_violates rfl rfl hmay,
      fun x s1 h => ⟨streamFrameTake_noFrame rfl rfl hmay h, fun P d1 hP hd hclean hseq hplain => ?_, fun w s2 hclean hseq hbarge hw =>
        ⟨streamFrameTake_barge rfl rfl hmay h hclean hseq hbarge hw, fun l s3 => streamFrameTake_bargeSnapshots rfl rfl hmay h hclean hseq hbarge hw⟩⟩⟩
    have hdata : bit (BitVec.ofNat 512 (leNat x.1)).toNat 90 = false := (bit_ofNat (by decide) _).trans hplain
    obtain ⟨f, hf, hqueue, hseq', hmem, hteams⟩ := takeFrame_queues hP hd hdata
    exact ⟨_, f, streamFrameTake_plain rfl rfl hmay h hclean hseq hplain, hmem, hteams, hqueue, hf, hseq'⟩
  case restores =>
    refine ⟨snapshotRestoreDone_does hmay, fun f slot i hr hover => ?_⟩
    have hdoes := snapshotRestoreDone_does hmay
    rwa [restoreLines_over hr hover] at hdoes

end Sys2Proof.Machine
end

section
/-! PROOFS. Releases at device scope (R327, R328) and fences (R62, R72, R73, R589, R597): O30. -/

namespace Sys2Proof.Machine

/-! ## Instructions that a transaction forbids (R597) -/

theorem noTm_inside {s : State} {c : Cur} {t : Team} (h : InTransaction t) (k : State) : noTm s c t k = s.raiseX c t 0xA2 := by
  obtain ⟨hact, hout⟩ := h
  simp [noTm, hact, hout]

theorem noTm_outside {s : State} {c : Cur} {t : Team} (h : ¬ InTransaction t) (k : State) : noTm s c t k = k := by
  refine if_neg fun hin => h ?_
  simpa [InTransaction] using hin

/-! ## Room for the write-backs of mappings (R60, R74, R223) -/

section
variable {s : State} {c : Cur} {t : Team} {ms : List (Nat × Mapping)}

theorem withRoom_stalled (h : s.backStalled t ms = true) (go : State → State) : withRoom s c t ms go = waitHere s c t .port := if_pos h

theorem withRoom_held (h : s.backStalled t ms = false) (hheld : s.backHeld ms ≠ []) (go : State → State) :
    withRoom s c t ms go = waitHere ((s.backHeld ms).foldl State.snoopOut s) c t .port := by
  simp [withRoom, h, hheld]

theorem withRoom_mayFlush (h : MayFlush s t ms) (go : State → State) : withRoom s c t ms go = go s := by
  obtain ⟨hport, hfree, hroom⟩ := h
  simp [withRoom, hport, hfree, hroom]

theorem mayFlush_nil (s : State) (t : Team) : MayFlush s t [] := ⟨Bool.and_false _, rfl, rfl⟩

theorem writeBackAll_unjoined {k : Nat} (h : s.joined k t = []) (eid : Nat) (wb : Bool) : s.writeBackAll k t eid wb = s := by
  rw [State.writeBackAll, h, List.foldl_nil]

end

/-! ## The stall of a release (R327, R328) -/

section
variable {s : State} {c : Cur} {t : Team} (go : State → Team → State)

/-- R327: below device scope nothing is written back. -/
theorem releaseStall_near {scope : Nat} (hscope : scope ≠ 2) (hidle : t.sched.relActive = false) (hearly : t.sync.earlierDone t.sync.nextEntry = true) :
    releaseStall s c t scope go = go s t := by
  simp [releaseStall, hidle, hearly, hscope]

/-- R328: a release that has begun is over when its write-backs have returned their times and device time has passed `gwct`. -/
theorem releaseStall_begun (hbegun : t.sched.relActive = true) (scope : Nat) : releaseStall s c t scope go =
    if t.sync.compls = [] ∧ t.regs.gwct < s.now then go s { t with sched := { t.sched with relActive := false } } else waitHere s c t .rel := by
  simp [releaseStall, hbegun]

variable (hidle : t.sched.relActive = false) (hearly : t.sync.earlierDone t.sync.nextEntry = true)
include hidle hearly

/-- R328: at device scope the write-backs of the team's mappings come first. -/
theorem releaseStall_device : releaseStall s c t 2 go = withRoom s c t (s.joined c.team t) fun s =>
    let s2 := s.writeBackAll c.team t t.sync.nextEntry true
    if s2.teamGoes c.team = true then
      releaseStall s2 c { s2.team c.team with sched := { (s2.team c.team).sched with relActive := true } } 2 go
    else { s2 with cur := none } := by
  rw [releaseStall, if_pos (by simp [hidle]), if_neg (by simp [hearly]), if_neg (by simp)]
  refine congrArg (withRoom s c t _) (funext fun s1 => ?_)
  cases hgoes : (s1.writeBackAll c.team t t.sync.nextEntry true).teamGoes c.team
  · simp [hgoes]
  · simp [hgoes, releaseStall_begun]

theorem releaseStall_written (hflush : MayFlush s t (s.joined c.team t)) {s2 : State} (hs2 : s2 = s.writeBackAll c.team t t.sync.nextEntry true)
    (hgoes : s2.teamGoes c.team = true) : releaseStall s c t 2 go =
      releaseStall s2 c { s2.team c.team with sched := { (s2.team c.team).sched with relActive := true } } 2 go := by
  subst hs2
  rw [releaseStall_device go hidle hearly, withRoom_mayFlush hflush, if_pos hgoes]

end

/-- An instruction that stalls for its release at device scope and then goes on by `fin` releases as R328 says. -/
theorem deviceRelease_of {i : Instr} {s : State} {c : Cur} {t : Team} {fin : State → Team → State} {go : State → Team → Prop}
    (he : exec i s = .next (releaseStall s c t 2 fin)) (hgo : ∀ s2 t2, exec i s = .next (fin s2 t2) → go s2 t2) : DeviceRelease i s c t go where
  earlier hidle hearly := stands_of (he.trans (congrArg _ (releaseStall_waits hidle hearly 2 fin))) (.refl _)
  port hidle hearly hport := by
    rw [releaseStall_device fin hidle hearly, withRoom_stalled hport] at he
    exact stands_of he (.refl _)
  hosts hidle hearly hport hheld := by
    rw [releaseStall_device fin hidle hearly, withRoom_held hport hheld] at he
    obtain ⟨t', hwaits⟩ := waitHere_waits ((s.backHeld (s.joined c.team t)).foldl State.snoopOut s) c t .port
    exact ⟨_, t', he, hwaits⟩
  back hidle hearly hflush := by
    intro s2 t2 hgoes
    rw [releaseStall_written fin hidle hearly hflush rfl hgoes, releaseStall_begun fin rfl] at he
    refine ⟨fun hcompls htime => hgo _ _ (he.trans (congrArg _ (if_pos ⟨hcompls, htime⟩))), fun hopen => ?_⟩
    obtain ⟨t', hwaits⟩ := waitHere_waits s2 c { t2 with sched := { t2.sched with relActive := true } } .rel
    exact ⟨_, t', he.trans (congrArg _ (if_neg hopen)), hwaits⟩
  unmapped hnone := ⟨mayFlush_nil s t, writeBackAll_unjoined hnone _ _⟩
  again hbegun := by
    rw [releaseStall_begun fin hbegun] at he
    exact ⟨fun hcompls htime => hgo _ _ (he.trans (congrArg _ (if_pos ⟨hcompls, htime⟩))),
      fun hopen => stands_of (he.trans (congrArg _ (if_neg hopen))) (.refl _)⟩

/-! ## The forms of the fences (R589) -/

section
variable {s : State} {c : Cur} {t : Team} (hp : Performs s c t) (z : BitVec 1) (x : BitVec 3)
include hp

theorem fenceRel_eq : exec (.fenceRel z x) s = .next (fence s c t x fun n => fenceRel s c t z n) := withCur_eq hp _

theorem fenceAcq_eq : exec (.fenceAcq z x) s = .next (fence s c t x fun n =>
    if t.sync.loadsDone then finishShort (s.fenceAcq t n) c t z [] 1 else waitHere s c t .acq) := withCur_eq hp _

theorem fenceAr_eq : exec (.fenceAr z x) s = .next (fence s c t x fun n =>
    if t.sync.loadsDone then fenceRel (s.fenceAcq t n) c t z n else waitHere s c t .acq) := withCur_eq hp _

/-- R597: no fence is performed inside a transaction. -/
theorem fences_inside (h : InTransaction t) :
    Raises (.fenceRel z x) s c t 0xA2 ∧ Raises (.fenceAcq z x) s c t 0xA2 ∧ Raises (.fenceAr z x) s c t 0xA2 :=
  have hin (go : Nat → State) : fence s c t x go = s.raiseX c t 0xA2 := noTm_inside h _
  ⟨(fenceRel_eq hp z x).trans (congrArg _ (hin _)), (fenceAcq_eq hp z x).trans (congrArg _ (hin _)),
    (fenceAr_eq hp z x).trans (congrArg _ (hin _))⟩

variable (hout : ¬ InTransaction t)
include hout

theorem fences_badScope (h : 5 ≤ x.toNat) {i : Instr} (hi : i ∈ [Instr.fenceRel z x, .fenceAcq z x, .fenceAr z x]) :
    exec i s = .next (s.raiseQ c t 0x07 0 x.toNat) := by
  have hbad (go : Nat → State) : fence s c t x go = s.raiseQ c t 0x07 0 x.toNat := (noTm_outside hout _).trans (if_pos h)
  simp only [List.mem_cons, List.not_mem_nil, or_false] at hi
  rcases hi with rfl | rfl | rfl
  · rw [fenceRel_eq hp, hbad]
  · rw [fenceAcq_eq hp, hbad]
  · rw [fenceAr_eq hp, hbad]

variable (hx : x.toNat < 5)
include hx

theorem fenceRel_scoped : exec (.fenceRel z x) s = .next (fenceRel s c t z x.toNat) := by
  rw [fenceRel_eq hp, fence, noTm_outside hout, if_neg (by omega)]

theorem fenceAcq_scoped : exec (.fenceAcq z x) s = .next (if t.sync.loadsDone = true then finishShort (s.fenceAcq t x.toNat) c t z [] 1
    else waitHere s c t .acq) := by
  rw [fenceAcq_eq hp, fence, noTm_outside hout, if_neg (by omega)]

/-- R589: `fence.ar` releases once the team's loads have returned, and then discards what an acquire discards. -/
theorem fenceAr_scoped : exec (.fenceAr z x) s = .next (if t.sync.loadsDone = true then fenceRel (s.fenceAcq t x.toNat) c t z x.toNat
    else waitHere s c t .acq) := by
  rw [fenceAr_eq hp, fence, noTm_outside hout, if_neg (by omega)]

theorem fenceAr_loadsDone (hloads : t.sync.loadsDone = true) :
    exec (.fenceAr z x) s = .next (fenceRel (s.fenceAcq t x.toNat) c t z x.toNat) := by
  rw [fenceAr_scoped hp z x hout hx, if_pos hloads]

/-- R327: loads that have not returned hold up both acquires. -/
theorem acquires_stand (hloads : t.sync.loadsDone = false) : Stands (.fenceAcq z x) s c t .acq ∧ Stands (.fenceAr z x) s c t .acq :=
  have hno : ¬ t.sync.loadsDone = true := by simp [hloads]
  ⟨stands_of ((fenceAcq_scoped hp z x hout hx).trans (congrArg _ (if_neg hno))) (.refl _),
    stands_of ((fenceAr_scoped hp z x hout hx).trans (congrArg _ (if_neg hno))) (.refl _)⟩

end

/-! ## The release of a fence, by its scope -/

/-- R62: an acquire below pool scope discards nothing. -/
theorem fenceAcq_near {scope : Nat} (h : scope < 3) (s : State) (t : Team) : s.fenceAcq t scope = s := if_neg (by omega)

/-- R327: up to cluster scope a release waits for the team's earlier accesses, and for nothing else. -/
theorem fenceRel_near {i : Instr} {s : State} {c : Cur} {t : Team} {z : BitVec 1} {scope : Nat} (he : exec i s = .next (fenceRel s c t z scope))
    (hscope : scope < 2) (hidle : t.sched.relActive = false) :
    (t.sync.earlierDone t.sync.nextEntry = true → Becomes i s c t z) ∧ (¬ t.sync.earlierDone t.sync.nextEntry = true → Stands i s c t .rel) := by
  rw [fenceRel, if_pos (by omega)] at he
  refine ⟨fun hearly => ?_, fun hearly => ?_⟩
  · rw [releaseStall_near _ (by omega) hidle hearly] at he
    exact becomes_of he
  · rw [releaseStall_waits hidle (Bool.eq_false_iff.2 hearly)] at he
    exact stands_of he (.refl _)

theorem fenceRel_device {i : Instr} {s : State} {c : Cur} {t : Team} {z : BitVec 1} (he : exec i s = .next (fenceRel s c t z 2)) :
    DeviceRelease i s c t fun s2 t2 => Goes i s s2 c t2 z c.next :=
  deviceRelease_of (he.trans (congrArg _ (if_pos (Nat.le_refl 2)))) fun _ _ => goes_of

/-- R73: a release at pool scope or wider opens an epoch and goes on. -/
theorem fenceRel_pool {s : State} {c : Cur} {t : Team} {z : BitVec 1} {scope : Nat} (h : 3 ≤ scope) :
    let a : Acc := { kind := .fence, va := 0, esz := 1, pol := BitVec.ofNat 32 (2 * 2 ^ 19 + scope * 2 ^ 16), wait := .ready }
    ∃ t', Leaves (s.openEpoch t).1 (fenceRel s c t z scope) c (s.openEpoch t).2 z c.next { c.entry with accs := [a] } 1 t' := by
  rw [fenceRel, if_neg (by omega)]
  exact ⟨_, finishAt_leaves ..⟩

/-- Settles O30: a transaction and a bad scope refuse every fence; the acquires turn on the team's loads; and a release is one lemma above for
its scope, which `fence.ar` reaches once the loads have returned. -/
theorem fenceForms : Obligations.FenceForms := by
  unfold Obligations.FenceForms
  intro s c t z x hp
  refine ⟨fences_inside hp z x, fun hout h i hi => fences_badScope hp z x hout h hi, fun hout hx => ?_⟩
  intro early s1
  have hrel := fenceRel_scoped hp z x hout hx
  have har := fenceAr_loadsDone hp z x hout hx
  refine ⟨fun hloads => ?acquires, acquires_stand hp z x hout hx, fun hnear hidle => ?near, fun hdev => ?device, fun hpool => ?pool⟩
  case acquires => exact goes_of ((fenceAcq_scoped hp z x hout hx).trans (congrArg _ (if_pos hloads)))
  case near =>
    obtain ⟨hgoes, hstands⟩ := fenceRel_near hrel hnear hidle
    refine ⟨hgoes, hstands, fun hloads => fenceRel_near ((har hloads).trans ?_) hnear hidle⟩
    rw [fenceAcq_near (by omega)]
  case device =>
    subst hdev
    intro i hi hloads
    simp only [List.mem_cons, List.not_mem_nil, or_false] at hi
    rcases hi with rfl | rfl
    · exact fenceRel_device hrel
    · exact fenceRel_device (har (hloads rfl))
  case pool =>
    refine ⟨?_, fun hloads => ?_⟩
    · obtain ⟨t', hleaves⟩ := fenceRel_pool hpool
      exact ⟨_, t', hrel, hleaves⟩
    · obtain ⟨t', hleaves⟩ := fenceRel_pool hpool
      exact ⟨_, t', har hloads, hleaves⟩

end Sys2Proof.Machine
end

section
/-! PROOFS. What the forms on KV entries and streams share (R389, R480, R621): pairs of results, handles, and reads where an instruction stands. -/

namespace Sys2Proof.Machine

/-! ## Guards -/

section
variable {i : Instr} {s x y : State} {p : Prop} {_ : Decidable p}

theorem next_of_pos (hexec : exec i s = .next (if p then x else y)) (h : p) : exec i s = .next x := hexec.trans (congrArg _ (if_pos h))
theorem next_of_neg (hexec : exec i s = .next (if p then x else y)) (h : ¬ p) : exec i s = .next y := hexec.trans (congrArg _ (if_neg h))

end

/-- A check that is passed refutes the guard on its failure. -/
theorem not_guard {b : Bool} (h : b = true) : ¬ (!b) = true := by simp [h]

/-- R621: the destinations of a pair. -/
theorem pairOk_iff {d : BitVec 6} : pairOk d = true ↔ 1 ≤ d.toNat ∧ d.toNat ≤ 62 := decide_eq_true_iff

/-! ## Results that a later event writes (R480, R621) -/

section
variable {i : Instr} {s s1 : State} {c : Cur} {t1 : Team} {z : BitVec 1} {f : State → State}

theorem destsOf_scalars {ws : List (Nat × Word)} (h : (ws.map Prod.fst).Nodup) :
    destsOf (ws.map fun w => .s w.1 w.2) = ws.map fun w => (0, w.1) := by
  have hpairs : (ws.map fun w => (0, w.1)).Nodup := by
    have hinj : Function.Injective (Prod.mk 0 : Nat → Nat × Nat) := fun _ _ he => (Prod.mk.inj he).2
    have hmap := h.map hinj
    rwa [List.map_map] at hmap
  rw [destsOf, List.map_map]
  exact hpairs.dedup

theorem longThen_finish {ws : List (Nat × Word)} (hne : ws ≠ []) (hnodup : (ws.map Prod.fst).Nodup)
    (h : exec i s = .next (f (finishLong s1 c t1 z (ws.map fun w => .s w.1 w.2) 1))) : LongThen i s s1 c t1 z ws f := by
  rw [finishLong, if_neg (by simpa using hne), destsOf_scalars hnodup] at h
  exact ⟨_, _, h, finishAt_leaves ..⟩

theorem longThen_scalar {d : Nat} {v : Word} (h : exec i s = .next (f (finishLong s1 c t1 z [.s d v] 1))) : LongThen i s s1 c t1 z [(d, v)] f :=
  longThen_finish (List.cons_ne_nil _ _) (List.nodup_singleton d) h

theorem longThen_pair {d : BitVec 6} {st : Nat} {w : Word} (h : exec i s = .next (f (pair s1 c t1 z d st w))) :
    LongThen i s s1 c t1 z (pairOf d st w) f :=
  longThen_finish (List.cons_ne_nil _ _) (by simp [pairOf]) h

end

/-! ## Handles (R389) -/

section
variable {s : State} {c : Cur} {t : Team} {h : Word} {need : Nat} {write : Bool}

theorem withHandle_ok {e : KvEnt} (he : s.kvDeref t.view t.id.part t.id.ctx h need write none = .ok e) (go : KvEnt → State) :
    withHandle s c t h need write none go = go e := by
  rw [withHandle, he]

theorem next_of_handle {i : Instr} {e : KvEnt} {go : KvEnt → State} (hexec : exec i s = .next (withHandle s c t h need write none go))
    (he : s.kvDeref t.view t.id.part t.id.ctx h need write none = .ok e) : exec i s = .next (go e) :=
  hexec.trans (congrArg _ (withHandle_ok he go))

theorem raisesW_handle {i : Instr} {y k : Nat} {go : KvEnt → State} (hexec : exec i s = .next (withHandle s c t h need write none go))
    (he : s.kvDeref t.view t.id.part t.id.ctx h need write none = .error (y, k)) : RaisesW i s c t y (infoH h 0 0 k) := by
  rw [withHandle, he] at hexec
  exact hexec

end

/-! ## Reads and translations where an instruction stands -/

/-- The instruction of `c` waits where it stands for what it reads. -/
def fetchWait (s : State) (c : Cur) (w : AccWait) : State :=
  let q := s.modFetch (.unit c.team) fun f => { f with wait := w }
  waitHere q c (q.team c.team) .fetch

section
variable {i : Instr} {s s1 : State} {c : Cur} {t : Team}

theorem waitsRead_of {w : AccWait} (h : exec i s = .next (fetchWait s1 c w)) : WaitsRead i s c w s1 := by
  obtain ⟨t', hwaits⟩ := waitHere_waits (s1.modFetch (.unit c.team) fun f => { f with wait := w }) c
    ((s1.modFetch (.unit c.team) fun f => { f with wait := w }).team c.team) .fetch
  exact ⟨_, t', h, hwaits⟩

variable {α : Type} {u : Use} {va : Nat} {x : CardGo α} {go : α → State → Team → State}

theorem readFails_of (h : exec i s = .next (withGo c t u va x go)) : ReadFails i s c t u va x where
  wait w s1 hx := by
    subst hx
    exact waitsRead_of h
  fault e s1 hx := by
    subst hx
    exact h
  freeze a r s1 hx := by
    subst hx
    exact h

/-- What was read is there: the instruction goes on with it. -/
theorem next_of_read {a : α} (hexec : exec i s = .next (withGo c t u va x go)) (hx : x = .ok a s1) :
    exec i s = .next (go a (afterRead s1 c) (readTeam s1 c)) := by
  subst hx
  exact hexec

end

end Sys2Proof.Machine
end

section
/-! PROOFS. Appends, truncations and forks of KV entries (R397, R398, R403, R405, R626, R627, R629): O36. -/

namespace Sys2Proof.Machine

/-! ## What an append does once its operands are checked (R626) -/

/-- R397, R405: the machine after the rows of `m` tokens have been written for a launch, whose last write completes at `time`: the launch holds the
claim of entry `x`, and its view has the new length and centroids. -/
def State.appended (s : State) (c : Cur) (t : Team) (x : Nat) (e : KvEnt) (src m len time : Nat) (cs : CSet) : State :=
  ((s.addCompl c.team t.sync.nextEntry (src + 2 ^ 57) (some time)).2.claim t x).modView t.id.launch x fun v =>
    { v with len := some (len + m), cset := if e.ncent = 0 then v.cset else some cs, stale := if e.ncent = 0 then v.stale else some false }

/-- What the rows' write comes to, with the centroids `cs` of the tokens before them. -/
def appendWritten (c : Cur) (t : Team) (z : BitVec 1) (d : BitVec 6) (x : Nat) (e : KvEnt) (src m len : Nat) (cs : CSet) (rows : List (List Byte))
    (s : State) : RowGo → State
  | .raise r => s.raise c t r (govTeam t c)
  | .move id s => fetchWait s c (.move id)
  | .stall => waitHere s c t .port
  | .held ln => fetchWait (s.snoopOut ln) c .snoop
  | .freeze pa => s.freezeAt c t pa (s.rightAt pa)
  | .lost => { s with cur := none }.abortTeam c.team t 0x8A
  | .full => if (!(s.launch t.id.launch).head.abortOvf && s.olderThan t.view) = true then waitHere s c t .room
    else { s with cur := none }.abortTeam c.team t 0x4F
  | .ok time s =>
    let keys := (List.range m).map fun i => keyElems e.kfmt ((rows[2 * i]?).getD [])
    let cs := keys.zipIdx.foldl (fun cs p => cs.add e.ncent (len + p.2) p.1) cs
    let s := s.appended c t x e src m len time cs
    pair s c (s.team c.team) z d 0 (BitVec.ofNat 64 len)

/-- What an append does when the pages of its rows have been looked at. -/
def appendPlaced (c : Cur) (t : Team) (z : BitVec 1) (d : BitVec 6) (h : Word) (e : KvEnt) (src m len : Nat) (cs : CSet) (rows : List (List Byte)) :
    Option Nat × State → State
  | (some id, s) => fetchWait s c (.move id)
  | (none, s) => appendWritten c t z d (hIdx h) e src m len cs rows s (s.rowsWrite c t h e.rowBytes s.now (2 * len) rows)

/-- What an append does with its launch's centroids, or with the place of a poisoned key that they rest on. -/
def appendRows (c : Cur) (z : BitVec 1) (d : BitVec 6) (h : Word) (e : KvEnt) (src m len : Nat) (cs : CSet × Option Nat) (s : State) (t : Team) : State :=
  match cs.2 with
  | some pa => raiseW s c t 0x88 (s.infoP { kind := .load, va := src, esz := 1 } pa 0)
  | none =>
    let rows := (List.range (2 * m)).map fun i => stashBytes (s.cluster t.id.cluster) (src + i * e.rowBytes) e.rowBytes
    appendPlaced c t z d h e src m len cs.1 rows (s.rowsWait c.team t h e.rowBytes (2 * len) (2 * m))

/-- What an append of `m` tokens from stash address `src` to entry `e` does. -/
def appendTo (s : State) (c : Cur) (t : Team) (z : BitVec 1) (d : BitVec 6) (h : Word) (src m : Nat) (e : KvEnt) : State :=
  let size := 2 * m * e.rowBytes
  let len := s.kvLen t.view (hIdx h) e
  if (!t.inStash src size) = true then raiseW s c t 0x38 (infoSt t.id.cluster src 1)
  else if (!t.sync.stashDone) = true then waitHere s c t .bank
  else if (!s.mayClaim t e) = true then pair s c t z d 4 0
  else if e.cap < len + m then pair s c t z d 6 0
  else if (granules src size).any (stashPois (s.cluster t.id.cluster)) = true then
    raiseW s c t 0x88 (s.infoP { kind := .load, va := src, esz := 1 } src 3)
  else withGo c t .load src (if e.ncent = 0 then .ok ({}, none) s else s.freshCset c t (hIdx h) e) (appendRows c z d h e src m len)

/-- The guard of `kvapp` on its source word is that of R626. -/
theorem appendWord_iff (n : Nat) :
    (n / 2 ^ 45 ≠ 0 ∨ bits n 31 21 ≠ 0 ∨ bits n 20 0 % 16 ≠ 0 ∨ bits n 44 32 = 0 ∨ bits n 44 32 > 4096) ↔ ¬ AppendWord n := by
  unfold AppendWord
  omega

section
variable {s : State} {c : Cur} {t : Team} (hp : Performs s c t) (z : BitVec 1) (d a b : BitVec 6)
include hp

theorem kvapp_badWord (h : ¬ AppendWord (rdS t c b.toNat).toNat) :
    exec (.kvapp z d a b) s = .next (s.raiseQ c t 0x72 0 (rdS t c b.toNat).toNat) :=
  (withCur_eq hp _).trans (congrArg _ (if_pos ((appendWord_iff _).2 h)))

theorem kvapp_word (h : AppendWord (rdS t c b.toNat).toNat) : exec (.kvapp z d a b) s = .next (withHandle s c t (rdS t c a.toNat) 1 true none
    (appendTo s c t z d (rdS t c a.toNat) (bits (rdS t c b.toNat).toNat 20 0) (bits (rdS t c b.toNat).toNat 44 32))) := by
  refine (withCur_eq hp _).trans (congrArg _ ((if_neg fun hbad => (appendWord_iff _).1 hbad h).trans ?_))
  refine congrArg (withHandle s c t (rdS t c a.toNat) 1 true none) (funext fun e => ?_)
  unfold appendTo
  iterate 5 refine ite_congr rfl (fun _ => rfl) fun _ => ?_
  refine congrArg (withGo c t .load _ _) (funext fun cs => funext fun s => funext fun t => ?_)
  unfold appendRows appendPlaced
  cases cs.2 with
  | some pa => rfl
  | none =>
    dsimp only
    rcases s.rowsWait c.team t (rdS _ c a.toNat) e.rowBytes _ _ with ⟨_ | id, s⟩
    · dsimp only
      cases s.rowsWrite c t (rdS _ c a.toNat) e.rowBytes s.now _ _ <;> rfl
    · rfl

end

/-! ## What an append leaves (R397) -/

theorem kvEnt_modKv {s : State} {p x : Nat} {k : KvEnt} (h : Tbl.get? (s.part p).kv x = some k) (f : KvEnt → KvEnt) :
    ((s.modKv p x f).part p).kvEnt x = f k := by
  cases hP : Tbl.get? s.parts p with
  | none =>
    simp [State.part, Tbl.getD, hP] at h
  | some P =>
    simp only [State.part, Tbl.getD, hP, Option.getD_some] at h
    simp [State.modKv, State.modPart, State.part, Part.kvEnt, Tbl.getD, hP, h]

theorem launches_modView {s : State} {lk : Nat} {l : Launch} (h : Tbl.get? s.launches lk = some l) (x : Nat) (f : KvView → KvView) :
    Tbl.get? (s.modView lk x f).launches lk = some { l with kv := Tbl.upd l.kv x {} f } := by
  simp [State.modView, State.modLaunch, h]

section
variable (s : State) (c : Cur) (t : Team) (x : Nat) (e : KvEnt) (src m len time : Nat) (cs : CSet)

theorem appended_claim {k : KvEnt} (h : Tbl.get? (s.part t.id.part).kv x = some k) :
    (((s.appended c t x e src m len time cs).part t.id.part).kvEnt x).claim = some t.id.launch :=
  congrArg KvEnt.claim (kvEnt_modKv (s := (s.addCompl c.team t.sync.nextEntry (src + 2 ^ 57) (some time)).2) h _)

theorem appended_len {l : Launch} (h : Tbl.get? s.launches t.id.launch = some l) :
    (Tbl.get? ((s.appended c t x e src m len time cs).launch t.id.launch).kv x).bind KvView.len = some (len + m) := by
  have hclaim : Tbl.get? ((s.addCompl c.team t.sync.nextEntry (src + 2 ^ 57) (some time)).2.claim t x).launches t.id.launch = _ :=
    launches_modView (s := (s.addCompl c.team t.sync.nextEntry (src + 2 ^ 57) (some time)).2.modKv _ _ _) h x _
  unfold State.appended
  rw [State.launch, Tbl.getD, launches_modView hclaim]
  simp

end

/-! ## The outcomes of an append -/

section
variable {i : Instr} {s s0 : State} {c : Cur} {t : Team} {z : BitVec 1} {d : BitVec 6} {x : Nat} {h : Word} {e : KvEnt} {src m len : Nat} {cs : CSet}
  {rows : List (List Byte)}

/-- An append waits for a page of its rows, or goes on to write them. -/
theorem appendPlaced_outcomes {y : Option Nat × State} (hexec : exec i s = .next (appendPlaced c t z d h e src m len cs rows y)) :
    (∀ id s0, y = (some id, s0) → WaitsRead i s c (.move id) s0) ∧
    ∀ s0, y = (none, s0) → exec i s =
      .next (appendWritten c t z d (hIdx h) e src m len cs rows s0 (s0.rowsWrite c t h e.rowBytes s0.now (2 * len) rows)) := by
  refine ⟨fun id s0 hy => ?_, fun s0 hy => ?_⟩
  · subst hy
    exact waitsRead_of hexec
  · subst hy
    exact hexec

theorem appendWritten_outcomes {go : RowGo} (hexec : exec i s = .next (appendWritten c t z d x e src m len cs rows s0 go)) :
    (go = .stall → ∃ s' t', exec i s = .next s' ∧ Waits s0 s' c t .port t') ∧
    (∀ ln, go = .held ln → WaitsRead i s c .snoop (s0.snoopOut ln)) ∧
    (∀ r, go = .raise r → exec i s = .next (s0.raise c t r (gov t c))) ∧
    ∀ time s2, go = .ok time s2 →
      ∃ s3 : State, LongThen i s s3 c (s3.team c.team) z (pairOf d 0 (BitVec.ofNat 64 len)) id ∧ s3.mem = s2.mem ∧ s3.clusters = s2.clusters ∧
        (∀ k, Tbl.get? (s2.part t.id.part).kv x = some k → ((s3.part t.id.part).kvEnt x).claim = some t.id.launch) ∧
        ∀ l, Tbl.get? s2.launches t.id.launch = some l → ((Tbl.get? (s3.launch t.id.launch).kv x).bind KvView.len) = some (len + m) := by
  refine ⟨fun hgo => ?stall, fun ln hgo => ?held, fun r hgo => ?raise, fun time s2 hgo => ?ok⟩
  all_goals subst hgo
  case stall =>
    obtain ⟨t', hwaits⟩ := waitHere_waits s0 c t .port
    exact ⟨_, t', hexec, hwaits⟩
  case held => exact waitsRead_of hexec
  case raise => exact hexec
  case ok => exact ⟨_, longThen_pair hexec, rfl, rfl, fun _ hk => appended_claim (h := hk) .., fun _ hl => appended_len (h := hl) ..⟩

end

/-! ## Truncations and forks (R627, R629) -/

/-- R397, R627: the machine after entry `x`, read as `e`, has been cut at `n` in the view of a team's launch. -/
def State.truncated (s : State) (t : Team) (x : Nat) (e : KvEnt) (n : Nat) : State :=
  (s.claim t x).modView t.id.launch x fun v =>
    { v with len := some (min (s.kvLen t.view x e) n), cut := some (match v.cut with | some y => min y n | none => n), stale := some true }

/-- R398, R629: entry `y` of partition `p` becomes a copy-on-write entry of the first `n` positions of entry `x`, read as `e`, whose pages it shares. -/
def State.forked (s : State) (p ctx x y gen : Nat) (e : KvEnt) (n : Nat) : State :=
  let k := (n + 2 ^ e.ptok - 1) / 2 ^ e.ptok
  (((s.putKv p y { kind := 1, gen := gen, ctx := ctx, len := n, cap := k * 2 ^ e.ptok, ref := 1, rowg := e.rowg, ptok := e.ptok,
                   ncent := e.ncent, kfmt := e.kfmt, cstale := true, cow := true, pages := e.pages.take k }).modKv p x fun e => { e with cow := true })).modPart p
    fun P => (e.pages.take k).foldl (fun P pa => P.modPage pa fun g => { g with share := g.share + 1 }) P

section
variable {s : State} {c : Cur} {t : Team} (hp : Performs s c t) (z : BitVec 1) (d a b : BitVec 6)
include hp

theorem cuts_badWord (h : 2 ^ 25 ≤ (rdS t c b.toNat).toNat) :
    exec (.kvtrunc z d a b) s = .next (s.raiseQ c t 0x72 0 (rdS t c b.toNat).toNat) ∧
    exec (.kvfork z d a b) s = .next (s.raiseQ c t 0x72 0 (rdS t c b.toNat).toNat) :=
  ⟨(withCur_eq hp _).trans (congrArg _ (if_pos (by omega))), (withCur_eq hp _).trans (congrArg _ (if_pos (by omega)))⟩

variable (hn : (rdS t c b.toNat).toNat < 2 ^ 25)
include hn

theorem kvtrunc_word : exec (.kvtrunc z d a b) s = .next (withHandle s c t (rdS t c a.toNat) 1 true none fun e =>
    if (!s.mayClaim t e) = true then pair s c t z d 4 0
    else pair (s.truncated t (hIdx (rdS t c a.toNat)) e (rdS t c b.toNat).toNat) c t z d 0
      (mkHandle (hPart (rdS t c a.toNat)) (e.gen + 1) (hIdx (rdS t c a.toNat)) (hWr (rdS t c a.toNat)) (hBound (rdS t c a.toNat)))) :=
  (withCur_eq hp _).trans (congrArg _ (if_neg (by omega)))

theorem kvfork_word : exec (.kvfork z d a b) s = .next (withHandle s c t (rdS t c a.toNat) 1 false none fun e =>
    if (rdS t c b.toNat).toNat > s.kvLen t.view (hIdx (rdS t c a.toNat)) e then
      raiseW s c t 0x6C (infoH (rdS t c a.toNat) (rdS t c b.toNat).toNat 0 7)
    else match s.newIdx t.id.part 1 with
      | none => pair s c t z d 5 0
      | some (y, s) =>
        let gen := ((s.part t.id.part).kvEnt y).gen
        (pair s c t z d 0 (mkHandle t.id.part gen y true 0x1FFFFFF)).forked t.id.part t.id.ctx (hIdx (rdS t c a.toNat)) y gen e (rdS t c b.toNat).toNat) :=
  (withCur_eq hp _).trans (congrArg _ (if_neg (by omega)))

end

theorem lengths_wellFormed (z : BitVec 1) (d a b : BitVec 6) :
    ∀ i ∈ [Instr.kvapp z d a b, .kvtrunc z d a b, .kvfork z d a b], wellFormed i = true ↔ 1 ≤ d.toNat ∧ d.toNat ≤ 62 := by
  intro i hi
  simp only [List.mem_cons, List.not_mem_nil, or_false] at hi
  rcases hi with rfl | rfl | rfl <;> exact pairOk_iff

/-- Settles O36: each form's equation above, outcome by outcome. -/
theorem entryLengths : Obligations.EntryLengths := by
  unfold Obligations.EntryLengths
  intro s c t z d a b hp w n h p x app trunc fork
  refine ⟨lengths_wellFormed z d a b, fun _ _ => ⟨kvapp_badWord hp z d a b, cuts_badWord hp z d a b, fun y k he => ⟨fun hw => ?_, fun hn => ?_⟩,
    fun e he => ⟨fun hw => ?append, fun hn => ?trunc⟩, fun hn => ⟨fun y k he => ?_, fun e he => ?fork⟩⟩⟩
  · exact raisesW_handle (kvapp_word hp z d a b hw) he
  · exact raisesW_handle (kvtrunc_word hp z d a b hn) he
  case append =>
    have hexec : exec app s = .next (appendTo s c t z d h (bits n 20 0) (bits n 44 32) e) :=
      next_of_handle (kvapp_word hp z d a b hw) he
    refine ⟨fun hin => next_of_pos hexec (congrArg not hin), fun hin hdone => ?_, fun hin hdone => ?_⟩
    all_goals replace hexec := next_of_neg hexec (not_guard hin)
    · exact stands_of (next_of_pos hexec (congrArg not hdone)) (.refl _)
    replace hexec := next_of_neg hexec (not_guard hdone)
    refine ⟨fun hclaim => longThen_pair (f := id) (next_of_pos hexec (congrArg not hclaim)), fun hclaim hcap => ?_,
      fun hclaim hcap hpois => ?_, fun hclaim hcap hclean => ?_⟩
    all_goals replace hexec := next_of_neg hexec (not_guard hclaim)
    · exact longThen_pair (f := id) (next_of_pos hexec hcap)
    all_goals replace hexec := next_of_neg hexec (Nat.not_lt.2 hcap)
    · exact next_of_pos hexec hpois
    replace hexec := next_of_neg hexec (Bool.eq_false_iff.1 hclean)
    refine ⟨readFails_of hexec, fun y s1 hcs => ?_⟩
    obtain ⟨hwait, hgo⟩ := appendPlaced_outcomes (next_of_read hexec hcs)
    exact ⟨hwait, fun s0 hrows => appendWritten_outcomes (hgo s0 hrows)⟩
  case trunc =>
    have hexec := next_of_handle (kvtrunc_word hp z d a b hn) he
    refine ⟨fun hclaim => longThen_pair (f := id) (next_of_pos hexec (congrArg not hclaim)),
      fun hclaim => longThen_pair (f := id) (next_of_neg hexec (not_guard hclaim))⟩
  · exact raisesW_handle (kvfork_word hp z d a b hn) he
  case fork =>
    have hexec := next_of_handle (kvfork_word hp z d a b hn) he
    refine ⟨next_of_pos hexec, fun hlen => ?_⟩
    have hfits := next_of_neg hexec (Nat.not_lt.2 hlen)
    refine ⟨fun hfull => ?_, fun y s1 hfree => ?_⟩
    · rw [hfull] at hfits
      exact longThen_pair (f := id) hfits
    · rw [hfree] at hfits
      exact longThen_pair hfits

end Sys2Proof.Machine
end

section
/-! PROOFS. Lookups and insertions of strings (R400 to R402, R630) and the pages of KV entries (R394, R395, R399, R631): O37. -/

namespace Sys2Proof.Machine

/-! ## The string word of a lookup (R630) -/

/-- The guard of a lookup on its string word is that of R630. -/
theorem stringWord_iff (n : Nat) : (n / 2 ^ 57 ≠ 0 ∨ bits n 31 21 ≠ 0 ∨ bits n 20 0 % 16 ≠ 0 ∨ bits n 56 32 = 0) ↔ ¬ StringWord n := by
  unfold StringWord
  omega

section
variable {i : Instr} {s : State} {c : Cur} {t : Team} {b : BitVec 6} {go : Nat → Nat → List (BitVec 32) → State}
  (hexec : exec i s = .next (lookWord s c t b go))
include hexec

theorem lookWord_badWord (h : ¬ StringWord (rdS t c b.toNat).toNat) : exec i s = .next (s.raiseQ c t 0x72 0 (rdS t c b.toNat).toNat) :=
  next_of_pos hexec ((stringWord_iff _).2 h)

/-- A string word in range, as its stash address and length, comes to the checks of the stash. -/
theorem lookWord_word {src len : Nat} (h : StringWord (rdS t c b.toNat).toNat) (hsrc : bits (rdS t c b.toNat).toNat 20 0 = src)
    (hlen : bits (rdS t c b.toNat).toNat 56 32 = len) : exec i s = .next (
      if (!t.inStash src (4 * min len 4096)) = true then raiseW s c t 0x38 (infoSt t.id.cluster src 1)
      else if (!t.sync.stashDone) = true then waitHere s c t .bank
      else if (granules src (4 * min len 4096)).any (stashPois (s.cluster t.id.cluster)) = true then
        raiseW s c t 0x88 (s.infoP { kind := .load, va := src, esz := 1 } src 3)
      else go src len (tokenIds s t src (min len 4096))) := by
  subst hsrc hlen
  exact next_of_neg hexec (fun hbad => (stringWord_iff _).1 hbad h)

variable {src len : Nat} (hword : StringWord (rdS t c b.toNat).toNat) (hsrc : bits (rdS t c b.toNat).toNat 20 0 = src)
  (hlen : bits (rdS t c b.toNat).toNat 56 32 = len)
include hword hsrc hlen

theorem lookWord_outside (hin : t.inStash src (4 * min len 4096) = false) : RaisesW i s c t 0x38 (infoSt t.id.cluster src 1) :=
  next_of_pos (lookWord_word hexec hword hsrc hlen) (congrArg not hin)

variable (hin : t.inStash src (4 * min len 4096) = true)
include hin

theorem lookWord_stands (hdone : t.sync.stashDone = false) : Stands i s c t .bank := by
  have hstash := next_of_neg (lookWord_word hexec hword hsrc hlen) (not_guard hin)
  exact stands_of (next_of_pos hstash (congrArg not hdone)) (.refl _)

variable (hdone : t.sync.stashDone = true)
include hdone

theorem lookWord_poisoned (hpois : (granules src (4 * min len 4096)).any (stashPois (s.cluster t.id.cluster)) = true) :
    RaisesW i s c t 0x88 (s.infoP { kind := .load, va := src, esz := 1 } src 3) := by
  have hstash := next_of_neg (lookWord_word hexec hword hsrc hlen) (not_guard hin)
  exact next_of_pos (next_of_neg hstash (not_guard hdone)) hpois

theorem lookWord_reads (hclean : (granules src (4 * min len 4096)).any (stashPois (s.cluster t.id.cluster)) = false) :
    exec i s = .next (go src len (tokenIds s t src (min len 4096))) := by
  have hstash := next_of_neg (lookWord_word hexec hword hsrc hlen) (not_guard hin)
  exact next_of_neg (next_of_neg hstash (not_guard hdone)) (Bool.eq_false_iff.1 hclean)

end

/-! ## Lookups and insertions (R401, R402) -/

/-- R401: a lookup of the string `ids` of length `n` under hash `h`. -/
def lookPrefix (s : State) (c : Cur) (t : Team) (z : BitVec 1) (d : BitVec 6) (h : Word) (n : Nat) (ids : List (BitVec 32)) : State :=
  if (s.part t.id.part).waysAt h = [] then pair s c t z d 0 0
  else match ((s.part t.id.part).waysAt h).find? fun y => y.agrees n ids with
    | none => pair s c t z d 3 0
    | some y => (pair s c t z d (if 4096 < y.len ∧ 4096 < n then 2 else 1) (mkHandle t.id.part y.gen y.idx false (min n y.len))).modKv t.id.part y.idx
        fun e => { e with ref := e.ref + 1 }

/-- R402: way `k` of the bucket of hash `h` takes a string for the entry that handle `hd` names. -/
def State.prefixPut (s : State) (p : Nat) (h hd : Word) (n : Nat) (ids : List (BitVec 32)) (k : Nat) : State :=
  (s.modPart p fun P => { P with pfx := Tbl.put P.pfx (4 * (h.toNat % 65536) + k) { hash := h, idx := hIdx hd, gen := hGen hd, len := n, ids := ids } }).modKv
    p (hIdx hd) fun e => { e with pidx := some (h.toNat % 65536, k) }

/-- R402: an insertion of the string `ids` of length `n` under hash `h`, for the entry `e` that handle `hd` names. -/
def insertPrefix (s : State) (c : Cur) (t : Team) (z : BitVec 1) (d : BitVec 6) (h hd : Word) (n : Nat) (ids : List (BitVec 32)) (e : KvEnt) : State :=
  let P := s.part t.id.part
  let fin := fun (x : Nat) => finishLong s c t z [.s d.toNat (BitVec.ofNat 64 x)] 1
  if n > e.len then raiseW s c t 0x6C (infoH hd n 0 7)
  else if ((P.waysAt h).any fun y => !(y.len = n && y.ids = ids)) = true then fin 3
  else if P.waysAt h ≠ [] then fin 0
  else match (List.range 4).find? fun k => (Tbl.get? P.pfx (4 * (h.toNat % 65536) + k)).isNone with
    | none => fin 5
    | some k => (fin 0).prefixPut t.id.part h hd n ids k

section
variable {i : Instr} {s : State} {c : Cur} {t : Team} {z : BitVec 1} {d : BitVec 6} {h hd : Word} {n : Nat} {ids : List (BitVec 32)}

theorem lookPrefix_outcomes (hexec : exec i s = .next (lookPrefix s c t z d h n ids)) :
    ((s.part t.id.part).waysAt h = [] → LongThen i s s c t z (pairOf d 0 0) id) ∧
    ((s.part t.id.part).waysAt h ≠ [] → (∀ y ∈ (s.part t.id.part).waysAt h, y.agrees n ids = false) → LongThen i s s c t z (pairOf d 3 0) id) ∧
    ∀ y, ((s.part t.id.part).waysAt h).find? (fun y => y.agrees n ids) = some y →
      LongThen i s s c t z (pairOf d (if 4096 < y.len ∧ 4096 < n then 2 else 1) (mkHandle t.id.part y.gen y.idx false (min n y.len)))
        fun q => q.modKv t.id.part y.idx fun e => { e with ref := e.ref + 1 } := by
  refine ⟨fun hnone => longThen_pair (f := id) (next_of_pos hexec hnone), fun hways hdiffer => ?_, fun y hy => ?_⟩
  · have hno : ((s.part t.id.part).waysAt h).find? (fun y => y.agrees n ids) = none :=
      List.find?_eq_none.2 fun y hy => Bool.eq_false_iff.1 (hdiffer y hy)
    rw [lookPrefix, if_neg hways, hno] at hexec
    exact longThen_pair (f := id) hexec
  · have hways : (s.part t.id.part).waysAt h ≠ [] := List.ne_nil_of_mem (List.mem_of_find?_eq_some hy)
    rw [lookPrefix, if_neg hways, hy] at hexec
    exact longThen_pair hexec

/-- A way differs from a string in its length or in its ids. -/
theorem ways_differ_iff {ways : List Prefix} :
    (ways.any fun y => !(y.len = n && y.ids = ids)) = true ↔ ∃ y ∈ ways, ¬ (y.len = n ∧ y.ids = ids) := by
  simp only [List.any_eq_true, Bool.not_eq_true', Bool.and_eq_false_iff, decide_eq_false_iff_not, not_and_or]

theorem insertPrefix_outcomes {e : KvEnt} (hexec : exec i s = .next (insertPrefix s c t z d h hd n ids e)) :
    let P := s.part t.id.part
    let way := fun k => Tbl.get? P.pfx (4 * (h.toNat % 65536) + k)
    (e.len < n → RaisesW i s c t 0x6C (infoH hd n 0 7)) ∧
    (n ≤ e.len →
      ((∃ y ∈ P.waysAt h, ¬ (y.len = n ∧ y.ids = ids)) → LongThen i s s c t z (oneOf d 3) id) ∧
      ((∀ y ∈ P.waysAt h, y.len = n ∧ y.ids = ids) → P.waysAt h ≠ [] → LongThen i s s c t z (oneOf d 0) id) ∧
      (P.waysAt h = [] → (∀ k, k < 4 → way k ≠ none) → LongThen i s s c t z (oneOf d 5) id) ∧
      ∀ k, P.waysAt h = [] → k < 4 → way k = none → (∀ j, j < k → way j ≠ none) →
        LongThen i s s c t z (oneOf d 0) fun q => q.prefixPut t.id.part h hd n ids k) := by
  intro P way
  refine ⟨next_of_pos hexec, fun hfits => ?_⟩
  replace hexec := next_of_neg hexec (Nat.not_lt.2 hfits)
  refine ⟨fun hother => longThen_scalar (f := id) (next_of_pos hexec (ways_differ_iff.2 hother)), fun hsame hways => ?_,
    fun hways hfull => ?_, fun k hways hk hfree hlow => ?_⟩
  · have hno : ¬ ∃ y ∈ P.waysAt h, ¬ (y.len = n ∧ y.ids = ids) := fun ⟨y, hy, hne⟩ => hne (hsame y hy)
    exact longThen_scalar (f := id) (next_of_pos (next_of_neg hexec (mt ways_differ_iff.1 hno)) hways)
  all_goals
    have hno : ¬ ∃ y ∈ P.waysAt h, ¬ (y.len = n ∧ y.ids = ids) := by simp [hways]
    replace hexec := next_of_neg (next_of_neg hexec (mt ways_differ_iff.1 hno)) (not_not.2 hways)
  · have hnone : (List.range 4).find? (fun k => (way k).isNone) = none := by
      rw [List.find?_range_eq_none]
      intro k hk
      simp [Option.ne_none_iff_isSome.1 (hfull k hk)]
    rw [hnone] at hexec
    exact longThen_scalar (f := id) hexec
  · have hsome : (List.range 4).find? (fun k => (way k).isNone) = some k := by
      rw [List.find?_range_eq_some]
      refine ⟨by simp [hfree], List.mem_range.2 hk, fun j hj => ?_⟩
      simp [Option.ne_none_iff_isSome.1 (hlow j hj)]
    rw [hsome] at hexec
    exact longThen_scalar hexec

end

section
variable {s : State} {c : Cur} {t : Team} (hp : Performs s c t) (z : BitVec 1) (d a b : BitVec 6)
include hp

theorem kvlook_eq : exec (.kvlook z d a b) s = .next (lookWord s c t b fun _ n ids => lookPrefix s c t z d (rdS t c a.toNat) n ids) := withCur_eq hp _

theorem kvlookIns_eq : exec (.kvlookIns z d a b) s = .next (lookWord s c t b fun _ n ids =>
    match s.kvDeref0 t.id.part t.id.ctx (rdS t c (d.toNat + 1)) 1 false none with
    | .error (x, k) => raiseW s c t x (infoH (rdS t c (d.toNat + 1)) 0 0 k)
    | .ok e => insertPrefix s c t z d (rdS t c a.toNat) (rdS t c (d.toNat + 1)) n ids e) := withCur_eq hp _

end

/-! ## Growth of an entry (R395) -/

/-- R395: the machine after entry `x` has been given the capacity of `k` pages, and the pages `new`. -/
def State.grown (s : State) (p x k : Nat) (new : List Nat) : State :=
  (s.modKv p x fun e => { e with cap := k * 2 ^ e.ptok, pages := e.pages ++ new }).modPart p
    fun P => new.foldl (fun P pa => P.modPage pa fun g => { g with share := 1, priv := false }) P

/-- R395: `kvalloc.grow` with the operand word `n`, on the entry `e` that handle `h` names. -/
def growEntry (s : State) (c : Cur) (t : Team) (z : BitVec 1) (d : BitVec 6) (h : Word) (n : Nat) (e : KvEnt) : State :=
  let k := (e.cap + bits n 31 0 + 2 ^ e.ptok - 1) / 2 ^ e.ptok
  let free := (s.part t.id.part).freePages (bit n 62)
  let need := k - e.pages.length
  let fin := fun (x : Nat) => finishLong s c t z [.s d.toNat (BitVec.ofNat 64 x)] 1
  if k * 2 ^ e.ptok > 0x1FFFFFF then fin 3
  else if free.length < need then fin 2
  else if free.length - need < (s.part t.id.part).reserve (bit n 62) ∧ (!bit n 63) = true then fin 1
  else (fin 0).grown t.id.part (hIdx h) k (free.take need)

theorem growEntry_outcomes {i : Instr} {s : State} {c : Cur} {t : Team} {z : BitVec 1} {d : BitVec 6} {h : Word} {n : Nat} {e : KvEnt}
    (hexec : exec i s = .next (growEntry s c t z d h n e)) :
    let P := s.part t.id.part
    let rem := bit n 62
    let k := (e.cap + bits n 31 0 + 2 ^ e.ptok - 1) / 2 ^ e.ptok
    let free := P.freePages rem
    let need := k - e.pages.length
    (0x1FFFFFF < k * 2 ^ e.ptok → LongThen i s s c t z (oneOf d 3) id) ∧
    (k * 2 ^ e.ptok ≤ 0x1FFFFFF → free.length < need → LongThen i s s c t z (oneOf d 2) id) ∧
    (k * 2 ^ e.ptok ≤ 0x1FFFFFF → need ≤ free.length → free.length - need < P.reserve rem → bit n 63 = false → LongThen i s s c t z (oneOf d 1) id) ∧
    (k * 2 ^ e.ptok ≤ 0x1FFFFFF → need ≤ free.length → P.reserve rem ≤ free.length - need ∨ bit n 63 = true →
      LongThen i s s c t z (oneOf d 0) fun q => q.grown t.id.part (hIdx h) k (free.take need)) := by
  intro P rem k free need
  refine ⟨fun hbig => longThen_scalar (f := id) (next_of_pos hexec hbig), fun hcap hfew => ?_, fun hcap hroom hlow hforce => ?_,
    fun hcap hroom hmay => ?_⟩
  all_goals replace hexec := next_of_neg hexec (Nat.not_lt.2 hcap)
  · exact longThen_scalar (f := id) (next_of_pos hexec hfew)
  all_goals replace hexec := next_of_neg hexec (Nat.not_lt.2 hroom)
  · exact longThen_scalar (f := id) (next_of_pos hexec ⟨hlow, congrArg not hforce⟩)
  · have hgoes : ¬ (free.length - need < P.reserve rem ∧ (!bit n 63) = true) := fun ⟨hlow, hno⟩ =>
      hmay.elim (Nat.not_le.2 hlow) fun hforce => not_guard hforce hno
    exact longThen_scalar (next_of_neg hexec hgoes)

/-! ## Pages moved out (R399) -/

/-- R399: the page at `old` of entry `x` of partition `p`, its `n`th, starts to move to the page at `new`. -/
def State.demoted (s : State) (p ctx x n old new : Nat) : State :=
  ({ s with fresh := s.fresh + 1
            xlat := { s.xlat with moves := s.xlat.moves ++ [{ id := s.fresh, pf := false, ctx := ctx, va := 0, lg := 16, old := old, new := new,
                                                              phase := 2, ta := s.now, stamp := s.fresh, kv := some (p, x, n) }] } } : State).modPart p
    fun P => P.modPage new fun g => { g with moving := true }

/-- R399: the page at `old` is in the remote tier already, or on its way. -/
def State.pageAway (s : State) (p old : Nat) : Prop :=
  (Tbl.getD (s.part p).pages old { remote := false, share := 0 }).remote = true ∨ ∃ m ∈ s.xlat.moves, m.kv.isSome = true ∧ m.old = old

theorem pageAway_iff {s : State} {p old : Nat} : ((Tbl.getD (s.part p).pages old { remote := false, share := 0 }).remote ||
    s.xlat.moves.any fun m => m.kv.isSome && m.old = old) = true ↔ s.pageAway p old := by
  simp only [State.pageAway, Bool.or_eq_true, List.any_eq_true, Bool.and_eq_true, decide_eq_true_eq]

/-- R399: `kvalloc.dem` of page `n` of the entry `e` that handle `h` names. -/
def demote (s : State) (c : Cur) (t : Team) (z : BitVec 1) (d : BitVec 6) (h : Word) (n : Nat) (e : KvEnt) : State :=
  let P := s.part t.id.part
  let fin := fun (x : Nat) => finishLong s c t z [.s d.toNat (BitVec.ofNat 64 x)] 1
  if n ≥ e.cap / 2 ^ e.ptok then raiseW s c t 0x6C (infoH h (n * 2 ^ e.ptok) 0 7)
  else if ((Tbl.getD P.pages (e.pageAt n) { remote := false, share := 0 }).remote ||
      s.xlat.moves.any fun m => m.kv.isSome && m.old = e.pageAt n) = true then fin 6
  else match P.freePages true with
    | [] => fin 2
    | new :: _ => (fin 0).demoted t.id.part t.id.ctx (hIdx h) n (e.pageAt n) new

theorem demote_outcomes {i : Instr} {s : State} {c : Cur} {t : Team} {z : BitVec 1} {d : BitVec 6} {h : Word} {n : Nat} {e : KvEnt}
    (hexec : exec i s = .next (demote s c t z d h n e)) :
    let P := s.part t.id.part
    let old := e.pageAt n
    (e.cap / 2 ^ e.ptok ≤ n → RaisesW i s c t 0x6C (infoH h (n * 2 ^ e.ptok) 0 7)) ∧
    (n < e.cap / 2 ^ e.ptok →
      (s.pageAway t.id.part old → LongThen i s s c t z (oneOf d 6) id) ∧
      (¬ s.pageAway t.id.part old → P.freePages true = [] → LongThen i s s c t z (oneOf d 2) id) ∧
      ∀ new r, ¬ s.pageAway t.id.part old → P.freePages true = new :: r →
        LongThen i s s c t z (oneOf d 0) fun q => q.demoted t.id.part t.id.ctx (hIdx h) n old new) := by
  intro P old
  refine ⟨next_of_pos hexec, fun hin => ?_⟩
  replace hexec := next_of_neg hexec (Nat.not_le.2 hin)
  refine ⟨fun hbusy => longThen_scalar (f := id) (next_of_pos hexec (pageAway_iff.2 hbusy)), fun hidle hfree => ?_,
    fun new r hidle hfree => ?_⟩
  all_goals
    replace hexec := next_of_neg hexec (mt pageAway_iff.1 hidle)
    rw [hfree] at hexec
  · exact longThen_scalar (f := id) hexec
  · exact longThen_scalar hexec

/-! ## Blocks granted (R394) -/

/-- R394: the tiers of the blocks of translated pages, where they are whole blocks of memory that a partition may hold pages in. -/
def State.blockTiers (s : State) (l : List Seg) : Option (List (Nat × Bool)) :=
  (if (l.any fun x => x.host) = true then none else blocksOf l.length (l.map fun x => x.pa)).bind fun bs =>
    bs.mapM fun pa => (s.tierOf pa).map fun r => (pa, r)

theorem blockTiers_local {s : State} {l : List Seg} (h : ∀ x ∈ l, x.host = false) :
    s.blockTiers l = (blocksOf l.length (l.map fun x => x.pa)).bind fun bs => bs.mapM fun pa => (s.tierOf pa).map fun r => (pa, r) := by
  have hno : ¬ (l.any fun x => x.host) = true := by simpa using h
  rw [State.blockTiers, if_neg hno]

/-- R394: the machine after blocks have become free pages, but for those that were pages. -/
def State.granted (s : State) (p : Nat) (bs : List (Nat × Bool)) : State :=
  s.modPart p fun P =>
    { P with pages := bs.foldl (fun q x => if (Tbl.get? q x.1).isSome = true then q else Tbl.put q x.1 { remote := x.2, share := 0 }) P.pages }

/-- R394: `kvalloc.grant` with its pages translated. -/
def grantBlocks (c : Cur) (z : BitVec 1) (d : BitVec 6) (w : Word) (l : List Seg) (s : State) (t : Team) : State :=
  match s.blockTiers l with
  | none => badWord s c t w
  | some bs => (finishLong s c t z [.s d.toNat 0] 1).granted t.id.part bs

/-- R394: `kvalloc.grant` of the `n` bytes from `va`, with the operand word `w`. -/
def grantRange (s : State) (c : Cur) (t : Team) (z : BitVec 1) (d : BitVec 6) (va : Nat) (w : Word) : State :=
  let info := ({ kind := .store, va := va, esz := 1 } : Acc).infoT0
  if va % 65536 ≠ 0 then raiseW s c t 0x24 info
  else if w.toNat = 0 ∨ w.toNat % 65536 ≠ 0 then badWord s c t w
  else if va + w.toNat > 2 ^ 57 then raiseW s c t 0x20 info
  else match footCheck (s.footOf t.view) .store false va w.toNat with
    | .error x => raiseW s c t x info
    | .ok _ => withGo c t .store va (s.xlatAll (teamAgent c t) ((pagesOf va w.toNat).map fun p => (p, true))) (grantBlocks c z d w)

theorem grantBlocks_grants {i : Instr} {s s1 : State} {c : Cur} {t : Team} {z : BitVec 1} {d : BitVec 6} {w : Word} {l : List Seg} {bs : List (Nat × Bool)}
    (hexec : exec i s = .next (grantBlocks c z d w l s1 t)) (hbs : s1.blockTiers l = some bs) :
    LongThen i s s1 c t z (oneOf d 0) fun q => q.granted t.id.part bs := by
  rw [grantBlocks, hbs] at hexec
  exact longThen_scalar hexec

section
variable {s : State} {c : Cur} {t : Team} (hp : Performs s c t) (z : BitVec 1) (d a b : BitVec 6)
include hp

/-! ## The forms of `kvalloc` (R631) -/

theorem kvallocGrow_badWord (h : bits (rdS t c b.toNat).toNat 61 32 ≠ 0 ∨ bits (rdS t c b.toNat).toNat 31 0 = 0) :
    exec (.kvallocGrow z d a b) s = .next (s.raiseQ c t 0x72 0 (rdS t c b.toNat).toNat) :=
  (withCur_eq hp _).trans (congrArg _ (if_pos h))

theorem kvallocGrow_word (h32 : bits (rdS t c b.toNat).toNat 61 32 = 0) (h0 : bits (rdS t c b.toNat).toNat 31 0 ≠ 0) :
    exec (.kvallocGrow z d a b) s =
      .next (withHandle s c t (rdS t c a.toNat) 1 true none (growEntry s c t z d (rdS t c a.toNat) (rdS t c b.toNat).toNat)) :=
  have hword : ¬ (bits (rdS t c b.toNat).toNat 61 32 ≠ 0 ∨ bits (rdS t c b.toNat).toNat 31 0 = 0) := by omega
  (withCur_eq hp _).trans (congrArg _ (if_neg hword))

theorem kvallocDem_eq : exec (.kvallocDem z d a b) s =
    .next (withHandle s c t (rdS t c a.toNat) 1 true none (demote s c t z d (rdS t c a.toNat) (rdS t c b.toNat).toNat)) := withCur_eq hp _

theorem kvallocGrant_eq : exec (.kvallocGrant z d a b) s = .next (grantRange s c t z d (rdS t c a.toNat).toNat (rdS t c b.toNat)) := withCur_eq hp _

theorem kvallocRsv_eq : exec (.kvallocRsv z d a b) s = .next (
    if (rdS t c a.toNat).toNat ≥ 2 ^ 32 then badWord s c t (rdS t c a.toNat)
    else if (rdS t c b.toNat).toNat ≥ 2 ^ 32 then badWord s c t (rdS t c b.toNat)
    else (finishLong s c t z [.s d.toNat 0] 1).modPart t.id.part fun P =>
      { P with resL := (rdS t c a.toNat).toNat, resR := (rdS t c b.toNat).toNat }) := withCur_eq hp _

end

theorem lookups_wellFormed (z : BitVec 1) (d a b : BitVec 6) :
    ∀ i ∈ [Instr.kvlook z d a b, .kvlookIns z d a b], wellFormed i = true ↔ 1 ≤ d.toNat ∧ d.toNat ≤ 62 := by
  intro i hi
  simp only [List.mem_cons, List.not_mem_nil, or_false] at hi
  rcases hi with rfl | rfl <;> exact pairOk_iff

/-- Settles O37: the checks of a string once for both lookups, and then each form's outcomes above. -/
theorem entryPages : Obligations.EntryPages := by
  unfold Obligations.EntryPages
  intro s c t z d a b hp w n h p P look ins src len ids
  have hlook := kvlook_eq hp z d a b
  have hins := kvlookIns_eq hp z d a b
  refine ⟨lookups_wellFormed z d a b, fun _ _ => ⟨fun hw => ⟨lookWord_badWord hlook hw, lookWord_badWord hins hw⟩,
    fun hw hin => ⟨lookWord_outside hlook hw rfl rfl hin, lookWord_outside hins hw rfl rfl hin⟩,
    fun hw hin hdone => ⟨lookWord_stands hlook hw rfl rfl hin hdone, lookWord_stands hins hw rfl rfl hin hdone⟩,
    fun hw hin hdone hpois i hi => ?poisoned, fun hw hin hdone hclean => ?reads⟩, ⟨kvallocGrow_badWord hp z d a b, fun h32 h0 => ?grow⟩, ?grant,
    fun hh hn => ?rsv, fun hh => ?rsvFirst, fun hh hn => ?rsvSecond, ?dem⟩
  case poisoned =>
    simp only [List.mem_cons, List.not_mem_nil, or_false] at hi
    rcases hi with rfl | rfl
    · exact lookWord_poisoned hlook hw rfl rfl hin hdone hpois
    · exact lookWord_poisoned hins hw rfl rfl hin hdone hpois
  case reads =>
    replace hlook := lookWord_reads hlook hw rfl rfl hin hdone hclean
    replace hins := lookWord_reads hins hw rfl rfl hin hdone hclean
    obtain ⟨hnone, hdiffer, hfound⟩ := lookPrefix_outcomes hlook
    refine ⟨hnone, hdiffer, hfound, fun y k he => ?_, fun e he => ?_⟩
    · rw [he] at hins
      exact hins
    · rw [he] at hins
      exact insertPrefix_outcomes hins
  case grow =>
    have hexec := kvallocGrow_word hp z d a b h32 h0
    exact ⟨fun y k he => raisesW_handle hexec he, fun e he => growEntry_outcomes (next_of_handle hexec he)⟩
  case grant =>
    have hexec := kvallocGrant_eq hp z d a b
    refine ⟨next_of_pos hexec, fun hal hbad => ?_, fun hal h0 h16 htop => ?_, fun hal h0 h16 htop => ?_⟩
    all_goals replace hexec := next_of_neg hexec (not_not.2 hal)
    · exact next_of_pos hexec hbad
    all_goals replace hexec := next_of_neg hexec (not_or.2 ⟨h0, not_not.2 h16⟩)
    · exact next_of_pos hexec htop
    replace hexec := next_of_neg hexec (Nat.not_lt.2 htop)
    refine ⟨fun g hg => ?_, fun x hx => ?_, fun g l s1 bs hg hl hlocal hbs => ?_⟩
    · rw [hg] at hexec
      exact readFails_of hexec
    · rw [hx] at hexec
      exact hexec
    · rw [hg] at hexec
      exact grantBlocks_grants (next_of_read hexec hl) ((blockTiers_local hlocal).trans hbs)
  case rsv =>
    have hexec := next_of_neg (kvallocRsv_eq hp z d a b) (Nat.not_le.2 hh)
    exact longThen_scalar (next_of_neg hexec (Nat.not_le.2 hn))
  case rsvFirst => exact next_of_pos (kvallocRsv_eq hp z d a b) hh
  case rsvSecond =>
    have hexec := next_of_neg (kvallocRsv_eq hp z d a b) (Nat.not_le.2 hh)
    exact next_of_pos hexec hn
  case dem =>
    have hexec := kvallocDem_eq hp z d a b
    exact ⟨fun y k he => raisesW_handle hexec he, fun e he => demote_outcomes (next_of_handle hexec he)⟩

end Sys2Proof.Machine
end

section
/-! PROOFS. The window of a stream (R409), frames in stash (R415, R633) and the forms on streams (R632 to R637): O38. -/

namespace Sys2Proof.Machine

/-! ## The window's write leaves the partitions (R60, R130, R336, R409) -/

section
variable (s : State)

theorem Snooped.parts {s s' : State} (h : Snooped s s') : s'.parts = s.parts := by
  obtain ⟨c, o, w, rfl⟩ := h
  rfl
theorem entryFor_parts (v : View) (ln : Nat) : (s.entryFor v ln).2.parts = s.parts := by
  unfold State.entryFor
  split
  · rfl
  · split
    next w _ =>
      obtain ⟨c, hc⟩ := makeWay_eq s w
      rw [hc]
    · rfl
theorem shadowWrite_parts (k pa : Nat) (bs : List Byte) (pois : Bool) (tok : Nat) :
    (s.shadowWrite (.launch k) pa bs pois tok).parts = s.parts := by
  refine Eq.trans ?_ (entryFor_parts s (.launch k) (lineNo pa))
  change (ite _ _ _ : State).parts = _
  split_ifs
  · exact (count_parts ..).trans (count_parts ..)
  · rfl
theorem recall_parts (k ln : Nat) : (s.recall (.launch k) ln).parts = s.parts := by
  unfold State.recall
  dsimp only
  split
  · rfl
  · dsimp only [State.modCluster]
    split_ifs
    · rfl
    · exact (shadowWrite_parts ..).trans (snooped_snoopOut ..).parts
    · split <;> rfl
theorem commitBytes_parts (core : Option Nat) (pa : Nat) (bs : List Byte) (pois : Bool) : (s.commitBytes core pa bs pois).2.parts = s.parts := by
  have hrecall (ln : Nat) : (s.recallAll ln).parts = s.parts :=
    foldl_keeps State.parts (f := fun s (l : Nat × Launch) => s.recall (.launch l.1) ln) (fun s l => recall_parts s l.1 ln) s.launches s
  unfold State.commitBytes
  dsimp only
  split_ifs <;> exact (snooped_snoopOut ..).parts.trans (hrecall _)
theorem writeWindow_parts (p i : Nat) : (s.writeWindow p i).parts = s.parts := by
  unfold State.writeWindow
  dsimp only
  split
  · exact commitBytes_parts ..
  · rfl

end

/-! ## A frame leaves its stream's queue (R415) -/

theorem stm_modStm {s : State} {p x : Nat} (h : ((s.part p).stm x).queue ≠ []) (f : Stm → Stm) :
    ((s.modStm p x f).part p).stm x = f ((s.part p).stm x) := by
  cases hP : Tbl.get? s.parts p with
  | none => simp [State.part, Part.stm, Tbl.getD, hP] at h
  | some P =>
    rw [part_of_get? hP] at h ⊢
    cases hd : Tbl.get? P.stms x with
    | none => simp [Part.stm, Tbl.getD, hd] at h
    | some d => rw [part_stm_modStm hP hd, Part.stm, Tbl.getD, hd, Option.getD_some]

theorem frameTaken_stm {s : State} {p x : Nat} {f : FrameIn} {r : List FrameIn} (h : ((s.part p).stm x).queue = f :: r) :
    ((s.frameTaken p x).part p).stm x = { (s.part p).stm x with queue := r, dseq := (((s.part p).stm x).dseq + 1) % 2 ^ 32 } := by
  have hparts : (s.frameTaken p x).parts = (s.modStm p x fun d => { d with queue := d.queue.tail, dseq := (d.dseq + 1) % 2 ^ 32 }).parts := writeWindow_parts ..
  have hne : ((s.part p).stm x).queue ≠ [] := by simp [h]
  rw [State.part, hparts, ← State.part, stm_modStm hne, h, List.tail_cons]

/-! ## A frame in stash (R340, R364, R415) -/

theorem getElem?_leBytes {k j : Nat} (h : j < k) (n : Nat) : (leBytes k n)[j]? = some (BitVec.ofNat 8 (n / 256 ^ j)) := by
  induction k generalizing j n with
  | zero => omega
  | succ k ih =>
    cases j with
    | zero => simp [leBytes]
    | succ j => rw [leBytes, List.getElem?_cons_succ, ih (by omega), Nat.div_div_eq_div_mul, ← Nat.pow_succ']

/-- A granule that a unit fills: full, and clean of poison. -/
def fillGranule (cl : Cluster) (g : Nat) : Cluster := setStashPois (setFull cl g true) g false

theorem fillGranules_stash (gs : List Nat) (cl : Cluster) : (gs.foldl fillGranule cl).stash = cl.stash :=
  List.foldlRecOn (motive := fun (y : Cluster) => y.stash = cl.stash) _ _ rfl fun _ hy _ _ => hy
theorem isFull_fillGranules (gs : List Nat) (cl : Cluster) (x : Nat) : isFull (gs.foldl fillGranule cl) x = (decide (x ∈ gs) || isFull cl x) := by
  induction gs generalizing cl with
  | nil => simp
  | cons g r ih =>
    rw [List.foldl_cons, ih]
    by_cases h : x = g <;> simp [isFull, fillGranule, setStashPois, setFull, h]
theorem stashPois_fillGranules (gs : List Nat) (cl : Cluster) (x : Nat) :
    stashPois (gs.foldl fillGranule cl) x = (decide (x ∉ gs) && stashPois cl x) := by
  induction gs generalizing cl with
  | nil => simp
  | cons g r ih =>
    rw [List.foldl_cons, ih]
    by_cases h : x = g <;> simp [stashPois, fillGranule, setStashPois, setFull, h]

/-- R415: a cluster whose stash has taken the 64 bytes `n` of a frame at `addr`, for team `k`. -/
def frameCluster (k addr n : Nat) (cl : Cluster) : Cluster :=
  let cl := (granules addr 64).foldl fillGranule (stashPuts cl addr (leBytes 64 n))
  { cl with maps := Tbl.mapV cl.maps fun _ x => if k ∈ x.teams ∧ x.base ≤ addr ∧ addr < x.base + x.len then x.touch (addr - x.base) 64 else x }

theorem stashGet_frameCluster (k addr n : Nat) (cl : Cluster) (x : Nat) :
    stashGet (frameCluster k addr n cl) x = if addr ≤ x ∧ x < addr + 64 then BitVec.ofNat 8 (n / 256 ^ (x - addr)) else stashGet cl x := by
  have hstash : stashGet (frameCluster k addr n cl) x = stashGet (stashPuts cl addr (leBytes 64 n)) x :=
    congrArg (fun y => Tbl.getD y x 0) (fillGranules_stash ..)
  rw [hstash, stashGet_stashPuts]
  by_cases h1 : addr ≤ x
  · by_cases h2 : x - addr < 64
    · rw [if_pos h1, if_pos ⟨h1, by omega⟩, getElem?_leBytes h2, Option.getD_some]
    · rw [if_pos h1, if_neg (by omega), List.getElem?_eq_none (by rw [length_leBytes]; omega), Option.getD_none]
  · rw [if_neg h1, if_neg (by omega)]

theorem frameCluster_granules (k addr n : Nat) (cl : Cluster) :
    ∀ y ∈ granules addr 64, isFull (frameCluster k addr n cl) y = true ∧ stashPois (frameCluster k addr n cl) y = false := by
  intro y hy
  have hfull := isFull_fillGranules (granules addr 64) (stashPuts cl addr (leBytes 64 n)) y
  have hpois := stashPois_fillGranules (granules addr 64) (stashPuts cl addr (leBytes 64 n)) y
  exact ⟨hfull.trans (by simp [hy]), hpois.trans (by simp [hy])⟩

/-- R415: the machine after the 64 bytes `n` of a frame have been written into stash for a team, whose core's leases are over. -/
def State.frameStored (s : State) (k : Nat) (t : Team) (addr n : Nat) : State :=
  (s.modCluster t.id.cluster (frameCluster k addr n)).modCore t.id.core fun q => { q with lc := [] }

theorem frameStored_cluster (s : State) (k : Nat) (t : Team) (addr n : Nat) :
    (s.frameStored k t addr n).cluster t.id.cluster = frameCluster k addr n (s.cluster t.id.cluster) := modCluster_cluster ..
theorem frameStored_cluster_ne {j : Nat} {t : Team} (h : j ≠ t.id.cluster) (s : State) (k addr n : Nat) :
    (s.frameStored k t addr n).cluster j = s.cluster j := modCluster_cluster_ne h _

theorem frameStored_stash (s : State) (k : Nat) (t : Team) (addr n : Nat) :
    (∀ j, j < 64 → stashGet ((s.frameStored k t addr n).cluster t.id.cluster) (addr + j) = BitVec.ofNat 8 (n / 256 ^ j)) ∧
    ∀ j y, j ≠ t.id.cluster ∨ y < addr ∨ addr + 64 ≤ y → stashGet ((s.frameStored k t addr n).cluster j) y = stashGet (s.cluster j) y := by
  refine ⟨fun j hj => ?_, fun j y hjy => ?_⟩
  · rw [frameStored_cluster, stashGet_frameCluster, if_pos ⟨by omega, by omega⟩, Nat.add_sub_cancel_left]
  · by_cases h : j = t.id.cluster
    · subst h
      rw [frameStored_cluster, stashGet_frameCluster, if_neg (by omega)]
    · rw [frameStored_cluster_ne h]

end Sys2Proof.Machine
end

section
/-! PROOFS. The forms on duplex streams (R389, R412, R415, R416, R632 to R637): O38. -/

namespace Sys2Proof.Machine

/-! ## The checks of R632 -/

section
variable {i : Instr} {s : State} {c : Cur} {t : Team} {a b : BitVec 6} {pos : Bool} {go : Nat → Stm → State}

theorem withStream_unbound {e : KvEnt} (hexec : exec i s = .next (withStream s c t a b pos go))
    (he : s.kvDeref t.view t.id.part t.id.ctx (rdS t c a.toNat) 2 false none = .ok e) (h : ¬ StreamBound s t (rdS t c a.toNat)) : Raises i s c t 0x70 := by
  have hbad : t.id.foreign = true ∨ (s.launch t.id.launch).head.ds ≠ some (hIdx (rdS t c a.toNat), e.gen) := by
    by_contra hno
    rw [not_or, Bool.not_eq_true, not_not] at hno
    exact h ⟨hno.1, e, he, hno.2⟩
  exact next_of_pos (next_of_handle hexec he) hbad

theorem withStream_bound (h : StreamBound s t (rdS t c a.toNat)) : withStream s c t a b pos go =
    if pos = true ∧ (rdS t c b.toNat).toNat / 2 ^ 25 ≠ 0 then badWord s c t (rdS t c b.toNat)
    else go (hIdx (rdS t c a.toNat)) ((s.part t.id.part).stm (hIdx (rdS t c a.toNat))) := by
  obtain ⟨hhome, e, he, hds⟩ := h
  exact (withHandle_ok he _).trans (if_neg (by simp [hhome, hds]))

variable (hexec : exec i s = .next (withStream s c t a b pos go)) (h : StreamBound s t (rdS t c a.toNat))
include hexec h

theorem withStream_badPosition (hpos : pos = true) (hn : 2 ^ 25 ≤ (rdS t c b.toNat).toNat) :
    exec i s = .next (s.raiseQ c t 0x72 0 (rdS t c b.toNat).toNat) :=
  next_of_pos (hexec.trans (congrArg _ (withStream_bound h))) ⟨hpos, by omega⟩

theorem withStream_goes (hpos : pos = true → (rdS t c b.toNat).toNat < 2 ^ 25) :
    exec i s = .next (go (hIdx (rdS t c a.toNat)) ((s.part t.id.part).stm (hIdx (rdS t c a.toNat)))) := by
  have hin : ¬ (pos = true ∧ (rdS t c b.toNat).toNat / 2 ^ 25 ≠ 0) := fun ⟨hp, hout⟩ => by
    have := hpos hp
    omega
  exact next_of_neg (hexec.trans (congrArg _ (withStream_bound h))) hin

end

/-! ## `dsin` (R415, R416, R633) -/

/-- R415, R416: `dsin` takes the frame `f` of stream `x`, read as `ds`, for stash address `addr`. -/
def receiveFrame (s : State) (c : Cur) (t : Team) (z : BitVec 1) (d : BitVec 6) (addr x : Nat) (ds : Stm) (f : FrameIn) : State :=
  let late := f.late && ds.latep = 0
  if (late && !t.sync.rq.all fun e => e.done) = true then waitHere s c t .late
  else if late = true then raiseW (s.frameTaken t.id.part x) c t 0x71 (lineWords f.bits)
  else finishLong ((s.frameTaken t.id.part x).frameStored c.team t addr f.bits) c t z [.s d.toNat (BitVec.ofNat 64 (bits f.bits 31 0))] 1

/-- R633: `dsin` on stream `x`, read as `ds`, for stash address `addr`. -/
def streamIn (s : State) (c : Cur) (t : Team) (z : BitVec 1) (d : BitVec 6) (addr x : Nat) (ds : Stm) : State :=
  if addr % 64 ≠ 0 then raiseW s c t 0x3A (infoSt t.id.cluster addr 1)
  else if (!t.inStash addr 64) = true then raiseW s c t 0x38 (infoSt t.id.cluster addr 1)
  else if (!t.sync.stashDone) = true then waitHere s c t .bank
  else match ds.queue with
    | [] => waitHere s c t .dsin
    | f :: _ => receiveFrame s c t z d addr x ds f

theorem receiveFrame_outcomes {i : Instr} {s : State} {c : Cur} {t : Team} {z : BitVec 1} {d : BitVec 6} {addr x : Nat} {ds : Stm} {f : FrameIn}
    (hexec : exec i s = .next (receiveFrame s c t z d addr x ds f)) :
    let s0 := s.frameTaken t.id.part x
    (f.late = true → ds.latep = 0 → (∃ e ∈ t.sync.rq, e.done = false) → Stands i s c t .late) ∧
    (f.late = true → ds.latep = 0 → (∀ e ∈ t.sync.rq, e.done = true) → exec i s = .next (raiseW s0 c t 0x71 (lineWords f.bits))) ∧
    (f.late = false ∨ ds.latep ≠ 0 → GoesLong i s (s0.frameStored c.team t addr f.bits) c t z d.toNat (BitVec.ofNat 64 (bits f.bits 31 0))) := by
  intro s0
  refine ⟨fun hlate hlatep ⟨e, he, hopen⟩ => ?_, fun hlate hlatep hdone => ?_, fun hgood => ?_⟩
  · have hall : (t.sync.rq.all fun e => e.done) = false := List.all_eq_false.2 ⟨e, he, Bool.eq_false_iff.1 hopen⟩
    rw [receiveFrame, if_pos (by simp [hlate, hlatep, hall])] at hexec
    exact stands_of hexec (.refl _)
  · have hall : (t.sync.rq.all fun e => e.done) = true := List.all_eq_true.2 hdone
    rw [receiveFrame, if_neg (by simp [hall]), if_pos (by simp [hlate, hlatep])] at hexec
    exact hexec
  · have hno : (f.late && ds.latep = 0) = false := by simpa [imp_iff_not_or] using hgood
    rw [receiveFrame, if_neg (by simp [hno]), if_neg (by simp [hno])] at hexec
    obtain ⟨t', hleaves⟩ := finishLong_leaves (s0.frameStored c.team t addr f.bits) c t z d.toNat (BitVec.ofNat 64 (bits f.bits 31 0))
    exact ⟨_, t', hexec, hleaves⟩

/-- R340, R364, R415: a frame that is taken goes into stash, its granules full and clean, and nothing else changes but the core's leases. -/
theorem frameStored_stores {i : Instr} {s s0 : State} {c : Cur} {t : Team} {z : BitVec 1} {d : Nat} {v : Word} {addr n : Nat}
    (hgoes : GoesLong i s (s0.frameStored c.team t addr n) c t z d v) :
    ∃ s1, GoesLong i s s1 c t z d v ∧ { s1 with clusters := s0.clusters, cores := s0.cores } = s0 ∧
      (∀ k, k < 64 → stashGet (s1.cluster t.id.cluster) (addr + k) = BitVec.ofNat 8 (n / 256 ^ k)) ∧
      (∀ j y, j ≠ t.id.cluster ∨ y < addr ∨ addr + 64 ≤ y → stashGet (s1.cluster j) y = stashGet (s0.cluster j) y) ∧
      ∀ y ∈ granules addr 64, isFull (s1.cluster t.id.cluster) y = true ∧ stashPois (s1.cluster t.id.cluster) y = false := by
  obtain ⟨hbytes, hkept⟩ := frameStored_stash s0 c.team t addr n
  have hgranules := frameCluster_granules c.team addr n (s0.cluster t.id.cluster)
  rw [← frameStored_cluster] at hgranules
  exact ⟨_, hgoes, rfl, hbytes, hkept, hgranules⟩

/-- R415, R416: what `dsin` comes to on its first frame. -/
theorem streamIn_outcomes {i : Instr} {s : State} {c : Cur} {t : Team} {z : BitVec 1} {d : BitVec 6} {addr x : Nat}
    (hexec : exec i s = .next (streamIn s c t z d addr x ((s.part t.id.part).stm x))) :
    let ds := (s.part t.id.part).stm x
    (addr % 64 ≠ 0 → RaisesW i s c t 0x3A (infoSt t.id.cluster addr 1)) ∧
    (addr % 64 = 0 → t.inStash addr 64 = false → RaisesW i s c t 0x38 (infoSt t.id.cluster addr 1)) ∧
    (addr % 64 = 0 → t.inStash addr 64 = true → t.sync.stashDone = false → Stands i s c t .bank) ∧
    (addr % 64 = 0 → t.inStash addr 64 = true → t.sync.stashDone = true →
      (ds.queue = [] → Stands i s c t .dsin) ∧
      ∀ f r, ds.queue = f :: r → exec i s = .next (receiveFrame s c t z d addr x ds f)) := by
  intro ds
  refine ⟨next_of_pos hexec, fun hal hin => ?_, fun hal hin hdone => ?_, fun hal hin hdone => ?_⟩
  all_goals replace hexec := next_of_neg hexec (not_not.2 hal)
  · exact next_of_pos hexec (congrArg not hin)
  all_goals replace hexec := next_of_neg hexec (not_guard hin)
  · exact stands_of (next_of_pos hexec (congrArg not hdone)) (.refl _)
  replace hexec := next_of_neg hexec (not_guard hdone)
  refine ⟨fun hnone => ?_, fun f r hqueue => ?_⟩
  · rw [hnone] at hexec
    exact stands_of hexec (.refl _)
  · rw [hqueue] at hexec
    exact hexec

/-! ## `dstrunc` (R635) -/

/-- R635: the machine after a team's launch has taken the claims of the live handles of stream `x`, and has cut its G at `n`. -/
def State.streamTruncated (s : State) (t : Team) (x n : Nat) (hs : List Word) : State :=
  (hs.foldl (fun q k => q.claim t (hIdx k)) s).modView t.id.launch x fun v =>
    { v with g := some n, gcut := some (match v.gcut with | some y => min y n | none => n) }

/-- R635: `dstrunc` with handle `h` of stream `x`, read as `ds`, at position `n`. -/
def cutStream (s : State) (c : Cur) (t : Team) (z : BitVec 1) (d : BitVec 6) (h : Word) (n x : Nat) (ds : Stm) : State :=
  if n > s.streamG t.view t.id.part x then raiseW s c t 0x6B (infoH h n 0 6)
  else if (!(liveHandles s t.id.part ds).all fun k => s.mayClaim t ((s.part t.id.part).kvEnt (hIdx k))) = true then
    finishLong s c t z [.s d.toNat 4] 1
  else (finishLong s c t z [.s d.toNat 0] 1).streamTruncated t x n (liveHandles s t.id.part ds)

theorem cutStream_outcomes {i : Instr} {s : State} {c : Cur} {t : Team} {z : BitVec 1} {d : BitVec 6} {h : Word} {n x : Nat} {ds : Stm}
    (hexec : exec i s = .next (cutStream s c t z d h n x ds)) :
    let hs := liveHandles s t.id.part ds
    (s.streamG t.view t.id.part x < n → RaisesW i s c t 0x6B (infoH h n 0 6)) ∧
    (n ≤ s.streamG t.view t.id.part x →
      ((∃ k ∈ hs, s.mayClaim t ((s.part t.id.part).kvEnt (hIdx k)) = false) → LongThen i s s c t z (oneOf d 4) id) ∧
      ((∀ k ∈ hs, s.mayClaim t ((s.part t.id.part).kvEnt (hIdx k)) = true) → LongThen i s s c t z (oneOf d 0) fun q => q.streamTruncated t x n hs)) := by
  intro hs
  refine ⟨next_of_pos hexec, fun hin => ?_⟩
  replace hexec := next_of_neg hexec (Nat.not_lt.2 hin)
  refine ⟨fun ⟨k, hk, hheld⟩ => ?_, fun hmay => ?_⟩
  · have hall : (hs.all fun k => s.mayClaim t ((s.part t.id.part).kvEnt (hIdx k))) = false := List.all_eq_false.2 ⟨k, hk, Bool.eq_false_iff.1 hheld⟩
    exact longThen_scalar (f := id) (next_of_pos hexec (congrArg not hall))
  · have hall : (hs.all fun k => s.mayClaim t ((s.part t.id.part).kvEnt (hIdx k))) = true := List.all_eq_true.2 hmay
    exact longThen_scalar (next_of_neg hexec (not_guard hall))

/-! ## `dssnap` (R636) -/

/-- R636: the copy card of a snapshot of a stream at position `n` into slot `slot`. -/
def snapCard (s : State) (c : Cur) (t : Team) (ds : Stm) (n slot : Nat) : Card :=
  { tag := (s.cluster t.id.cluster).nextTag % 65536, kind := 0, bits := 0, team := c.team, launch := t.id.launch, part := t.id.part, ctx := t.id.ctx
    fmt := t.regs.fmt, entry := t.sync.nextEntry
    work := [ds.stbase, ds.snbase + 512 + slot * ds.stlen, ds.stlen / 64, ds.snbase + 8 * slot, 2 ^ 63 + n] }

/-- R636: the machine after that card has ended the queue of the team's cluster. -/
def State.snapQueued (s : State) (c : Cur) (t : Team) (ds : Stm) (n slot : Nat) : State :=
  s.modCluster t.id.cluster fun q =>
    { q with nextTag := q.nextTag + 1, open_ := q.open_ ++ [(s.cluster t.id.cluster).nextTag % 65536], cards := q.cards ++ [snapCard s c t ds n slot] }

/-- R636: `dssnap` at position `n` with the words of the snapshot table, or their poison. -/
def takeSnapshot (c : Cur) (z : BitVec 1) (ds : Stm) (n : Nat) (r : List Byte × Bool) (s : State) (t : Team) : State :=
  if r.2 = true then raiseW s c t 0x88 (s.infoP { kind := .load, va := ds.snbase, esz := 1 } 0 0)
  else finishShort (s.snapQueued c t ds n (snapSlot (wordsOf r.1) n)) c
    { t with sync := { t.sync with park := if ds.stlen = 0 then t.sync.park else .snap ((s.cluster t.id.cluster).nextTag % 65536) } } z [] 1

/-- R636: `dssnap` with handle `h` of stream `x`, read as `ds`, at position `n`. -/
def snapshot (s : State) (c : Cur) (t : Team) (z : BitVec 1) (h : Word) (n x : Nat) (ds : Stm) : State :=
  if ds.snn = 0 then s.raiseX c t 0x75
  else if n > s.streamG t.view t.id.part x then raiseW s c t 0x6B (infoH h n 0 6)
  else if (!t.sync.earlierDone t.sync.nextEntry) = true then waitHere s c t .rel
  else if (!s.cardRoom c.team t) = true then waitHere s c t .enqRoom
  else withGo c t .load ds.snbase (s.unitRead (teamAgent c t) ds.snbase (8 * ds.snn)) (takeSnapshot c z ds n)

theorem snapshot_outcomes {i : Instr} {s : State} {c : Cur} {t : Team} {z : BitVec 1} {h : Word} {n x : Nat} {ds : Stm}
    (hexec : exec i s = .next (snapshot s c t z h n x ds)) :
    let G := s.streamG t.view t.id.part x
    (ds.snn = 0 → Raises i s c t 0x75) ∧
    (ds.snn ≠ 0 → G < n → RaisesW i s c t 0x6B (infoH h n 0 6)) ∧
    (ds.snn ≠ 0 → n ≤ G → t.sync.earlierDone t.sync.nextEntry = false → Stands i s c t .rel) ∧
    (ds.snn ≠ 0 → n ≤ G → t.sync.earlierDone t.sync.nextEntry = true → s.cardRoom c.team t = false → Stands i s c t .enqRoom) ∧
    (ds.snn ≠ 0 → n ≤ G → t.sync.earlierDone t.sync.nextEntry = true → s.cardRoom c.team t = true →
      exec i s = .next (withGo c t .load ds.snbase (s.unitRead (teamAgent c t) ds.snbase (8 * ds.snn)) (takeSnapshot c z ds n))) := by
  intro G
  refine ⟨next_of_pos hexec, fun hring hbeyond => ?_, fun hring hin hearly => ?_,
    fun hring hin hearly hroom => ?_, fun hring hin hearly hroom => ?_⟩
  all_goals replace hexec := next_of_neg hexec hring
  · exact next_of_pos hexec hbeyond
  all_goals replace hexec := next_of_neg hexec (Nat.not_lt.2 hin)
  · exact stands_of (next_of_pos hexec (congrArg not hearly)) (.refl _)
  all_goals replace hexec := next_of_neg hexec (not_guard hearly)
  · exact stands_of (next_of_pos hexec (congrArg not hroom)) (.refl _)
  · exact next_of_neg hexec (not_guard hroom)

/-! ## `dsplay` (R637) -/

/-- R637: the play cursor has been written, and its write completes at `time`. -/
def playWritten (c : Cur) (z : BitVec 1) (va time : Nat) (s : State) (t : Team) : State :=
  let s := (s.addCompl c.team t.sync.nextEntry va (some time)).2
  finishShort s c (s.team c.team) z [] 1

/-! ## The forms -/

section
variable {s : State} {c : Cur} {t : Team} (hp : Performs s c t) (z : BitVec 1) (d a b : BitVec 6)
include hp

theorem dsin_eq : exec (.dsin z d a b) s = .next (withStream s c t a b false (streamIn s c t z d (rdS t c b.toNat).toNat)) := withCur_eq hp _

theorem dsgen_eq : exec (.dsgen z d a b) s = .next (withStream s c t a b true fun x _ =>
    if s.streamG t.view t.id.part x + (rdS t c b.toNat).toNat > maxPos then
      raiseW s c t 0x6B (infoH (rdS t c a.toNat) (s.streamG t.view t.id.part x + (rdS t c b.toNat).toNat) 0 6)
    else (finishLong s c t z [.s d.toNat (BitVec.ofNat 64 (s.streamG t.view t.id.part x + (rdS t c b.toNat).toNat))] 1).modView t.id.launch x
      fun v => { v with g := some (s.streamG t.view t.id.part x + (rdS t c b.toNat).toNat) }) := withCur_eq hp _

theorem dstrunc_eq : exec (.dstrunc z d a b) s =
    .next (withStream s c t a b true (cutStream s c t z d (rdS t c a.toNat) (rdS t c b.toNat).toNat)) := withCur_eq hp _

theorem dssnap_eq : exec (.dssnap z a b) s = .next (withStream s c t a b true (snapshot s c t z (rdS t c a.toNat) (rdS t c b.toNat).toNat)) :=
  withCur_eq hp _

theorem dsplay_eq : exec (.dsplay z a b) s = .next (withHandle s c t (rdS t c a.toNat) 2 true none fun _ =>
    let va := ((s.part t.id.part).stm (hIdx (rdS t c a.toNat))).cwin
    withGo c t .store va (s.unitWrite (teamAgent c t) (some t.id.core) va (leBytes 4 ((rdS t c b.toNat).toNat % 2 ^ 32))) (playWritten c z va)) :=
  withCur_eq hp _

/-- R632: the forms whose operand is a position check it after the stream. -/
theorem positionForms_eq : ∀ i ∈ [Instr.dsgen z d a b, .dstrunc z d a b, .dssnap z a b], ∃ go, exec i s = .next (withStream s c t a b true go) := by
  intro i hi
  simp only [List.mem_cons, List.not_mem_nil, or_false] at hi
  rcases hi with rfl | rfl | rfl
  · exact ⟨_, dsgen_eq hp z d a b⟩
  · exact ⟨_, dstrunc_eq hp z d a b⟩
  · exact ⟨_, dssnap_eq hp z a b⟩

/-- R632: four forms check the handle and the binding of their stream first. -/
theorem streamForms_eq : ∀ i ∈ [Instr.dsin z d a b, .dsgen z d a b, .dstrunc z d a b, .dssnap z a b],
    ∃ pos go, exec i s = .next (withStream s c t a b pos go) := by
  intro i hi
  rcases List.mem_cons.1 hi with rfl | hi
  · exact ⟨_, _, dsin_eq hp z d a b⟩
  · exact ⟨true, positionForms_eq hp z d a b i hi⟩

end

/-- Settles O38: the checks of a stream once for the four forms that name one, and then each form's outcomes above. -/
theorem streamForms : Obligations.StreamForms := by
  unfold Obligations.StreamForms
  intro s c t z d a b hp h x p n ds G dsin all
  refine ⟨fun y k he i hi => ?_, fun e he hno i hi => ?_, fun hbound => ?bound, fun y k he => raisesW_handle (dsplay_eq hp z a b) he, fun e he => ?play⟩
  · obtain ⟨pos, go, hexec⟩ := streamForms_eq hp z d a b i hi
    exact raisesW_handle hexec he
  · obtain ⟨pos, go, hexec⟩ := streamForms_eq hp z d a b i hi
    exact withStream_unbound hexec he hno
  case bound =>
    obtain ⟨hal, hin, hbank, hgo⟩ := streamIn_outcomes (withStream_goes (dsin_eq hp z d a b) hbound (by simp))
    refine ⟨hal, hin, hbank, fun h64 hstash hdone => ?receive, fun hn i hi => ?position, fun hn => ?_⟩
    case receive =>
      obtain ⟨hempty, hframe⟩ := hgo h64 hstash hdone
      refine ⟨hempty, fun f r hq hlate hlatep hopen => ?waits, fun f r hq => ?taken⟩
      case waits =>
        obtain ⟨hwaits, -, -⟩ := receiveFrame_outcomes (hframe f r hq)
        exact hwaits hlate hlatep hopen
      case taken =>
        obtain ⟨-, hraises, hstores⟩ := receiveFrame_outcomes (hframe f r hq)
        have hstm := frameTaken_stm hq
        exact ⟨⟨congrArg Stm.queue hstm, congrArg Stm.dseq hstm⟩, hraises, fun hgood => frameStored_stores (hstores hgood)⟩
    case position =>
      obtain ⟨go, hexec⟩ := positionForms_eq hp z d a b i hi
      exact withStream_badPosition hexec hbound rfl hn
    have hgen := withStream_goes (dsgen_eq hp z d a b) hbound fun _ => hn
    obtain ⟨hbeyond, hcut⟩ := cutStream_outcomes (withStream_goes (dstrunc_eq hp z d a b) hbound fun _ => hn)
    obtain ⟨hnone, hpast, hrel, hroom, hsnap⟩ := snapshot_outcomes (withStream_goes (dssnap_eq hp z a b) hbound fun _ => hn)
    refine ⟨next_of_pos hgen, fun hmax => longThen_scalar (next_of_neg hgen (Nat.not_lt.2 hmax)),
      hbeyond, hcut, hnone, hpast, hrel, hroom, fun hring hle hearly hfree => ?snap⟩
    case snap =>
      replace hsnap := hsnap hring hle hearly hfree
      refine ⟨readFails_of hsnap, fun r pz s0 hr => ?_⟩
      replace hsnap := next_of_read hsnap hr
      exact ⟨next_of_pos hsnap, fun hpz => goes_of (next_of_neg hsnap (Bool.eq_false_iff.1 hpz))⟩
  case play =>
    have hplay := next_of_handle (dsplay_eq hp z a b) he
    exact ⟨readFails_of hplay, fun time s0 htime => goes_of (next_of_read hplay htime)⟩

end Sys2Proof.Machine
end

section
/-! PROOFS. `trap` and `brk` (R420, R425, R427, R428, R432, R643, R644): O20. -/

namespace Sys2Proof.Machine

/-! ## A cause that nothing takes, once it is delivered (R225, R425, R427) -/

/-- A launch that can be aborted still can when one team, the counters and the issue slots have changed. -/
theorem CanAbort.onlyTeam {s s1 : State} {k : Nat} {t t1 : Team} {l : Launch} (h : CanAbort s t l) (honly : OnlyTeam s s1 k) (hid : t1.id = t.id) :
    CanAbort s1 t1 l := by
  have hlaunches : s1.launches = s.launches := (congrArg State.launches honly.rest :)
  have hnow : s1.now = s.now := (congrArg State.now honly.rest :)
  have hpart (p : Nat) : s1.part p = s.part p := (congrArg (State.part · p) honly.rest :)
  obtain ⟨hlaunch, hhome, hopen, halone, huntraced⟩ := h
  exact ⟨by rwa [hlaunches, hid], by rwa [hid], by rwa [hnow], by rwa [hlaunches, hid], by rwa [hpart, hpart, hid]⟩

/-- R225: the launch of a team is aborted, the team alone having changed before; the launch has no monitor at a pool home. -/
theorem abortTeam_aborted {s s1 : State} {k : Nat} {t t1 : Team} {l : Launch} (hk : Tbl.get? s.teams k = some t) (honly : OnlyTeam s s1 k)
    (hid : t1.id = t.id) (hcan : CanAbort s t l) (hmon : l.mdies = []) (cause : Nat) :
    AbortedLaunch s (s1.abortTeam k t1 cause) t.id.launch l cause 1 := by
  have hcan1 := hcan.onlyTeam honly hid
  have hhome : t1.id.foreign = false := hcan1.home.1
  have hsame : SameButCounters s { s with ctxs := s1.ctxs } := ⟨s1.ctxs, rfl, honly.ctxs⟩
  rw [State.abortTeam, hhome, if_neg Bool.false_ne_true, abortLaunch_alone hcan1, ← hid]
  refine (abortOne_aborted hcan1.launch hcan1.open_.2 hmon hcan1.untraced.1 cause 1).of_start (fun j x hj hlk => ?_)
    ⟨(congrArg State.mem honly.rest :), (congrArg State.poison honly.rest :), (congrArg State.now honly.rest :)⟩ (queued_of_same hsame l.head.ctx)
  have hne : j ≠ k := by
    rintro rfl
    obtain rfl : t = x := Option.some.inj (hk.symm.trans hj)
    exact hlk (congrArg TeamId.launch hid).symm
  exact (honly.others j hne).trans hj

/-- R420: an entry that has nothing to return, done or not, raises its cause in a team with nothing outstanding, and the frame is formed
at once. -/
theorem raise_delivers_returned {s : State} {c : Cur} {t : Team} (hidle : t.sync.rq = []) (haccs : c.entry.accs = []) (hres : c.entry.res = [])
    (hstall : (s.part t.id.part).cfg.trstall = false) (hfrozen : t.sched.frozen = none) (r : Raised) (m : Mask) :
    ∃ fr, fr.cause = r.cause ∧ s.raise c t r m = (s.withRaised c t r m).deliver c.team fr := by
  have hsettled : (t.withRaised c s.now r m).sync.settled = true := by simp [Team.withRaised, TeamSync.settled, hidle, haccs, hres]
  have hcan : (s.withRaised c t r m).canTrap (t.withRaised c s.now r m) = true := by
    have hs : ((s.withRaised c t r m).part (t.withRaised c s.now r m).id.part).cfg.trstall = false := hstall
    have hf : (t.withRaised c s.now r m).sched.frozen = none := hfrozen
    simp [State.canTrap, Part.traceFull, hs, hf]
  have hhead : headRaised (t.withRaised c s.now r m).sync.rq = some ({ c.entry with raised := some r, faulting := true, gov := m, id := t.sync.nextEntry }, r) := by
    simp [Team.withRaised, hidle, headRaised]
  rw [raise_eq, hsettled, hcan]
  simp only [State.takeTrap, withRaised_team, hhead]
  exact ⟨_, rfl, rfl⟩

/-- R425, R427: a recoverable cause of an entry that has nothing to return, in a context with neither handler nor debugger, aborts the launch
that has no monitor at a pool home. -/
theorem raise_aborts_returned {s : State} {c : Cur} {t : Team} {l : Launch} {r : Raised} (hk : Tbl.get? s.teams c.team = some t) (hidle : t.sync.rq = [])
    (hin : t.sync.inHandler = false) (hno : NoHandler s t) (hcan : CanAbort s t l) (hmon : l.mdies = []) (hfrozen : t.sched.frozen = none)
    (haccs : c.entry.accs = []) (hres : c.entry.res = []) (hclass : causeClass r.cause = 0) (m : Mask) :
    AbortedLaunch s (s.raise c t r m) t.id.launch l r.cause 1 := by
  obtain ⟨-, htoff, hstall⟩ := hcan.untraced
  obtain ⟨fr, hcause, hraise⟩ := raise_delivers_returned hidle haccs hres hstall hfrozen r m
  have hteam := withRaised_team s c t r m
  have hdeliver := deliver_untaken (fr := fr) (by rw [hteam]; exact hcan.home.2) (by rw [hteam, hcause]; exact .inr ⟨hclass, .inr hno⟩)
  have habort : (t.withRaised c s.now r m).abortCause r.cause = r.cause := if_neg (by simp [Team.withRaised, hin])
  rw [hteam, hcause, habort] at hdeliver
  rw [hraise, hdeliver]
  exact abortTeam_aborted hk ((onlyTeam_setTeam s c.team _ _).count (sameBut_traceTrap htoff)) rfl hcan hmon r.cause

/-! ## `trap` and `brk` (R432, R643, R644) -/

/-- R425: the causes of `trap` are recoverable. -/
theorem causeClass_trap (n : BitVec 3) : causeClass (0xB8 + n.toNat) = 0 := by
  revert n
  decide

section
variable {s : State} {c : Cur} {t : Team} (hp : Performs s c t) (hnew : Fresh c) (z : BitVec 1) (n : BitVec 3)
include hp

theorem exec_trap : exec (.trap z n) s = .next (s.raiseDone c t (0xB8 + n.toNat)) := withCur_eq hp _
theorem exec_brk : exec (.brk z) s = .next (s.raiseX c t 0xB4) := withCur_eq hp _

include hnew

/-- R432, R643: `trap` enters the handler; its entry counts as done. -/
theorem trap_entersHandler {h : Word} (ht : TakesTraps s t h) :
    ∃ s' t', exec (.trap z n) s = .next s' ∧ TookTrap s s' c t (0xB8 + n.toNat) true c.next h t' := by
  obtain ⟨-, haccs, hres, -⟩ := hnew.empty
  obtain ⟨t', htook⟩ := raise_tookTrap (c := { c with entry := { c.entry with done := true } }) ht hnew.inj ⟨haccs, hres⟩
    { cause := 0xB8 + n.toNat } (causeClass_trap n) (by simp only; omega)
  obtain ⟨e, hrq, hpc, hword, hdone, -⟩ := htook.entries
  exact ⟨_, t', exec_trap hp z n, { htook with entries := ⟨e, hrq, hpc, hword, hdone, by simp⟩ }⟩

/-- R428, R644: `brk` enters the handler; its entry faults for the governing mask. -/
theorem brk_entersHandler {h : Word} (ht : TakesTraps s t h) :
    ∃ s' t', exec (.brk z) s = .next s' ∧ TookTrap s s' c t 0xB4 false c.next h t' := by
  obtain ⟨hdone, haccs, hres, -⟩ := hnew.empty
  obtain ⟨t', htook⟩ := raise_tookTrap ht hnew.inj ⟨haccs, hres⟩ { cause := 0xB4 } (by decide) (by decide)
  exact ⟨_, t', exec_brk hp z, hdone ▸ htook⟩

section
variable {l : Launch} (hidle : t.sync.rq = []) (hin : t.sync.inHandler = false) (hno : NoHandler s t) (hcan : CanAbort s t l)
  (hmon : l.mdies = []) (hfrozen : t.sched.frozen = none)
include hidle hin hno hcan hmon hfrozen

/-- R425, R643: `trap` without a handler aborts a launch that has no monitor at a pool home, when its team is not frozen. -/
theorem trap_aborts : ∃ s', exec (.trap z n) s = .next s' ∧ AbortedLaunch s s' t.id.launch l (0xB8 + n.toNat) 1 := by
  obtain ⟨-, haccs, hres, -⟩ := hnew.empty
  exact ⟨_, exec_trap hp z n, raise_aborts_returned (c := { c with entry := { c.entry with done := true } }) hp.team hidle hin hno hcan hmon hfrozen
    haccs hres (causeClass_trap n) _⟩
/-- R425, R644: and so does `brk`. -/
theorem brk_aborts : ∃ s', exec (.brk z) s = .next s' ∧ AbortedLaunch s s' t.id.launch l 0xB4 1 := by
  obtain ⟨-, haccs, hres, -⟩ := hnew.empty
  exact ⟨_, exec_brk hp z, raise_aborts_returned hp.team hidle hin hno hcan hmon hfrozen haccs hres (by decide) _⟩

end
end

/-! ## A launch with a monitor at a pool home -/

/-- The machine of `monitoring` once its team has performed `trap 0`. -/
def monitoringTrapped : State := monitoring.raiseDone { team := 0, entry := {} } {} 0xB8
/-- R227, R230: the completion record of the launch waits for the answer of die 5, which holds a monitor of the launch. -/
theorem monitoringTrapped_waits : (monitoringTrapped.ctx 0).crecs.map CRec.waits = [[1]] := by decide +kernel

/-- Refutes O20: the hypotheses of the aborting clauses leave out the launch's monitors at pool homes, as those of O19 do
(`not_abortCauses`). The machine of `monitoring` performs `trap 0` with neither handler nor debugger: the abort sends die 5, where the
launch has a monitor, a message, and the completion record waits for its answer (R227, R230); the statement asks for a record that waits for
none. The clauses on the handler are `trap_entersHandler` and `brk_entersHandler`, the aborting clauses as they are meant `trap_aborts`
and `brk_aborts`. -/
theorem not_trapEntry : ¬ Obligations.TrapEntry := by
  unfold Obligations.TrapEntry
  rintro ⟨htrap, -⟩
  have hp : Performs monitoring { team := 0, entry := {} } {} := ⟨rfl, rfl⟩
  obtain ⟨-, haborts⟩ := htrap monitoring { team := 0, entry := {} } {} 0 0 hp ⟨rfl, rfl, rfl, rfl, rfl⟩
  obtain ⟨s', hs', haborted⟩ := haborts _ rfl rfl ⟨by decide, rfl⟩ monitoring_canAbort
  obtain rfl : monitoringTrapped = s' := Host.Outcome.next.inj ((exec_trap hp 0 0).symm.trans hs')
  obtain ⟨hrecord, -⟩ := haborted.record
  have hwaits := monitoringTrapped_waits.symm.trans (congrArg (List.map CRec.waits) hrecord)
  exact absurd hwaits (by decide)

end Sys2Proof.Machine
end

section
/-! PROOFS. The words of the team state space (R281, R423, R424) and of its replay entries: for O22. -/

namespace Sys2Proof.Machine

/-! ## The 64-bit words of a mask -/

theorem getLsbD_mask64 (m : Mask) (i : Nat) (j : BitVec 6) : (mask64 m i).getLsbD j.toNat = m.getLsbD (64 * i + j.toNat) := by
  rw [mask64, BitVec.getLsbD_ofNat, Nat.testBit_div_two_pow, BitVec.getLsbD, Nat.add_comm]
  simp [j.isLt]

/-- A word of a mask replaced: the 64 lanes it stands for take its bits, and the other lanes stay. -/
theorem getLsbD_setMask64 (m : Mask) (i : Nat) (v : Word) {l : Nat} (hl : l < 1024) :
    (setMask64 m i v).getLsbD l = if l / 64 = i then v.getLsbD (l % 64) else m.getLsbD l := by
  let low := m.toNat % 2 ^ (64 * i)
  let high := m.toNat / 2 ^ (64 * i) / 2 ^ 64
  have hlow : low < 2 ^ (64 * i) := Nat.mod_lt _ (Nat.two_pow_pos _)
  have hword : (mask64 m i).toNat < 2 ^ 64 := (mask64 m i).isLt
  have hold : m.toNat = 2 ^ (64 * i) * (2 ^ 64 * high + (mask64 m i).toNat) + low := by
    rw [mask64, BitVec.toNat_ofNat, Nat.div_add_mod, Nat.div_add_mod]
  have hnew : m.toNat - (mask64 m i).toNat * 2 ^ (64 * i) + v.toNat * 2 ^ (64 * i) = 2 ^ (64 * i) * (2 ^ 64 * high + v.toNat) + low := by
    rw [Nat.mul_comm _ (2 ^ (64 * i)), Nat.mul_comm _ (2 ^ (64 * i)), Nat.mul_add _ _ v.toNat]
    rw [Nat.mul_add] at hold
    omega
  rw [setMask64, BitVec.getLsbD_ofNat, hnew, Nat.testBit_two_pow_mul_add _ hlow, Nat.testBit_two_pow_mul_add _ v.isLt, BitVec.getLsbD, BitVec.getLsbD,
    hold, Nat.testBit_two_pow_mul_add _ hlow, Nat.testBit_two_pow_mul_add _ hword]
  rcases Nat.lt_trichotomy (l / 64) i with hbelow | rfl | habove
  · have hlt : l < 64 * i := by rwa [Nat.div_lt_iff_lt_mul (by decide), Nat.mul_comm] at hbelow
    simp only [hl, decide_true, Bool.true_and, hlt, if_true, if_neg hbelow.ne]
  · have hge : ¬ l < 64 * (l / 64) := Nat.not_lt.2 (Nat.mul_div_le l 64)
    simp only [hl, decide_true, Bool.true_and, hge, if_false, if_true, ← Nat.mod_def, Nat.mod_lt l (show 0 < 64 by decide)]
  · have hge : 64 * i + 64 ≤ l := (Nat.mul_le_mul_left 64 habove).trans (Nat.mul_div_le l 64)
    have hge1 : ¬ l < 64 * i := Nat.not_lt.2 ((Nat.le_add_right ..).trans hge)
    have hge2 : ¬ l - 64 * i < 64 := Nat.not_lt.2 (Nat.le_sub_of_add_le' hge)
    simp only [hl, decide_true, Bool.true_and, hge1, hge2, if_false, if_neg habove.ne']

/-! ## Tests of an address against the rows of a table -/

section
variable {α : Type} {x y : α} {a low high : Nat}

/-- An address from `low` on is in no row that ends by there. -/
theorem ite_rowBelow (ha : low ≤ a) {b e : Nat} (h : e ≤ low) : (if b ≤ a ∧ a < e then x else y) = y :=
  if_neg fun hin => absurd (h.trans ha) (Nat.not_le.2 hin.2)
/-- An address from `low` on is none below it. -/
theorem ite_wordBelow (ha : low ≤ a) {b : Nat} (h : b < low) : (if a = b then x else y) = y := if_neg (h.trans_le ha).ne'
/-- An address below `high` is in no row that begins from there on. -/
theorem ite_rowAbove (ha : a < high) {b e : Nat} (h : high ≤ b) : (if b ≤ a ∧ a < e then x else y) = y :=
  if_neg fun hin => absurd (h.trans hin.1) (Nat.not_le.2 ha)
/-- An address in a row. -/
theorem ite_row (hlow : low ≤ a) (hhigh : a < high) : (if low ≤ a ∧ a < high then x else y) = x := if_pos ⟨hlow, hhigh⟩

end

/-! ## The rows of the state space (R423) -/

section
variable (t : Team) {a : Nat}

theorem spaceRead_info (hlow : 8 ≤ a) (hhigh : a < 16) : spaceRead t a = t.sync.frame.info.getD (a - 8) 0 := by
  simp (disch := decide) only [spaceRead, ite_wordBelow hlow, ite_row hlow hhigh]
theorem spaceRead_dent (hlow : 0x40 ≤ a) (hhigh : a < 0x50) : spaceRead t a = mask64 t.sync.frame.dent (a - 0x40) := by
  simp (disch := decide) only [spaceRead, ite_wordBelow hlow, ite_rowBelow hlow, ite_row hlow hhigh]
theorem spaceRead_pres (hlow : 0x50 ≤ a) (hhigh : a < 0x60) : spaceRead t a = mask64 t.flow.pres (a - 0x50) := by
  simp (disch := decide) only [spaceRead, ite_wordBelow hlow, ite_rowBelow hlow, ite_row hlow hhigh]
theorem spaceRead_away (hlow : 0x60 ≤ a) (hhigh : a < 0x70) : spaceRead t a = mask64 t.flow.away (a - 0x60) := by
  simp (disch := decide) only [spaceRead, ite_wordBelow hlow, ite_rowBelow hlow, ite_row hlow hhigh]
theorem spaceRead_exited (hlow : 0x70 ≤ a) (hhigh : a < 0x80) : spaceRead t a = mask64 t.flow.exited (a - 0x70) := by
  simp (disch := decide) only [spaceRead, ite_wordBelow hlow, ite_rowBelow hlow, ite_row hlow hhigh]

theorem spaceRead_maskReg (hlow : 0x80 ≤ a) (hhigh : a < 0xF0) : spaceRead t a = mask64 (t.regs.getK ((a - 0x80) / 16 + 1)) (a % 16) := by
  simp (disch := decide) only [spaceRead, ite_wordBelow hlow, ite_rowBelow hlow, ite_row hlow hhigh]
theorem spaceWrite_maskReg (hlow : 0x80 ≤ a) (hhigh : a < 0xF0) (v : Word) : spaceWrite t a v =
    { t with regs := t.regs.setK ((a - 0x80) / 16 + 1) (setMask64 (t.regs.getK ((a - 0x80) / 16 + 1)) (a % 16) v) } := by
  simp (disch := decide) only [spaceWrite, ite_wordBelow hlow, ite_row hlow hhigh]

theorem spaceRead_scalar (hlow : 0x100 ≤ a) (hhigh : a < 0x140) : spaceRead t a = t.regs.getS (a - 0x100) := by
  simp (disch := decide) only [spaceRead, ite_wordBelow hlow, ite_rowBelow hlow, ite_row hlow hhigh]
theorem spaceWrite_scalar (hlow : 0x100 ≤ a) (hhigh : a < 0x140) (v : Word) :
    spaceWrite t a v = { t with regs := t.regs.setS (a - 0x100) v } := by
  simp (disch := decide) only [spaceWrite, ite_wordBelow hlow, ite_rowBelow hlow, ite_row hlow hhigh]

theorem spaceRead_stack (hlow : 0x200 ≤ a) (hhigh : a < 0x1400) : spaceRead t a =
    (t.flow.stack.reverse[(a - 0x200) / 18]?).elim 0 fun e => stackWord e ((a - 0x200) % 18) := by
  simp (disch := decide) only [spaceRead, ite_wordBelow hlow, ite_rowBelow hlow, ite_row hlow hhigh]
  cases t.flow.stack.reverse[(a - 0x200) / 18]? <;> simp only [Option.elim]

theorem spaceRead_entry {e : Entry} (hlow : 0x10000 ≤ a) (hhigh : a < 0x10000 + 24 * 0x2000) (he : t.sync.frame.rq[(a - 0x10000) / 0x2000]? = some e) :
    spaceRead t a = e.word64 ((a - 0x10000) % 0x2000) := by
  simp (disch := decide) only [spaceRead, ite_wordBelow hlow, ite_rowBelow hlow, ite_row hlow hhigh, he]
theorem spaceRead_noEntry (hlow : 0x10000 ≤ a) (hhigh : a < 0x10000 + 24 * 0x2000) (he : t.sync.frame.rq[(a - 0x10000) / 0x2000]? = none) :
    spaceRead t a = 0 := by
  simp (disch := decide) only [spaceRead, ite_wordBelow hlow, ite_rowBelow hlow, ite_row hlow hhigh, he]
theorem spaceWrite_entry (hlow : 0x10000 ≤ a) (hhigh : a < 0x10000 + 24 * 0x2000) (v : Word) : spaceWrite t a v =
    { t with sync := { t.sync with frame := { t.sync.frame with
      rq := t.sync.frame.rq.modify ((a - 0x10000) / 0x2000) fun e => e.setWord64 ((a - 0x10000) % 0x2000) v } } } := by
  simp (disch := decide) only [spaceWrite, ite_wordBelow hlow, ite_rowBelow hlow, ite_row hlow hhigh]

theorem spaceRead_vector (hlow : 0x80000 ≤ a) (hhigh : a < 0x90000) : spaceRead t a =
    if (a - 0x80000) / 0x400 < t.regs.allot then t.regs.getV ((a - 0x80000) / 0x400) (a % 0x400) else 0 := by
  simp (disch := decide) only [spaceRead, ite_wordBelow hlow, ite_rowBelow hlow, ite_row hlow hhigh]
theorem spaceWrite_vector (hlow : 0x80000 ≤ a) (hhigh : a < 0x90000) (v : Word) : spaceWrite t a v =
    if (a - 0x80000) / 0x400 < t.regs.allot then { t with regs := t.regs.setV ((a - 0x80000) / 0x400) (a % 0x400) v } else t := by
  simp (disch := decide) only [spaceWrite, ite_wordBelow hlow, ite_rowBelow hlow, ite_row hlow hhigh]

/-- R423: no address of the header, the masks outside `k1` to `k7` and the stack is written. -/
theorem spaceWrite_readOnly (v : Word) (h : (1 ≤ a ∧ a < 0x80) ∨ (0x200 ≤ a ∧ a < 0x1400)) : spaceWrite t a v = t := by
  rcases h with ⟨hlow, hhigh⟩ | ⟨hlow, hhigh⟩
  · simp (disch := decide) only [spaceWrite, ite_wordBelow hlow, ite_rowAbove hhigh]
  · simp (disch := decide) only [spaceWrite, ite_wordBelow hlow, ite_rowBelow hlow, ite_rowAbove hhigh]

/-- R423: the rows of the state space, from their first address to the one behind their last. -/
def spaceRows : List (Nat × Nat) :=
  [(0, 6), (8, 0x10), (0x40, 0x50), (0x50, 0x60), (0x60, 0x70), (0x70, 0x80), (0x80, 0xF0), (0x100, 0x140), (0x200, 0x1400),
   (0x10000, 0x10000 + 24 * 0x2000), (0x80000, 0x90000)]
/-- R423: an address in no row reads zero and is not written. -/
theorem space_outside (h : ∀ r ∈ spaceRows, ¬ (r.1 ≤ a ∧ a < r.2)) : spaceRead t a = 0 ∧ ∀ v, spaceWrite t a v = t := by
  have hword {n : Nat} (hn : n < 6) : ¬ a = n := fun he => h (0, 6) (by decide) ⟨Nat.zero_le a, he ▸ hn⟩
  have hrow {b e : Nat} (hr : (b, e) ∈ spaceRows) : ¬ (b ≤ a ∧ a < e) := h (b, e) hr
  exact ⟨by simp (disch := decide) only [spaceRead, hword, hrow, if_false], fun v => by simp (disch := decide) only [spaceWrite, hword, hrow, if_false]⟩
/-- An address in a gap between rows is in none of them. -/
theorem outside_gap {low high : Nat} (hlow : low ≤ a) (hhigh : a < high) (hgap : ∀ r ∈ spaceRows, r.2 ≤ low ∨ high ≤ r.1) :
    ∀ r ∈ spaceRows, ¬ (r.1 ≤ a ∧ a < r.2) := fun r hr hin =>
  (hgap r hr).elim (fun h => absurd (h.trans hlow) (Nat.not_le.2 hin.2)) fun h => absurd (h.trans hin.1) (Nat.not_le.2 hhigh)

/-- The addresses that the table of R423 leaves out. -/
def Unlisted (a : Nat) : Prop :=
  a = 6 ∨ a = 7 ∨ (0x10 ≤ a ∧ a < 0x40) ∨ (0xF0 ≤ a ∧ a < 0x100) ∨ (0x140 ≤ a ∧ a < 0x200) ∨ (0x1400 ≤ a ∧ a < 0x10000) ∨
    (0x40000 ≤ a ∧ a < 0x80000) ∨ 0x90000 ≤ a
theorem unlisted_outside (h : Unlisted a) : ∀ r ∈ spaceRows, ¬ (r.1 ≤ a ∧ a < r.2) := by
  rcases h with rfl | rfl | ⟨hlow, hhigh⟩ | ⟨hlow, hhigh⟩ | ⟨hlow, hhigh⟩ | ⟨hlow, hhigh⟩ | ⟨hlow, hhigh⟩ | hlow
  · decide
  · decide
  · exact outside_gap hlow hhigh (by decide)
  · exact outside_gap hlow hhigh (by decide)
  · exact outside_gap hlow hhigh (by decide)
  · exact outside_gap hlow hhigh (by decide)
  · exact outside_gap hlow hhigh (by decide)
  · have hlast : ∀ r ∈ spaceRows, r.2 ≤ 0x90000 := by decide
    exact fun r hr hin => absurd ((hlast r hr).trans hlow) (Nat.not_le.2 hin.2)

end

/-! ## Where the words of a register and of an entry stand (R423) -/

/-- Word `o` of item `n` of a row of items of `w` words that begins at `b`: the row that the address is in, and the item and the word that it
names. -/
theorem item_address {b w m n o : Nat} (hn : n < m) (ho : o < w) : b ≤ b + w * n + o ∧ b + w * n + o < b + w * m ∧
    (b + w * n + o - b) / w = n ∧ (b + w * n + o - b) % w = o := by
  rw [Nat.add_assoc, Nat.add_sub_cancel_left, Nat.mul_add_div (Nat.zero_lt_of_lt ho), Nat.div_eq_of_lt ho, Nat.mul_add_mod, Nat.mod_eq_of_lt ho]
  exact ⟨Nat.le_add_right .., Nat.add_lt_add_left ((Nat.add_lt_add_left ho _).trans_le (Nat.mul_le_mul_left w hn)) b, rfl, rfl⟩
/-- The word, when the row begins at a whole number of items. -/
theorem item_word {b w n o : Nat} (hb : w ∣ b) (ho : o < w) : (b + w * n + o) % w = o := by
  obtain ⟨q, rfl⟩ := hb
  rw [← Nat.mul_add, Nat.mul_add_mod, Nat.mod_eq_of_lt ho]

/-! ## The words of a stack entry (R281) and of a replay entry (R423) -/

theorem stackWord_mask (e : StackEnt) (i : Nat) : stackWord e (2 + i) = mask64 e.mask i := by
  rw [Nat.add_comm]
  rfl

theorem word64_governing (e : Entry) {o : Nat} (hlow : 3 ≤ o) (hhigh : o < 19) : e.word64 o = mask64 e.gov (o - 3) := by
  simp (disch := decide) only [Entry.word64, ite_wordBelow hlow, hhigh, if_true]
theorem setWord64_governing (e : Entry) {o : Nat} (hlow : 3 ≤ o) (hhigh : o < 19) (v : Word) :
    e.setWord64 o v = { e with gov := setMask64 e.gov (o - 3) (mask64 e.gov (o - 3) &&& v) } := by
  simp (disch := decide) only [Entry.setWord64, ite_wordBelow hlow, ite_row hlow hhigh]

/-- R423: a write of a word of the governing mask only takes lanes out. -/
theorem getLsbD_narrowed (m : Mask) (i : Nat) (v : Word) {l : Nat} (hl : l < 1024) :
    (setMask64 m i (mask64 m i &&& v)).getLsbD l = (m.getLsbD l && (decide (l / 64 ≠ i) || v.getLsbD (l % 64))) := by
  rw [getLsbD_setMask64 m i _ hl]
  split_ifs with hin
  · have hword := getLsbD_mask64 m i (BitVec.ofNat 6 l)
    rw [BitVec.toNat_ofNat, show 64 * i + l % 2 ^ 6 = l by omega] at hword
    rw [BitVec.getLsbD_and, hword]
    simp [hin]
  · simp [hin]

theorem operand_address {o l : Nat} (ho : o < 4) (hl : l < 0x400) : 0x400 ≤ 0x400 * (o + 1) + l ∧ 0x400 * (o + 1) + l < 0x1400 ∧
    (0x400 * (o + 1) + l) / 0x400 - 1 = o ∧ (0x400 * (o + 1) + l) % 0x400 = l := by
  rw [Nat.mul_add_div (by decide), Nat.div_eq_of_lt hl, Nat.mul_add_mod, Nat.mod_eq_of_lt hl]
  exact ⟨Nat.le_add_right_of_le (Nat.le_mul_of_pos_right _ (Nat.succ_pos o)),
    (Nat.add_lt_add_left hl _).trans_le (Nat.mul_le_mul_left 0x400 (Nat.succ_le_succ ho)), rfl, rfl⟩
theorem word64_operand (e : Entry) {a : Nat} (hlow : 0x400 ≤ a) (hhigh : a < 0x1400) : e.word64 a =
    (e.ops[a / 0x400 - 1]?).elim 0 fun p => Tbl.getD p.vals (a % 0x400) 0 := by
  have hgov : ¬ a < 19 := fun h => absurd (hlow.trans_lt h) (by decide)
  simp (disch := decide) only [Entry.word64, ite_wordBelow hlow, hgov, if_false, ite_row hlow hhigh]
  cases e.ops[a / 0x400 - 1]? <;> simp only [Option.elim]
theorem setWord64_operand (e : Entry) {a : Nat} (hlow : 0x400 ≤ a) (hhigh : a < 0x1400) (v : Word) : e.setWord64 a v =
    { e with ops := e.ops.modify (a / 0x400 - 1) fun p => if p.vec || a % 0x400 = 0 then { p with vals := Tbl.put p.vals (a % 0x400) v } else p } := by
  simp (disch := decide) only [Entry.setWord64, ite_wordBelow hlow, ite_rowBelow hlow, ite_row hlow hhigh]

theorem bit_eq_getLsbD (v : Word) (i : Nat) : bit v.toNat i = v.getLsbD i := Nat.testBit_eq_decide_div_mod_eq.symm

theorem b2n_eq (b : Bool) : b2n b = b.toNat := by cases b <;> rfl
/-- R423: header word 2 ends in the flags of its entry. -/
theorem head2_flags (e : Entry) : ∃ n, e.head2 = BitVec.ofNat 64 (Nat.bit e.done (Nat.bit e.faulting (Nat.bit e.drop n))) := by
  have hvec : ∃ n, (e.ops.take 4).zipIdx.foldl (fun n p => n + b2n p.1.vec * 2 ^ (12 + p.2)) 0 = 8 * n :=
    List.foldlRecOn (motive := fun x => ∃ n, x = 8 * n) _ _ ⟨0, rfl⟩ fun x ⟨n, hn⟩ p _ =>
      ⟨n + b2n p.1.vec * 2 ^ (9 + p.2), by rw [hn, show 12 + p.2 = 3 + (9 + p.2) from Nat.add_assoc 3 9 _, Nat.pow_add, Nat.mul_add, Nat.mul_left_comm]⟩
  obtain ⟨n, hn⟩ := hvec
  refine ⟨e.ops.length * 2 ^ 5 + n + e.passes.toNat * 2 ^ 29, ?_⟩
  rw [Entry.head2, hn]
  simp only [Nat.bit_val, b2n_eq]
  congr 1
  omega
theorem getLsbD_head2 (e : Entry) : e.head2.getLsbD 0 = e.done ∧ e.head2.getLsbD 1 = e.faulting ∧ e.head2.getLsbD 2 = e.drop := by
  obtain ⟨n, hn⟩ := head2_flags e
  simp only [hn, BitVec.getLsbD_ofNat]
  exact ⟨Nat.testBit_bit_zero .., (Nat.testBit_bit_succ ..).trans (Nat.testBit_bit_zero ..),
    (Nat.testBit_bit_succ ..).trans ((Nat.testBit_bit_succ ..).trans (Nat.testBit_bit_zero ..))⟩

/-! ## The state space as the table of R423 lays it out -/

theorem stateSpace (t : Team) : StateSpace t where
  tpc := ⟨rfl, fun _ => rfl⟩
  tcause := by
    have hflag (b : Bool) (n : Nat) : b2n b * n = if b = true then n else 0 := by cases b <;> simp [b2n]
    change BitVec.ofNat 64 t.sync.tcause = _
    unfold TeamSync.tcause
    simp only [hflag, Nat.mul_comm]
    split_ifs <;> rfl
  rqlen := rfl
  tstate := by
    change BitVec.ofNat 64 t.tstate = _
    unfold Team.tstate
    simp only [ne_eq, ite_not]
    split_ifs <;> rfl
  tent := by
    rw [Nat.mul_comm (2 ^ 32)]
    rfl
  tid := by
    simp only [Nat.mul_comm (2 ^ _)]
    rfl
  info n hn := by rw [spaceRead_info t (Nat.le_add_right ..) (Nat.add_lt_add_left hn 8), Nat.add_sub_cancel_left]
  lanes i j := by
    have hrow (b : Nat) : b ≤ b + i.toNat ∧ b + i.toNat < b + 16 := ⟨Nat.le_add_right .., Nat.add_lt_add_left i.isLt b⟩
    rw [spaceRead_dent t (hrow _).1 (hrow _).2, spaceRead_pres t (hrow _).1 (hrow _).2, spaceRead_away t (hrow _).1 (hrow _).2,
      spaceRead_exited t (hrow _).1 (hrow _).2]
    simp only [Nat.add_sub_cancel_left, getLsbD_mask64, and_self]
  readK n h1 h7 i j := by
    obtain ⟨hlow, hhigh, hn, -⟩ := item_address (b := 0x80) (m := 7) (Nat.sub_one_lt_of_le h1 h7) i.isLt
    rw [spaceRead_maskReg t hlow hhigh, hn, Nat.sub_add_cancel h1, item_word (by decide) i.isLt, getLsbD_mask64]
  writeK n h1 h7 i v := by
    obtain ⟨hlow, hhigh, hn, -⟩ := item_address (b := 0x80) (m := 7) (Nat.sub_one_lt_of_le h1 h7) i.isLt
    rw [spaceWrite_maskReg t hlow hhigh, hn, Nat.sub_add_cancel h1, item_word (by decide) i.isLt]
    exact ⟨_, rfl, fun _ => getLsbD_setMask64 _ _ _⟩
  scalars n := by
    have hlow : 0x100 ≤ 0x100 + n.toNat := Nat.le_add_right ..
    have hhigh : 0x100 + n.toNat < 0x140 := Nat.add_lt_add_left n.isLt _
    rw [spaceRead_scalar t hlow hhigh, Nat.add_sub_cancel_left]
    exact ⟨rfl, fun v => by rw [spaceWrite_scalar t hlow hhigh, Nat.add_sub_cancel_left]⟩
  stack d i h1 h256 hi := by
    obtain ⟨hlow, hhigh, hd, hw⟩ := item_address (b := 0x200) (m := 256) (Nat.sub_one_lt_of_le h1 h256) hi
    rw [spaceRead_stack t hlow hhigh, hd, hw]
    cases t.flow.stack.reverse[d - 1]? <;> rfl
  layout e i j := by
    simp only [Nat.mul_comm (2 ^ 32), stackWord_mask, getLsbD_mask64, and_true]
    exact ⟨rfl, rfl⟩
  entry n e hn he o ho := by
    obtain ⟨hlow, hhigh, hentry, hword⟩ := item_address (b := 0x10000) (m := 24) hn ho
    rw [spaceRead_entry t hlow hhigh (hentry.symm ▸ he), hword]
  noEntry n o hn hlen ho := by
    obtain ⟨hlow, hhigh, hentry, hword⟩ := item_address (b := 0x10000) (m := 24) hn ho
    refine ⟨spaceRead_noEntry t hlow hhigh (hentry.symm ▸ List.getElem?_eq_none hlen), fun v => ?_⟩
    rw [spaceWrite_entry t hlow hhigh, hentry, List.modify_eq_self hlen]
  writeEntry n o hn ho v := by
    obtain ⟨hlow, hhigh, hentry, hword⟩ := item_address (b := 0x10000) (m := 24) hn ho
    rw [spaceWrite_entry t hlow hhigh, hentry, hword]
  vectors r l := by
    obtain ⟨hlow, hhigh, hreg, -⟩ := item_address (b := 0x80000) (m := 64) r.isLt l.isLt
    have hlane : (0x80000 + 0x400 * r.toNat + l.toNat) % 0x400 = l.toNat := item_word (by decide) l.isLt
    rw [spaceRead_vector t hlow hhigh, hreg, hlane]
    exact ⟨rfl, fun v => by rw [spaceWrite_vector t hlow hhigh, hreg, hlane]⟩
  readOnly a := spaceWrite_readOnly t
  unlisted _ h := space_outside t (unlisted_outside h)
  header e := by
    obtain ⟨hdone, hfaulting, hdrop⟩ := getLsbD_head2 e
    simp only [Nat.mul_comm (2 ^ 32)]
    exact ⟨rfl, rfl, hdone, hfaulting, hdrop, fun v => ⟨rfl, rfl, congrArg (fun b => { e with drop := b }) (bit_eq_getLsbD v 2)⟩⟩
  governing e i v := by
    have hlow : 3 ≤ 3 + i.toNat := Nat.le_add_right ..
    have hhigh : 3 + i.toNat < 19 := Nat.add_lt_add_left i.isLt _
    rw [word64_governing e hlow hhigh, setWord64_governing e hlow hhigh, Nat.add_sub_cancel_left]
    exact ⟨getLsbD_mask64 _ _, _, rfl, fun _ => getLsbD_narrowed _ _ _⟩
  operand e o l := by
    obtain ⟨hlow, hhigh, hop, hval⟩ := operand_address o.isLt l.isLt
    have hzero : l = 0 ↔ l.toNat = 0 := BitVec.toNat_eq
    rw [word64_operand e hlow hhigh, hop, hval]
    exact ⟨by cases e.ops[o.toNat]? <;> rfl, fun v => by simp only [setWord64_operand e hlow hhigh, hop, hval, hzero, Bool.or_eq_true, decide_eq_true_eq]⟩

end Sys2Proof.Machine
end

section
/-! PROOFS. The return from a handler and its access to the state space (R423, R430, R646, R649): O22. -/

namespace Sys2Proof.Machine

section
variable {s : State} {c : Cur} {t : Team} (hp : Performs s c t) (z : BitVec 1) (a b : BitVec 6)
include hp

/-! ## `tret` (R430, R646) -/

theorem tret_returns (hin : t.sync.inHandler = true) (hdepth : t.flow.stack.length = t.sync.frame.tdepth) :
    Goes (.tret z) s s c { t with
      regs := { t.regs with fmt := t.sync.frame.tfmt }
      flow := { t.flow with D := t.sync.frame.dent }
      sync := { t.sync with inHandler := false, park := .tretWait, reinj := t.sync.frame.rq.filter fun e => !e.done && !e.drop } } z t.sync.frame.tpc :=
  ⟨_, _, (withCur_eq hp _).trans (congrArg _ ((if_neg (by simp [hin])).trans (if_neg (not_not.2 hdepth)))), finishAt_leaves ..⟩

theorem tret_otherDepth (hin : t.sync.inHandler = true) (hdepth : t.flow.stack.length ≠ t.sync.frame.tdepth) : Raises (.tret z) s c t 0xB5 :=
  (withCur_eq hp _).trans (congrArg _ ((if_neg (by simp [hin])).trans (if_pos hdepth)))

theorem tret_outside (hin : t.sync.inHandler = false) : Raises (.tret z) s c t 0xB0 :=
  (withCur_eq hp _).trans (congrArg _ (if_pos (by simp [hin])))

/-! ## `getc.f` and `setc.f` (R649) -/

theorem getcF_reads (hin : t.sync.inHandler = true) :
    ShortS (.getcF z a b) s c t z a.toNat (spaceRead t ((rdS t c b.toNat).toNat % 2 ^ 20)) :=
  shortS_of ((withCur_eq hp _).trans (congrArg _ (if_pos hin)))
theorem setcF_writes (hin : t.sync.inHandler = true) :
    Becomes (.setcF z a b) s c (spaceWrite t ((rdS t c a.toNat).toNat % 2 ^ 20) (rdS t c b.toNat)) z :=
  becomes_of ((withCur_eq hp _).trans (congrArg _ (if_pos hin)))
theorem frameAccess_outside (hin : t.sync.inHandler = false) : Raises (.getcF z a b) s c t 0xB0 ∧ Raises (.setcF z a b) s c t 0xB0 :=
  have hout : ¬ t.sync.inHandler = true := by simp [hin]
  ⟨(withCur_eq hp _).trans (congrArg _ (if_neg hout)), (withCur_eq hp _).trans (congrArg _ (if_neg hout))⟩

end

/-- Settles O22: the return by where it stands, the accesses in and outside a handler, and the layout of the state space. -/
theorem handlerReturn : Obligations.HandlerReturn := by
  unfold Obligations.HandlerReturn
  exact ⟨fun s c t z hp => ⟨tret_returns hp z, tret_otherDepth hp z, tret_outside hp z⟩,
    fun s c t z a b hp => ⟨fun hin => ⟨getcF_reads hp z a b hin, setcF_writes hp z a b hin⟩, frameAccess_outside hp z a b⟩, stateSpace⟩

end Sys2Proof.Machine
end

section
/-! PROOFS. Event and trace records and counter reads by instructions (R434, R442, R447, R449, R671 to R674): O25. -/

namespace Sys2Proof.Machine

/-- R449: the ring of a partition that traces is full when it has no room. -/
theorem ringFull_tracing {P : Part} (h : P.cfg.trsize ≠ 0) : P.ringFull = !P.traceRoom := by simp [Part.ringFull, h]

section
variable {s : State} {c : Cur} {t : Team} (hp : Performs s c t) (z : BitVec 1) (d a : BitVec 6)
include hp

/-! ## `msig` (R434, R671) -/

theorem msig_posts : ∃ s1 t', Leaves s s1 c t z c.next { c.entry with done := true } 1 t' ∧
    exec (.msig z a) s = .next (s1.postEvent t.id.ctx 1 0 ((rdS t c a.toNat).setWidth 32)) := by
  obtain ⟨t', hleaves⟩ := finishShort_leaves s c t z [] 1
  exact ⟨_, t', hleaves, withCur_eq hp _⟩

/-! ## `pcmark` (R449, R673) -/

theorem pcmark_untraced (h : (s.part t.id.part).cfg.trsize = 0 ∨ s.traces t.id.ctx 2 = false) : Becomes (.pcmark z a) s c t z :=
  becomes_of ((withCur_eq hp _).trans (congrArg _ (if_neg fun ⟨hsize, hmarks⟩ => h.elim hsize (by simp [hmarks]))))

section
variable (hsize : (s.part t.id.part).cfg.trsize ≠ 0) (hmarks : s.traces t.id.ctx 2 = true)
include hsize hmarks

theorem pcmark_posts (hroom : (s.part t.id.part).traceRoom = true ∨ (s.part t.id.part).cfg.trstall = false) :
    ∃ s1 t', Leaves s s1 c t z c.next { c.entry with done := true } 1 t' ∧ exec (.pcmark z a) s = .next (s1.postTrace t.id.part t.id.ctx 5
      (BitVec.ofNat 128 ((rdS t c a.toNat).toNat + c.entry.pc.toNat % 2 ^ 32 * 2 ^ 64 + t.id.index * 2 ^ 96)) false) := by
  obtain ⟨t', hleaves⟩ := finishShort_leaves s c t z [] 1
  have hgoes : ¬ ((s.part t.id.part).ringFull && (s.part t.id.part).cfg.trstall) = true := by
    rw [ringFull_tracing hsize]
    rcases hroom with h | h <;> simp [h]
  exact ⟨_, t', hleaves, (withCur_eq hp _).trans (congrArg _ ((if_pos ⟨hsize, hmarks⟩).trans (if_neg hgoes)))⟩

theorem pcmark_waits (hroom : (s.part t.id.part).traceRoom = false) (hstall : (s.part t.id.part).cfg.trstall = true) :
    ∃ s' t', exec (.pcmark z a) s = .next s' ∧ Waits s s' c t .pcmark t' := by
  obtain ⟨t', hwaits⟩ := waitHere_waits s c t .pcmark
  have hfull : ((s.part t.id.part).ringFull && (s.part t.id.part).cfg.trstall) = true := by simp [ringFull_tracing hsize, hroom, hstall]
  exact ⟨_, t', (withCur_eq hp _).trans (congrArg _ ((if_pos ⟨hsize, hmarks⟩).trans (if_pos hfull))), hwaits⟩

end

/-! ## `pcsample` (R447, R673) -/

theorem pcsample_untraced (h : (s.part t.id.part).cfg.trsize = 0) : Becomes (.pcsample z) s c t z :=
  becomes_of ((withCur_eq hp _).trans (congrArg _ (if_neg (not_not.2 h))))

theorem pcsample_posts (hsize : (s.part t.id.part).cfg.trsize ≠ 0) :
    ∃ s1 t', Leaves s s1 c t z c.next { c.entry with done := true } 1 t' ∧ exec (.pcsample z) s = .next (s1.postTrace t.id.part t.id.ctx 0
      (BitVec.ofNat 128 (c.entry.pc.toNat % 2 ^ 32 + t.id.index * 2 ^ 32 + t.id.img * 2 ^ 64)) false) := by
  obtain ⟨t', hleaves⟩ := finishShort_leaves s c t z [] 1
  exact ⟨_, t', hleaves, (withCur_eq hp _).trans (congrArg _ ((if_pos hsize).trans (by simp [State.pcSample])))⟩

/-! ## `pcread` (R674) -/

theorem pcread_reads (h : (rdS t c a.toNat).toNat < 16) :
    LongS (.pcread z d a) s c t z d.toNat ((Tbl.getD (s.ctx t.id.ctx).perf.val (rdS t c a.toNat).toNat 0).setWidth 64) :=
  longS_of ((withCur_eq hp _).trans (congrArg _ (if_neg (Nat.not_le.2 h))))

theorem pcread_raises (h : 16 ≤ (rdS t c a.toNat).toNat) : Raises (.pcread z d a) s c t 0x09 :=
  (withCur_eq hp _).trans (congrArg _ (if_pos h))

end

/-- Settles O25: each form posts its record behind its own end, or ends, waits or raises alone. -/
theorem telemetryForms : Obligations.TelemetryForms := by
  unfold Obligations.TelemetryForms
  intro s c t z d a hp
  exact ⟨msig_posts hp z a, fun hoff => ⟨pcmark_untraced hp z a (.inl hoff), pcsample_untraced hp z hoff⟩,
    fun hmarks => pcmark_untraced hp z a (.inr hmarks),
    fun hsize hmarks => ⟨pcmark_posts hp z a hsize hmarks, pcmark_waits hp z a hsize hmarks⟩,
    pcsample_posts hp z, pcread_reads hp z d a, pcread_raises hp z d a⟩

end Sys2Proof.Machine
end

section
/-! PROOFS. The end of a debug halt (R259, R438), and the refutation of O52: a table of teams may hold two teams at one number. -/

namespace Sys2Proof.Machine

/-! ## A halt is over (R259, R438) -/

theorem unqueue_eq (s : State) (p : Serves → Bool) : ∃ x, s.unqueue p = { s with xlat := x } := by
  unfold State.unqueue
  split_ifs
  · exact ⟨_, rfl⟩
  · exact ⟨s.xlat, rfl⟩
theorem forget_eq (s : State) (k : Nat) : ∃ x, s.forget k = { s with xlat := x } := by
  unfold State.forget
  obtain ⟨x, hx⟩ := unqueue_eq ({ s with xlat := _ } : State) _
  exact ⟨x, hx⟩

/-- R259: of a team that has nothing half done, a stop forgets the requests. -/
theorem cutTeam_whole {s : State} {k : Nat} (h : (s.team k).StopsWhole) : s.cutTeam k = s.forget k := by
  obtain ⟨hleaving, hrq, hpush, henq⟩ := h
  have hunleave : s.unleave k = s := by rw [State.unleave, hleaving]; rfl
  have hreplay : s.pushReplay k = s := by simp [State.pushReplay, hpush, henq]
  have hwritten : ((s.team k).sync.rq.filter fun e => !e.done && !e.kept && e.accs ≠ [] && e.res ≠ []) = [] := by
    rw [List.filter_eq_nil_iff]
    intro e he
    rcases hrq e he with h | h <;> simp [h]
  simp only [State.cutTeam, hunleave, hreplay]
  rw [hwritten]
  rfl

/-- Teams of `s` are halted in `s'`, and memory, launches and contexts are as before. -/
structure Halts (s s' : State) : Prop where
  teams : ∀ j, Tbl.get? s'.teams j = Tbl.get? s.teams j ∨ (s'.team j).sched.halted = true
  mem : s'.mem = s.mem
  launches : s'.launches = s.launches
  ctxs : s'.ctxs = s.ctxs

theorem Halts.refl (s : State) : Halts s s := ⟨fun _ => .inl rfl, rfl, rfl, rfl⟩
theorem team_congr {s s' : State} {k : Nat} (h : Tbl.get? s'.teams k = Tbl.get? s.teams k) : s'.team k = s.team k := by
  simp only [State.team, Tbl.getD, h]
/-- A team halted once stays so. -/
theorem Halts.stays {s s' : State} (h : Halts s s') {k : Nat} (hk : (s.team k).sched.halted = true) : (s'.team k).sched.halted = true :=
  (h.teams k).elim (fun e => team_congr e ▸ hk) id
theorem Halts.trans {a b c : State} (h : Halts a b) (g : Halts b c) : Halts a c := by
  refine ⟨fun j => ?_, g.mem.trans h.mem, g.launches.trans h.launches, g.ctxs.trans h.ctxs⟩
  rcases h.teams j with hj | hj
  · rw [← hj]
    exact g.teams j
  · exact .inr (g.stays hj)

/-- R438: a team that is not resident, or has nothing half done, becomes halted; its requests are forgotten. -/
theorem haltTeam_eq {s : State} {k : Nat} (hhalted : (s.team k).sched.halted = false) (h : (s.team k).resident = true → (s.team k).StopsWhole) :
    ∃ x y, s.haltTeam k = State.setTeam { s with xlat := x } k y ∧ y.sched.halted = true := by
  obtain ⟨x, hx⟩ := forget_eq s k
  cases hlive : (s.team k).resident with
  | true =>
    simp only [State.haltTeam, hhalted, hlive, cutTeam_whole (h hlive), hx, Bool.false_eq_true, if_false, if_true]
    exact ⟨x, _, rfl, rfl⟩
  | false =>
    simp only [State.haltTeam, hhalted, hlive, hx, Bool.false_eq_true, if_false]
    exact ⟨x, _, rfl, rfl⟩
theorem haltTeam_halts {s : State} {k : Nat} (h : (s.team k).sched.halted = false → (s.team k).resident = true → (s.team k).StopsWhole) :
    Halts s (s.haltTeam k) ∧ ((s.haltTeam k).team k).sched.halted = true := by
  cases hhalted : (s.team k).sched.halted with
  | true =>
    have hsame : s.haltTeam k = s := if_pos hhalted
    rw [hsame]
    exact ⟨.refl s, hhalted⟩
  | false =>
    obtain ⟨x, y, heq, hy⟩ := haltTeam_eq hhalted (h hhalted)
    have hteam : ((s.haltTeam k).team k).sched.halted = true := by rw [heq, setTeam_team, hy]
    refine ⟨⟨fun j => ?_, by rw [heq]; rfl, by rw [heq]; rfl, by rw [heq]; rfl⟩, hteam⟩
    by_cases hj : j = k
    · exact .inr (hj ▸ hteam)
    · exact .inl (by rw [heq, setTeam_teams, Tbl.get?_put_ne _ _ _ _ hj])

/-- R438: teams halted one after another. -/
def State.haltAll (s : State) (l : List (Nat × Team)) : State := l.foldl (fun s t => s.haltTeam t.1) s
/-- R438: teams with nothing half done are halted one after another. -/
theorem haltAll_halts (l : List (Nat × Team)) {s : State}
    (h : ∀ p ∈ l, (s.team p.1).sched.halted = false → (s.team p.1).resident = true → (s.team p.1).StopsWhole) :
    Halts s (s.haltAll l) ∧ ∀ p ∈ l, ((s.haltAll l).team p.1).sched.halted = true := by
  induction l generalizing s with
  | nil => exact ⟨.refl s, by simp⟩
  | cons a r ih =>
    obtain ⟨hfirst, hhalted⟩ := haltTeam_halts (h a (List.mem_cons_self ..))
    obtain ⟨hrest, hall⟩ := ih (s := s.haltTeam a.1) fun p hp hno => by
      rcases hfirst.teams p.1 with hsame | hyes
      · rw [team_congr hsame] at hno ⊢
        exact h p (List.mem_cons_of_mem _ hp) hno
      · exact absurd hyes (by simp [hno])
    refine ⟨hfirst.trans hrest, fun p hp => ?_⟩
    rcases List.mem_cons.1 hp with rfl | hp
    · exact hrest.stays hhalted
    · exact hall p hp

theorem mem_dbgTeams {s : State} {c k : Nat} {t : Team} : (k, t) ∈ s.dbgTeams c ↔
    (k, t) ∈ s.teams ∧ t.id.ctx = c ∧ t.id.foreign = false ∧ some t.id.part = (s.ctx c).part := by
  simp [State.dbgTeams, and_assoc]

theorem modDbg_ctx (s : State) (c : Nat) (f : Dbg → Dbg) : (s.modDbg c f).ctx c = { s.ctx c with dbg := f (s.ctx c).dbg } := modCtx_ctx ..

/-- The machine with the teams of a context halted, and the context with them. -/
def State.haltedCtx (s : State) (c : Nat) : State :=
  ((s.haltAll (s.dbgTeams c)).dropGot (s.isCardOf c) fun _ => true).modDbg c fun d => { d with halting := false, halted := true }

theorem debugHaltDone_halts {s : State} (h : s.mayHaltDone s.arg.n0 = true) : Does .debugHaltDone s (s.haltedCtx s.arg.n0) :=
  congrArg Host.Outcome.next (if_neg (by simp [h]))

/-- R438: the halt of a context whose teams have nothing half done, each being the team that its number finds. -/
theorem haltedCtx_halts {s : State} {c : Nat} (hlisted : ∀ p ∈ s.dbgTeams c, Tbl.get? s.teams p.1 = some p.2)
    (hwhole : ∀ p ∈ s.dbgTeams c, p.2.resident = true → p.2.sched.halted = false → p.2.StopsWhole) :
    (s.haltedCtx c).ctx c = { s.ctx c with dbg := { (s.ctx c).dbg with halting := false, halted := true } } ∧ (s.haltedCtx c).mem = s.mem ∧
      (s.haltedCtx c).launches = s.launches ∧ ∀ k t, Tbl.get? (s.haltedCtx c).teams k = some t → t.id.ctx = c → t.id.foreign = false →
        some t.id.part = (s.ctx c).part → t.sched.halted = true := by
  obtain ⟨hhalts, hall⟩ := haltAll_halts (s.dbgTeams c) (s := s) fun p hp hno hres => by
    rw [team_of_get? (hlisted p hp)] at hno hres ⊢
    exact hwhole p hp hres hno
  have hctxc : (s.haltAll (s.dbgTeams c)).ctx c = s.ctx c := congrArg (fun x => Tbl.getD x c ({} : Ctx)) hhalts.ctxs
  refine ⟨(modDbg_ctx ..).trans ?_, hhalts.mem, hhalts.launches, fun k t ht hctx hforeign hpart => ?_⟩
  · exact congrArg (fun x : Ctx => { x with dbg := { x.dbg with halting := false, halted := true } }) hctxc
  · change Tbl.get? (s.haltAll (s.dbgTeams c)).teams k = some t at ht
    have hteam := team_of_get? ht
    rcases hhalts.teams k with hsame | hyes
    · rw [← hteam]
      exact hall (k, t) (mem_dbgTeams.2 ⟨mem_of_get? (hsame.symm.trans ht), hctx, hforeign, hpart⟩)
    · exact hteam ▸ hyes

/-! ## Two teams at one number -/

/-- A machine whose context 0 is halting. Its table holds two teams at number 0: the one that the number finds belongs to context 1, has a lane
that is being packed, and its launch counts that lane; the other is the idle team of context 0. -/
def sharedNumber : State :=
  { ctxs := [(0, { part := some 0, dbg := { halting := true } })]
    launches := [(0, { conts := 1 })]
    teams := [(0, { id := { ctx := 1 }, sync := { leaving := [{ lane := 0, entry := 0, cluster := 0, pbr := none, dpa := 0 }] } }), (0, {})] }

theorem sharedNumber_mayHalt : sharedNumber.mayHaltDone 0 = true := by decide +kernel
theorem sharedNumber_teams : sharedNumber.dbgTeams 0 = [(0, {})] := by decide +kernel
/-- R259, R310: the team of context 1 is stopped in the place of the other, its lane comes back, and its launch counts one lane less. -/
theorem sharedNumber_conts : ((sharedNumber.haltedCtx 0).launch 0).conts = 0 := by decide +kernel

/-- Refutes O52: in the clause on the end of a halt, the event halts a team by its number, and the statement's table may hold two teams at one
number. In `sharedNumber` the idle team of the halting context has the number of a team of another context, which is stopped in its place: its
lane that is being packed comes back, and its launch changes. No table that the model writes in key order holds a number twice, but the
statement is about every state. The clause as it is meant, each team of the context being the one that its number finds, is
`haltedCtx_halts`. -/
theorem not_debugEvents : ¬ Obligations.DebugEvents := by
  unfold Obligations.DebugEvents
  intro h
  obtain ⟨-, -, -, -, -, hhalts, -⟩ := h sharedNumber
  obtain ⟨s1, hdoes, -, -, hlaunches, -⟩ := hhalts sharedNumber_mayHalt fun p hp _ _ => by
    rw [show sharedNumber.arg.n0 = 0 from rfl, sharedNumber_teams, List.mem_singleton] at hp
    rw [hp]
    exact ⟨rfl, by simp, by decide, by decide⟩
  obtain rfl : sharedNumber.haltedCtx 0 = s1 := Host.Outcome.next.inj ((debugHaltDone_halts sharedNumber_mayHalt).symm.trans hdoes)
  have hconts : ((sharedNumber.haltedCtx 0).launch 0).conts = 1 := congrArg (fun ls => (Tbl.getD ls 0 ({} : Launch)).conts) hlaunches
  exact absurd (sharedNumber_conts.symm.trans hconts) (by decide)

end Sys2Proof.Machine
end

section
/-! PROOFS. The hardwired registers, hints, control registers and work identifiers, and the issue of global accesses (R273, R276, R463, R487,
R489 to R497, R534, R570 to R579, R640, R648, R650 to R653, R675): O23, O24, O26 and O55. -/

namespace Sys2Proof.Machine

/-! ## The hardwired registers (R487, R534) -/

/-- Without captured operands every register reads as its present content. -/
theorem look_of_ovr_nil {c : Cur} (h : c.ovr = []) (cls n : Nat) : c.look cls n = none := by
  simp [Cur.look, h]
theorem setS_zero (r : TeamRegs) (v : Word) : r.setS 0 v = r := if_pos rfl
theorem setK_zero (r : TeamRegs) (m : Mask) : r.setK 0 m = r := if_pos rfl

/-- Settles O55: the reads without captured operands, and the writes by what `setS` and `setK` write. -/
theorem hardwiredRegisters : Obligations.HardwiredRegisters := by
  unfold Obligations.HardwiredRegisters
  intro t c r
  refine ⟨fun h => ?_, setS_zero r, setK_zero r, fun n v hn => ?_, fun n m hn => ?_⟩
  · have hread : ∀ n, rdS t c n = t.regs.getS n := fun n => by rw [rdS, look_of_ovr_nil h]
    have hmask : ∀ n, rdK t c n = if n = 0 then t.flow.active else t.regs.getK n := fun n => by rw [rdK, look_of_ovr_nil h]
    exact ⟨hread 0, hmask 0, hread, fun n hn => (hmask n).trans (if_neg hn)⟩
  · have hw := writesS_setS r n v
    exact ⟨hw.dest.trans (if_neg hn), hw.kept⟩
  · have hw := writesK_setK r n m
    exact ⟨hw.dest hn, fun j hj => hw.kept j (.inl hj)⟩

/-! ## Hint words, work identifiers and the capability list (R276, R491, R651, R652) -/

/-- The only effect of a hint word on its team: it joins the words that wait, and the program counter moves on. -/
theorem hintJoins_of {i : Instr} {s : State} {c : Cur} {t : Team} (h : exec i s = .next (finishHint s c t)) : HintJoins i s c t := by
  obtain ⟨x, hcount, hctxs⟩ := sameBut_countIssue
    ({ s.setTeam c.team { t with
        flow := { t.flow with pc := c.next, gpc := (if t.flow.hints = [] then c.entry.pc else t.flow.gpc), hints := t.flow.hints ++ [c.entry.word] }
        sched := { t.sched with lastIssue := s.now, readySince := s.now, waited := 0, aged := false } } with
       cur := none, issued := Tbl.put s.issued t.id.core 1 } : State) t.id.ctx c.entry.word 1
  refine ⟨_, _, h.trans (congrArg _ hcount), ⟨fun j hj => ?_, hctxs, rfl⟩, Tbl.get?_put_self .., rfl, rfl, rfl, rfl, rfl⟩
  exact Tbl.get?_put_ne _ _ _ _ hj

/-- R652: what `capq` gives by the operand value `v` from a capability list. -/
noncomputable def capValue (s : State) (caps : List (Nat × List Nat)) (v : Nat) : Nat :=
  match caps.find? fun e => e.1 = bits v 15 0 with
  | some e => if e.1 = 1 ∧ bits v 23 16 = 4 then s.powered else e.2.getD (bits v 23 16) 0
  | none => 0
theorem capValue_none {s : State} {caps : List (Nat × List Nat)} {v : Nat} (h : ∀ e ∈ caps, e.1 ≠ v % 2 ^ 16) : capValue s caps v = 0 := by
  have hfind : caps.find? (fun e => e.1 = bits v 15 0) = none := by
    rw [List.find?_eq_none]
    intro e he
    simpa [bits] using h e he
  rw [capValue, hfind]
theorem capValue_some {s : State} {caps : List (Nat × List Nat)} {v : Nat} {e : Nat × List Nat} (h : caps.find? (fun e => e.1 = v % 2 ^ 16) = some e) :
    capValue s caps v = if e.1 = 1 ∧ v / 2 ^ 16 % 2 ^ 8 = 4 then s.powered else e.2.getD (v / 2 ^ 16 % 2 ^ 8) 0 := by
  have hfind : caps.find? (fun e => e.1 = bits v 15 0) = some e := by rw [← h, bits, Nat.pow_zero, Nat.div_one]
  rw [capValue, hfind]
  rfl
theorem exec_capq {s : State} {c : Cur} {t : Team} (hp : Performs s c t) (ht : t.id.foreign = false) (z : BitVec 1) (d a : BitVec 6) :
    exec (.capq z d a) s =
      .next (finishLong s c t z [.s d.toNat (BitVec.ofNat 64 (capValue s (s.launch t.id.launch).head.caps (rdS t c a.toNat).toNat))] 1) := by
  refine (withCur_eq hp _).trans ?_
  simp only [ht, Bool.false_eq_true, if_false]
  rfl
theorem exec_widf {s : State} {c : Cur} {t : Team} (hp : Performs s c t) (ht : t.id.foreign = false) (z : BitVec 1) (d : BitVec 6) (f : BitVec 3) :
    exec (.widf z d f) s =
      .next (laneShort s c t z d.toNat fun l => widField (s.launch t.id.launch).head.wwid (Tbl.getD t.flow.wid l 0) f.toNat) := by
  refine (withCur_eq hp _).trans ?_
  simp only [State.widths, ht, Bool.false_eq_true, if_false]

/-- Settles O24: each form by its end, and `capq` by what it finds in the list. -/
theorem plainAndCapabilityForms : Obligations.PlainAndCapabilityForms := by
  unfold Obligations.PlainAndCapabilityForms
  refine ⟨fun s c t hp => ?_, fun s c t z d a f hp ht => ⟨?_, ?_, ?_⟩⟩
  · exact ⟨fun _ => becomes_of (withCur_eq hp _), fun _ => becomes_of (withCur_eq hp _), becomes_of (withCur_eq hp _),
      fun _ => hintJoins_of (withCur_eq hp _), fun _ _ _ _ _ _ => hintJoins_of (withCur_eq hp _), fun _ _ _ _ _ _ => hintJoins_of (withCur_eq hp _)⟩
  · exact shortV_of (exec_widf hp ht z d f)
  · exact shortV_of (withCur_eq hp _)
  · refine ⟨_, longS_of (exec_capq hp ht z d a), fun e he => ?_, fun hnone => ?_⟩
    · rw [capValue_some he]
    · rw [capValue_none hnone]; rfl

/-! ## Control registers (R443, R463, R494, R648, R650) -/

/-- The number of the counter `n` (R494). -/
theorem counterNumber (n : BitVec 4) : (0x10 + n.setWidth 6 : BitVec 6).toNat = n.toNat + 0x10 := by
  have hn : n.toNat < 16 := n.isLt
  rw [BitVec.toNat_add, BitVec.toNat_setWidth, Nat.mod_eq_of_lt (hn.trans (by decide)), Nat.add_comm]
  exact Nat.mod_eq_of_lt (Nat.add_lt_add_right hn _ |>.trans (by decide))
theorem ctlRead_rules {s : State} {t : Team} (ht : t.id.landed = false) : ∀ p ∈ controlRules s t, ctlRead s t p.1.toNat = p.2 := by
  have hhome : ¬ t.id.landed = true := Bool.eq_false_iff.1 ht
  refine List.map_inj_left.1 ?_
  change _ :: _ :: _ :: _ :: _ :: _ :: _ :: _ :: (if _ then _ else _) :: _ :: (if _ then _ else _) :: _ :: _ ::
    (if _ then _ else _) :: (if _ then _ else _) :: (if _ then _ else _) :: [] = _
  rw [if_neg hhome, if_neg hhome, if_neg hhome, if_neg hhome, if_neg hhome]
  rfl
theorem ctlRead_counter (s : State) (t : Team) (n : BitVec 4) :
    ctlRead s t (0x10 + n.setWidth 6 : BitVec 6).toNat = BitVec.ofNat 64 (s.perfRead t.id.ctx n.toNat) := by
  rw [counterNumber]
  rfl
/-- R443: a counter as a read may find it is no more than the events counted, and behind by no more than the late ones. -/
theorem perfRead_bounds (s : State) (c i : Nat) : (BitVec.ofNat 64 (s.perfRead c i)).toNat ≤ (Tbl.getD (s.ctx c).perf.val i 0).toNat ∧
    (Tbl.getD (s.ctx c).perf.val i 0).toNat ≤ (BitVec.ofNat 64 (s.perfRead c i)).toNat + (s.ctx c).perf.late s.now i := by
  have hlag := Nat.le_of_lt_succ (Nat.mod_lt (Config.lag s.draws) (Nat.succ_pos ((s.ctx c).perf.late s.now i)))
  have hval := (Tbl.getD (s.ctx c).perf.val i 0).isLt.trans (Nat.pow_lt_pow_right (by decide) (by decide : 48 < 64))
  have hread : (BitVec.ofNat 64 (s.perfRead c i)).toNat = (Tbl.getD (s.ctx c).perf.val i 0).toNat - _ :=
    Nat.mod_eq_of_lt ((Nat.sub_le ..).trans_lt hval)
  rw [hread]
  exact ⟨Nat.sub_le .., Nat.sub_le_iff_le_add.1 (Nat.sub_le_sub_left hlag _)⟩

theorem getc_leaves {s : State} {c : Cur} {t : Team} (hp : Performs s c t) (z : BitVec 1) (d n : BitVec 6) {v : Word} (hv : ctlRead s t n.toNat = v) :
    ∃ s' t' r, exec (.getc z d n) s = .next s' ∧ WritesS t.regs r d.toNat v ∧
      Leaves { s with draws := s.draws + 1 } s' c { t with regs := r } z c.next { c.entry with done := true } 1 t' := by
  subst hv
  obtain ⟨t', hleaves⟩ := finishShort_leaves { s with draws := s.draws + 1 } c t z [.s d.toNat (ctlRead s t n.toNat)] 1
  exact ⟨_, t', _, withCur_eq hp _, writesS_setS .., hleaves⟩

theorem bits_toNat {w : Nat} (v : BitVec w) (hi lo : Nat) : bits v.toNat hi lo = (v.extractLsb' lo (hi + 1 - lo)).toNat := by
  rw [bits, BitVec.extractLsb'_toNat, Nat.shiftRight_eq_div_pow]
/-- R463: the cause of a value of `fmt`. -/
theorem fmtCause_eq (v : Word32) : fmtCause v.toNat =
    if ¬ v.extractLsb' 0 3 < 6 then some 0x10
    else if v.extractLsb' 5 3 = 0 ∨ v.extractLsb' 10 3 = 0 ∨ ¬ v.extractLsb' 17 3 < 4 ∨ v.extractLsb' 24 8 ≠ 0 then some 0x11 else none := by
  simp only [fmtCause, bits_toNat, BitVec.lt_def, ← BitVec.toNat_inj, not_lt, ge_iff_le, Ne]
  rfl
/-- R463, R650: a meaning that ends by writing `fmt`. -/
theorem writesFmt_of {i : Instr} {s : State} {c : Cur} {t : Team} {z : BitVec 1} {v : Word32} (h : exec i s = .next (writeFmt s c t z v)) :
    WritesFmt i s c t z v := by
  unfold WritesFmt FmtValid
  rw [writeFmt, fmtCause_eq] at h
  refine ⟨fun hv => becomes_of ?_, fun hr => ?_, fun hr hv => ?_⟩
  · obtain ⟨hr, hfields⟩ := hv
    rwa [if_neg (not_not.2 hr), if_neg (by tauto)] at h
  · rwa [if_pos hr] at h
  · rwa [if_neg (not_not.2 hr), if_pos (by tauto)] at h

/-- R489: the immediate of an IMM word. -/
theorem immw_of_ne {c : Cur} (h : c.entry.immw ≠ 0) : c.immw = some (c.entry.immw.extractLsb' 0 25).toNat := by
  rw [Cur.immw, if_neg h, bits_toNat]
theorem immw_of_eq {c : Cur} (h : c.entry.immw = 0) : c.immw = none := if_pos h

/-! ### `setc` and `setfmt` -/

theorem setc_readOnly {s : State} {c : Cur} {t : Team} (hp : Performs s c t) (z : BitVec 1) (b n : BitVec 6)
    (hn : n.toNat ∈ [0x01, 0x02, 0x05, 0x07, 0x08, 0x09, 0x0A, 0x0B, 0x0C, 0x0D, 0x0E, 0x0F]) :
    exec (.setc z n b) s = .next (finishShort s c t z [] 1) := by
  refine (withCur_eq hp _).trans ?_
  generalize n.toNat = m at hn ⊢
  revert m
  exact List.map_inj_left.1 rfl
theorem setc_counter {s : State} {c : Cur} {t : Team} (hp : Performs s c t) (z : BitVec 1) (b : BitVec 6) (n : BitVec 4) :
    exec (.setc z (0x10 + n.setWidth 6) b) s = .next (finishShort
      (s.modCtx t.id.ctx fun x => { x with perf := x.perf.setVal n.toNat ((rdS t c b.toNat).setWidth 48) }) c t z [] 1) := by
  refine (withCur_eq hp _).trans ?_
  rw [counterNumber]
  show Host.Outcome.next (if n.toNat + 0x10 ≥ 0x10 then _ else _) = _
  rw [if_pos (Nat.le_add_left ..), Nat.add_sub_cancel]
theorem setfmtI_immw {s : State} {c : Cur} {t : Team} (hp : Performs s c t) (z : BitVec 1) (h : c.entry.immw ≠ 0) :
    exec (.setfmtI z) s = .next (writeFmt s c t z ((c.entry.immw.extractLsb' 0 25).setWidth 32)) := by
  refine (withCur_eq hp _).trans ?_
  rw [immw_of_ne h]
  exact congrArg (fun v => Host.Outcome.next (writeFmt s c t z v)) (BitVec.ofNat_toNat ..)
theorem setfmtI_bare {s : State} {c : Cur} {t : Team} (hp : Performs s c t) (z : BitVec 1) (h : c.entry.immw = 0) : Raises (.setfmtI z) s c t 0x02 := by
  refine (withCur_eq hp _).trans ?_
  rw [immw_of_eq h]
  rfl

/-- Settles O23: the reads by the table and the bounds of a counter, the writes number by number, and the forms of `setfmt`. -/
theorem controlForms : Obligations.ControlForms := by
  unfold Obligations.ControlForms
  refine ⟨⟨fun s c t z d hp ht => ⟨fun p h => ?_, fun n => ?_, ?_⟩, fun s c t z b hp => ?_⟩, fun s c t z a b hp => ?_⟩
  · exact getc_leaves hp z d p.1 (ctlRead_rules ht p h)
  · obtain ⟨s', t', r, hexec, hwrites, hleaves⟩ := getc_leaves hp z d _ (ctlRead_counter s t n)
    obtain ⟨hle, hlate⟩ := perfRead_bounds s t.id.ctx n.toNat
    exact ⟨s', t', r, _, hexec, hwrites, hle, hlate, hleaves⟩
  · exact shortS_of (withCur_eq hp _)
  · exact ⟨writesFmt_of (withCur_eq hp _), becomes_of (withCur_eq hp _), becomes_of (withCur_eq hp _), becomes_of (withCur_eq hp _),
      fun n hn => becomes_of (setc_readOnly hp z b n hn), fun n => goes_of (setc_counter hp z b n)⟩
  · exact ⟨writesFmt_of (withCur_eq hp _), writesFmt_of (withCur_eq hp _), fun h => writesFmt_of (setfmtI_immw hp z h), setfmtI_bare hp z⟩

/-! ## The issue of a memory instruction (R495 to R497, R570 to R575) -/

theorem bits_eq_iff {w : Nat} (v : BitVec w) {hi lo k : Nat} (hk : k < 2 ^ (hi + 1 - lo)) :
    bits v.toNat hi lo = k ↔ v.extractLsb' lo (hi + 1 - lo) = BitVec.ofNat _ k := by
  rw [bits_toNat, ← BitVec.toNat_inj, BitVec.toNat_ofNat, Nat.mod_eq_of_lt hk]
theorem polAspc_eq_one (w : Word32) : polAspc w = 1 ↔ w.extractLsb' 26 2 = 1 := bits_eq_iff w (by decide)
theorem polPflag_eq (w : Word32) : polPflag w = w.getLsbD 25 := by
  rw [polPflag, bit, BitVec.getLsbD, Nat.testBit_eq_decide_div_mod_eq]
theorem wordOf_disp (c : Cur) : wordOf (disp c) = displacement c := by
  unfold disp displacement
  split_ifs with h
  · rw [immw_of_eq h]
    rfl
  · rw [immw_of_ne h]
    exact congrArg wordOf (sext_toInt 25 (by decide) _)
theorem mAddr_eq (t : Team) (c : Cur) (m : Nat) (b : BitVec 6) (pol : Word32) : mAddr t c m b.toNat pol = laneAddress t c m b pol := by
  funext l
  unfold mAddr laneAddress
  rw [wordOf_disp]
  match m with
  | 0 => rfl
  | 1 => rfl
  | m + 2 => simp [polAspc_eq_one]
theorem sAddr_eq (t : Team) (c : Cur) (b : BitVec 6) : sAddr t c b = scalarAddress t c b := by
  rw [sAddr, wordOf_disp]
  rfl
theorem mSize_eq (m ty : BitVec 3) : mSize m.toNat ty.toNat = (elemBits ty / 8, if m = 0 then 8 / (elemBits ty / 8) else 1) := by
  simp [mSize, intW_eq, ← BitVec.toNat_inj]
theorem zeroWrites_eq (t : Team) (c : Cur) (d : Nat) (accs : List Acc) : zeroWrites t c d accs = if accs = [] then [] else zeroLanes t c d := by
  by_cases h : accs = []
  · simp [zeroWrites, h]
  · simp only [zeroWrites, zeroLanes, lanesOf, h, Ne, not_false_eq_true, decide_true, Bool.and_true, if_false, Bool.and_eq_true, decide_eq_true_eq]
    split_ifs
    · congr 1
      refine List.filter_congr fun l _ => ?_
      by_cases hl : l < 1024
      · simp [hl]
      · simp [hl, t.flow.pres.getLsbD_of_ge l (Nat.not_lt.1 hl)]
    · rfl
theorem loadDests_eq (cls : Nat) (d : BitVec 6) (w : Word32) (accs : List Acc) : loadDests (cls, d.toNat) w accs = loadRegs cls d w accs := by
  unfold loadDests loadRegs
  rw [polPflag_eq]
  split_ifs <;> rfl

/-- A team on its way out of the slot: what its issue has changed so far leaves the registers, the masks and the replay queue's next number. -/
structure Prepared (t t1 : Team) : Prop where
  regs : t1.regs = t.regs
  flow : t1.flow = t.flow
  skip : t1.sched.skipBp = t.sched.skipBp
  handler : t1.sync.inHandler = t.sync.inHandler
  next : t1.sync.nextEntry = t.sync.nextEntry

namespace Prepared
variable {t t1 : Team} (h : Prepared t t1)
include h

theorem gov (c : Cur) : Machine.gov t1 c = Machine.gov t c := by
  simp only [Machine.gov, rdK, h.regs, h.flow]
theorem lanePasses (c : Cur) : Machine.lanePasses t1 c = Machine.lanePasses t c := by
  rw [Machine.lanePasses, h.gov, h.regs]
  rfl
theorem laneAccs (c : Cur) (f : Nat → Acc) : Machine.laneAccs t1 c f = Machine.laneAccs t c f := by
  rw [Machine.laneAccs, h.gov, h.regs]
  rfl
theorem zeroWrites (c : Cur) (d : Nat) (accs : List Acc) : Machine.zeroWrites t1 c d accs = Machine.zeroWrites t c d accs := by
  simp only [Machine.zeroWrites, h.gov, h.regs, h.flow]
/-- Opening an epoch at the pool keeps it so (R72). -/
theorem relOpen (s : State) (w : Word32) (accs : List Acc) : Prepared t (Machine.relOpen s t1 w accs).2 := by
  unfold Machine.relOpen
  split_ifs
  · exact ⟨h.regs, h.flow, h.skip, h.handler, h.next⟩
  · exact h

end Prepared

theorem streamed_prepared (t : Team) : Prepared t t.streamed := ⟨rfl, rfl, rfl, rfl, rfl⟩

/-- R428, R437: the accesses of an instruction as they enter the replay queue. -/
noncomputable def queued (t : Team) (accs : List Acc) : List Acc := accs.map fun a => ({ a with nowatch := t.sched.skipBp || t.sync.inHandler } : Acc)
theorem queued_eq_nil {t : Team} {accs : List Acc} : queued t accs = [] ↔ accs = [] := List.map_eq_nil_iff
theorem relOpen_queued (s : State) (t t1 : Team) (w : Word32) (accs : List Acc) : relOpen s t1 w (queued t accs) = relOpen s t1 w accs := by
  simp only [relOpen, Ne, queued_eq_nil]

/-- R574: the accesses of an issue go to their checks once its team has left the slot. -/
theorem finishMem_checks (s : State) (c : Cur) {t t1 : Team} (ht : Prepared t t1) (z : BitVec 1) (accs : List Acc) (ws : List RegWrite)
    (dest : List (Nat × Nat)) (passes : Nat) :
    ∃ s1 t', Leaves s s1 c t1 z c.next { c.entry with accs := queued t accs, res := ws, dest := dest, stage := 1, gov := maskOf ((queued t accs).map Acc.lane)
                                                      done := decide (queued t accs = [] ∧ ws = [] ∧ dest = []) } passes t' ∧
      finishMem s c t1 z accs ws dest passes = s1.checkAll c.team t.sync.nextEntry (queued t accs) := by
  have hq : (accs.map fun a => ({ a with nowatch := t1.sched.skipBp || t1.sync.inHandler } : Acc)) = queued t accs := by rw [ht.skip, ht.handler]; rfl
  refine ⟨_, _, finishAt_leaves .., ?_⟩
  unfold finishMem
  simp only [hq, ht.next, Bool.decide_and, Bool.and_assoc]
  rfl

/-- R492: what a form's `zero` writes, before any lane has been performed. -/
noncomputable def MemForm.zeroes (f : MemForm) (t : Team) (c : Cur) (accs : List Acc) : List RegWrite :=
  match f.zeroed with
  | some d => if accs = [] then [] else zeroLanes t c d
  | none => []

/-- What a form's issue under the policy word `w` comes to, where that word is allowed (R574). -/
def MemForm.Sent (f : MemForm) (s : State) (c : Cur) (t : Team) (z : BitVec 1) (w : Word32) (s' : State) : Prop :=
  let pol := f.pol w
  let accs := queued t (f.accs pol)
  let o := if f.writes = true then relOpen s (f.prep accs) pol accs else (s, f.prep accs)
  let res := f.zeroes t c accs
  ∃ s1 t', Leaves o.1 s1 c o.2 z c.next { c.entry with accs := accs, res := res, dest := f.dest pol accs, stage := 1, gov := maskOf (accs.map Acc.lane)
                                                       done := decide (accs = [] ∧ res = [] ∧ f.dest pol accs = []) } f.passes t' ∧
    SameButCounters (s1.checkAll c.team t.sync.nextEntry accs) s'

section
variable {s : State} {c : Cur} {t : Team} {r : PolRule} {p : BitVec 6} {go : Word32 → State}
theorem memPol_allowed (h : polCause r (s.featOf t) (polOf t c p) = none) : memPol s c t r p go = go (polOf t c p) := by
  simp only [memPol, h]
theorem memPol_refused (h : polCause r (s.featOf t) (polOf t c p) = some 0x07) : memPol s c t r p go = s.raiseQ c t 0x07 0 (polOf t c p).toNat := by
  simp only [memPol, h]
theorem memPol_absent (h : polCause r (s.featOf t) (polOf t c p) = some 0x05) : memPol s c t r p go = s.raiseX c t 0x05 := by
  simp only [memPol, h]
end
/-- R573: a form whose meaning checks its policy word first. -/
theorem issues_of {f : MemForm} {s : State} {c : Cur} {t : Team} {z : BitVec 1} {p : BitVec 6} {go : Word32 → State}
    (h : exec f.i s = .next (memPol s c t f.rule p go)) (hgo : ∀ w, f.Sent s c t z w (go w)) : Issues f s c t z p := by
  refine ⟨fun hok => ?_, fun hbad => h.trans (congrArg _ (memPol_refused hbad)), fun habsent => h.trans (congrArg _ (memPol_absent habsent))⟩
  obtain ⟨s1, t', hleaves, hsent⟩ := hgo (polOf t c p)
  exact ⟨s1, t', _, h.trans (congrArg _ (memPol_allowed hok)), hleaves, hsent⟩

/-- The state and team that an issue goes on from: a form that writes memory opens an epoch if its policy word is a release at the pool (R72). -/
noncomputable def MemForm.opened (f : MemForm) (s : State) (t1 : Team) (w : Word32) (accs : List Acc) : State × Team :=
  if f.writes = true then relOpen s t1 w accs else (s, t1)
theorem Prepared.opened {t t1 : Team} (h : Prepared t t1) (f : MemForm) (s : State) (w : Word32) (accs : List Acc) :
    Prepared t (f.opened s t1 w accs).2 := by
  unfold MemForm.opened
  split_ifs
  · exact h.relOpen s w accs
  · exact h
theorem opened_of_writes {f : MemForm} {accs : List Acc} (hwrites : ∀ a ∈ accs, a.kind.writes = f.writes) (s : State) (t1 : Team) (w : Word32) :
    (if (accs.any fun a => a.kind.writes) = true then relOpen s t1 w accs else (s, t1)) = f.opened s t1 w accs := by
  unfold MemForm.opened
  cases accs with
  | nil => simp [relOpen]
  | cons a r =>
    have hany : ((a :: r).any fun a => a.kind.writes) = f.writes := by
      rw [Bool.eq_iff_iff, List.any_eq_true]
      exact ⟨fun ⟨b, hb, hbw⟩ => hwrites b hb ▸ hbw, fun hf => ⟨a, List.mem_cons_self .., (hwrites a (List.mem_cons_self ..)).trans hf⟩⟩
    rw [hany]

/-- A meaning that opens its epoch, if any, and hands its accesses to their checks. -/
theorem sent_of_finishMem {f : MemForm} {s s' : State} {c : Cur} {t t1 : Team} {z : BitVec 1} {w : Word32} {ws : List RegWrite} {dest : List (Nat × Nat)}
    (ht : Prepared t t1) (hprep : ∀ a, f.prep a = t1) (hdest : dest = f.dest (f.pol w) (queued t (f.accs (f.pol w))))
    (hws : ws = f.zeroes t c (queued t (f.accs (f.pol w))))
    (hs : SameButCounters (finishMem (f.opened s t1 (f.pol w) (f.accs (f.pol w))).1 c (f.opened s t1 (f.pol w) (f.accs (f.pol w))).2 z
      (f.accs (f.pol w)) ws dest f.passes) s') : f.Sent s c t z w s' := by
  obtain ⟨s1, t', hleaves, hchecks⟩ := finishMem_checks (f.opened s t1 (f.pol w) (f.accs (f.pol w))).1 c (ht.opened f s _ _) z (f.accs (f.pol w)) ws dest f.passes
  rw [hchecks] at hs
  subst hws hdest
  unfold MemForm.Sent
  simp only [hprep, relOpen_queued]
  exact ⟨s1, t', hleaves, hs⟩

theorem writes_of_lanes {ls : List Nat} {f : Nat → Acc} {w : Bool} (h : ∀ l, (f l).kind.writes = w) : ∀ a ∈ ls.map f, a.kind.writes = w := by
  intro a ha
  obtain ⟨l, _, rfl⟩ := List.mem_map.1 ha
  exact h l

/-- A vector form whose accesses all write memory, or none. -/
theorem vecMem_sent {f : MemForm} {s : State} {c : Cur} {t t1 : Team} {z : BitVec 1} {w : Word32} {dest : List (Nat × Nat)} (d : Nat) (ht : Prepared t t1)
    (hprep : ∀ a, f.prep a = t1) (hpasses : f.passes = lanePasses t c) (hwrites : ∀ a ∈ f.accs (f.pol w), a.kind.writes = f.writes)
    (hdest : dest = f.dest (f.pol w) (queued t (f.accs (f.pol w))))
    (hzeroed : f.zeroed = some d ∧ (dest = [] ↔ f.accs (f.pol w) = []) ∨ f.zeroed = none ∧ dest = []) :
    f.Sent s c t z w (vecMem s c t1 z (f.pol w) d (f.accs (f.pol w)) dest) := by
  have hkept := ht.opened f s (f.pol w) (f.accs (f.pol w))
  have hws : (if dest = [] then [] else zeroWrites (f.opened s t1 (f.pol w) (f.accs (f.pol w))).2 c d (f.accs (f.pol w))) =
      f.zeroes t c (queued t (f.accs (f.pol w))) := by
    rw [hkept.zeroWrites, zeroWrites_eq]
    rcases hzeroed with ⟨hz, hnil⟩ | ⟨hz, hnil⟩
    · simp only [MemForm.zeroes, hz, hnil, queued_eq_nil]
      split_ifs <;> rfl
    · simp only [MemForm.zeroes, hz, hnil, if_true]
  refine sent_of_finishMem ht hprep hdest hws ?_
  unfold vecMem
  simp only [opened_of_writes hwrites, hkept.lanePasses, hpasses]
  exact (sameBut_countSkips ..).trans (sameBut_count ..)

/-! ## Global accesses (R570, R573, R576 to R579) -/

theorem loadRegs_queued (cls : Nat) (d : BitVec 6) (w : Word32) (t : Team) (accs : List Acc) : loadRegs cls d w (queued t accs) = loadRegs cls d w accs := by
  simp only [loadRegs, queued_eq_nil]
theorem loadRegs_eq_nil {cls : Nat} {d : BitVec 6} {w : Word32} {accs : List Acc} : loadRegs cls d w accs = [] ↔ accs = [] := by
  unfold loadRegs
  split_ifs with h <;> simp [h]

/-- Settles O26: each form ends by handing its accesses to their checks, whose addresses, sizes and registers are those of the rules. -/
theorem globalAccesses : Obligations.GlobalAccesses := by
  unfold Obligations.GlobalAccesses
  intro s c t z d b p m ty hp _
  simp only [globalForms, List.forall_mem_cons, List.not_mem_nil, false_imp_iff, implies_true, and_true]
  have hkept := streamed_prepared t
  refine ⟨?ld, ?pf, ?st, ?lds, ?sts⟩
  case ld =>
    refine issues_of (withCur_eq hp _) fun w => ?_
    dsimp only
    rw [mAddr_eq, mSize_eq, loadDests_eq]
    exact vecMem_sent d.toNat hkept (fun _ => rfl) rfl (writes_of_lanes fun _ => rfl) (loadRegs_queued ..).symm (.inl ⟨rfl, loadRegs_eq_nil⟩)
  case pf =>
    refine issues_of (withCur_eq hp _) fun w => ?_
    dsimp only
    rw [mAddr_eq, mSize_eq]
    exact vecMem_sent 0 hkept (fun _ => rfl) rfl (writes_of_lanes fun _ => rfl) rfl (.inr ⟨rfl, rfl⟩)
  case st =>
    refine issues_of (withCur_eq hp _) fun w => ?_
    dsimp only
    rw [mAddr_eq, mSize_eq]
    exact vecMem_sent 0 hkept (fun _ => rfl) rfl (writes_of_lanes fun _ => rfl) rfl (.inr ⟨rfl, rfl⟩)
  case lds =>
    refine issues_of (withCur_eq hp _) fun w => ?_
    dsimp only
    rw [sAddr_eq, intW_eq, loadDests_eq]
    exact sent_of_finishMem hkept (fun _ => rfl) (loadRegs_queued 0 d _ t _).symm rfl (sameBut_count ..)
  case sts =>
    refine issues_of (withCur_eq hp _) fun w => ?_
    dsimp only
    rw [sAddr_eq, intW_eq]
    exact sent_of_finishMem hkept (fun _ => rfl) rfl rfl (sameBut_count ..)

end Sys2Proof.Machine
end

section
/-! PROOFS. Words of instructions (R478, R487 to R490, R498 to R501): O57 and O58. The decoder is laid out as a table: a major, the windows that
its minor is told by, and its rows, each with the places of its operands and the windows of its fixed bits. A word is its row's fixed bits with
the operands put at their places; so each row of the table reads its own words back, provided that some window tells it from the rows
before. The kernel alone evaluates what is defined here, so no code is generated for it. -/

namespace Sys2Proof.Encoding

/-! ## Instructions with operands at places of their word -/

/-- Lowest bit and width of a field of a word. -/
abbrev Window := Nat × Nat
/-- A field of the word `n`, as a number. -/
noncomputable def window (n : Nat) : Window → Nat
  | (0, w) => n % 2 ^ w
  | (lo + 1, w) => n / 2 ^ (lo + 1) % 2 ^ w
/-- The operands of a word, by lowest bit and width. -/
abbrev Operands := (lo w : Nat) → BitVec w
/-- An instruction that takes an operand for each place, in the order of the constructor. -/
def Form : List Window → Type
  | [] => Instr
  | p :: ps => BitVec p.2 → Form ps
/-- The instruction with the operands `v`. -/
noncomputable def Form.fill : (ps : List Window) → Form ps → Operands → Instr
  | [], i, _ => i
  | p :: ps, f, v => fill ps (f (v p.1 p.2)) v
/-- A statement about the instruction with any operands. -/
def Form.All (P : Instr → Prop) : (ps : List Window) → Form ps → Prop
  | [], i => P i
  | p :: ps, f => ∀ x : BitVec p.2, All P ps (f x)

theorem window_eq (n : Nat) (q : Window) : window n q = n / 2 ^ q.1 % 2 ^ q.2 := by
  match q with
  | (0, w) => rw [Nat.pow_zero, Nat.div_one]; rfl
  | (lo + 1, w) => rfl

theorem fill_congr {v v' : Operands} {ps : List Window} (h : ∀ p ∈ ps, v p.1 p.2 = v' p.1 p.2) (f : Form ps) : Form.fill ps f v = Form.fill ps f v' := by
  induction ps with
  | nil => rfl
  | cons p ps ih =>
    obtain ⟨hp, hps⟩ := List.forall_mem_cons.1 h
    exact (ih hps _).trans (congrArg (fun x => Form.fill ps (f x) v') hp)

/-- The operands `v` with another value at a place. -/
noncomputable def setOperand (v : Operands) (p : Window) (x : BitVec p.2) : Operands :=
  fun lo w => if h : p = (lo, w) then x.cast (congrArg Prod.snd h) else v lo w
/-- A statement about an instruction with the operands of every assignment holds with any operands, its places being different. -/
theorem all_of_fill {P : Instr → Prop} {ps : List Window} (hps : ps.Nodup) (f : Form ps) (h : ∀ v, P (Form.fill ps f v)) : Form.All P ps f := by
  induction ps with
  | nil => exact h fun _ _ => 0
  | cons p ps ih =>
    obtain ⟨hp, hps⟩ := List.nodup_cons.1 hps
    refine fun x => ih hps (f x) fun v => ?_
    have hset : setOperand v p x p.1 p.2 = x := dif_pos rfl
    have hkept : ∀ q ∈ ps, setOperand v p x q.1 q.2 = v q.1 q.2 := fun q hq => dif_neg fun hpq : p = q => hp (hpq ▸ hq)
    have hall : P (Form.fill ps (f (setOperand v p x p.1 p.2)) (setOperand v p x)) := h (setOperand v p x)
    rwa [hset, fill_congr hkept] at hall

/-! ## Words -/

/-- A word with an operand put at its place, as the encoder adds it. -/
noncomputable def put (v : Operands) (p : Window) (n : Nat) : Nat :=
  if p.1 = 0 then n + (v p.1 p.2).toNat else n + (v p.1 p.2).toNat * 2 ^ p.1
/-- The word of fixed bits `n` with the operands `v`. -/
noncomputable def word (v : Operands) : List Window → Nat → Nat
  | [], n => n
  | p :: ps, n => word v ps (put v p n)
/-- Two windows have no bit in common. -/
noncomputable def apart (p q : Window) : Bool := p.1 + p.2 ≤ q.1 || q.1 + q.2 ≤ p.1
/-- The places of a word are free in its fixed bits `n`, apart from each other, and inside 32 bits. -/
noncomputable def fits : List Window → Nat → Bool
  | [], n => n < 2 ^ 32
  | p :: ps, n => window n p == 0 && p.1 + p.2 ≤ 32 && ps.all (apart p) && fits ps n
theorem fits_cons {p : Window} {ps : List Window} {n : Nat} :
    fits (p :: ps) n = true ↔ ((window n p = 0 ∧ p.1 + p.2 ≤ 32) ∧ ∀ q ∈ ps, apart p q = true) ∧ fits ps n = true := by
  change (_ && _ && _ && _) = true ↔ _
  rw [Bool.and_eq_true, Bool.and_eq_true, Bool.and_eq_true, beq_iff_eq, decide_eq_true_eq, List.all_eq_true]
theorem apart_iff {p q : Window} : apart p q = true ↔ p.1 + p.2 ≤ q.1 ∨ q.1 + q.2 ≤ p.1 := by
  rw [apart, Bool.or_eq_true, decide_eq_true_eq, decide_eq_true_eq]

section
variable (v : Operands) {p : Window} {n : Nat}

theorem put_eq (p : Window) (n : Nat) : put v p n = n + 2 ^ p.1 * (v p.1 p.2).toNat := by
  rw [Nat.mul_comm]
  unfold put
  split
  · next h => rw [h, Nat.pow_zero, Nat.mul_one]
  · rfl
theorem put_div (p : Window) (n : Nat) : put v p n / 2 ^ p.1 = n / 2 ^ p.1 + (v p.1 p.2).toNat := by
  rw [put_eq, Nat.add_mul_div_left _ _ (Nat.two_pow_pos _)]
/-- An operand leaves the bits below its place. -/
theorem put_below {q : Window} (h : q.1 + q.2 ≤ p.1) : window (put v p n) q = window n q := by
  obtain ⟨d, hd⟩ := Nat.exists_eq_add_of_le h
  rw [window_eq, window_eq, put_eq, hd, Nat.pow_add, Nat.pow_add, Nat.mul_assoc, Nat.mul_assoc,
    Nat.add_mul_div_left _ _ (Nat.two_pow_pos _), Nat.add_mul_mod_self_left]

variable (h : window n p = 0)
include h

theorem put_window : window (put v p n) p = (v p.1 p.2).toNat := by
  rw [window_eq] at h ⊢
  rw [put_div, Nat.add_mod, h, Nat.zero_add, Nat.mod_mod, Nat.mod_eq_of_lt (v p.1 p.2).isLt]
/-- An operand leaves the bits above its place. -/
theorem put_above {k : Nat} (hk : p.1 + p.2 ≤ k) : put v p n / 2 ^ k = n / 2 ^ k := by
  obtain ⟨d, hd⟩ := Nat.exists_eq_add_of_le hk
  obtain ⟨m, hm⟩ := Nat.dvd_of_mod_eq_zero ((window_eq n p).symm.trans h)
  rw [hd, Nat.pow_add, Nat.pow_add, ← Nat.div_div_eq_div_mul, ← Nat.div_div_eq_div_mul, ← Nat.div_div_eq_div_mul, ← Nat.div_div_eq_div_mul, put_div, hm,
    Nat.mul_add_div (Nat.two_pow_pos _), Nat.div_eq_of_lt (v p.1 p.2).isLt, Nat.mul_div_cancel_left _ (Nat.two_pow_pos _), Nat.add_zero]
/-- An operand leaves what lies apart from its place as it was. -/
theorem put_apart {q : Window} (hpq : apart p q = true) : window (put v p n) q = window n q := by
  rcases apart_iff.1 hpq with hlo | hhi
  · rw [window_eq, window_eq, put_above v h hlo]
  · exact put_below v hhi
end

theorem fits_put {v : Operands} {p : Window} {ps : List Window} {n : Nat} (h : fits (p :: ps) n = true) : fits ps (put v p n) = true := by
  induction ps with
  | nil =>
    obtain ⟨⟨⟨hfree, hroom⟩, _⟩, hlt⟩ := fits_cons.1 h
    have hdiv : put v p n / 2 ^ 32 = 0 := (put_above v hfree hroom).trans (Nat.div_eq_of_lt (of_decide_eq_true hlt))
    exact decide_eq_true (Nat.lt_of_div_eq_zero (Nat.two_pow_pos _) hdiv)
  | cons q ps ih =>
    obtain ⟨⟨hfree, hapart⟩, hrest⟩ := fits_cons.1 h
    obtain ⟨⟨⟨hqfree, hqroom⟩, hqapart⟩, hqrest⟩ := fits_cons.1 hrest
    obtain ⟨hq, hps⟩ := List.forall_mem_cons.1 hapart
    exact fits_cons.2 ⟨⟨⟨(put_apart v hfree.1 hq).trans hqfree, hqroom⟩, hqapart⟩, ih (fits_cons.2 ⟨⟨hfree, hps⟩, hqrest⟩)⟩

section
variable (v : Operands) {ps : List Window} {n : Nat} (h : fits ps n = true)
include h

/-- What lies apart from every operand is as in the fixed bits. -/
theorem word_apart {q : Window} (hq : ∀ p ∈ ps, apart p q = true) : window (word v ps n) q = window n q := by
  induction ps generalizing n with
  | nil => rfl
  | cons p ps ih =>
    obtain ⟨⟨⟨hfree, _⟩, _⟩, _⟩ := fits_cons.1 h
    obtain ⟨hp, hps⟩ := List.forall_mem_cons.1 hq
    exact (ih (fits_put h) hps).trans (put_apart v hfree hp)
/-- An operand is read back from its place. -/
theorem word_place : ∀ p ∈ ps, window (word v ps n) p = (v p.1 p.2).toNat := by
  induction ps generalizing n with
  | nil => exact List.forall_mem_nil _
  | cons p ps ih =>
    obtain ⟨⟨⟨hfree, _⟩, hapart⟩, _⟩ := fits_cons.1 h
    refine List.forall_mem_cons.2 ⟨?_, ih (fits_put h)⟩
    exact (word_apart v (fits_put h) fun q hq => apart_iff.2 (apart_iff.1 (hapart q hq)).symm).trans (put_window v hfree)
theorem fld_word : ∀ p ∈ ps, fld (word v ps n) p.1 p.2 = v p.1 p.2 :=
  fun p hp => BitVec.eq_of_toNat_eq ((window_eq _ p).symm.trans (word_place v h p hp))
theorem word_lt : word v ps n < 2 ^ 32 := by
  induction ps generalizing n with
  | nil => exact of_decide_eq_true h
  | cons p ps ih => exact ih (fits_put h)
end

/-! ## Rows of the decoder -/

/-- A row of the decoder's table: the places of its operands, the windows of its fixed bits, the instruction it stands for, and a bound that a
well-formed instruction keeps at one of its places. -/
structure Row where
  places : List Window
  fixed : List Window
  form : Form places
  limit : Option (Window × Nat) := none

namespace Row
variable (e : Row)

/-- The instruction of a row with the operands `v`. -/
noncomputable def fill (v : Operands) : Instr := Form.fill e.places e.form v
/-- The fixed bits of a row. -/
noncomputable def code : Nat := encodeNat (e.fill fun _ _ => 0)
end Row

/-- Two words have the same bits in each of the windows. -/
def Matches (n c : Nat) : List Window → Prop
  | [] => True
  | [q] => window n q = window c q
  | q :: r :: l => window n q = window c q ∧ Matches n c (r :: l)
noncomputable def decideMatches (n c : Nat) : (l : List Window) → Decidable (Matches n c l)
  | [] => .isTrue trivial
  | [q] => instDecidableEqNat (window n q) (window c q)
  | q :: r :: l => @instDecidableAnd _ _ (instDecidableEqNat (window n q) (window c q)) (decideMatches n c (r :: l))
/-- The first of the rows whose fixed bits a word carries. -/
noncomputable def rowFor (n : Nat) : List Row → Option Instr
  | [] => none
  | e :: l => @ite _ (Matches n e.code e.fixed) (decideMatches n e.code e.fixed) (some (e.fill (fld n))) (rowFor n l)

theorem matches_iff {n c : Nat} {l : List Window} : Matches n c l ↔ ∀ q ∈ l, window n q = window c q := by
  induction l with
  | nil => exact ⟨fun _ => List.forall_mem_nil _, fun _ => trivial⟩
  | cons q l ih =>
    rw [List.forall_mem_cons, ← ih]
    cases l
    · exact (and_iff_left trivial).symm
    · rfl

/-! ## The decoder's table -/

/-- Rows with operands at the same places and the same windows of fixed bits. -/
noncomputable def rows (places fixed : List Window) (l : List (Form places)) : List Row := l.map fun f => { places, fixed, form := f }
/-- Rows with a bound at one of their places. -/
noncomputable def limited (p : Window) (k : Nat) (l : List Row) : List Row := l.map fun e => { e with limit := some (p, k) }

/-- A major: its number, what its minors satisfy, and its rows in the decoder's order. -/
structure Major where
  num : Nat
  minor : List (Window × (Nat → Bool))
  rows : List Row

/-- R498 step 3: the minor of a word is assigned. -/
noncomputable def minorFor (n : Nat) : List (Window × (Nat → Bool)) → Bool
  | [] => true
  | [t] => t.2 (window n t.1)
  | t :: u :: l => t.2 (window n t.1) && minorFor n (u :: l)

/-- R488 to R490, R500, R501: the majors, each with the windows that tell its minor and the values assigned there, and its rows by the places of
their operands, the windows of their fixed bits and their constructors. -/
noncomputable def majors : List Major :=
  [
    ⟨0x00, [((3, 4), (· < 6))],
        rows [(31, 1)] [(0, 25)] [Instr.nop, .exit] ++
        rows [(31, 1), (0, 3)] [(3, 22)] [Instr.trap] ++
        rows [(31, 1)] [(0, 25)] [Instr.tret, .tabort, .brk]⟩,
    ⟨0x01, [((3, 4), (· < 6))],
        rows [(31, 1)] [(0, 25)] [Instr.setfmtI] ++
        rows [(31, 1), (7, 6)] [(0, 7), (13, 12)] [Instr.setfmt] ++
        rows [(31, 1), (19, 6)] [(0, 19)] [Instr.widfAll, .now] ++
        limited (0, 3) 6 (rows [(31, 1), (19, 6), (0, 3)] [(3, 16)] [Instr.widf]) ++
        rows [(31, 1), (19, 6), (13, 6)] [(0, 13)] [Instr.getc, .getcF] ++
        rows [(31, 1), (13, 6), (7, 6)] [(0, 7), (19, 6)] [Instr.setc, .setcF, .setfmtM] ++
        rows [(31, 1), (19, 6), (13, 6)] [(0, 13)] [Instr.capq]⟩,
    ⟨0x02, [((21, 4), (· ≠ 12)), ((21, 4), (· ≠ 13))],
        rows [(31, 1), (0, 18)] [(18, 7)] [Instr.b, .bal] ++
        rows [(31, 1), (18, 3), (0, 18)] [(21, 4)] [Instr.bcAny, .bcNone, .bcAll, .bcNall] ++
        rows [(31, 1), (12, 6), (0, 12)] [(18, 7)] [Instr.bcEq, .bcNe, .bcLt, .bcGe, .bcGt, .bcLe] ++
        rows [(31, 1), (12, 6)] [(0, 12), (18, 7)] [Instr.jr, .jalr]⟩,
    ⟨0x03, [((21, 4), (· < 8))],
        rows [(31, 1), (18, 3), (0, 18)] [(21, 4)] [Instr.vif] ++
        rows [(31, 1), (0, 18)] [(18, 7)] [Instr.velse] ++
        rows [(31, 1)] [(0, 25)] [Instr.vendif] ++
        rows [(31, 1), (18, 3), (0, 18)] [(21, 4)] [Instr.vdo] ++
        rows [(31, 1), (18, 3)] [(0, 18), (21, 4)] [Instr.vwhile, .vbrk] ++
        rows [(31, 1), (18, 3), (12, 6)] [(0, 12), (21, 4)] [Instr.vany, .vall]⟩,
    ⟨0x04, [((0, 6), (· < 17))],
        rows [(31, 1), (19, 6), (13, 6), (7, 6), (6, 1)] [(0, 6)]
          [Instr.sadd, .ssub, .sand, .sor, .sxor, .sandn, .sshl, .sshr, .ssra, .sseq, .ssne, .sslt, .ssltu, .ssle, .ssleu, .smin, .smax]⟩,
    ⟨0x05, [],
        rows [(31, 1), (19, 6), (13, 6), (0, 13)] [] [Instr.saddi]⟩,
    ⟨0x06, [((0, 6), (· < 7))],
        rows [(31, 1), (19, 6), (13, 6), (7, 6), (6, 1)] [(0, 6)] [Instr.smul, .smulh, .smulhu, .sdiv, .sdivu, .srem, .sremu]⟩,
    ⟨0x07, [((0, 6), (· < 7))],
        rows [(31, 1), (19, 6), (13, 6)] [(0, 13)] [Instr.sclz, .sctz, .spopc, .sbrev, .sbswap] ++
        rows [(31, 1), (19, 6), (13, 6), (7, 6), (6, 1)] [(0, 6)] [Instr.srotl, .srotr]⟩,
    ⟨0x08, [((3, 4), (· < 14))],
        rows [(31, 1), (19, 6), (13, 6), (7, 6), (0, 3)] [(3, 4)] [Instr.vadd, .vsub, .vadds, .vsubs, .vmin, .vmax] ++
        rows [(31, 1), (19, 6), (13, 6), (0, 3)] [(3, 10)] [Instr.vabs, .vneg] ++
        rows [(31, 1), (19, 6), (13, 6), (7, 6), (0, 3)] [(3, 4)] [Instr.vsll, .vsrl, .vsra, .vcmpeq, .vcmplt, .vcmple]⟩,
    ⟨0x09, [],
        rows [(31, 1), (19, 6), (13, 6), (3, 10), (0, 3)] [] [Instr.vaddi]⟩,
    ⟨0x0A, [((3, 4), (· < 5))],
        rows [(31, 1), (19, 6), (13, 6), (7, 6), (0, 3)] [(3, 4)] [Instr.vmul, .vmulh, .vmadd, .vdot4, .vwmul]⟩,
    ⟨0x0B, [((3, 4), (· < 5))],
        rows [(31, 1), (19, 6), (13, 6), (7, 6), (0, 3)] [(3, 4)] [Instr.vand, .vor, .vxor] ++
        rows [(31, 1), (19, 6), (13, 6), (0, 3)] [(3, 10)] [Instr.vnot, .vpopc]⟩,
    ⟨0x0C, [((3, 4), (· < 7))],
        rows [(31, 1), (19, 6), (13, 6), (7, 6), (0, 3)] [(3, 4)] [Instr.vfadd, .vfsub, .vfmin, .vfmax] ++
        rows [(31, 1), (19, 6), (13, 6), (0, 3)] [(3, 10)] [Instr.vfabs, .vfneg] ++
        rows [(31, 1), (19, 6), (13, 6), (7, 6), (0, 3)] [(3, 4)] [Instr.vfsgn]⟩,
    ⟨0x0D, [((3, 4), (· < 6))],
        rows [(31, 1), (19, 6), (13, 6), (7, 6), (0, 3)] [(3, 4)] [Instr.vfmul, .vfma, .vfms, .vfnma, .vfdiv] ++
        rows [(31, 1), (19, 6), (13, 6), (0, 3)] [(3, 10)] [Instr.vfsqrt]⟩,
    ⟨0x0E, [((3, 4), (· < 9))],
        rows [(31, 1), (19, 6), (13, 6), (7, 6), (0, 3)] [(3, 4)] [Instr.vfcmpEq, .vfcmpNe, .vfcmpLt, .vfcmpLe, .vfcmpGt, .vfcmpGe, .vfcmpOrd, .vfcmpUno] ++
        rows [(31, 1), (19, 6), (13, 6), (0, 3)] [(3, 10)] [Instr.vfclass]⟩,
    ⟨0x0F, [((3, 4), (· < 5))],
        rows [(31, 1), (19, 6), (13, 6), (10, 2), (7, 3), (0, 3)] [(3, 4), (12, 1)] [Instr.vcvt] ++
        rows [(31, 1), (19, 6), (13, 6), (12, 1), (10, 2), (7, 3), (0, 3)] [(3, 4)] [Instr.vcvti] ++
        rows [(31, 1), (19, 6), (13, 6), (7, 6), (0, 3)] [(3, 4)] [Instr.vpack] ++
        rows [(31, 1), (19, 6), (13, 6), (7, 1), (0, 3)] [(3, 4), (8, 5)] [Instr.vunpack] ++
        rows [(31, 1), (19, 6), (13, 6), (7, 6), (0, 3)] [(3, 4)] [Instr.vscale]⟩,
    ⟨0x10, [((3, 4), (· < 7))],
        rows [(31, 1), (19, 6), (13, 6), (0, 3)] [(3, 10)] [Instr.vrcp, .vrsqrt, .vexp2, .vlog2, .vsin, .vcos, .vtanh]⟩,
    ⟨0x11, [((3, 4), (· < 6))],
        rows [(31, 1), (19, 6), (13, 6), (7, 6), (0, 3)] [(3, 4)] [Instr.vshfl, .vbcast] ++
        rows [(31, 1), (19, 6), (13, 6), (9, 4), (8, 1), (0, 3)] [(3, 5)] [Instr.vscan] ++
        rows [(31, 1), (19, 6), (13, 6), (9, 4), (0, 3)] [(3, 6)] [Instr.vred] ++
        rows [(31, 1), (19, 6), (13, 6)] [(0, 13)] [Instr.vcompress, .vexpand]⟩,
    ⟨0x12, [((0, 6), (· < 8))],
        rows [(31, 1), (19, 3), (13, 3), (7, 3)] [(0, 7), (10, 3), (16, 3), (22, 3)] [Instr.kand, .kor, .kxor] ++
        rows [(31, 1), (19, 3), (13, 3)] [(0, 13), (16, 3), (22, 3)] [Instr.knot] ++
        rows [(31, 1), (19, 3), (13, 3), (7, 3)] [(0, 7), (10, 3), (16, 3), (22, 3)] [Instr.kandn] ++
        rows [(31, 1), (19, 3), (13, 3)] [(0, 13), (16, 3), (22, 3)] [Instr.kmov] ++
        rows [(31, 1), (19, 6), (13, 3)] [(0, 13), (16, 3)] [Instr.kpop, .kffs]⟩,
    ⟨0x13, [((3, 4), (· < 7))],
        rows [(31, 1), (19, 6), (13, 6)] [(0, 13)] [Instr.vmov] ++
        rows [(31, 1), (19, 6), (13, 6), (0, 3)] [(3, 10)] [Instr.vsplat] ++
        rows [(31, 1), (19, 6), (13, 6), (7, 6), (0, 3)] [(3, 4)] [Instr.vext, .vins, .vsel] ++
        rows [(31, 1), (19, 6), (13, 3)] [(0, 13), (16, 3)] [Instr.kvec] ++
        rows [(31, 1), (19, 3), (13, 6)] [(0, 13), (22, 3)] [Instr.veck]⟩,
    ⟨0x14, [((4, 3), (· < 3))],
        limited (4, 3) 3 (rows [(31, 1), (19, 6), (13, 6), (7, 6), (4, 3), (0, 3)] [(3, 1)] [Instr.ld]) ++
        limited (4, 3) 3 (rows [(31, 1), (13, 6), (7, 6), (4, 3), (0, 3)] [(3, 1), (19, 6)] [Instr.pf])⟩,
    ⟨0x15, [((3, 1), (· = 0)), ((4, 3), (· < 3))],
        limited (4, 3) 3 (rows [(31, 1), (19, 6), (13, 6), (7, 6), (4, 3), (0, 3)] [(3, 1)] [Instr.st])⟩,
    ⟨0x16, [((4, 2), (· < 3))],
        limited (4, 2) 3 (rows [(31, 1), (19, 6), (13, 6), (7, 6), (4, 2), (0, 3)] [(3, 1), (6, 1)] [Instr.sld, .sldFePeek, .sldFeConsume])⟩,
    ⟨0x17, [((4, 2), (· < 3))],
        limited (4, 2) 3 (rows [(31, 1), (19, 6), (13, 6), (7, 6), (4, 2), (0, 3)] [(3, 1), (6, 1)] [Instr.sst, .sstFull])⟩,
    ⟨0x18, [((0, 4), (· < 10))],
        rows [(31, 1), (19, 6), (13, 6), (7, 6), (4, 3)] [(0, 4)] [Instr.aadd, .afadd, .amin, .amax, .aand, .aor, .axor, .axch, .acas, .ainc]⟩,
    ⟨0x19, [((4, 2), (· < 3))],
        limited (4, 2) 3 (rows [(31, 1), (19, 6), (13, 6), (7, 6), (6, 1), (4, 2)] [(0, 4)] [Instr.saadd, .samin, .samax, .saxch])⟩,
    ⟨0x1A, [((3, 4), (· < 3))],
        rows [(31, 1), (0, 3)] [(3, 22)] [Instr.fenceRel, .fenceAcq, .fenceAr]⟩,
    ⟨0x1B, [((3, 4), (· < 5))],
        rows [(31, 1), (13, 6), (7, 6)] [(0, 7), (19, 6)] [Instr.binit] ++
        rows [(31, 1), (19, 6), (13, 6), (7, 6)] [(0, 7)] [Instr.barr] ++
        rows [(31, 1), (13, 6), (7, 6)] [(0, 7), (19, 6)] [Instr.bexp] ++
        rows [(31, 1), (13, 6), (7, 6), (0, 1)] [(1, 6), (19, 6)] [Instr.bwait] ++
        rows [(31, 1), (19, 6), (13, 6), (7, 6), (0, 1)] [(1, 6)] [Instr.btry]⟩,
    ⟨0x1C, [((0, 4), (· < 3))],
        rows [(31, 1), (19, 6), (13, 6), (7, 6), (4, 3)] [(0, 4)] [Instr.waitc, .wmon] ++
        rows [(31, 1), (19, 6)] [(0, 19)] [Instr.wtest]⟩,
    ⟨0x1D, [((3, 4), (· < 4))],
        rows [(31, 1), (13, 6), (7, 6)] [(0, 7), (19, 6)] [Instr.tmbegin] ++
        rows [(31, 1)] [(0, 25)] [Instr.tmend, .tmabort] ++
        rows [(31, 1), (19, 6)] [(0, 19)] [Instr.tmstat]⟩,
    ⟨0x1E, [((3, 4), (· < 5))],
        rows [(31, 1), (19, 6), (13, 6), (7, 6), (2, 1), (0, 2)] [(3, 4)] [Instr.salloc] ++
        rows [(31, 1), (13, 6)] [(0, 13), (19, 6)] [Instr.sfree] ++
        rows [(31, 1), (13, 6), (7, 6), (2, 1), (0, 2)] [(3, 4), (19, 6)] [Instr.smap] ++
        rows [(31, 1), (13, 6)] [(0, 13), (19, 6)] [Instr.sunmap, .sflush]⟩,
    ⟨0x1F, [((4, 3), (· = 0))],
        rows [(31, 1), (19, 6), (13, 6), (7, 6), (0, 3)] [(3, 4)] [Instr.lds, .sts]⟩,
    ⟨0x20, [((3, 4), (· < 8))],
        rows [(31, 1), (19, 6), (13, 6)] [(0, 13)] [Instr.enqCopy, .enqMatw, .enqMata, .enqMdrain, .enqGather, .enqScat, .enqMerge, .enqKscan]⟩,
    ⟨0x21, [((3, 4), (· < 2))],
        rows [(31, 1), (13, 6)] [(0, 13), (19, 6)] [Instr.chain] ++
        rows [(31, 1), (19, 6), (13, 6), (1, 1), (0, 1)] [(2, 11)] [Instr.cstat]⟩,
    ⟨0x22, [((3, 4), (· < 7))],
        rows [(31, 1), (19, 6), (13, 6)] [(0, 13)] [Instr.kvopen, .kvopenDs] ++
        rows [(31, 1), (13, 6)] [(0, 13), (19, 6)] [Instr.kvclose] ++
        rows [(31, 1), (19, 6), (13, 6), (7, 6)] [(0, 7)]
          [Instr.kvapp, .kvtrunc, .kvfork, .kvlook, .kvlookIns, .kvallocGrow, .kvallocGrant, .kvallocRsv, .kvallocDem]⟩,
    ⟨0x23, [((3, 4), (· < 5))],
        rows [(31, 1), (19, 6), (13, 6), (7, 6)] [(0, 7)] [Instr.dsin, .dsgen, .dstrunc] ++
        rows [(31, 1), (13, 6), (7, 6)] [(0, 7), (19, 6)] [Instr.dssnap, .dsplay]⟩,
    ⟨0x24, [((3, 4), (· < 2))],
        rows [(31, 1), (19, 6), (13, 6), (7, 6)] [(0, 7)] [Instr.launch] ++
        rows [(31, 1), (19, 6), (13, 6)] [(0, 13)] [Instr.launchWait]⟩,
    ⟨0x25, [((3, 4), (· < 5))],
        rows [(31, 1), (19, 6), (13, 6), (7, 6)] [(0, 7)] [Instr.role] ++
        rows [(31, 1), (19, 6), (13, 6)] [(0, 13)] [Instr.roleAsk] ++
        rows [(31, 1), (13, 6), (7, 6)] [(0, 7), (19, 6)] [Instr.qpush] ++
        rows [(31, 1), (19, 6), (13, 6), (7, 6)] [(0, 7)] [Instr.qpop, .qtry]⟩,
    ⟨0x26, [((3, 4), (· < 4))],
        rows [(31, 1), (13, 6)] [(0, 13), (19, 6)] [Instr.mig, .migTrap] ++
        rows [(31, 1)] [(0, 25)] [Instr.mret, .mjoin] ++
        rows [(31, 1), (19, 6)] [(0, 19)] [Instr.mstat]⟩,
    ⟨0x27, [((3, 4), (· < 2))],
        rows [(31, 1), (13, 6)] [(0, 13), (19, 6)] [Instr.signalQ, .signalM, .msig]⟩,
    ⟨0x28, [((3, 4), (· < 3))],
        rows [(31, 1), (13, 6)] [(0, 13), (19, 6)] [Instr.pcmark] ++
        rows [(31, 1)] [(0, 25)] [Instr.pcsample] ++
        rows [(31, 1), (19, 6), (13, 6)] [(0, 13)] [Instr.pcread]⟩,
    ⟨0x3E, [],
        rows [(0, 25)] [(31, 1)] [Instr.immWord]⟩,
    ⟨0x3F, [((23, 2), (· ≠ 3))],
        rows [(20, 3), (19, 1), (18, 1), (15, 3), (14, 1), (8, 6)] [(0, 8), (31, 1), (23, 2)] [Instr.modWord] ++
        rows [(20, 3), (19, 1), (18, 1), (16, 2), (14, 2), (0, 14)] [(31, 1), (23, 2)] [Instr.modxWord] ++
        rows [(0, 8)] [(31, 1), (8, 17)] [Instr.hintStream] ++
        rows [] [(31, 1), (0, 25)] [Instr.hintYield]⟩ ]

/-- The table is the decoder's: at the number of each major both compute to the same tests. -/
theorem decoder_majors (n : Nat) :
    ∀ M ∈ majors, n / 33554432 % 64 = M.num → (majorOk n, minorOk n, rowOf n) = (true, minorFor n M.minor, rowFor n M.rows) := by
  intro M hM hm
  unfold majorOk minorOk rowOf
  rw [hm]
  clear hm
  revert M
  exact List.map_inj_left.1 rfl

/-! ## Telling the rows of a major from each other -/

/-- A window lies in another. -/
noncomputable def inside (q r : Window) : Bool := r.1 ≤ q.1 && q.1 + q.2 ≤ r.1 + r.2
/-- What two windows have in common. -/
noncomputable def meet (q r : Window) : Window := (max q.1 r.1, min (q.1 + q.2) (r.1 + r.2) - max q.1 r.1)
/-- The bound of a row holds of the fields `x`. -/
noncomputable def Row.bounded (e : Row) (x : Window → Nat) : Bool := e.limit.all fun b => x b.1 < b.2
/-- No word of the row `e` carries the fixed bits of the row `d`: they differ in a window of both, or those of `d` break the bound of `e`. -/
noncomputable def Row.tells (d e : Row) : Bool :=
  d.fixed.any fun r =>
    (e.fixed.any fun q => inside (meet q r) q && inside (meet q r) r && window e.code (meet q r) != window d.code (meet q r)) ||
    e.limit.any fun b => inside b.1 r && b.2 ≤ window d.code b.1

theorem window_inside {n c : Nat} {q r : Window} (hq : inside q r = true) (h : window n r = window c r) : window n q = window c q := by
  obtain ⟨hlo, hhi⟩ := Bool.and_eq_true_iff.1 hq
  obtain ⟨i, hi⟩ := Nat.exists_eq_add_of_le (of_decide_eq_true hlo)
  have hw : i + q.2 ≤ r.2 := by
    have hsum := of_decide_eq_true hhi
    rw [hi, Nat.add_assoc] at hsum
    exact Nat.le_of_add_le_add_left hsum
  obtain ⟨d, hd⟩ := Nat.exists_eq_add_of_le hw
  have hsub : ∀ m, window m q = window m r / 2 ^ i % 2 ^ q.2 := fun m => by
    rw [window_eq, window_eq, hi, hd, Nat.pow_add, Nat.pow_add, Nat.pow_add, Nat.mul_assoc,
      Nat.mod_mul_right_div_self, Nat.mod_mul_right_mod, Nat.div_div_eq_div_mul]
  rw [hsub, hsub, h]
theorem not_matches_of_tells {d e : Row} {n : Nat} (hde : d.tells e = true) (he : Matches n e.code e.fixed) (hb : e.bounded (window n) = true) :
    ¬ Matches n d.code d.fixed := by
  intro hd
  obtain ⟨r, hr, hrow⟩ := List.any_eq_true.1 hde
  have hdr := matches_iff.1 hd r hr
  rcases Bool.or_eq_true_iff.1 hrow with hfixed | hlimit
  · obtain ⟨q, hq, hdiff⟩ := List.any_eq_true.1 hfixed
    obtain ⟨hin, hne⟩ := Bool.and_eq_true_iff.1 hdiff
    obtain ⟨hinq, hinr⟩ := Bool.and_eq_true_iff.1 hin
    exact bne_iff_ne.1 hne ((window_inside hinq (matches_iff.1 he q hq)).symm.trans (window_inside hinr hdr))
  · obtain ⟨b, hbound, hbreaks⟩ := (Option.any_eq_true ..).1 hlimit
    obtain ⟨hin, hge⟩ := Bool.and_eq_true_iff.1 hbreaks
    have hlt : window n b.1 < b.2 := of_decide_eq_true ((Option.all_eq_true ..).1 hb b hbound)
    rw [window_inside hin hdr] at hlt
    exact Nat.not_lt_of_le (of_decide_eq_true hge) hlt
/-- A word that keeps a row's fixed bits and its bound is taken by that row, if the rows before are told from it. -/
theorem rowFor_of_tells {l : List Row} (hl : l.Pairwise fun d e => d.tells e = true) {e : Row} (hel : e ∈ l) {n : Nat} (he : Matches n e.code e.fixed)
    (hb : e.bounded (window n) = true) : rowFor n l = some (e.fill (fld n)) := by
  induction l with
  | nil => exact absurd hel List.not_mem_nil
  | cons d l ih =>
    obtain ⟨hd, hl⟩ := List.pairwise_cons.1 hl
    rcases List.mem_cons.1 hel with rfl | hel
    · exact if_pos he
    · exact (if_neg (not_matches_of_tells (hd e hel) he hb)).trans (ih hl hel)

/-! ## Words of the table -/

/-- The words of a row have room for its operands, which leave its fixed windows and the number of its major `M` as they are. -/
noncomputable def Row.wordOk (M : Major) (e : Row) : Bool :=
  fits e.places e.code && decide e.places.Nodup && ((25, 6) :: e.fixed).all (fun q => e.places.all (apart · q)) && window e.code (25, 6) == M.num
/-- The minor of a row's words is assigned: its windows are fixed, or the row's bound, which is at a place, keeps them to assigned values. -/
noncomputable def Row.minorOk (M : Major) (e : Row) : Bool :=
  (e.limit.all fun b => decide (b.1 ∈ e.places)) &&
  M.minor.all fun t => e.places.all (apart · t.1) && t.2 (window e.code t.1) || e.limit.any fun b => b.1 == t.1 && (List.range b.2).all t.2
noncomputable def Major.ok (M : Major) : Bool := (M.rows.all fun e => e.wordOk M && e.minorOk M) && decide (M.rows.Pairwise fun d e => d.tells e = true)
theorem majors_ok : majors.all Major.ok = true := by decide +kernel

theorem minorFor_eq_true {n : Nat} {l : List (Window × (Nat → Bool))} (h : ∀ t ∈ l, t.2 (window n t.1) = true) : minorFor n l = true := by
  induction l with
  | nil => rfl
  | cons t l ih =>
    obtain ⟨ht, hl⟩ := List.forall_mem_cons.1 h
    cases l
    · exact ht
    · exact Bool.and_eq_true_iff.2 ⟨ht, ih hl⟩

/-- Two functions of a row that compute to the same on each row of the table. -/
theorem rows_agree {β : Type} (f g : Row → β) (h : majors.map (fun M => M.rows.map f) = majors.map fun M => M.rows.map g) :
    ∀ M ∈ majors, ∀ e ∈ M.rows, f e = g e :=
  fun M hM => List.map_inj_left.1 (List.map_inj_left.1 h M hM)

section
variable {M : Major} (hM : M ∈ majors) {e : Row} (he : e ∈ M.rows) (v : Operands)
include hM he

theorem encodeNat_fill : encodeNat (e.fill v) = word v e.places e.code :=
  rows_agree (fun e => encodeNat (e.fill v)) (fun e => word v e.places e.code) rfl M hM e he
/-- A row's bound is what R498 asks of the fields of its instruction. -/
theorem bounded_eq_fieldsOk : (e.bounded fun p => (v p.1 p.2).toNat) = (e.limit.isNone || fieldsOk (e.fill v)) :=
  rows_agree (fun e => e.bounded fun p => (v p.1 p.2).toNat) (fun e => e.limit.isNone || fieldsOk (e.fill v)) rfl M hM e he
theorem wordOk_and_minorOk : e.wordOk M = true ∧ e.minorOk M = true :=
  Bool.and_eq_true_iff.1 (List.all_eq_true.1 (Bool.and_eq_true_iff.1 (List.all_eq_true.1 majors_ok M hM)).1 e he)
omit he in
theorem tells_pairwise : M.rows.Pairwise fun d e => d.tells e = true :=
  of_decide_eq_true (Bool.and_eq_true_iff.1 (List.all_eq_true.1 majors_ok M hM)).2
end

theorem Row.wordOk_iff {M : Major} {e : Row} : e.wordOk M = true ↔ ((fits e.places e.code = true ∧ e.places.Nodup) ∧
    (∀ p ∈ e.places, apart p (25, 6) = true) ∧ ∀ q ∈ e.fixed, ∀ p ∈ e.places, apart p q = true) ∧ window e.code (25, 6) = M.num := by
  simp only [Row.wordOk, Bool.and_eq_true, decide_eq_true_eq, beq_iff_eq, List.all_eq_true, List.forall_mem_cons]

section
variable {M : Major} (hM : M ∈ majors) {e : Row} (he : e ∈ M.rows) {v : Operands}
include hM he

theorem bounded_word (hfields : fieldsOk (e.fill v) = true) : e.bounded (window (word v e.places e.code)) = true := by
  obtain ⟨hword, hminor⟩ := wordOk_and_minorOk hM he
  obtain ⟨⟨⟨hfits, _⟩, _⟩, _⟩ := Row.wordOk_iff.1 hword
  obtain ⟨hplace, _⟩ := Bool.and_eq_true_iff.1 hminor
  have hb := bounded_eq_fieldsOk hM he v
  rw [hfields, Bool.or_true] at hb
  refine (Option.all_eq_true ..).2 fun b hbe => ?_
  rw [word_place v hfits b.1 (of_decide_eq_true ((Option.all_eq_true ..).1 hplace b hbe))]
  exact (Option.all_eq_true ..).1 hb b hbe
theorem minorFor_word (hb : e.bounded (window (word v e.places e.code)) = true) : minorFor (word v e.places e.code) M.minor = true := by
  obtain ⟨hword, hminor⟩ := wordOk_and_minorOk hM he
  obtain ⟨⟨⟨hfits, _⟩, _⟩, _⟩ := Row.wordOk_iff.1 hword
  obtain ⟨_, htests⟩ := Bool.and_eq_true_iff.1 hminor
  refine minorFor_eq_true fun t ht => ?_
  rcases Bool.or_eq_true_iff.1 (List.all_eq_true.1 htests t ht) with hfixed | hlimit
  · obtain ⟨hapart, hpass⟩ := Bool.and_eq_true_iff.1 hfixed
    rwa [word_apart v hfits (List.all_eq_true.1 hapart)]
  · obtain ⟨b, hbe, hpass⟩ := (Option.any_eq_true ..).1 hlimit
    obtain ⟨hwindow, hall⟩ := Bool.and_eq_true_iff.1 hpass
    rw [← beq_iff_eq.1 hwindow]
    exact List.all_eq_true.1 hall _ (List.mem_range.2 (of_decide_eq_true ((Option.all_eq_true ..).1 hb b hbe)))
/-- The decoder takes a row's word by that row. -/
theorem decodeWord_word (hwf : wellFormed (e.fill v) = true) : decodeWord (word v e.places e.code) = .ok (e.fill v) := by
  obtain ⟨⟨⟨hfits, _⟩, hmajor, hfixed⟩, hnum⟩ := Row.wordOk_iff.1 (wordOk_and_minorOk hM he).1
  obtain ⟨htype, hfields⟩ := Bool.and_eq_true_iff.1 hwf
  have hb := bounded_word hM he hfields
  have hmatches : Matches (word v e.places e.code) e.code e.fixed := matches_iff.2 fun q hq => word_apart v hfits (hfixed q hq)
  have hfill : e.fill (fld (word v e.places e.code)) = e.fill v := fill_congr (fld_word v hfits) e.form
  have hread := decoder_majors _ M hM ((word_apart v hfits hmajor).trans hnum)
  rw [minorFor_word hM he hb, rowFor_of_tells (tells_pairwise hM) he hmatches hb, hfill] at hread
  obtain ⟨hassigned, hrest⟩ := Prod.mk.inj hread
  obtain ⟨hminor, hrow⟩ := Prod.mk.inj hrest
  simp only [decodeWord, hassigned, hminor, hrow, htype, hfields, Bool.not_true, Bool.false_eq_true, if_false]
end

/-- R478, R498: the decoder reads the instruction from its word, if it is well-formed and has one, and the word has 32 bits. -/
def Decodes (i : Instr) : Prop := hasWord i = true → wellFormed i = true → decodeWord (encodeNat i) = .ok i ∧ encodeNat i < 2 ^ 32

theorem row_decodes {M : Major} (hM : M ∈ majors) {e : Row} (he : e ∈ M.rows) : Form.All Decodes e.places e.form := by
  obtain ⟨⟨⟨hfits, hnodup⟩, _⟩, _⟩ := Row.wordOk_iff.1 (wordOk_and_minorOk hM he).1
  refine all_of_fill hnodup e.form fun v _ hwf => ?_
  rw [show encodeNat (Form.fill e.places e.form v) = word v e.places e.code from encodeNat_fill hM he v]
  exact ⟨decodeWord_word hM he hwf, word_lt v hfits⟩

/-- The rows of all majors in the order of the constructors, which is the table's but for major 0x01. -/
noncomputable def constructorRows : List Row :=
  let l := majors.flatMap Major.rows
  l.take 6 ++ [5, 6, 7, 8, 1, 9, 0, 4, 2, 10, 3].filterMap (fun k => (l.drop 6)[k]?) ++ l.drop 17
theorem constructorRows_decode : ∀ e ∈ constructorRows, Form.All Decodes e.places e.form := by
  intro e he
  have hmem : e ∈ majors.flatMap Major.rows := by
    rcases List.mem_append.1 he with he | he
    · rcases List.mem_append.1 he with he | he
      · exact List.mem_of_mem_take he
      · obtain ⟨k, _, hk⟩ := List.mem_filterMap.1 he
        exact List.mem_of_mem_drop (List.mem_of_getElem? hk)
    · exact List.mem_of_mem_drop he
  obtain ⟨M, hM, heM⟩ := List.mem_flatMap.1 hmem
  exact row_decodes hM heM

/-- `P` under the premises that the words of each row are read. -/
def GivenRows (P : Prop) : List Row → Prop
  | [] => P
  | e :: l => Form.All Decodes e.places e.form → GivenRows P l
theorem of_givenRows {P : Prop} {l : List Row} (hl : ∀ e ∈ l, Form.All Decodes e.places e.form) (h : GivenRows P l) : P := by
  induction l with
  | nil => exact h
  | cons e l ih =>
    obtain ⟨he, hl⟩ := List.forall_mem_cons.1 hl
    exact ih hl (h he)

theorem decodes_of_event {i : Instr} (h : hasWord i = false) : Decodes i := fun hw => absurd (h.symm.trans hw) Bool.false_ne_true

set_option maxRecDepth 2000 in
/-- Every instruction is read from its word: the premises of the case distinction by constructors are the rows, one below the other, and then
the events. -/
theorem decodes : ∀ i : Instr, Decodes i := by
  apply of_givenRows constructorRows_decode (@Instr.rec Decodes)
  all_goals exact decodes_of_event rfl

/-! ## The bytes of a word -/

/-- What the decoder of bytes makes of a word's reading, before the rest of the bytes. -/
noncomputable def readWith (rest : List Byte) : Except DecodeErr Instr → Except DecodeErr (Instr × List Byte)
  | .ok i => .ok (i, rest)
  | .error e => .error e
/-- The decoder at four bytes and more, with the decoder of words as a variable: the kernel would else evaluate it on an unknown word. -/
theorem decode_append {f : Nat → Except DecodeErr Instr} {g : List Byte → Except DecodeErr (Instr × List Byte)} (hf : decodeWord = f) (hg : g = decode)
    {b0 b1 b2 b3 : Byte} {i : Instr} (hd : f (wordOfBytes b0 b1 b2 b3) = .ok i) (rest : List Byte) : g (b0 :: b1 :: b2 :: b3 :: rest) = .ok (i, rest) := by
  delta decode at hg
  rw [hf] at hg
  subst hg
  exact congrArg (readWith rest) hd
/-- The decoder at the bytes of a word, whatever follows them. -/
theorem decode_bytesOfWord {n : Nat} {i : Instr} (hn : n < 2 ^ 32) (hd : decodeWord n = .ok i) (rest : List Byte) :
    decode (bytesOfWord n ++ rest) = .ok (i, rest) := by
  obtain ⟨b0, b1, b2, b3, hb, hw⟩ := Machine.wordOfBytes_bytesOfWord hn
  rw [← hw] at hd
  rw [hb]
  exact decode_append rfl rfl hd rest

/-- Settles O58: every word is read by the row of its instruction in the decoder's table, and the bytes of a word give the word. -/
theorem decodeEncode : Obligations.DecodeEncode := by
  unfold Obligations.DecodeEncode
  intro i rest hw hf
  obtain ⟨hd, hn⟩ := decodes i hw hf
  refine ⟨?_, hn⟩
  rw [encode, if_pos hw]
  exact decode_bytesOfWord hn hd rest

/-! ## The words of the spec's examples -/

/-- Settles O57, by evaluating the decoder at each of the words. -/
theorem decodeWords : Obligations.DecodeWords := by
  unfold Obligations.DecodeWords
  and_intros
  all_goals decide +kernel

end Sys2Proof.Encoding
end
